-- ==== Sys2Proof/Word.lean ====
section
/-! DEFINITION. The words the ZC24 handles and the plainest facts about them (R10: data is little-endian). -/

namespace Sys2Proof

/-- One byte. -/
abbrev Byte := BitVec 8

/-- A 16-bit word. -/
abbrev W16 := BitVec 16

/-- A 32-bit word: ring indices, queue page registers. -/
abbrev W32 := BitVec 32

/-- A 64-bit word: steps, addresses, time in ns. -/
abbrev W64 := BitVec 64

/-- A run of bytes, the byte at the lowest address first. -/
abbrev Bytes := List Byte

end Sys2Proof
end

