-- ==== Sys2Proof/Syntax.lean ====
section
/-! DEFINITION. The commands of the ZC24: one constructor of `Instr` per row of spec/opcode_table.json, with the operands
the command brings from outside (the host, a management client, a peer package, the air interface's clocks, the physical
world). Nothing here has a meaning; meanings stand under Machine/. -/

namespace Sys2Proof

/-- A write of the host's before the write that carries it (R128, R132): bytes put into its own memory under a PASID, or a 32-bit word
written to BAR2, at an offset that has no command of its own (R379, R393). -/
inductive HostWrite where
  | memory (pasid iova : Nat) (bytes : Bytes)
  | bar2 (off : Nat) (value : W32)
  deriving DecidableEq, Repr

/-- Whose command an engine event concerns: a context's, or a radio command queue's (R133, R279). -/
inductive Owner where
  | context (c : Nat)
  | radio (logical : Nat)
  deriving DecidableEq, Repr

/-- How a fetch of a loam page from its source ended (R201). -/
inductive FetchResult where
  | ok
  | failed
  deriving DecidableEq, Repr

/-- One vector operation of slot C (R251). `mul` and `mulConj` write a VA register, whose 48 bits hold every product (R253); a negative
amount of `shift` shifts left. -/
inductive VecOp where
  | add (d a b : Nat)
  | sub (d a b : Nat)
  | mul (acc a b : Nat)
  | mulConj (acc a b : Nat)
  | mac (acc a b : Nat)
  | macConj (acc a b : Nat)
  | magSq (acc a : Nat)
  | permute (d a idx : Nat)
  | shift (d a : Nat) (amount : Int)
  | moveAcc (d acc : Nat) (amount : Nat)
  | clearAcc (acc : Nat)
  deriving DecidableEq, Repr

/-- A load or store of slot A (X memory) or slot B (Y memory), R251: `size` bytes, 4 to 128, at the address in G register
`g` plus `off`; `post` is added to the G register afterwards. -/
inductive MemOp where
  | loadV (v g : Nat) (off post : Int)
  | storeV (v g : Nat) (off post : Int)
  | loadG (d g : Nat) (off post : Int)
  | storeG (a g : Nat) (off post : Int)
  | load (v g size : Nat) (off post : Int)
  | store (v g size : Nat) (off post : Int)
  deriving DecidableEq, Repr

/-- A scalar operation or branch of slot D (R251). The manual names no scalar function, so `arith` carries a code. -/
inductive ScalarOp where
  | arith (code d a b : Nat)
  | imm (d : Nat) (value : W32)
  | branch (target : Nat)
  | branchIfZero (a target : Nat)
  | branchIfNotZero (a target : Nat)
  deriving DecidableEq, Repr

/-- One 128-bit bundle (R251). Each operation carries the stage number of R255, 0 outside a LOOPM kernel. -/
structure Bundle where
  a : Option (Nat × MemOp)
  b : Option (Nat × MemOp)
  c : Option (Nat × VecOp)
  d : Option (Nat × ScalarOp)
  deriving DecidableEq, Repr

/-- What issues beside an operation of slot D that is a command of its own (R251): the operations of slots A, B and C, and the stage
number of the slot D operation (R255). -/
structure Slots where
  stage : Nat
  a : Option (Nat × MemOp)
  b : Option (Nat × MemOp)
  c : Option (Nat × VecOp)
  deriving DecidableEq, Repr

/-- Where such a command issues: the core, and what its bundle holds beside it. -/
structure Issue where
  core : Nat
  x : Slots
  deriving DecidableEq, Repr

/-- The ACS group's modes (R256, R258): in T8 the forward or the backward recursion. -/
inductive AcsMode where
  | k7
  | t8
  | t8Back
  deriving DecidableEq, Repr

/-- One section of a U-plane frame, as R291 and R292 name it. -/
structure Section where
  /-- Start of the symbol the section names, NS64 of the cell's time base. -/
  symbolStart : W64
  /-- startPrbu: the first PRB of the section. -/
  startPrb : Nat
  /-- The udCompHdr, absent when STATIC_COMP is set: method and width. -/
  compHdr : Option (Nat × Nat)
  /-- Mantissas of each PRB with its exponent parameter. -/
  prbs : List (Nat × List Int)
  bytes : Bytes
  deriving DecidableEq, Repr

/-- PTP message types the transparent clock and the servos tell apart (R309, R320). -/
inductive PtpKind where
  | sync (twoStep : Bool)
  | delayReq
  | pdelayReq
  | pdelayResp
  | followUp
  | delayResp
  | announce
  | signaling
  deriving DecidableEq, Repr

/-- The data set of an Announce message that masters are compared by (R320; IEEE 1588). -/
structure Announce where
  clockClass : Nat
  accuracy : Nat
  variance : Nat
  priority2 : Nat
  grandmaster : Nat
  steps : Nat
  deriving DecidableEq, Repr, Inhabited

/-- What a PTP message says beside its type, domain and correctionField (R320; IEEE 1588): the port it comes from, its sequence number, the
time it carries in ns, the port a Delay_Resp answers, and an Announce's data set. -/
structure PtpMsg where
  source : Nat
  seq : Nat
  time : Nat
  target : Nat
  announce : Announce
  deriving DecidableEq, Repr, Inhabited

/-- What a frame carries, by its first 64 bytes (R289). -/
inductive FrameBody where
  | ptp (kind : PtpKind) (domain : Nat) (correction : W64) (msg : PtpMsg)
  | ecpri (revisionOk concatZero sizeOk : Bool) (msgType : Nat) (eaxc : W16) (sections : List Section)
  | service
  deriving DecidableEq, Repr

/-- A fronthaul frame with the properties R288 to R309 judge it by. -/
structure Frame where
  bytes   : Bytes
  fcsOk   : Bool
  vlans   : Nat
  vlanId  : Nat
  pcp     : Nat
  macControl : Bool
  body    : FrameBody
  deriving DecidableEq, Repr

/-- What XFER moves (R280, R297, R393): between core memory, radio stacked memory, radio scratchpad of a logical engine,
queues, and the radio host channel. Addresses are byte offsets in the place named. `frameToQueue` is a core's item for an
egress queue, given as the frame it spells: the layouts of Ethernet, eCPRI and O-RAN are outside the manual. -/
inductive XferOp where
  | coreToStack (core off len : Nat)
  | stackToCore (core off len : Nat)
  | coreToPad (core logical off len : Nat)
  | padToCore (core logical off len : Nat)
  | stackToPad (soff logical off len : Nat)
  | padToStack (logical off soff len : Nat)
  | queueToCore (q core : Nat)
  | coreToQueue (core q len : Nat)
  | coreToHost (core len : Nat) (tag : Nat)
  | frameToQueue (q cell : Nat) (f : Frame)
  deriving DecidableEq, Repr

/-- Who performs a queue operation (R297, R304): a device unit, a DSP core, or a session through Q_OP. -/
inductive QueueUser where
  | unit
  | core (n : Nat)
  | session (n : Nat)
  | host
  deriving DecidableEq, Repr

/-- A 256-byte flit (R336): header, 244 packet bytes, CRC-32C. -/
structure Flit where
  header : W64
  payload : Bytes
  crc : W32
  deriving DecidableEq, Repr

/-- What a scrub read found (R460, R461). -/
inductive ScrubResult where
  | clean
  | corrected
  | uncorrectable
  deriving DecidableEq, Repr

/-- A unit of the package, with the kinds of R466. -/
inductive UnitId where
  | package
  | cd (n : Nat)
  | me (n : Nat)
  | stack (n : Nat)
  | bd (n : Nat)
  | dsp (n : Nat)
  | xd (n : Nat)
  | xp (n : Nat)
  | fd (n : Nat)
  | fh (n : Nat)
  | hd
  | link (n : Nat)
  | timeBase (n : Nat)
  deriving DecidableEq, Repr

/-- A place a scrub read or an uncorrectable word lies in (R458, R462). -/
inductive Loc where
  | dpa (a : Nat)
  | ueDescriptor (i : Nat)
  | contextDescriptor (c : Nat)
  | dspData (core a : Nat)
  | dspInstr (core a : Nat)
  | hubFirmware
  | paramStore (engine : Nat)
  | queuePool (die : Nat)
  | fabricBuffers (die : Nat)
  deriving DecidableEq, Repr

/-- What a shadow or third run gave (R476): its output bytes and counts. -/
structure ShadowResult where
  bytes : Bytes
  sat : Nat
  inv : Nat
  satHi : Nat
  satLo : Nat
  firstFlagged : Nat
  engine : Nat
  deriving DecidableEq, Repr

/-- What a failed host request was for (R376). -/
inductive HostRequest where
  | contextRequest (c : Nat)
  | streamedRead (c : Nat)
  | demandFetch (c slice page : Nat)
  | prefetch (slice page : Nat)
  | loamMap (sess slice : Nat)
  | sliceSave (slice : Nat)
  | sliceRestore (slice : Nat)
  | radioChannel (n : Nat) (down : Bool)
  deriving DecidableEq, Repr

/-- What ended host access (R377, R541). -/
inductive FunctionReset where
  | flr
  | d3hot
  | linkDown
  deriving DecidableEq, Repr

/-- The dictionary's transports (R430). -/
inductive Transport where
  | mailbox
  | mgmtA
  | mgmtB
  deriving DecidableEq, Repr

/-- Why a management frame was discarded (R415, R430, R432, R434). -/
inductive DiscardReason where
  | sessionAuth (sess : Nat)
  | malformed
  | sessionless
  | datagram
  /-- An Ethernet frame as it arrives: the port itself finds out whether to answer, take or discard it. -/
  | packet (bytes : Bytes)
  deriving DecidableEq, Repr

/-- An endorsement block as it arrives (R418): custodian byte, nonce, signature. -/
structure Endorsement where
  custodian : Nat
  nonce : BitVec 128
  signature : Bytes
  deriving DecidableEq, Repr

/-- What the hub's measurements supply to one control period (R509, R518). -/
structure PowerSample where
  /-- Static power and the dynamic power of every unit but the matrix engines, in mW. -/
  otherMw : Nat
  /-- Hottest valid die sensor, in 1/16 °C. -/
  hottest : Int
  deriving DecidableEq, Repr

/-- One rail's PMBus telemetry (R507). -/
structure RailSample where
  rail : Nat
  answered : Bool
  mv : Nat
  ma : Nat
  status : Nat
  deriving DecidableEq, Repr

/-- The conditions of R518. -/
inductive RailCondition where
  | low (mv : Nat)
  | high (mv : Nat)
  | regulatorFault
  | overcurrent (ma : Nat)
  | overcurrentClear
  | backInTolerance
  deriving DecidableEq, Repr

/-- What the thermal model reads each millisecond (R513). -/
structure ThermalSample where
  coolantIn : Int
  coolantOut : Int
  flowMlpm : Nat
  hottest : Int
  deriving DecidableEq, Repr

/-- What the hardware shows the ROM and the firmware in a start-up stage (R526). -/
structure BootInput where
  /-- The SRAM region read with the helper data of flash device A and B gives its seed (R405). -/
  pufA : Bool
  pufB : Bool
  /-- Local PLLs locked within 10 ms, numbered as DIE_PLL_LOCK (R489). -/
  diesLocked : W32
  /-- Stacks whose training passed. -/
  stacksTrained : W16
  /-- PCIe lanes and rate code after training (R401). -/
  pcie : W16
  /-- The image's numerics firmware meets R110 and R111. -/
  numfwOk : Bool
  deriving DecidableEq, Repr

/-- The calibrated units of R329. -/
inductive CalUnit where
  | trig (n : Nat)
  | ppsOut
  | cap (n : Nat)
  | ppsIn
  | port (n : Nat)
  deriving DecidableEq, Repr

/-- The commands, one per row of the table. `sess` is the session that delivers a dictionary operation; `ak` counts AK
cycles from the running command's cycle 0, idle included. -/
inductive Instr where
  -- Host queues (R128 to R133)
  | doorbell (slice queue : Nat) (tail : W32) (writes : List HostWrite)
  | ringCfg (slice queue : Nat) (value : W32) (cmdBase cplBase : W64)
  | cplHead (slice queue : Nat) (value : W32)
  -- Placement, grants, commit and kill (R150 to R158, R227 to R243)
  | contextPlaced (ctx : Nat)
  | engineGrant (ctx : Nat) (akToStart : Nat)
  | dmaSlotGrant (ctx : Nat)
  | commit (who : Owner)
  | passBoundary (engine : Nat) (ak : Nat)
  | lcPreemptKill (engine : Nat) (ak : Nat)
  | killRequest (who : Owner) (cause : Nat) (ak : Nat)
  | killDone (who : Owner) (ak : Nat)
  | engineCheckFault (engine : Nat)
  -- Engine commands (R61 to R127, R144)
  | matmul (who : Owner)
  | cmatmul (who : Owner)
  | fullSum (who : Owner)
  | map (who : Owner)
  | binary (who : Owner)
  | convert (who : Owner)
  | lineMax (who : Owner)
  | softmaxStep (who : Owner)
  | softmaxExact (who : Owner)
  | normalise (who : Owner)
  | normStats (who : Owner)
  | normApply (who : Owner)
  -- DMA commands (R141, R144 to R148)
  | copy (ctx : Nat)
  | copy2d (ctx : Nat)
  | fill (ctx : Nat)
  | transpose (ctx : Nat)
  | toPanels (ctx : Nat)
  | gather (ctx : Nat)
  | fillRandom (ctx : Nat)
  | hostRead (ctx : Nat)
  | hostWrite (ctx : Nat)
  | loamAcquire (ctx : Nat)
  | loamRelease (ctx : Nat)
  -- Fabric commands (R142, R355 to R357)
  | fload (ctx : Nat)
  | fstore (ctx : Nat)
  | fstoreShared (ctx : Nat)
  | faddI64 (ctx : Nat)
  | ffetchAddI64 (ctx : Nat)
  | fswapI64 (ctx : Nat)
  | fcasI64 (ctx : Nat)
  | faddF32Fast (ctx : Nat)
  | faddKrec (ctx : Nat)
  -- Hub commands (R143, R166 to R168)
  | nop (ctx : Nat)
  | wait (ctx : Nat)
  | waitMem (ctx : Nat)
  | fenceFabric (ctx : Nat)
  | setSeed (ctx : Nat)
  | readTime (ctx : Nat)
  -- Scratchpads, stacked memory, loam pool (R170 to R213)
  | spillDone (ctx : Nat)
  | beReclaim (ctx : Nat)
  | clearDone (ctx : Nat)
  | fetchCompletion (slice page : Nat) (peer : Bytes) (result : FetchResult)
  | prefetchStart (slice : Nat)
  | ageTick
  | loamMapCommit (sess slice : Nat) (value : Nat)
  | loamQuotaPages (sess slice : Nat) (value : Nat)
  | privQuotaFrames (sess slice : Nat) (value : Nat)
  | spQuotaBytes (sess slice : Nat) (value : Nat)
  | lcFloorBytes (sess : Nat) (value : Nat)
  -- Tilth table and radio windows (R214 to R228)
  | tilthLoadData (sess : Nat) (data : Bytes)
  | tilthPrepared
  | windowStart (entry occurrence : Nat)
  | windowEnd (entry occurrence : Nat)
  | radioStart (logical : Nat) (akToStart : Nat)
  | setClass (sess : Nat) (value : Nat)
  | move (sess : Nat) (value : Nat)
  -- DSP cores (R249 to R263)
  | handlerEntry (core : Nat)
  | bundle (core : Nat) (b : Bundle)
  | loopm (site : Issue) (n s ii : Nat)
  | loop (site : Issue) (n len : Nat)
  | acsSetup (site : Issue) (mode : AcsMode) (polys : List Nat) (softReg decReg : Nat)
  | acsStep (site : Issue)
  | acsLoadpm (site : Issue) (v : Nat)
  | acsStorepm (site : Issue) (v : Nat)
  | acsBest (site : Issue) (g : Nat)
  | acsTb (site : Issue) (addr g : Nat)
  | engq (site : Issue) (logical cell addr : Nat)
  | code (site : Issue) (addr : Nat)
  | xfer (site : Issue) (op : XferOp)
  | ueRd (site : Issue) (idx addr : Nat)
  | ueWr (site : Issue) (idx addr : Nat)
  | ueSync (site : Issue)
  | ueAccessArrival (core : Nat)
  | halt (site : Issue)
  -- Coding and FFT engines (R264 to R270)
  | ldpcDecode (die : Nat)
  | ldpcEncode (die : Nat)
  | polarDecode (die : Nat)
  | polarEncode (die : Nat)
  | fft (die : Nat)
  | inverseFft (die : Nat)
  | coderJobEnd (die slot : Nat)
  | progLoadData (sess core : Nat) (data : Bytes)
  | progCommit (sess core : Nat) (digest : Bytes)
  | progSwap (core : Nat)
  | moveTailEnd (cell : Nat)
  -- Fronthaul and the queue primitive (R287 to R314)
  | frameReceived (port : Nat) (f : Frame)
  | frameTransmitted (port : Nat)
  | queueRead (q n : Nat) (by_ : QueueUser)
  | queueRelease (q : Nat) (i : W32) (by_ : QueueUser)
  | mark (q : Nat) (by_ : QueueUser)
  | rewind (q : Nat) (by_ : QueueUser)
  | flush (q : Nat) (by_ : QueueUser)
  | staleCheck (q : Nat)
  | queueSample (q : Nat)
  | qCfg (sess : Nat) (value : W32)
  | queueSelect (sess : Nat) (value : Nat)
  | wfqCommit (sess die : Nat) (value : Nat)
  | polCommit (sess die : Nat) (value : Nat)
  | portMode (sess die : Nat) (value : Nat)
  -- Time bases, triggers, captures (R315 to R333)
  | ckTick
  | applyTick
  | stepNs (sess tb : Nat) (value : Int)
  | frameOffsetNs (sess tb : Nat) (value : Nat)
  | servoSrc (sess tb : Nat) (value : Nat)
  | delayReq (tb : Nat)
  | holdoverEntry (tb : Nat)
  | radioFrameBoundary (tb : Nat)
  | slotBoundary (cell : Nat)
  | symbolBoundary (cell : Nat)
  | trigCfg (sess n : Nat) (value : W32)
  | trigEdge (n : Nat)
  | trigPulseEnd (n : Nat)
  | capEdge (n : Nat) (falling : Bool)
  | ppsInEdge (falling : Bool)
  | ppsOutEdge
  | capRead (sess n : Nat)
  | ppsInRead (sess : Nat)
  | calibration (unit : CalUnit)
  -- The Relevo fabric (R334 to R373)
  | flitReceived (port : Nat) (f : Flit)
  | retrain (port : Nat)
  | fabricPortDown (port : Nat)
  | fabricRead
  | readData
  | fabricWrite
  | writeAck
  | atomic
  | atomicAck
  | drain
  | drainAck
  | refuse
  | bulkWrite
  | bulkRead
  | bulkData
  | bulkAck
  | cellData
  | cellAck
  | routeTable (sess : Nat) (data : Bytes)
  | routeCommit (sess : Nat) (value : Nat)
  | routeDrainTimeout (dest : Nat)
  | relevoWfqCommit (sess : Nat) (value : Nat)
  | reqTimeout (dest job : Nat) (seq : W64)
  | jobCfg (sess : Nat) (value : BitVec 256)
  | jobTeardown (sess : Nat) (cause : Nat)
  | ctxJobId (sess : Nat) (value : W64)
  | winLoadData (sess : Nat) (data : Bytes)
  | winCommit (sess : Nat) (value : Nat)
  | fabricEnable (sess : Nat)
  | fabricRevoke (sess : Nat)
  | jobSnapshot (sess : Nat) (snapId : Nat)
  | buddyAdopt (sess : Nat) (oldJob : Nat)
  | restoreFromBuddy (sess : Nat) (value : Nat)
  | buddyRelease (sess : Nat) (job : Nat)
  -- Detectors and reports (R466 to R473)
  | heartbeat
  | hbEcho (sess : Nat) (value : Nat)
  | selfFence
  | reportEpochEnd
  -- Faults and shadow recompute (R458 to R479)
  | scrub (loc : Loc) (result : ScrubResult)
  | ceSecond (unit : UnitId) (corrected : Nat)
  | linkRetrain (link : Nat)
  | linkDown (link : Nat)
  | unitOut (unit : UnitId) (router : Bool)
  | shadowStart
  | shadowMaxAge
  | shadowCompare (shadow : ShadowResult) (third : Option ShadowResult)
  | meQuarantine (sess : Nat) (value : BitVec 128)
  | cdOutMask (sess : Nat) (value : W16)
  -- Host interface and slices (R374 to R404)
  | pasidLoadData (sess : Nat) (data : Bytes)
  | ctxPasid (sess : Nat) (value : Nat)
  | ctxPrivReq (sess : Nat) (value : Nat)
  | ctxSharedReq (sess : Nat) (value : Nat)
  | freeze (sess slice : Nat)
  | thaw (sess slice : Nat)
  | sliceSave (sess slice : Nat) (iova pasid : Nat)
  | sliceSaveDone (slice : Nat)
  | sliceRestore (sess slice : Nat) (iova pasid : Nat) (strict : Bool)
  | sliceRestoreDone (slice : Nat)
  | functionLevelReset (kind : FunctionReset)
  | hostRequestFailed (what : HostRequest)
  | mbReqLen (len : Nat) (frame : Bytes)
  | downDoorbell (channel : Nat) (tail : W32) (consumed : Option (W32 × W32)) (writes : List HostWrite)
  | downDescriptor (channel : Nat)
  | rhcCfg (sess channel : Nat) (value : W32)
  -- Sessions, endorsements, dictionary (R405 to R457)
  | openSession (via : Transport) (source : Nat) (role : Nat) (nc : Bytes)
  | proof (via : Transport) (sess : Nat) (tag : Bytes)
  | read (sess index subindex : Nat)
  | write (sess index subindex : Nat) (value : Bytes)
  | writeEndorsed (sess index subindex : Nat) (value : Bytes) (e : Endorsement)
  | eventRead (sess words : Nat)
  | recall (sess : Nat)
  | close (sess : Nat)
  | sessionIdle (sess : Nat)
  | lockoutEnd (role : Nat)
  | endorseNonce (sess : Nat)
  | nonceLapse (nonce : BitVec 128)
  | changeExpired (nonce : BitVec 128)
  | claim (data : Bytes)
  | attestNonce (sess : Nat) (nonce : Bytes)
  | configSave (sess : Nat) (value : Nat)
  | configSaveDone (readBackOk : Bool)
  -- Supplies, power and thermal control (R504 to R521)
  | controlPeriod (m : PowerSample)
  | telemetryUpdate (rails : List RailSample) (measuredMw : Nat)
  | thermalUpdate (m : ThermalSample)
  | flowDemandUpdate
  | flowLow
  | avsStep (die : Nat) (up : Bool)
  | timingMarginLow (die : Nat)
  | pmbAlert (r : RailSample)
  | railOutOfRange (rail : Nat) (condition : RailCondition)
  | sensorCalibration (die sensor : Nat) (differs : Bool)
  | thermtrip
  | seqFault (rail : Nat)
  | powerCapW (sess : Nat) (value : Nat)
  -- Clocks (R485 to R503)
  | refLost
  | refRestored (locked : Bool)
  | rootPllUnlock
  | diePllUnlock (die : Nat)
  | crossingStall (unit : UnitId)
  | rclkCfg (sess : Nat) (value : W16)
  -- Resets, start-up, firmware (R522 to R536)
  | powerOn
  | resetN
  | hubWatchdog
  | resetRequest (sess : Nat) (value : Nat)
  | bootStage (i : BootInput)
  | recoveryHoldEnd (q : Nat)
  | fwLoadData (sess : Nat) (data : Bytes)
  | fwCommit (sess : Nat) (digest : Bytes)
  | handover (sess : Nat) (value : Nat)
  | fwConfirm (sess : Nat) (value : Nat)
  | handoverConfirmTimeout
  | powerOff
  | suppliesRestored
  | resetRelease
  -- Links and completions seen from outside
  | fabricLinkUp (port peer : Nat)
  | fronthaulLinkChange (port : Nat) (up fecLock : Bool)
  | pcieLinkUp (lanes rate : Nat)
  | diePllRelock (die : Nat)
  | programRewriteDone (core : Nat)
  | shadowCopyDone (ctx : Nat)
  | jobDeadlinePassed (die slot : Nat)
  | mgmtFrameDiscarded (via : Transport) (why : DiscardReason)
  | ppsOutPulseEnd
  | handoverComplete (ok : Bool)
  deriving DecidableEq, Repr

end Sys2Proof
end

