-- ==== Sys2Proof/Decode.lean ====
section
/-! DEFINITION. Words and commands. The table of operations gives no row any bits: the commands come from pins, buses and
clocks, so no word spells one. -/

namespace Sys2Proof

/-- The command that a word spells by the table's bits: none, for every word. -/
def decodeTableWord (_nbits _w : Nat) : Option Instr := none

end Sys2Proof
end

