-- ==== Sys2Proof/Machine/Bits.lean ====
section
/-! DEFINITION. Bit fields, little-endian byte order (R10), two's complement and CRC-32C. -/

namespace Sys2Proof.Machine

/-- Bits [hi:lo] of `w`. -/
def field (w hi lo : Nat) : Nat := (w >>> lo) % 2 ^ (hi + 1 - lo)

/-- Bit `i` of `w`. -/
def bit (w i : Nat) : Bool := w.testBit i

/-- `w` with bits [hi:lo] replaced by `v`. -/
def setField (w hi lo v : Nat) : Nat :=
  w - (field w hi lo) * 2 ^ lo + (v % 2 ^ (hi + 1 - lo)) * 2 ^ lo

/-- `w` with bit `i` set or cleared. -/
def setBit (w i : Nat) (b : Bool) : Nat := setField w i i (if b then 1 else 0)

/-- How many of the low `n` bits of `w` are 1. -/
def popCount : Nat → Nat → Nat
  | 0, _ => 0
  | n + 1, w => (w % 2) + popCount n (w / 2)

/-- Positions below `n` of the 1 bits of `w`, rising. -/
def bitsOf (n w : Nat) : List Nat := (List.range n).filter fun i => w.testBit i

/-- Little-endian value of a run of bytes (R10). -/
def leNat : Bytes → Nat
  | [] => 0
  | b :: bs => b.toNat + 256 * leNat bs

/-- The low `n` bytes of `v`, little-endian (R10). -/
def leBytes : Nat → Nat → Bytes
  | 0, _ => []
  | n + 1, v => BitVec.ofNat 8 v :: leBytes n (v / 256)

/-- Big-endian value, for the standards that number bytes so. -/
def beNat (bs : Bytes) : Nat := leNat bs.reverse

/-- Big-endian bytes. -/
def beBytes (n v : Nat) : Bytes := (leBytes n v).reverse

/-- Two's-complement value of the low `w` bits of `v`. -/
def toSigned (w v : Nat) : Int :=
  let u := v % 2 ^ w
  if u < 2 ^ (w - 1) then (u : Int) else (u : Int) - (2 ^ w : Nat)

/-- The low `w` bits of an integer. -/
def ofSigned (w : Nat) (v : Int) : Nat := (v % ((2 ^ w : Nat) : Int)).toNat

/-- Little-endian value of `n` bytes of `bs` from offset `off`; bytes past the end count as 0. -/
def leAt (bs : Bytes) (off n : Nat) : Nat := leNat ((bs.drop off).take n)

/-- `n` bytes from `off`, padded with zero bytes. -/
def slice (bs : Bytes) (off n : Nat) : Bytes :=
  let t := (bs.drop off).take n
  t ++ List.replicate (n - t.length) 0

/-- `n` zero bytes. -/
def zeros (n : Nat) : Bytes := List.replicate n 0

/-- The bytes of an ASCII string. -/
def ascii (s : String) : Bytes := s.toList.map fun c => BitVec.ofNat 8 c.toNat

/-- One bit of the reflected CRC-32C shift (polynomial 0x1EDC_6F41, reflected 0x82F6_3B78). -/
def crcBit (c : Nat) : Nat := if c % 2 = 1 then (c / 2) ^^^ 0x82F63B78 else c / 2

/-- One byte of CRC-32C. -/
def crcByte (c : Nat) (b : Byte) : Nat :=
  (List.range 8).foldl (fun c _ => crcBit c) (c ^^^ b.toNat)

/-- CRC-32C of a run of bytes (R336). -/
def crc32c (bs : Bytes) : Nat := (bs.foldl crcByte 0xFFFFFFFF) ^^^ 0xFFFFFFFF

/-- Ethernet's CRC-32 of a run of bytes (reflected polynomial 0xEDB8_8320). -/
def crc32 (bs : Bytes) : Nat :=
  let step (c : Nat) (b : Byte) : Nat :=
    (List.range 8).foldl (fun c _ => if c % 2 = 1 then (c / 2) ^^^ 0xEDB88320 else c / 2) (c ^^^ b.toNat)
  (bs.foldl step 0xFFFFFFFF) ^^^ 0xFFFFFFFF

/-- Rounds up to a multiple of `a`. -/
def alignUp (a n : Nat) : Nat := (n + a - 1) / a * a

/-- Whether the ranges [a, a+m) and [b, b+n) share an element. -/
def overlap (a m b n : Nat) : Bool := decide (0 < m) && decide (0 < n) && decide (a < b + n) && decide (b < a + m)

end Sys2Proof.Machine
end

