-- ==== Sys2Proof/Machine/Crypto.lean ====
section
/-! DEFINITION. The symmetric cryptography the manual names: SHA-512 (FIPS 180-4), HMAC-SHA-512-256 as R414 defines it,
HKDF-SHA-512 (RFC 5869), AES (FIPS 197) and AES-256-GCM (NIST SP 800-38D). All are functions on bytes. -/

namespace Sys2Proof.Machine

/-- Round constants of SHA-512: the first 64 fraction bits of the cube roots of the first 80 primes. -/
def sha512K0 : List Nat :=
  [0x428A2F98D728AE22, 0x7137449123EF65CD, 0xB5C0FBCFEC4D3B2F, 0xE9B5DBA58189DBBC,
   0x3956C25BF348B538, 0x59F111F1B605D019, 0x923F82A4AF194F9B, 0xAB1C5ED5DA6D8118,
   0xD807AA98A3030242, 0x12835B0145706FBE, 0x243185BE4EE4B28C, 0x550C7DC3D5FFB4E2,
   0x72BE5D74F27B896F, 0x80DEB1FE3B1696B1, 0x9BDC06A725C71235, 0xC19BF174CF692694,
   0xE49B69C19EF14AD2, 0xEFBE4786384F25E3, 0x0FC19DC68B8CD5B5, 0x240CA1CC77AC9C65]

def sha512K1 : List Nat :=
  [0x2DE92C6F592B0275, 0x4A7484AA6EA6E483, 0x5CB0A9DCBD41FBD4, 0x76F988DA831153B5,
   0x983E5152EE66DFAB, 0xA831C66D2DB43210, 0xB00327C898FB213F, 0xBF597FC7BEEF0EE4,
   0xC6E00BF33DA88FC2, 0xD5A79147930AA725, 0x06CA6351E003826F, 0x142929670A0E6E70,
   0x27B70A8546D22FFC, 0x2E1B21385C26C926, 0x4D2C6DFC5AC42AED, 0x53380D139D95B3DF,
   0x650A73548BAF63DE, 0x766A0ABB3C77B2A8, 0x81C2C92E47EDAEE6, 0x92722C851482353B]

def sha512K2 : List Nat :=
  [0xA2BFE8A14CF10364, 0xA81A664BBC423001, 0xC24B8B70D0F89791, 0xC76C51A30654BE30,
   0xD192E819D6EF5218, 0xD69906245565A910, 0xF40E35855771202A, 0x106AA07032BBD1B8,
   0x19A4C116B8D2D0C8, 0x1E376C085141AB53, 0x2748774CDF8EEB99, 0x34B0BCB5E19B48A8,
   0x391C0CB3C5C95A63, 0x4ED8AA4AE3418ACB, 0x5B9CCA4F7763E373, 0x682E6FF3D6B2B8A3,
   0x748F82EE5DEFB2FC, 0x78A5636F43172F60, 0x84C87814A1F0AB72, 0x8CC702081A6439EC]

def sha512K3 : List Nat :=
  [0x90BEFFFA23631E28, 0xA4506CEBDE82BDE9, 0xBEF9A3F7B2C67915, 0xC67178F2E372532B,
   0xCA273ECEEA26619C, 0xD186B8C721C0C207, 0xEADA7DD6CDE0EB1E, 0xF57D4F7FEE6ED178,
   0x06F067AA72176FBA, 0x0A637DC5A2C898A6, 0x113F9804BEF90DAE, 0x1B710B35131C471B,
   0x28DB77F523047D84, 0x32CAAB7B40C72493, 0x3C9EBE0A15C9BEBC, 0x431D67C49C100D4C,
   0x4CC5D4BECB3E42B6, 0x597F299CFC657E2A, 0x5FCB6FAB3AD6FAEC, 0x6C44198C4A475817]

def sha512K : List Nat := sha512K0 ++ sha512K1 ++ sha512K2 ++ sha512K3

/-- Initial hash value: fraction bits of the square roots of the first 8 primes. -/
def sha512H0 : List Nat :=
  [0x6A09E667F3BCC908, 0xBB67AE8584CAA73B, 0x3C6EF372FE94F82B, 0xA54FF53A5F1D36F1,
   0x510E527FADE682D1, 0x9B05688C2B3E6C1F, 0x1F83D9ABFB41BD6B, 0x5BE0CD19137E2179]

def rotr64 (n x : Nat) : Nat := (x >>> n) ||| ((x <<< (64 - n)) % 2 ^ 64)

/-- Splits bytes into pieces of `n`; `fuel` bounds their number. -/
def pieces (n : Nat) : Nat → Bytes → List Bytes
  | 0, _ => []
  | _ + 1, [] => []
  | fuel + 1, bs => bs.take n :: pieces n fuel (bs.drop n)

/-- The message schedule, newest word first. -/
def sha512Extend : Nat → List Nat → List Nat
  | 0, w => w
  | k + 1, w =>
    let s0 := let x := w.getD 14 0; rotr64 1 x ^^^ rotr64 8 x ^^^ (x >>> 7)
    let s1 := let x := w.getD 1 0; rotr64 19 x ^^^ rotr64 61 x ^^^ (x >>> 6)
    sha512Extend k ((w.getD 15 0 + s0 + w.getD 6 0 + s1) % 2 ^ 64 :: w)

/-- One round on the eight working variables. -/
def sha512Round (h : List Nat) (kw : Nat) : List Nat :=
  match h with
  | [a, b, c, d, e, f, g, hh] =>
    let s1 := rotr64 14 e ^^^ rotr64 18 e ^^^ rotr64 41 e
    let ch := (e &&& f) ^^^ ((e ^^^ (2 ^ 64 - 1)) &&& g)
    let t1 := hh + s1 + ch + kw
    let s0 := rotr64 28 a ^^^ rotr64 34 a ^^^ rotr64 39 a
    let mj := (a &&& b) ^^^ (a &&& c) ^^^ (b &&& c)
    [(t1 + s0 + mj) % 2 ^ 64, a, b, c, (d + t1) % 2 ^ 64, e, f, g]
  | _ => h

/-- One 128-byte block. -/
def sha512Block (h : List Nat) (blk : Bytes) : List Nat :=
  let w := (sha512Extend 64 ((pieces 8 16 blk).map beNat).reverse).reverse
  let h' := (List.zipWith (fun k w => k + w) sha512K w).foldl sha512Round h
  List.zipWith (fun a b => (a + b) % 2 ^ 64) h h'

/-- SHA-512. -/
def sha512 (m : Bytes) : Bytes :=
  let padded := m ++ [0x80#8] ++ zeros ((240 - (m.length + 1) % 128) % 128) ++ beBytes 16 (8 * m.length)
  ((pieces 128 (padded.length / 128) padded).foldl sha512Block sha512H0).flatMap (beBytes 8)

/-- HMAC under RFC 2104 with SHA-512. -/
def hmacSha512 (key m : Bytes) : Bytes :=
  let k := slice (if key.length ≤ 128 then key else sha512 key) 0 128
  sha512 (k.map (· ^^^ 0x5C#8) ++ sha512 (k.map (· ^^^ 0x36#8) ++ m))

/-- HMAC-SHA-512-256 (R414): the first 32 bytes of HMAC with SHA-512. -/
def hmac256 (key m : Bytes) : Bytes := (hmacSha512 key m).take 32

/-- HKDF-SHA-512 with at most 64 bytes of output, which is all the manual asks for (R405, R414, R416). -/
def hkdf (ikm salt info : Bytes) (len : Nat) : Bytes :=
  let prk := hmacSha512 (if salt = [] then zeros 64 else salt) ikm
  (hmacSha512 prk (info ++ [0x01#8])).take len

/-- Doubling in GF(2^8) with the AES polynomial. -/
def aesX2 (a : Nat) : Nat := if a < 128 then 2 * a else (2 * a) % 256 ^^^ 0x1B

/-- Multiplication in GF(2^8). -/
def aesMulF : Nat → Nat → Nat → Nat
  | 0, _, _ => 0
  | k + 1, a, b => (if b % 2 = 1 then a else 0) ^^^ aesMulF k (aesX2 a) (b / 2)

def aesMul (a b : Nat) : Nat := aesMulF 8 a b

/-- The inverse in GF(2^8), a^254. -/
def aesInv (a : Nat) : Nat :=
  let a2 := aesMul a a
  let a3 := aesMul a2 a
  let a6 := aesMul a3 a3
  let a12 := aesMul a6 a6
  let a15 := aesMul a12 a3
  let a30 := aesMul a15 a15
  let a60 := aesMul a30 a30
  let a120 := aesMul a60 a60
  let a126 := aesMul a120 a6
  let a127 := aesMul a126 a
  aesMul a127 a127

def rotl8 (n x : Nat) : Nat := (x <<< n) % 256 ||| (x >>> (8 - n))

/-- The AES S-box. -/
def aesSub (a : Nat) : Nat :=
  let b := aesInv a
  b ^^^ rotl8 1 b ^^^ rotl8 2 b ^^^ rotl8 3 b ^^^ rotl8 4 b ^^^ 0x63

/-- Expands a key of `nk` 4-byte words; words newest first, `i` the number of the next word. -/
def aesExpand (nk : Nat) : Nat → Nat → Nat → List (List Nat) → List (List Nat)
  | 0, _, _, w => w
  | fuel + 1, i, rcon, w =>
    let prev := w.headD []
    let old := w.getD (nk - 1) []
    let t := if i % nk = 0 then
        List.zipWith (· ^^^ ·) ((prev.drop 1 ++ prev.take 1).map aesSub) [rcon, 0, 0, 0]
      else if nk > 6 && i % nk = 4 then prev.map aesSub
      else prev
    aesExpand nk fuel (i + 1) (if i % nk = 0 then aesX2 rcon else rcon) (List.zipWith (· ^^^ ·) old t :: w)

/-- Round keys of 16 bytes each for a 16- or 32-byte key. -/
def aesKeys (key : Bytes) : List (List Nat) :=
  let nk := key.length / 4
  let w := ((pieces 4 nk key).map fun p => p.map (·.toNat)).reverse
  let all := (aesExpand nk (4 * (nk + 7) - nk) nk 1 w).reverse
  (List.range (nk + 7)).map fun r => ((all.drop (4 * r)).take 4).flatten

def aesShiftRows (s : List Nat) : List Nat :=
  (List.range 16).map fun i => s.getD ((i + 4 * (i % 4)) % 16) 0

def aesMixCol (c : List Nat) : List Nat :=
  match c with
  | [a, b, x, y] =>
    [aesMul 2 a ^^^ aesMul 3 b ^^^ x ^^^ y, a ^^^ aesMul 2 b ^^^ aesMul 3 x ^^^ y,
     a ^^^ b ^^^ aesMul 2 x ^^^ aesMul 3 y, aesMul 3 a ^^^ b ^^^ x ^^^ aesMul 2 y]
  | _ => c

def aesMixCols (s : List Nat) : List Nat :=
  aesMixCol (s.take 4) ++ aesMixCol ((s.drop 4).take 4) ++ aesMixCol ((s.drop 8).take 4) ++ aesMixCol (s.drop 12)

/-- One block under expanded keys. -/
def aesBlockK (ks : List (List Nat)) (blk : List Nat) : List Nat :=
  let n := ks.length
  let s0 := List.zipWith (· ^^^ ·) blk (ks.headD [])
  let s := ((ks.drop 1).take (n - 2)).foldl
    (fun s k => List.zipWith (· ^^^ ·) (aesMixCols (aesShiftRows (s.map aesSub))) k) s0
  List.zipWith (· ^^^ ·) (aesShiftRows (s.map aesSub)) (ks.getD (n - 1) [])

/-- AES encryption of one 16-byte block (FIPS 197). -/
def aesBlock (key blk : Bytes) : Bytes :=
  (aesBlockK (aesKeys key) ((slice blk 0 16).map (·.toNat))).map (BitVec.ofNat 8)

/-- Product in GF(2^128) with GCM's bit order: bit 127 of the Nat is the coefficient of x^0. -/
def gcmMulF : Nat → Nat → Nat → Nat → Nat
  | 0, _, _, z => z
  | k + 1, x, v, z =>
    gcmMulF k x (if v % 2 = 1 then (v / 2) ^^^ (0xE1 <<< 120) else v / 2) (if x.testBit k then z ^^^ v else z)

def gcmMul (x y : Nat) : Nat := gcmMulF 128 x y 0

/-- GHASH over whole blocks (the last is padded with zeros). -/
def ghash (h y : Nat) (bs : Bytes) : Nat :=
  (pieces 16 (bs.length / 16 + 1) bs).foldl (fun y b => gcmMul (y ^^^ beNat (slice b 0 16)) h) y

/-- GCM's counter-mode stream over `m`, starting at counter block `ctr`. -/
def gctr (ks : List (List Nat)) (iv : Bytes) (ctr : Nat) (m : Bytes) : Bytes :=
  let blks := pieces 16 (m.length / 16 + 1) m
  (List.zipWith (fun i b =>
    List.zipWith (· ^^^ ·) b
      ((aesBlockK ks ((iv ++ beBytes 4 (ctr + i)).map (·.toNat))).map (BitVec.ofNat 8)))
    (List.range blks.length) blks).flatten

/-- GCM's tag of 16 bytes. -/
def gcmTag (ks : List (List Nat)) (iv aad c : Bytes) : Bytes :=
  let h := beNat ((aesBlockK ks (List.replicate 16 0)).map (BitVec.ofNat 8))
  let y := ghash h (ghash h 0 aad) c
  let y := gcmMul (y ^^^ (8 * aad.length * 2 ^ 64 + 8 * c.length)) h
  gctr ks iv 1 (beBytes 16 y)

/-- AES-GCM encryption: ciphertext and tag. -/
def gcmSeal (key iv aad m : Bytes) : Bytes × Bytes :=
  let ks := aesKeys key
  let c := gctr ks iv 2 m
  (c, gcmTag ks iv aad c)

/-- AES-GCM decryption; none when the tag fails. -/
def gcmOpen (key iv aad c tag : Bytes) : Option Bytes :=
  let ks := aesKeys key
  if gcmTag ks iv aad c = tag then some (gctr ks iv 2 c) else none

end Sys2Proof.Machine
end

