-- ==== Sys2Proof/Machine/Curve.lean ====
section
/-! DEFINITION. The public-key cryptography the manual names: X25519 (RFC 7748) for wrapped values (R416) and Ed25519
(RFC 8032) for endorsements, images, certificates and reports (R406, R409, R418, R423). -/

namespace Sys2Proof.Machine

/-- The field prime 2^255 - 19. -/
def p25519 : Nat := 2 ^ 255 - 19

/-- The group order of Ed25519. -/
def l25519 : Nat := 2 ^ 252 + 27742317777372353535851937790883648493

def fAdd (a b : Nat) : Nat := (a + b) % p25519
def fSub (a b : Nat) : Nat := (a + (p25519 - b % p25519)) % p25519
def fMul (a b : Nat) : Nat := (a * b) % p25519

/-- `a ^ e` in the field, for exponents below 2^`bits`. -/
def fPowF : Nat → Nat → Nat → Nat → Nat
  | 0, _, _, acc => acc
  | bits + 1, a, e, acc => fPowF bits a e (let sq := fMul acc acc; if e.testBit bits then fMul sq a else sq)

def fPow (a e : Nat) : Nat := fPowF 255 a e 1

def fInv (a : Nat) : Nat := fPow a (p25519 - 2)

/-- Montgomery ladder state (x2, z2, x3, z3), bits from the top. -/
def ladder (k u : Nat) : Nat → Nat × Nat × Nat × Nat → Nat × Nat × Nat × Nat
  | 0, s => s
  | t + 1, (x2, z2, x3, z3) =>
    let sw := k.testBit t
    let (x2, x3) := if sw then (x3, x2) else (x2, x3)
    let (z2, z3) := if sw then (z3, z2) else (z2, z3)
    let a := fAdd x2 z2
    let aa := fMul a a
    let b := fSub x2 z2
    let bb := fMul b b
    let e := fSub aa bb
    let c := fAdd x3 z3
    let d := fSub x3 z3
    let da := fMul d a
    let cb := fMul c b
    let x3' := fMul (fAdd da cb) (fAdd da cb)
    let z3' := fMul u (fMul (fSub da cb) (fSub da cb))
    let x2' := fMul aa bb
    let z2' := fMul e (fAdd aa (fMul 121665 e))
    let (x2', x3') := if sw then (x3', x2') else (x2', x3')
    let (z2', z3') := if sw then (z3', z2') else (z2', z3')
    ladder k u t (x2', z2', x3', z3')

/-- Clamps a 32-byte scalar (RFC 7748, RFC 8032). -/
def clampScalar (k : Bytes) : Nat := leNat (slice k 0 32) % 2 ^ 254 / 8 * 8 + 2 ^ 254

/-- X25519 (RFC 7748). -/
def x25519 (k u : Bytes) : Bytes :=
  let uu := leNat (slice u 0 32) % 2 ^ 255
  let (x2, z2, _, _) := ladder (clampScalar k) (uu % p25519) 255 (1, 0, uu % p25519, 1)
  leBytes 32 (fMul x2 (fInv z2))

/-- The public key of an X25519 private key. -/
def x25519Pub (k : Bytes) : Bytes := x25519 k (leBytes 32 9)

/-- A point of edwards25519 in extended coordinates. -/
structure EdPt where
  x : Nat
  y : Nat
  z : Nat
  t : Nat
  deriving DecidableEq, Repr

/-- The curve constant d = -121665/121666. -/
def edD : Nat := fMul (p25519 - 121665) (fInv 121666)

def edZero : EdPt := ⟨0, 1, 1, 0⟩

/-- Complete addition on edwards25519. -/
def edAdd (d2 : Nat) (p q : EdPt) : EdPt :=
  let a := fMul (fSub p.y p.x) (fSub q.y q.x)
  let b := fMul (fAdd p.y p.x) (fAdd q.y q.x)
  let c := fMul (fMul p.t d2) q.t
  let d := fMul (fMul 2 p.z) q.z
  let e := fSub b a
  let f := fSub d c
  let g := fAdd d c
  let h := fAdd b a
  ⟨fMul e f, fMul g h, fMul f g, fMul e h⟩

/-- Scalar multiple, bits from the top. -/
def edMulF (d2 k : Nat) (p : EdPt) : Nat → EdPt → EdPt
  | 0, acc => acc
  | t + 1, acc =>
    let acc2 := edAdd d2 acc acc
    edMulF d2 k p t (if k.testBit t then edAdd d2 acc2 p else acc2)

def edMul (k : Nat) (p : EdPt) : EdPt := edMulF (fMul 2 edD) k p 256 edZero

/-- Square root of u/v in the field, when it has one. -/
def edRoot (u v : Nat) : Option Nat :=
  let r := fMul (fMul u (fPow v 3)) (fPow (fMul u (fPow v 7)) ((p25519 - 5) / 8))
  let c := fMul v (fMul r r)
  if c = u % p25519 then some r
  else if c = fSub 0 u then some (fMul r (fPow 2 ((p25519 - 1) / 4)))
  else none

/-- Decodes a 32-byte point (RFC 8032, 5.1.3). -/
def edDecode (bs : Bytes) : Option EdPt :=
  let n := leNat (slice bs 0 32)
  let y := n % 2 ^ 255
  let sign := n / 2 ^ 255
  if p25519 ≤ y then none else
  let y2 := fMul y y
  match edRoot (fSub y2 1) (fAdd (fMul edD y2) 1) with
  | none => none
  | some x =>
    if x = 0 ∧ sign = 1 then none else
    let x' := if x % 2 = sign then x else fSub 0 x
    some ⟨x', y, 1, fMul x' y⟩

/-- Encodes a point. -/
def edEncode (p : EdPt) : Bytes :=
  let zi := fInv p.z
  let x := fMul p.x zi
  leBytes 32 (fMul p.y zi + (x % 2) * 2 ^ 255)

/-- The base point: y = 4/5, x even. -/
def edBase : EdPt := (edDecode (leBytes 32 (fMul 4 (fInv 5)))).getD edZero

/-- The public key of a 32-byte private seed. -/
def edPub (seed : Bytes) : Bytes := edEncode (edMul (clampScalar ((sha512 seed).take 32)) edBase)

/-- Ed25519 signature (RFC 8032, 5.1.6). -/
def edSign (seed m : Bytes) : Bytes :=
  let h := sha512 seed
  let a := clampScalar (h.take 32)
  let pub := edEncode (edMul a edBase)
  let r := leNat (sha512 (h.drop 32 ++ m)) % l25519
  let rb := edEncode (edMul r edBase)
  let k := leNat (sha512 (rb ++ pub ++ m)) % l25519
  rb ++ leBytes 32 ((r + k * a) % l25519)

/-- Ed25519 verification (RFC 8032, 5.1.7). -/
def edVerify (pub m sig : Bytes) : Bool :=
  if sig.length ≠ 64 then false else
  let s := leNat (sig.drop 32)
  if l25519 ≤ s then false else
  match edDecode pub, edDecode (sig.take 32) with
  | some a, some _ =>
    let k := leNat (sha512 (sig.take 32 ++ pub ++ m)) % l25519
    -- R = [S]B - [k]A, compared by its encoding
    let na : EdPt := ⟨fSub 0 a.x, a.y, a.z, fSub 0 a.t⟩
    decide (edEncode (edAdd (fMul 2 edD) (edMul s edBase) (edMul k na)) = sig.take 32)
  | _, _ => false

end Sys2Proof.Machine
end

