-- ==== Sys2Proof/Config.lean ====
section
/-! DEFINITION. What an implementation fixes and what the manual leaves open. Every constant here has no body: nothing in
Lean can see its value, so a claim about the model holds whatever it is. The assumption log says for each what the manual
leaves open. -/

namespace Sys2Proof.Config

/-- Where, among the inputs R110 and R111 leave, the monotone result of a segment reaches a value, by determinism class,
function and sign, first code of the segment, and value (R54, R101, R109). Free value, log entry 10. -/
opaque segPick : Nat → Nat → Nat → Nat → Nat

/-- An INT32 input tile element under a fill line scale in INT8 mode: how the product enters the 40-bit accumulator is not
stated (R103). Free value, log entry 11. -/
opaque int8FillScale : Int → Nat → Int

/-- Which of several places or agents the hub takes where the manual names no order: an index into the list of choices.
Free value, log entry 12. -/
opaque pick : Nat → Nat

/-- The hub's random source (R407, R414, R419). Free value, log entry 13. -/
opaque random : Nat → Nat

/-- A byte of a peer package's memory by fabric address, where a loam page of KIND 1 is streamed or fetched from it (R192,
R196): what a peer holds is not this package's state. Free value, log entry 14. -/
opaque peerByte : Nat → BitVec 8

/-- Whether room for the response of one more request can be reserved beside what is reserved, both in bytes (R338). Free value, log entry
88. -/
opaque responseRoom : Nat → Nat → Bool

/-- Whether a command finds free staging space for its bytes beside those in use (R355 to R357). Free value, log entry 88. -/
opaque stagingRoom : Nat → Nat → Bool

/-- FEC codewords corrected, and uncorrectable ones, while a flit arrives (R371). Free value, log entry 89. -/
opaque fecCorrected : Nat → BitVec 8
opaque fecUncorrected : Nat → BitVec 8

/-- CK cycles, less 1 and modulo 825 000, from a Function Level Reset to its completion within 1 ms (R377). Free value, log entry 90. -/
opaque flrTime : Nat → BitVec 20

/-- Entries that the hub firmware adds to its trace ring in a CK cycle: event number and arguments (R467). Free value, log entry 91. -/
opaque traced : Nat → List (BitVec 176)

/-- Whether the read-back of a cleared unit with an uncorrectable word fails (R461). Free value, log entry 15. -/
opaque readBackFails : Nat → Bool

/-- A 16-bit component of a DSP vector add or subtract whose exact value does not fit 16 bits (R251). Free value,
log entry 16. -/
opaque dspNarrow : Int → BitVec 16

/-- A 48-bit accumulator component whose exact value does not fit (R253). Free value, log entry 16. -/
opaque dspAcc : Int → BitVec 48

/-- The DSP core's scalar operations, by code: the manual names no function (R251). Free value, log entry 17. -/
opaque scalarOp : Nat → BitVec 32 → BitVec 32 → BitVec 32

/-- Tables of TS 38.212 that the manual names and does not give: the shift coefficient of a base graph (0 or 1), lifting-size set, row and
column, none where the graph has no edge (R268); the polar sequence, least reliable first; the input interleaver of 164 (R269). Free
values, log entry 19. -/
opaque ldpcShift : Nat → Nat → Nat → Nat → Option Nat
opaque polarSequence : Nat → Nat
opaque polarInterleave : Nat → Nat

/-- A soft value of the LDPC decoder beyond 8 bits, the 8 bits a soft buffer holds of one that does not fit, and whether a scaled message
with a remainder rounds up (R267). Free values, log entry 19. -/
opaque softWide : Int → Int
opaque softNarrow : Int → BitVec 8
opaque softRound : Nat → Bool

/-- The LLR of a bit known to be 0, and the hard decision on an LLR of 0 (R267, R269). Free values, log entry 19. -/
opaque knownLlr : Int
opaque zeroBit : Bool

/-- The list decoder's arithmetic where the rule names none: the LLR of the sum of two bits, and the metric's penalty for a bit against its
LLR (R269). Free values, log entry 19. -/
opaque polarF : Int → Int → Int
opaque polarPenalty : Int → Nat

/-- An FFT engine's radices in order; by how much, less 1, the components of a sample times a twiddle factor differ from the nearest integers;
and a component that one shift leaves out of range (R270). Free values, log entry 19. -/
opaque fftRadices : Nat → List Nat
opaque fftTurn : Nat → Nat → Int × Int → Fin 3 × Fin 3
opaque fftNarrow : Int → BitVec 16

/-- Which of the 16-bit mantissas within 0.005 dB holds gain index `g` (R271). Free value, log entry 20. -/
opaque gainPick : Nat → Nat

/-- Core, within the cell's die, and X memory address at which the ingress unit writes the samples of a cell's antenna and
symbol: the manual gives no section map (R248). Free value, log entry 20. -/
opaque sectionCore : Nat → Nat → Nat → Nat
opaque sectionAddr : Nat → Nat → Nat → Nat

/-- The input colour that PCP_COLOUR code 3 gives (R307). Free value, log entry 20. -/
opaque pcpColour3 : Nat

/-- A mantissa of a PRB that no exponent up to 15 fits into the width (R292). Free value, log entry 20. -/
opaque bfpMantissa : Nat → Int → Int

/-- Whether the 1/64 dB value held for a mean power is the one below it or the one above (R271). Free value, log entry 20. -/
opaque powerRound : Nat → Nat → Bool

/-- The eighth of a CK cycle in which an edge of a capture input falls, and whether an output edge is placed at the later of the two eighths
about its instant (R325, R327). Free values, log entry 84. -/
opaque edgePhase : Nat → Nat
opaque edgeLater : Nat → Bool

/-- Whether an offset between two whole nanoseconds is taken as the later one; the PTP port identity of a fronthaul port, and which of
the two PTP multicast addresses its Delay_Req goes to (R320). Free values, log entry 85. -/
opaque ptpLater : Int → Bool
opaque ptpPort : Nat → BitVec 80
opaque ptpForwardable : Bool

/-- Whether the time base of a cell move's peer package is LOCKED at a CK cycle: that package's state (R321). Free value, log entry 86. -/
opaque peerLocked : Nat → Nat → Bool

/-- Where in the radio stacked-memory region the descriptors (part 0) and the gain state (part 2) of an arriving cell land: the manual
gives no place (R369). Free value, log entry 77. -/
opaque cellLanding : Nat → Nat → Nat

/-- EVM and SINR of a slot with uplink data: what they measure lies in the DSP program (R274). Free values, log entry 21. -/
opaque evm : Nat → BitVec 16
opaque sinr : Nat → BitVec 16

/-- The 256-bit device seed that the PUF's SRAM region gives with helper data (R405): part-specific. Free value, log entry 22. -/
opaque pufSeed : Bytes → BitVec 256

/-- Lamtu's certificate of the part and the key it is checked by (R406), the part's management MAC addresses (R450) and its silicon stepping
(R52): part-specific. Free values, log entry 22. -/
opaque deviceCert : BitVec 512
opaque certKey : BitVec 256
opaque macAddr : Nat → BitVec 48
opaque stepping : BitVec 8

/-- SHA-512 digests of the two Lamtu root keys in the boot ROM (R409). Free values, log entry 22. -/
opaque romDigest : Nat → Bytes

/-- Parts of an image's body, whose layout the manual does not give (R408): the numerics firmware, its version (R52, R126), its
GELU_XMIN (R112), and the default program of a DSP core (R410, R529). Free values, log entry 23. -/
opaque numfwOf : Bytes → Bytes
opaque numfwVersion : Bytes → BitVec 16
opaque geluXmin : Bytes → BitVec 32
opaque defaultProgram : Bytes → Nat → Bytes

/-- MAC_ADDR of a fronthaul port as an image sets it (R311). Free value, log entry 23. -/
opaque fhMac : Bytes → Nat → BitVec 48

/-- The power 0.8 of the thermal model (R513), whose precision the manual does not give. Free value, log entry 24. -/
opaque pow08 : Rat → Rat

/-- What a sensor or monitor reads where no command brings the reading (R477, R515). Free value, log entry 25. -/
opaque measured : Nat → Nat

/-- Nominal voltage in mV of an HBM rail, which the manual leaves to JEDEC HBM4 (R504). Free value, log entry 26. -/
opaque hbmMv : Nat → BitVec 16

/-- Content in SETUP_DIGEST of a secret entry that no change has been applied to since start-up, by entry key: the manual names
the nonce of its last applied change, and a configuration copy holds none (R424, R452). Free value, log entry 27. -/
opaque noNonce : Nat → BitVec 128

end Sys2Proof.Config
end

