-- ==== Sys2Proof/Machine/Num.lean ====
section
/-! DEFINITION. Exact values, the element formats of R23 to R26, and the one rounding of R28. Sums and products are formed
exactly on dyadic numbers and narrowed explicitly. -/

namespace Sys2Proof.Machine

/-- A value: NaN, an infinity, or (-1)^neg × m × 2^e with the sign of a zero kept (R29, R30). -/
inductive Fl where
  | nan
  | inf (neg : Bool)
  | fin (neg : Bool) (m : Nat) (e : Int)
  deriving DecidableEq, Repr

/-- +0. -/
def Fl.zero : Fl := .fin false 0 0

/-- 1. -/
def Fl.one : Fl := .fin false 1 0

/-- An integer as a value (+0 for 0). -/
def Fl.ofInt (n : Int) : Fl := .fin (decide (n < 0)) n.natAbs 0

/-- V × 2^W as a value. -/
def Fl.ofScaled (v : Int) (w : Int) : Fl := .fin (decide (v < 0)) v.natAbs w

def Fl.isNan : Fl → Bool
  | .nan => true
  | _ => false

def Fl.neg : Fl → Fl
  | .nan => .nan
  | .inf s => .inf (!s)
  | .fin s m e => .fin (!s) m e

/-- Multiplies by 2^k, exactly. -/
def Fl.scale2 (k : Int) : Fl → Fl
  | .fin s m e => .fin s m (e + k)
  | v => v

/-- Signed mantissa brought to exponent `e0 ≤ e`. -/
def alignTo (s : Bool) (m : Nat) (e e0 : Int) : Int :=
  let v := (m : Int) * ((2 ^ (e - e0).toNat : Nat) : Int)
  if s then -v else v

/-- Exact sum with the special values of R30 and the signed zeros of R29. -/
def Fl.add : Fl → Fl → Fl
  | .nan, _ => .nan
  | _, .nan => .nan
  | .inf a, .inf b => if a = b then .inf a else .nan
  | .inf a, .fin _ _ _ => .inf a
  | .fin _ _ _, .inf b => .inf b
  | .fin s m e, .fin s' m' e' =>
    let e0 := min e e'
    let v := alignTo s m e e0 + alignTo s' m' e' e0
    if v = 0 then .fin (s && s') 0 0 else .fin (decide (v < 0)) v.natAbs e0

/-- Exact product with the special values of R30. -/
def Fl.mul : Fl → Fl → Fl
  | .nan, _ => .nan
  | _, .nan => .nan
  | .inf a, .inf b => .inf (a != b)
  | .inf a, .fin s m _ => if m = 0 then .nan else .inf (a != s)
  | .fin s m _, .inf b => if m = 0 then .nan else .inf (s != b)
  | .fin s m e, .fin s' m' e' => .fin (s != s') (m * m') (e + e')

/-- Number of bits of `m`; 0 for 0. -/
def bitLen (m : Nat) : Nat := if m = 0 then 0 else Nat.log2 m + 1

/-- ⌊log2⌋ of the magnitude of a nonzero m × 2^e. -/
def ilog2 (m : Nat) (e : Int) : Int := e + (bitLen m : Int) - 1

/-- m / 2^k rounded to nearest, ties to even; `sticky` says that the value lies strictly above m (below m + 1). -/
def rneShift (m k : Nat) (sticky : Bool) : Nat :=
  if k = 0 then m
  else
    let q := m >>> k
    let r := m % 2 ^ k
    let half := 2 ^ (k - 1)
    if r > half ∨ (r = half ∧ (sticky ∨ q % 2 = 1)) then q + 1 else q

/-- n / d rounded to nearest, ties to even. -/
def rneDiv (n d : Nat) : Nat :=
  let q := n / d
  let r := n % d
  if 2 * r > d ∨ (2 * r = d ∧ q % 2 = 1) then q + 1 else q

/-- Arithmetic right shift of a signed value, rounded by R28 at the shifted-out bits (R36). -/
def rneShiftInt (v : Int) (k : Nat) : Int :=
  if v < 0 then -((rneShift v.natAbs k false : Nat) : Int) else ((rneShift v.natAbs k false : Nat) : Int)

/-- The special codes a format has. -/
inductive Specials where
  /-- Infinity and NaN in the top exponent (IEEE 754). -/
  | ieee
  /-- NaN only, in the one top code (E4M3). -/
  | nanOnly
  /-- Neither (E3M2, E2M3, E2M1). -/
  | none
  deriving DecidableEq, Repr

/-- A floating-point element format (R23). -/
structure Fmt where
  ebits : Nat
  mbits : Nat
  bias  : Nat
  spec  : Specials
  deriving DecidableEq, Repr

def fmtE4M3 : Fmt := ⟨4, 3, 7, .nanOnly⟩
def fmtE5M2 : Fmt := ⟨5, 2, 15, .ieee⟩
def fmtE3M2 : Fmt := ⟨3, 2, 3, .none⟩
def fmtE2M3 : Fmt := ⟨2, 3, 1, .none⟩
def fmtE2M1 : Fmt := ⟨2, 1, 1, .none⟩
def fmtBF16 : Fmt := ⟨8, 7, 127, .ieee⟩
def fmtFP16 : Fmt := ⟨5, 10, 15, .ieee⟩
def fmtFP32 : Fmt := ⟨8, 23, 127, .ieee⟩

/-- Exponent of the smallest subnormal. -/
def Fmt.qmin (f : Fmt) : Int := 1 - (f.bias : Int) - (f.mbits : Int)

/-- Largest finite exponent field. -/
def Fmt.topExp (f : Fmt) : Nat :=
  match f.spec with
  | .ieee => 2 ^ f.ebits - 2
  | _ => 2 ^ f.ebits - 1

/-- Code of the largest finite magnitude. -/
def Fmt.maxCode (f : Fmt) : Nat :=
  match f.spec with
  | .nanOnly => f.topExp * 2 ^ f.mbits + (2 ^ f.mbits - 2)
  | _ => f.topExp * 2 ^ f.mbits + (2 ^ f.mbits - 1)

/-- Largest exponent of a finite value, the emax of R33. -/
def Fmt.emax (f : Fmt) : Int := (f.topExp : Int) - (f.bias : Int)

/-- The value a code stands for (R23). -/
def Fmt.decode (f : Fmt) (code : Nat) : Fl :=
  let s := code.testBit (f.ebits + f.mbits)
  let e := (code >>> f.mbits) % 2 ^ f.ebits
  let m := code % 2 ^ f.mbits
  let top := 2 ^ f.ebits - 1
  if f.spec = .ieee ∧ e = top then (if m = 0 then .inf s else .nan)
  else if f.spec = .nanOnly ∧ e = top ∧ m = 2 ^ f.mbits - 1 then .nan
  else if e = 0 then .fin s m f.qmin
  else .fin s (2 ^ f.mbits + m) ((e : Int) - (f.bias : Int) - (f.mbits : Int))

/-- Magnitude m × 2^e (with sticky as in `rneShift`), nonzero, rounded by R28 with the exponent unbounded above:
(integer, quantum exponent). -/
def Fmt.roundMag (f : Fmt) (m : Nat) (e : Int) (sticky : Bool) : Nat × Int :=
  let q := max (ilog2 m e - (f.mbits : Int)) f.qmin
  if q ≤ e then (m * 2 ^ (e - q).toNat, q)
  else (rneShift m (q - e).toNat sticky, q)

/-- Code of a magnitude r × 2^q given by `roundMag`, when it is finite in the format. -/
def Fmt.codeMag (f : Fmt) (r : Nat) (q : Int) : Option Nat :=
  if r = 0 then some 0
  else
    let k := (q - f.qmin).toNat
    -- exponent field k + 1 for a normal with quantum q; a mantissa carry moves to the next exponent by addition
    let c := if r < 2 ^ f.mbits then r else (k + 1) * 2 ^ f.mbits + (r - 2 ^ f.mbits)
    if c ≤ f.maxCode then some c else none

/-- The sign bit. -/
def Fmt.signBit (f : Fmt) (s : Bool) : Nat := if s then 2 ^ (f.ebits + f.mbits) else 0

/-- Canonical NaN (R31); the formats without NaN give 0 (R33). -/
def Fmt.nanCode (f : Fmt) : Nat :=
  match f.spec with
  | .ieee => (2 ^ f.ebits - 1) * 2 ^ f.mbits + 2 ^ (f.mbits - 1)
  | .nanOnly => 2 ^ (f.ebits + f.mbits) - 1
  | .none => 0

/-- What an overflowing value of sign `s` is written as under R32, and whether the element counts. `exceeds` is false for a
value that was already an infinity. -/
def Fmt.overflow (f : Fmt) (outSat s exceeds : Bool) : Nat × Bool :=
  match f.spec with
  | .ieee =>
    if outSat && exceeds then (f.signBit s + f.maxCode, true)
    else (f.signBit s + (2 ^ f.ebits - 1) * 2 ^ f.mbits, exceeds)
  | .nanOnly => if outSat then (f.signBit s + f.maxCode, true) else (f.nanCode, true)
  | .none => (f.signBit s + f.maxCode, true)

/-- Writes a magnitude with sticky into the format under R28 and R32: (code, counted). Whether a finite value overflows is judged
after R28 has rounded it: one above the largest finite value that rounds down to it is written as that value and is not counted.
DESIGN CHOICE, log entry 65. -/
def Fmt.encodeMag (f : Fmt) (outSat s : Bool) (m : Nat) (e : Int) (sticky : Bool) : Nat × Bool :=
  if m = 0 ∧ ¬ sticky then (f.signBit s, false)
  else if m = 0 then (f.signBit s, false)
  else
    let (r, q) := f.roundMag m e sticky
    match f.codeMag r q with
    | some c => (f.signBit s + c, false)
    | none => f.overflow outSat s true

/-- Writes a value into the format under R28, R31 and R32: (code, counted in the saturation count). -/
def Fmt.encode (f : Fmt) (outSat : Bool) : Fl → Nat × Bool
  | .nan => (f.nanCode, false)
  | .inf s => f.overflow outSat s false
  | .fin s m e => f.encodeMag outSat s m e false

/-- One rounding to the format, overflow giving infinity (R28, R29, R30). -/
def Fmt.round (f : Fmt) (v : Fl) : Fl := f.decode (f.encode false v).1

/-- FP32 operations: exact, then one rounding. -/
def fp32Add (a b : Fl) : Fl := fmtFP32.round (a.add b)
def fp32Sub (a b : Fl) : Fl := fmtFP32.round (a.add b.neg)
def fp32Mul (a b : Fl) : Fl := fmtFP32.round (a.mul b)
def fp32Fma (a b c : Fl) : Fl := fmtFP32.round ((a.mul b).add c)

/-- n / d × 2^e rounded to the format; n and d nonzero. Enough quotient bits are formed, with the remainder as sticky. -/
def Fmt.encodeQuot (f : Fmt) (outSat s : Bool) (n d : Nat) (e : Int) : Nat × Bool :=
  let k := bitLen d + f.mbits + 3
  let q := n * 2 ^ k / d
  f.encodeMag outSat s q (e - k) (decide (n * 2 ^ k % d ≠ 0))

/-- IEEE division in FP32. -/
def fp32Div : Fl → Fl → Fl
  | .nan, _ => .nan
  | _, .nan => .nan
  | .inf _, .inf _ => .nan
  | .inf a, .fin s _ _ => .inf (a != s)
  | .fin s _ _, .inf b => .fin (s != b) 0 0
  | .fin s m e, .fin s' m' e' =>
    if m' = 0 then (if m = 0 then .nan else .inf (s != s'))
    else if m = 0 then .fin (s != s') 0 0
    else fmtFP32.decode (fmtFP32.encodeQuot false (s != s') m m' (e - e')).1

/-- Compares finite values and infinities: whether `a` orders below `b`, −0 below +0 (R552). NaN orders with nothing. -/
def Fl.below : Fl → Fl → Bool
  | .nan, _ => false
  | _, .nan => false
  | .inf a, .inf b => a && !b
  | .inf a, .fin _ _ _ => a
  | .fin _ _ _, .inf b => !b
  | .fin s m e, .fin s' m' e' =>
    let e0 := min e e'
    let v := alignTo s m e e0
    let v' := alignTo s' m' e' e0
    if v = v' then s && !s' && decide (v = 0) else decide (v < v')

/-- Maximum of IEEE 754-2019 (R552). -/
def Fl.max (a b : Fl) : Fl := if a.isNan || b.isNan then .nan else if a.below b then b else a

/-- Minimum of IEEE 754-2019 (R552). -/
def Fl.min (a b : Fl) : Fl := if a.isNan || b.isNan then .nan else if b.below a then b else a

/-- Rounds a value to an integer by R28 and saturates to `w` bits; NaN gives 0. Saturated and NaN elements count (R34). -/
def toIntSat (w : Nat) : Fl → Int × Bool
  | .nan => (0, true)
  | .inf s => (if s then -((2 ^ (w - 1) : Nat) : Int) else ((2 ^ (w - 1) : Nat) : Int) - 1, true)
  | .fin s m e =>
    let r : Nat := if 0 ≤ e then m * 2 ^ e.toNat else rneShift m (-e).toNat false
    let v : Int := if s then -(r : Int) else r
    let lo := -((2 ^ (w - 1) : Nat) : Int)
    let hi := ((2 ^ (w - 1) : Nat) : Int) - 1
    if v < lo then (lo, true) else if hi < v then (hi, true) else (v, false)

/-- Saturates an integer to `w` bits (R35, R36). -/
def satInt (w : Nat) (v : Int) : Int × Bool :=
  let lo := -((2 ^ (w - 1) : Nat) : Int)
  let hi := ((2 ^ (w - 1) : Nat) : Int) - 1
  if v < lo then (lo, true) else if hi < v then (hi, true) else (v, false)

/-- The element types of R136. -/
inductive Ty where
  | e4m3 | e5m2 | e3m2 | e2m3 | e2m1 | int8 | bf16 | fp16 | fp32 | ci16 | int32 | krec
  deriving DecidableEq, Repr

/-- Type codes (R136); 0xC to 0xF are reserved. -/
def Ty.ofCode : Nat → Option Ty
  | 0x0 => some .e4m3
  | 0x1 => some .e5m2
  | 0x2 => some .e3m2
  | 0x3 => some .e2m3
  | 0x4 => some .e2m1
  | 0x5 => some .int8
  | 0x6 => some .bf16
  | 0x7 => some .fp16
  | 0x8 => some .fp32
  | 0x9 => some .ci16
  | 0xA => some .int32
  | 0xB => some .krec
  | _ => none

/-- The floating-point format of a type. -/
def Ty.fmt : Ty → Option Fmt
  | .e4m3 => some fmtE4M3
  | .e5m2 => some fmtE5M2
  | .e3m2 => some fmtE3M2
  | .e2m3 => some fmtE2M3
  | .e2m1 => some fmtE2M1
  | .bf16 => some fmtBF16
  | .fp16 => some fmtFP16
  | .fp32 => some fmtFP32
  | _ => none

/-- Types narrower than a byte: the 6-bit and 4-bit MX elements. -/
def Ty.bits6 : Ty → Bool
  | .e3m2 => true
  | .e2m3 => true
  | _ => false

def Ty.bits4 : Ty → Bool
  | .e2m1 => true
  | _ => false

/-- Whole bytes of an element; 0 for the packed types. -/
def Ty.bytes : Ty → Nat
  | .e4m3 => 1
  | .e5m2 => 1
  | .int8 => 1
  | .bf16 => 2
  | .fp16 => 2
  | .fp32 => 4
  | .ci16 => 4
  | .int32 => 4
  | .krec => 32
  | _ => 0

/-- Types that exist as MX elements. -/
def Ty.canMx : Ty → Bool
  | .e4m3 | .e5m2 | .e3m2 | .e2m3 | .e2m1 => true
  | _ => false

/-- The value of an element code; integers as exact values. -/
def Ty.value (t : Ty) (code : Nat) : Fl :=
  match t.fmt with
  | some f => f.decode code
  | none => if t = .int8 then .ofInt (toSigned 8 code) else .ofInt (toSigned 32 code)

/-- E8M0 scale (R24): none for NaN, otherwise its exponent. -/
def mxScale (x : Nat) : Fl := if x = 0xFF then .nan else .fin false 1 ((x : Int) - 127)

/-- Block scale byte of R33 from the exact values of a block. A block of a type with infinities (E5M2) whose only nonzero elements are
infinities has no amax: it takes scale 0x00. DESIGN CHOICE, log entry 66. -/
def mxBlockScale (f : Fmt) (vs : List Fl) : Nat :=
  let bad := vs.any fun v => match v with
    | .nan => true
    | .inf _ => decide (f.spec ≠ .ieee)
    | .fin _ _ _ => false
  if bad then 0xFF
  else
    let top := vs.foldl (fun (t : Option Int) v => match v with
      | .fin _ m e => if m = 0 then t else
          match t with
          | none => some (ilog2 m e)
          | some x => some (Max.max x (ilog2 m e))
      | _ => t) none
    match top with
    | none => 0
    | some x =>
      let b := x - f.emax + 127
      if b < 0 then 0 else if 0xFE < b then 0xFE else b.toNat

/-- One element of an MX block under its scale byte: (code, counted) (R33). An infinity stays one where the type has it. -/
def mxElement (f : Fmt) (scale : Nat) (v : Fl) : Nat × Bool :=
  if scale = 0xFF then (0, false)
  else f.encode true (v.scale2 (127 - (scale : Int)))

-- The kaolin window (R40 to R51) -------------------------------------------------------------------------------------

/-- A kaolin accumulator element: the integer V and the flags beside it (R40, R43, R45). -/
structure Kao where
  v : Int
  satHi : Bool
  satLo : Bool
  pinf : Bool
  ninf : Bool
  nan : Bool
  deriving DecidableEq, Repr

/-- A cleared element (R76). -/
def Kao.zero : Kao := ⟨0, false, false, false, false, false⟩

/-- The largest magnitude inside the window, in units of 2^W: 2^191 - 1 (R42). -/
def kaoLimit : Int := ((2 ^ 191 : Nat) : Int) - 1

/-- A finite value entering the window at base `w`: (units, SAT_HI, SAT_LO), by the steps of R42. -/
def kaoEnterFin (w : Int) (s : Bool) (m : Nat) (e : Int) : Int × Bool × Bool :=
  let k := e - w
  let (u, lost) : Nat × Bool :=
    if 0 ≤ k then (m * 2 ^ k.toNat, false)
    else (m >>> (-k).toNat, decide (m % 2 ^ (-k).toNat ≠ 0))
  let hi : Bool := decide (kaoLimit < (u : Int))
  let u' : Int := if hi then kaoLimit else u
  (if s then -u' else u', hi, lost)

/-- Adds a value to an element under R42 and R45. -/
def Kao.addFl (w : Int) (k : Kao) : Fl → Kao
  | .nan => { k with nan := true }
  | .inf s => if s then { k with ninf := true } else { k with pinf := true }
  | .fin s m e =>
    let (u, hi, lo) := kaoEnterFin w s m e
    { k with v := k.v + u, satHi := k.satHi || hi, satLo := k.satLo || lo }

/-- The clamp of R43 to 192 bits. -/
def Kao.clamp (k : Kao) : Kao :=
  let (v, ov) := satInt 192 k.v
  { k with v := v, satHi := k.satHi || ov }

/-- The value written at drain (R48), before rounding. -/
def Kao.toFl (w : Int) (k : Kao) : Fl :=
  if k.nan || (k.pinf && k.ninf) then .nan
  else if k.pinf then .inf false
  else if k.ninf then .inf true
  else .ofScaled k.v w

/-- The 256-bit partial record of R49. -/
def Kao.record (w : Int) (k : Kao) : Nat :=
  ofSigned 192 k.v + ofSigned 16 w * 2 ^ 192 + (if k.satHi then 2 ^ 208 else 0) + (if k.satLo then 2 ^ 209 else 0)
    + (if k.pinf then 2 ^ 210 else 0) + (if k.ninf then 2 ^ 211 else 0) + (if k.nan then 2 ^ 212 else 0)

/-- Reads a record: its window base and element. -/
def recordOf (r : Nat) : Int × Kao :=
  (toSigned 16 (field r 207 192),
   ⟨toSigned 192 (field r 191 0), bit r 208, bit r 209, bit r 210, bit r 211, bit r 212⟩)

/-- Whether a record has reserved bits set (R49). -/
def recordReserved (r : Nat) : Bool := decide (field r 255 213 ≠ 0)

/-- Adds a record with its flags: exactly at the same window base, and converted to base `w` under R42 from another (R50, R51, R145). -/
def Kao.addRecord (w : Int) (k : Kao) (r : Nat) : Kao :=
  let (w', a) := recordOf r
  let (u, hi, lo) := if w' = w then (a.v, false, false) else kaoEnterFin w (decide (a.v < 0)) a.v.natAbs w'
  ⟨k.v + u, k.satHi || a.satHi || hi, k.satLo || a.satLo || lo, k.pinf || a.pinf, k.ninf || a.ninf, k.nan || a.nan⟩

/-- An accumulator element (R63): cleared, or what the mode of its command holds. A cleared element reads as FP32 +0, as an
integer 0, or as a kaolin V of 0 with all flags clear (R76). -/
inductive Acc where
  | clear
  | fp32 (code : Nat)
  | int40 (v : Int)
  | kaolin (k : Kao)
  | pair (re im : Int)
  deriving DecidableEq, Repr, Inhabited

def Acc.isClear : Acc → Bool
  | .clear => true
  | .fp32 c => decide (c = 0)
  | .int40 v => decide (v = 0)
  | .kaolin k => decide (k = Kao.zero)
  | .pair a b => decide (a = 0) && decide (b = 0)

/-- FP32 value of an element. -/
def Acc.fl : Acc → Fl
  | .fp32 c => fmtFP32.decode c
  | _ => Fl.zero

def Acc.int : Acc → Int
  | .int40 v => v
  | _ => 0

def Acc.kao : Acc → Kao
  | .kaolin k => k
  | _ => Kao.zero

def Acc.parts : Acc → Int × Int
  | .pair a b => (a, b)
  | _ => (0, 0)

/-- A kaolin fabric atomic add of a record into a home record (R51). -/
def kaoAtomicAdd (home addend : Nat) : Nat :=
  let (w, h) := recordOf home
  ((h.addRecord w addend).clamp).record w

end Sys2Proof.Machine
end

