-- ==== Sys2Proof/Machine/Special.lean ====
section
/-! DEFINITION. The special functions of R106 to R113: exact real functions bracketed with 420 fraction bits, the exact path
and the segment path of R101. R108 states that 56 significant bits decide every exact-path rounding. -/

namespace Sys2Proof.Machine

/-- The functions of ACT (R99, R106). -/
inductive Act where
  | none | relu | tanh | logistic | gelu | exp2 | recip | rsqrt
  deriving DecidableEq, Repr

/-- ACT codes; 0x8 to 0xF are reserved. -/
def Act.ofCode : Nat → Option Act
  | 0 => some .none
  | 1 => some .relu
  | 2 => some .tanh
  | 3 => some .logistic
  | 4 => some .gelu
  | 5 => some .exp2
  | 6 => some .recip
  | 7 => some .rsqrt
  | _ => Option.none

def Act.code : Act → Nat
  | .none => 0
  | .relu => 1
  | .tanh => 2
  | .logistic => 3
  | .gelu => 4
  | .exp2 => 5
  | .recip => 6
  | .rsqrt => 7

/-- Whether the function has two paths (R101). -/
def Act.transcendental : Act → Bool
  | .none => false
  | .relu => false
  | _ => true

/-- A value that may be known only as an open bracket: with `sticky`, the true magnitude lies strictly between m × 2^e and
(m + 1) × 2^e. -/
structure Approx where
  v : Fl
  sticky : Bool
  deriving DecidableEq, Repr

def Approx.exact (v : Fl) : Approx := ⟨v, false⟩

/-- Fraction bits of the fixed-point bracket. -/
def fxBits : Nat := 420

def fxOne : Nat := 2 ^ fxBits

def fxMul (a b : Nat) : Nat := a * b / fxOne

/-- Σ 1/((2k+1) n^(2k+1)), alternating when `alt`: atanh or atan of 1/n. -/
def fxAtan (alt : Bool) (n2 : Nat) : Nat → Nat → Nat → Int → Int
  | 0, _, _, acc => acc
  | fuel + 1, k, p, acc =>
    let t : Int := ((p / (2 * k + 1) : Nat) : Int)
    fxAtan alt n2 fuel (k + 1) (p / n2) (if alt && k % 2 = 1 then acc - t else acc + t)

def fxAtanh (n : Nat) : Nat := (fxAtan false (n * n) 100 0 (fxOne / n) 0).toNat

/-- ln 2 = 18 atanh(1/26) - 2 atanh(1/4801) + 8 atanh(1/8749). -/
def fxLn2 : Nat := 18 * fxAtanh 26 + 8 * fxAtanh 8749 - 2 * fxAtanh 4801

/-- π = 16 atan(1/5) - 4 atan(1/239). -/
def fxPi : Nat :=
  16 * (fxAtan true 25 200 0 (fxOne / 5) 0).toNat - 4 * (fxAtan true (239 * 239) 100 0 (fxOne / 239) 0).toNat

/-- Integer square root, bit by bit from bit `b` down. -/
def isqrtF : Nat → Nat → Nat → Nat
  | 0, _, r => r
  | b + 1, n, r => let t := r + 2 ^ b; isqrtF b n (if t * t ≤ n then t else r)

def isqrt (n : Nat) : Nat := isqrtF (bitLen n / 2 + 1) n 0

/-- √(2/π) of R106. -/
def fxGeluC : Nat := isqrt (2 * fxOne * fxOne * fxOne / fxPi)

/-- e^r for 0 ≤ r < 1, by the power series. -/
def fxExpF (r : Nat) : Nat → Nat → Nat → Nat → Nat
  | 0, _, _, acc => acc
  | fuel + 1, k, t, acc => let t' := fxMul t r / k; fxExpF r fuel (k + 1) t' (acc + t')

def fxExp (r : Nat) : Nat := fxExpF r 110 1 fxOne fxOne

/-- e^(-y) for y ≥ 0 in fixed point: 2^(-k) e^r with y = k ln2 - r. -/
def fxExpNeg (y : Nat) : Nat :=
  let k := y / fxLn2 + 1
  fxExp (k * fxLn2 - y) / 2 ^ k

/-- m × 2^e in fixed point, truncated. -/
def fxOf (m : Nat) (e : Int) : Nat :=
  let k := e + fxBits
  if 0 ≤ k then m * 2 ^ k.toNat else m / 2 ^ (-k).toNat

/-- A bracket of magnitude n × 2^(-fxBits). -/
def fxApprox (s : Bool) (n : Nat) : Approx := ⟨.fin s n (-(fxBits : Int)), true⟩

/-- Just below m × 2^e. -/
def justBelow (s : Bool) (m : Nat) (e : Int) : Approx := ⟨.fin s (m * 2 ^ 100 - 1) (e - 100), true⟩

/-- A positive magnitude far below every output format's range. -/
def tinyApprox (s : Bool) : Approx := ⟨.fin s 1 (-1000), true⟩

/-- 1 / (1 + e^(-y)) for signed y = ±n. -/
def fxLogistic (s : Bool) (y : Nat) : Nat :=
  let t := fxExpNeg y
  if s then t * fxOne / (fxOne + t) else fxOne * fxOne / (fxOne + t)

/-- The exact function at a finite nonzero FP32 input (−1)^s m 2^e, bracketed (R106). -/
def actFinite (a : Act) (s : Bool) (m : Nat) (e : Int) : Approx :=
  match a with
  | .none => .exact (.fin s m e)
  | .relu => .exact (if s then Fl.zero else .fin s m e)
  | .tanh =>
    if 7 ≤ ilog2 m e then justBelow s 1 0
    else if ilog2 m e < -60 then justBelow s m e
    else
      let t := fxExpNeg (2 * fxOf m e)
      fxApprox s ((fxOne - t) * fxOne / (fxOne + t))
  | .logistic =>
    if 8 ≤ ilog2 m e then (if s then tinyApprox false else justBelow false 1 0)
    else fxApprox false (fxLogistic s (fxOf m e))
  | .gelu =>
    if 4 ≤ ilog2 m e then (if s then tinyApprox true else justBelow false m e)
    else
      let x := fxOf m e
      let u := fxMul fxGeluC (x + fxMul (fxMul x x) x * 44715 / 1000000)
      let l := fxLogistic s (2 * u)
      if l = fxOne then justBelow false m e
      else if l = 0 then tinyApprox s
      else ⟨.fin s (m * l) (e - fxBits), true⟩
  | .exp2 =>
    if 10 ≤ ilog2 m e then (if s then tinyApprox false else .exact (.fin false 1 1024))
    else
      let x := fxOf m e
      let k : Int := ((x / fxOne : Nat) : Int)
      let f := x % fxOne
      if f = 0 then .exact (.fin false 1 (if s then -k else k))
      else
        let (k', f') : Int × Nat := if s then (-k - 1, fxOne - f) else (k, f)
        ⟨.fin false (fxExp (fxMul f' fxLn2)) (k' - fxBits), true⟩
  | .recip =>
    let n := 2 ^ 200 / m
    ⟨.fin s n (-e - 200), decide (2 ^ 200 % m ≠ 0)⟩
  | .rsqrt =>
    if s then .exact .nan
    else
      let (m', e') : Nat × Int := if e % 2 = 0 then (m, e) else (2 * m, e - 1)
      let n := isqrt (2 ^ 400 / m')
      ⟨.fin false n (-(e' / 2) - 200), decide (n * n * m' ≠ 2 ^ 400)⟩

/-- Special values of R107. -/
def actSpecial (a : Act) (v : Fl) : Option Fl :=
  match v with
  | .nan => some .nan
  | .inf s =>
    some (match a with
      | .none => .inf s
      | .relu => if s then Fl.zero else .inf false
      | .tanh => .fin s 1 0
      | .logistic => if s then Fl.zero else Fl.one
      | .gelu => if s then .fin true 0 0 else .inf false
      | .exp2 => if s then Fl.zero else .inf false
      | .recip => .fin s 0 0
      | .rsqrt => if s then .nan else Fl.zero)
  | .fin s m _ =>
    if m ≠ 0 then Option.none
    else some (match a with
      | .none => v
      | .relu => Fl.zero
      | .tanh => v
      | .logistic => .fin false 1 (-1)
      | .gelu => v
      | .exp2 => Fl.one
      | .recip => .inf s
      | .rsqrt => .inf s)

/-- f(x), exactly or as a bracket. -/
def actValue (a : Act) (v : Fl) : Approx :=
  match actSpecial a v with
  | some r => .exact r
  | Option.none =>
    match v with
    | .fin s m e => actFinite a s m e
    | _ => .exact .nan

/-- Whether a special function made a NaN from an input that is not NaN, which the invalid count counts (R105). -/
def actInvalid (a : Act) (v : Fl) : Bool := !v.isNan && (actValue a v).v.isNan

/-- Saturated ranges of the segment path (R113). -/
def segSaturated (a : Act) (s : Bool) (m : Nat) (e : Int) : Option Fl :=
  let below (n : Nat) : Bool := (Fl.fin false m e).below (.fin false n 0)
  match a with
  | .tanh => if below 16 then Option.none else some (.fin s 1 0)
  | .logistic =>
    if s then (if (Fl.fin false 104 0).below (.fin false m e) then some Fl.zero else Option.none)
    else if below 32 then Option.none else some Fl.one
  | .gelu =>
    if s then (if below 16 then Option.none else some (.fin true 0 0))
    else if below 8 then Option.none else some (.fin false m e)
  | .exp2 =>
    if s then (if below 150 then Option.none else some Fl.zero)
    else if below 128 then Option.none else some (.inf false)
  | _ => Option.none

/-- The running numerics firmware as the segment path sees it: the determinism class that carries its version (R52) and its
GELU_XMIN (R112). -/
structure Numfw where
  cls  : Nat
  xmin : Nat
  deriving DecidableEq, Repr

/-- The FP32 code of magnitude n × 2^q, n < 2^25, with the exponent unbounded above (R101): codes rise with the magnitude. -/
def segCode (n : Nat) (q : Int) : Nat :=
  if n < 2 ^ 23 then n else ((q - fmtFP32.qmin).toNat + 1) * 2 ^ 23 + (n - 2 ^ 23)

/-- The magnitude of such a code, as (integer, quantum exponent). -/
def segMag (c : Nat) : Nat × Int :=
  if c < 2 ^ 23 then (c, fmtFP32.qmin) else (2 ^ 23 + c % 2 ^ 23, fmtFP32.qmin + ((c / 2 ^ 23 : Nat) : Int) - 1)

/-- Code of the largest FP32 magnitude, exponent unbounded above, that is at most m × 2^e. -/
def segFloor (m : Nat) (e : Int) : Nat :=
  let q := max (ilog2 m e - 23) fmtFP32.qmin
  segCode (if q ≤ e then m * 2 ^ (e - q).toNat else m >>> (q - e).toNat) q

/-- Code of the least such magnitude that is at least m × 2^e, or above it when `strict`. -/
def segCeil (m : Nat) (e : Int) (strict : Bool) : Nat :=
  let c := segFloor m e
  let q := max (ilog2 m e - 23) fmtFP32.qmin
  if strict || (decide (e < q) && decide (m % 2 ^ (q - e).toNat ≠ 0)) then c + 1 else c

/-- Code of the correctly rounded FP32 magnitude of a bracketed value, exponent unbounded above. -/
def segRound (x : Approx) : Nat :=
  match x.v with
  | .fin _ m e => if m = 0 then 0 else let (r, q) := fmtFP32.roundMag m e x.sticky; segCode r q
  | _ => 0

/-- The least and greatest codes within 1.5 ulp of a bracketed value (R110). -/
def segNear (x : Approx) : Nat × Nat :=
  match x.v with
  | .fin _ m e =>
    let q := max (ilog2 m e - 23) fmtFP32.qmin
    let e0 := min e (q - 1)
    let f := m * 2 ^ (e - e0).toNat
    let h := 3 * 2 ^ (q - 1 - e0).toNat
    (if f < h then 0 else segCeil (f - h) e0 x.sticky, segFloor (f + h) e0)
  | _ => (0, 0)

/-- The least n in [lo, hi) with `p n`, or `hi`, where `p` once true stays true. -/
def firstIn (p : Nat → Bool) : Nat → Nat → Nat → Nat
  | 0, _, hi => hi
  | fuel + 1, lo, hi =>
    if hi ≤ lo then hi
    else
      let mid := (lo + hi) / 2
      if p mid then firstIn p fuel lo mid else firstIn p fuel (mid + 1) hi

/-- Whether |f| falls with the magnitude of the input: R112, with the seam GELU_XMIN parting GELU's two directions. -/
def segFalls (fw : Numfw) (a : Act) (s : Bool) (c : Nat) : Bool :=
  match a with
  | .recip => true
  | .rsqrt => true
  | .logistic => s
  | .exp2 => s
  | .gelu => s && decide (fw.xmin % 2 ^ 31 ≤ c)
  | _ => false

/-- First code of the piece that holds the positive FP32 code `c`, and first code after it: the seams of the input's exponent and
of its leading mantissa bits (R109, R113), and GELU's extra seam (R112). An exp2 piece is 1/16 wide, or a binade below 1/16. -/
def segPiece (fw : Numfw) (a : Act) (s : Bool) (c : Nat) : Nat × Nat :=
  let (m, e) := segMag c
  let b : Int :=
    match a with
    | .tanh => 3
    | .logistic => 3
    | .exp2 => max 0 (ilog2 m e + 4)
    | _ => 4
  let q := ilog2 m e - b
  let n := if q ≤ e then m * 2 ^ (e - q).toNat else m >>> (q - e).toNat
  let lo := segCeil n q false
  let hi := segCeil (n + 1) q false
  let x := fw.xmin % 2 ^ 31
  if a = .gelu ∧ s ∧ lo < x ∧ x < hi then (if c < x then (lo, x) else (x, hi)) else (lo, hi)

/-- The exact function at the FP32 code `c` with sign `s`. -/
def actAt (a : Act) (s : Bool) (c : Nat) : Approx :=
  let (m, e) := segMag c
  actFinite a s m e

/-- Exponent of the exact result. A result that is exactly a power of two belongs to the binade below it where |f| falls, so
that a seam there is the segment's first input, as the example of R113 has it at 2.0. -/
def segExp (a : Act) (s falls : Bool) (c : Nat) : Int :=
  let y := actAt a s c
  match y.v with
  | .fin _ m e => if falls && !y.sticky && decide (m = 2 ^ (bitLen m - 1)) then ilog2 m e - 1 else ilog2 m e
  | _ => 0

/-- The segment that holds the positive FP32 code `c`: its first code and the first code of the next segment (R109). Segments of
negative inputs are taken by magnitude. DEDUCED, log entry 10. -/
def segment (fw : Numfw) (a : Act) (s : Bool) (c : Nat) : Nat × Nat :=
  let (lo, hi) := segPiece fw a s c
  let falls := segFalls fw a s c
  let x := segExp a s falls c
  (firstIn (fun n => decide (segExp a s falls n = x)) 32 lo c, firstIn (fun n => decide (segExp a s falls n ≠ x)) 32 c hi)

/-- Least and greatest result code at code `c` of the segment [`lo`, `hi`): within 1.5 ulp of the exact value (R110) and clamped to
the correctly rounded values at the segment's two ends (R111). -/
def segBounds (a : Act) (s : Bool) (lo hi c : Nat) : Nat × Nat :=
  let (l, u) := segNear (actAt a s c)
  let p := segRound (actAt a s lo)
  let q := segRound (actAt a s hi)
  (max l (min p q), min u (max p q))

/-- The result code at code `c` of the segment [`lo`, `hi`). A monotone function is given by the first input at which it reaches
each value; the numerics firmware fixes these inputs among those the bounds of R110 and R111 leave, and Config.segPick stands
for its choice. Free value, log entry 10. -/
def segResult (fw : Numfw) (a : Act) (s : Bool) (lo hi c : Nat) : Nat :=
  let falls := segFalls fw a s c
  let reach (v : Nat) : Bool :=
    let may (n : Nat) : Bool := let b := segBounds a s lo hi n; if falls then decide (b.1 ≤ v) else decide (v ≤ b.2)
    let must (n : Nat) : Bool := let b := segBounds a s lo hi n; if falls then decide (b.2 ≤ v) else decide (v ≤ b.1)
    let first := firstIn may 32 lo hi
    let last := firstIn must 32 lo hi
    decide (first + Config.segPick fw.cls (a.code * 2 + (if s then 1 else 0)) lo v % (last - first + 1) ≤ c)
  let (l, u) := segBounds a s lo hi c
  let vs := (List.range (u - l + 1)).map (l + ·)
  if falls then (vs.find? reach).getD u else (vs.reverse.find? reach).getD l

/-- f(x) on the segment path (R101, R109 to R113), with the exponent unbounded above: a function of the numerics firmware and
the input, odd for tanh and reciprocal, which are evaluated on |x|. -/
def segValue (fw : Numfw) (a : Act) (x : Fl) : Fl :=
  match actSpecial a x with
  | some r => r
  | Option.none =>
    match x with
    | .fin s m e =>
      match segSaturated a s m e with
      | some r => r
      | Option.none =>
        let y := actFinite a s m e
        match y.v with
        | .fin sy _ _ =>
          let s' := s && !(decide (a = .tanh) || decide (a = .recip))
          let c := segFloor m e
          let (lo, hi) := segment fw a s' c
          let (n, q) := segMag (segResult fw a s' lo hi c)
          .fin sy n q
        | v => v
    | _ => .nan

end Sys2Proof.Machine
end

