-- ==== Sys2Proof/Machine/Operands.lean ====
section
/-! DEFINITION. The 64-byte descriptor of R134 to R143: its fields, the three address forms of R135, and where the elements
of an operand panel lie (R66, R69, R553). A descriptor is a 512-bit number, bit 0 the least significant bit of byte 0. -/

namespace Sys2Proof.Machine

/-- A descriptor as a 512-bit number. -/
abbrev Desc := Nat

-- The header (R134) --------------------
def Desc.expectedStep (d : Desc) : Nat := field d 127 64
def Desc.tag (d : Desc) : Nat := field d 63 32
def Desc.opcode (d : Desc) : Nat := field d 31 20
def Desc.signalCtr (d : Desc) : Nat := field d 19 12
def Desc.signalEn (d : Desc) : Bool := bit d 11
def Desc.irq (d : Desc) : Bool := bit d 10
def Desc.stepCheck (d : Desc) : Bool := bit d 9
def Desc.ndAck (d : Desc) : Bool := bit d 8

-- The matrix body (R137) --------------------
def Desc.matM (d : Desc) : Nat := field d 511 496
def Desc.matN (d : Desc) : Nat := field d 495 480
def Desc.matK (d : Desc) : Nat := field d 479 464
def Desc.matAType (d : Desc) : Nat := field d 463 460
def Desc.matBType (d : Desc) : Nat := field d 459 456
def Desc.matOutType (d : Desc) : Nat := field d 455 452
def Desc.matMxA (d : Desc) : Bool := bit d 451
def Desc.matMxB (d : Desc) : Bool := bit d 450
def Desc.matMxOut (d : Desc) : Bool := bit d 449
def Desc.matKaolin (d : Desc) : Bool := bit d 448
def Desc.matPack (d : Desc) : Bool := bit d 447
def Desc.matAccumulate (d : Desc) : Bool := bit d 446
def Desc.matRecordOut (d : Desc) : Bool := bit d 445
def Desc.matOutSat (d : Desc) : Bool := bit d 444
def Desc.matConjA (d : Desc) : Bool := bit d 443
def Desc.matConjB (d : Desc) : Bool := bit d 442
def Desc.matShift (d : Desc) : Nat := field d 441 437
def Desc.matWindowBase (d : Desc) : Int := toSigned 10 (field d 436 427)
def Desc.matInscaleMode (d : Desc) : Nat := field d 426 425
def Desc.matBiasMode (d : Desc) : Nat := field d 424 423
def Desc.matFillScaleMode (d : Desc) : Nat := field d 422 421
def Desc.matAct (d : Desc) : Nat := field d 420 417
def Desc.matOutExp (d : Desc) : Int := toSigned 8 (field d 416 409)
def Desc.matAAddr (d : Desc) : Nat := field d 408 383
def Desc.matBAddr (d : Desc) : Nat := field d 382 357
def Desc.matCAddr (d : Desc) : Nat := field d 356 335
def Desc.matDAddr (d : Desc) : Nat := field d 334 313
def Desc.matAScaleAddr (d : Desc) : Nat := field d 312 291
def Desc.matBScaleAddr (d : Desc) : Nat := field d 290 269
def Desc.matOutScaleAddr (d : Desc) : Nat := field d 268 247
def Desc.matAPanelStride (d : Desc) : Nat := field d 246 231
def Desc.matBPanelStride (d : Desc) : Nat := field d 230 215
def Desc.matOutPanelStride (d : Desc) : Nat := field d 214 199
def Desc.matInscaleIdx (d : Desc) : Nat := field d 198 185
def Desc.matBiasIdx (d : Desc) : Nat := field d 184 171
def Desc.matFillScaleIdx (d : Desc) : Nat := field d 170 157
def Desc.matParamAddr (d : Desc) : Nat := field d 156 141
def Desc.matParamLen (d : Desc) : Nat := field d 140 130
def Desc.matParamBf16 (d : Desc) : Bool := bit d 129
def Desc.matCRecord (d : Desc) : Bool := bit d 128

-- The vector body (R139) --------------------
def Desc.vecRows (d : Desc) : Nat := field d 511 496
def Desc.vecCols (d : Desc) : Nat := field d 495 480
def Desc.vecIn0Type (d : Desc) : Nat := field d 479 476
def Desc.vecIn1Type (d : Desc) : Nat := field d 475 472
def Desc.vecOutType (d : Desc) : Nat := field d 471 468
def Desc.vecMxOut (d : Desc) : Bool := bit d 467
def Desc.vecKaolin (d : Desc) : Bool := bit d 466
def Desc.vecRecordOut (d : Desc) : Bool := bit d 465
def Desc.vecOutSat (d : Desc) : Bool := bit d 464
def Desc.vecAxis (d : Desc) : Nat := field d 463 463
def Desc.vecRsqrt (d : Desc) : Bool := bit d 462
def Desc.vecRms (d : Desc) : Bool := bit d 461
def Desc.vecSubop (d : Desc) : Nat := field d 460 457
def Desc.vecWindowBase (d : Desc) : Int := toSigned 10 (field d 456 447)
def Desc.vecInscaleMode (d : Desc) : Nat := field d 446 445
def Desc.vecBiasMode (d : Desc) : Nat := field d 444 443
def Desc.vecAct (d : Desc) : Nat := field d 442 439
def Desc.vecOutExp (d : Desc) : Int := toSigned 8 (field d 438 431)
def Desc.vecIn0Addr (d : Desc) : Nat := field d 430 409
def Desc.vecIn1Addr (d : Desc) : Nat := field d 408 387
def Desc.vecOut0Addr (d : Desc) : Nat := field d 386 365
def Desc.vecOut1Addr (d : Desc) : Nat := field d 364 343
def Desc.vecOut2Addr (d : Desc) : Nat := field d 342 321
def Desc.vecOutScaleAddr (d : Desc) : Nat := field d 320 299
def Desc.vecParamAddr (d : Desc) : Nat := field d 298 283
def Desc.vecParamLen (d : Desc) : Nat := field d 282 272
def Desc.vecParamBf16 (d : Desc) : Bool := bit d 271
def Desc.vecInscaleIdx (d : Desc) : Nat := field d 270 257
def Desc.vecBiasIdx (d : Desc) : Nat := field d 256 243
def Desc.vecStateIdx (d : Desc) : Nat := field d 242 229
def Desc.vecFval (d : Desc) : Nat := field d 228 197

-- The DMA body (R141) --------------------
def Desc.dmaSrc (d : Desc) : Nat := field d 511 448
def Desc.dmaDst (d : Desc) : Nat := field d 447 384
def Desc.dmaLength (d : Desc) : Nat := field d 383 352
def Desc.dmaRows (d : Desc) : Nat := field d 351 336
def Desc.dmaSrcPitch (d : Desc) : Nat := field d 335 304
def Desc.dmaDstPitch (d : Desc) : Nat := field d 303 272
def Desc.dmaElem (d : Desc) : Nat := field d 271 268
def Desc.dmaSubop (d : Desc) : Nat := field d 267 264
def Desc.dmaFval (d : Desc) : Nat := field d 263 232
def Desc.dmaFval2 (d : Desc) : Nat := field d 231 200
def Desc.dmaDrawsM1 (d : Desc) : Nat := field d 199 184
def Desc.dmaIdxAddr (d : Desc) : Nat := field d 183 158

-- The fabric body (R142) --------------------
def Desc.fabFaddr (d : Desc) : Nat := field d 496 448
def Desc.fabLocal (d : Desc) : Nat := field d 447 384
def Desc.fabLength (d : Desc) : Nat := field d 383 352
def Desc.fabCmpLocal (d : Desc) : Nat := field d 351 288
def Desc.fabResultLocal (d : Desc) : Nat := field d 287 224

-- The hub bodies (R143) -----------------------
def Desc.waitCounter (d : Desc) : Nat := field d 511 504
def Desc.waitValue (d : Desc) : Nat := field d 503 440
def Desc.waitMemAddr (d : Desc) : Nat := field d 511 448
def Desc.waitMemValue (d : Desc) : Nat := field d 447 384
def Desc.seed (d : Desc) : Nat := field d 511 384
def Desc.readTimeTb (d : Desc) : Nat := field d 511 508
def Desc.readTimeDst (d : Desc) : Nat := field d 507 486

/-- The opcodes of R144. -/
inductive Op where
  | matmul | cmatmul | fullSum
  | map | binary | convert | lineMax | softmaxStep | softmaxExact | normalise | normStats | normApply
  | copy | copy2d | fill | transpose | toPanels | gather | fillRandom | hostRead | hostWrite | loamAcquire | loamRelease
  | fload | fstore | fstoreShared | faddI64 | ffetchAddI64 | fswapI64 | fcasI64 | faddF32Fast | faddKrec
  | nop | wait | waitMem | fenceFabric | setSeed | readTime
  deriving DecidableEq, Repr

/-- Opcode numbers of the engine commands (R144). -/
def Op.tableEngine : List (Nat × Op) :=
  [(0x000, .matmul), (0x010, .cmatmul), (0x020, .fullSum), (0x100, .map), (0x101, .binary), (0x102, .convert),
   (0x110, .lineMax), (0x111, .softmaxStep), (0x112, .softmaxExact), (0x113, .normalise), (0x120, .normStats),
   (0x121, .normApply)]

/-- Opcode numbers of the DMA commands (R144). -/
def Op.tableDma : List (Nat × Op) :=
  [(0x200, .copy), (0x201, .copy2d), (0x202, .fill), (0x210, .transpose), (0x211, .toPanels), (0x212, .gather),
   (0x221, .fillRandom), (0x230, .hostRead), (0x231, .hostWrite), (0x240, .loamAcquire), (0x241, .loamRelease)]

/-- Opcode numbers of the fabric commands (R144). -/
def Op.tableFabric : List (Nat × Op) :=
  [(0x300, .fload), (0x301, .fstore), (0x302, .fstoreShared), (0x310, .faddI64), (0x311, .ffetchAddI64),
   (0x312, .fswapI64), (0x313, .fcasI64), (0x318, .faddF32Fast), (0x320, .faddKrec)]

/-- Opcode numbers of the hub commands (R144). -/
def Op.tableHub : List (Nat × Op) :=
  [(0x400, .nop), (0x402, .wait), (0x403, .waitMem), (0x410, .fenceFabric), (0x420, .setSeed), (0x430, .readTime)]

/-- Opcode numbers; every other opcode is undefined (R144). -/
def Op.table : List (Nat × Op) := Op.tableEngine ++ Op.tableDma ++ Op.tableFabric ++ Op.tableHub

def Op.ofCode (c : Nat) : Option Op := (Op.table.find? fun p => p.1 = c).map (·.2)

/-- Where a command runs (R144). -/
inductive OpUnit where
  | engine | dma | fabric | hub
  deriving DecidableEq, Repr

def Op.unit : Op → OpUnit
  | .matmul | .cmatmul | .fullSum => .engine
  | .map | .binary | .convert | .lineMax | .softmaxStep | .softmaxExact | .normalise | .normStats | .normApply => .engine
  | .copy | .copy2d | .fill | .transpose | .toPanels | .gather | .fillRandom | .hostRead | .hostWrite => .dma
  | .loamAcquire | .loamRelease => .dma
  | .fload | .fstore | .fstoreShared | .faddI64 | .ffetchAddI64 | .fswapI64 | .fcasI64 | .faddF32Fast | .faddKrec => .fabric
  | .nop | .wait | .waitMem | .fenceFabric | .setSeed | .readTime => .hub

/-- The opcode group (R144, R169). -/
def Op.group : Op → Nat
  | .matmul => 0
  | .cmatmul => 1
  | .fullSum => 2
  | .map | .binary | .convert | .lineMax | .softmaxStep | .softmaxExact | .normalise | .normStats | .normApply => 3
  | .copy | .copy2d | .fill => 4
  | .transpose | .toPanels | .gather => 5
  | .fillRandom => 6
  | .hostRead | .hostWrite => 7
  | .loamAcquire | .loamRelease => 8
  | .fload | .fstore => 9
  | .fstoreShared => 10
  | .faddI64 | .ffetchAddI64 | .fswapI64 | .fcasI64 => 11
  | .faddF32Fast => 12
  | .faddKrec => 13
  | .nop | .wait | .waitMem | .fenceFabric => 14
  | .setSeed => 15
  | .readTime => 16

/-- ND operations (R144, R55). -/
def Op.nd : Op → Bool
  | .fstoreShared | .ffetchAddI64 | .fswapI64 | .fcasI64 | .faddF32Fast | .readTime => true
  | _ => false

/-- Matrix commands. -/
def Op.isMatrix : Op → Bool
  | .matmul | .cmatmul | .fullSum => true
  | _ => false

/-- Fabric atomics. -/
def Op.isAtomic : Op → Bool
  | .faddI64 | .ffetchAddI64 | .fswapI64 | .fcasI64 | .faddF32Fast | .faddKrec => true
  | _ => false

/-- Bytes of one element of a fabric atomic (R148). -/
def Op.atomBytes : Op → Nat
  | .faddF32Fast => 4
  | .faddKrec => 32
  | _ => 8

/-- Atomics that return the prior values. -/
def Op.fetches : Op → Bool
  | .ffetchAddI64 | .fswapI64 | .fcasI64 => true
  | _ => false

/-- A byte range of a tier, relative to the context's allocation there (R135, R151). -/
structure Ext where
  tier : Nat
  off  : Nat
  len  : Nat
  deriving DecidableEq, Repr

/-- The tier of a 64-bit tier address, and its offset (R135). -/
def tierOf (a : Nat) : Nat := field a 63 60
def tierOff (a : Nat) : Nat := field a 59 0

/-- Tier and offset of a 26-bit scratchpad address (R135). -/
def scrTier (a : Nat) : Nat := field a 25 25
def scrOff (a : Nat) : Nat := field a 24 0

/-- ⌈a / b⌉. -/
def ceilDiv (a b : Nat) : Nat := (a + b - 1) / b

/-- V of a port and 48-bit tags by signed difference (R305). -/
def tagMax (a b : Nat) : Nat := if 0 ≤ toSigned 48 (a + 2 ^ 48 - b % 2 ^ 48) then a % 2 ^ 48 else b % 2 ^ 48

/-- Bytes from one step of a panel to the next; for the packed types from one pair of steps to the next (R66). -/
def Ty.pitch : Ty → Nat
  | .e2m1 => 128
  | .e3m2 => 192
  | .e2m3 => 192
  | .ci16 => 128
  | t => 128 * t.bytes

/-- Lanes of a panel: 128, or 32 for CI16 (R66). -/
def Ty.lanes : Ty → Nat
  | .ci16 => 32
  | _ => 128

/-- Steps that share one row of panel bytes. -/
def Ty.stepsPerRow (t : Ty) : Nat := if t.bytes = 0 then 2 else 1

/-- Bytes of one row of panel bytes that `v` valid lanes occupy; an odd 6-bit lane reaches into the second byte of its
group only. -/
def Ty.rowBytes (t : Ty) (v : Nat) : Nat :=
  if t.bits4 then v else if t.bits6 then 3 * (v / 2) + 2 * (v % 2) else v * t.bytes

/-- Bytes of one panel of `steps` steps (R553). -/
def Ty.panelBytes (t : Ty) (steps : Nat) : Nat := ceilDiv steps t.stepsPerRow * t.pitch

/-- The code of the element at lane `l`, step `k` of the panel at `base` (R66, R69). -/
def panelCode (rd : Nat → Byte) (t : Ty) (base l k : Nat) : Nat :=
  if t.bits4 then
    let b := (rd (base + k / 2 * 128 + l)).toNat
    if k % 2 = 0 then b % 16 else b / 16
  else if t.bits6 then
    let a := base + k / 2 * 192 + 3 * (l / 2)
    let g := (rd a).toNat + 256 * (rd (a + 1)).toNat + 65536 * (rd (a + 2)).toNat
    let i := 2 * (l % 2) + k % 2
    (g >>> (6 * i)) % 64
  else
    let a := base + k * t.pitch + l * t.bytes
    leNat ((List.range t.bytes).map fun i => rd (a + i))

/-- The scale byte of lane `l`, step `k` of the scale array at `base` (R66). -/
def scaleCode (rd : Nat → Byte) (base l k : Nat) : Nat := (rd (base + k / 32 * 128 + l)).toNat

/-- Bytes from one panel's scale array to the next for `k` steps (R138, R553). -/
def scaleStride (k : Nat) : Nat := alignUp 64 (ceilDiv k 32 * 128)

/-- The byte ranges of `lanes` valid lanes over `steps` steps of one panel (R68, R79). -/
def panelExts (t : Ty) (tier base lanes steps : Nat) : List Ext :=
  (List.range (ceilDiv steps t.stepsPerRow)).map fun r => ⟨tier, base + r * t.pitch, t.rowBytes lanes⟩

/-- The byte ranges of a whole operand of `n` lanes in panels `stride` bytes apart. -/
def operandExts (t : Ty) (tier base stride n steps : Nat) : List Ext :=
  (List.range (ceilDiv n t.lanes)).flatMap fun p =>
    panelExts t tier (base + p * stride) (min t.lanes (n - p * t.lanes)) steps

/-- The byte ranges of the scale arrays of an operand of `n` lanes. -/
def scaleExts (base n steps : Nat) : List Ext :=
  (List.range (ceilDiv n 128)).flatMap fun p =>
    (List.range (ceilDiv steps 32)).map fun b =>
      ⟨0, base + p * scaleStride steps + b * 128, min 128 (n - 128 * p)⟩

/-- Codes of a whole panel column by column are written here: the bytes that hold lanes `l` of panel rows, with masked rows
written as 0 and masked lanes left (R69, R79). `code l k` is none outside the valid part; `old` is what memory holds. -/
def panelWrites (old : Nat → Byte) (t : Ty) (base lanes steps : Nat) (code : Nat → Nat → Nat) : List (Nat × Byte) :=
  (List.range (ceilDiv steps t.stepsPerRow)).flatMap fun r =>
    if t.bits4 then
      (List.range lanes).map fun l =>
        let hi := if 2 * r + 1 < steps then code l (2 * r + 1) else 0
        (base + r * 128 + l, BitVec.ofNat 8 (code l (2 * r) % 16 + 16 * (hi % 16)))
    else if t.bits6 then
      (List.range (ceilDiv lanes 2)).flatMap fun g =>
        let a := base + r * 192 + 3 * g
        let c (l k : Nat) : Nat := if k < steps then code l k % 64 else 0
        let lo := c (2 * g) (2 * r) + 64 * c (2 * g) (2 * r + 1)
        if 2 * g + 1 < lanes then
          let w := lo + 4096 * (c (2 * g + 1) (2 * r) + 64 * c (2 * g + 1) (2 * r + 1))
          [(a, BitVec.ofNat 8 w), (a + 1, BitVec.ofNat 8 (w / 256)), (a + 2, BitVec.ofNat 8 (w / 65536))]
        else
          let keep := (old (a + 1)).toNat / 16 * 16
          [(a, BitVec.ofNat 8 lo), (a + 1, BitVec.ofNat 8 (keep + lo / 256))]
    else
      (List.range lanes).flatMap fun l =>
        let a := base + r * t.pitch + l * t.bytes
        let bs := leBytes t.bytes (code l r)
        List.zipWith (fun i b => (a + i, b)) (List.range t.bytes) bs

/-- Whether any range of `xs` shares a byte with a range of `ys`. -/
def extsHit (xs ys : List Ext) : Bool :=
  xs.any fun x => ys.any fun y => decide (x.tier = y.tier) && overlap x.off x.len y.off y.len

/-- Whether two outputs of one command overlap: a range and a later one of the list (R151). -/
def selfHit : List Ext → Bool
  | [] => false
  | x :: xs => extsHit [x] xs || selfHit xs

/-- Entry `i` of a parameter block as an FP32 code; a BF16 entry is widened exactly (R96, R137 to R140). -/
def paramCode (rd : Nat → Byte) (addr : Nat) (bf16 : Bool) (i : Nat) : Nat :=
  if bf16 then leNat ((List.range 2).map fun b => rd (addr + 2 * i + b)) * 2 ^ 16
  else leNat ((List.range 4).map fun b => rd (addr + 4 * i + b))

/-- What the DMA writes into a bank of the parameter store before cycle 0: a block of `len` × 16 entries (R96, R138). -/
def paramBlock (rd : Nat → Byte) (addr : Nat) (bf16 : Bool) (len : Nat) : List Nat :=
  (List.range (len * 16)).map (paramCode rd addr bf16)

/-- A reader of the parameter store: FP32 entries by index. -/
abbrev ParamRead := Nat → Fl

/-- The reader of a bank. -/
def bankRead (bank : List Nat) : ParamRead := fun i => fmtFP32.decode (bank.getD i 0)

/-- Entries a mode names: one for a scalar, `m` per row, `n` per column (R138). -/
def modeCount (mode m n : Nat) : Nat :=
  match mode with
  | 1 => 1
  | 2 => m
  | 3 => n
  | _ => 0

/-- Which entry of its vector a mode gives element (i, j). -/
def modeIdx (mode i j : Nat) : Nat :=
  match mode with
  | 2 => i
  | 3 => j
  | _ => 0

/-- What an engine command writes and counts: bytes at private addresses, and the counts of R159. -/
structure EngOut where
  writes : List (Nat × Byte)
  sat    : Nat
  inv    : Nat
  satHi  : Nat
  satLo  : Nat
  /-- Drain-order index of the first flagged element. -/
  first  : Option Nat
  deriving DecidableEq, Repr

/-- What an engine command did to one element. -/
structure Elem where
  /-- Value at the output, scaled by 2^OUT_EXP. -/
  out : Approx
  /-- Output code of an element that is not a float of the output stage (a record, CI16). -/
  raw : Nat
  sat : Nat
  inv : Nat
  satHi : Bool
  satLo : Bool
  deriving DecidableEq, Repr

/-- An approximate value rounded to an integer of `w` bits (R34). -/
def approxToInt (w : Nat) (x : Approx) : Int × Bool :=
  match x.v with
  | .fin s m e =>
    if x.sticky ∧ e < 0 then
      let r : Int := ((rneShift m (-e).toNat true : Nat) : Int)
      satInt w (if s then -r else r)
    else toIntSat w x.v
  | v => toIntSat w v

/-- The code the output stage writes outside MX, and whether the element counts (R32, R34, R98). -/
def outCode (t : Ty) (outSat : Bool) (x : Approx) : Nat × Bool :=
  match t.fmt with
  | some f =>
    match x.v with
    | .fin s m e => f.encodeMag outSat s m e x.sticky
    | v => f.encode outSat v
  | none =>
    let w := if t = .int8 then 8 else 32
    let (v, c) := approxToInt w x
    (ofSigned w v, c)

/-- MX: the block's scale from the exact values of its elements (R33, R102). -/
def mxBlockScaleA (f : Fmt) (xs : List Approx) : Nat := mxBlockScale f (xs.map (·.v))

/-- MX: one element under its scale. -/
def mxElementA (f : Fmt) (scale : Nat) (x : Approx) : Nat × Bool :=
  if scale = 0xFF then (0, false)
  else
    match x.v with
    | .fin s m e => f.encodeMag true s m (e + 127 - scale) x.sticky
    | v => f.encode true v

/-- Steps 3 and 4 of R98 before the final narrowing: f(x) × 2^OUT_EXP on the path R101 chooses. -/
def actStage (fw : Numfw) (a : Act) (outExp : Int) (t : Ty) (x : Fl) : Approx :=
  if a.transcendental then
    if t = .fp32 then .exact ((segValue fw a x).scale2 outExp)
    else if t = .int32 then .exact (fmtFP32.round ((segValue fw a x).scale2 outExp))
    else let y := actValue a x; ⟨y.v.scale2 outExp, y.sticky⟩
  else .exact ((actValue a x).v.scale2 outExp)

/-- Bytes from panel p to panel p + 1 of a vector command's tile (R553, which gives MXFP4 ⌈ROWS/2⌉ × 64 B). -/
def Ty.vecPanel (t : Ty) (rows : Nat) : Nat :=
  if t.bits4 then ceilDiv rows 2 * 64 else if t.bits6 then ceilDiv rows 2 * 192 else rows * 128 * t.bytes

/-- The first of a list of (code, applies) pairs that applies. -/
def firstReason : List (Nat × Bool) → Option Nat
  | [] => none
  | (c, b) :: rs => if b then some c else firstReason rs

/-- An element with nothing counted. -/
def Elem.plain (x : Approx) : Elem := ⟨x, 0, 0, 0, false, false⟩

/-- The drain-order index of the first element with a kaolin flag (R44). -/
def firstFlagged : List Elem → Nat → Option Nat
  | [], _ => none
  | e :: es, i => if e.satHi || e.satLo then some i else firstFlagged es (i + 1)

/-- Bytes written at rising addresses. -/
def runWrites (a : Nat) (bs : Bytes) : List (Nat × Byte) := List.zipWith (fun i b => (a + i, b)) (List.range bs.length) bs

/-- FP32 code of a value. -/
def fp32Code (v : Fl) : Nat := (fmtFP32.encode false v).1

end Sys2Proof.Machine
end

