-- ==== Sys2Proof/Machine/Reg.lean ====
section
/-! DEFINITION. The Prehel dictionary's entries (R439 to R442, R448): index, subindex, type, access right, default, what
names an instance, the stated range or reserved bits, and the sizes of octet values, each from its chapter's table. -/

namespace Sys2Proof.Machine

/-- Access rights (R441). -/
inductive Access where
  | ro | const | rw | wo | rws | rwd
  deriving DecidableEq, Repr

/-- The selectors of R439. -/
inductive Sel where
  | ctxQ | ctx | sync | re | cell | gain | classE | queue | job | roleKey | rail | mismatch
  deriving DecidableEq, Repr

/-- What names an instance of an entry: nothing, the index itself, a selector, or the session (R439). -/
inductive Inst where
  | one
  | fam (count : Nat)
  | sel (by_ : Sel)
  | session
  | sessFam (count : Nat)
  deriving DecidableEq, Repr

/-- One row of the dictionary. -/
structure Reg where
  index : Nat
  sub : Nat
  /-- Type code of R440. -/
  ty : Nat
  access : Access
  /-- Default (R442); for octets the count of zero bytes. -/
  dflt : Nat
  inst : Inst
  /-- Stated range: lowest, highest, and a divisor. -/
  range : Option (Int × Int × Nat)
  /-- Bits that must be 0. -/
  reserved : Nat
  /-- Fewest and most bytes of an octet value. -/
  size : Nat × Nat
  deriving DecidableEq, Repr

/-- Width in bits of a fixed-size type (R440); 0 for OCTETS and STRING. -/
def tyWidth (t : Nat) : Nat :=
  match t with
  | 1 => 8 | 2 => 16 | 3 => 32 | 4 => 64 | 5 => 16 | 6 => 32 | 7 => 64 | 8 => 32 | 9 => 80 | _ => 0

def Reg.width (r : Reg) : Nat := tyWidth r.ty

/-- Instance key in the register file. -/
def Reg.key (r : Reg) (inst : Nat) : Nat := (r.index * 256 + r.sub) * 65536 + inst

/-- Whether the type is two's complement (R440). -/
def Reg.signed (r : Reg) : Bool := r.ty = 5 || r.ty = 6 || r.ty = 7

-- 0x1000 (R7) --------------------
def Reg.buildCode : Reg := ⟨0x1000, 0x01, 1, .const, 1, .one, none, 0, (0, 0)⟩
def Reg.detClass : Reg := ⟨0x1000, 0x08, 3, .const, 0, .one, none, 0, (0, 0)⟩
def Reg.cdCount : Reg := ⟨0x1000, 0x10, 1, .const, 16, .one, none, 0, (0, 0)⟩
def Reg.mePerCd : Reg := ⟨0x1000, 0x11, 1, .const, 8, .one, none, 0, (0, 0)⟩
def Reg.meCount : Reg := ⟨0x1000, 0x12, 2, .const, 128, .one, none, 0, (0, 0)⟩
def Reg.meScratchBytes : Reg := ⟨0x1000, 0x13, 3, .const, 0x400000, .one, none, 0, (0, 0)⟩
def Reg.cdSharedBytes : Reg := ⟨0x1000, 0x14, 3, .const, 0x2000000, .one, none, 0, (0, 0)⟩
def Reg.stackMask : Reg := ⟨0x1000, 0x15, 2, .const, 4095, .one, none, 0, (0, 0)⟩
def Reg.stackBytes : Reg := ⟨0x1000, 0x16, 4, .const, 0x2000000000, .one, none, 0, (0, 0)⟩
def Reg.fabricPortMask : Reg := ⟨0x1000, 0x17, 2, .const, 65535, .one, none, 0, (0, 0)⟩
def Reg.fabricLanes : Reg := ⟨0x1000, 0x18, 2, .const, 128, .one, none, 0, (0, 0)⟩
def Reg.fhLanes : Reg := ⟨0x1000, 0x19, 1, .const, 16, .one, none, 0, (0, 0)⟩
def Reg.dspCores : Reg := ⟨0x1000, 0x1A, 1, .const, 96, .one, none, 0, (0, 0)⟩
def Reg.contexts : Reg := ⟨0x1000, 0x1B, 2, .const, 4096, .one, none, 0, (0, 0)⟩
def Reg.slices : Reg := ⟨0x1000, 0x1C, 1, .const, 64, .one, none, 0, (0, 0)⟩
def Reg.pasidEntries : Reg := ⟨0x1000, 0x1D, 2, .const, 4096, .one, none, 0, (0, 0)⟩
def Reg.ueContexts : Reg := ⟨0x1000, 0x1E, 3, .const, 0x40000, .one, none, 0, (0, 0)⟩
def Reg.timeBases : Reg := ⟨0x1000, 0x1F, 1, .const, 8, .one, none, 0, (0, 0)⟩
def Reg.mgmtSessions : Reg := ⟨0x1000, 0x20, 1, .const, 16, .one, none, 0, (0, 0)⟩
def Reg.loamPageBytes : Reg := ⟨0x1000, 0x21, 3, .const, 0x200000, .one, none, 0, (0, 0)⟩
def Reg.domainPackages : Reg := ⟨0x1000, 0x22, 1, .const, 64, .one, none, 0, (0, 0)⟩
def Reg.akNominalHz : Reg := ⟨0x1000, 0x23, 3, .const, 0xc4b20100, .one, none, 0, (0, 0)⟩
-- 0x3080 (R93) --------------------
def Reg.meState : Reg := ⟨0x3080, 0x01, 3, .ro, 0, .fam 128, none, 0, (0, 0)⟩
def Reg.execCycles : Reg := ⟨0x3080, 0x02, 4, .ro, 0, .fam 128, none, 0, (0, 0)⟩
def Reg.idleInserted : Reg := ⟨0x3080, 0x03, 4, .ro, 0, .fam 128, none, 0, (0, 0)⟩
def Reg.meKills : Reg := ⟨0x3080, 0x04, 3, .ro, 0, .fam 128, none, 0, (0, 0)⟩
def Reg.checkFaults : Reg := ⟨0x3080, 0x05, 3, .ro, 0, .fam 128, none, 0, (0, 0)⟩
def Reg.kaolinFlagged : Reg := ⟨0x3080, 0x06, 3, .ro, 0, .fam 128, none, 0, (0, 0)⟩
-- 0x3100 (R126) --------------------
def Reg.numfwVersion : Reg := ⟨0x3100, 0x01, 2, .ro, 0, .one, none, 0, (0, 0)⟩
def Reg.numfwDigest : Reg := ⟨0x3100, 0x02, 10, .ro, 64, .one, none, 0, (64, 64)⟩
def Reg.numfwPending : Reg := ⟨0x3100, 0x03, 2, .ro, 0, .one, none, 0, (0, 0)⟩
def Reg.geluXmin : Reg := ⟨0x3100, 0x04, 8, .ro, 0, .one, none, 0, (0, 0)⟩
def Reg.satElements : Reg := ⟨0x3100, 0x10, 4, .ro, 0, .one, none, 0, (0, 0)⟩
def Reg.invalidElements : Reg := ⟨0x3100, 0x11, 4, .ro, 0, .one, none, 0, (0, 0)⟩
def Reg.vecCommands : Reg := ⟨0x3100, 0x12, 4, .ro, 0, .one, none, 0, (0, 0)⟩
def Reg.numfwRejects : Reg := ⟨0x3100, 0x13, 3, .ro, 0, .one, none, 0, (0, 0)⟩
-- 0x3200 (R169) --------------------
def Reg.commits : Reg := ⟨0x3200, 0x01, 4, .ro, 0, .one, none, 0, (0, 0)⟩
def Reg.kills : Reg := ⟨0x3200, 0x02, 4, .ro, 0, .one, none, 0, (0, 0)⟩
def Reg.ignoredTotal : Reg := ⟨0x3200, 0x03, 4, .ro, 0, .one, none, 0, (0, 0)⟩
def Reg.lastIgnored : Reg := ⟨0x3200, 0x04, 2, .ro, 0, .one, none, 0, (0, 0)⟩
def Reg.teardownRecords : Reg := ⟨0x3200, 0x05, 3, .ro, 0, .one, none, 0, (0, 0)⟩
-- 0x3201 (R169) --------------------
def Reg.ctxQueueSelect : Reg := ⟨0x3201, 0x01, 2, .rw, 0, .session, some (0, 4095, 1), 0, (0, 0)⟩
def Reg.ctxQHead : Reg := ⟨0x3201, 0x02, 3, .ro, 0, .sel .ctxQ, none, 0, (0, 0)⟩
def Reg.ctxQTail : Reg := ⟨0x3201, 0x03, 3, .ro, 0, .sel .ctxQ, none, 0, (0, 0)⟩
def Reg.ctxQIgnoredCount : Reg := ⟨0x3201, 0x04, 3, .ro, 0, .sel .ctxQ, none, 0, (0, 0)⟩
def Reg.ctxQLastIgnored : Reg := ⟨0x3201, 0x05, 2, .ro, 0, .sel .ctxQ, none, 0, (0, 0)⟩
def Reg.ctxQLastIgnoredSeq : Reg := ⟨0x3201, 0x06, 3, .ro, 0, .sel .ctxQ, none, 0, (0, 0)⟩
def Reg.ctxQState : Reg := ⟨0x3201, 0x07, 1, .ro, 0, .sel .ctxQ, none, 0, (0, 0)⟩
-- 0x3240 (R169) --------------------
def Reg.opcodeEnable : Reg := ⟨0x3240, 0x01, 4, .rw, 60413, .fam 64, none, 0xfffffffffffe0000, (0, 0)⟩
def Reg.syncCounterSelect : Reg := ⟨0x3240, 0x02, 1, .rw, 0, .sessFam 64, none, 0, (0, 0)⟩
def Reg.syncCounter : Reg := ⟨0x3240, 0x03, 4, .ro, 0, .sel .sync, none, 0, (0, 0)⟩
-- 0x3400 (R211) --------------------
def Reg.loamPoolFrames : Reg := ⟨0x3400, 0x01, 3, .rws, 0x30000, .one, none, 0, (0, 0)⟩
def Reg.loamFreeFrames : Reg := ⟨0x3400, 0x02, 3, .ro, 0x30000, .one, none, 0, (0, 0)⟩
def Reg.ageTickUs : Reg := ⟨0x3400, 0x03, 3, .rw, 1000, .one, some (10, 100000, 1), 0, (0, 0)⟩
def Reg.lcFloorBytes : Reg := ⟨0x3400, 0x04, 3, .rw, 0x100000, .one, some (0, 4194304, 65536), 0, (0, 0)⟩
def Reg.localZoneGib : Reg := ⟨0x3400, 0x05, 1, .rws, 8, .one, some (4, 32, 1), 0, (0, 0)⟩
def Reg.lcReclaimUs : Reg := ⟨0x3400, 0x06, 3, .rw, 50, .one, some (0, 10000, 1), 0, (0, 0)⟩
def Reg.meshRouteEpoch : Reg := ⟨0x3400, 0x07, 3, .ro, 0, .one, none, 0, (0, 0)⟩
def Reg.fetches : Reg := ⟨0x3400, 0x08, 4, .ro, 0, .one, none, 0, (0, 0)⟩
def Reg.evictions : Reg := ⟨0x3400, 0x09, 4, .ro, 0, .one, none, 0, (0, 0)⟩
def Reg.streamedBytes : Reg := ⟨0x3400, 0x0A, 4, .ro, 0, .one, none, 0, (0, 0)⟩
def Reg.prefetchFails : Reg := ⟨0x3400, 0x0B, 3, .ro, 0, .one, none, 0, (0, 0)⟩
def Reg.spills : Reg := ⟨0x3400, 0x0C, 4, .ro, 0, .one, none, 0, (0, 0)⟩
def Reg.spillBytes : Reg := ⟨0x3400, 0x0D, 4, .ro, 0, .one, none, 0, (0, 0)⟩
-- 0x3401 (R211) --------------------
def Reg.radioStackMask : Reg := ⟨0x3401, 0x01, 2, .rwd, 3840, .one, none, 0, (0, 0)⟩
def Reg.radioStackBytes : Reg := ⟨0x3401, 0x02, 4, .rwd, 0x100000000, .one, none, 0, (0, 0)⟩
def Reg.radioSpBytes : Reg := ⟨0x3401, 0x03, 3, .rwd, 0x100000, .one, some (0, 2097152, 65536), 0, (0, 0)⟩
def Reg.radioSharedBytes : Reg := ⟨0x3401, 0x04, 3, .rwd, 0, .one, some (0, 8388608, 262144), 0, (0, 0)⟩
-- 0x3402 (R212) --------------------
def Reg.contextSelect : Reg := ⟨0x3402, 0x01, 2, .rw, 0, .session, some (0, 4095, 1), 0, (0, 0)⟩
def Reg.privBase : Reg := ⟨0x3402, 0x02, 3, .ro, 0, .sel .ctx, none, 0, (0, 0)⟩
def Reg.privBytes : Reg := ⟨0x3402, 0x03, 3, .ro, 0, .sel .ctx, none, 0, (0, 0)⟩
def Reg.sharedBase : Reg := ⟨0x3402, 0x04, 3, .ro, 0, .sel .ctx, none, 0, (0, 0)⟩
def Reg.sharedBytes : Reg := ⟨0x3402, 0x05, 3, .ro, 0, .sel .ctx, none, 0, (0, 0)⟩
def Reg.ctxEngine : Reg := ⟨0x3402, 0x06, 1, .ro, 255, .sel .ctx, none, 0, (0, 0)⟩
def Reg.ctxResident : Reg := ⟨0x3402, 0x07, 1, .ro, 0, .sel .ctx, none, 0, (0, 0)⟩
def Reg.hoodDpa : Reg := ⟨0x3402, 0x08, 4, .ro, 0, .sel .ctx, none, 0, (0, 0)⟩
def Reg.loamRefs : Reg := ⟨0x3402, 0x09, 3, .ro, 0, .sel .ctx, none, 0, (0, 0)⟩
-- 0x3440 (R213) --------------------
def Reg.privQuotaFrames : Reg := ⟨0x3440, 0x01, 3, .rw, 0, .fam 64, none, 0, (0, 0)⟩
def Reg.privFrames : Reg := ⟨0x3440, 0x02, 3, .ro, 0, .fam 64, none, 0, (0, 0)⟩
def Reg.spQuotaBytes : Reg := ⟨0x3440, 0x03, 3, .rw, 0, .fam 64, none, 0, (0, 0)⟩
def Reg.spBytes : Reg := ⟨0x3440, 0x04, 3, .ro, 0, .fam 64, none, 0, (0, 0)⟩
def Reg.loamQuotaPages : Reg := ⟨0x3440, 0x05, 3, .rw, 0, .fam 64, none, 0, (0, 0)⟩
def Reg.loamPages : Reg := ⟨0x3440, 0x06, 3, .ro, 0, .fam 64, none, 0, (0, 0)⟩
def Reg.loamMapIova : Reg := ⟨0x3440, 0x07, 4, .rw, 0, .fam 64, some (0, 18446744073709551615, 64), 0, (0, 0)⟩
def Reg.loamMapPasid : Reg := ⟨0x3440, 0x08, 3, .rw, 0, .fam 64, none, 0, (0, 0)⟩
def Reg.loamMapEntries : Reg := ⟨0x3440, 0x09, 3, .rw, 0, .fam 64, some (0, 65536, 1), 0, (0, 0)⟩
def Reg.loamMapCommit : Reg := ⟨0x3440, 0x0A, 3, .wo, 0, .fam 64, none, 0, (0, 0)⟩
def Reg.loamMapEpoch : Reg := ⟨0x3440, 0x0B, 3, .ro, 0, .fam 64, none, 0, (0, 0)⟩
def Reg.loamMapStatus : Reg := ⟨0x3440, 0x0C, 1, .ro, 0, .fam 64, none, 0, (0, 0)⟩
def Reg.prefetchDepth : Reg := ⟨0x3440, 0x0D, 1, .rw, 2, .fam 64, some (0, 15, 1), 0, (0, 0)⟩
def Reg.loamOver : Reg := ⟨0x3440, 0x0E, 1, .ro, 0, .fam 64, none, 0, (0, 0)⟩
-- 0x3300 (R245) --------------------
def Reg.tilthEpoch : Reg := ⟨0x3300, 0x01, 3, .ro, 0, .one, none, 0, (0, 0)⟩
def Reg.tilthStatus : Reg := ⟨0x3300, 0x02, 1, .ro, 0, .one, none, 0, (0, 0)⟩
def Reg.tilthLoadOffset : Reg := ⟨0x3300, 0x03, 3, .rw, 0, .one, none, 0, (0, 0)⟩
def Reg.tilthLoadData : Reg := ⟨0x3300, 0x04, 10, .wo, 0, .one, none, 0, (16, 1024)⟩
def Reg.tilthShadowDigest : Reg := ⟨0x3300, 0x05, 10, .ro, 64, .one, none, 0, (64, 64)⟩
def Reg.tilthCommit : Reg := ⟨0x3300, 0x06, 10, .rwd, 0, .one, none, 0, (68, 68)⟩
def Reg.tilthRejects : Reg := ⟨0x3300, 0x07, 3, .ro, 0, .one, none, 0, (0, 0)⟩
def Reg.tilthRejectReason : Reg := ⟨0x3300, 0x08, 1, .ro, 0, .one, none, 0, (0, 0)⟩
def Reg.brimNs : Reg := ⟨0x3300, 0x09, 3, .const, 2000, .one, none, 0, (0, 0)⟩
def Reg.startMaxAk : Reg := ⟨0x3300, 0x0A, 2, .const, 256, .one, none, 0, (0, 0)⟩
def Reg.quantumAk : Reg := ⟨0x3300, 0x0B, 3, .rw, 66000, .one, some (6600, 3300000, 1), 0, (0, 0)⟩
def Reg.killSkipAk : Reg := ⟨0x3300, 0x0C, 2, .rw, 400, .one, some (0, 2048, 1), 0, (0, 0)⟩
def Reg.admitIdleW : Reg := ⟨0x3300, 0x0D, 2, .rws, 300, .one, none, 0, (0, 0)⟩
def Reg.admitPower : Reg := ⟨0x3300, 0x0E, 3, .ro, 0, .one, none, 0, (0, 0)⟩
def Reg.reservedLimit : Reg := ⟨0x3300, 0x0F, 1, .const, 192, .one, none, 0, (0, 0)⟩
def Reg.radioLate : Reg := ⟨0x3300, 0x10, 3, .ro, 0, .one, none, 0, (0, 0)⟩
def Reg.brimDenials : Reg := ⟨0x3300, 0x11, 4, .ro, 0, .one, none, 0, (0, 0)⟩
def Reg.preemptKills : Reg := ⟨0x3300, 0x12, 4, .ro, 0, .one, none, 0, (0, 0)⟩
def Reg.schedGates : Reg := ⟨0x3300, 0x13, 1, .ro, 0, .one, none, 0, (0, 0)⟩
-- 0x3301 (R245) --------------------
def Reg.reSelect : Reg := ⟨0x3301, 0x01, 1, .rw, 0, .session, some (0, 127, 1), 0, (0, 0)⟩
def Reg.reEngine : Reg := ⟨0x3301, 0x02, 1, .ro, 255, .sel .re, none, 0, (0, 0)⟩
def Reg.reTb : Reg := ⟨0x3301, 0x03, 1, .ro, 255, .sel .re, none, 0, (0, 0)⟩
-- 0x3302 (R246) --------------------
def Reg.ctxClass : Reg := ⟨0x3302, 0x01, 1, .rw, 1, .sel .ctx, some (0, 1, 1), 0, (0, 0)⟩
def Reg.ctxShare : Reg := ⟨0x3302, 0x02, 2, .rw, 100, .sel .ctx, some (1, 65535, 1), 0, (0, 0)⟩
def Reg.ctxDeficit : Reg := ⟨0x3302, 0x03, 7, .ro, 0, .sel .ctx, none, 0, (0, 0)⟩
def Reg.engineCycles : Reg := ⟨0x3302, 0x04, 4, .ro, 0, .sel .ctx, none, 0, (0, 0)⟩
def Reg.killedCycles : Reg := ⟨0x3302, 0x05, 4, .ro, 0, .sel .ctx, none, 0, (0, 0)⟩
def Reg.placeHint : Reg := ⟨0x3302, 0x06, 1, .rw, 255, .sel .ctx, none, 0, (0, 0)⟩
def Reg.ctxMove : Reg := ⟨0x3302, 0x07, 1, .wo, 0, .sel .ctx, some (0, 127, 1), 0, (0, 0)⟩
-- 0x3340 (R247) --------------------
def Reg.sliceWeight : Reg := ⟨0x3340, 0x01, 1, .rw, 16, .fam 64, some (1, 255, 1), 0, (0, 0)⟩
def Reg.lcAllowed : Reg := ⟨0x3340, 0x02, 1, .rw, 0, .fam 64, some (0, 1, 1), 0, (0, 0)⟩
def Reg.sliceEngineCycles : Reg := ⟨0x3340, 0x03, 4, .ro, 0, .fam 64, none, 0, (0, 0)⟩
-- 0x4000 (R284) --------------------
def Reg.cuCapacity : Reg := ⟨0x4000, 0x01, 2, .const, 768, .one, none, 0, (0, 0)⟩
def Reg.cuBd0 : Reg := ⟨0x4000, 0x02, 2, .ro, 0, .one, none, 0, (0, 0)⟩
def Reg.cuBd1 : Reg := ⟨0x4000, 0x03, 2, .ro, 0, .one, none, 0, (0, 0)⟩
def Reg.gainTarget : Reg := ⟨0x4000, 0x04, 6, .rw, 0xfffffb80, .one, none, 0, (0, 0)⟩
def Reg.gainHyst : Reg := ⟨0x4000, 0x05, 2, .rw, 192, .one, none, 0, (0, 0)⟩
def Reg.gainFloor : Reg := ⟨0x4000, 0x06, 6, .rw, 0xffffe980, .one, none, 0, (0, 0)⟩
def Reg.gainInit : Reg := ⟨0x4000, 0x07, 1, .rw, 16, .one, some (0, 63, 1), 0, (0, 0)⟩
def Reg.coderJobs : Reg := ⟨0x4000, 0x08, 4, .ro, 0, .one, none, 0, (0, 0)⟩
def Reg.coderLate : Reg := ⟨0x4000, 0x09, 4, .ro, 0, .one, none, 0, (0, 0)⟩
def Reg.coderIgnored : Reg := ⟨0x4000, 0x0A, 3, .ro, 0, .one, none, 0, (0, 0)⟩
def Reg.coderLastIgnored : Reg := ⟨0x4000, 0x0B, 2, .ro, 0, .one, none, 0, (0, 0)⟩
def Reg.slotOverruns : Reg := ⟨0x4000, 0x0C, 3, .ro, 0, .one, none, 0, (0, 0)⟩
def Reg.windowLate : Reg := ⟨0x4000, 0x0D, 3, .ro, 0, .one, none, 0, (0, 0)⟩
def Reg.windowMismatch : Reg := ⟨0x4000, 0x0E, 3, .ro, 0, .one, none, 0, (0, 0)⟩
def Reg.radioIgnored : Reg := ⟨0x4000, 0x0F, 3, .ro, 0, .one, none, 0, (0, 0)⟩
def Reg.radioLastIgnored : Reg := ⟨0x4000, 0x10, 2, .ro, 0, .one, none, 0, (0, 0)⟩
def Reg.ueRefused : Reg := ⟨0x4000, 0x11, 3, .ro, 0, .one, none, 0, (0, 0)⟩
def Reg.programAllow : Reg := ⟨0x4000, 0x12, 10, .rwd, 0, .one, none, 0, (0, 1024)⟩
def Reg.moveTailUs : Reg := ⟨0x4000, 0x13, 2, .rw, 2000, .one, some (500, 10000, 1), 0, (0, 0)⟩
-- 0x4001 (R284) --------------------
def Reg.ldpcSetEpoch : Reg := ⟨0x4001, 0x01, 3, .ro, 0, .one, none, 0, (0, 0)⟩
def Reg.ldpcSetLoadData : Reg := ⟨0x4001, 0x02, 10, .wo, 0, .one, none, 0, (768, 768)⟩
def Reg.ldpcSetCommit : Reg := ⟨0x4001, 0x03, 3, .rw, 0, .one, none, 0, (0, 0)⟩
-- 0x4040 (R285) --------------------
def Reg.coreState : Reg := ⟨0x4040, 0x01, 2, .ro, 0, .fam 96, none, 0, (0, 0)⟩
def Reg.progLoadOffset : Reg := ⟨0x4040, 0x02, 3, .rw, 0, .fam 96, none, 0, (0, 0)⟩
def Reg.progLoadData : Reg := ⟨0x4040, 0x03, 10, .wo, 0, .fam 96, none, 0, (16, 1024)⟩
def Reg.progCommit : Reg := ⟨0x4040, 0x04, 10, .rw, 0, .fam 96, none, 0, (64, 64)⟩
def Reg.progSwapAt : Reg := ⟨0x4040, 0x05, 9, .rw, 0, .fam 96, none, 0, (0, 0)⟩
def Reg.progDigest : Reg := ⟨0x4040, 0x06, 10, .ro, 64, .fam 96, none, 0, (64, 64)⟩
def Reg.busyBk : Reg := ⟨0x4040, 0x07, 4, .ro, 0, .fam 96, none, 0, (0, 0)⟩
def Reg.dspSat : Reg := ⟨0x4040, 0x08, 3, .ro, 0, .fam 96, none, 0, (0, 0)⟩
-- 0x40A0 (R286) --------------------
def Reg.cellSelect : Reg := ⟨0x40A0, 0x01, 1, .rw, 0, .session, none, 0, (0, 0)⟩
def Reg.cellCfg : Reg := ⟨0x40A0, 0x02, 3, .rwd, 0, .sel .cell, none, 0, (0, 0)⟩
def Reg.cellCu : Reg := ⟨0x40A0, 0x03, 1, .ro, 0, .sel .cell, none, 0, (0, 0)⟩
def Reg.ueBase : Reg := ⟨0x40A0, 0x04, 3, .rwd, 0, .sel .cell, none, 0, (0, 0)⟩
def Reg.ueCount : Reg := ⟨0x40A0, 0x05, 3, .rwd, 0, .sel .cell, some (0, 65536, 1), 0, (0, 0)⟩
def Reg.cellMove : Reg := ⟨0x40A0, 0x06, 10, .rwd, 0, .sel .cell, none, 0, (8, 8)⟩
def Reg.lastEvm : Reg := ⟨0x40A0, 0x07, 2, .ro, 65535, .sel .cell, none, 0, (0, 0)⟩
def Reg.lastSinr : Reg := ⟨0x40A0, 0x08, 5, .ro, 32768, .sel .cell, none, 0, (0, 0)⟩
def Reg.gainSelect : Reg := ⟨0x40A0, 0x09, 1, .rw, 0, .session, none, 0, (0, 0)⟩
def Reg.gainIndex : Reg := ⟨0x40A0, 0x0A, 1, .ro, 16, .sel .gain, none, 0, (0, 0)⟩
-- 0x4100 (R310) --------------------
def Reg.portMode : Reg := ⟨0x4100, 0x01, 1, .rws, 0, .fam 2, none, 0, (0, 0)⟩
def Reg.poolFreeWords : Reg := ⟨0x4100, 0x02, 3, .ro, 0x40000, .fam 2, none, 0, (0, 0)⟩
def Reg.fhWfqEpoch : Reg := ⟨0x4100, 0x03, 3, .ro, 0, .fam 2, none, 0, (0, 0)⟩
def Reg.fhWfqCommit : Reg := ⟨0x4100, 0x04, 3, .wo, 0, .fam 2, none, 0, (0, 0)⟩
def Reg.polEpoch : Reg := ⟨0x4100, 0x05, 3, .ro, 0, .fam 2, none, 0, (0, 0)⟩
def Reg.polCommit : Reg := ⟨0x4100, 0x06, 3, .wo, 0, .fam 2, none, 0, (0, 0)⟩
def Reg.classSelect : Reg := ⟨0x4100, 0x07, 2, .rw, 0, .sessFam 2, some (0, 4095, 1), 0, (0, 0)⟩
def Reg.classEntry : Reg := ⟨0x4100, 0x08, 10, .rwd, 16, .sel .classE, none, 0, (16, 16)⟩
def Reg.sampleNs : Reg := ⟨0x4100, 0x09, 3, .rw, 1000, .fam 2, some (100, 1000000, 1), 0, (0, 0)⟩
def Reg.ulEarly : Reg := ⟨0x4100, 0x0A, 3, .ro, 0, .fam 2, none, 0, (0, 0)⟩
def Reg.ulLate : Reg := ⟨0x4100, 0x0B, 3, .ro, 0, .fam 2, none, 0, (0, 0)⟩
def Reg.uplaneBad : Reg := ⟨0x4100, 0x0C, 3, .ro, 0, .fam 2, none, 0, (0, 0)⟩
-- 0x4110 (R311) --------------------
def Reg.fhPortEnable : Reg := ⟨0x4110, 0x01, 1, .rw, 0, .fam 16, some (0, 1, 1), 0, (0, 0)⟩
def Reg.fhPortState : Reg := ⟨0x4110, 0x02, 1, .ro, 0, .fam 16, none, 0, (0, 0)⟩
def Reg.fhMacAddr : Reg := ⟨0x4110, 0x03, 10, .rw, 0, .fam 16, none, 0, (6, 6)⟩
def Reg.maxFrame : Reg := ⟨0x4110, 0x04, 2, .rw, 9216, .fam 16, some (64, 9216, 1), 0, (0, 0)⟩
def Reg.portPhy : Reg := ⟨0x4110, 0x05, 1, .rw, 0, .fam 16, some (0, 2, 1), 0, (0, 0)⟩
def Reg.ptpFwd : Reg := ⟨0x4110, 0x06, 1, .rw, 0, .fam 16, none, 0, (0, 0)⟩
def Reg.ptpQueue : Reg := ⟨0x4110, 0x07, 2, .rw, 65535, .fam 16, none, 0, (0, 0)⟩
def Reg.tcTb : Reg := ⟨0x4110, 0x08, 1, .rw, 0, .fam 16, some (0, 7, 1), 0, (0, 0)⟩
def Reg.fhRxFrames : Reg := ⟨0x4110, 0x09, 4, .ro, 0, .fam 16, none, 0, (0, 0)⟩
def Reg.fhTxFrames : Reg := ⟨0x4110, 0x0A, 4, .ro, 0, .fam 16, none, 0, (0, 0)⟩
def Reg.fcsErrors : Reg := ⟨0x4110, 0x0B, 3, .ro, 0, .fam 16, none, 0, (0, 0)⟩
def Reg.oversize : Reg := ⟨0x4110, 0x0C, 3, .ro, 0, .fam 16, none, 0, (0, 0)⟩
def Reg.malformed : Reg := ⟨0x4110, 0x0D, 3, .ro, 0, .fam 16, none, 0, (0, 0)⟩
def Reg.unclassified : Reg := ⟨0x4110, 0x0E, 3, .ro, 0, .fam 16, none, 0, (0, 0)⟩
def Reg.fhFecCorrected : Reg := ⟨0x4110, 0x0F, 4, .ro, 0, .fam 16, none, 0, (0, 0)⟩
def Reg.fhFecUncorrected : Reg := ⟨0x4110, 0x10, 3, .ro, 0, .fam 16, none, 0, (0, 0)⟩
-- 0x4120 (R312) --------------------
def Reg.queueSelect : Reg := ⟨0x4120, 0x01, 2, .rw, 0, .session, none, 0, (0, 0)⟩
def Reg.qCfg : Reg := ⟨0x4120, 0x02, 3, .rw, 0, .sel .queue, none, 0, (0, 0)⟩
def Reg.qLevel : Reg := ⟨0x4120, 0x03, 3, .rw, 0, .sel .queue, none, 0, (0, 0)⟩
def Reg.qStaleNs : Reg := ⟨0x4120, 0x04, 3, .rw, 0, .sel .queue, none, 0, (0, 0)⟩
def Reg.qNoticeTarget : Reg := ⟨0x4120, 0x05, 3, .rw, 0, .sel .queue, none, 0xffff000, (0, 0)⟩
def Reg.qOp : Reg := ⟨0x4120, 0x06, 4, .wo, 0, .sel .queue, none, 0, (0, 0)⟩
def Reg.qWrite : Reg := ⟨0x4120, 0x07, 3, .ro, 0, .sel .queue, none, 0, (0, 0)⟩
def Reg.qTail : Reg := ⟨0x4120, 0x08, 3, .ro, 0, .sel .queue, none, 0, (0, 0)⟩
def Reg.qRead : Reg := ⟨0x4120, 0x09, 3, .ro, 0, .sel .queue, none, 0, (0, 0)⟩
def Reg.qRelease : Reg := ⟨0x4120, 0x0A, 3, .ro, 0, .sel .queue, none, 0, (0, 0)⟩
def Reg.qMark : Reg := ⟨0x4120, 0x0B, 3, .ro, 0, .sel .queue, none, 0, (0, 0)⟩
def Reg.qStatus : Reg := ⟨0x4120, 0x0C, 1, .rw, 0, .sel .queue, none, 0, (0, 0)⟩
def Reg.qPackets : Reg := ⟨0x4120, 0x0D, 3, .ro, 0, .sel .queue, none, 0, (0, 0)⟩
def Reg.qBad : Reg := ⟨0x4120, 0x0E, 3, .ro, 0, .sel .queue, none, 0, (0, 0)⟩
def Reg.qOverflows : Reg := ⟨0x4120, 0x0F, 3, .ro, 0, .sel .queue, none, 0, (0, 0)⟩
def Reg.qFlushedWords : Reg := ⟨0x4120, 0x10, 4, .ro, 0, .sel .queue, none, 0, (0, 0)⟩
def Reg.qIgnored : Reg := ⟨0x4120, 0x11, 3, .ro, 0, .sel .queue, none, 0, (0, 0)⟩
def Reg.qLastIgnored : Reg := ⟨0x4120, 0x12, 2, .ro, 0, .sel .queue, none, 0, (0, 0)⟩
def Reg.qWeight : Reg := ⟨0x4120, 0x13, 2, .rw, 1024, .sel .queue, none, 0, (0, 0)⟩
def Reg.qEgressPort : Reg := ⟨0x4120, 0x14, 1, .rw, 255, .sel .queue, none, 0, (0, 0)⟩
def Reg.qSampleDepth : Reg := ⟨0x4120, 0x15, 3, .ro, 0, .sel .queue, none, 0, (0, 0)⟩
def Reg.qSampleDelayNs : Reg := ⟨0x4120, 0x16, 3, .ro, 0, .sel .queue, none, 0, (0, 0)⟩
def Reg.qMaxDepth : Reg := ⟨0x4120, 0x17, 3, .ro, 0, .sel .queue, none, 0, (0, 0)⟩
def Reg.qMaxDelayNs : Reg := ⟨0x4120, 0x18, 3, .ro, 0, .sel .queue, none, 0, (0, 0)⟩
def Reg.qDelaySumNs : Reg := ⟨0x4120, 0x19, 4, .ro, 0, .sel .queue, none, 0, (0, 0)⟩
def Reg.qSamples : Reg := ⟨0x4120, 0x1A, 4, .ro, 0, .sel .queue, none, 0, (0, 0)⟩
-- 0x4140 (R313) --------------------
def Reg.polMode : Reg := ⟨0x4140, 0x01, 1, .rw, 0, .fam 64, none, 0, (0, 0)⟩
def Reg.cirMbps : Reg := ⟨0x4140, 0x02, 3, .rw, 0, .fam 64, none, 0, (0, 0)⟩
def Reg.cbsBytes : Reg := ⟨0x4140, 0x03, 3, .rw, 0, .fam 64, none, 0, (0, 0)⟩
def Reg.peirMbps : Reg := ⟨0x4140, 0x04, 3, .rw, 0, .fam 64, none, 0, (0, 0)⟩
def Reg.pebsBytes : Reg := ⟨0x4140, 0x05, 3, .rw, 0, .fam 64, none, 0, (0, 0)⟩
def Reg.pcpColour : Reg := ⟨0x4140, 0x06, 2, .rw, 0, .fam 64, none, 0, (0, 0)⟩
def Reg.yellowLevel : Reg := ⟨0x4140, 0x07, 3, .rw, 0, .fam 64, none, 0, (0, 0)⟩
def Reg.greenFrames : Reg := ⟨0x4140, 0x08, 4, .ro, 0, .fam 64, none, 0, (0, 0)⟩
def Reg.yellowFrames : Reg := ⟨0x4140, 0x09, 4, .ro, 0, .fam 64, none, 0, (0, 0)⟩
def Reg.redFrames : Reg := ⟨0x4140, 0x0A, 4, .ro, 0, .fam 64, none, 0, (0, 0)⟩
def Reg.yellowDropped : Reg := ⟨0x4140, 0x0B, 4, .ro, 0, .fam 64, none, 0, (0, 0)⟩
def Reg.svcRingOffset : Reg := ⟨0x4140, 0x0C, 4, .rw, 0, .fam 64, none, 0, (0, 0)⟩
def Reg.svcCapLog2 : Reg := ⟨0x4140, 0x0D, 1, .rw, 0, .fam 64, none, 0, (0, 0)⟩
-- 0x4180 (R314) --------------------
def Reg.ulComp : Reg := ⟨0x4180, 0x01, 1, .rw, 25, .sel .cell, none, 0, (0, 0)⟩
def Reg.dlComp : Reg := ⟨0x4180, 0x02, 1, .rw, 25, .sel .cell, none, 0, (0, 0)⟩
def Reg.staticComp : Reg := ⟨0x4180, 0x03, 1, .rw, 0, .sel .cell, some (0, 1, 1), 0, (0, 0)⟩
def Reg.ulWinMinNs : Reg := ⟨0x4180, 0x04, 6, .rw, 0, .sel .cell, none, 0, (0, 0)⟩
def Reg.ulWinMaxNs : Reg := ⟨0x4180, 0x05, 6, .rw, 0x493e0, .sel .cell, none, 0, (0, 0)⟩
-- 0x4200 (R331) --------------------
def Reg.incrNom : Reg := ⟨0x4200, 0x01, 4, .const, 0x1364d9365, .one, none, 0, (0, 0)⟩
def Reg.queueTb : Reg := ⟨0x4200, 0x02, 1, .rw, 0, .one, some (0, 7, 1), 0, (0, 0)⟩
def Reg.calPeriodMs : Reg := ⟨0x4200, 0x03, 3, .rw, 1000, .one, some (100, 60000, 1), 0, (0, 0)⟩
def Reg.calRuns : Reg := ⟨0x4200, 0x04, 4, .ro, 0, .one, none, 0, (0, 0)⟩
-- 0x4210 (R332) --------------------
def Reg.tbTime : Reg := ⟨0x4210, 0x01, 9, .ro, 0, .fam 8, none, 0, (0, 0)⟩
def Reg.stepNs : Reg := ⟨0x4210, 0x02, 7, .wo, 0, .fam 8, none, 0, (0, 0)⟩
def Reg.freqAdjPpb : Reg := ⟨0x4210, 0x03, 6, .ro, 0, .fam 8, none, 0, (0, 0)⟩
def Reg.incr : Reg := ⟨0x4210, 0x04, 4, .ro, 0x1364d9365, .fam 8, none, 0, (0, 0)⟩
def Reg.servoSrc : Reg := ⟨0x4210, 0x05, 1, .rw, 0, .fam 8, some (0, 4, 1), 0, (0, 0)⟩
def Reg.servoArg : Reg := ⟨0x4210, 0x06, 1, .rw, 0, .fam 8, none, 0, (0, 0)⟩
def Reg.servoKp : Reg := ⟨0x4210, 0x07, 8, .rw, 0x41000000, .fam 8, none, 0, (0, 0)⟩
def Reg.servoKi : Reg := ⟨0x4210, 0x08, 8, .rw, 0x3f000000, .fam 8, none, 0, (0, 0)⟩
def Reg.slewPpb : Reg := ⟨0x4210, 0x09, 3, .rw, 0x186a0, .fam 8, some (1000, 200000, 1), 0, (0, 0)⟩
def Reg.lockNs : Reg := ⟨0x4210, 0x0A, 3, .rw, 100, .fam 8, some (10, 100000, 1), 0, (0, 0)⟩
def Reg.lossMs : Reg := ⟨0x4210, 0x0B, 3, .rw, 1000, .fam 8, some (100, 60000, 1), 0, (0, 0)⟩
def Reg.lockState : Reg := ⟨0x4210, 0x0C, 1, .ro, 0, .fam 8, none, 0, (0, 0)⟩
def Reg.lastOffsetNs : Reg := ⟨0x4210, 0x0D, 7, .ro, 0, .fam 8, none, 0, (0, 0)⟩
def Reg.ptpDomain : Reg := ⟨0x4210, 0x0E, 1, .rw, 24, .fam 8, some (24, 43, 1), 0, (0, 0)⟩
def Reg.ptpPortMask : Reg := ⟨0x4210, 0x0F, 2, .rw, 0, .fam 8, none, 0, (0, 0)⟩
def Reg.asymNs : Reg := ⟨0x4210, 0x10, 6, .rw, 0, .fam 8, none, 0, (0, 0)⟩
def Reg.capPeriodNs : Reg := ⟨0x4210, 0x11, 3, .rw, 0x3b9aca00, .fam 8, none, 0, (0, 0)⟩
def Reg.followOffsetNs : Reg := ⟨0x4210, 0x12, 7, .rw, 0, .fam 8, none, 0, (0, 0)⟩
def Reg.frameOffsetNs : Reg := ⟨0x4210, 0x13, 4, .rw, 0, .fam 8, none, 0, (0, 0)⟩
-- 0x4220 (R333) --------------------
def Reg.trigCfg : Reg := ⟨0x4220, 0x01, 3, .rw, 0, .fam 8, none, 0x1ffff, (0, 0)⟩
def Reg.trigStart : Reg := ⟨0x4220, 0x02, 4, .rw, 0, .fam 8, none, 0, (0, 0)⟩
def Reg.trigPeriodNs : Reg := ⟨0x4220, 0x03, 3, .rw, 0, .fam 8, none, 0, (0, 0)⟩
def Reg.trigWidthNs : Reg := ⟨0x4220, 0x04, 3, .rw, 100, .fam 8, some (10, 100000000, 1), 0, (0, 0)⟩
def Reg.trigCompNs : Reg := ⟨0x4220, 0x05, 6, .rw, 0, .fam 8, some (-100000, 100000, 1), 0, (0, 0)⟩
def Reg.trigMissed : Reg := ⟨0x4220, 0x06, 3, .ro, 0, .fam 8, none, 0, (0, 0)⟩
-- 0x4230 (R333) --------------------
def Reg.capCfg : Reg := ⟨0x4230, 0x01, 1, .rw, 0, .fam 4, none, 0x7c, (0, 0)⟩
def Reg.capCompNs : Reg := ⟨0x4230, 0x02, 6, .rw, 0, .fam 4, none, 0, (0, 0)⟩
def Reg.capRead : Reg := ⟨0x4230, 0x03, 10, .ro, 0, .fam 4, none, 0, (0, 72)⟩
def Reg.capOverrun : Reg := ⟨0x4230, 0x04, 3, .ro, 0, .fam 4, none, 0, (0, 0)⟩
-- 0x4238 (R333) --------------------
def Reg.ppsOutCfg : Reg := ⟨0x4238, 0x01, 1, .rw, 0, .one, none, 0x38, (0, 0)⟩
def Reg.ppsOutCompNs : Reg := ⟨0x4238, 0x02, 6, .rw, 0, .one, none, 0, (0, 0)⟩
def Reg.ppsOutWidthNs : Reg := ⟨0x4238, 0x03, 3, .rw, 0x5f5e100, .one, some (100, 900000000, 1), 0, (0, 0)⟩
-- 0x5000 (R370) --------------------
def Reg.packageId : Reg := ⟨0x5000, 0x01, 1, .rws, 255, .one, none, 0, (0, 0)⟩
def Reg.fabricState : Reg := ⟨0x5000, 0x02, 1, .ro, 0, .one, none, 0, (0, 0)⟩
def Reg.fabricCtrl : Reg := ⟨0x5000, 0x03, 1, .wo, 0, .one, some (1, 2, 1), 0, (0, 0)⟩
def Reg.domainKey : Reg := ⟨0x5000, 0x04, 10, .rwd, 32, .one, none, 0, (80, 80)⟩
def Reg.routeTable : Reg := ⟨0x5000, 0x05, 10, .rw, 128, .one, none, 0, (128, 128)⟩
def Reg.routeCommit : Reg := ⟨0x5000, 0x06, 3, .wo, 0, .one, none, 0, (0, 0)⟩
def Reg.routeEpoch : Reg := ⟨0x5000, 0x07, 3, .ro, 0, .one, none, 0, (0, 0)⟩
def Reg.routeStatus : Reg := ⟨0x5000, 0x08, 1, .ro, 0, .one, none, 0, (0, 0)⟩
def Reg.routeDrainUs : Reg := ⟨0x5000, 0x09, 3, .rw, 200, .one, some (10, 10000, 1), 0, (0, 0)⟩
def Reg.reqTimeoutUs : Reg := ⟨0x5000, 0x0A, 3, .rw, 500, .one, some (50, 100000, 1), 0, (0, 0)⟩
def Reg.buddyPoolFrames : Reg := ⟨0x5000, 0x0B, 3, .rws, 0, .one, none, 0, (0, 0)⟩
def Reg.buddyFreeFrames : Reg := ⟨0x5000, 0x0C, 3, .ro, 0, .one, none, 0, (0, 0)⟩
def Reg.fabWfqCommit : Reg := ⟨0x5000, 0x0D, 3, .wo, 0, .one, none, 0, (0, 0)⟩
def Reg.fabWfqEpoch : Reg := ⟨0x5000, 0x0E, 3, .ro, 0, .one, none, 0, (0, 0)⟩
def Reg.homeRefusals : Reg := ⟨0x5000, 0x0F, 3, .ro, 0, .one, none, 0, (0, 0)⟩
def Reg.authFails : Reg := ⟨0x5000, 0x10, 3, .ro, 0, .one, none, 0, (0, 0)⟩
def Reg.droppedUnknownJob : Reg := ⟨0x5000, 0x11, 3, .ro, 0, .one, none, 0, (0, 0)⟩
def Reg.droppedMisrouted : Reg := ⟨0x5000, 0x12, 3, .ro, 0, .one, none, 0, (0, 0)⟩
def Reg.droppedMalformed : Reg := ⟨0x5000, 0x13, 3, .ro, 0, .one, none, 0, (0, 0)⟩
def Reg.hotlineStalls : Reg := ⟨0x5000, 0x14, 4, .ro, 0, .one, none, 0, (0, 0)⟩
def Reg.unreachableReports : Reg := ⟨0x5000, 0x15, 3, .ro, 0, .one, none, 0, (0, 0)⟩
-- 0x5010 (R371) --------------------
def Reg.fabPortEnable : Reg := ⟨0x5010, 0x01, 1, .rw, 0, .fam 16, some (0, 1, 1), 0, (0, 0)⟩
def Reg.fabPortState : Reg := ⟨0x5010, 0x02, 1, .ro, 0, .fam 16, none, 0, (0, 0)⟩
def Reg.peerId : Reg := ⟨0x5010, 0x03, 1, .ro, 255, .fam 16, none, 0, (0, 0)⟩
def Reg.weightReq : Reg := ⟨0x5010, 0x04, 2, .rw, 4096, .fam 16, none, 0, (0, 0)⟩
def Reg.weightRsp : Reg := ⟨0x5010, 0x05, 2, .rw, 4096, .fam 16, none, 0, (0, 0)⟩
def Reg.weightBulk : Reg := ⟨0x5010, 0x06, 2, .rw, 1024, .fam 16, none, 0, (0, 0)⟩
def Reg.crcErrors : Reg := ⟨0x5010, 0x07, 4, .ro, 0, .fam 16, none, 0, (0, 0)⟩
def Reg.replays : Reg := ⟨0x5010, 0x08, 4, .ro, 0, .fam 16, none, 0, (0, 0)⟩
def Reg.retrains : Reg := ⟨0x5010, 0x09, 3, .ro, 0, .fam 16, none, 0, (0, 0)⟩
def Reg.fabFecCorrected : Reg := ⟨0x5010, 0x0A, 4, .ro, 0, .fam 16, none, 0, (0, 0)⟩
def Reg.fabFecUncorrected : Reg := ⟨0x5010, 0x0B, 3, .ro, 0, .fam 16, none, 0, (0, 0)⟩
def Reg.fabTxBytes : Reg := ⟨0x5010, 0x0C, 4, .ro, 0, .fam 16, none, 0, (0, 0)⟩
def Reg.fabRxBytes : Reg := ⟨0x5010, 0x0D, 4, .ro, 0, .fam 16, none, 0, (0, 0)⟩
-- 0x5020 (R372) --------------------
def Reg.jobSelect : Reg := ⟨0x5020, 0x01, 1, .rw, 0, .session, none, 0, (0, 0)⟩
def Reg.jobCfg : Reg := ⟨0x5020, 0x02, 10, .rw, 32, .sel .job, none, 0, (32, 32)⟩
def Reg.jobState : Reg := ⟨0x5020, 0x03, 1, .ro, 0, .sel .job, none, 0, (0, 0)⟩
def Reg.jobTeardown : Reg := ⟨0x5020, 0x04, 1, .wo, 0, .sel .job, some (4, 8, 1), 0, (0, 0)⟩
def Reg.winLoadOffset : Reg := ⟨0x5020, 0x05, 3, .rw, 0, .sel .job, none, 0, (0, 0)⟩
def Reg.winLoadData : Reg := ⟨0x5020, 0x06, 10, .wo, 0, .sel .job, none, 0, (16, 1024)⟩
def Reg.winEntries : Reg := ⟨0x5020, 0x07, 2, .rw, 0, .sel .job, some (1, 1024, 1), 0, (0, 0)⟩
def Reg.winCommit : Reg := ⟨0x5020, 0x08, 3, .wo, 0, .sel .job, none, 0, (0, 0)⟩
def Reg.winEpoch : Reg := ⟨0x5020, 0x09, 3, .ro, 0, .sel .job, none, 0, (0, 0)⟩
def Reg.jobSnapshot : Reg := ⟨0x5020, 0x0A, 3, .wo, 0, .sel .job, none, 0, (0, 0)⟩
def Reg.snapStatus : Reg := ⟨0x5020, 0x0B, 1, .ro, 0, .sel .job, none, 0, (0, 0)⟩
def Reg.snapLastId : Reg := ⟨0x5020, 0x0C, 3, .ro, 0, .sel .job, none, 0, (0, 0)⟩
def Reg.buddyAdopt : Reg := ⟨0x5020, 0x0D, 2, .wo, 0, .sel .job, none, 0, (0, 0)⟩
def Reg.restoreFromBuddy : Reg := ⟨0x5020, 0x0E, 2, .wo, 0, .sel .job, none, 0, (0, 0)⟩
def Reg.jobRestoreStatus : Reg := ⟨0x5020, 0x0F, 1, .ro, 0, .sel .job, none, 0, (0, 0)⟩
def Reg.buddyRelease : Reg := ⟨0x5020, 0x10, 2, .wo, 0, .sel .job, none, 0, (0, 0)⟩
-- 0x5100 (R401) --------------------
def Reg.pcieLink : Reg := ⟨0x5100, 0x01, 2, .ro, 0, .one, none, 0, (0, 0)⟩
def Reg.flrCount : Reg := ⟨0x5100, 0x02, 3, .ro, 0, .one, none, 0, (0, 0)⟩
def Reg.hostErrors : Reg := ⟨0x5100, 0x03, 3, .ro, 0, .one, none, 0, (0, 0)⟩
def Reg.pasidLoadOffset : Reg := ⟨0x5100, 0x04, 3, .rw, 0, .one, none, 0, (0, 0)⟩
def Reg.pasidLoadData : Reg := ⟨0x5100, 0x05, 10, .wo, 0, .one, none, 0, (16, 1024)⟩
def Reg.pasidMapEntries : Reg := ⟨0x5100, 0x06, 2, .rw, 0, .one, some (0, 4096, 1), 0, (0, 0)⟩
def Reg.pasidMapCommit : Reg := ⟨0x5100, 0x07, 3, .rwd, 0, .one, none, 0, (0, 0)⟩
def Reg.pasidMapEpoch : Reg := ⟨0x5100, 0x08, 3, .ro, 0, .one, none, 0, (0, 0)⟩
def Reg.mbVector : Reg := ⟨0x5100, 0x09, 2, .rw, 65535, .one, none, 0, (0, 0)⟩
def Reg.mbIgnored : Reg := ⟨0x5100, 0x0A, 3, .ro, 0, .one, none, 0, (0, 0)⟩
def Reg.bar4Open : Reg := ⟨0x5100, 0x0B, 1, .rws, 0, .one, none, 0, (0, 0)⟩
def Reg.pasidStalls : Reg := ⟨0x5100, 0x0C, 4, .ro, 0, .one, none, 0, (0, 0)⟩
def Reg.vectorDrops : Reg := ⟨0x5100, 0x0D, 4, .ro, 0, .one, none, 0, (0, 0)⟩
-- 0x5140 (R402) --------------------
def Reg.sliceMap : Reg := ⟨0x5140, 0x01, 4, .rwd, 0, .fam 64, none, 0, (0, 0)⟩
def Reg.sealCfg : Reg := ⟨0x5140, 0x02, 10, .rwd, 24, .fam 64, none, 0, (24, 24)⟩
def Reg.sliceCtrl : Reg := ⟨0x5140, 0x03, 1, .wo, 0, .fam 64, some (1, 2, 1), 0, (0, 0)⟩
def Reg.sliceStatus : Reg := ⟨0x5140, 0x04, 1, .ro, 0, .fam 64, none, 0, (0, 0)⟩
def Reg.sliceSave : Reg := ⟨0x5140, 0x05, 10, .wo, 0, .fam 64, none, 0, (12, 12)⟩
def Reg.sliceRestore : Reg := ⟨0x5140, 0x06, 10, .wo, 0, .fam 64, none, 0, (13, 13)⟩
def Reg.saveStatus : Reg := ⟨0x5140, 0x07, 1, .ro, 0, .fam 64, none, 0, (0, 0)⟩
def Reg.sliceRestoreStatus : Reg := ⟨0x5140, 0x08, 1, .ro, 0, .fam 64, none, 0, (0, 0)⟩
def Reg.sliceImageBytes : Reg := ⟨0x5140, 0x09, 4, .ro, 0, .fam 64, none, 0, (0, 0)⟩
-- 0x5102 (R403) --------------------
def Reg.ctxPasid : Reg := ⟨0x5102, 0x01, 3, .rw, 0xffffffff, .sel .ctx, none, 0, (0, 0)⟩
def Reg.ctxPrivReq : Reg := ⟨0x5102, 0x02, 3, .rw, 0x100000, .sel .ctx, some (0, 4194304, 1), 0, (0, 0)⟩
def Reg.ctxSharedReq : Reg := ⟨0x5102, 0x03, 3, .rw, 0, .sel .ctx, some (0, 33554432, 1), 0, (0, 0)⟩
-- 0x5180 (R404) --------------------
def Reg.rhcCfg : Reg := ⟨0x5180, 0x01, 3, .rw, 0, .fam 8, none, 0x78000007, (0, 0)⟩
def Reg.rhcPasid : Reg := ⟨0x5180, 0x02, 3, .rwd, 0xffffffff, .fam 8, none, 0, (0, 0)⟩
def Reg.upRingBase : Reg := ⟨0x5180, 0x03, 4, .rw, 0, .fam 8, some (0, 18446744073709551615, 4096), 0, (0, 0)⟩
def Reg.upDataBase : Reg := ⟨0x5180, 0x04, 4, .rw, 0, .fam 8, some (0, 18446744073709551615, 4096), 0, (0, 0)⟩
def Reg.downRingBase : Reg := ⟨0x5180, 0x05, 4, .rw, 0, .fam 8, some (0, 18446744073709551615, 4096), 0, (0, 0)⟩
def Reg.rhcDropped : Reg := ⟨0x5180, 0x06, 4, .ro, 0, .fam 8, none, 0, (0, 0)⟩
def Reg.rhcErrors : Reg := ⟨0x5180, 0x07, 3, .ro, 0, .fam 8, none, 0, (0, 0)⟩
-- 0x6000 (R428) --------------------
def Reg.devicePubkey : Reg := ⟨0x6000, 0x01, 10, .const, 0, .one, none, 0, (32, 32)⟩
def Reg.deviceKexPubkey : Reg := ⟨0x6000, 0x02, 10, .const, 0, .one, none, 0, (32, 32)⟩
def Reg.deviceCert : Reg := ⟨0x6000, 0x03, 10, .const, 0, .one, none, 0, (64, 64)⟩
def Reg.claimState : Reg := ⟨0x6000, 0x04, 1, .ro, 0, .one, none, 0, (0, 0)⟩
def Reg.claim : Reg := ⟨0x6000, 0x05, 10, .wo, 0, .one, none, 0, (464, 464)⟩
def Reg.release : Reg := ⟨0x6000, 0x06, 1, .rwd, 0, .one, some (1, 1, 1), 0, (0, 0)⟩
def Reg.pufSource : Reg := ⟨0x6000, 0x07, 1, .ro, 0, .one, none, 0, (0, 0)⟩
-- 0x6001 (R428) --------------------
def Reg.hubFwVersion : Reg := ⟨0x6001, 0x01, 3, .ro, 0, .one, none, 0, (0, 0)⟩
def Reg.activeImage : Reg := ⟨0x6001, 0x02, 1, .ro, 0, .one, none, 0, (0, 0)⟩
def Reg.hubFwDigest : Reg := ⟨0x6001, 0x03, 10, .ro, 64, .one, none, 0, (64, 64)⟩
def Reg.minFwVersion : Reg := ⟨0x6001, 0x04, 3, .rwd, 0, .one, none, 0, (0, 0)⟩
def Reg.imageRejects : Reg := ⟨0x6001, 0x05, 3, .ro, 0, .one, none, 0, (0, 0)⟩
-- 0x6002 (R428) --------------------
def Reg.attestNonce : Reg := ⟨0x6002, 0x01, 10, .wo, 0, .session, none, 0, (32, 32)⟩
def Reg.attestReport : Reg := ⟨0x6002, 0x02, 10, .ro, 576, .session, none, 0, (576, 576)⟩
def Reg.setupDigest : Reg := ⟨0x6002, 0x03, 10, .ro, 0, .one, none, 0, (64, 64)⟩
-- 0x6003 (R428) --------------------
def Reg.platformAnchor : Reg := ⟨0x6003, 0x01, 10, .rwd, 32, .one, none, 0, (32, 32)⟩
def Reg.radioAnchor : Reg := ⟨0x6003, 0x02, 10, .rwd, 32, .one, none, 0, (32, 32)⟩
def Reg.roleKeySelect : Reg := ⟨0x6003, 0x03, 1, .rw, 0, .session, some (0, 4, 1), 0, (0, 0)⟩
def Reg.roleKey : Reg := ⟨0x6003, 0x04, 10, .rwd, 32, .sel .roleKey, none, 0, (80, 80)⟩
-- 0x6004 (R428) --------------------
def Reg.endorseNonce : Reg := ⟨0x6004, 0x01, 10, .ro, 0, .one, none, 0, (16, 16)⟩
def Reg.endorsePending : Reg := ⟨0x6004, 0x02, 1, .ro, 0, .one, none, 0, (0, 0)⟩
def Reg.endorseApplied : Reg := ⟨0x6004, 0x03, 3, .ro, 0, .one, none, 0, (0, 0)⟩
def Reg.endorseExpired : Reg := ⟨0x6004, 0x04, 3, .ro, 0, .one, none, 0, (0, 0)⟩
def Reg.endorseRefused : Reg := ⟨0x6004, 0x05, 3, .ro, 0, .one, none, 0, (0, 0)⟩
-- 0x6005 (R428) --------------------
def Reg.sessionIdleS : Reg := ⟨0x6005, 0x01, 2, .rw, 300, .one, some (30, 3600, 1), 0, (0, 0)⟩
def Reg.sessionRefused : Reg := ⟨0x6005, 0x02, 3, .ro, 0, .one, none, 0, (0, 0)⟩
def Reg.sessionAuthFails : Reg := ⟨0x6005, 0x03, 3, .ro, 0, .one, none, 0, (0, 0)⟩
-- 0x6040 (R429) --------------------
def Reg.tenantKey : Reg := ⟨0x6040, 0x01, 10, .rwd, 32, .fam 64, none, 0, (80, 80)⟩
def Reg.tenantKeySet : Reg := ⟨0x6040, 0x02, 1, .ro, 0, .fam 64, none, 0, (0, 0)⟩
-- 0x1100 (R449) --------------------
def Reg.sessionsOpen : Reg := ⟨0x1100, 0x01, 1, .ro, 0, .one, none, 0, (0, 0)⟩
def Reg.dictIgnoredTotal : Reg := ⟨0x1100, 0x02, 4, .ro, 0, .one, none, 0, (0, 0)⟩
def Reg.dictLastIgnored : Reg := ⟨0x1100, 0x03, 2, .ro, 0, .one, none, 0, (0, 0)⟩
def Reg.dictLastIgnoredEntry : Reg := ⟨0x1100, 0x04, 3, .ro, 0, .one, none, 0, (0, 0)⟩
-- 0x1101 (R449) --------------------
def Reg.sessionSelf : Reg := ⟨0x1101, 0x01, 3, .ro, 0, .session, none, 0, (0, 0)⟩
def Reg.eventMask : Reg := ⟨0x1101, 0x02, 3, .rw, 126, .session, none, 0xffffff81, (0, 0)⟩
def Reg.eventsLost : Reg := ⟨0x1101, 0x03, 3, .ro, 0, .session, none, 0, (0, 0)⟩
def Reg.sessIgnoredCount : Reg := ⟨0x1101, 0x04, 3, .ro, 0, .session, none, 0, (0, 0)⟩
def Reg.sessLastIgnored : Reg := ⟨0x1101, 0x05, 2, .ro, 0, .session, none, 0, (0, 0)⟩
-- 0x1110 (R450) --------------------
def Reg.mgmtPortState : Reg := ⟨0x1110, 0x01, 1, .ro, 0, .fam 2, none, 0, (0, 0)⟩
def Reg.mgmtMacAddr : Reg := ⟨0x1110, 0x02, 10, .rws, 0, .fam 2, none, 0, (6, 6)⟩
def Reg.ipv4Addr : Reg := ⟨0x1110, 0x03, 10, .rws, 8, .fam 2, none, 0, (8, 8)⟩
def Reg.ipv6Addr : Reg := ⟨0x1110, 0x04, 10, .rws, 17, .fam 2, none, 0, (17, 17)⟩
def Reg.mgmtUdpPort : Reg := ⟨0x1110, 0x05, 2, .rws, 28730, .fam 2, some (1024, 65535, 1), 0, (0, 0)⟩
def Reg.reportDest : Reg := ⟨0x1110, 0x06, 10, .rw, 18, .fam 2, none, 0, (18, 18)⟩
def Reg.mgmtRxFrames : Reg := ⟨0x1110, 0x07, 4, .ro, 0, .fam 2, none, 0, (0, 0)⟩
def Reg.mgmtRxDiscarded : Reg := ⟨0x1110, 0x08, 4, .ro, 0, .fam 2, none, 0, (0, 0)⟩
def Reg.reportsSent : Reg := ⟨0x1110, 0x09, 4, .ro, 0, .fam 2, none, 0, (0, 0)⟩
-- 0x1200 (R457) --------------------
def Reg.configSeq : Reg := ⟨0x1200, 0x01, 3, .ro, 0, .one, none, 0, (0, 0)⟩
def Reg.configSource : Reg := ⟨0x1200, 0x02, 1, .ro, 255, .one, none, 0, (0, 0)⟩
def Reg.configSave : Reg := ⟨0x1200, 0x03, 1, .wo, 0, .one, some (1, 1, 1), 0, (0, 0)⟩
def Reg.configStatus : Reg := ⟨0x1200, 0x04, 1, .ro, 0, .one, none, 0, (0, 0)⟩
def Reg.copyASeq : Reg := ⟨0x1200, 0x05, 3, .ro, 0, .one, none, 0, (0, 0)⟩
def Reg.copyBSeq : Reg := ⟨0x1200, 0x06, 3, .ro, 0, .one, none, 0, (0, 0)⟩
def Reg.configRecordRejects : Reg := ⟨0x1200, 0x07, 3, .ro, 0, .one, none, 0, (0, 0)⟩
def Reg.configSaves : Reg := ⟨0x1200, 0x08, 3, .ro, 0, .one, none, 0, (0, 0)⟩
def Reg.configBytes : Reg := ⟨0x1200, 0x09, 3, .ro, 0, .one, none, 0, (0, 0)⟩
-- 0x7000 (R483) --------------------
def Reg.meService : Reg := ⟨0x7000, 0x01, 10, .ro, 0, .one, none, 0, (16, 16)⟩
def Reg.cdService : Reg := ⟨0x7000, 0x02, 2, .ro, 65535, .one, none, 0, (0, 0)⟩
def Reg.stackService : Reg := ⟨0x7000, 0x03, 2, .ro, 4095, .one, none, 0, (0, 0)⟩
def Reg.xpService : Reg := ⟨0x7000, 0x04, 2, .ro, 65535, .one, none, 0, (0, 0)⟩
def Reg.dspService : Reg := ⟨0x7000, 0x05, 10, .ro, 0, .one, none, 0, (12, 12)⟩
def Reg.meQuarantine : Reg := ⟨0x7000, 0x06, 10, .rws, 16, .one, none, 0, (16, 16)⟩
def Reg.cdOutMask : Reg := ⟨0x7000, 0x07, 2, .rws, 0, .one, none, 0, (0, 0)⟩
def Reg.ceReportThreshold : Reg := ⟨0x7000, 0x08, 3, .rw, 64, .one, some (1, 1000000, 1), 0, (0, 0)⟩
def Reg.scrubHours : Reg := ⟨0x7000, 0x09, 2, .rw, 24, .one, some (1, 168, 1), 0, (0, 0)⟩
def Reg.ceTotal : Reg := ⟨0x7000, 0x0A, 4, .ro, 0, .one, none, 0, (0, 0)⟩
def Reg.ueTotal : Reg := ⟨0x7000, 0x0B, 3, .ro, 0, .one, none, 0, (0, 0)⟩
def Reg.unitsRetired : Reg := ⟨0x7000, 0x0C, 3, .ro, 0, .one, none, 0, (0, 0)⟩
def Reg.reportDuplicates : Reg := ⟨0x7000, 0x0D, 4, .ro, 0, .one, none, 0, (0, 0)⟩
def Reg.reportsSuppressed : Reg := ⟨0x7000, 0x0E, 4, .ro, 0, .one, none, 0, (0, 0)⟩
def Reg.hbEnable : Reg := ⟨0x7000, 0x0F, 1, .rw, 0, .one, some (0, 1, 1), 0, (0, 0)⟩
def Reg.hbPeriodUs : Reg := ⟨0x7000, 0x10, 3, .rw, 1000, .one, some (100, 100000, 1), 0, (0, 0)⟩
def Reg.hbLossMs : Reg := ⟨0x7000, 0x11, 3, .rw, 2, .one, some (1, 10000, 1), 0, (0, 0)⟩
def Reg.hbEcho : Reg := ⟨0x7000, 0x12, 3, .wo, 0, .one, none, 0, (0, 0)⟩
def Reg.hbState : Reg := ⟨0x7000, 0x13, 1, .ro, 0, .one, none, 0, (0, 0)⟩
def Reg.selfFences : Reg := ⟨0x7000, 0x14, 3, .ro, 0, .one, none, 0, (0, 0)⟩
def Reg.faultLogIndex : Reg := ⟨0x7000, 0x15, 3, .ro, 0, .one, none, 0, (0, 0)⟩
-- 0x7100 (R484) --------------------
def Reg.shadowN : Reg := ⟨0x7100, 0x01, 3, .rw, 65536, .one, some (0, 16777216, 1), 0, (0, 0)⟩
def Reg.mismatchLimit : Reg := ⟨0x7100, 0x02, 1, .rw, 3, .one, some (1, 255, 1), 0, (0, 0)⟩
def Reg.shadowMaxAgeMs : Reg := ⟨0x7100, 0x03, 3, .rw, 1000, .one, some (1, 60000, 1), 0, (0, 0)⟩
def Reg.shadowFrames : Reg := ⟨0x7100, 0x04, 3, .rws, 64, .one, none, 0, (0, 0)⟩
def Reg.shadowRuns : Reg := ⟨0x7100, 0x05, 4, .ro, 0, .one, none, 0, (0, 0)⟩
def Reg.shadowSkipped : Reg := ⟨0x7100, 0x06, 4, .ro, 0, .one, none, 0, (0, 0)⟩
def Reg.shadowMismatches : Reg := ⟨0x7100, 0x07, 3, .ro, 0, .one, none, 0, (0, 0)⟩
def Reg.mismatchLogSelect : Reg := ⟨0x7100, 0x08, 1, .rw, 0, .session, some (0, 15, 1), 0, (0, 0)⟩
def Reg.mismatchLog : Reg := ⟨0x7100, 0x09, 10, .ro, 128, .sel .mismatch, none, 0, (128, 128)⟩
-- 0x7180 (R484) --------------------
def Reg.meMismatches : Reg := ⟨0x7180, 0x01, 1, .ro, 0, .fam 128, none, 0, (0, 0)⟩
-- 0x2000 (R502) --------------------
def Reg.rootFreqHz : Reg := ⟨0x2000, 0x01, 4, .const, 0x189640200, .one, none, 0, (0, 0)⟩
def Reg.clkState : Reg := ⟨0x2000, 0x02, 1, .ro, 0, .one, none, 0, (0, 0)⟩
def Reg.refLosses : Reg := ⟨0x2000, 0x03, 3, .ro, 0, .one, none, 0, (0, 0)⟩
def Reg.holdoverMs : Reg := ⟨0x2000, 0x04, 3, .ro, 0, .one, none, 0, (0, 0)⟩
def Reg.diePllLock : Reg := ⟨0x2000, 0x05, 3, .ro, 0, .one, none, 0, (0, 0)⟩
def Reg.ckCycle : Reg := ⟨0x2000, 0x06, 4, .ro, 0, .one, none, 0, (0, 0)⟩
def Reg.rclkCfg : Reg := ⟨0x2000, 0x07, 2, .rw, 0, .one, none, 0x7ff0, (0, 0)⟩
def Reg.xingStalls : Reg := ⟨0x2000, 0x08, 3, .ro, 0, .one, none, 0, (0, 0)⟩
def Reg.staleGrants : Reg := ⟨0x2000, 0x09, 4, .ro, 0, .one, none, 0, (0, 0)⟩
-- 0x2100 (R520) --------------------
def Reg.powerCapW : Reg := ⟨0x2100, 0x01, 2, .rw, 2400, .one, none, 0, (0, 0)⟩
def Reg.maxPackageW : Reg := ⟨0x2100, 0x02, 2, .const, 2400, .one, none, 0, (0, 0)⟩
def Reg.burstW : Reg := ⟨0x2100, 0x03, 2, .rws, 2700, .one, none, 0, (0, 0)⟩
def Reg.burstMaxMs : Reg := ⟨0x2100, 0x04, 2, .const, 200, .one, none, 0, (0, 0)⟩
def Reg.burstBankMj : Reg := ⟨0x2100, 0x05, 3, .ro, 0, .one, none, 0, (0, 0)⟩
def Reg.powerEstW : Reg := ⟨0x2100, 0x06, 2, .ro, 0, .one, none, 0, (0, 0)⟩
def Reg.powerMeasW : Reg := ⟨0x2100, 0x07, 2, .ro, 0, .one, none, 0, (0, 0)⟩
def Reg.throttleStage : Reg := ⟨0x2100, 0x08, 1, .ro, 0, .one, none, 0, (0, 0)⟩
def Reg.throttleHystW : Reg := ⟨0x2100, 0x09, 2, .rw, 50, .one, some (10, 500, 1), 0, (0, 0)⟩
def Reg.beIdleAk : Reg := ⟨0x2100, 0x0A, 2, .ro, 0, .one, none, 0, (0, 0)⟩
def Reg.lcIdleAk : Reg := ⟨0x2100, 0x0B, 2, .ro, 0, .one, none, 0, (0, 0)⟩
def Reg.throttledUs : Reg := ⟨0x2100, 0x0C, 4, .ro, 0, .one, none, 0, (0, 0)⟩
def Reg.railSelect : Reg := ⟨0x2100, 0x0D, 1, .rw, 0, .session, some (0, 25, 1), 0, (0, 0)⟩
def Reg.railMv : Reg := ⟨0x2100, 0x0E, 2, .ro, 0, .sel .rail, none, 0, (0, 0)⟩
def Reg.railMa : Reg := ⟨0x2100, 0x0F, 3, .ro, 0, .sel .rail, none, 0, (0, 0)⟩
def Reg.railStatus : Reg := ⟨0x2100, 0x10, 2, .ro, 0, .sel .rail, none, 0, (0, 0)⟩
def Reg.railSetpointMv : Reg := ⟨0x2100, 0x11, 2, .ro, 0, .sel .rail, none, 0, (0, 0)⟩
def Reg.regMap : Reg := ⟨0x2100, 0x12, 10, .rws, 52, .one, none, 0, (52, 52)⟩
def Reg.pmbusErrors : Reg := ⟨0x2100, 0x13, 3, .ro, 0, .one, none, 0, (0, 0)⟩
-- 0x2200 (R521) --------------------
def Reg.tjHottest : Reg := ⟨0x2200, 0x01, 5, .ro, 0, .one, none, 0, (0, 0)⟩
def Reg.tjThrottle : Reg := ⟨0x2200, 0x02, 5, .rw, 1600, .one, some (1280, 1680, 1), 0, (0, 0)⟩
def Reg.tjCrit : Reg := ⟨0x2200, 0x03, 5, .rw, 1760, .one, none, 0, (0, 0)⟩
def Reg.tjTrip : Reg := ⟨0x2200, 0x04, 5, .const, 1920, .one, none, 0, (0, 0)⟩
def Reg.coolantIn : Reg := ⟨0x2200, 0x05, 5, .ro, 0, .one, none, 0, (0, 0)⟩
def Reg.coolantOut : Reg := ⟨0x2200, 0x06, 5, .ro, 0, .one, none, 0, (0, 0)⟩
def Reg.coolantInMax : Reg := ⟨0x2200, 0x07, 5, .rw, 720, .one, none, 0, (0, 0)⟩
def Reg.flowMlpm : Reg := ⟨0x2200, 0x08, 3, .ro, 0, .one, none, 0, (0, 0)⟩
def Reg.flowMinMlpm : Reg := ⟨0x2200, 0x09, 3, .rw, 1000, .one, none, 0, (0, 0)⟩
def Reg.flowFullMlpm : Reg := ⟨0x2200, 0x0A, 3, .rws, 4000, .one, none, 0, (0, 0)⟩
def Reg.flowDemandPct : Reg := ⟨0x2200, 0x0B, 1, .ro, 100, .one, none, 0, (0, 0)⟩
def Reg.dtCoolantMax : Reg := ⟨0x2200, 0x0C, 2, .rw, 15, .one, some (5, 30, 1), 0, (0, 0)⟩
def Reg.tachPulsesPerL : Reg := ⟨0x2200, 0x0D, 3, .rws, 1000, .one, none, 0, (0, 0)⟩
def Reg.coolantHeatCapJkl : Reg := ⟨0x2200, 0x0E, 3, .rws, 4020, .one, none, 0, (0, 0)⟩
def Reg.plateCJk : Reg := ⟨0x2200, 0x0F, 3, .rws, 600, .one, none, 0, (0, 0)⟩
def Reg.rPcRef : Reg := ⟨0x2200, 0x10, 8, .rws, 0x3c23d70a, .one, none, 0, (0, 0)⟩
def Reg.flowRefMlpm : Reg := ⟨0x2200, 0x11, 3, .rws, 2000, .one, none, 0, (0, 0)⟩
def Reg.rJp : Reg := ⟨0x2200, 0x12, 8, .rws, 0x3c03126f, .one, none, 0, (0, 0)⟩
def Reg.plateEst : Reg := ⟨0x2200, 0x13, 5, .ro, 0, .one, none, 0, (0, 0)⟩
def Reg.sensorCalMs : Reg := ⟨0x2200, 0x14, 3, .rw, 1000, .one, some (100, 60000, 1), 0, (0, 0)⟩
def Reg.sensorInvalidMask : Reg := ⟨0x2200, 0x15, 10, .ro, 13, .one, none, 0, (13, 13)⟩
-- 0x6006 (R536) --------------------
def Reg.resetCause : Reg := ⟨0x6006, 0x01, 1, .ro, 0, .one, none, 0, (0, 0)⟩
def Reg.resetRequest : Reg := ⟨0x6006, 0x02, 1, .rws, 0, .one, some (1, 1, 1), 0, (0, 0)⟩
def Reg.bootStage : Reg := ⟨0x6006, 0x03, 1, .ro, 0, .one, none, 0, (0, 0)⟩
def Reg.startCount : Reg := ⟨0x6006, 0x04, 3, .ro, 0, .one, none, 0, (0, 0)⟩
def Reg.bootPrefer : Reg := ⟨0x6006, 0x05, 1, .rws, 0, .one, some (0, 1, 1), 0, (0, 0)⟩
def Reg.fwLoadOffset : Reg := ⟨0x6006, 0x06, 3, .rws, 0, .one, none, 0, (0, 0)⟩
def Reg.fwLoadData : Reg := ⟨0x6006, 0x07, 10, .wo, 0, .one, none, 0, (16, 1024)⟩
def Reg.fwCommit : Reg := ⟨0x6006, 0x08, 10, .rws, 64, .one, none, 0, (64, 64)⟩
def Reg.fwSlotStatus : Reg := ⟨0x6006, 0x09, 1, .ro, 0, .one, none, 0, (0, 0)⟩
def Reg.inactiveVersion : Reg := ⟨0x6006, 0x0A, 3, .ro, 0, .one, none, 0, (0, 0)⟩
def Reg.handover : Reg := ⟨0x6006, 0x0B, 1, .rws, 0, .one, some (1, 1, 1), 0, (0, 0)⟩
def Reg.handoverStatus : Reg := ⟨0x6006, 0x0C, 1, .ro, 0, .one, none, 0, (0, 0)⟩
def Reg.fwConfirm : Reg := ⟨0x6006, 0x0D, 1, .rws, 0, .one, some (1, 1, 1), 0, (0, 0)⟩
def Reg.handoverConfirmMs : Reg := ⟨0x6006, 0x0E, 3, .rws, 60000, .one, some (1000, 600000, 1), 0, (0, 0)⟩
def Reg.recoveryHoldMs : Reg := ⟨0x6006, 0x0F, 3, .rw, 1000, .one, some (100, 60000, 1), 0, (0, 0)⟩
-- 0x4234 (R333) --------------------
def Reg.ppsInCfg : Reg := ⟨0x4234, 0x01, 1, .rw, 0, .one, none, 0x7c, (0, 0)⟩
def Reg.ppsInCompNs : Reg := ⟨0x4234, 0x02, 6, .rw, 0, .one, none, 0, (0, 0)⟩
def Reg.ppsInRead : Reg := ⟨0x4234, 0x03, 10, .ro, 0, .one, none, 0, (0, 72)⟩
def Reg.ppsInOverrun : Reg := ⟨0x4234, 0x04, 3, .ro, 0, .one, none, 0, (0, 0)⟩
-- 0x5021 (R373) --------------------
def Reg.ctxJobId : Reg := ⟨0x5021, 0x01, 4, .rw, 0, .sel .ctx, none, 0, (0, 0)⟩

def Reg.list1000 : List Reg :=
  [.buildCode, .detClass, .cdCount, .mePerCd, .meCount, .meScratchBytes, .cdSharedBytes, .stackMask, .stackBytes,
   .fabricPortMask, .fabricLanes, .fhLanes, .dspCores, .contexts, .slices, .pasidEntries, .ueContexts,
   .timeBases, .mgmtSessions, .loamPageBytes, .domainPackages, .akNominalHz]
def Reg.list3080 : List Reg :=
  [.meState, .execCycles, .idleInserted, .meKills, .checkFaults, .kaolinFlagged]
def Reg.list3100 : List Reg :=
  [.numfwVersion, .numfwDigest, .numfwPending, .geluXmin, .satElements, .invalidElements, .vecCommands,
   .numfwRejects]
def Reg.list3200 : List Reg :=
  [.commits, .kills, .ignoredTotal, .lastIgnored, .teardownRecords]
def Reg.list3201 : List Reg :=
  [.ctxQueueSelect, .ctxQHead, .ctxQTail, .ctxQIgnoredCount, .ctxQLastIgnored, .ctxQLastIgnoredSeq, .ctxQState]
def Reg.list3240 : List Reg :=
  [.opcodeEnable, .syncCounterSelect, .syncCounter]
def Reg.list3400 : List Reg :=
  [.loamPoolFrames, .loamFreeFrames, .ageTickUs, .lcFloorBytes, .localZoneGib, .lcReclaimUs, .meshRouteEpoch,
   .fetches, .evictions, .streamedBytes, .prefetchFails, .spills, .spillBytes]
def Reg.list3401 : List Reg :=
  [.radioStackMask, .radioStackBytes, .radioSpBytes, .radioSharedBytes]
def Reg.list3402 : List Reg :=
  [.contextSelect, .privBase, .privBytes, .sharedBase, .sharedBytes, .ctxEngine, .ctxResident, .hoodDpa,
   .loamRefs]
def Reg.list3440 : List Reg :=
  [.privQuotaFrames, .privFrames, .spQuotaBytes, .spBytes, .loamQuotaPages, .loamPages, .loamMapIova,
   .loamMapPasid, .loamMapEntries, .loamMapCommit, .loamMapEpoch, .loamMapStatus, .prefetchDepth, .loamOver]
def Reg.list3300 : List Reg :=
  [.tilthEpoch, .tilthStatus, .tilthLoadOffset, .tilthLoadData, .tilthShadowDigest, .tilthCommit, .tilthRejects,
   .tilthRejectReason, .brimNs, .startMaxAk, .quantumAk, .killSkipAk, .admitIdleW, .admitPower, .reservedLimit,
   .radioLate, .brimDenials, .preemptKills, .schedGates]
def Reg.list3301 : List Reg :=
  [.reSelect, .reEngine, .reTb]
def Reg.list3302 : List Reg :=
  [.ctxClass, .ctxShare, .ctxDeficit, .engineCycles, .killedCycles, .placeHint, .ctxMove]
def Reg.list3340 : List Reg :=
  [.sliceWeight, .lcAllowed, .sliceEngineCycles]
def Reg.list4000 : List Reg :=
  [.cuCapacity, .cuBd0, .cuBd1, .gainTarget, .gainHyst, .gainFloor, .gainInit, .coderJobs, .coderLate,
   .coderIgnored, .coderLastIgnored, .slotOverruns, .windowLate, .windowMismatch, .radioIgnored,
   .radioLastIgnored, .ueRefused, .programAllow, .moveTailUs]
def Reg.list4001 : List Reg :=
  [.ldpcSetEpoch, .ldpcSetLoadData, .ldpcSetCommit]
def Reg.list4040 : List Reg :=
  [.coreState, .progLoadOffset, .progLoadData, .progCommit, .progSwapAt, .progDigest, .busyBk, .dspSat]
def Reg.list40A0 : List Reg :=
  [.cellSelect, .cellCfg, .cellCu, .ueBase, .ueCount, .cellMove, .lastEvm, .lastSinr, .gainSelect, .gainIndex]
def Reg.list4100 : List Reg :=
  [.portMode, .poolFreeWords, .fhWfqEpoch, .fhWfqCommit, .polEpoch, .polCommit, .classSelect, .classEntry,
   .sampleNs, .ulEarly, .ulLate, .uplaneBad]
def Reg.list4110 : List Reg :=
  [.fhPortEnable, .fhPortState, .fhMacAddr, .maxFrame, .portPhy, .ptpFwd, .ptpQueue, .tcTb, .fhRxFrames,
   .fhTxFrames, .fcsErrors, .oversize, .malformed, .unclassified, .fhFecCorrected, .fhFecUncorrected]
def Reg.list4120 : List Reg :=
  [.queueSelect, .qCfg, .qLevel, .qStaleNs, .qNoticeTarget, .qOp, .qWrite, .qTail, .qRead, .qRelease, .qMark,
   .qStatus, .qPackets, .qBad, .qOverflows, .qFlushedWords, .qIgnored, .qLastIgnored, .qWeight, .qEgressPort,
   .qSampleDepth, .qSampleDelayNs, .qMaxDepth, .qMaxDelayNs, .qDelaySumNs, .qSamples]
def Reg.list4140 : List Reg :=
  [.polMode, .cirMbps, .cbsBytes, .peirMbps, .pebsBytes, .pcpColour, .yellowLevel, .greenFrames, .yellowFrames,
   .redFrames, .yellowDropped, .svcRingOffset, .svcCapLog2]
def Reg.list4180 : List Reg :=
  [.ulComp, .dlComp, .staticComp, .ulWinMinNs, .ulWinMaxNs]
def Reg.list4200 : List Reg :=
  [.incrNom, .queueTb, .calPeriodMs, .calRuns]
def Reg.list4210 : List Reg :=
  [.tbTime, .stepNs, .freqAdjPpb, .incr, .servoSrc, .servoArg, .servoKp, .servoKi, .slewPpb, .lockNs, .lossMs,
   .lockState, .lastOffsetNs, .ptpDomain, .ptpPortMask, .asymNs, .capPeriodNs, .followOffsetNs, .frameOffsetNs]
def Reg.list4220 : List Reg :=
  [.trigCfg, .trigStart, .trigPeriodNs, .trigWidthNs, .trigCompNs, .trigMissed]
def Reg.list4230 : List Reg :=
  [.capCfg, .capCompNs, .capRead, .capOverrun]
def Reg.list4238 : List Reg :=
  [.ppsOutCfg, .ppsOutCompNs, .ppsOutWidthNs]
def Reg.list5000 : List Reg :=
  [.packageId, .fabricState, .fabricCtrl, .domainKey, .routeTable, .routeCommit, .routeEpoch, .routeStatus,
   .routeDrainUs, .reqTimeoutUs, .buddyPoolFrames, .buddyFreeFrames, .fabWfqCommit, .fabWfqEpoch, .homeRefusals,
   .authFails, .droppedUnknownJob, .droppedMisrouted, .droppedMalformed, .hotlineStalls, .unreachableReports]
def Reg.list5010 : List Reg :=
  [.fabPortEnable, .fabPortState, .peerId, .weightReq, .weightRsp, .weightBulk, .crcErrors, .replays, .retrains,
   .fabFecCorrected, .fabFecUncorrected, .fabTxBytes, .fabRxBytes]
def Reg.list5020 : List Reg :=
  [.jobSelect, .jobCfg, .jobState, .jobTeardown, .winLoadOffset, .winLoadData, .winEntries, .winCommit,
   .winEpoch, .jobSnapshot, .snapStatus, .snapLastId, .buddyAdopt, .restoreFromBuddy, .jobRestoreStatus,
   .buddyRelease]
def Reg.list5100 : List Reg :=
  [.pcieLink, .flrCount, .hostErrors, .pasidLoadOffset, .pasidLoadData, .pasidMapEntries, .pasidMapCommit,
   .pasidMapEpoch, .mbVector, .mbIgnored, .bar4Open, .pasidStalls, .vectorDrops]
def Reg.list5140 : List Reg :=
  [.sliceMap, .sealCfg, .sliceCtrl, .sliceStatus, .sliceSave, .sliceRestore, .saveStatus, .sliceRestoreStatus,
   .sliceImageBytes]
def Reg.list5102 : List Reg :=
  [.ctxPasid, .ctxPrivReq, .ctxSharedReq]
def Reg.list5180 : List Reg :=
  [.rhcCfg, .rhcPasid, .upRingBase, .upDataBase, .downRingBase, .rhcDropped, .rhcErrors]
def Reg.list6000 : List Reg :=
  [.devicePubkey, .deviceKexPubkey, .deviceCert, .claimState, .claim, .release, .pufSource]
def Reg.list6001 : List Reg :=
  [.hubFwVersion, .activeImage, .hubFwDigest, .minFwVersion, .imageRejects]
def Reg.list6002 : List Reg :=
  [.attestNonce, .attestReport, .setupDigest]
def Reg.list6003 : List Reg :=
  [.platformAnchor, .radioAnchor, .roleKeySelect, .roleKey]
def Reg.list6004 : List Reg :=
  [.endorseNonce, .endorsePending, .endorseApplied, .endorseExpired, .endorseRefused]
def Reg.list6005 : List Reg :=
  [.sessionIdleS, .sessionRefused, .sessionAuthFails]
def Reg.list6040 : List Reg :=
  [.tenantKey, .tenantKeySet]
def Reg.list1100 : List Reg :=
  [.sessionsOpen, .dictIgnoredTotal, .dictLastIgnored, .dictLastIgnoredEntry]
def Reg.list1101 : List Reg :=
  [.sessionSelf, .eventMask, .eventsLost, .sessIgnoredCount, .sessLastIgnored]
def Reg.list1110 : List Reg :=
  [.mgmtPortState, .mgmtMacAddr, .ipv4Addr, .ipv6Addr, .mgmtUdpPort, .reportDest, .mgmtRxFrames,
   .mgmtRxDiscarded, .reportsSent]
def Reg.list1200 : List Reg :=
  [.configSeq, .configSource, .configSave, .configStatus, .copyASeq, .copyBSeq, .configRecordRejects,
   .configSaves, .configBytes]
def Reg.list7000 : List Reg :=
  [.meService, .cdService, .stackService, .xpService, .dspService, .meQuarantine, .cdOutMask, .ceReportThreshold,
   .scrubHours, .ceTotal, .ueTotal, .unitsRetired, .reportDuplicates, .reportsSuppressed, .hbEnable, .hbPeriodUs,
   .hbLossMs, .hbEcho, .hbState, .selfFences, .faultLogIndex]
def Reg.list7100 : List Reg :=
  [.shadowN, .mismatchLimit, .shadowMaxAgeMs, .shadowFrames, .shadowRuns, .shadowSkipped, .shadowMismatches,
   .mismatchLogSelect, .mismatchLog]
def Reg.list7180 : List Reg :=
  [.meMismatches]
def Reg.list2000 : List Reg :=
  [.rootFreqHz, .clkState, .refLosses, .holdoverMs, .diePllLock, .ckCycle, .rclkCfg, .xingStalls, .staleGrants]
def Reg.list2100 : List Reg :=
  [.powerCapW, .maxPackageW, .burstW, .burstMaxMs, .burstBankMj, .powerEstW, .powerMeasW, .throttleStage,
   .throttleHystW, .beIdleAk, .lcIdleAk, .throttledUs, .railSelect, .railMv, .railMa, .railStatus,
   .railSetpointMv, .regMap, .pmbusErrors]
def Reg.list2200 : List Reg :=
  [.tjHottest, .tjThrottle, .tjCrit, .tjTrip, .coolantIn, .coolantOut, .coolantInMax, .flowMlpm, .flowMinMlpm,
   .flowFullMlpm, .flowDemandPct, .dtCoolantMax, .tachPulsesPerL, .coolantHeatCapJkl, .plateCJk, .rPcRef,
   .flowRefMlpm, .rJp, .plateEst, .sensorCalMs, .sensorInvalidMask]
def Reg.list6006 : List Reg :=
  [.resetCause, .resetRequest, .bootStage, .startCount, .bootPrefer, .fwLoadOffset, .fwLoadData, .fwCommit,
   .fwSlotStatus, .inactiveVersion, .handover, .handoverStatus, .fwConfirm, .handoverConfirmMs, .recoveryHoldMs]
def Reg.list4234 : List Reg :=
  [.ppsInCfg, .ppsInCompNs, .ppsInRead, .ppsInOverrun]
def Reg.list5021 : List Reg :=
  [.ctxJobId]

/-- Every entry of the dictionary. -/
def Reg.all : List Reg :=
  List.flatten
  [Reg.list1000, Reg.list3080, Reg.list3100, Reg.list3200, Reg.list3201, Reg.list3240, Reg.list3400,
   Reg.list3401, Reg.list3402, Reg.list3440, Reg.list3300, Reg.list3301, Reg.list3302, Reg.list3340,
   Reg.list4000, Reg.list4001, Reg.list4040, Reg.list40A0, Reg.list4100, Reg.list4110, Reg.list4120,
   Reg.list4140, Reg.list4180, Reg.list4200, Reg.list4210, Reg.list4220, Reg.list4230, Reg.list4238,
   Reg.list5000, Reg.list5010, Reg.list5020, Reg.list5100, Reg.list5140, Reg.list5102, Reg.list5180,
   Reg.list6000, Reg.list6001, Reg.list6002, Reg.list6003, Reg.list6004, Reg.list6005, Reg.list6040,
   Reg.list1100, Reg.list1101, Reg.list1110, Reg.list1200, Reg.list7000, Reg.list7100, Reg.list7180,
   Reg.list2000, Reg.list2100, Reg.list2200, Reg.list6006, Reg.list4234, Reg.list5021]

/-- How many consecutive indices an entry takes. -/
def Reg.span (r : Reg) : Nat :=
  match r.inst with
  | .fam n => n
  | .sessFam n => n
  | .sel .sync => 64
  | .sel .classE => 2
  | _ => 1

/-- The entry named index.subindex, and which of its family's indices (R439, R448). -/
def Reg.find (index sub : Nat) : Option (Reg × Nat) :=
  (Reg.all.find? fun r => r.sub = sub && r.index ≤ index && index < r.index + r.span).map fun r => (r, index - r.index)

end Sys2Proof.Machine
end

