-- ==== Sys2Proof/Machine/Tab.lean ====
section
/-! DEFINITION. Sparse tables: the one shape in which the model holds memories, register files and numbered objects. A
table lists (key, value) pairs with keys strictly rising; an unlisted key holds the default, and a write of the default
removes the entry, so that equal contents are equal data. -/

namespace Sys2Proof.Machine

/-- A sparse table. -/
abbrev Tab (α : Type) := List (Nat × α)

/-- What key `k` holds; `d` when it is not listed. -/
def Tab.get {α : Type} (d : α) : Tab α → Nat → α
  | [], _ => d
  | (k', v) :: t, k => if k' = k then v else Tab.get d t k

/-- Removes key `k`. -/
def Tab.erase {α : Type} : Tab α → Nat → Tab α
  | [], _ => []
  | (k', v) :: t, k => if k' = k then t else (k', v) :: Tab.erase t k

/-- Lists `v` under key `k`, in key order. -/
def Tab.insert {α : Type} : Tab α → Nat → α → Tab α
  | [], k, v => [(k, v)]
  | (k', v') :: t, k, v =>
    if k < k' then (k, v) :: (k', v') :: t
    else if k' = k then (k, v) :: t
    else (k', v') :: Tab.insert t k v

/-- Writes `v` under key `k`, keeping the canonical form for default `d`. -/
def Tab.set {α : Type} [DecidableEq α] (d : α) (t : Tab α) (k : Nat) (v : α) : Tab α :=
  if v = d then t.erase k else t.insert k v

/-- Keys strictly rising from above `lo`, and no listed value equal to the default. -/
def Tab.sortedFrom {α : Type} [DecidableEq α] (d : α) : Option Nat → Tab α → Bool
  | _, [] => true
  | none, (k, v) :: t => decide (v ≠ d) && Tab.sortedFrom d (some k) t
  | some lo, (k, v) :: t => decide (lo < k) && decide (v ≠ d) && Tab.sortedFrom d (some k) t

/-- Keys strictly rising: each key is listed once. -/
abbrev Tab.rising {α : Type} (t : Tab α) : Prop := t.Pairwise fun a b => a.1 < b.1

/-- The canonical form. -/
def Tab.wf {α : Type} [DecidableEq α] (d : α) (t : Tab α) : Bool := Tab.sortedFrom d none t

/-- The entry under `k`, the type's own default when not listed. -/
def Tab.at {α : Type} [Inhabited α] (t : Tab α) (k : Nat) : α := t.get default k

/-- Writes an entry, keeping the canonical form for the type's own default. -/
def Tab.put {α : Type} [Inhabited α] [DecidableEq α] (t : Tab α) (k : Nat) (v : α) : Tab α := t.set default k v

/-- Applies `f` to the entry under `k`. -/
def Tab.modify {α : Type} [Inhabited α] [DecidableEq α] (t : Tab α) (k : Nat) (f : α → α) : Tab α :=
  t.put k (f (t.at k))

/-- Applies `f` to every listed entry, dropping those that become the default. -/
def Tab.mapAll {α : Type} [Inhabited α] [DecidableEq α] (t : Tab α) (f : Nat → α → α) : Tab α :=
  (t.map fun p => (p.1, f p.1 p.2)).filter fun p => decide (p.2 ≠ default)

/-- Keeps the listed entries that satisfy `p`. -/
def Tab.keep {α : Type} (t : Tab α) (p : Nat → α → Bool) : Tab α := t.filter fun e => p e.1 e.2

/-- Keys whose listed entries satisfy `p`, rising. -/
def Tab.keysWhere {α : Type} (t : Tab α) (p : Nat → α → Bool) : List Nat := (t.filter fun e => p e.1 e.2).map (·.1)

/-- Writes a run of values at rising keys. -/
def Tab.setRun {α : Type} [DecidableEq α] (d : α) (t : Tab α) : Nat → List α → Tab α
  | _, [] => t
  | k, v :: vs => Tab.setRun d (t.set d k v) (k + 1) vs

/-- Reads `n` values at rising keys. -/
def Tab.run {α : Type} (d : α) (t : Tab α) : Nat → Nat → List α
  | _, 0 => []
  | k, n + 1 => t.get d k :: Tab.run d t (k + 1) n

end Sys2Proof.Machine
end

