-- ==== Sys2Proof/Machine/State.lean ====
section
/-! DEFINITION. The state of a ZC24: plain data, one structure per part of the manual. Dictionary registers stand in one
sparse file keyed by entry and instance (R439); everything the manual names beside them has a field here. Tables list only
what differs from the empty default, so that equal states are equal data. -/

namespace Sys2Proof.Machine

/-- The three builds (R2, R7). -/
inductive Build where
  | w12
  | w8
  | n12
  deriving DecidableEq, Repr, Inhabited

-- Commands and contexts --------------------

/-- Where a command stands (R149 to R155): waiting for its operands, running (its write set held), or killed and waiting to
run again from its start. -/
inductive Phase where
  | waiting
  | started
  | killing
  | rerun
  deriving DecidableEq, Repr, Inhabited

/-- The counts of a completion record (R159). -/
structure Counts where
  sat   : Nat
  inv   : Nat
  satHi : Nat
  satLo : Nat
  first : Option Nat
  deriving DecidableEq, Repr, Inhabited

/-- One fabric request of a command: its destination, sequence number, first element or byte, and whether answered. -/
structure Request where
  dest : Nat
  seq  : Nat
  off  : Nat
  answered : Bool
  deriving DecidableEq, Repr, Inhabited

/-- The command under way on a context or a radio queue. -/
structure Cmd where
  desc   : Nat
  seq    : Nat
  step   : Nat
  /-- Count of R73, R115 or R145. -/
  count  : Nat
  phase  : Phase
  /-- The command's own row has run since its start. -/
  done   : Bool
  /-- ENGINE of its record (R159); 0xFF before a start. -/
  engine : Nat
  /-- CK cycle in which it became next, and started. -/
  nextCk  : Nat
  startCk : Nat
  idleAk : Nat
  /-- Cause of a kill under way (R161). -/
  cause  : Nat
  /-- Record and index checks of the operand wait are made (R164). -/
  checked : Bool
  counts : Counts
  requests : List Request
  /-- Bytes of returned data and prior values by offset (R355, R357). -/
  landed : Tab Byte
  /-- Loam map and PASID map epochs of its lookups (R207). -/
  loamEpoch : Nat
  pasidEpoch : Nat
  /-- Pages a started command reads, which it counts in (R194): page × 2^256 + map entry. -/
  pages : List Nat
  /-- Pages that were absent when it started, which it streams (R196). -/
  streams : List Nat
  /-- Selected for shadow recompute (R474). -/
  shadowed : Bool
  /-- Starts of the windows before which R230 refused it, and was counted; of a DMA command, [0] once its stream from a package that
  cannot be reached has been reported (R363). -/
  denied : List Nat
  /-- Killed by a function reset: no record is written (R377). -/
  silent : Bool
  deriving DecidableEq, Repr, Inhabited

/-- A queue page and its rings (R129, R130). -/
structure Page where
  ringCfg : Nat
  cmdBase : Nat
  cplBase : Nat
  head    : W32
  tail    : W32
  cplHead : W32
  cplIndex : W32
  ignored : W32
  lastIgnored : Nat
  lastIgnoredSeq : W32
  /-- STATE: 0 disabled, 1 running, 2 frozen, 3 torn. -/
  state   : Nat
  deriving DecidableEq, Repr, Inhabited

/-- Where a context's allocations lie (R174 to R187). -/
structure Alloc where
  engine : Option Nat
  privBase : Nat
  privBytes : Nat
  sharedBase : Nat
  sharedBytes : Nat
  /-- DPA of the hood area, and its frames. -/
  hood : Option Nat
  hoodFrames : Nat
  /-- Die whose home the hood area was taken for, plus 1 (R181). -/
  hoodDie : Nat
  /-- Granules of the allocation whose bytes lie in the hood area (R184). -/
  spilled : List Nat
  /-- Clearing of its bytes is under way (R178). -/
  clearing : Bool
  deriving DecidableEq, Repr, Inhabited

/-- Changes held until the context's next commit boundary (R206, R233, R241, R386, R389). -/
structure Wanted where
  cls   : Option Nat
  pasid : Option Nat
  /-- Sizes to which a quota cut takes the allocations. -/
  priv  : Option Nat
  shared : Option Nat
  /-- Values written to CTX_PRIV_REQ and CTX_SHARED_REQ, each after the session that wrote it. -/
  privReq : Option (Nat × Nat)
  sharedReq : Option (Nat × Nat)
  engine : Option Nat
  /-- First granule and first shared unit that a plan of R175 keeps for the context on that engine. -/
  spot : Option (Nat × Nat)
  deriving DecidableEq, Repr, Inhabited

/-- A compute context (R128, R185, R385). -/
structure Ctx where
  live  : Bool
  page  : Page
  alloc : Alloc
  step  : Nat
  seed  : Nat
  deficit : Int
  /-- SHARE in force on its engine (R246). -/
  share : Nat
  /-- Loam references, by page: (1 + the order in which they were taken) × 2^256 + the map entry they name (R194). -/
  refs  : Tab Nat
  /-- CK cycle in which its latest command ceased to be pending (R184). -/
  quietCk : Nat
  /-- CK cycle in which the descriptor in slot HEAD became next (R159). -/
  nextAt : Nat
  cmd   : Option Cmd
  wanted : Wanted
  /-- The context takes its loam map from the former copy until its next check (R208). -/
  oldMap : Bool
  /-- Created by a restore: the queue registers are those of an image. -/
  restored : Bool
  /-- The copy of its last command's write set is not finished (R474). -/
  copying : Bool
  /-- A snapshot of its job holds it at a commit boundary (R366). -/
  snapped : Bool
  /-- Highest SEQ, plus 1, of its committed stores and atomics by stream (R359). -/
  fence : Tab Nat
  deriving DecidableEq, Repr, Inhabited

/-- A round of turns of one class on one engine (R237 to R239). -/
structure Round where
  /-- Who holds the turn. -/
  holder : Option Nat
  /-- Who held the last turn. -/
  last   : Option Nat
  /-- Contexts that ended their turn in this period. -/
  ended  : List Nat
  running : Bool
  deriving DecidableEq, Repr, Inhabited

/-- A matrix engine (R86 to R94). -/
structure Engine where
  running : Option Owner
  /-- A shadow runs here (R475). -/
  shadow  : Bool
  /-- Idle requested and not yet inserted, in AK cycles (R91). -/
  idleReq : Option Nat
  /-- A pass boundary put the idle off until after the commit (R91). -/
  idleOff : Bool
  /-- Active cell-steps of the current pass, as reported (R81), its length and the idle inserted before it, in AK cycles. -/
  report : Nat
  passLen : Nat
  passIdle : Nat
  /-- Accumulator elements of bank 0 and bank 1 that are not clear, by row × 128 + column of the tile (R63, R76). -/
  bank0 : Tab Acc
  bank1 : Tab Acc
  /-- The two banks of the parameter store, as FP32 codes, and the one that the latest command uses (R96). -/
  store0 : List Nat
  store1 : List Nat
  storeNow : Nat
  lc : Round
  be : Round
  deriving DecidableEq, Repr, Inhabited

-- Memory tiers --------------------

/-- What a 2 MiB frame of stacked memory serves. -/
inductive FrameUse where
  | free
  | priv (slice : Nat)
  | hood (ctx : Nat)
  | loam
  | ledger (job : Nat)
  | buddy
  | shadow
  | retired
  deriving DecidableEq, Repr, Inhabited

/-- A resident loam page (R191, R197). `entry` is the map entry it was fetched under. -/
structure LoamPage where
  slice : Nat
  page  : Nat
  entry : Nat
  age   : Nat
  deriving DecidableEq, Repr, Inhabited

/-- A fetch in flight (R194, R195, R202): its frame once taken, the contexts whose acquires asked, and whether it brings back a page
that an error dropped. A prefetch has neither. -/
structure Fetch where
  slice : Nat
  page  : Nat
  entry : Nat
  frame : Option Nat
  demand : List Nat
  again : Bool
  deriving DecidableEq, Repr, Inhabited

/-- A slice's loam map: the copy in use, the former copy while a lookup may still use it, and a committed copy that waits for the next
check of a context (R207, R208). -/
structure LoamMap where
  entries : Tab Nat
  former  : Tab Nat
  next    : Option (Tab Nat)
  deriving DecidableEq, Repr, Inhabited

/-- The memory manager's own state. -/
structure Tier where
  /-- Use of each 2 MiB frame, by DPA / 2 MiB. -/
  frames : Tab FrameUse
  /-- Frames of each slice's private region, in tier 2 order (R182). -/
  regions : Tab (List Nat)
  /-- Pool frames holding pages, by frame (R190). -/
  pages : Tab LoamPage
  fetches : List Fetch
  /-- Slices whose pages are looked at for drops at the end of the CK cycle (R200). -/
  due : List Nat
  /-- Queued prefetches by slice (R202): pages in order. -/
  prefetch : Tab (List Nat)
  /-- The prefetch window of a slice: L and PREFETCH_DEPTH at the acquire. -/
  window : Tab Nat
  maps : Tab LoamMap
  /-- Order of the next loam reference. -/
  refClock : Nat
  /-- Retired granules and allocation units (R461): DPA / 64 KiB. -/
  retired : List Nat
  /-- Words with an uncorrectable error, by DPA / 8; from 2^60 on UE descriptors, from 2^61 on context descriptors, from 2^62 on
  DSP data and from 2^63 on DSP instruction memory, by core × 2^19 + address / 8. -/
  badWords : List Nat
  /-- LC_FLOOR_BYTES in force on an engine while it differs from the entry (R211): 1 + bytes. -/
  floors : Tab Nat
  /-- Bytes of the radio region on each engine and each die-shared scratchpad that carries one (R174, R175, R211). -/
  radioSp : Tab Nat
  radioShared : Tab Nat
  radioStackMask : Nat
  radioStackBytes : Nat
  /-- An endorsed stack change waits for its boundary. -/
  radioStackWait : Bool
  /-- LOCAL_ZONE_GIB and the pools in force since reset (R211). -/
  localGib : Nat
  loamFrames : Nat
  buddyFrames : Nat
  shadowFrames : Nat
  deriving DecidableEq, Repr, Inhabited

-- The tilth table --------------------

/-- A copy of the tilth table in use or prepared (R214 to R222). -/
structure TilthCopy where
  entries : List Nat
  /-- The bytes it was loaded as. -/
  raw : Tab Byte
  /-- Engine bound to a logical engine, plus 1 (R219). -/
  binding : Tab Nat
  /-- Binding and moves are complete (R222). -/
  ready : Bool
  /-- The CK cycle in which the commit was accepted. -/
  acceptedCk : Nat
  /-- A binding epoch of R220. -/
  rebind : Bool
  /-- P_adm in mW, rounded up (R225). -/
  admitMw : Nat
  deriving DecidableEq, Repr, Inhabited

/-- An occurrence under way (R215, R227): its entry's 128 bits × 2^20 + entry number × 256 + occurrence, the NS64 of its time base at
which it ends, and the engine whose IN_WINDOW it set (R94). -/
structure Window where
  key : Nat
  stop : Nat
  engine : Option Nat
  deriving DecidableEq, Repr, Inhabited

/-- The tilth table: copies in order of becoming current, the oldest first; a time base uses the copy its position names. -/
structure Tilth where
  shadow : Tab Byte
  /-- Bytes have been loaded since reset: TILTH_SHADOW_DIGEST has left its default (R245). -/
  loaded : Bool
  copies : List TilthCopy
  position : Tab Nat
  /-- Current occurrences. -/
  windows : List Window
  deriving DecidableEq, Repr, Inhabited

-- Slices and the host --------------------

/-- What a save or restore under way carries (R398, R399). -/
structure Transfer where
  iova : Nat
  pasid : Nat
  strict : Bool
  deriving DecidableEq, Repr, Inhabited

/-- A radio host channel (R393). -/
structure Channel where
  downHead : W32
  downTail : W32
  upIndex  : W32
  upConsumed : W32
  dataIndex : W32
  dataConsumed : W32
  ignored : W32
  lastIgnored : Nat
  deriving DecidableEq, Repr, Inhabited

/-- The PCIe function, mailbox and slices. -/
structure HostIf where
  /-- MSI-X (R379, R390): pending bits, and vectors whose message was sent. -/
  pba : List Nat
  raised : List Nat
  /-- The MSI-X table, by 32-bit word, with bit 0 of each entry's fourth word, the mask bit, inverted: a masked vector of all zeros reads 0
  here. -/
  msix : Tab Nat
  mbRequest : Bytes
  mbResponse : Bytes
  mbStatus : Nat
  /-- Host access is up; and the CK cycle in which a Function Level Reset under way completes (R377). -/
  access : Bool
  flrEnd : Option Nat
  /-- Sync counters by slice × 256 + counter (R167). -/
  sync : Tab Nat
  /-- PASID map: current copy, shadow bytes and a committed copy that waits for its boundary (R388). -/
  pasid : List Nat
  pasidShadow : Tab Byte
  pasidNext : Option (List Nat)
  saves : Tab Transfer
  restores : Tab Transfer
  channels : Tab Channel
  deriving DecidableEq, Repr, Inhabited

-- Queues --------------------

/-- A word of a queue with its sideband (R294). -/
structure QWord where
  bytes : Bytes
  visTime : Nat
  bad : Bool
  last : Bool
  /-- What the producer keeps with the word: the cell and core of a radio command, the core of a job, the route of a fronthaul
  item. -/
  tag : Nat
  deriving DecidableEq, Repr, Inhabited

/-- An item whose first words its consumer has read: VIS_TIME and tag of its first word, its bytes so far, and the frame it carries
(R297). -/
structure HeldItem where
  visTime : Nat
  tag : Nat
  bytes : Bytes
  frame : Option Frame
  deriving DecidableEq, Repr, Inhabited

/-- A queue (R293 to R302). Registers of R312 stand in the register file. -/
structure Queue where
  write : W32
  tail  : W32
  read  : W32
  release : W32
  mark  : W32
  markValid : Bool
  /-- Words by index mod capacity. -/
  words : Tab QWord
  /-- Frames of a fronthaul queue's items, by index of the item's first word mod capacity. -/
  frames : Tab (Option Frame)
  /-- The item that READ lies in, as far as its consumer has read it, and the same for MARK (R297 to R299). -/
  part : Option HeldItem
  markPart : Option HeldItem
  /-- F of the head item, once it has its tags, and F of the previous frame (R305). -/
  headFinish : Option Nat
  finish : Nat
  /-- Further LEVEL notices wait for the depth to fall (R300). -/
  levelOut : Bool
  staleOut : Bool
  /-- Time of the last READ or rise from 0 (R301). -/
  since : Nat
  /-- Words of a compatibility-mode packet under way are dropped. -/
  dropping : Bool
  /-- DSP core that operated on the queue last, plus 1; 0 for none (R531). -/
  user : Nat
  deriving DecidableEq, Repr, Inhabited

/-- A policer bucket pair (R307), in 1/264 000 byte, and the CK cycle of the slice's previous frame: a rate of 1 Mb/s fills 40
units in a CK cycle. -/
structure Bucket where
  used : Bool
  c : Nat
  p : Nat
  last : Nat
  deriving DecidableEq, Repr, Inhabited

/-- FEC codewords corrected and uncorrectable on a fronthaul port that has received a frame (R288, R311). -/
structure FecCount where
  seen : Bool
  ok : Nat
  bad : Nat
  deriving DecidableEq, Repr, Inhabited

/-- The fronthaul dies. -/
structure Fronthaul where
  /-- Virtual time V of each port's scheduler (R305), by port. -/
  vtime : Tab Nat
  linkUp : Nat
  fecLock : Nat
  fec : Tab FecCount
  /-- The frame that each port put on the wire last: the model's own trace. -/
  sent : Tab (Option Frame)
  /-- Policer buckets by die × 64 + slice. -/
  buckets : Tab Bucket
  /-- Current policer profiles by slice × 8 + field, by die × 1024; the shadow copy of FD1, whose entries show that of FD0 (R313). -/
  profiles : Tab Nat
  profileShadow : Tab Nat
  profileNext : List Nat
  /-- Current Q_WEIGHT by queue, and dies with a pending WFQ switch. -/
  weights : Tab Nat
  weightNext : List Nat
  deriving DecidableEq, Repr, Inhabited

-- Time --------------------

/-- A PTP master heard on a port: the identity of its port, its data set, and the CK cycle of its latest Announce (R320). -/
structure PtpMaster where
  port : Nat
  source : Nat
  data : Announce
  lastCk : Nat
  deriving DecidableEq, Repr, Inhabited

/-- A time base (R316 to R321). -/
structure TimeBase where
  /-- NS64 and 32 fractional bits. -/
  count : Nat
  stepPending : Option Int
  /-- FREQ_ADJ_PPB asked for at the next apply tick. -/
  adjPending : Option Int
  /-- integ of R319, as an FP32 code. -/
  integ : Nat
  /-- FREQ_ADJ_PPB after the latest measurements, newest first, at most 16. -/
  adjs : List Int
  good : Nat
  /-- CK cycle of the latest measurement. -/
  lastCk : Nat
  /-- Delay_Req messages sent, the latest one's CK cycle, and its time of leaving in 2^-16 ns while its answer is awaited (R320). -/
  delayReqs : Nat
  delayReqCk : Nat
  delayReqAt : Option Int
  /-- The masters heard, and the chosen one as port and identity (R320). -/
  masters : List PtpMaster
  master : Option (Nat × Nat)
  /-- The Sync of a two-step master that awaits its Follow_Up: sequence number and time of arrival less its correction. -/
  syncAt : Option (Nat × Int)
  /-- The latest master-to-slave time, and twice the mean path delay, in 2^-16 ns (R320). -/
  toSlave : Option Int
  path2 : Option Int
  deriving DecidableEq, Repr, Inhabited

/-- TRIG, capture and 1PPS pins. -/
structure Pins where
  /-- TRIG outputs at their active level. -/
  trig : Nat
  /-- TRIG outputs whose ENABLE has been set since reset: they are driven (R545). -/
  trigDriven : Nat
  /-- TRIG_POL of the pulse under way (R325). -/
  trigPol : Nat
  /-- The eighth of its CK cycle at which an output's latest edge lies: TRIG 0 to 7, 1PPS 8 (R325, R328). -/
  edgeAt : Tab Nat
  /-- NS64 from which on edges of an output are still to come. -/
  trigNext : Tab Nat
  /-- End of the pulse under way: NS64 and time base. -/
  trigEnd : Tab (Nat × Nat)
  ppsOut : Bool
  /-- NS64 at which the 1PPS pulse under way ends, its time base, and the NS64 after which the next second is due. -/
  ppsEnd : Nat
  ppsTb : Nat
  ppsNext : Nat
  /-- Capture records, oldest first; input 4 is the 1PPS input. -/
  caps : Tab (List Bytes)
  capSeq : Tab Nat
  /-- The eighth of a CK cycle of the previous captured edge, counted from reset, plus 1. -/
  capLast : Tab Nat
  /-- Compensations in force: TRIG 0 to 7, CAP 8 to 11, 1PPS in 12, 1PPS out 13, ASYM of a time base from 16 on (R329). -/
  comps : Tab Nat
  deriving DecidableEq, Repr, Inhabited

-- Faults --------------------

/-- A fault record's 344 bits and its time (R466). -/
structure FaultRec where
  code : Nat
  severity : Nat
  kind : Nat
  unit : Nat
  suspect : Nat
  reporter : Nat
  job : Nat
  context : Nat
  address : Nat
  data : Nat
  time : Nat
  epoch : Nat
  duplicates : Nat
  deriving DecidableEq, Repr, Inhabited

/-- A shadow or waiting selection (R474 to R476). -/
structure Shadow where
  ctx : Nat
  desc : Nat
  step : Nat
  slice : Nat
  engine : Nat
  counts : Counts
  /-- Copies of the read set and, once taken, of the write set, as tier bytes by tier × 2^60 + offset. -/
  readSet : Tab Byte
  writeSet : Tab Byte
  written : Bool
  shadowEngine : Option Nat
  selectedCk : Nat
  /-- Idle inserted in its run (R91). -/
  idleAk : Nat
  /-- Shadow frames it takes. -/
  frames : Nat
  /-- The allocation's sizes, and where the temporary one lies while it runs (R475). -/
  privBytes : Nat
  sharedBytes : Nat
  privBase : Nat
  sharedBase : Nat
  deriving DecidableEq, Repr, Inhabited

/-- Detectors, reports and shadows. -/
structure Faults where
  /-- The fault log: event words by index mod 16 384, newest index in FAULT_LOG_INDEX. -/
  log : Tab FaultRec
  /-- The hub trace ring: its entries, oldest first (R381, R467). -/
  trace : List (BitVec 256)
  /-- Records of the epoch under way, per suspect package, in order (R468). -/
  epoch : List FaultRec
  /-- Codes that were folded or suppressed. -/
  reportSeq : Tab Nat
  hbSeq : Nat
  /-- Heartbeats sent: (sequence, port, CK cycle). -/
  beats : List (Nat × Nat × Nat)
  /-- CK cycle of the latest renewal of each port, plus 1; under 2, of the setting of HB_ENABLE. -/
  renewed : Tab Nat
  /-- Corrected errors of each unit in this second, keyed kind × 256 + number. -/
  corrected : Tab Nat
  countdown : Nat
  shadows : List Shadow
  /-- Mismatch log, newest first, at most 16. -/
  mismatches : List Bytes
  meOut : Nat
  cdOut : Nat
  stackOut : Nat
  xpOut : Nat
  dspOut : Nat
  linksOut : List Nat
  /-- Dies and stacks that lost links or routers have cut off, and compute dies whose routers have failed (R20, R463). -/
  cutOff : List UnitId
  routerOut : Nat
  /-- Routers that are out because their die's local PLL lost lock (R489). -/
  routerPll : Nat
  /-- CK cycle, plus 1, of the latest retraining of a link (R463). -/
  linksRetrained : Tab Nat
  deriving DecidableEq, Repr, Inhabited

/-- The mesh route tables (R14, R210): the current ones, keyed 16 × router + destination, as 1 + the next die, and tables that wait for
their switch. -/
structure Mesh where
  routes : Tab Nat
  next : Option (Tab Nat)
  deriving DecidableEq, Repr, Inhabited

-- Sessions and protection --------------------

/-- A management session (R414, R415). -/
structure Session where
  /-- 0 none, 1 waiting for PROOF, 2 open. -/
  phase : Nat
  role : Nat
  via : Transport
  /-- Source address and UDP port of its OPEN, and the port's own address and UDP port then (R431, R450). -/
  source : Nat
  home : Bytes
  nc : Bytes
  nd : Bytes
  keyIn : Bytes
  keyOut : Bytes
  seqIn : Nat
  seqOut : Nat
  bad : Nat
  lastCk : Nat
  lastResponse : Bytes
  /-- Entries held per session, by key (R439). -/
  regs : Tab Nat
  report : Bytes
  lost : Nat
  deriving DecidableEq, Repr

/-- A closed session. -/
def Session.closed : Session := ⟨0, 0, .mailbox, 0, [], [], [], [], [], 0, 0, 0, 0, [], [], [], 0⟩

/-- A pending endorsed change (R419). -/
structure Change where
  index : Nat
  sub : Nat
  selector : Nat
  value : Bytes
  nonce : BitVec 128
  custodian : Nat
  startCk : Nat
  deriving DecidableEq, Repr, Inhabited

/-- What changes only under dual endorsement, at CLAIM, RELEASE and start-up (R417). -/
structure Prot where
  regs : Tab Nat
  octs : Tab Bytes
  /-- Role keys by role, tenant keys by slice, and DOMAIN_KEY, unwrapped. -/
  roleKeys : Tab Bytes
  tenantKeys : Tab Bytes
  domainKey : Bytes
  /-- 1 plus the nonce of the last applied change of a secret entry, by entry key (R424). -/
  lastNonce : Tab Nat
  claimed : Bool
  deriving DecidableEq, Repr, Inhabited

/-- What management port 1 or 2 has sent: a frame to an address and UDP port, 18 octets as REPORT_DEST has them, or with no destination a
whole Ethernet frame (R430, R431). -/
structure MgmtOut where
  port : Nat
  dest : Bytes
  bytes : Bytes
  deriving DecidableEq, Repr, Inhabited

/-- Sessions and endorsements. -/
structure Mgmt where
  /-- Sessions 0 to 15; unlisted ones are closed. -/
  sessions : Tab Session
  /-- Unused nonces with the CK cycle of issue, oldest first. -/
  nonces : List (BitVec 128 × Nat)
  changes : List Change
  /-- CK cycles of failed proofs by role, and roles locked out. -/
  failed : Tab (List Nat)
  locked : List Nat
  reportsMade : Nat
  /-- What the management ports have sent, newest last: the model's own trace. -/
  sent : List MgmtOut
  /-- A save runs; a save is held; targets; retained records. -/
  saving : Option Bytes
  saveTarget : Nat
  saveHeld : Bool
  resetAsked : Bool
  deriving DecidableEq, Repr, Inhabited

-- Baseband --------------------

/-- A register or memory write of a bundle whose latency has not elapsed (R252): due BK cycle, kind 0 G, 1 V, 2 VA, 3 a
sum into VA, and the value's bytes or words. -/
structure Late where
  due : Nat
  kind : Nat
  reg : Nat
  words : List Nat
  deriving DecidableEq, Repr, Inhabited

/-- A loop of a core (R255): its first bundle, length, iterations left, the iteration number, n and s; s is 0 for LOOP. -/
structure Loop where
  start : Nat
  len : Nat
  total : Nat
  iter : Nat
  n : Nat
  s : Nat
  deriving DecidableEq, Repr, Inhabited

/-- The ACS group (R256 to R258). -/
structure Acs where
  t8 : Bool
  /-- In T8: the backward recursion (R258). -/
  back : Bool
  polys : List Nat
  softReg : Nat
  softAt : Nat
  decReg : Nat
  decAt : Nat
  /-- Path metrics by state, 16 bits. -/
  metrics : Tab Nat
  /-- Trace-back: the state reached. -/
  tbState : Nat
  deriving DecidableEq, Repr, Inhabited

/-- A DSP core (R249 to R263). -/
structure DspCore where
  g : Tab Nat
  /-- V0 to V63 by physical register × 128 + byte. -/
  v : Tab Byte
  /-- VA0 to VA7 by register × 64 + 2 × lane + component, as 48-bit two's complement. -/
  va : Tab Nat
  rrb : Nat
  /-- X and Y memory by core address. -/
  data : Tab Byte
  /-- Instruction pages by page × 65 536 + byte; the active page; its loaded image's digest. -/
  code : Tab Byte
  active : Nat
  loaded : Nat
  pendingDigest : Option Bytes
  /-- Handler running: its event type. -/
  handler : Option Nat
  /-- Events counted by type 1 to 6, with the cell, SFN and slot of the latest (R259). -/
  events : Tab Nat
  evCell : Tab Nat
  evSfn : Tab Nat
  evSlot : Tab Nat
  /-- Cell of the current KIND 1 window, plus 1. -/
  window : Nat
  /-- NS64 of the core's time base at the latest start of a KIND 1 window on it, and the end of the latest window where it is known
  (R263). -/
  windowFrom : Nat
  windowStop : Option Nat
  /-- CK cycle since which a WINDOW_START waits. -/
  waitCk : Option Nat
  pc : Nat
  bk : Nat
  entryBk : Nat
  late : List Late
  loops : List Loop
  acs : Acs
  /-- UE accesses posted and not completed. -/
  ueOpen : Nat
  /-- The time base that the core was bound to last, plus 1; 0 for none (R218, R425). -/
  boundTb : Nat
  syncing : Bool
  /-- CK cycle since which UE.SYNC stalls the core (R252, R276). -/
  syncCk : Nat
  /-- The hub rewrites the active page (R462). -/
  rewriting : Bool
  deriving DecidableEq, Repr, Inhabited

/-- A UE access on its way to the hub (R276). -/
structure UeAccess where
  core : Nat
  index : Nat
  addr : Nat
  /-- The 64 bytes of a UE.WR; none for UE.RD. -/
  bytes : Option Bytes
  deriving DecidableEq, Repr, Inhabited

/-- Uplink state of one antenna (R271, R272). -/
structure Antenna where
  /-- The antenna has had a gain since start-up (R286). -/
  known : Bool
  /-- The gain of its latest uplink slot that has ended, and that slot's number plus 1 (0: none). -/
  gPrev : Nat
  lastSlot : Nat
  /-- g(n) and g(n + 1) for the uplink slot under way or next. -/
  gNow : Nat
  gNext : Nat
  /-- Sum of |x|², samples and saturated components of the slot under way, and of sections that came before their slot began. -/
  sum : Nat
  samples : Nat
  saturated : Nat
  sumNext : Nat
  samplesNext : Nat
  saturatedNext : Nat
  deriving DecidableEq, Repr, Inhabited

/-- A cell (R273 to R283). -/
structure Cell where
  enabled : Bool
  /-- ENABLE asked for at the next frame boundary. -/
  want : Option Bool
  antennas : Tab Antenna
  /-- The slot and symbol that began last, and whether one has begun. -/
  sfn : Nat
  slot : Nat
  symbol : Nat
  begun : Bool
  cbFail : Nat
  cbLate : Nat
  /-- A move: peer, 0 source or 1 destination, and SFN. -/
  move : Option (Nat × Nat × Nat)
  /-- The source has passed its boundary; the destination waits for the copy. -/
  moving : Bool
  moveCk : Nat
  /-- Bytes of descriptors, state block and gain state that have landed here (R369). -/
  landed : Nat
  /-- Moves from here that a destination refused (R369). -/
  moveFails : Nat
  /-- An area of it lies in a radio stack that has left service (R465). -/
  lost : Bool
  /-- A SLOT_OVERRUN has been counted for it in this frame (R531). -/
  overran : Bool
  /-- Soft buffers written, most recently written first, in 4 KiB units (R281). -/
  softs : List Nat
  deriving DecidableEq, Repr, Inhabited

/-- A coder or FFT job (R264): its 256-bit word, die and core. -/
structure Job where
  word : Nat
  die : Nat
  core : Nat
  arrival : Nat
  deriving DecidableEq, Repr, Inhabited

/-- A job on an engine: its result and output. -/
structure Running where
  job : Job
  status : Nat
  iter : Nat
  exp : Nat
  out : Bytes
  soft : Bytes
  startCk : Nat
  deriving DecidableEq, Repr, Inhabited

/-- The baseband dies. -/
structure Radio where
  cores : Tab DspCore
  /-- UE descriptors in hub SRAM, by index, 512 bits. -/
  ue : Tab Nat
  ueQueue : List UeAccess
  cells : Tab Cell
  /-- Commands under way on radio queues, by logical engine; the tag of each (cell + 256 × core); step counters. -/
  cmds : Tab (Option Cmd)
  cmdTag : Tab Nat
  steps : Tab Nat
  /-- Radio commands that were counted late, as logical engine × 2^32 + index in the queue (R280). -/
  lateCounted : List Nat
  /-- Jobs taken from the job queue and staged, and running jobs by die × 32 + engine slot. -/
  staged : List Job
  /-- XFERs that wait for a hold to end, as core and operation (R280). -/
  xferWait : List (Nat × XferOp)
  running : Tab (Option Running)
  jobSeq : Nat
  /-- LDPC base-graph set: current, and a committed set waiting for a code block (R268). -/
  ldpcSet : Bytes
  ldpcShadow : Bytes
  ldpcWait : Bool
  deriving DecidableEq, Repr, Inhabited

-- The Relevo fabric --------------------

/-- A packet in the clear (R340): a response has an odd KIND, REFUSE, BULK_DATA, BULK_ACK or CELL_ACK. -/
structure Packet where
  seq : Nat
  dst : Nat
  src : Nat
  kind : Nat
  job : Nat
  len : Nat
  dpa : Nat
  dclass : Nat
  dgen : Nat
  payload : Bytes
  deriving DecidableEq, Repr, Inhabited

/-- What an outstanding request is for. -/
inductive SentFor where
  | load (ctx off : Nat)
  | atomic (ctx first : Nat)
  | store (ctx : Nat)
  | drain (dest : Nat)
  | snapshot (entry : Nat)
  | restore (entry off : Nat)
  | cell (cell : Nat)
  deriving DecidableEq, Repr, Inhabited

/-- A request without its response (R359, R363). -/
structure Sent where
  dest : Nat
  job : Nat
  seq : Nat
  kind : Nat
  dpa : Nat
  len : Nat
  what : SentFor
  /-- Its response is discarded: the job was torn down, or the command killed. -/
  dropped : Bool
  /-- CK cycle in which it was handed over, or was last reported as unanswered (R363, R472). -/
  sentCk : Nat
  /-- Room that is reserved for its response: it has left (R338). -/
  room : Nat
  deriving DecidableEq, Repr, Inhabited

/-- A refusal reported to the fabric manager (R354): the request, and the reason. -/
structure RefusalReport where
  dest : Nat
  job : Nat
  seq : Nat
  reason : Nat
  deriving DecidableEq, Repr

/-- A fabric port's link state (R337, R338). -/
structure Port where
  up : Bool
  retraining : Bool
  /-- FSEQ of the next flit to send, and the last accepted one. -/
  txSeq : Nat
  rxSeq : Nat
  /-- Flits sent and not acknowledged, oldest first. -/
  replay : List Flit
  /-- NAKs in a row of the oldest of them. -/
  naks : Nat
  /-- A NAK is to leave with the next flit; and flits are discarded until the one asked for arrives. -/
  nakOut : Bool
  discarding : Bool
  /-- Credits used and not returned, by class, in 64 B. -/
  used : Tab Nat
  /-- Credits of packets that have arrived, not yet returned, by class, in 64 B (R338, R361). -/
  owed : Tab Nat
  /-- Bytes of a packet under way. -/
  rx : Bytes
  /-- Packet bytes of the flit being filled, and where in it packets begin (R336). -/
  fill : Bytes
  fillStarts : List Nat
  /-- Flits put on the link at the last CK tick and since. -/
  tx : List Flit
  /-- CK cycle of the last acknowledgement, or in which the oldest unacknowledged flit left; and of the start of a retrain (R337). -/
  ackCk : Nat
  retrainCk : Nat
  /-- FEC_CORRECTED and FEC_UNCORRECTED (R371). -/
  fecOk : Nat
  fecBad : Nat
  /-- V of the port's weighted fair queueing; the finish tags of the last packet and of the head packet of each class (R305, R339). -/
  vtime : Nat
  finish : Tab Nat
  heads : Tab (Option Nat)
  deriving DecidableEq, Repr, Inhabited

/-- A ledger slot (R358): STEP, and the elements applied with their prior values plus 1. -/
structure Ledger where
  step : Nat
  done : Tab Nat
  deriving DecidableEq, Repr, Inhabited

/-- A snapshot under way (R366): SNAP_ID, and whether its images have been written and sent. -/
structure Snapshot where
  id : Nat
  sent : Bool
  failed : Bool
  deriving DecidableEq, Repr, Inhabited

/-- A restore from a buddy under way (R368): the buddy, the old source, and what has arrived. -/
structure Restoring where
  buddy : Nat
  source : Nat
  bytes : Tab Byte
  total : Option Nat
  asked : Bool
  deriving DecidableEq, Repr, Inhabited

/-- A job entry's own state (R349 to R352, R366, R368); JOB_CFG, JOB_STATE and the WIN registers stand in the files. -/
structure JobEntry where
  key : Bytes
  windows : List Nat
  shadow : Tab Byte
  ledgerFrames : List Nat
  ledger : Tab Ledger
  snapshot : Option Snapshot
  restoring : Option Restoring
  /-- An uncorrectable word was found in its data (R462). -/
  broken : Bool
  deriving DecidableEq, Repr, Inhabited

/-- One of the two slots a buddy keeps for (JOB, source) (R367). -/
structure BuddyCopy where
  job : Nat
  src : Nat
  slot : Nat
  frames : List Nat
  /-- Bytes of the body, before the header. -/
  length : Nat
  /-- 1 KiB pieces that have arrived, of the body and of the header. -/
  got : List Nat
  gotHead : List Nat
  complete : Bool
  snapId : Nat
  deriving DecidableEq, Repr, Inhabited

/-- A destination whose route entry changes (R347, R348): DRAINs without DRAIN_ACK. -/
structure RouteDrain where
  dest : Nat
  waiting : List Nat
  unreachable : Bool
  startCk : Nat
  deriving DecidableEq, Repr, Inhabited

/-- A stream (destination, job) (R342, R359): the next SEQ, and SEQs sent without a mark. -/
structure Stream where
  next : Nat
  unmarked : List Nat
  deriving DecidableEq, Repr, Inhabited

/-- The Relevo fabric. -/
structure Fabric where
  dgen : Nat
  /-- The current route table, by destination; the shadow copy is the register. -/
  route : Tab Nat
  routeNext : Option (Tab Nat)
  drains : List RouteDrain
  streams : Tab Stream
  out : List Sent
  /-- Refusals reported to the fabric manager, oldest first (R354). -/
  refusals : List RefusalReport
  /-- Packets that wait for a route, a port or credits, in the order handed over. -/
  held : List Packet
  /-- Packets that have arrived, oldest first. -/
  arrived : List Packet
  ports : Tab Port
  jobs : Tab JobEntry
  buddies : List BuddyCopy
  /-- WFQ weights in force by port × 4 + class, where they differ from the entries. -/
  weights : Tab Nat
  deriving DecidableEq, Repr, Inhabited

/-- Flash, start-up, firmware and the always-on domain. BOOT_STAGE, ACTIVE_IMAGE, RESET_CAUSE and START_COUNT stand in the
register file. -/
structure Boot where
  /-- Numerics firmware is accepted (R127). -/
  numfwOk : Bool
  /-- The numerics firmware loaded last, as version, digest and GELU_XMIN, kept for a rejection (R127). -/
  numfw : Option (Nat × Bytes × Nat)
  /-- Flash bytes by device × 2^26 + offset; an unlisted byte is 0xFF. -/
  flash : Tab Byte
  /-- The configuration copy that boot chose. -/
  chosen : Option Nat
  /-- The identity check failed (R407). -/
  idFail : Bool
  /-- No image passed: the hub stays in the ROM (R528). -/
  halted : Bool
  /-- Every die is held in reset (R523). -/
  inReset : Bool
  /-- The TEST_MODE land is high; the card ties it to GND, and no command changes it (R548). -/
  testMode : Bool
  /-- Every group but VIO18 has been removed since a latch was set. -/
  removed : Bool
  /-- Always-on latches: SEQ_FAULT with its rail, and TRIP_FAULT (R506, R515). -/
  seqFault : Option Nat
  tripFault : Bool
  /-- The device seed of this start (R405). -/
  seed : Bytes
  /-- The copies of images in the hub's two banks, header and body, as they were checked: the one that runs, and the one that a handover
  may hand back to (R410, R533). -/
  bank : Bytes
  otherBank : Bytes
  /-- The slot whose image runs in the other bank, while a handover runs or waits for its confirm (R533, R534). -/
  former : Option Nat
  /-- CK cycle at which the new image began to run. -/
  handoverCk : Nat
  /-- The handover under way hands back to the old bank (R534). -/
  reverting : Bool
  /-- Cells whose restored ENABLE waits for LOCKED (R529). -/
  cellsWait : List Nat
  /-- CK cycle at which stage 7 began. -/
  readyCk : Nat
  deriving DecidableEq, Repr, Inhabited

/-- Supplies, power, thermal and clocks (R488, R508 to R518). Powers are in mW; the bank is in nJ, so that one control period
of 1 µs moves it by P in mW. -/
structure Power where
  bank : Nat
  /-- Control periods of the burst excursion under way. -/
  bursting : Option Nat
  /-- Correction of the static term (R509). -/
  offset : Int
  est : Nat
  /-- Sums of P_est and their control periods: this millisecond, since the last telemetry, since the last flow update. -/
  sum1 : Nat
  n1 : Nat
  sum10 : Nat
  n10 : Nat
  sum100 : Nat
  n100 : Nat
  /-- Means of the latest flow intervals, newest first, at most 10. -/
  means : List Nat
  /-- The thermal target while active (R515). -/
  thermal : Option Nat
  /-- Stage 4 is held: TJ_CRIT was reached, or flow is low (R515, R516). -/
  crit : Bool
  flowOut : Bool
  /-- Milliseconds in a row with the flow above FLOW_MIN_MLPM, while stage 4 is held for it. -/
  flowOkMs : Nat
  /-- Milliseconds in a row with the flow below it (R516). -/
  flowLowMs : Nat
  /-- Rails with an overcurrent warning (R518). -/
  overcurrent : List Nat
  /-- T_plate of R513 in °C, and the hottest sensor in 1/16 °C. -/
  plate : Rat
  hottest : Int
  /-- The inlet is above COOLANT_IN_MAX. -/
  inletHot : Bool
  /-- Core set points less 700 mV by die, and the CK cycle of the latest step plus 1 (R508). -/
  setPoint : Tab Int
  stepped : Tab Nat
  /-- PMBus transactions in a row without an answer, by rail (R507). -/
  fails : Tab Nat
  /-- BD0 and BD1 are held in reset (R518). -/
  vbbOut : Bool
  /-- CK cycles spent in holdover (R502). -/
  holdCk : Nat
  deriving DecidableEq, Repr, Inhabited

/-- The state of a ZC24. -/
structure State where
  /-- Commands waiting, first in first out. -/
  pending : List Instr
  build : Build
  /-- CK cycles since reset (R502). -/
  ck : Nat
  /-- Dictionary registers by entry and instance, and octet values. -/
  regs : Tab Nat
  octs : Tab Bytes
  prot : Prot
  /-- Host memory by PASID × 2^64 + IOVA, and the package's memories by DPA (R173). -/
  host : Tab Byte
  mem : Tab Byte
  ctxs : Tab Ctx
  engines : Tab Engine
  tier : Tier
  tilth : Tilth
  hif : HostIf
  queues : Tab Queue
  fh : Fronthaul
  tbs : Tab TimeBase
  pins : Pins
  mesh : Mesh
  faults : Faults
  mgmt : Mgmt
  radio : Radio
  fab : Fabric
  boot : Boot
  power : Power
  /-- The free-value counter: the model's own field, advanced by each value the manual leaves open. -/
  free : Nat
  deriving DecidableEq, Repr

/-- The build of the modelled part. DESIGN CHOICE, log entry 1: the manual describes three. -/
def resetBuild : Build := .w12

/-- The memory manager after reset, at the defaults of R211, R370 and R484. -/
def Tier.reset : Tier :=
  { (default : Tier) with
    radioStackMask := 0x0F00, radioStackBytes := 2 ^ 32, localGib := 8, loamFrames := 196608, buddyFrames := 0, shadowFrames := 64 }

/-- The baseband dies after reset: the LDPC base-graph set has the default factor 192 (R268), and each layer order, which the manual does not
give, is that of the rows: DESIGN CHOICE, log entry 19. -/
def Radio.reset : Radio :=
  let order := (List.range 46).map (BitVec.ofNat 8)
  let entry (n : Nat) : Bytes := order.take n ++ List.replicate (46 - n) 0 ++ [192, 0]
  { (default : Radio) with ldpcSet := (List.replicate 8 (entry 46)).flatten ++ (List.replicate 8 (entry 42)).flatten }

/-- The machine right after a power-on reset: boot stage 0, every entry at its default, every store empty, every volatile
register 0 where the manual states none (DESIGN CHOICE, log entry 2); the burst bank is full (R512). -/
def State.reset : State :=
  { pending := []
    build := resetBuild
    ck := 0
    regs := []
    octs := []
    prot := default
    host := []
    mem := []
    ctxs := []
    engines := []
    tier := Tier.reset
    tilth := default
    hif := default
    queues := []
    fh := default
    tbs := []
    pins := default
    mesh := default
    faults := { (default : Faults) with countdown := 65536 }
    mgmt := default
    radio := Radio.reset
    fab := default
    boot := default
    power := { (default : Power) with bank := 60000000000 }
    free := 0 }

/-- Faults: no command of a ZC24 stops the model. Kept so that the type is not empty of meaning: an access to a device
physical address the manual says does not exist (safe). -/
inductive Fault where
  | noSuchAddress (dpa : Nat)
  deriving DecidableEq, Repr

/-- Refusals. -/
inductive Refusal where
  /-- Raised by a dispatch arm whose command has no meaning yet (safe). -/
  | notModelled (mnemonic : String)
  deriving DecidableEq, Repr

end Sys2Proof.Machine
end

