-- ==== Sys2Proof/Machine/Ops.lean ====
section
/-! DEFINITION. The named operations over State that every family of commands uses: dictionary registers, memories, contexts,
slices, time and the free values. -/

namespace Sys2Proof.Machine

-- The PCIe link (R374) --------------------

/-- Widths and rate codes to which the link trains (R374, R401). -/
def linkTrains (lanes rate : Nat) : Bool := [16, 8, 4, 2, 1].contains lanes && decide (1 ≤ rate) && decide (rate ≤ 7)

-- Builds (R2, R7) --------------------

/-- Defaults that differ between builds (R7, R211, R520). -/
def Build.dflt (b : Build) (r : Reg) : Nat :=
  match b with
  | .w12 => r.dflt
  | .w8 =>
    if r.index = 0x1000 ∧ r.sub = 0x01 then 2
    else if r.index = 0x1000 ∧ r.sub = 0x15 then 0xFF
    else if r.index = 0x7000 ∧ r.sub = 0x03 then 0xFF
    else if r.index = 0x3400 ∧ (r.sub = 0x01 ∨ r.sub = 0x02) then 131072
    else if r.index = 0x3401 ∧ r.sub = 0x01 then 0x99
    else if r.index = 0x2100 ∧ (r.sub = 0x01 ∨ r.sub = 0x02) then 2250
    else r.dflt
  | .n12 =>
    if r.index = 0x1000 ∧ r.sub = 0x01 then 3
    else if r.index = 0x1000 ∧ r.sub = 0x17 then 0xFF
    else if r.index = 0x7000 ∧ r.sub = 0x04 then 0xFF
    else if r.index = 0x1000 ∧ r.sub = 0x18 then 64
    else if r.index = 0x2100 ∧ (r.sub = 0x01 ∨ r.sub = 0x02) then 2300
    else r.dflt

/-- STACK_MASK of the build. -/
def Build.stackMask (b : Build) : Nat := b.dflt .stackMask

/-- Number of fitted stacks. -/
def Build.stacks (b : Build) : Nat := popCount 12 b.stackMask

-- Dictionary registers --------------------

/-- What a register's instance holds when nothing is listed. -/
def State.dfltOf (s : State) (r : Reg) : Nat := s.build.dflt r

/-- Reads a dictionary register. -/
def State.reg (s : State) (r : Reg) (i : Nat := 0) : Nat :=
  match r.access with
  | .rwd => s.prot.regs.get (s.dfltOf r) (r.key i)
  | _ => s.regs.get (s.dfltOf r) (r.key i)

/-- Writes a dictionary register, cut to its width. -/
def State.setReg (s : State) (r : Reg) (v : Nat) (i : Nat := 0) : State :=
  match r.access with
  | .rwd => { s with prot := { s.prot with regs := s.prot.regs.set (s.dfltOf r) (r.key i) (v % 2 ^ r.width) } }
  | _ => { s with regs := s.regs.set (s.dfltOf r) (r.key i) (v % 2 ^ r.width) }

/-- A signed register's value. -/
def State.regI (s : State) (r : Reg) (i : Nat := 0) : Int := toSigned r.width (s.reg r i)

/-- Writes a signed register. -/
def State.setRegI (s : State) (r : Reg) (v : Int) (i : Nat := 0) : State := s.setReg r (ofSigned r.width v) i

/-- Adds to a counter, which wraps at its width. -/
def State.bump (s : State) (r : Reg) (i : Nat := 0) (n : Nat := 1) : State := s.setReg r (s.reg r i + n) i

/-- Adds to a counter when `b`. -/
def State.bumpIf (s : State) (b : Bool) (r : Reg) (i : Nat := 0) (n : Nat := 1) : State := if b then s.bump r i n else s

/-- Reads an octet entry; zeros of its default length when nothing is listed. -/
def State.oct (s : State) (r : Reg) (i : Nat := 0) : Bytes :=
  match r.access with
  | .rwd => s.prot.octs.get (zeros r.dflt) (r.key i)
  | _ => s.octs.get (zeros r.dflt) (r.key i)

/-- Writes an octet entry. -/
def State.setOct (s : State) (r : Reg) (v : Bytes) (i : Nat := 0) : State :=
  match r.access with
  | .rwd => { s with prot := { s.prot with octs := s.prot.octs.set (zeros r.dflt) (r.key i) v } }
  | _ => { s with octs := s.octs.set (zeros r.dflt) (r.key i) v }

-- Free values --------------------

/-- Takes the next free value: `f` at the counter, and the counter advanced. -/
def State.draw {α : Type} (s : State) (f : Nat → α) : α × State := (f s.free, { s with free := s.free + 1 })

/-- One of a list of choices the manual leaves open; none of an empty list. -/
def State.choose (s : State) (l : List Nat) : Option Nat × State :=
  (l[Config.pick s.free % l.length]?, { s with free := s.free + 1 })

/-- `n` bytes from the hub's random source (R414, R419). -/
def State.random (s : State) (n : Nat) : Bytes × State :=
  (beBytes n (Config.random s.free), { s with free := s.free + 1 })

-- Memories --------------------

/-- A byte of the package's memories by DPA (R173). -/
def State.rd (s : State) (a : Nat) : Byte := s.mem.get 0 a

def State.wr (s : State) (a : Nat) (b : Byte) : State := { s with mem := s.mem.set 0 a b }

def State.rdRun (s : State) (a n : Nat) : Bytes := s.mem.run 0 a n

def State.wrRun (s : State) (a : Nat) (bs : Bytes) : State := { s with mem := s.mem.setRun 0 a bs }

/-- Clears the bytes from `a` to `a + n - 1` (R425). -/
def State.clear (s : State) (a n : Nat) : State :=
  { s with mem := s.mem.keep fun k _ => decide (k < a) || decide (a + n ≤ k) }

/-- Copies listed bytes of [a, a + n) to `to_`, which is cleared first. -/
def State.copyRange (s : State) (a to_ n : Nat) : State :=
  let moved := (s.mem.keep fun k _ => decide (a ≤ k) && decide (k < a + n))
  let s := s.clear to_ n
  { s with mem := moved.foldl (fun m p => m.set 0 (p.1 - a + to_) p.2) s.mem }

/-- Key of a host byte. -/
def hostKey (pasid iova : Nat) : Nat := (pasid % 2 ^ 20) * 2 ^ 64 + iova % 2 ^ 64

/-- Reads host memory under a PASID (R374, R376). -/
def State.hostRd (s : State) (pasid iova n : Nat) : Bytes := s.host.run 0 (hostKey pasid iova) n

def State.hostWr (s : State) (pasid iova : Nat) (bs : Bytes) : State :=
  { s with host := s.host.setRun 0 (hostKey pasid iova) bs }

/-- 2 MiB. -/
def frameBytes : Nat := 2 ^ 21

/-- 1 GiB. -/
def gib : Nat := 2 ^ 30

/-- L of R173, in bytes. -/
def State.localBytes (s : State) : Nat := s.tier.localGib * gib

/-- Z of R173. -/
def State.zoneBytes (s : State) : Nat := s.build.stacks * (128 * gib - s.localBytes)

/-- DPA at which the scratchpads begin (R173). -/
def padBase : Nat := 0x1FFC0000000

/-- DPA of engine `e`'s private scratchpad (R173). -/
def privDpa (e : Nat) : Nat := padBase + e / 8 * 2 ^ 26 + e % 8 * 2 ^ 22

/-- DPA of a die's shared scratchpad (R173). -/
def sharedDpa (die : Nat) : Nat := padBase + die * 2 ^ 26 + 2 ^ 25

/-- Position of stack `n` among the fitted stacks (R179). -/
def State.stackPos (s : State) (n : Nat) : Nat := popCount n s.build.stackMask

/-- DPA of the local zone of stack `n` (R179). -/
def State.localDpa (s : State) (n : Nat) : Nat := s.zoneBytes + s.stackPos n * s.localBytes

/-- Whether a DPA names memory that exists (R173). -/
def State.dpaExists (s : State) (a : Nat) : Bool :=
  decide (a < s.zoneBytes + s.build.stacks * s.localBytes) ||
    (decide (padBase ≤ a) && decide (a < padBase + 16 * 2 ^ 26))

-- Contexts and slices --------------------

def State.ctx (s : State) (c : Nat) : Ctx := s.ctxs.at c

def State.setCtx (s : State) (c : Nat) (x : Ctx) : State := { s with ctxs := s.ctxs.put c x }

def State.modCtx (s : State) (c : Nat) (f : Ctx → Ctx) : State := s.setCtx c (f (s.ctx c))

def State.modPage (s : State) (c : Nat) (f : Page → Page) : State := s.modCtx c fun x => { x with page := f x.page }

def State.modAlloc (s : State) (c : Nat) (f : Alloc → Alloc) : State := s.modCtx c fun x => { x with alloc := f x.alloc }

def State.modWanted (s : State) (c : Nat) (f : Wanted → Wanted) : State := s.modCtx c fun x => { x with wanted := f x.wanted }

def State.engine (s : State) (e : Nat) : Engine := s.engines.at e

def State.modEngine (s : State) (e : Nat) (f : Engine → Engine) : State := { s with engines := s.engines.modify e f }

/-- No command and no shadow runs on an engine. An engine is free from its command's COMMIT or KILL_DONE on: COMMIT stands at the commit
point (R88), where the commit stage begins, so a command granted after it overlaps that stage as R75 and R149 allow. DEDUCED, log entry 71. -/
def State.engineFree (s : State) (e : Nat) : Bool := decide ((s.engine e).running = none) && !(s.engine e).shadow

-- SLICE_MAP fields (R382).
def State.sliceMap (s : State) (n : Nat) : Nat := s.reg .sliceMap n
def State.sliceOn (s : State) (n : Nat) : Bool := bit (s.sliceMap n) 63
def State.ctxBase (s : State) (n : Nat) : Nat := field (s.sliceMap n) 55 44
def State.ctxCount (s : State) (n : Nat) : Nat := field (s.sliceMap n) 43 31
def State.vecBase (s : State) (n : Nat) : Nat := field (s.sliceMap n) 30 20
def State.vecCount (s : State) (n : Nat) : Nat := field (s.sliceMap n) 19 8

/-- The slice that owns a context (R382). -/
def State.sliceOf (s : State) (c : Nat) : Option Nat :=
  (List.range 64).find? fun n => s.sliceOn n && decide (s.ctxBase n ≤ c) && decide (c < s.ctxBase n + s.ctxCount n)

/-- The context bound to queue `q` of slice `n` (R382). -/
def State.queueCtx (s : State) (n q : Nat) : Option Nat :=
  if s.sliceOn n && decide (n < 64) && decide (q < s.ctxCount n) then some (s.ctxBase n + q) else none

/-- The contexts of a slice, rising. -/
def State.sliceCtxs (s : State) (n : Nat) : List Nat :=
  if s.sliceOn n then (List.range (s.ctxCount n)).map (s.ctxBase n + ·) else []

/-- Contexts that exist, rising. -/
def State.liveCtxs (s : State) : List Nat := s.ctxs.keysWhere fun _ x => x.live

/-- SLICE_STATUS fields (R402). -/
def State.sliceState (s : State) (n : Nat) : Nat := field (s.reg .sliceStatus n) 1 0
def State.setSliceState (s : State) (n v : Nat) : State := s.setReg .sliceStatus (setField (s.reg .sliceStatus n) 1 0 v) n

/-- STATE of a context's queue is 1 and its slice is not freezing (R131, R396). -/
def State.queueRuns (s : State) (c : Nat) : Bool :=
  decide ((s.ctx c).page.state = 1) && match s.sliceOf c with
    | some n => decide (s.sliceState n = 0)
    | none => true

/-- Whether a vector is granted to a slice (R382). -/
def State.vecGranted (s : State) (n v : Nat) : Bool :=
  s.sliceOn n && decide (s.vecBase n ≤ v) && decide (v < s.vecBase n + s.vecCount n)

-- RING_CFG fields (R130).
def Page.enabled (p : Page) : Bool := bit p.ringCfg 31
def Page.reportKills (p : Page) : Bool := bit p.ringCfg 30
def Page.vector (p : Page) : Nat := field p.ringCfg 26 16
def Page.cmdLog2 (p : Page) : Nat := field p.ringCfg 11 8
def Page.cplLog2 (p : Page) : Nat := field p.ringCfg 7 4

-- SEAL_CFG fields (R391).
def State.seal (s : State) (n : Nat) : Nat := leNat (s.oct .sealCfg n)
def State.sealed (s : State) (n : Nat) : Bool := bit (s.seal n) 63
def State.sealMask (s : State) (n : Nat) : Nat := field (s.seal n) 191 64
def State.sealStack (s : State) (n : Nat) : Nat := field (s.seal n) 31 24
def State.sealMesh (s : State) (n : Nat) : Nat := field (s.seal n) 23 16

/-- The sealed slice that an engine is dedicated to (R391). -/
def State.dedicatedTo (s : State) (e : Nat) : Option Nat :=
  (List.range 64).find? fun n => s.sealed n && bit (s.sealMask n) e

/-- Whether `pasid` is mapped to slice `n` by a valid entry of a map (R388). -/
def pasidIn (m : List Nat) (n pasid : Nat) : Bool :=
  m.any fun e => bit e 31 && decide (field e 25 20 = n) && decide (field e 19 0 = pasid)

/-- CTX_PASID of a context is bound in the current map (R389). -/
def State.pasidBound (s : State) (c : Nat) : Bool :=
  match s.sliceOf c with
  | some n => decide (s.reg .ctxPasid c < 2 ^ 20) && pasidIn s.hif.pasid n (s.reg .ctxPasid c)
  | none => false

/-- Whether a context is of class LC (R233). -/
def State.isLc (s : State) (c : Nat) : Bool := s.reg .ctxClass c = 0

-- Sync counters (R167).
def State.sync (s : State) (n k : Nat) : Nat := s.hif.sync.get 0 (n * 256 + k)
def State.setSync (s : State) (n k v : Nat) : State :=
  { s with hif := { s.hif with sync := s.hif.sync.set 0 (n * 256 + k) (v % 2 ^ 64) } }

-- Interrupts --------------------

/-- A 32-bit word of the MSI-X table (R379): word `k` of entry `v` has number 4 v + k, and reset masks every vector. -/
def State.msixWord (s : State) (i : Nat) : Nat := s.hif.msix.get 0 i ^^^ (if i % 4 = 3 then 1 else 0)

/-- The message of vector `v`: address and data. -/
def State.msixMessage (s : State) (v : Nat) : Nat × Nat := (s.msixWord (4 * v + 1) * 2 ^ 32 + s.msixWord (4 * v), s.msixWord (4 * v + 2))

/-- Vector `v` is not masked. -/
def State.unmasked (s : State) (v : Nat) : Bool := !bit (s.msixWord (4 * v + 3)) 0

/-- A write to the MSI-X table: a vector that is pending and no longer masked sends its message. -/
def State.msixWrite (s : State) (i v : Nat) : State :=
  let s := { s with hif := { s.hif with msix := s.hif.msix.set 0 i (v ^^^ (if i % 4 = 3 then 1 else 0)) } }
  if s.unmasked (i / 4) && s.hif.pba.contains (i / 4) then
    { s with hif := { s.hif with pba := s.hif.pba.erase (i / 4), raised := s.hif.raised ++ [i / 4] } }
  else s

/-- A write of a 32-bit word of BAR2 at an offset without a command of its own (R379, R380, R393); elsewhere, and in a package in reset or
halted without an image (R528), it has no effect. -/
def State.bar2Write (s : State) (off : Nat) (value : W32) : State :=
  let n := (off - 0x4800) / 0x100
  let c := s.hif.channels.at n
  if !s.hif.access || s.boot.inReset || s.boot.halted || decide (off % 4 ≠ 0) then s
  else if off < 0x2000 then
    if s.hif.mbStatus = 1 then s
    else
      let r := s.hif.mbRequest ++ zeros (off + 4 - s.hif.mbRequest.length)
      { s with hif := { s.hif with mbRequest := r.take off ++ leBytes 4 value.toNat ++ r.drop (off + 4) } }
  else if 0x4800 ≤ off ∧ off < 0x5000 then
    if off % 0x100 = 0x0C then { s with hif := { s.hif with channels := s.hif.channels.put n { c with upConsumed := value } } }
    else if off % 0x100 = 0x10 then { s with hif := { s.hif with channels := s.hif.channels.put n { c with dataConsumed := value } } }
    else s
  else if 0x8000 ≤ off ∧ off < 0x10000 then s.msixWrite ((off - 0x8000) / 4) value.toNat
  else s

/-- One of the host's own writes. -/
def State.hostStore (s : State) (w : HostWrite) : State :=
  match w with
  | .memory pasid iova bytes => s.hostWr pasid iova bytes
  | .bar2 off value => s.bar2Write off value

/-- The host's own writes, made before the write that carries them. -/
def State.hostPut (s : State) (ws : List HostWrite) : State := ws.foldl State.hostStore s

/-- Raises an MSI-X vector (R390): a masked or pending vector only sets its pending bit. -/
def State.raiseVector (s : State) (v : Nat) : State :=
  let h := s.hif
  if s.unmasked v && !h.pba.contains v && h.access then { s with hif := { h with raised := h.raised ++ [v] } }
  else { s with hif := { h with pba := if h.pba.contains v then h.pba else h.pba ++ [v] } }

-- Time (R316, R317) --------------------

def State.tb (s : State) (n : Nat) : TimeBase := s.tbs.at n
def State.modTb (s : State) (n : Nat) (f : TimeBase → TimeBase) : State := { s with tbs := s.tbs.modify n f }

/-- NS64 of a time base. -/
def State.ns (s : State) (n : Nat) : Nat := (s.tb n).count / 2 ^ 32 % 2 ^ 64

/-- TIME80 of an NS64 value (R317). -/
def time80 (ns : Nat) : Nat := (ns / 10 ^ 9) % 2 ^ 48 * 2 ^ 32 + ns % 10 ^ 9

/-- NS64 of QUEUE_TB (R330). -/
def State.qns (s : State) : Nat := s.ns (s.reg .queueTb)

/-- Signed difference of two 64-bit times (R323). -/
def since64 (now target : Nat) : Int := toSigned 64 (now + 2 ^ 64 - target % 2 ^ 64)

/-- Signed difference of two 32-bit times (R323). -/
def since32 (now target : Nat) : Int := toSigned 32 (now % 2 ^ 32 + 2 ^ 32 - target % 2 ^ 32)

-- Cells (R283) --------------------

def State.cell (s : State) (c : Nat) : Cell := s.radio.cells.at c
def State.modCell (s : State) (c : Nat) (f : Cell → Cell) : State :=
  { s with radio := { s.radio with cells := s.radio.cells.modify c f } }

def State.cellCfg (s : State) (c : Nat) : Nat := s.reg .cellCfg c
def State.cellBd (s : State) (c : Nat) : Nat := field (s.cellCfg c) 30 30
def State.cellTb (s : State) (c : Nat) : Nat := field (s.cellCfg c) 29 27
def State.cellScs (s : State) (c : Nat) : Nat := field (s.cellCfg c) 26 24

/-- Ports other than PCIe train from stage 6 on; none does while the hub stays in the ROM (R407, R526, R528). -/
def State.portsTrain (s : State) : Bool := !s.boot.inReset && !s.boot.idFail && !s.boot.halted && decide (6 ≤ s.reg .bootStage)

/-- The body of the image that runs, as the copy that was checked (R410). -/
def State.runningBody (s : State) : Bytes := s.boot.bank.drop 4096

/-- Cells whose ENABLE is in force. -/
def State.enabledCells (s : State) : List Nat := s.radio.cells.keysWhere fun _ x => x.enabled

def State.core (s : State) (n : Nat) : DspCore := s.radio.cores.at n
def State.modCore (s : State) (n : Nat) (f : DspCore → DspCore) : State :=
  { s with radio := { s.radio with cores := s.radio.cores.modify n f } }

-- Sessions --------------------

def State.sess (s : State) (n : Nat) : Session := s.mgmt.sessions.get .closed n

def State.setSess (s : State) (n : Nat) (x : Session) : State :=
  { s with mgmt := { s.mgmt with sessions := s.mgmt.sessions.set .closed n x } }

def State.modSess (s : State) (n : Nat) (f : Session → Session) : State := s.setSess n (f (s.sess n))

/-- Whether session `n` is open. -/
def State.isOpen (s : State) (n : Nat) : Bool := (s.sess n).phase = 2

/-- An entry held per session (R439). -/
def State.sreg (s : State) (n : Nat) (r : Reg) (i : Nat := 0) : Nat := (s.sess n).regs.get r.dflt (r.key i)

def State.setSreg (s : State) (n : Nat) (r : Reg) (v : Nat) (i : Nat := 0) : State :=
  s.modSess n fun x => { x with regs := x.regs.set r.dflt (r.key i) (v % 2 ^ r.width) }

/-- Open sessions, rising. -/
def State.openSessions (s : State) : List Nat := (s.mgmt.sessions.keysWhere fun _ x => x.phase = 2)

/-- The determinism class (R38, R52): the part's stepping, arithmetic grade 0x01 and the running numerics firmware's version. -/
def State.detClass (s : State) : Nat := Config.stepping.toNat * 2 ^ 24 + 2 ^ 16 + s.reg .numfwVersion

/-- The running numerics firmware as the segment path sees it (R101, R112). -/
def State.numfw (s : State) : Numfw := ⟨s.detClass, s.reg .geluXmin⟩

-- Units in service (R479, R483) --------------------

/-- Engine `e` is in service: its die is, and it is neither faulty nor quarantined. -/
def State.meInService (s : State) (e : Nat) : Bool :=
  decide (e < 128) && !bit s.faults.meOut e && !bit s.faults.cdOut (e / 8) && !bit (s.reg .cdOutMask) (e / 8) &&
    !bit (leNat (s.oct .meQuarantine)) e

/-- Bits of the engines in service. -/
def State.meService (s : State) : Nat := ((List.range 128).filter fun e => s.meInService e).foldl (fun m e => m + 2 ^ e) 0

/-- Bits of the compute dies in service. -/
def State.cdService (s : State) : Nat :=
  ((List.range 16).filter fun d => !bit s.faults.cdOut d && !bit (s.reg .cdOutMask) d).foldl (fun m d => m + 2 ^ d) 0

/-- Bits of the stacks in service. -/
def State.stackService (s : State) : Nat := s.build.stackMask - (s.build.stackMask &&& s.faults.stackOut)

/-- Bits of the fabric ports in service. -/
def State.xpService (s : State) : Nat :=
  let f := s.build.dflt .fabricPortMask
  f - (f &&& s.faults.xpOut)

/-- Bits of the DSP cores in service. -/
def State.dspService (s : State) : Nat := (2 ^ 96 - 1) - ((2 ^ 96 - 1) &&& s.faults.dspOut)

/-- PACKAGE_ID, 0xFF when none is set. -/
def State.pkg (s : State) : Nat := s.reg .packageId

end Sys2Proof.Machine
end

