-- ==== Sys2Proof/Machine/Queue.lean ====
section
/-! DEFINITION. The queue primitive (R293 to R304), management event words (R445, R446), fault records (R466 to R468) and the
frames the hub sends (R432, R433). -/

namespace Sys2Proof.Machine

-- Kinds of queue (R293) --------------------

/-- Word size in bytes; 0 for a number that names no queue. -/
def qWordBytes (q : Nat) : Nat :=
  if q < 0x800 then 64
  else if q = 0x1000 ∨ q = 0x1001 then 32
  else if 0x1100 ≤ q ∧ q < 0x1160 then 16
  else if 0x1200 ≤ q ∧ q < 0x1280 then 64
  else if 0x1300 ≤ q ∧ q < 0x1310 then 64
  else if 0x1400 ≤ q ∧ q < 0x1440 then 64
  else 0

def qExists (q : Nat) : Bool := qWordBytes q ≠ 0
def qFronthaul (q : Nat) : Bool := q < 0x800
def qSession (q : Nat) : Bool := decide (0x1300 ≤ q) && decide (q < 0x1310)
def qService (q : Nat) : Bool := decide (0x1400 ≤ q) && decide (q < 0x1440)
def qRadio (q : Nat) : Bool := decide (0x1200 ≤ q) && decide (q < 0x1280)
def qDie (q : Nat) : Nat := q / 0x400

-- Q_CFG (R312).
def State.qOn (s : State) (q : Nat) : Bool := bit (s.reg .qCfg q) 31
def State.qCompat (s : State) (q : Nat) : Bool := qFronthaul q && bit (s.reg .qCfg q) 30
def State.qRecovery (s : State) (q : Nat) : Bool := bit (s.reg .qCfg q) 29
def State.qEgress (s : State) (q : Nat) : Bool := qFronthaul q && bit (s.reg .qCfg q) 28

/-- CAP_LOG2 of a queue: fixed for queues off the fronthaul dies (R293, R313, R445). -/
def State.qCapLog2 (s : State) (q : Nat) : Nat :=
  if qFronthaul q then field (s.reg .qCfg q) 27 24
  else if qRadio q then 6
  else if qService q then s.reg .svcCapLog2 (q - 0x1400)
  else 8

def State.qCap (s : State) (q : Nat) : Nat := 2 ^ s.qCapLog2 q

def State.queue (s : State) (q : Nat) : Queue := s.queues.at q
def State.setQueue (s : State) (q : Nat) (x : Queue) : State := { s with queues := s.queues.put q x }
def State.modQueue (s : State) (q : Nat) (f : Queue → Queue) : State := s.setQueue q (f (s.queue q))

/-- A DSP core operates on a queue. -/
def State.usedBy (s : State) (q core : Nat) : State := s.modQueue q fun x => { x with user := core + 1 }

/-- Free words (R294). -/
def State.qFree (s : State) (q : Nat) : Nat := s.qCap q - ((s.queue q).write - (s.queue q).release).toNat

/-- The depth (R294). -/
def State.qDepth (s : State) (q : Nat) : Nat :=
  let x := s.queue q
  if s.qCompat q then (x.write - x.read).toNat else (x.tail - x.read).toNat

-- Frames the hub sends (R432, R433) --------------------

/-- A frame's 16-byte header. -/
def frameHeader (type session length : Nat) (seq : Nat) : Bytes :=
  leBytes 2 0x5048 ++ leBytes 1 1 ++ leBytes 1 type ++ leBytes 1 session ++ leBytes 1 0 ++ leBytes 2 length ++ leBytes 8 seq

/-- The port a session's frames leave on: 1 MGMT-A, 2 MGMT-B; none for the mailbox. -/
def viaPort (t : Transport) : Nat :=
  match t with
  | .mailbox => 0
  | .mgmtA => 1
  | .mgmtB => 2

/-- Puts a frame to a destination on a management port. -/
def State.sendOn (s : State) (port : Nat) (dest bs : Bytes) : State :=
  { s with mgmt := { s.mgmt with sent := s.mgmt.sent ++ [⟨port, dest, bs⟩] } }

/-- The address and UDP port that a session's frames go to (R431). -/
def State.destOf (s : State) (n : Nat) : Bytes := beBytes 18 (s.sess n).source

/-- A frame of session `n` under the hub's direction, with the next sequence number (R415). -/
def State.sessionFrame (s : State) (n type : Nat) (payload : Bytes) : Bytes × State :=
  let x := s.sess n
  let h := frameHeader type n payload.length (x.seqOut + 1)
  (h ++ payload ++ hmac256 x.keyOut (h ++ payload), s.setSess n { x with seqOut := x.seqOut + 1 })

/-- Raises MB_VECTOR when one is set (R380). -/
def State.raiseMailbox (s : State) : State :=
  if s.reg .mbVector = 0xFFFF then s else s.raiseVector (s.reg .mbVector)

/-- NOTICE to a session: a frame on the network, MB_VECTOR for a mailbox session (R445). -/
def State.noticeSession (s : State) (n depth : Nat) : State :=
  if !s.isOpen n then s
  else if (s.sess n).via = .mailbox then s.raiseMailbox
  else
    let (f, s) := s.sessionFrame n 0x07 (leBytes 2 depth)
    s.sendOn (viaPort (s.sess n).via) (s.destOf n) f

-- Ignored operations (R304) --------------------

/-- An operation ignored with a code 0x0Axx. -/
def State.qIgnore (s : State) (q code : Nat) : State := (s.bump .qIgnored q).setReg .qLastIgnored code q

-- Words --------------------

/-- Bytes of tier 2 offset `off` of slice `n` as a DPA (R182); none beyond the region. -/
def State.regionDpa (s : State) (n off : Nat) : Option Nat :=
  ((s.tier.regions.get [] n)[off / frameBytes]?).map fun f => f * frameBytes + off % frameBytes

/-- Writes bytes at a tier 2 offset; bytes beyond the region are dropped. -/
def State.regionWrite (s : State) (n : Nat) : Nat → Bytes → State
  | _, [] => s
  | off, b :: bs =>
    let s' := match s.regionDpa n off with
      | some a => s.wr a b
      | none => s
    s'.regionWrite n (off + 1) bs

/-- Reads bytes at a tier 2 offset; 0 beyond the region. -/
def State.regionRead (s : State) (n off k : Nat) : Bytes :=
  (List.range k).map fun i => match s.regionDpa n (off + i) with
    | some a => s.rd a
    | none => 0

/-- The sideband words of an item cut into words of `w` bytes (R294). -/
def itemWords (w vis tag : Nat) (bad : Bool) : Nat → Bytes → List QWord
  | 0, _ => []
  | n + 1, bs =>
    if bs.length ≤ w then [⟨bs, vis, bad, true, tag⟩]
    else ⟨bs.take w, vis, false, false, tag⟩ :: itemWords w 0 tag bad n (bs.drop w)

/-- Stores words at rising indices. -/
def storeWords (cap : Nat) (t : Tab QWord) : W32 → List QWord → Tab QWord
  | _, [] => t
  | i, w :: ws => storeWords cap (t.put (i.toNat % cap) w) (i + 1) ws

/-- The word at index `i`. -/
def State.qWord (s : State) (q : Nat) (i : W32) : QWord := (s.queue q).words.at (i.toNat % s.qCap q)

/-- The frame of the item whose first word has index `i`. -/
def State.frameAt (s : State) (q : Nat) (i : W32) : Option Frame := (s.queue q).frames.at (i.toNat % s.qCap q)

/-- An item with one more of its words. -/
def HeldItem.more (x : Option HeldItem) (w : QWord) (f : Option Frame) : HeldItem :=
  match x with
  | some y => { y with bytes := y.bytes ++ w.bytes }
  | none => ⟨w.visTime, w.tag, w.bytes, f⟩

/-- The items that `n` words from index `i` on complete, after part `p` of an item, and the part then left. An item whose last word has BAD
is discarded (R296). -/
def State.readItems (s : State) (q : Nat) : Nat → W32 → Option HeldItem → List HeldItem × Option HeldItem
  | 0, _, p => ([], p)
  | n + 1, i, p =>
    let w := s.qWord q i
    let x := HeldItem.more p w (s.frameAt q i)
    if !w.last then s.readItems q n (i + 1) (some x)
    else
      let (xs, rest) := s.readItems q n (i + 1) none
      (if w.bad then xs else x :: xs, rest)

/-- The items that a READ of `n` words completes, and the part then held. -/
def State.takes (s : State) (q n : Nat) : List HeldItem × Option HeldItem := s.readItems q n (s.queue q).read (s.queue q).part

-- Notices (R300 to R302) --------------------

/-- Adds to a core's event counter (R259). -/
def State.coreEvent (s : State) (core type : Nat) : State :=
  s.modCore core fun c => { c with events := c.events.set 0 type (c.events.get 0 type + 1) }

/-- Whether a notice of queue `q` may raise vector `v` (R302). -/
def State.noticeVector (s : State) (q v : Nat) : Bool :=
  if qService q then s.vecGranted (q - 0x1400) v
  else if qFronthaul q then
    (List.range 8).any fun n => bit (s.reg .rhcCfg n) 31 && decide (field (s.reg .rhcCfg n) 26 16 = v)
  else false

/-- A notice to its target, but for the event word to a session. -/
def State.noticeBare (s : State) (q bitNo : Nat) : State :=
  let s := s.setReg .qStatus (setBit (s.reg .qStatus q) bitNo true) q
  let t := s.reg .qNoticeTarget q
  match field t 31 28 with
  | 1 => s.coreEvent (field t 11 0) 6
  | 2 => if s.noticeVector q (field t 11 0) then s.raiseVector (field t 11 0) else s.bump .vectorDrops
  | 3 => if qSession q then s.noticeSession (field t 11 0) (s.qDepth (0x1300 + field t 11 0)) else s
  | _ => s

/-- LEVEL evaluation (R300): whether a notice is due, and the queue re-armed or not. -/
def State.levelDue (s : State) (q : Nat) : Bool :=
  let l := s.reg .qLevel q
  decide (1 ≤ l) && decide (l ≤ s.qCap q) && decide (l ≤ s.qDepth q) && !(s.queue q).levelOut

/-- Re-arms the LEVEL notice, and the STALE notice when the queue empties. -/
def State.levelRearm (s : State) (q : Nat) : State :=
  let d := s.qDepth q
  s.modQueue q fun x => { x with levelOut := x.levelOut && decide (s.reg .qLevel q ≤ d), staleOut := x.staleOut && decide (0 < d) }

/-- The session that a queue's notices target. -/
def State.noticeSessionOf (s : State) (q : Nat) : Option Nat :=
  let t := s.reg .qNoticeTarget q
  if field t 31 28 = 3 then some (field t 11 0) else none

-- Items --------------------

/-- The two control words and the ring of a service receive queue lie in the slice's tier 2 (R297). -/
def State.serviceStore (s : State) (q : Nat) (i : W32) (ws : List QWord) : State :=
  let n := q - 0x1400
  let base := s.reg .svcRingOffset n
  let s := (ws.zipIdx).foldl (fun s p =>
    s.regionWrite n (base + 64 + (i + BitVec.ofNat 32 p.2).toNat % s.qCap q * 64) (slice p.1.bytes 0 64)) s
  s.regionWrite n base (leBytes 8 (i + BitVec.ofNat 32 ws.length).toNat)

/-- Writes and commits an item of whole words (R295, R296): the item becomes visible and WRITE and TAIL pass it. -/
def State.qCommit (s : State) (q : Nat) (ws : List QWord) : State :=
  let x := s.queue q
  let wasEmpty := s.qDepth q = 0
  let e := x.write + BitVec.ofNat 32 ws.length
  let s := if qService q then s.serviceStore q x.write ws else s
  s.setQueue q { x with
    words := storeWords (s.qCap q) x.words x.write ws
    write := e
    tail := e
    since := if wasEmpty then s.qns else x.since }

/-- READ of a service receive queue is the control word its slice's contexts write (R297). -/
def State.qSync (s : State) (q : Nat) : State :=
  if qService q then
    let n := q - 0x1400
    let r := BitVec.ofNat 32 (leNat (s.regionRead n (s.reg .svcRingOffset n + 8) 8))
    let k := (r - (s.queue q).read).toNat
    if k = 0 then s
    else
      let part := if k ≤ s.qDepth q then (s.takes q k).2 else none
      (s.modQueue q fun x => { x with
        read := r, part, release := if s.qRecovery q then x.release else r, since := s.qns, staleOut := false }).levelRearm q
  else s

/-- Every enabled service receive queue takes the READ that its slice's contexts have written. -/
def State.syncServices (s : State) : State :=
  (List.range 64).foldl (fun s n => if s.qOn (0x1400 + n) then s.qSync (0x1400 + n) else s) s

/-- A new READ of a service receive queue goes into its control word (R297). -/
def State.putRead (s : State) (q : Nat) : State :=
  if qService q then
    s.regionWrite (q - 0x1400) (s.reg .svcRingOffset (q - 0x1400) + 8) (leBytes 8 (s.queue q).read.toNat)
  else s

/-- Produces an item without evaluating LEVEL: false when it found no room or the queue is disabled (R295, R304). -/
def State.qProduce (s : State) (q : Nat) (tag : Nat) (item : Bytes) (bad : Bool := false) : Bool × State :=
  let ws := itemWords (qWordBytes q) (s.qns % 2 ^ 32) tag bad (item.length + 1) item
  let s := s.qSync q
  if !s.qOn q then (false, s.qIgnore q 0x0A05)
  else if s.qFree q < ws.length then (false, s.bump .qOverflows q)
  else (true, s.qCommit q ws)

-- Event words (R445, R446) --------------------

/-- An event word as a 512-bit number. -/
def eventWord (type lost time index sub selector detail : Nat) : Nat :=
  type * 2 ^ 504 + lost * 2 ^ 480 + time * 2 ^ 400 + index * 2 ^ 384 + sub * 2 ^ 376 + selector * 2 ^ 344 + detail % 2 ^ 344

/-- Writes an event word into session `n`'s queue when its mask enables the type; a fault record keeps its own time (R468). A LEVEL notice of
that queue may raise an event word in its turn, in a queue that has none out: with `fuel` 17 every one is raised. -/
def State.eventChain : Nat → State → (n type index sub selector detail : Nat) → Option Nat → State
  | 0, s, _, _, _, _, _, _, _ => s
  | fuel + 1, s, n, type, index, sub, selector, detail, time =>
    if !s.isOpen n || !bit (s.sreg n .eventMask) type then s
    else
      let q := 0x1300 + n
      let lost := (s.sess n).lost
      let w := eventWord type (min lost 65535) (time80 (time.getD s.qns)) index sub selector detail
      let (ok, s) := s.qProduce q 0 (leBytes 64 w)
      if !ok then (s.modSess n fun x => { x with lost := x.lost + 1 }).setSreg n .eventsLost (s.sreg n .eventsLost + 1)
      else
        let s := s.modSess n fun x => { x with lost := 0 }
        if !s.levelDue q then s.levelRearm q
        else
          let s := (s.modQueue q fun x => { x with levelOut := true }).noticeBare q 0
          match s.noticeSessionOf q with
          | some m => State.eventChain fuel s m 2 0 0 q (q + 2 ^ 16) none
          | none => s

def State.eventTo (s : State) (n type index sub selector detail : Nat) (time : Option Nat := none) : State :=
  State.eventChain 17 s n type index sub selector detail time

/-- An event word to every session. -/
def State.event (s : State) (type index sub selector detail : Nat) (time : Option Nat := none) : State :=
  (List.range 16).foldl (fun s n => s.eventTo n type index sub selector detail time) s

/-- A notice to its target (R302, R446). -/
def State.notice (s : State) (q bitNo : Nat) : State :=
  let s := s.noticeBare q bitNo
  match s.noticeSessionOf q with
  | some m => s.eventTo m 2 0 0 q (q + if bitNo = 0 then 2 ^ 16 else 2 ^ 17) none
  | none => s

/-- LEVEL evaluation on the resulting depth (R300, R303 step 8). -/
def State.level (s : State) (q : Nat) : State :=
  if s.levelDue q then (s.modQueue q fun x => { x with levelOut := true }).notice q 0 else s.levelRearm q

/-- Produces an item and evaluates LEVEL. -/
def State.qPush (s : State) (q : Nat) (tag : Nat) (item : Bytes) (bad : Bool := false) : Bool × State :=
  let (ok, s) := s.qProduce q tag item bad
  (ok, if ok then s.level q else s)

-- Consuming (R297 to R299) --------------------

/-- READ of `n` words (R297). -/
def State.qRead (s : State) (q n : Nat) : State :=
  if !s.qOn q then s.qIgnore q 0x0A05
  else if s.qDepth q < n then s.qIgnore q 0x0A04
  else
    let part := (s.takes q n).2
    let s := s.modQueue q fun x =>
      let r := x.read + BitVec.ofNat 32 n
      { x with
        read := r
        part
        release := if s.qRecovery q then x.release else r
        since := s.qns
        staleOut := false
        headFinish := if n = 0 then x.headFinish else none }
    (s.putRead q).level q

/-- RELEASE i (R298). -/
def State.qReleaseTo (s : State) (q : Nat) (i : W32) : State :=
  let x := s.queue q
  if !s.qOn q then s.qIgnore q 0x0A05
  else if !s.qRecovery q then s.qIgnore q 0x0A01
  else if (x.read - x.release).toNat < (i - x.release).toNat then s.qIgnore q 0x0A03
  else if x.markValid && decide ((x.mark - x.release).toNat < (i - x.release).toNat) then
    s.setQueue q { x with release := i, mark := i, markPart := (s.readItems q (i - x.mark).toNat x.mark x.markPart).2 }
  else s.setQueue q { x with release := i }

/-- MARK (R298). -/
def State.qMarkNow (s : State) (q : Nat) : State :=
  if !s.qOn q then s.qIgnore q 0x0A05
  else if !s.qRecovery q then s.qIgnore q 0x0A01
  else s.modQueue q fun x => { x with mark := x.read, markPart := x.part, markValid := true }

/-- REWIND (R298). -/
def State.qRewind (s : State) (q : Nat) : State :=
  if !s.qOn q then s.qIgnore q 0x0A05
  else if !s.qRecovery q then s.qIgnore q 0x0A01
  else if !(s.queue q).markValid then s.qIgnore q 0x0A02
  else
    let since := if s.qDepth q = 0 then s.qns else (s.queue q).since
    ((s.modQueue q fun x => { x with
      read := x.mark
      part := x.markPart
      since
      headFinish := if x.read = x.mark then x.headFinish else none }).putRead q).level q

/-- REWIND by the hub on a core's queues while RECOVERY is set on them (R531). A core's queues are those that it operated on last. DEDUCED,
log entry 80. -/
def State.rewindQueues (s : State) (core : Nat) : State :=
  (s.queues.keysWhere fun q x => decide (x.user = core + 1) && s.qRecovery q).foldl State.qRewind s

/-- FLUSH (R299). -/
def State.qFlush (s : State) (q : Nat) : State :=
  if !s.qOn q then s.qIgnore q 0x0A05
  else
    let x := s.queue q
    let d := (x.write - x.read).toNat
    ((s.bump .qFlushedWords q d).setQueue q { x with
      write := if s.qCompat q then x.write else x.tail
      read := x.tail, release := x.tail, markValid := false, frames := [], part := none, markPart := none, headFinish := none, levelOut := false, staleOut := false }).putRead q

/-- Sets RECOVERY (R298): RELEASE and MARK become READ; clearing it frees what is read. -/
def State.qSetRecovery (s : State) (q : Nat) (on : Bool) : State :=
  if on = s.qRecovery q then s
  else
    let s := s.setReg .qCfg (setBit (s.reg .qCfg q) 29 on) q
    s.modQueue q fun x =>
      if on then { x with release := x.read, mark := x.read, markPart := x.part } else { x with release := x.read, markValid := false }

/-- A queue enabled: every index 0 and its pool words cleared (R312, R425). The control words of a service receive queue hold its TAIL and
READ, so both become 0: DEDUCED, log entry 83. -/
def State.qEnable (s : State) (q : Nat) : State :=
  let s := s.setQueue q default
  if qService q then s.regionWrite (q - 0x1400) (s.reg .svcRingOffset (q - 0x1400)) (zeros 16) else s

/-- Words of an item at READ: up to and including the word with END. -/
def State.qHeadItem (s : State) (q : Nat) : Nat → W32 → List QWord
  | 0, _ => []
  | n + 1, i =>
    let w := s.qWord q i
    if w.last then [w] else w :: s.qHeadItem q n (i + 1)

/-- The item at READ; empty for an empty queue. -/
def State.qHead (s : State) (q : Nat) : List QWord := s.qHeadItem q (s.qDepth q) (s.queue q).read

/-- Words with END between READ and WRITE (R296). -/
def State.qPackets (s : State) (q : Nat) : Nat :=
  ((List.range (s.qDepth q)).filter fun i => (s.qWord q ((s.queue q).read + BitVec.ofNat 32 i)).last).length

-- Fault records (R466 to R468) --------------------

/-- The 344 bits of a record. -/
def FaultRec.bits (f : FaultRec) : Nat :=
  f.code * 2 ^ 328 + f.severity * 2 ^ 320 + f.kind * 2 ^ 312 + f.unit * 2 ^ 304 + f.suspect * 2 ^ 296 + f.reporter * 2 ^ 288 +
    f.job * 2 ^ 272 + f.context * 2 ^ 256 + f.duplicates * 2 ^ 224 + f.epoch * 2 ^ 192 + f.address * 2 ^ 128 + f.data

/-- The event word a record travels in. -/
def FaultRec.word (f : FaultRec) : Nat := eventWord 1 0 (time80 f.time) 0 0 0xFFFFFFFF f.bits

/-- Number of the millisecond of QUEUE_TB (R468). -/
def State.epochNow (s : State) : Nat := s.qns / 10 ^ 6

/-- Folds a record into the epoch's words for its suspect (R468). -/
def State.foldReport (s : State) (f : FaultRec) : State :=
  let e := s.faults.epoch
  let same (g : FaultRec) : Bool := decide (g.suspect = f.suspect) && decide (g.epoch = f.epoch)
  if e.any fun g => same g && decide (g.code = f.code) then
    let more (g : FaultRec) : FaultRec := if same g && decide (g.code = f.code) then { g with duplicates := g.duplicates + 1 } else g
    ({ s with faults := { s.faults with epoch := e.map more } }).bump .reportDuplicates
  else if (e.filter same).length < 16 then { s with faults := { s.faults with epoch := e ++ [f] } }
  else s.bump .reportsSuppressed

/-- Raises a fault record: the log, and the reports of its epoch (R467, R468). -/
def State.raise (s : State) (f : FaultRec) : State :=
  let i := s.reg .faultLogIndex
  let s := { s with faults := { s.faults with log := s.faults.log.put i f } }
  (s.setReg .faultLogIndex ((i + 1) % 16384)).foldReport f

/-- A record of the package's own with the defaults of R466. -/
def State.record (s : State) (code severity kind unit : Nat) : FaultRec :=
  { code, severity, kind, unit, suspect := s.pkg, reporter := s.pkg, job := 0, context := 0xFFFF, address := 0, data := 0,
    time := s.qns, epoch := s.epochNow % 2 ^ 32, duplicates := 0 }

/-- Raises a record with the defaults. -/
def State.fault (s : State) (code severity kind unit : Nat) (context : Nat := 0xFFFF) (data : Nat := 0) : State :=
  s.raise { s.record code severity kind unit with context := context, data := data }

/-- UNIT_KIND and UNIT of R466. -/
def UnitId.code : UnitId → Nat × Nat
  | .package => (0, 0)
  | .cd n => (1, n)
  | .me n => (2, n)
  | .stack n => (3, n)
  | .bd n => (4, n)
  | .dsp n => (5, n)
  | .xd n => (6, n)
  | .xp n => (7, n)
  | .fd n => (8, n)
  | .fh n => (9, n)
  | .hd => (10, 0)
  | .link n => (11, n)
  | .timeBase n => (12, n)

end Sys2Proof.Machine
end

