-- ==== Sys2Proof/Machine/Identity.lean ====
section
/-! DEFINITION. Flash devices (R451), the keys of the device identity (R405, R406, R416) and the signed REPORT frames (R432, R447). -/

namespace Sys2Proof.Machine

-- Flash (R451) --------------------

/-- Bytes of flash device `d`. -/
def State.flashRd (s : State) (d off n : Nat) : Bytes := s.boot.flash.run 0xFF (d * 2 ^ 26 + off) n

def State.flashWr (s : State) (d off : Nat) (bs : Bytes) : State :=
  { s with boot := { s.boot with flash := s.boot.flash.setRun 0xFF (d * 2 ^ 26 + off) bs } }

/-- Erases `n` bytes of flash device `d`. -/
def State.flashErase (s : State) (d off n : Nat) : State :=
  let lo := d * 2 ^ 26 + off
  { s with boot := { s.boot with flash := s.boot.flash.keep fun k _ => decide (k < lo) || decide (lo + n ≤ k) } }

-- Identity (R405, R406) --------------------

/-- Where helper data lie in a flash device, and their length (R451). -/
def helperOff : Nat := 0x3000000
def helperLen : Nat := 0x10000

/-- The device seed that the helper data of flash device `d` give (R405). -/
def State.seedBy (s : State) (d : Nat) : Bytes := beBytes 32 (Config.pufSeed (s.flashRd d helperOff helperLen)).toNat

/-- A value derived from a device seed under an info string (R405). -/
def seedKey (seed : Bytes) (info : String) : Bytes := hkdf seed [] (ascii info) 32

/-- Both public keys of a seed. -/
def seedPublics (seed : Bytes) : Bytes := edPub (seedKey seed "zc24-identity") ++ x25519Pub (seedKey seed "zc24-kex")

/-- The certificate is Lamtu's signature over both public keys of a seed (R406). -/
def seedCertified (seed : Bytes) : Bool := edVerify (beBytes 32 Config.certKey.toNat) (seedPublics seed) (beBytes 64 Config.deviceCert.toNat)

/-- Private seed of the device identity key. -/
def State.identitySeed (s : State) : Bytes := seedKey s.boot.seed "zc24-identity"

/-- Private key of the device key-agreement key. -/
def State.kexKey (s : State) : Bytes := seedKey s.boot.seed "zc24-kex"

/-- The storage key. -/
def State.storageKey (s : State) : Bytes := seedKey s.boot.seed "zc24-storage"

/-- DEVICE_PUBKEY, PK of R414. -/
def State.devicePub (s : State) : Bytes := edPub s.identitySeed

/-- DEVICE_KEX_PUBKEY. -/
def State.kexPub (s : State) : Bytes := x25519Pub s.kexKey

/-- One REPORT frame of event words on management port `m`, 0 or 1, unless its REPORT_DEST is zeros. SEQ is the port's report counter
with this frame. -/
def State.report (s : State) (m : Nat) (words : List Nat) : State :=
  if s.oct .reportDest m = zeros 18 then s
  else
    let s := s.bump .reportsSent m
    let body := words.flatMap (leBytes 64)
    let front := frameHeader 0x08 0xFF body.length (s.reg .reportsSent m) ++ body
    s.sendOn (m + 1) (s.oct .reportDest m) (front ++ edSign s.identitySeed front)

end Sys2Proof.Machine
end

