-- ==== Sys2Proof/Machine/DmaCore.lean ====
section
/-! DEFINITION. DMA, fabric and hub commands apart from the state of the package: the reasons a descriptor is ignored for
(R141 to R148, R554), the bytes it reads and writes (R151), and what a DMA command writes. -/

namespace Sys2Proof.Machine

-- Reading through a command's own addresses --------------------

/-- A byte a command reads, by tier and offset in its own allocation there. -/
abbrev TierRead := Nat → Nat → Byte

/-- A run of bytes a command writes: tier, offset, bytes. -/
structure TierRun where
  tier : Nat
  off  : Nat
  bytes : Bytes
  deriving DecidableEq, Repr

/-- Reads `n` bytes at (tier, off). -/
def readRun (rd : TierRead) (t off n : Nat) : Bytes := (List.range n).map fun i => rd t (off + i)

-- Random values (R59, R60) --------------------

/-- Word for draw `d` of element `n` (R59). -/
def randomWord (seed step n d : Nat) : Nat :=
  let pt := leBytes 8 step ++ leBytes 6 n ++ leBytes 2 (d / 4)
  leAt (aesBlock (leBytes 16 seed) pt) (4 * (d % 4)) 4

/-- The uniform in [0, 1) of a word (R59). -/
def uniformFl (w : Nat) : Fl := .fin false (w / 256) (-24)

-- DMA reasons (R141, R144, R146 to R148, R195, R554) --------------------

/-- Element size that ELEM names. -/
def Desc.elemBytes (d : Desc) : Nat := 2 ^ d.dmaElem

/-- Size of one element for the LENGTH rule: a logical element for FILL_RANDOM (R146, R147). -/
def dmaLogical (op : Op) (d : Desc) : Nat :=
  if op = .fillRandom ∧ d.dmaSubop = 0 then 4 * (d.dmaDrawsM1 + 1) else d.elemBytes

/-- The opcodes whose LENGTH must be a multiple of the element size (R147). -/
def dmaElemental (op : Op) : Bool :=
  match op with
  | .fill | .gather | .fillRandom | .transpose | .toPanels => true
  | _ => false

def dmaLayout (op : Op) : Bool :=
  match op with
  | .transpose | .toPanels => true
  | _ => false

def dmaUsesSrc (op : Op) : Bool :=
  match op with
  | .fill | .fillRandom => false
  | _ => true

def isLoamOp (op : Op) : Bool :=
  match op with
  | .loamAcquire | .loamRelease => true
  | _ => false

/-- Lanes and steps of a layout opcode (R554). -/
def layoutShape (op : Op) (d : Desc) : Nat × Nat :=
  let cols := d.dmaLength / d.elemBytes
  if op = .transpose then (d.dmaRows, cols) else (cols, d.dmaRows)

/-- LOAM_ACQUIRE and LOAM_RELEASE: SRC in tier 3, ROWS 1, every other field 0 (R195). -/
def loamBodyBad (d : Desc) : Bool :=
  decide (tierOf d.dmaSrc ≠ 3) || decide (d.dmaRows ≠ 1) || decide (field d 447 384 ≠ 0) || decide (field d 335 128 ≠ 0)

/-- A tier 4 address outside the forms of HOST_READ and HOST_WRITE (R144). A SRC that FILL and FILL_RANDOM do not use names nothing:
DESIGN CHOICE, log entry 82. -/
def hostFormBad (op : Op) (d : Desc) : Bool :=
  match op with
  | .hostRead => decide (tierOf d.dmaSrc ≠ 4) || decide (2 < tierOf d.dmaDst)
  | .hostWrite => decide (tierOf d.dmaDst ≠ 4) || decide (2 < tierOf d.dmaSrc)
  | _ => decide (tierOf d.dmaDst = 4) || (dmaUsesSrc op && decide (tierOf d.dmaSrc = 4))

/-- SUBOP and ELEM of FILL_RANDOM (R146). -/
def randomFormBad (op : Op) (d : Desc) : Bool :=
  decide (op = .fillRandom) && !([(0, 2), (1, 2), (2, 1), (2, 2)].contains (d.dmaSubop, d.dmaElem))

/-- Addresses and pitches that are not multiples of the element size (R148). A linear COPY uses no pitch, and one row
needs none. -/
def dmaMisaligned (op : Op) (d : Desc) : Bool :=
  let e := d.elemBytes
  let bad (a : Nat) : Bool := decide (a % e ≠ 0)
  let pitched := decide (op ≠ .copy) && decide (1 < d.dmaRows)
  bad (tierOff d.dmaDst) || (dmaUsesSrc op && bad (tierOff d.dmaSrc))
    || ((pitched || dmaLayout op) && bad d.dmaDstPitch)
    || (((pitched && dmaUsesSrc op) || decide (op = .gather)) && bad d.dmaSrcPitch)
    || (decide (op = .gather) && decide (d.dmaIdxAddr % 4 ≠ 0))
    || (dmaLayout op && (decide (tierOff d.dmaDst % 64 ≠ 0) || decide (d.dmaDstPitch % 64 ≠ 0)))

/-- The 0x02xx reasons of a DMA descriptor, in increasing code order, the shared ones apart. -/
def dmaReasons (op : Op) (d : Desc) : List (Nat × Bool) :=
  let bound := decide (d.dmaRows * d.dmaLength < 1) || decide (2 ^ 24 < d.dmaRows * d.dmaLength)
  if isLoamOp op then [(0x0203, loamBodyBad d), (0x0204, bound)]
  else
    [(0x0203, decide (field d 157 128 ≠ 0) || decide (3 < d.dmaElem) || (decide (op = .fillRandom) && decide (2 < d.dmaSubop))
        || decide (4 < tierOf d.dmaSrc) || decide (4 < tierOf d.dmaDst)),
     (0x0204, bound || (dmaElemental op && decide (d.dmaLength % dmaLogical op d ≠ 0))
        || (dmaLayout op && decide (d.dmaDstPitch < (layoutShape op d).2 * 128 * d.elemBytes))),
     (0x0205, dmaMisaligned op d),
     (0x0206, hostFormBad op d || randomFormBad op d)]

-- Sets (R151) --------------------

/-- Rows of `len` bytes, `pitch` apart. -/
def pitchedExts (t off pitch len rows : Nat) : List Ext := (List.range rows).map fun r => ⟨t, off + r * pitch, len⟩

/-- What a DMA command reads, but for the rows a GATHER names. -/
def dmaReadSet (op : Op) (d : Desc) : List Ext :=
  let t := tierOf d.dmaSrc
  let o := tierOff d.dmaSrc
  match op with
  | .copy => [⟨t, o, d.dmaRows * d.dmaLength⟩]
  | .fill | .fillRandom => []
  | .gather => [⟨scrTier d.dmaIdxAddr, scrOff d.dmaIdxAddr, 4 * d.dmaRows⟩]
  | .loamAcquire | .loamRelease => [⟨t, o, d.dmaLength⟩]
  | _ => pitchedExts t o d.dmaSrcPitch d.dmaLength d.dmaRows

/-- What a layout opcode writes (R554): absent lanes of the last panel are left. -/
def layoutExts (op : Op) (d : Desc) : List Ext :=
  let (lanes, steps) := layoutShape op d
  let w := d.elemBytes
  (List.range (ceilDiv lanes 128)).flatMap fun p =>
    (List.range steps).map fun k =>
      ⟨tierOf d.dmaDst, tierOff d.dmaDst + p * d.dmaDstPitch + k * 128 * w, min 128 (lanes - 128 * p) * w⟩

/-- What a DMA command writes. -/
def dmaWriteSet (op : Op) (d : Desc) : List Ext :=
  let t := tierOf d.dmaDst
  let o := tierOff d.dmaDst
  match op with
  | .copy => [⟨t, o, d.dmaRows * d.dmaLength⟩]
  | .loamAcquire | .loamRelease => []
  | .transpose | .toPanels => layoutExts op d
  | _ => pitchedExts t o d.dmaDstPitch d.dmaLength d.dmaRows

/-- The indices of a GATHER (R147). -/
def gatherIdx (rd : TierRead) (d : Desc) : List Nat :=
  (List.range d.dmaRows).map fun j => leNat (readRun rd (scrTier d.dmaIdxAddr) (scrOff d.dmaIdxAddr + 4 * j) 4)

/-- The source rows a GATHER names (R147). -/
def gatherExts (rd : TierRead) (d : Desc) : List Ext :=
  (gatherIdx rd d).map fun i => ⟨tierOf d.dmaSrc, tierOff d.dmaSrc + i * d.dmaSrcPitch, d.dmaLength⟩

-- What a DMA command writes --------------------

/-- One element of a FILL (R147). -/
def fillElem (d : Desc) : Bytes := (leBytes 4 d.dmaFval ++ leBytes 4 d.dmaFval2).take d.elemBytes

/-- One logical element of FILL_RANDOM (R146). -/
def randomElem (d : Desc) (seed step n : Nat) : Bytes :=
  match d.dmaSubop with
  | 0 => (List.range (d.dmaDrawsM1 + 1)).flatMap fun k => leBytes 4 (randomWord seed step n k)
  | 1 => leBytes 4 (fp32Code (uniformFl (randomWord seed step n 0)))
  | _ =>
    if (uniformFl (randomWord seed step n 0)).below (fmtFP32.decode d.dmaFval) then zeros d.elemBytes
    else if d.dmaElem = 1 then leBytes 2 (fmtBF16.encode false (fmtFP32.decode d.dmaFval2)).1
    else leBytes 4 (fp32Code (fmtFP32.decode d.dmaFval2))

/-- `n` copies of a run of bytes in a row. -/
def repeatBytes (n : Nat) (bs : Bytes) : Bytes := (List.replicate n bs).flatten

/-- Rows a copying opcode moves: (source offset, destination offset). -/
def rowMoves (d : Desc) : List (Nat × Nat) :=
  (List.range d.dmaRows).map fun r => (tierOff d.dmaSrc + r * d.dmaSrcPitch, tierOff d.dmaDst + r * d.dmaDstPitch)

/-- What a DMA command writes, from what it reads (R141, R144, R146, R147, R554). COPY is linear: with ROWS other than 1 it moves
ROWS × LENGTH bytes in a run and uses no pitch. DESIGN CHOICE, log entry 82. -/
def dmaRun (rd : TierRead) (op : Op) (d : Desc) (seed step : Nat) : List TierRun :=
  let st := tierOf d.dmaSrc
  let dt := tierOf d.dmaDst
  let w := d.elemBytes
  match op with
  | .copy => [⟨dt, tierOff d.dmaDst, readRun rd st (tierOff d.dmaSrc) (d.dmaRows * d.dmaLength)⟩]
  | .fill => (List.range d.dmaRows).map fun r =>
      ⟨dt, tierOff d.dmaDst + r * d.dmaDstPitch, repeatBytes (d.dmaLength / w) (fillElem d)⟩
  | .fillRandom =>
    let n := d.dmaLength / dmaLogical op d
    (List.range d.dmaRows).map fun r =>
      ⟨dt, tierOff d.dmaDst + r * d.dmaDstPitch, (List.range n).flatMap fun c => randomElem d seed step (r * n + c)⟩
  | .gather => (gatherExts rd d).zipIdx.map fun p =>
      ⟨dt, tierOff d.dmaDst + p.2 * d.dmaDstPitch, readRun rd st p.1.off d.dmaLength⟩
  | .transpose | .toPanels =>
    let (lanes, steps) := layoutShape op d
    (List.range lanes).flatMap fun l => (List.range steps).map fun k =>
      let (r, c) := if op = .transpose then (l, k) else (k, l)
      ⟨dt, tierOff d.dmaDst + l / 128 * d.dmaDstPitch + k * 128 * w + l % 128 * w,
        readRun rd st (tierOff d.dmaSrc + r * d.dmaSrcPitch + c * w) w⟩
  | .loamAcquire | .loamRelease => []
  | _ => (rowMoves d).map fun p => ⟨dt, p.2, readRun rd st p.1 d.dmaLength⟩

-- Fabric commands (R142, R148) --------------------

/-- Bytes per unit of LENGTH: 1 for loads and stores, the element for atomics. -/
def fabUnit (op : Op) : Nat := if op.isAtomic then op.atomBytes else 1

/-- Largest LENGTH (R148). -/
def fabBound (op : Op) : Nat :=
  match op with
  | .fload => 2 ^ 22
  | .fstore | .fstoreShared => 2 ^ 18
  | _ => 4096

/-- Alignment of FADDR and LOCAL (R148). -/
def fabAlign (op : Op) : Nat := if op.isAtomic then op.atomBytes else 64

/-- Local ranges a fabric command reads (R142). -/
def fabReadSet (op : Op) (d : Desc) : List Ext :=
  let l : Ext := ⟨tierOf d.fabLocal, tierOff d.fabLocal, d.fabLength * fabUnit op⟩
  match op with
  | .fload => []
  | .fcasI64 => [l, ⟨tierOf d.fabCmpLocal, tierOff d.fabCmpLocal, d.fabLength * 8⟩]
  | _ => [l]

/-- Local ranges a fabric command writes (R142). -/
def fabWriteSet (op : Op) (d : Desc) : List Ext :=
  match op with
  | .fload => [⟨tierOf d.fabLocal, tierOff d.fabLocal, d.fabLength⟩]
  | _ => if op.fetches then [⟨tierOf d.fabResultLocal, tierOff d.fabResultLocal, d.fabLength * 8⟩] else []

/-- The 0x02xx reasons of a fabric descriptor, the shared ones apart. A tier 3 address that the command would write is
left to 0x0304. -/
def fabReasons (op : Op) (d : Desc) : List (Nat × Bool) :=
  let sets := fabReadSet op d ++ fabWriteSet op d
  [(0x0203, decide (field d 511 497 ≠ 0) || decide (field d 223 128 ≠ 0)
      || (sets.any fun e => decide (4 < e.tier)) || ((fabReadSet op d).any fun e => decide (e.tier = 3))),
   (0x0204, decide (d.fabLength < 1) || decide (fabBound op < d.fabLength)),
   (0x0205, decide (d.fabFaddr % fabAlign op ≠ 0) || decide (tierOff d.fabLocal % fabAlign op ≠ 0)
      || (decide (op = .fcasI64) && decide (tierOff d.fabCmpLocal % 8 ≠ 0))
      || (op.fetches && decide (tierOff d.fabResultLocal % 8 ≠ 0))),
   (0x0206, sets.any fun e => decide (e.tier = 4))]

-- Hub commands (R143) --------------------

/-- The 0x02xx reasons of a hub descriptor, the shared ones apart. -/
def hubReasons (op : Op) (d : Desc) : List (Nat × Bool) :=
  match op with
  | .wait => [(0x0203, decide (field d 439 128 ≠ 0))]
  | .waitMem => [(0x0203, decide (field d 383 128 ≠ 0) || decide (4 < tierOf d.waitMemAddr)),
      (0x0205, decide (d.waitMemAddr % 8 ≠ 0))]
  | .setSeed => [(0x0203, decide (field d 383 128 ≠ 0))]
  | .readTime => [(0x0203, decide (field d 485 128 ≠ 0) || decide (7 < d.readTimeTb)), (0x0205, decide (d.readTimeDst % 16 ≠ 0))]
  | _ => [(0x0203, decide (field d 511 128 ≠ 0))]

def hubReadSet (op : Op) (d : Desc) : List Ext :=
  match op with
  | .waitMem => [⟨tierOf d.waitMemAddr, tierOff d.waitMemAddr, 8⟩]
  | _ => []

def hubWriteSet (op : Op) (d : Desc) : List Ext :=
  match op with
  | .readTime => [⟨0, d.readTimeDst, 16⟩]
  | _ => []

end Sys2Proof.Machine
end

