-- ==== Sys2Proof/Machine/Alloc.lean ====
section
/-! DEFINITION. Where allocations lie: radio regions, tenant space and the floor (R174 to R176), frames of stacked memory
(R179 to R182), hood areas (R181, R186), resident owners (R184), the loam map (R191) and a command's view of its tiers
(R135, R177). -/

namespace Sys2Proof.Machine

-- Free places --------------------

/-- Gaps (start, length) of [lo, hi) between used numbers, which rise. -/
def gaps : Nat → Nat → List Nat → List (Nat × Nat)
  | lo, hi, [] => [(lo, hi - lo)]
  | lo, hi, u :: us =>
    if u < lo then gaps lo hi us
    else if hi ≤ u then [(lo, hi - lo)]
    else (lo, u - lo) :: gaps (u + 1) hi us

/-- How many runs of `k` free numbers the gaps offer. -/
def gapStarts (k : Nat) : List (Nat × Nat) → Nat
  | [] => 0
  | (_, l) :: gs => (l + 1 - k) + gapStarts k gs

/-- The `n`-th of those runs. -/
def nthStart (k : Nat) : List (Nat × Nat) → Nat → Option Nat
  | [], _ => none
  | (a, l) :: gs, n => if n < l + 1 - k then some (a + n) else nthStart k gs (n - (l + 1 - k))

/-- Lowest run of `k`. -/
def lowStart (k : Nat) (gs : List (Nat × Nat)) : Option Nat := nthStart k gs 0

/-- Highest run of `k`. -/
def highStart (k : Nat) (gs : List (Nat × Nat)) : Option Nat :=
  if gapStarts k gs = 0 then none else nthStart k gs (gapStarts k gs - 1)

/-- A run of `k`, which one is left open. -/
def State.pickStart (s : State) (k : Nat) (gs : List (Nat × Nat)) : Option Nat × State :=
  let n := gapStarts k gs
  if n = 0 then (none, s) else (nthStart k gs (Config.pick s.free % n), { s with free := s.free + 1 })

-- Frames of stacked memory (R179, R182) --------------------

/-- Frame numbers of the interleaved zone that private regions, ledgers and overflowing hood areas may use: below the loam
pool, the buddy pool and the shadow buffer. -/
def State.openTop (s : State) : Nat :=
  s.zoneBytes / frameBytes - s.tier.loamFrames - s.tier.buddyFrames - s.tier.shadowFrames

/-- First frame of the loam pool (R182). -/
def State.loamBase (s : State) : Nat := s.zoneBytes / frameBytes - s.tier.loamFrames

/-- First frame of the buddy pool: below the loam pool. -/
def State.buddyBase (s : State) : Nat := s.loamBase - s.tier.buddyFrames

def State.usedFrames (s : State) : List Nat := s.tier.frames.map (·.1)

def State.setFrame (s : State) (f : Nat) (u : FrameUse) : State :=
  { s with tier := { s.tier with frames := s.tier.frames.put f u } }

/-- Free gaps of [lo, hi). -/
def State.frameGaps (s : State) (lo hi : Nat) : List (Nat × Nat) := gaps lo hi s.usedFrames

/-- Free frames of the interleaved zone outside its pools. -/
def State.openFree (s : State) : Nat := gapStarts 1 (s.frameGaps 0 s.openTop)

/-- The unit that holds a DPA, as UNIT_KIND and UNIT of R466 (R173, R179). -/
def State.dpaUnit (s : State) (a : Nat) : Nat × Nat :=
  let o := a - padBase
  if padBase ≤ a then
    if o % 2 ^ 26 < 2 ^ 25 then (2, o / 2 ^ 26 * 8 + o % 2 ^ 26 / 2 ^ 22) else (1, o / 2 ^ 26)
  else
    let fitted := bitsOf 12 s.build.stackMask
    let i := if a < s.zoneBytes then a / 4096 % fitted.length else (a - s.zoneBytes) / s.localBytes
    (3, fitted.getD i 0)

/-- First DPA and bytes of the protected word at a DPA: 32 B in stacked memory, 8 B in a scratchpad (R458). -/
def dpaWord (a : Nat) : Nat × Nat := if padBase ≤ a then (a / 8 * 8, 8) else (a / 32 * 32, 32)

/-- The record of a read that finds the uncorrectable word at DPA `a` (R461, R462). -/
def State.badRecord (s : State) (code severity a : Nat) (context : Nat := 0xFFFF) (job : Nat := 0) : State :=
  let (k, u) := s.dpaUnit a
  (s.bump .ueTotal).raise { s.record code severity k u with context, job, address := (dpaWord a).1 }

/-- The first uncorrectable word of a range, as a DPA. -/
def State.firstBad (s : State) (a n : Nat) : Nat :=
  match s.tier.badWords.find? fun w => overlap (8 * w) 8 a n with
  | some w => 8 * w
  | none => a

/-- Whether a range of bytes holds a word with an uncorrectable error. -/
def State.badIn (s : State) (a n : Nat) : Bool := s.tier.badWords.any fun w => overlap (8 * w) 8 a n

/-- Key of an uncorrectable context descriptor. -/
def badCtx (c : Nat) : Nat := 2 ^ 61 + c

def State.isBad (s : State) (w : Nat) : Bool := s.tier.badWords.contains w
def State.dropBad (s : State) (w : Nat) : State :=
  { s with tier := { s.tier with badWords := s.tier.badWords.filter (· ≠ w) } }

/-- Clears the bad words of a cleared range (R461). -/
def State.healRange (s : State) (a n : Nat) : State :=
  { s with tier := { s.tier with badWords := s.tier.badWords.filter fun w => !overlap (8 * w) 8 a n } }

/-- Retires the 64 KiB granules of a range (R461). -/
def State.retireGranules (s : State) (a n : Nat) : State :=
  let gs := (List.range (n / 65536)).map fun i => a / 65536 + i
  { s with tier := { s.tier with retired := s.tier.retired ++ gs.filter fun g => !s.tier.retired.contains g } }

/-- Frees bytes of a scratchpad: cleared, and a unit of `unit` bytes with an uncorrectable word is read back and may retire
(R461). Whether the read-back fails is a free value. -/
def State.freeUnits (s : State) (a unit : Nat) : Nat → State
  | 0 => s
  | k + 1 =>
    let s' := s.freeUnits a unit k
    let b := a + k * unit
    if s'.badIn b unit then
      let (f, s') := s'.draw Config.readBackFails
      if f then ((s'.clear b unit).retireGranules b unit).bump .unitsRetired
      else (s'.clear b unit).healRange b unit
    else s'.clear b unit

/-- Frees a frame of stacked memory, under the same rule. -/
def State.freeFrame (s : State) (f : Nat) : State :=
  let a := f * frameBytes
  if s.badIn a frameBytes then
    let (fails, s) := s.draw Config.readBackFails
    if fails then ((s.clear a frameBytes).setFrame f .retired).bump .unitsRetired
    else ((s.clear a frameBytes).healRange a frameBytes).setFrame f .free
  else (s.clear a frameBytes).setFrame f .free

-- An engine's private scratchpad (R174) --------------------

def granule : Nat := 65536

/-- The current or a pending tilth table names an engine for a window (R174). -/
def State.namedEngine (s : State) (e : Nat) : Bool :=
  s.tilth.copies.any fun c => c.binding.any fun (p : Nat × Nat) => decide (p.2 = e + 1)

/-- Bytes at the top of an engine's scratchpad that no tenant allocation is placed in: its radio region, and the one it is to
have (R174, R211). -/
def State.radioKeep (s : State) (e : Nat) : Nat :=
  if s.namedEngine e then max (s.tier.radioSp.get 0 e) (s.reg .radioSpBytes) else s.tier.radioSp.get 0 e

/-- The same for a die's shared scratchpad (R175). -/
def State.radioKeepShared (s : State) (die : Nat) : Nat :=
  if (List.range 8).any fun i => s.namedEngine (8 * die + i) then max (s.tier.radioShared.get 0 die) (s.reg .radioSharedBytes)
  else s.tier.radioShared.get 0 die

/-- T in granules: what the radio region leaves. -/
def State.tenantGranules (s : State) (e : Nat) : Nat := (2 ^ 22 - s.radioKeep e) / granule

/-- F of R174 in force on an engine, in granules. -/
def State.floorGranules (s : State) (e : Nat) : Nat :=
  let f := match s.tier.floors.get 0 e with
    | 0 => s.reg .lcFloorBytes
    | n + 1 => n
  min f (s.tenantGranules e * granule) / granule

/-- Contexts placed on an engine, rising. -/
def State.placedOn (s : State) (e : Nat) : List Nat :=
  s.ctxs.keysWhere fun _ x => x.live && decide (x.alloc.engine = some e)

/-- Contexts of class LC (or BE) placed on an engine. -/
def State.classOn (s : State) (e : Nat) (lc : Bool) : List Nat := (s.placedOn e).filter fun c => s.isLc c = lc

/-- Granules of a context's private allocation. -/
def Alloc.granules (a : Alloc) : List Nat := (List.range (a.privBytes / granule)).map (a.privBase / granule + ·)

/-- Retired granules of an engine's scratchpad. -/
def State.retiredGranules (s : State) (e : Nat) : List Nat :=
  (s.tier.retired.filter fun g => decide (privDpa e / granule ≤ g) && decide (g < privDpa e / granule + 64)).map
    (· - privDpa e / granule)

/-- Sorted, without repeats. -/
def sortNat (l : List Nat) : List Nat := (l.foldr (fun x (t : Tab Unit) => t.insert x ()) []).map (·.1)

/-- Granules of the temporary allocations of shadows that run on an engine (R475). -/
def State.shadowGranules (s : State) (e : Nat) : List Nat :=
  (s.faults.shadows.filter fun w => w.shadowEngine = some e).flatMap fun w =>
    (List.range (w.privBytes / granule)).map (w.privBase / granule + ·)

/-- Where a plan keeps place for a context: the engine, the first granule and the first shared unit (R175). -/
def Wanted.place (w : Wanted) : Option (Nat × Nat × Nat) :=
  match w.engine, w.spot with
  | some e, some p => some (e, p)
  | _, _ => none

/-- Granules that plans keep on an engine for contexts of a class other than `except` (R175). -/
def State.spotGranules (s : State) (e : Nat) (lc : Bool) (except : Nat) : List Nat :=
  (s.ctxs.filter fun (p : Nat × Ctx) => decide (p.1 ≠ except) && p.2.live && s.isLc p.1 == lc).flatMap fun p =>
    match p.2.wanted.place with
    | some (f, g, _) => if f = e then (List.range (p.2.alloc.privBytes / granule)).map (g + ·) else []
    | none => []

/-- Granules a new allocation of the class may not include. -/
def State.takenGranules (s : State) (e : Nat) (lc : Bool) (except : Nat) : List Nat :=
  sortNat (s.retiredGranules e ++ s.shadowGranules e ++ s.spotGranules e lc except ++
    ((s.classOn e lc).filter (· ≠ except)).flatMap fun c => (s.ctx c).alloc.granules)

/-- Where `n` granules of a class go on an engine (R174): LC lowest, BE highest at or above the floor. -/
def State.fitPriv (s : State) (e c n : Nat) : Option Nat :=
  if s.isLc c then lowStart n (gaps 0 (s.tenantGranules e) (s.takenGranules e true c))
  else
    let lo := min (max (s.floorGranules e) (s.reg .lcFloorBytes / granule)) (s.tenantGranules e)
    highStart n (gaps lo (s.tenantGranules e) (s.takenGranules e false c))

/-- Whether an LC allocation of `n` granules fits within the floor of an engine. -/
def State.fitFloor (s : State) (e c n : Nat) : Bool :=
  match s.fitPriv e c n with
  | some g => decide (g + n ≤ s.floorGranules e)
  | none => false

-- A die's shared scratchpad (R176) --------------------

def sharedUnit : Nat := 262144

/-- Contexts with a shared allocation on a die. -/
def State.sharedOn (s : State) (die : Nat) : List Nat :=
  s.ctxs.keysWhere fun _ x => x.live && decide (x.alloc.engine.map (· / 8) = some die) && decide (0 < x.alloc.sharedBytes)

/-- Units of the temporary allocations of shadows that run on a die (R475). -/
def State.shadowUnits (s : State) (die : Nat) : List Nat :=
  (s.faults.shadows.filter fun w => w.shadowEngine.map (· / 8) = some die).flatMap fun w =>
    (List.range (w.sharedBytes / sharedUnit)).map (w.sharedBase / sharedUnit + ·)

/-- Shared units that plans keep on a die for contexts other than `except` (R175). -/
def State.spotUnits (s : State) (die except : Nat) : List Nat :=
  (s.ctxs.filter fun (p : Nat × Ctx) => decide (p.1 ≠ except) && p.2.live).flatMap fun p =>
    match p.2.wanted.place with
    | some (f, _, h) => if f / 8 = die then (List.range (p.2.alloc.sharedBytes / sharedUnit)).map (h + ·) else []
    | none => []

/-- Units of 256 KiB that are taken on a die. -/
def State.takenShared (s : State) (die except : Nat) : List Nat :=
  sortNat ((s.tier.retired.filter fun g => decide (sharedDpa die / granule ≤ g) &&
      decide (g < sharedDpa die / granule + 512)).map (fun g => (g - sharedDpa die / granule) / 4) ++
    s.shadowUnits die ++ s.spotUnits die except ++
    ((s.sharedOn die).filter (· ≠ except)).flatMap fun c =>
      let a := (s.ctx c).alloc
      (List.range (a.sharedBytes / sharedUnit)).map (a.sharedBase / sharedUnit + ·))

/-- Free gaps of a die's shared scratchpad below its radio region. -/
def State.sharedGaps (s : State) (die except : Nat) : List (Nat × Nat) :=
  gaps 0 ((2 ^ 25 - s.radioKeepShared die) / sharedUnit) (s.takenShared die except)

-- Hood areas (R181, R186) --------------------

/-- The die's hood home stack (R181). -/
def State.hoodStack (s : State) (die : Nat) : Nat :=
  match die with
  | 4 => if bit s.build.stackMask 8 then 8 else 0
  | 7 => if bit s.build.stackMask 10 then 10 else 3
  | 8 => if bit s.build.stackMask 9 then 9 else 4
  | 11 => if bit s.build.stackMask 11 then 11 else 7
  | 5 => 1
  | 6 => 2
  | 9 => 5
  | 10 => 6
  | 12 => 4
  | 13 => 5
  | 14 => 6
  | 15 => 7
  | d => d

/-- Frames of a hood area (R186). -/
def hoodFrames (priv shared : Nat) : Nat := ceilDiv (0x3000 + priv + shared) frameBytes

/-- Frames of the local zone of a stack outside the radio region (R180). -/
def State.localFrames (s : State) (stack : Nat) : Nat × Nat :=
  let lo := s.localDpa stack / frameBytes
  let radio := if bit s.tier.radioStackMask stack then s.tier.radioStackBytes / frameBytes else 0
  (lo + radio, lo + s.localBytes / frameBytes)

/-- Gaps a hood area of the die may lie in: the home stack's local zone, else the interleaved zone (R181). -/
def State.hoodGaps (s : State) (die n : Nat) : List (Nat × Nat) :=
  let st := s.hoodStack die
  let z := s.localFrames st
  let g := s.frameGaps z.1 z.2
  if bit s.stackService st && decide (0 < gapStarts n g) then g else s.frameGaps 0 s.openTop

def State.hoodFits (s : State) (die n : Nat) : Bool := decide (0 < gapStarts n (s.hoodGaps die n))

/-- Image offset of granule `g` of a private allocation (R185, R187). -/
def imageGranule (g : Nat) : Nat := 0x3000 + g * granule

-- Which bytes of an engine's scratchpad a context's granules are (R184) --------------------

/-- Granules of context `c`, counted from its allocation's base, whose bytes lie in its hood area. -/
def State.isSpilled (s : State) (c g : Nat) : Bool := (s.ctx c).alloc.spilled.contains g

/-- DPA of byte `off` of a private allocation: its resident place or its copy in the hood area. -/
def State.privByte (s : State) (c off : Nat) : Option Nat :=
  let a := (s.ctx c).alloc
  match a.engine with
  | none => a.hood.map (· + 0x3000 + off)
  | some e => if s.isSpilled c (off / granule) then a.hood.map (· + 0x3000 + off) else some (privDpa e + a.privBase + off)

/-- DPA of byte `off` of a shared allocation. -/
def State.sharedByte (s : State) (c off : Nat) : Option Nat :=
  let a := (s.ctx c).alloc
  match a.engine with
  | none => a.hood.map (· + 0x3000 + a.privBytes + off)
  | some e => some (sharedDpa (e / 8) + a.sharedBase + off)

-- The loam map (R191, R192) --------------------

def entrySource (e : Nat) : Nat := field e 255 192
def entryPasid (e : Nat) : Nat := field e 191 172
def entryKind (e : Nat) : Nat := field e 171 170
def entryOrder (e : Nat) : Nat := field e 169 154
def entryLen (e : Nat) : Nat := field e 153 144 * 4096

def State.loamMap (s : State) (n : Nat) : LoamMap := s.tier.maps.at n

/-- The map copy that context `c`'s lookups use (R208). -/
def State.mapOf (s : State) (c : Nat) : Tab Nat :=
  match s.sliceOf c with
  | none => []
  | some n => if (s.ctx c).oldMap then (s.loamMap n).former else (s.loamMap n).entries

/-- The pool frame that holds page `p` of slice `n` under entry `e`. -/
def State.pageFrame (s : State) (n p e : Nat) : Option Nat :=
  (s.tier.pages.find? fun x => x.2.slice = n ∧ x.2.page = p ∧ x.2.entry = e).map (·.1)

/-- Pages a range of tier 3 touches (R195). -/
def pagesOf (off len : Nat) : List Nat :=
  if len = 0 then [] else (List.range ((off + len - 1) / frameBytes + 1 - off / frameBytes)).map (off / frameBytes + ·)

/-- Device addresses of bytes [lo, hi) of a page's source, as runs, where the source lies on this package: a KIND 2 source in the slice's
region, and a KIND 1 source whose package is this one (R192). -/
def State.sourceRuns (s : State) (n e lo hi : Nat) : List (Nat × Nat) :=
  let hi := min hi (entryLen e)
  if hi ≤ lo then []
  else match entryKind e with
    | 0 => []
    | 1 => if entrySource e / 2 ^ 41 = s.pkg then [(entrySource e % 2 ^ 41 + lo, hi - lo)] else []
    | _ => (pagesOf (entrySource e + lo) (hi - lo)).filterMap fun q =>
        let a := max (entrySource e + lo) (q * frameBytes)
        let b := min (entrySource e + hi) ((q + 1) * frameBytes)
        (s.regionDpa n a).map fun d => (d, b - a)

/-- A byte of a page from its source (R192, R196): host memory, a package's memory, or the slice's own region. A peer's bytes are free,
and the same whenever they are read (log entry 14). -/
def State.sourceByte (s : State) (n e i : Nat) : Byte :=
  if entryLen e ≤ i then 0
  else match entryKind e with
    | 0 => s.host.get 0 (hostKey (entryPasid e) (entrySource e + i))
    | 1 => if entrySource e / 2 ^ 41 = s.pkg then s.rd ((entrySource e + i) % 2 ^ 41) else Config.peerByte (entrySource e + i)
    | _ => match s.regionDpa n (entrySource e + i) with
      | some a => s.rd a
      | none => 0

/-- A byte of tier 3 (R196). -/
def State.loamByte (s : State) (n : Nat) (map : Tab Nat) (off : Nat) : Byte :=
  let p := off / frameBytes
  let e := map.get 0 p
  match s.pageFrame n p e with
  | some f => if s.badIn (f * frameBytes + off % frameBytes / 8 * 8) 8 then s.sourceByte n e (off % frameBytes)
    else s.rd (f * frameBytes + off % frameBytes)
  | none => s.sourceByte n e (off % frameBytes)

-- A command's view of its tiers (R135, R177) --------------------

/-- Radio queue commands address the radio regions of the engine bound to their logical engine (R279): base and size of
tiers 0 and 1. -/
structure RadioView where
  engine : Nat
  privBase : Nat
  privBytes : Nat
  sharedBase : Nat
  sharedBytes : Nat
  deriving DecidableEq, Repr

/-- The view of a radio engine. -/
def State.radioView (s : State) (e : Nat) : RadioView :=
  let p := s.tier.radioSp.get 0 e
  let h := s.tier.radioShared.get 0 (e / 8)
  ⟨e, privDpa e + (2 ^ 22 - p), p, sharedDpa (e / 8) + (2 ^ 25 - h), h⟩

/-- Whether a range lies within a context's allocation (R135, R177, R191). -/
def State.extIn (s : State) (c : Nat) (x : Ext) : Bool :=
  let a := (s.ctx c).alloc
  match x.tier with
  | 0 => decide (x.off + x.len ≤ a.privBytes)
  | 1 => decide (x.off + x.len ≤ a.sharedBytes)
  | 2 => match s.sliceOf c with
    | some n => decide (x.off + x.len ≤ min (s.tier.regions.get [] n).length (s.reg .privQuotaFrames n) * frameBytes)
    | none => false
  | 3 => (pagesOf x.off x.len).all fun p => decide (entryLen ((s.mapOf c).get 0 p) ≠ 0)
  | _ => decide (x.tier = 4)

/-- Device addresses of a range, as runs (DPA, length); none for tiers 3 and 4. -/
def State.extRuns (s : State) (c : Nat) (x : Ext) : List (Nat × Nat) :=
  let a := (s.ctx c).alloc
  if x.len = 0 then []
  else match x.tier, a.engine with
  | 0, some e => [(privDpa e + a.privBase + x.off, x.len)]
  | 1, some e => [(sharedDpa (e / 8) + a.sharedBase + x.off, x.len)]
  | 2, _ => match s.sliceOf c with
    | none => []
    | some n => (pagesOf x.off x.len).filterMap fun p =>
        let lo := max x.off (p * frameBytes)
        let hi := min (x.off + x.len) ((p + 1) * frameBytes)
        (s.regionDpa n lo).map fun d => (d, hi - lo)
  | _, _ => []

/-- Device addresses of a radio command's range. -/
def RadioView.runs (v : RadioView) (x : Ext) : List (Nat × Nat) :=
  if x.len = 0 then [] else if x.tier = 0 then [(v.privBase + x.off, x.len)] else [(v.sharedBase + x.off, x.len)]

/-- Whether two lists of runs share a byte. -/
def runsHit (xs ys : List (Nat × Nat)) : Bool := xs.any fun x => ys.any fun y => overlap x.1 x.2 y.1 y.2

/-- A byte that context `c`'s command reads. -/
def State.ctxByte (s : State) (c : Nat) : TierRead := fun t off =>
  match t with
  | 0 => match s.privByte c off with
    | some a => s.rd a
    | none => 0
  | 1 => match s.sharedByte c off with
    | some a => s.rd a
    | none => 0
  | 2 => match s.sliceOf c with
    | some n => match s.regionDpa n off with
      | some a => s.rd a
      | none => 0
    | none => 0
  | 3 => match s.sliceOf c with
    | some n => s.loamByte n (s.mapOf c) off
    | none => 0
  | _ => s.host.get 0 (hostKey (s.reg .ctxPasid c) off)

/-- Writes a byte of a context's own tiers. -/
def State.ctxPut (s : State) (c t off : Nat) (b : Byte) : State :=
  match t with
  | 0 => match s.privByte c off with
    | some a => s.wr a b
    | none => s
  | 1 => match s.sharedByte c off with
    | some a => s.wr a b
    | none => s
  | 2 => match s.sliceOf c with
    | some n => match s.regionDpa n off with
      | some a => s.wr a b
      | none => s
    | none => s
  | 4 => { s with host := s.host.set 0 (hostKey (s.reg .ctxPasid c) off) b }
  | _ => s

/-- Writes a run of bytes of a context's own tiers. -/
def State.ctxPutRun (s : State) (c t : Nat) : Nat → Bytes → State
  | _, [] => s
  | off, b :: bs => (s.ctxPut c t off b).ctxPutRun c t (off + 1) bs

/-- A byte a radio command reads or writes. -/
def RadioView.dpa (v : RadioView) (t off : Nat) : Nat := if t = 0 then v.privBase + off else v.sharedBase + off

end Sys2Proof.Machine
end

