-- ==== Sys2Proof/Machine/TilthTab.lean ====
section
/-! DEFINITION. The tilth table: entries and occurrences (R214 to R218), binding (R219), the checks of a commit (R223 to R225)
and what is reserved now and next (R222, R227, R230). -/

namespace Sys2Proof.Machine

-- Entries (R215) --------------------

def tilthValid (e : Nat) : Bool := bit e 127
def tilthTb (e : Nat) : Nat := field e 126 124
def tilthKind (e : Nat) : Nat := field e 123 120
def tilthUnit (e : Nat) : Nat := field e 119 113
def tilthBd (e : Nat) : Nat := field e 112 112
def tilthShare (e : Nat) : Nat := field e 111 104
def tilthCell (e : Nat) : Nat := field e 103 96
def tilthStart (e : Nat) : Nat := field e 95 72
def tilthLength (e : Nat) : Nat := field e 71 48
def tilthPeriod (e : Nat) : Nat := field e 47 24
def tilthRepeat (e : Nat) : Nat := field e 23 16

/-- The hyperperiod of a time base (R217), in ns. -/
def frameNs : Nat := 10 ^ 7

/-- Occurrences of an entry as (start, end), in ns after the frame boundary (R215). -/
def occurrences (e : Nat) : List (Nat × Nat) :=
  (List.range (tilthRepeat e)).map fun i =>
    (tilthStart e + i * tilthPeriod e, tilthStart e + i * tilthPeriod e + tilthLength e)

/-- R215, R216: a field out of range, a reserved bit, a stack that is not fitted, or an occurrence that leaves the frame. -/
def entryBad (stackMask e : Nat) : Bool :=
  let k := tilthKind e
  let u := tilthUnit e
  !tilthValid e || decide (3 < k) || decide (field e 15 0 ≠ 0)
    || (decide (k = 1) && decide (95 < u)) || (decide (k = 2) && (decide (11 < u) || !bit stackMask u))
    || (decide (k = 3) && decide (u ≠ 0)) || (decide (k ≠ 0) && decide (tilthBd e ≠ 0))
    || (decide (k ≤ 1) && decide (tilthShare e ≠ 0)) || (decide (2 ≤ k) && decide (tilthShare e = 0))
    || decide (tilthLength e = 0) || decide (frameNs < tilthLength e) || decide (tilthRepeat e = 0)
    || (decide (1 < tilthRepeat e) && decide (tilthPeriod e < tilthLength e))
    || ((occurrences e).any fun o => decide (frameNs < o.2))

/-- Entry `i` of a shadow copy's bytes, after the 16-byte header (R214). -/
def State.shadowEntry (s : State) (i : Nat) : Nat := leNat (s.tilth.shadow.run 0 (16 + 16 * i) 16)

/-- The shadow header. -/
def State.shadowHeader (s : State) : Nat := leNat (s.tilth.shadow.run 0 0 16)

/-- Entries the shadow header counts. -/
def State.shadowEntries (s : State) : List Nat := (List.range (field s.shadowHeader 15 0)).map s.shadowEntry

/-- TILTH_SHADOW_DIGEST (R221): zeros until the shadow is loaded (R245). -/
def State.shadowDigest (s : State) : Bytes :=
  if s.tilth.loaded then sha512 (s.tilth.shadow.run 0 0 (16 + 16 * field s.shadowHeader 15 0)) else zeros 64

/-- FORMAT of R223. -/
def State.tilthFormatBad (s : State) : Bool :=
  let n := field s.shadowHeader 15 0
  decide (s.shadowHeader ≥ 2 ^ 16) || decide (n = 0) || decide (4096 < n)
    || s.shadowEntries.any (entryBad s.build.stackMask)

/-- Whether two occurrences overlap. -/
def occHit (xs ys : List (Nat × Nat)) : Bool := xs.any fun x => ys.any fun y => decide (x.1 < y.2) && decide (y.1 < x.2)

/-- Same exclusive unit (KIND 0 or 1). -/
def sameUnit (a b : Nat) : Bool :=
  decide (tilthKind a ≤ 1) && decide (tilthKind a = tilthKind b) && decide (tilthUnit a = tilthUnit b)

/-- OVERLAP of R223: two occurrences, of one entry or of two, on one logical engine or core. -/
def tilthOverlap : List Nat → Bool
  | [] => false
  | e :: es => (es.any fun f => sameUnit e f && decide (tilthTb e = tilthTb f) && occHit (occurrences e) (occurrences f))
      || tilthOverlap es

/-- BINDING of R218. -/
def tilthBindingBad (es : List Nat) : Bool :=
  es.any fun a => es.any fun b => sameUnit a b &&
    (decide (tilthTb a ≠ tilthTb b) || (decide (tilthKind a = 0) && decide (tilthBd a ≠ tilthBd b)))

/-- The logical engines a table names, rising. -/
def tilthLogicals (es : List Nat) : List Nat := sortNat ((es.filter fun e => tilthKind e = 0).map tilthUnit)

/-- Die order of R219. -/
def bindDies (bd : Nat) : List Nat :=
  let first := if bd = 0 then [4, 8, 0, 5, 9, 12] else [7, 11, 3, 6, 10, 15]
  first ++ (List.range 16).filter fun d => !first.contains d

/-- R219: each logical engine takes the first engine in order that is in service and not yet bound; unbound when none is
left. -/
def State.bindLogicals (s : State) (es : List Nat) : List Nat → Tab Nat → Tab Nat
  | [], t => t
  | l :: ls, t =>
    let bd := match es.find? fun e => tilthKind e = 0 ∧ tilthUnit e = l with
      | some e => tilthBd e
      | none => 0
    let order := (bindDies bd).flatMap fun d => (List.range 8).map (8 * d + ·)
    let taken := t.map (·.2)
    match order.find? fun e => s.meInService e && !taken.contains (e + 1) with
    | some e => s.bindLogicals es ls (t.insert l (e + 1))
    | none => s.bindLogicals es ls t

def State.bindTable (s : State) (es : List Nat) : Tab Nat := s.bindLogicals es (tilthLogicals es) []

-- Bandwidth and power (R224, R225) --------------------

/-- Largest sum of `w` over the entries of a list that are current at one instant. -/
def peakOf (es : List Nat) (w : Nat → Nat) : Nat :=
  let instants := es.flatMap fun e => (occurrences e).map (·.1)
  (instants.map fun t =>
    (es.map fun e => ((occurrences e).filter fun o => decide (o.1 ≤ t) && decide (t < o.2)).length * w e).sum).foldl max 0

/-- R_u of R224 for a unit of KIND 2 or 3. -/
def shareOf (es : List Nat) (kind unit : Nat) : Nat :=
  ((List.range 8).map fun t =>
    peakOf (es.filter fun e => tilthTb e = t ∧ tilthKind e = kind ∧ tilthUnit e = unit) tilthShare).sum

/-- Shares of sealed slices: of every stack, and of the mesh (R391). -/
def State.sealedStackShare (s : State) : Nat := (((List.range 64).filter s.sealed).map s.sealStack).sum
def State.sealedMeshShare (s : State) : Nat := (((List.range 64).filter s.sealed).map s.sealMesh).sum

/-- R224 holds for a table with the sealed shares given. -/
def bandwidthOk (stackMask : Nat) (es : List Nat) (stack mesh : Nat) : Bool :=
  ((bitsOf 12 stackMask).all fun u => decide (shareOf es 2 u + stack ≤ 192)) && decide (shareOf es 3 0 + mesh ≤ 192)

/-- E of R225. -/
def enginesAtOnce (es : List Nat) : Nat :=
  ((List.range 8).map fun t => peakOf (es.filter fun e => tilthTb e = t ∧ tilthKind e = 0) fun _ => 1).sum

/-- P_adm of R225 in 1/256 mW. -/
def State.padm256 (s : State) (es : List Nat) : Nat :=
  256 * (320000 + 70000 * (popCount 16 (s.build.dflt .fabricPortMask) / 4) + 1000 * s.reg .admitIdleW + 9060 * enginesAtOnce es)
    + 45000 * ((List.range 12).map (shareOf es 2 ·)).sum

/-- P_adm rounded up to a whole mW. -/
def State.padmMw (s : State) (es : List Nat) : Nat := ceilDiv (s.padm256 es) 256

-- Copies (R207, R222) --------------------

/-- The copy in use for time base `t`. -/
def State.tilthNow (s : State) (t : Nat) : Option TilthCopy := s.tilth.copies[s.tilth.position.get 0 t]?

/-- Copies at the front of a list that may become current at CK cycle `ck`: prepared, and accepted 20 µs before (R222). -/
def readyRun (ck : Nat) : List TilthCopy → Nat
  | [] => 0
  | c :: cs => if c.ready && decide (c.acceptedCk + 16500 ≤ ck) then readyRun ck cs + 1 else 0

/-- The copy that time base `t` switches to at a frame boundary in CK cycle `ck`, by position (R220, R222). -/
def State.tilthTarget (s : State) (t ck : Nat) : Nat :=
  let p := s.tilth.position.get 0 t
  p + readyRun ck (s.tilth.copies.drop (p + 1))

/-- Entries of time base `t` in a copy. -/
def TilthCopy.of (c : TilthCopy) (t : Nat) : List Nat := c.entries.filter fun e => tilthTb e = t

/-- Entries of time base `t` that are current. -/
def State.tilthEntries (s : State) (t : Nat) : List Nat := match s.tilthNow t with
  | some c => c.of t
  | none => []

/-- Whether the current or a pending copy names time base `t` (R318, R322). -/
def State.tilthNames (s : State) (t : Nat) : Bool := s.tilth.copies.any fun c => !(c.of t).isEmpty

/-- The engine a copy binds to a logical engine. -/
def TilthCopy.engineOf (c : TilthCopy) (l : Nat) : Option Nat :=
  match c.binding.get 0 l with
  | 0 => none
  | n + 1 => some n

/-- Whether a copy binds engine `e`. -/
def TilthCopy.binds (c : TilthCopy) (e : Nat) : Bool := c.binding.any fun p => p.2 = e + 1

/-- Bound in the current or a pending copy (R242, R391). -/
def State.engineBound (s : State) (e : Nat) : Bool := s.tilth.copies.any fun c => c.binds e

/-- Position within the radio frame of time base `t`, in ns (R322). -/
def State.inFrameAt (s : State) (t ns : Nat) : Nat := (((ns : Int) - s.reg .frameOffsetNs t) % frameNs).toNat
def State.inFrame (s : State) (t : Nat) : Nat := s.inFrameAt t (s.ns t)

/-- An occurrence of an entry is current. -/
def State.entryCurrent (s : State) (e : Nat) : Bool :=
  let now := s.inFrame (tilthTb e)
  (occurrences e).any fun o => decide (o.1 ≤ now) && decide (now < o.2)

/-- An entry of a logical engine, which gives its time base and BD: while copies of two time bases name it (R222), one whose occurrence is
current. -/
def State.logicalEntry (s : State) (l : Nat) : Option Nat :=
  let es := ((List.range 8).flatMap s.tilthEntries).filter fun e => tilthKind e = 0 ∧ tilthUnit e = l
  match es.find? s.entryCurrent with
  | some e => some e
  | none => es.head?

/-- Engine that the copy of time base `t` binds to a logical engine. -/
def State.engineFor (s : State) (t l : Nat) : Option Nat :=
  match s.tilthNow t with
  | some c => c.engineOf l
  | none => none

/-- Engine bound to a logical engine now (R219). -/
def State.logicalEngine (s : State) (l : Nat) : Option Nat :=
  match s.logicalEntry l with
  | some e => s.engineFor (tilthTb e) l
  | none => none

/-- SFN of a time base now (R322). -/
def State.sfnAt (s : State) (t ns : Nat) : Nat := (((ns : Int) - s.reg .frameOffsetNs t) / frameNs % 1024).toNat
def State.sfnNow (s : State) (t : Nat) : Nat := s.sfnAt t (s.ns t)

/-- A slot of subcarrier spacing code μ, in ns. -/
def slotNs (mu : Nat) : Nat := 1000000 / 2 ^ mu

/-- Number of a slot among those of 1 024 frames. -/
def slotCount (mu sfn slot : Nat) : Nat := sfn * (10 * 2 ^ mu) + slot

/-- Number of the slot of a cell in which NS64 `ns` of its time base lies. -/
def State.slotNumber (s : State) (cell ns : Nat) : Nat :=
  let t := s.cellTb cell
  let mu := s.cellScs cell
  slotCount mu (s.sfnAt t ns) (s.inFrameAt t ns / slotNs mu)

/-- Slots from the one under way in a cell to the one in which `ns` lies; 0 where none has begun. -/
def State.slotsAhead (s : State) (cell ns : Nat) : Int :=
  let x := s.cell cell
  let mu := s.cellScs cell
  let m := 10240 * 2 ^ mu
  let d := (s.slotNumber cell ns + m - slotCount mu x.sfn x.slot) % m
  if !x.begun then 0 else if d < m / 2 then (d : Int) else (d : Int) - m

/-- Entries of a copy on engine `e` for time base `t`. -/
def TilthCopy.onEngine (c : TilthCopy) (t e : Nat) : List Nat :=
  (c.of t).filter fun x => tilthKind x = 0 && decide (c.binding.get 0 (tilthUnit x) = e + 1)

/-- An occurrence of KIND 0 is current on engine `e` (R230). -/
def State.windowNow (s : State) (e : Nat) : Bool :=
  (List.range 8).any fun t => match s.tilthNow t with
    | some c => (c.onEngine t e).any fun x => (occurrences x).any fun o =>
        decide (o.1 ≤ s.inFrame t) && decide (s.inFrame t < o.2)
    | none => false

/-- Earliest of a list. -/
def minOf : List Nat → Option Nat
  | [] => none
  | x :: xs => some (xs.foldl min x)

/-- ns from now to the start of the earliest occurrence on engine `e` under time base `t` after now: in this frame under the
current copy, then in the next frame under the copy that will be current there (R230). -/
def State.nextStart (s : State) (t e : Nat) : Option Nat :=
  let now := s.inFrame t
  let starts (c : Option TilthCopy) : List Nat := match c with
    | some c => (c.onEngine t e).flatMap fun x => (occurrences x).map (·.1)
    | none => []
  let here := ((starts (s.tilthNow t)).filter fun x => now < x).map (· - now)
  let next := s.tilth.copies[s.tilthTarget t (s.ck + (frameNs - now) * 33 / 40)]?
  minOf (here ++ (starts next).map fun x => frameNs - now + x)

/-- ns to the next window on engine `e`, of any time base. -/
def State.nextWindow (s : State) (e : Nat) : Option Nat := minOf ((List.range 8).filterMap fun t => s.nextStart t e)

/-- The count bound of R229 in ns. -/
def countBound (n : Nat) : Nat := ceilDiv ((256 + n) * 304) 1000

/-- BRIM_NS (R230). -/
def brimNs : Nat := 2000

/-- R230 for a tenant command of count `n` on engine `e`. -/
def State.startRule (s : State) (e n : Nat) : Bool :=
  !s.windowNow e && match s.nextWindow e with
    | none => true
    | some w => decide (countBound n + brimNs ≤ w)

/-- The NS64 at which the occurrence that is current on engine `e` began. -/
def State.currentStart (s : State) (e : Nat) : Option Nat :=
  (List.range 8).findSome? fun t => match s.tilthNow t with
    | some c =>
      let now := s.inFrame t
      (((c.onEngine t e).flatMap occurrences).find? fun o => decide (o.1 ≤ now) && decide (now < o.2)).map fun o =>
        (s.ns t + 2 ^ 64 - (now - o.1)) % 2 ^ 64
    | none => none

/-- The window before which R230 refuses a command, by the NS64 of its start: the one that is current, else the next (R245). -/
def State.deniedBefore (s : State) (e : Nat) : Nat :=
  match s.currentStart e with
  | some w => w
  | none => (minOf ((List.range 8).filterMap fun t => (s.nextStart t e).map fun d => (s.ns t + d) % 2 ^ 64)).getD 0

end Sys2Proof.Machine
end

