-- ==== Sys2Proof/Machine/Mesh.lean ====
section
/-! DEFINITION. The mesh of compute dies: what attaches to which die (R12, R13), the route tables (R14, R20, R210), and which units a
lost link or router cuts off (R19, R20, R463). -/

namespace Sys2Proof.Machine

-- Dies and links (R12, R13) --------------------

/-- Column and row of compute die `d`. -/
def dieX (d : Nat) : Nat := d % 4
def dieY (d : Nat) : Nat := d / 4

/-- The mesh neighbours of a compute die. -/
def meshNeighbours (d : Nat) : List Nat :=
  (if dieX d = 0 then [] else [d - 1]) ++ (if dieX d = 3 then [] else [d + 1]) ++ (if dieY d = 0 then [] else [d - 4]) ++
    (if dieY d = 3 then [] else [d + 4])

/-- The number of the mesh link between two neighbours: 3 × row + column of the left one along rows, then 12 + the upper die along
columns. DESIGN CHOICE, log entry 75. -/
def meshLink (a b : Nat) : Nat :=
  let u := min a b
  if dieY a = dieY b then 3 * dieY u + dieX u else 12 + u

/-- Compute dies to which fabric I/O die `n` attaches. -/
def xdDies (n : Nat) : List Nat := [[0, 1], [2, 3], [12, 13], [14, 15]].getD n []

/-- Compute dies to which baseband die `n` attaches. -/
def bdDies (n : Nat) : List Nat := [[4, 8], [7, 11]].getD n []

/-- Compute dies to which the hub die attaches. -/
def hdDies : List Nat := [5, 6, 9, 10]

/-- The die-to-die links in the order of R13, within a row by the number of the die: 24 mesh, 12 stacks, 8 XD to CD, 4 BD to CD, 2 FD
to its own BD, 2 FD to the other, 4 HD to CD, 2 HD to BD, and the control links of CD0 to CD15, BD0, BD1, XD0 to XD3, FD0 and FD1.
DESIGN CHOICE, log entry 75. -/
def linkCount : Nat := 82

/-- The fabric I/O die is fitted (R7, R19). -/
def State.xdFitted (s : State) (n : Nat) : Bool := decide (n < 4) && bit (s.build.dflt .fabricPortMask) (4 * n)

/-- A link of this part: those of units that are not fitted are absent (R19). -/
def State.linkExists (s : State) (n : Nat) : Bool :=
  if 24 ≤ n ∧ n < 36 then bit s.build.stackMask (n - 24)
  else if 36 ≤ n ∧ n < 44 then s.xdFitted ((n - 36) / 2)
  else if 76 ≤ n ∧ n < 80 then s.xdFitted (n - 76)
  else decide (n < linkCount)

def State.linkUp (s : State) (n : Nat) : Bool := s.linkExists n && !s.faults.linksOut.contains n

def State.routerUp (s : State) (d : Nat) : Bool := decide (d < 16) && !bit s.faults.routerOut d

-- Route tables (R14, R20) --------------------

/-- Two neighbours can exchange packets. -/
def State.hopUp (s : State) (a b : Nat) : Bool := s.routerUp a && s.routerUp b && s.linkUp (meshLink a b)

/-- The next die on the way to `d`: along X first, then along Y (R14). -/
def xyNext (r d : Nat) : Nat :=
  if dieX r < dieX d then r + 1 else if dieX d < dieX r then r - 1
  else if dieY r < dieY d then r + 4 else if dieY d < dieY r then r - 4 else r

/-- Every hop of that way can be used. -/
def State.xyClear (s : State) : Nat → Nat → Nat → Bool
  | 0, r, d => decide (r = d)
  | k + 1, r, d => decide (r = d) || (s.hopUp r (xyNext r d) && s.xyClear k (xyNext r d) d)

/-- Distances to a die as 1 + hops, grown one hop at a time. -/
def State.spread (s : State) : Nat → Tab Nat → Tab Nat
  | 0, t => t
  | k + 1, t =>
    let next := (List.range 16).filter fun r => decide (t.get 0 r = 0) &&
      (meshNeighbours r).any fun q => decide (t.get 0 q ≠ 0) && s.hopUp r q
    let far := (t.map (·.2)).foldl max 0 + 1
    if next = [] then t else s.spread k (next.foldl (fun t r => t.insert r far) t)

def State.distances (s : State) (d : Nat) : Tab Nat := if s.routerUp d then s.spread 16 [(d, 1)] else []

/-- Route of packets at router `r` for die `d`, as 1 + the next die: by X then Y where that way is whole, else by one of the shortest
ways, which one is left open. -/
def State.routeOf (s : State) (dist : Tab Nat) (r d : Nat) : Nat × State :=
  if r = d ∨ dist.get 0 r = 0 then (0, s)
  else if s.xyClear 8 r d then (xyNext r d + 1, s)
  else
    match s.choose ((meshNeighbours r).filter fun q => s.hopUp r q && decide (dist.get 0 q + 1 = dist.get 0 r)) with
    | (some q, s) => (q + 1, s)
    | (none, s) => (0, s)

/-- Route tables that avoid what is out, keyed 16 × router + destination (R14, R20). -/
def State.routeTables (s : State) : Tab Nat × State :=
  (List.range 16).foldl (fun q d =>
    let dist := s.distances d
    (List.range 16).foldl (fun q r =>
      let (v, s) := q.2.routeOf dist r d
      (q.1.set 0 (16 * r + d) v, s)) q) ([], s)

/-- The dies that a packet passes from one die to another under a table. -/
def meshPath (t : Tab Nat) : Nat → Nat → Nat → List Nat
  | 0, r, _ => [r]
  | k + 1, r, d =>
    match t.get 0 (16 * r + d) with
    | 0 => [r]
    | n + 1 => r :: meshPath t k n d

/-- The path of packets from one die to another: a function of both and of the current tables (R14). -/
def State.path (s : State) (src dst : Nat) : List Nat := meshPath s.mesh.routes 16 src dst

/-- The tables loaded at start (R14). -/
def State.startRoutes (s : State) : State :=
  let (t, s) := s.routeTables
  { s with mesh := { routes := t, next := none } }

-- Switching (R208, R210) --------------------

/-- ns to the starts of a time base's occurrences, of any kind, that the copies reserve from now on. -/
def State.startsAhead (s : State) (t : Nat) : List Nat :=
  let now := s.inFrame t
  let starts (c : Option TilthCopy) : List Nat := match c with
    | some c => (c.of t).flatMap fun x => (occurrences x).map (·.1)
    | none => []
  let next := s.tilth.copies[s.tilthTarget t (s.ck + (frameNs - now) * 33 / 40)]?
  ((starts (s.tilthNow t)).filter fun x => now ≤ x).map (· - now) ++ (starts next).map fun x => frameNs - now + x

/-- A reserved window begins within the next 2 µs. -/
def State.windowSoon (s : State) : Bool := (List.range 8).any fun t => (s.startsAhead t).any fun d => decide (d ≤ 2000)

/-- Loaded tables become current in every router together, once no reserved window begins within 2 µs; the former ones are the
shadow's. Packets are moved within a command's effect, so that none is in flight at a switch (log entry 75). -/
def State.meshSettle (s : State) : State :=
  match s.mesh.next with
  | some t => if s.windowSoon then s else { s with mesh := { routes := t, next := none } }.bump .meshRouteEpoch
  | none => s

/-- The hub loads route tables that avoid what is out. -/
def State.meshSwitch (s : State) : State :=
  let (t, s) := s.routeTables
  { s with mesh := { s.mesh with next := some t } }.meshSettle

-- Cut-off units (R20, R463) --------------------

/-- The data links of a unit, each with the router at its far end where it has one. -/
def dataLinks (u : UnitId) : List (Nat × Option Nat) :=
  match u with
  | .cd n => (meshNeighbours n).map fun q => (meshLink n q, some q)
  | .xd n => ((xdDies n).zipIdx).map fun p => (36 + 2 * n + p.2, some p.1)
  | .bd n => ((bdDies n).zipIdx).map fun p => (44 + 2 * n + p.2, some p.1)
  | .fd n => [(48 + n, none), (50 + n, none)]
  | .stack n => [(24 + n, none)]
  | _ => []

/-- The control link of a die. -/
def controlLink (u : UnitId) : Option Nat :=
  match u with
  | .cd n => some (58 + n)
  | .bd n => some (74 + n)
  | .xd n => some (76 + n)
  | .fd n => some (80 + n)
  | _ => none

/-- No data link of the unit reaches a working router, or its control link is down. -/
def State.cutOff (s : State) (u : UnitId) : Bool :=
  ((dataLinks u).all fun l => !s.linkUp l.1 || match l.2 with
    | some d => !s.routerUp d
    | none => false) ||
  match controlLink u with
    | some l => !s.linkUp l
    | none => false

/-- The dies and stacks that links connect, compute dies first. -/
def linkedUnits : List UnitId :=
  (List.range 16).map .cd ++ (List.range 12).map .stack ++ (List.range 4).map .xd ++ (List.range 2).map .bd ++ (List.range 2).map .fd

end Sys2Proof.Machine
end

