-- ==== Sys2Proof/Machine/Coding.lean ====
section
/-! DEFINITION. What the coding and FFT engines compute (R264, R267 to R270). The manual leaves the code itself to TS 38.212: its CRC
polynomials, rate matching and code construction are PRESUMED from that standard, log entry 19, and its tables (shift coefficients, polar
sequence, input interleaver) are free values, as are the precisions that neither text gives. -/

namespace Sys2Proof.Machine

-- Bits (R264) --------------------

/-- Bits of bytes, the first in bit 0 of the first byte. -/
def bitList (bs : Bytes) : List Bool := bs.flatMap fun b => (List.range 8).map fun i => b.toNat.testBit i

/-- Up to eight bits as a byte. -/
def bitsByte : List Bool → Nat
  | [] => 0
  | b :: bs => (if b then 1 else 0) + 2 * bitsByte bs

/-- Bits packed into bytes, `n` bytes at most. -/
def packBits : Nat → List Bool → Bytes
  | 0, _ => []
  | _ + 1, [] => []
  | n + 1, bs => BitVec.ofNat 8 (bitsByte (bs.take 8)) :: packBits n (bs.drop 8)

/-- Exclusive or of two blocks. -/
def xorBits (a b : List Bool) : List Bool := (a.zip b).map fun p => p.1 != p.2

-- CRC (R264; TS 38.212 5.1) --------------------

/-- Length and polynomial, without its highest term, of a CRC code of R264. -/
def crcPoly (c : Nat) : Nat × Nat :=
  match c with
  | 1 => (24, 0x864CFB)
  | 2 => (24, 0x800063)
  | 3 => (24, 0xB2B117)
  | 4 => (16, 0x1021)
  | 5 => (11, 0x621)
  | 6 => (6, 0x21)
  | _ => (0, 0)

def crcLen (c : Nat) : Nat := (crcPoly c).1

/-- The register after the bits, most significant first, from 0. -/
def crcRun (len poly : Nat) (bs : List Bool) : Nat :=
  bs.foldl (fun r b =>
    let top := r.testBit (len - 1) != b
    let r := r * 2 % 2 ^ len
    if top then r ^^^ poly else r) 0

/-- The parity bits of a block, highest power first. -/
def crcBits (c : Nat) (bs : List Bool) : List Bool :=
  let (len, poly) := crcPoly c
  let r := crcRun len poly bs
  (List.range len).map fun i => r.testBit (len - 1 - i)

/-- A block and its parity bits pass. -/
def crcPasses (c : Nat) (bs : List Bool) : Bool :=
  let n := bs.length - crcLen c
  decide (crcBits c (bs.take n) = bs.drop n)

/-- A block of `k` bits with its parity bits attached: the job's input holds the bits before them. -/
def crcAttach (c k : Nat) (bs : List Bool) : List Bool :=
  let u := bs.take (k - crcLen c)
  u ++ crcBits c u

-- LDPC: dimensions and tables (R267, R268; TS 38.212 5.2.2, 5.3.2) --------------------

/-- Information columns and rows of a base graph. -/
def ldpcKb (bg : Nat) : Nat := if bg = 0 then 22 else 10
def ldpcRows (bg : Nat) : Nat := if bg = 0 then 46 else 42

/-- Bits of the circular buffer: every column but the first two. -/
def ldpcN (bg z : Nat) : Nat := (if bg = 0 then 66 else 50) * z

/-- The lifting-size set of Z: by its odd factor, 2 for a power of two. -/
def liftingSet (z : Nat) : Nat :=
  let odd := (List.range 9).foldl (fun n _ => if n % 2 = 0 then n / 2 else n) z
  match [1, 3, 5, 7, 9, 11, 13, 15].idxOf? odd with
  | some i => i
  | none => 0

/-- Layers that a decoder processes (L of R267). -/
def ldpcLayers (bg z e : Nat) : Nat := min (ldpcRows bg) (max 4 (ceilDiv e z + 2 - ldpcKb bg))

/-- Order of the layers of entry `k` of a base-graph set: its first 46 or 42 bytes (R268). -/
def ldpcOrder (set : Bytes) (k : Nat) : List Nat := ((slice set (48 * k) 48).take (if k < 8 then 46 else 42)).map (·.toNat)

/-- Normalisation factor of entry `k`, in 1/256: its last two bytes. -/
def ldpcFactor (set : Bytes) (k : Nat) : Nat := leAt set (48 * k + 46) 2

/-- The entries of row `r` of a base graph among its first `cols` columns: column and shift. -/
def ldpcEdges (bg z r cols : Nat) : List (Nat × Nat) :=
  (List.range cols).filterMap fun c => (Config.ldpcShift bg (liftingSet z) r c).map fun v => (c, v % z)

/-- A block rotated left. -/
def rotL {α : Type} (n : Nat) (l : List α) : List α := l.drop n ++ l.take n

/-- A block rotated right. -/
def rotR {α : Type} (n : Nat) (l : List α) : List α := rotL (l.length - n) l

/-- Blocks of `z` bits. -/
def blocks {α : Type} (z : Nat) : Nat → List α → List (List α)
  | 0, _ => []
  | n + 1, l => l.take z :: blocks z n (l.drop z)

-- LDPC: rate matching (R264; TS 38.212 5.4.2) --------------------

/-- Where in the circular buffer a redundancy version starts. -/
def rvStart (bg z rv : Nat) : Nat :=
  (match bg, rv with
    | 0, 1 => 17
    | 0, 2 => 33
    | 0, 3 => 56
    | _, 1 => 13
    | _, 2 => 25
    | _, 3 => 43
    | _, _ => 0) * z

/-- Whether position `i` of the circular buffer holds a filler bit, with `k` bits of information. -/
def isFiller (bg z k i : Nat) : Bool := decide (k - 2 * z ≤ i) && decide (i < (ldpcKb bg - 2) * z)

/-- Positions of the circular buffer that are sent, from the start of a redundancy version on. -/
def sentFrom (bg z k rv : Nat) : List Nat := (rotL (rvStart bg z rv) (List.range (ldpcN bg z))).filter fun i => !isFiller bg z k i

/-- The first `n` elements of a list repeated without end. -/
def cycleTake {α : Type} (l : List α) : Nat → Nat → List α
  | _, 0 => []
  | 0, _ => []
  | fuel + 1, n => if n ≤ l.length then l.take n else l ++ cycleTake l fuel (n - l.length)

/-- Bits per symbol of a QM code. -/
def qmBits (c : Nat) : Nat := [1, 2, 4, 6, 8, 10].getD c 1

/-- Bit interleaving: bit i of symbol j is element i × (E / Qm) + j; a remainder keeps its place. -/
def interleave {α : Type} (q : Nat) (l : List α) : List α :=
  let n := l.length / q
  ((List.range n).flatMap fun j => (List.range q).filterMap fun i => l[i * n + j]?) ++ l.drop (n * q)

/-- The inverse. -/
def deinterleave {α : Type} (q : Nat) (l : List α) : List α :=
  let n := l.length / q
  ((List.range q).flatMap fun i => (List.range n).filterMap fun j => l[j * q + i]?) ++ l.drop (n * q)

-- LDPC: encoding (R264; TS 38.212 5.3.2) --------------------

/-- Sum of a row over the columns known so far, `c` of them. -/
def rowSum (z : Nat) (edges : List (Nat × Nat)) (known : List (List Bool)) : List Bool :=
  edges.foldl (fun s e => match known[e.1]? with
    | some b => xorBits s (rotL e.2 b)
    | none => s) (List.replicate z false)

/-- The shift of the first parity column that its four core rows leave: the one that occurs an odd number of times. -/
def coreShift (bg z : Nat) : Nat :=
  let shifts := (List.range 4).filterMap fun r => ((ldpcEdges bg z r (ldpcKb bg + 1)).find? fun e => e.1 = ldpcKb bg).map fun e => e.2
  (shifts.find? fun v => (shifts.filter (· = v)).length % 2 = 1).getD 0

/-- The parity columns that follow, each the sum of its row over the columns before it. -/
def extendRows (bg z : Nat) : List Nat → List (List Bool) → List (List Bool)
  | [], known => known
  | r :: rs, known => extendRows bg z rs (known ++ [rowSum z (ldpcEdges bg z r known.length) known])

/-- Every column of the code word of an information block of whole columns. -/
def ldpcWord (bg z : Nat) (info : List (List Bool)) : List (List Bool) :=
  let kb := ldpcKb bg
  let total := (List.range 4).foldl (fun s r => xorBits s (rowSum z (ldpcEdges bg z r kb) info)) (List.replicate z false)
  let p := rotR (coreShift bg z) total
  extendRows bg z ([0, 1, 2] ++ (List.range (ldpcRows bg - 4)).map (· + 4)) (info ++ [p])

/-- LDPC encode: CRC, filler bits, code word, rate matching and bit interleaving. -/
def ldpcEncode (bg z k e rv qm crc : Nat) (input : Bytes) : Bytes :=
  let bits := crcAttach crc k (bitList input)
  let info := blocks z (ldpcKb bg) (bits ++ List.replicate (ldpcKb bg * z - bits.length) false)
  let d := (ldpcWord bg z info).flatten.drop (2 * z)
  let sent := (sentFrom bg z k rv).map fun i => d.getD i false
  packBits (ceilDiv e 8) (interleave (qmBits qm) (cycleTake sent e e))

-- LDPC: decoding (R267) --------------------

/-- A soft value of the decoder; its width is open beyond the 8 bits of the input LLRs. -/
def softValue (x : Int) : Int := if -128 < x ∧ x < 128 then x else Config.softWide x

/-- A soft value in the 8 bits of a soft buffer; free where it does not fit. -/
def softByte (x : Int) : BitVec 8 := if -128 ≤ x ∧ x < 128 then BitVec.ofInt 8 x else Config.softNarrow x

/-- A magnitude times factor / 256; whether a remainder rounds up is open. -/
def scaled (factor m : Nat) : Nat :=
  let x := factor * m
  x / 256 + if x % 256 ≠ 0 && Config.softRound x then 1 else 0

/-- Normalised min-sum at one parity check: each message has the product of the other signs and the scaled least other magnitude. -/
def checkNode (factor : Nat) (l : List Int) : List Int :=
  (List.range l.length).map fun k =>
    let others := l.eraseIdx k
    let m := (others.foldl (fun (b : Option Nat) x => some (match b with
      | some v => min v x.natAbs
      | none => x.natAbs)) none).getD 0
    let neg := decide ((others.filter fun x => decide (x < 0)).length % 2 = 1)
    softValue (if neg then -(scaled factor m : Int) else (scaled factor m : Int))

/-- Posterior blocks by column and messages by row. -/
structure LdpcState where
  post : List (List Int)
  msgs : List (List (List Int))
  deriving DecidableEq, Repr, Inhabited

/-- One layer: the row's messages taken out of the posteriors, computed again and put back. -/
def ldpcLayer (factor z : Nat) (edges : Nat → List (Nat × Nat)) (s : LdpcState) (r : Nat) : LdpcState :=
  let es := edges r
  let old := s.msgs.getD r []
  let qs := es.zipIdx.map fun p =>
    ((rotL p.1.2 (s.post.getD p.1.1 [])).zip (old.getD p.2 (List.replicate z 0))).map fun x => x.1 - x.2
  let new := (List.range z).map fun i => checkNode factor (qs.map fun q => q.getD i 0)
  let msgs := (List.range es.length).map fun k => new.map fun l => l.getD k 0
  let post := ((es.zip qs).zip msgs).foldl (fun post x =>
    post.set x.1.1.1 (rotR x.1.1.2 ((x.1.2.zip x.2).map fun p => softValue (p.1 + p.2)))) s.post
  { post, msgs := s.msgs.set r msgs }

/-- Hard decision: a positive value favours bit 0, and a value of 0 is open. -/
def hardBit (x : Int) : Bool := if x = 0 then Config.zeroBit else decide (x < 0)

/-- Every parity check of the layers in use holds. -/
def checksHold (z layers : Nat) (edges : Nat → List (Nat × Nat)) (post : List (List Int)) : Bool :=
  let hard := post.map fun b => b.map hardBit
  (List.range layers).all fun r => (rowSum z (edges r) hard).all fun b => !b

/-- Iterations until every check holds and the CRC passes, or MAX_ITER: iterations run, whether it failed, and the state. -/
def ldpcIterate (step : LdpcState → LdpcState) (good : LdpcState → Bool) : Nat → Nat → LdpcState → Nat × Bool × LdpcState
  | 0, n, s => (n, true, s)
  | fuel + 1, n, s =>
    let t := step s
    if good t then (n + 1, false, t) else ldpcIterate step good fuel (n + 1) t

/-- LLRs of the circular buffer from the received ones, repeated bits added. -/
def derate (bg z k rv : Nat) (llrs : List Int) : List Int :=
  let sent := sentFrom bg z k rv
  let add (t : List (Nat × Int)) (i : Nat) : Int := (t.filter fun p => p.1 = i).foldl (fun s p => s + p.2) 0
  let got := (cycleTake sent llrs.length llrs.length).zip llrs
  (List.range (ldpcN bg z)).map (add got)

/-- What a decode or transform gives: whether it failed, ITER, BLOCK_EXP, the output and the soft buffer. -/
structure JobOut where
  fails : Bool
  iter : Nat
  exp : Nat
  out : Bytes
  soft : Bytes
  deriving DecidableEq, Repr, Inhabited

/-- LDPC decode. -/
def ldpcDecode (set : Bytes) (bg z k e rv qm crc maxIter : Nat) (input combine : Bytes) : JobOut :=
  let entry := bg * 8 + liftingSet z
  let layers := ldpcLayers bg z e
  let cols := ldpcKb bg + layers
  let llrs := deinterleave (qmBits qm) (input.map fun b => toSigned 8 b.toNat)
  let fresh := derate bg z k rv llrs
  let all := (fresh.zipIdx).map fun p => p.1 + toSigned 8 (leAt combine p.2 1)
  let known := (all.zipIdx).map fun p => if isFiller bg z k p.2 then Config.knownLlr else softValue p.1
  let post := blocks z cols (List.replicate (2 * z) 0 ++ known)
  let edges := fun r => ldpcEdges bg z r cols
  let order := (ldpcOrder set entry).filter fun r => decide (r < layers)
  let step := fun s => order.foldl (ldpcLayer (ldpcFactor set entry) z edges) s
  let bits := fun (s : LdpcState) => (s.post.flatten.take k).map hardBit
  let good := fun s => checksHold z layers edges s.post && crcPasses crc (bits s)
  let (n, bad, s) := ldpcIterate step good maxIter 0 { post, msgs := List.replicate (ldpcRows bg) [] }
  { fails := bad, iter := n, exp := 0, out := packBits (ceilDiv k 8) (bits s), soft := all.map softByte }

-- Polar codes (R269; TS 38.212 5.3.1, 5.4.1) --------------------

/-- x = u G: Arıkan's transform without bit reversal. -/
def polarTransform : Nat → List Bool → List Bool
  | 0, u => u
  | n + 1, u =>
    let a := polarTransform n (u.take (2 ^ n))
    let b := polarTransform n (u.drop (2 ^ n))
    xorBits a b ++ b

/-- The sub-block interleaver of 32 parts. -/
def subBlock : List Nat :=
  [0, 1, 2, 4, 3, 5, 6, 7, 8, 16, 9, 17, 10, 18, 11, 19, 12, 20, 13, 21, 14, 22, 15, 23, 24, 25, 26, 28, 27, 29, 30, 31]

/-- J(n): the transform's output that comes n-th after sub-block interleaving. -/
def polarJ (len n : Nat) : Nat := subBlock.getD (32 * n / len) 0 * (len / 32) + n % (len / 32)

/-- Whether rate matching shortens rather than punctures. -/
def polarShortens (k e : Nat) : Bool := decide (7 * e < 16 * k)

/-- Inputs that rate matching freezes. -/
def polarPreFrozen (len k e : Nat) : List Nat :=
  if len ≤ e then []
  else if polarShortens k e then (List.range (len - e)).map fun i => polarJ len (e + i)
  else (List.range (len - e)).map (polarJ len) ++
    List.range (if 3 * len ≤ 4 * e then ceilDiv (3 * len - 2 * e) 4 else ceilDiv (9 * len - 4 * e) 16)

/-- The inputs in order of reliability, least first. -/
def polarOrder (len : Nat) : List Nat := (List.range 1024).map Config.polarSequence |>.filter fun i => decide (i < len)

/-- The last `n` of a list. -/
def lastOf {α : Type} (n : Nat) (l : List α) : List α := l.drop (l.length - n)

/-- Parity-check bits, and those placed by row weight: uplink control information of 12 to 19 bits. -/
def polarPc (uplink : Bool) (k e crc : Nat) : Nat × Nat :=
  let a := k - crcLen crc
  if uplink && decide (12 ≤ a) && decide (a ≤ 19) then (3, if 189 < e - k then 1 else 0) else (0, 0)

/-- Inputs that carry information or parity-check bits, least reliable first. -/
def polarInfo (len k e npc : Nat) : List Nat :=
  let pre := polarPreFrozen len k e
  lastOf (k + npc) ((polarOrder len).filter fun i => !pre.contains i)

/-- The input among the `k` most reliable whose row has the least weight, the most reliable of those. -/
def leastRow (k : Nat) (info : List Nat) : Option Nat :=
  (lastOf k info).foldl (fun b i => some (match b with
    | some j => if popCount 10 i ≤ popCount 10 j then i else j
    | none => i)) none

/-- Inputs that carry parity-check bits. -/
def polarPcSet (k npc nwm : Nat) (info : List Nat) : List Nat :=
  info.take (npc - nwm) ++ if nwm = 0 then [] else (leastRow k info).toList

/-- The shift register of parity-check bits, before each input is placed: rotated left by one. -/
def pcTurn : List Bool → List Bool
  | y :: ys => ys ++ [y]
  | [] => []

/-- Adds an information bit to the register's first place. -/
def pcAdd (b : Bool) : List Bool → List Bool
  | y :: ys => (y != b) :: ys
  | [] => []

/-- What input `i` is: frozen, parity check, or information. -/
inductive PolarKind where
  | frozen
  | check
  | info
  deriving DecidableEq, Repr

def polarKind (info pc : List Nat) (i : Nat) : PolarKind :=
  if pc.contains i then .check else if info.contains i then .info else .frozen

/-- Bits placed on the inputs. -/
def polarPlace : List PolarKind → List Bool → List Bool → List Bool
  | [], _, _ => []
  | k :: ks, y, bs =>
    let y := pcTurn y
    match k with
    | .frozen => false :: polarPlace ks y bs
    | .check => y.headD false :: polarPlace ks y bs
    | .info => bs.headD false :: polarPlace ks (pcAdd (bs.headD false) y) bs.tail

/-- Bits after rate matching: sub-block interleaving, then repetition, puncturing or shortening. -/
def polarSelect (len k e : Nat) : List Nat :=
  if len ≤ e then cycleTake ((List.range len).map (polarJ len)) e e
  else if polarShortens k e then (List.range e).map (polarJ len)
  else (List.range e).map fun i => polarJ len (i + (len - e))

/-- Side of the triangle of the interleaver of coded bits. -/
def triSide (e : Nat) : Nat := ((List.range (e + 1)).find? fun t => decide (e ≤ t * (t + 1) / 2)).getD 0

/-- The coded bit that the triangular interleaver sends k-th: written by rows of falling length, read by columns. -/
def triOrder (e : Nat) : List Nat :=
  let t := triSide e
  (List.range t).flatMap fun j => ((List.range (t - j)).map fun i => i * t - i * (i - 1) / 2 + j).filter fun k => decide (k < e)

/-- The interleaver of downlink information bits. -/
def downOrder (k : Nat) : List Nat :=
  if 164 < k then List.range k
  else ((List.range 164).map Config.polarInterleave).filterMap fun p => if 164 - k ≤ p then some (p - (164 - k)) else none

/-- The kinds of a code's inputs. -/
def polarKinds (uplink : Bool) (n k e crc : Nat) : List PolarKind :=
  let (npc, nwm) := polarPc uplink k e crc
  let info := polarInfo (2 ^ n) k e npc
  (List.range (2 ^ n)).map (polarKind info (polarPcSet k npc nwm info))

/-- Polar encode, of downlink information (DEDUCED, log entry 19). -/
def polarEncode (n k e crc : Nat) (input : Bytes) : Bytes :=
  let bits := crcAttach crc k (bitList input)
  let c := (downOrder k).map fun i => bits.getD i false
  let d := polarTransform n (polarPlace (polarKinds false n k e crc) (List.replicate 5 false) c)
  packBits (ceilDiv e 8) ((polarSelect (2 ^ n) k e).map fun i => d.getD i false)

/-- LLR of the next input, from the LLRs of the outputs and the inputs before it. -/
def polarLlr : Nat → List Int → List Bool → Int
  | 0, l, _ => l.headD 0
  | n + 1, l, u =>
    let h := 2 ^ n
    let pairs := (l.take h).zip (l.drop h)
    if u.length < h then polarLlr n (pairs.map fun p => Config.polarF p.1 p.2) u
    else
      let x := polarTransform n (u.take h)
      polarLlr n ((pairs.zip x).map fun p => if p.2 then p.1.2 - p.1.1 else p.1.2 + p.1.1) (u.drop h)

/-- A path of the list: its inputs, its information bits, the parity-check register and its metric, the lower the better. -/
structure PolarPath where
  u : List Bool
  bits : List Bool
  reg : List Bool
  metric : Nat
  deriving DecidableEq, Repr, Inhabited

/-- A path with one more input. -/
def PolarPath.push (p : PolarPath) (llr : Int) (kind : PolarKind) (b : Bool) : PolarPath :=
  let y := pcTurn p.reg
  { u := p.u ++ [b]
    bits := if kind = .info then p.bits ++ [b] else p.bits
    reg := if kind = .info then pcAdd b y else y
    metric := p.metric + if decide (llr < 0) = b then 0 else Config.polarPenalty llr }

/-- Puts a path behind those whose metric is no worse. -/
def pathInsert (p : PolarPath) : List PolarPath → List PolarPath
  | [] => [p]
  | x :: xs => if p.metric < x.metric then p :: x :: xs else x :: pathInsert p xs

/-- One input decided on every path: both values of an information bit, the best eight paths kept. -/
def polarStep (n : Nat) (llrs : List Int) (ps : List PolarPath) (kind : PolarKind) : List PolarPath :=
  let next := ps.flatMap fun p =>
    let l := polarLlr n llrs p.u
    match kind with
    | .frozen => [p.push l kind false]
    | .check => [p.push l kind ((pcTurn p.reg).headD false)]
    | .info => [p.push l kind false, p.push l kind true]
  if next.length ≤ 8 then next else (next.foldl (fun l p => pathInsert p l) []).take 8

/-- Index of the best path of those that satisfy a test, ties to the lowest. -/
def bestPath (test : PolarPath → Bool) (ps : List PolarPath) : Option (Nat × PolarPath) :=
  ((ps.zipIdx).filter fun p => test p.1).foldl (fun b p => match b with
    | some x => if p.1.metric < x.2.metric then some (p.2, p.1) else some x
    | none => some (p.2, p.1)) none

/-- LLRs of the transform's outputs from the received ones: a repeated bit adds up, a punctured one is 0, a shortened one is known. -/
def polarDerate (len k e : Nat) (llrs : List Int) : List Int :=
  let got := (polarSelect len k e).zip llrs
  (List.range len).map fun i =>
    let mine := got.filter fun p => p.1 = i
    if mine = [] && polarShortens k e && decide (e < len) then Config.knownLlr else (mine.map fun p => p.2).sum

/-- Polar decode, of uplink control information (DEDUCED, log entry 19): CRC-aided successive cancellation with a list of eight. -/
def polarDecode (n k e crc : Nat) (input : Bytes) : JobOut :=
  let raw := input.map fun b => toSigned 8 b.toNat
  let sent := (triOrder e).zip raw
  let coded := (List.range e).map fun i => ((sent.find? fun p => p.1 = i).map fun p => p.2).getD 0
  let llrs := polarDerate (2 ^ n) k e coded
  let ps := (polarKinds true n k e crc).foldl (polarStep n llrs) [{ u := [], bits := [], reg := List.replicate 5 false, metric := 0 }]
  match bestPath (fun p => crcPasses crc p.bits) ps, bestPath (fun _ => true) ps with
  | some (i, p), _ => { fails := false, iter := i, exp := 0, out := packBits (ceilDiv k 8) p.bits, soft := [] }
  | none, some (i, p) => { fails := true, iter := i, exp := 0, out := packBits (ceilDiv k 8) p.bits, soft := [] }
  | none, none => default

-- FFT (R270) --------------------

/-- The smallest factors of a number. -/
def smallFactors : Nat → Nat → List Nat
  | 0, _ => []
  | fuel + 1, n =>
    match [2, 3, 5].find? fun p => decide (1 < n) && decide (n % p = 0) with
    | some p => p :: smallFactors fuel (n / p)
    | none => []

/-- The radices of an engine's stages in order, whose product is the length; which ones is open. -/
def fftRadices (n : Nat) : List Nat :=
  let l := Config.fftRadices n
  if l.foldl (· * ·) 1 = n ∧ l.all (fun r => decide (2 ≤ r)) = true then l else smallFactors 13 n

/-- Cosine and sine of an angle below a quarter, in 2^-60, by `fuel` terms of their series from number `k` on. -/
def fxCosSin (angle : Int) : Nat → Nat → Int → Int × Int → Int × Int
  | 0, _, _, r => r
  | fuel + 1, k, t, (c, s) =>
    let r := match k % 4 with
      | 0 => (c + t, s)
      | 1 => (c, s + t)
      | 2 => (c - t, s)
      | _ => (c, s - t)
    fxCosSin angle fuel (k + 1) (t * angle / (2 ^ 60 * (k + 1))) r

/-- Cosine and sine of `a` / `n` of a circle, in 2^-60; 0x3243F6A8885A308D is π in that unit. -/
def fxTurn (n a : Nat) : Int × Int :=
  let (c, s) := fxCosSin ((0x3243F6A8885A308D * (4 * a % n) / (2 * n) : Nat) : Int) 28 0 (2 ^ 60) (0, 0)
  match 4 * a / n % 4 with
  | 0 => (c, s)
  | 1 => (-s, c)
  | 2 => (-c, -s)
  | _ => (s, -c)

/-- A sample turned by `a` / `n` of a circle, clockwise for the transform: exact for quarters; else the nearest integers, or, as the engine may
round, their neighbours. DEDUCED, log entry 19. -/
def fftTurn (inverse : Bool) (n a : Nat) (x : Int × Int) : Int × Int :=
  let a := if inverse then (n - a % n) % n else a % n
  if a = 0 then x
  else if 4 * a = n then (x.2, -x.1)
  else if 2 * a = n then (-x.1, -x.2)
  else if 4 * a = 3 * n then (-x.2, x.1)
  else
    let (c, s) := fxTurn n a
    let d := Config.fftTurn n a x
    (rneShiftInt (x.1 * c + x.2 * s) 60 + ((d.1.val : Int) - 1), rneShiftInt (x.2 * c - x.1 * s) 60 + ((d.2.val : Int) - 1))

/-- A radix stage: `r` sub-transforms of length `m` each become one of length `r` × `m`. -/
def fftStage (inverse : Bool) (n r : Nat) (groups : List (List (Int × Int))) : List (List (Int × Int)) :=
  let g := groups.length / r
  (List.range g).map fun i =>
    let parts := (List.range r).map fun j => groups.getD (i + g * j) []
    let m := (parts.headD []).length
    (List.range (r * m)).map fun k =>
      (parts.zipIdx).foldl (fun s p =>
        let t := fftTurn inverse n (p.2 * k * (n / (r * m))) (p.1.getD (k % m) (0, 0))
        (s.1 + t.1, s.2 + t.2)) (0, 0)

/-- A component fits 16 bits. -/
def fits16 (x : Int) : Bool := decide (-32768 ≤ x) && decide (x ≤ 32767)

/-- A component of the block in 16 bits; open where one shift leaves it out of range. -/
def fft16 (x : Int) : Int := if fits16 x then x else (Config.fftNarrow x).toInt

/-- The block after a stage: shifted right by one bit, rounding under R28, when any component exceeds the range. -/
def fftScale (groups : List (List (Int × Int))) (exp : Nat) : List (List (Int × Int)) × Nat :=
  if groups.all fun l => l.all fun x => fits16 x.1 && fits16 x.2 then (groups, exp)
  else (groups.map fun l => l.map fun x => (fft16 (rneShiftInt x.1 1), fft16 (rneShiftInt x.2 1)), exp + 1)

/-- FFT and inverse FFT: the unscaled transform in CI16 with block floating point. -/
def fftRun (inverse : Bool) (n : Nat) (input : Bytes) : JobOut :=
  let x := (List.range n).map fun i => [(toSigned 16 (leAt input (4 * i) 2), toSigned 16 (leAt input (4 * i + 2) 2))]
  let (y, e) := (fftRadices n).foldl (fun s r => fftScale (fftStage inverse n r s.1) s.2) (x, 0)
  { fails := false, iter := 0, exp := e, soft := []
    out := y.flatten.flatMap fun p => leBytes 2 (ofSigned 16 p.1) ++ leBytes 2 (ofSigned 16 p.2) }

end Sys2Proof.Machine
end

