-- ==== Sys2Proof/Machine/Dict.lean ====
section
/-! DEFINITION. Dictionary writes: rights, ranges, ignored writes and selectors (R439 to R444). Every command that writes an
entry goes through `State.write` or `State.writeOctets`. -/

namespace Sys2Proof.Machine

/-- The role of an open session. -/
def State.role (s : State) (n : Nat) : Nat := (s.sess n).role

/-- Held per session (R439). -/
def Reg.perSession (r : Reg) : Bool :=
  match r.inst with
  | .session => true
  | .sessFam _ => true
  | _ => false

/-- The reason by right for which a WRITE by a role is ignored (R441, R444, R536). -/
def Reg.writeRight (r : Reg) (role : Nat) : Option Nat :=
  match r.access with
  | .ro | .const => some 0x8002
  | .rwd => some 0x8003
  | .rws => if role = 4 then none else some 0x8001
  | .rw | .wo =>
    if r.perSession then none
    else if r.index = 0x6006 && r.sub = 7 then (if role = 4 then none else some 0x8001)
    else if role = 0 then some 0x8001 else none

/-- The value lies outside the stated range (R444, 0x8010). -/
def Reg.outOfRange (r : Reg) (v : Nat) : Bool :=
  match r.range with
  | none => false
  | some (lo, hi, k) =>
    let x : Int := if r.signed then toSigned r.width v else v
    decide (x < lo) || decide (hi < x) || decide (x % k ≠ 0)

/-- A reserved bit is set (R444, 0x8011). -/
def Reg.reservedSet (r : Reg) (v : Nat) : Bool := decide (v &&& r.reserved ≠ 0)

/-- Counts an ignored write of entry `idx`.`sub` for session `n` (R443), and a refused tilth commit (R223, R245). -/
def State.ignoreWrite (s : State) (n idx sub reason : Nat) : State :=
  let s := if 0x8101 ≤ reason ∧ reason ≤ 0x8109 then (s.bump .tilthRejects).setReg .tilthRejectReason (reason - 0x8100) else s
  let s := ((s.bump .dictIgnoredTotal).setReg .dictLastIgnored reason).setReg .dictLastIgnoredEntry (idx * 2 ^ 16 + sub * 2 ^ 8)
  if s.isOpen n then (s.setSreg n .sessIgnoredCount (s.sreg n .sessIgnoredCount + 1)).setSreg n .sessLastIgnored reason else s

/-- The entry's own rules: the lowest of RANGE, RESERVED and what `op` finds (R444). -/
def State.byRules (s : State) (r : Reg) (v : Nat) (op : State → Except Nat State) : Except Nat State :=
  if r.outOfRange v then .error 0x8010
  else if r.reservedSet v then
    match op s with
    | .error e => .error (min e 0x8011)
    | .ok _ => .error 0x8011
  else op s

/-- Takes a result: the new state, or an ignored write. -/
def State.take (s : State) (n idx sub : Nat) (x : Except Nat State) : State :=
  match x with
  | .ok s => s
  | .error e => s.ignoreWrite n idx sub e

-- Results (R436 to R438) --------------------

/-- One operation's result: status, type, length, the session's IGNORED count, and a value. -/
def State.opResult (s : State) (n status ty : Nat) (value : Bytes) : Bytes :=
  leBytes 1 status ++ leBytes 1 ty ++ leBytes 2 value.length ++ leBytes 4 (s.sreg n .sessIgnoredCount) ++ value

/-- Answers a request of session `n` with a RESPONSE of that payload; the request counts as an accepted message (R415). -/
def State.answer (s : State) (n : Nat) (payload : Bytes) : State :=
  if !s.isOpen n then s
  else
    let s := s.modSess n fun x => { x with lastResponse := payload, lastCk := s.ck, seqIn := x.seqIn + 1, bad := 0 }
    let (f, s) := s.sessionFrame n 0x06 payload
    match (s.sess n).via with
    | .mailbox => ({ s with hif := { s.hif with mbResponse := f, mbStatus := 2 } }).raiseMailbox
    | v => (s.sendOn (viaPort v) (s.destOf n) f).bump .mgmtRxFrames (viaPort v - 1)

/-- Answers a WRITE that was taken or ignored. -/
def State.answerWrite (s : State) (n ty : Nat) : State := s.answer n (s.opResult n 0 ty [])

/-- WRITE of a number by session `n` to the entry of family index `fam` (R441 to R444); nothing happens without an open
session. -/
def State.write (s : State) (n : Nat) (r : Reg) (fam v : Nat) (op : State → Except Nat State) : State :=
  if !s.isOpen n then s
  else match r.writeRight (s.role n) with
    | some e => (s.ignoreWrite n (r.index + fam) r.sub e).answerWrite n r.ty
    | none => (s.take n (r.index + fam) r.sub (s.byRules r (v % 2 ^ r.width) op)).answerWrite n r.ty

/-- Whether a length fits an octet entry's stated size (R435); load data come in multiples of 16. -/
def Reg.sizeOk (r : Reg) (k : Nat) : Bool :=
  decide (r.size.1 ≤ k) && decide (k ≤ r.size.2) && (decide (r.size ≠ (16, 1024)) || decide (k % 16 = 0))

/-- WRITE of octets; a length that does not fit is a malformed request and does nothing (R436). -/
def State.writeOctets (s : State) (n : Nat) (r : Reg) (fam : Nat) (v : Bytes) (op : State → Except Nat State) : State :=
  if !s.isOpen n then s
  else if !r.sizeOk v.length then s.answer n (s.opResult n 0x02 r.ty [])
  else match r.writeRight (s.role n) with
    | some e => (s.ignoreWrite n (r.index + fam) r.sub e).answerWrite n r.ty
    | none => (s.take n (r.index + fam) r.sub (op s)).answerWrite n r.ty

-- Selectors (R439) --------------------

/-- The instance that a selector entry names for session `n`. -/
def State.selected (s : State) (n : Nat) (k : Sel) (fam : Nat := 0) : Nat :=
  match k with
  | .ctxQ => s.sreg n .ctxQueueSelect
  | .ctx => s.sreg n .contextSelect
  | .sync => fam * 256 + s.sreg n .syncCounterSelect fam
  | .re => s.sreg n .reSelect
  | .cell => s.sreg n .cellSelect
  | .gain => s.sreg n .cellSelect * 256 + s.sreg n .gainSelect
  | .classE => fam * 4096 + s.sreg n .classSelect fam
  | .queue => s.sreg n .queueSelect
  | .job => s.sreg n .jobSelect
  | .roleKey => s.sreg n .roleKeySelect
  | .rail => s.sreg n .railSelect
  | .mismatch => s.sreg n .mismatchLogSelect

/-- The instance that a write through entry `r` of family index `fam` applies to. -/
def State.instOf (s : State) (n : Nat) (r : Reg) (fam : Nat) : Nat :=
  match r.inst with
  | .one => 0
  | .fam _ => fam
  | .sel k => s.selected n k fam
  | .session => 0
  | .sessFam _ => fam

/-- The plain effect of a write: the entry takes the value. -/
def State.plainWrite (s : State) (n : Nat) (r : Reg) (fam v : Nat) : State :=
  if r.perSession then s.setSreg n r v fam else s.setReg r v (s.instOf n r fam)

end Sys2Proof.Machine
end

