-- ==== Sys2Proof/Machine/FabCore.lean ====
section
/-! DEFINITION. The Relevo fabric's packets, keys, windows and sending side (R336 to R353, R359). Bandwidth is
timing and is left out; what a packet waits for, and the order in which a port serves what it can send, are not. -/

namespace Sys2Proof.Machine

-- Packet kinds (R341) --------------------

def pkRead : Nat := 0x0
def pkReadData : Nat := 0x1
def pkWrite : Nat := 0x2
def pkWriteAck : Nat := 0x3
def pkAtomic : Nat := 0x4
def pkAtomicAck : Nat := 0x5
def pkDrain : Nat := 0x6
def pkDrainAck : Nat := 0x7
def pkRefuse : Nat := 0x8
def pkBulkWrite : Nat := 0x9
def pkBulkRead : Nat := 0xA
def pkBulkData : Nat := 0xB
def pkBulkAck : Nat := 0xC
def pkCellData : Nat := 0xD
def pkCellAck : Nat := 0xE

/-- Responses. -/
def isResponse (kind : Nat) : Bool := [0x1, 0x3, 0x5, 0x7, 0x8, 0xB, 0xC, 0xE].contains kind

/-- The class a packet travels in (R338, R341). -/
def Packet.cls (p : Packet) : Nat :=
  match p.kind with
  | 0x0 | 0x2 | 0x4 => 1
  | 0x6 => p.dclass
  | 0x9 | 0xA => 3
  | 0xD | 0xE => 0
  | _ => 2

/-- Receive buffer of a class in 64 B units (R338). -/
def classCredits (c : Nat) : Nat :=
  match c with
  | 0 => 1024
  | 3 => 2048
  | _ => 4096

/-- The 24 header bytes (R340, R10). -/
def Packet.header (p : Packet) : Bytes :=
  leBytes 24 (p.seq % 2 ^ 64 * 2 ^ 128 + p.dst * 2 ^ 120 + p.src * 2 ^ 112 + p.kind * 2 ^ 108 + p.job * 2 ^ 92 + p.len * 2 ^ 81
    + p.dpa % 2 ^ 41 * 2 ^ 40 + p.dclass * 2 ^ 38 + p.dgen % 2 ^ 38)

/-- A packet's header read back, its payload still missing. -/
def headerOf (bs : Bytes) : Packet :=
  let h := leNat (slice bs 0 24)
  { seq := field h 191 128, dst := field h 127 120, src := field h 119 112, kind := field h 111 108, job := field h 107 92,
    len := field h 91 81, dpa := field h 80 40, dclass := field h 39 38, dgen := field h 37 0, payload := [] }

/-- Payload bytes that follow a header: LEN, but for READ and BULK_READ, which ask for LEN bytes and carry none. -/
def Packet.carried (p : Packet) : Nat := if p.kind = pkRead ∨ p.kind = pkBulkRead then 0 else p.len

/-- LEN in range for the kind (R340, R341). -/
def Packet.lenOk (p : Packet) : Bool :=
  match p.kind with
  | 0x0 | 0x1 | 0x2 | 0x9 | 0xA | 0xB | 0xD => decide (1 ≤ p.len) && decide (p.len ≤ 1024)
  | 0x4 => decide (16 < p.len) && decide (p.len ≤ 1040)
  | 0x5 => decide (p.len ≤ 1024) && decide (p.len % 8 = 0)
  | 0x8 => decide (p.len = 2)
  | _ => decide (p.len = 0)

/-- The 96-bit IV (R342), most significant byte first as GCM takes it. -/
def Packet.iv (p : Packet) : Bytes :=
  beBytes 12 (p.src * 2 ^ 88 + p.dst * 2 ^ 80 + (if isResponse p.kind then 2 ^ 79 else 0) + p.seq % 2 ^ 64)

/-- Bytes of a packet on the wire. -/
def Packet.wireLen (p : Packet) : Nat := 24 + p.carried + 16

-- Jobs (R349 to R351) --------------------

def State.jobEntry (s : State) (i : Nat) : JobEntry := s.fab.jobs.at i
def State.modJob (s : State) (i : Nat) (f : JobEntry → JobEntry) : State :=
  { s with fab := { s.fab with jobs := s.fab.jobs.modify i f } }

-- JOB_CFG fields.
def State.jobBits (s : State) (i : Nat) : Nat := leNat (s.oct .jobCfg i)
def cfgNonce (w : Nat) : Nat := field w 255 128
def cfgMembers (w : Nat) : Nat := field w 127 64
def cfgJob (w : Nat) : Nat := field w 63 48
def cfgLedger (w : Nat) : Nat := field w 47 32
def cfgBuddy (w : Nat) : Nat := field w 31 24
def cfgSlice (w : Nat) : Nat := field w 23 18
def cfgEnable (w : Nat) : Bool := bit w 0

/-- The entry in which a job is enabled (JOB_STATE 1). -/
def State.jobIndex (s : State) (job : Nat) : Option Nat :=
  (List.range 256).find? fun i =>
    cfgEnable (s.jobBits i) && decide (cfgJob (s.jobBits i) = job) && decide (s.reg .jobState i = 1)

/-- JOB and member index of a context (R351). -/
def State.ctxJob (s : State) (c : Nat) : Nat := field (s.reg .ctxJobId c) 63 48
def State.ctxMember (s : State) (c : Nat) : Nat := field (s.reg .ctxJobId c) 15 0

/-- The package's fabric credentials are up (R365). -/
def State.fabricOn (s : State) : Bool := s.reg .fabricState = 1

/-- The job key (R350). -/
def jobKey (tenant : Bytes) (job nonce : Nat) : Bytes := hkdf tenant (leBytes 2 job ++ leBytes 16 nonce) (ascii "relevo-job") 32

/-- The domain traffic key of a requester and a generation (R350). -/
def domainTrafficKey (dk : Bytes) (requester dgen : Nat) : Bytes :=
  hkdf dk (leBytes 1 requester ++ leBytes 5 dgen) (ascii "relevo-domain") 32

/-- The key of a packet (R342): none for a job that is not enabled here. The requester of a response is its destination. -/
def State.packetKey (s : State) (p : Packet) : Option Bytes :=
  if p.job = 0 then some (domainTrafficKey (slice s.prot.domainKey 0 32) (if isResponse p.kind then p.dst else p.src) p.dgen)
  else (s.jobIndex p.job).map fun i => (s.jobEntry i).key

-- Windows (R352 to R354) --------------------

def regionBase (r : Nat) : Nat := field r 127 79
def regionSize (r : Nat) : Nat := field r 78 48 * 4096
def regionOwner (r : Nat) : Nat := field r 47 40
def regionRead (r : Nat) : Bool := bit r 39
def regionWritable (r : Nat) : Bool := bit r 38
def regionAtomic (r : Nat) : Bool := bit r 37
def regionSnap (r : Nat) : Bool := bit r 36

/-- The region that holds the whole extent. -/
def findRegion (ws : List Nat) (faddr len : Nat) : Option Nat :=
  ws.find? fun r => decide (regionBase r ≤ faddr) && decide (faddr + len ≤ regionBase r + regionSize r)

/-- The right a fabric opcode needs. -/
def rightOf (op : Op) (r : Nat) : Bool :=
  match op with
  | .fload => regionRead r
  | .fstore | .fstoreShared => regionWritable r
  | _ => regionAtomic r

/-- The job entry of a context whose fabric opcodes may run (R353). -/
def State.ctxEntry (s : State) (c : Nat) : Option Nat :=
  if s.reg .ctxJobId c = 0 || !s.fabricOn then none else s.jobIndex (s.ctxJob c)

/-- The 0x03xx reasons that R353 gives. -/
def State.fabricReasons (s : State) (c : Nat) (op : Op) (d : Desc) : List (Nat × Bool) :=
  match s.ctxEntry c with
  | none => [(0x0307, true)]
  | some i =>
    let r := findRegion (s.jobEntry i).windows d.fabFaddr (d.fabLength * fabUnit op)
    let held := match r with
      | some r => rightOf op r && decide (d.fabFaddr / 2 ^ 41 < 64)
      | none => false
    let owner := match r with
      | some r => regionOwner r
      | none => 0xFE
    [(0x0303, !held),
     (0x0306, held && ((decide (op = .fstore) && decide (owner ≠ s.pkg)) || (decide (op = .fstoreShared) && decide (owner ≠ 0xFF))))]

-- Ports and flits (R336, R337) --------------------

def State.port (s : State) (p : Nat) : Port := s.fab.ports.at p
def State.setPort (s : State) (p : Nat) (x : Port) : State := { s with fab := { s.fab with ports := s.fab.ports.put p x } }

/-- Bytes an element occupies at the home and in the packet (R357). -/
def aopBytes (aop : Nat) : Nat × Nat :=
  match aop with
  | 3 => (8, 16)
  | 4 => (4, 4)
  | 5 => (32, 32)
  | _ => (8, 8)

/-- An ATOMIC's header fields (R358). -/
def atomicHead (p : Packet) : Nat := leAt p.payload 0 16
def atomicAop (p : Packet) : Nat := field (atomicHead p) 35 32

/-- First and last byte that a request reads or changes at its home. -/
def Packet.extent (p : Packet) : Nat × Nat :=
  let n := if p.kind = pkAtomic then (p.len - 16) / (aopBytes (atomicAop p)).2 * (aopBytes (atomicAop p)).1 else p.len
  (p.dpa, n)

/-- Reads, writes and atomics, which a home takes in order of arrival on each line. -/
def Packet.atHome (p : Packet) : Bool := decide (p.kind = pkRead) || decide (p.kind = pkWrite) || decide (p.kind = pkAtomic)

/-- Operations that a packet brings to its home: one for each 64 B line (R360). -/
def Packet.lines (p : Packet) : Nat :=
  let (a, n) := p.extent
  if n = 0 then 0 else (a + n - 1) / 64 + 1 - a / 64

/-- Fitted fabric I/O dies, ascending. -/
def State.fittedXds (s : State) : List Nat := (List.range 4).filter fun d => bit (s.build.dflt .fabricPortMask) (4 * d)

/-- The fabric I/O die that holds the home logic of a DPA (R344). -/
def State.homeXd (s : State) (a : Nat) : Nat := s.fittedXds.getD (a / 4096 % s.fittedXds.length) 0

/-- A home die's queue of 4 096 operations is full: it returns no REQ credits on its ports (R361). -/
def State.homeFull (s : State) (d : Nat) : Bool :=
  decide (4096 ≤ ((s.fab.arrived.filter fun p => p.atHome && decide (s.homeXd p.dpa = d)).map Packet.lines).sum)

/-- Credits of a class may be returned on a port. -/
def State.creditsGo (s : State) (n c : Nat) : Bool := !(decide (c = 1) && s.homeFull (n / 4))

/-- Class and count of the credits that the next flit of a port returns (R338). -/
def State.creditOut (s : State) (n : Nat) : Nat × Nat :=
  match [0, 1, 2, 3].find? fun c => decide ((s.port n).owed.get 0 c ≠ 0) && s.creditsGo n c with
  | some c => (c, min ((s.port n).owed.get 0 c) 4095)
  | none => (0, 0)

/-- A flit of type `ftype` with the header fields of a sender: `nak` asks for a replay from ACK_SEQ + 1, and `cr` is the class and the count
of the credits it returns (R336). -/
def makeFlit (ftype fseq ackSeq : Nat) (nak : Bool) (start : Nat) (payload : Bytes) (cr : Nat × Nat := (0, 0)) : Flit :=
  let h := fseq * 2 ^ 52 + ackSeq * 2 ^ 40 + 2 ^ 39 + nak.toNat * 2 ^ 38 + cr.1 * 2 ^ 36 + cr.2 * 2 ^ 24 + start * 2 ^ 16 + ftype * 2 ^ 14
  let p := slice payload 0 244
  ⟨BitVec.ofNat 64 h, p, BitVec.ofNat 32 (crc32c (leBytes 8 h ++ p))⟩

/-- PKT_START of a flit in whose bytes packets begin at `starts` (R336). -/
def pktStart (starts : List Nat) : Nat := ((starts.find? fun o => decide (o < 244))).getD 0xFF

/-- A flit that counts in FSEQ leaves, is kept for replay, and takes the NAK with it (R337). -/
def Port.leave (x : Port) (ck ftype start : Nat) (payload : Bytes) (cr : Nat × Nat) : Port :=
  let f := makeFlit ftype (x.txSeq % 4096) x.rxSeq x.nakOut start payload cr
  { x with
    txSeq := (x.txSeq + 1) % 4096
    replay := x.replay ++ [f]
    tx := x.tx ++ [f]
    nakOut := false
    owed := x.owed.set 0 cr.1 (x.owed.get 0 cr.1 - cr.2)
    ackCk := if x.replay = [] then ck else x.ackCk }

/-- The data flit being filled leaves: full, or padded with zeros. -/
def Port.leaveFill (x : Port) (ck : Nat) (cr : Nat × Nat) : Port :=
  { x.leave ck 1 (pktStart x.fillStarts) x.fill cr with
    fill := x.fill.drop 244
    fillStarts := (x.fillStarts.filter fun o => decide (244 ≤ o)).map fun o => o - 244 }

/-- Full flits leave; the first returns the credits `cr`. -/
def Port.drainFill (ck : Nat) (cr : Nat × Nat) : Nat → Port → Port
  | 0, x => x
  | n + 1, x => if x.fill.length < 244 then x else Port.drainFill ck (0, 0) n (x.leaveFill ck cr)

/-- What a port sends at a CK tick beside full flits (R336 to R338): the flit being filled, padded with zeros; else credits that it owes, in a
link-control flit, which is replayed when lost; else an idle flit with the FSEQ of the last that was not idle. -/
def State.tickPort (s : State) (n : Nat) : State :=
  let x : Port := { s.port n with tx := [] }
  if !x.up || x.retraining then s
  else
    let cr := s.creditOut n
    let x : Port :=
      if x.fill ≠ [] then x.leaveFill s.ck cr
      else if cr.2 ≠ 0 && decide (x.replay.length < 1024) then x.leave s.ck 2 0xFF [] cr
      else { x with tx := [makeFlit 0 ((x.txSeq + 4095) % 4096) x.rxSeq x.nakOut 0xFF []], nakOut := false }
    s.setPort n x

/-- Every port sends at a CK tick. REQ credits that a full home die withholds stay owed: those MK cycles, two in a CK cycle, count
(R361). -/
def State.linkTick (s : State) : State :=
  let held := (List.range 16).filter fun n => decide ((s.port n).owed.get 0 1 ≠ 0) && s.homeFull (n / 4)
  let s := (List.range 16).foldl State.tickPort s
  if held = [] then s else s.bump .hotlineStalls 0 2

/-- The bytes of a packet: header, ciphertext and tag. -/
def State.wire (s : State) (p : Packet) : Bytes :=
  match s.packetKey p with
  | some k =>
    let (c, t) := gcmSeal k p.iv p.header p.payload
    p.header ++ c ++ t
  | none => []

-- Routes (R345, R347) --------------------

/-- The port a packet leaves on under a table: none when the entry is 0. -/
def routePort (t : Tab Nat) (p : Packet) : Option Nat :=
  let ports := bitsOf 16 (t.get 0 p.dst)
  ports[(p.dpa / 4096) % ports.length]?

/-- New packets for a destination are held while its entry changes. -/
def State.draining (s : State) (dest : Nat) : Bool := s.fab.drains.any fun d => d.dest = dest

/-- The next SEQ of a stream, and those sent without a mark. -/
def streamKey (dest job : Nat) : Nat := dest * 65536 + job
def State.stream (s : State) (dest job : Nat) : Stream := s.fab.streams.at (streamKey dest job)

/-- A request whose SEQ would leave the window of 65 536 waits (R359). -/
def State.seqFits (s : State) (p : Packet) : Bool :=
  isResponse p.kind || match minOf (s.stream p.dst p.job).unmarked with
    | some m => decide (p.seq < m + 65536)
    | none => true

/-- New packets of a destination whose entry changes are held; its DRAINs leave (R347). -/
def State.stopped (s : State) (p : Packet) : Bool := decide (p.kind ≠ pkDrain) && s.draining p.dst

/-- A held packet may leave on port `n` in class `c`: its destination is not held, its SEQ fits, and its route names the port. -/
def State.leavesBy (s : State) (n c : Nat) (p : Packet) : Bool :=
  decide (p.cls = c) && decide (routePort s.fab.route p = some n) && !s.stopped p && s.seqFits p

/-- The head packet of a class on a port: packets of one class leave in the order in which they were handed over (R339). -/
def State.headOf (s : State) (n c : Nat) (held : List Packet) : Option Packet := held.find? (s.leavesBy n c)

/-- A port may send packets: up, not retraining and enabled, in a package whose credentials are up (R337, R365). -/
def State.portSends (s : State) (n : Nat) : Bool :=
  s.fabricOn && (s.port n).up && !(s.port n).retraining && decide (s.reg .fabPortEnable n = 1)

/-- Room for a packet behind `bytes` of others: in the replay buffer, and credits of its class for the whole of it (R337, R338). -/
def Port.takes (x : Port) (bytes : Nat) (p : Packet) : Bool :=
  decide (x.replay.length + ceilDiv (x.fill.length + bytes + p.wireLen) 244 ≤ 1024)
    && decide (x.used.get 0 p.cls + ceilDiv p.wireLen 64 ≤ classCredits p.cls)

/-- Bytes of the response to a request (R341). -/
def Packet.responseLen (p : Packet) : Nat :=
  40 + (if p.kind = pkRead ∨ p.kind = pkBulkRead then p.len
    else if p.kind = pkAtomic ∧ 1 ≤ atomicAop p ∧ atomicAop p ≤ 3 then (p.len - 16) / (aopBytes (atomicAop p)).2 * 8 else 0)

/-- Room reserved for the responses of requests that have left (R338). -/
def State.roomTaken (s : State) : Nat := (s.fab.out.map (·.room)).sum

/-- A request leaves only when room for its response can be reserved beside `taken` (R338). How much room there is stays open: log entry 88;
beside none, one response always finds room. -/
def roomFor (taken : Nat) (p : Packet) : Bool := isResponse p.kind || decide (taken = 0) || Config.responseRoom taken p.responseLen

/-- Weight of a class on a port (R339, R371). -/
def State.classWeight (s : State) (n c : Nat) : Nat := s.fab.weights.get (if c = 3 then 1024 else 4096) (n * 4 + c)

/-- Tags of the head packets of REQ, RSP and BULK (R305, R339): a packet's length is its bytes in flits. -/
def State.tagHeads (s : State) (n : Nat) (held : List Packet) (x : Port) : Port :=
  [1, 2, 3].foldl (fun x c => match s.headOf n c held, x.heads.get none c with
    | some p, none =>
      let f := tagMax x.vtime (x.finish.get 0 c) + ceilDiv (p.wireLen * 65536) (s.classWeight n c)
      { x with heads := x.heads.set none c (some (f % 2 ^ 48)) }
    | none, some _ => { x with heads := x.heads.set none c none }
    | _, _ => x) x

/-- The class a port serves next: CELL first, else the smallest finish tag, ties to the lowest class (R305, R339). -/
def State.nextClass (s : State) (n : Nat) (held : List Packet) (x : Port) (bytes taken : Nat) : Option Nat :=
  let ready (c : Nat) : Bool := match s.headOf n c held with
    | some p => x.takes bytes p && roomFor taken p
    | none => false
  let tag (c : Nat) : Nat := (x.heads.get none c).getD 0
  if ready 0 then some 0
  else ([1, 2, 3].filter ready).foldl (fun b c => match b with
    | none => some c
    | some d => if toSigned 48 (tag c + 2 ^ 48 - tag d) < 0 then some c else some d) none

/-- The port after it has served a packet. -/
def Port.serve (x : Port) (p : Packet) : Port :=
  let c := p.cls
  let x := { x with used := x.used.set 0 c (x.used.get 0 c + ceilDiv p.wireLen 64) }
  match x.heads.get none c with
  | some f => { x with vtime := f, finish := x.finish.set 0 c f, heads := x.heads.set none c none }
  | none => x

/-- Packets that a port sends now, in order, what stays held, and the port. -/
def State.servePort (s : State) (n : Nat) : Nat → List Packet → Port → Nat → Nat → List Packet × List Packet × Port
  | 0, held, x, _, _ => ([], held, x)
  | fuel + 1, held, x, bytes, taken =>
    let x := s.tagHeads n held x
    match (s.nextClass n held x bytes taken).bind fun c => s.headOf n c held with
    | none => ([], held, x)
    | some p =>
      let more := if isResponse p.kind then 0 else p.responseLen
      let (ps, rest) := s.servePort n fuel (held.erase p) (x.serve p) (bytes + p.wireLen) (taken + more)
      (p :: ps, rest)

/-- Where packets begin that follow each other from byte `at_` on. -/
def packetStarts : Nat → List Packet → List Nat
  | _, [] => []
  | at_, p :: ps => at_ :: packetStarts (at_ + p.wireLen) ps

/-- Requests that leave reserve room for their responses (R338). -/
def reserveRoom (ps : List Packet) (o : Sent) : Sent :=
  match ps.find? fun p => !isResponse p.kind && decide (p.dst = o.dest) && decide (p.job = o.job) && decide (p.seq = o.seq) with
  | some p => { o with room := p.responseLen }
  | none => o

/-- Puts packets on a port, whose next state but for the flits is `x`: their bytes follow those of the flit being filled (R336). -/
def State.transmit (s : State) (n : Nat) (x : Port) (ps : List Packet) : State :=
  if ps = [] then s.setPort n x
  else
    let bs := ps.flatMap s.wire
    let x := { x with fill := x.fill ++ bs, fillStarts := x.fillStarts ++ packetStarts x.fill.length ps }
    let s := { s with fab := { s.fab with out := s.fab.out.map (reserveRoom ps) } }
    (s.setPort n (Port.drainFill s.ck (s.creditOut n) (x.fill.length + 1) x)).bump .fabTxBytes n (ps.map Packet.wireLen).sum

/-- A port sends what it can of the held packets (R339, R345). -/
def State.flushPort (s : State) (n : Nat) : State :=
  if !s.portSends n then s
  else
    let (ps, held, x) := s.servePort n s.fab.held.length s.fab.held (s.port n) 0 s.roomTaken
    ({ s with fab := { s.fab with held } }).transmit n x ps

/-- Sends what can be sent. -/
def State.flushFabric (s : State) : State := if s.fab.held = [] then s else (List.range 16).foldl State.flushPort s

/-- Hands a packet over: to its own package's home logic, or to the ports (R344). -/
def State.hand (s : State) (p : Packet) : State :=
  if p.dst = s.pkg then { s with fab := { s.fab with arrived := s.fab.arrived ++ [p] } }
  else ({ s with fab := { s.fab with held := s.fab.held ++ [p] } }).flushFabric

-- Requests (R342, R359, R363) --------------------

/-- A new request would leave the window of 65 536 (R359). -/
def State.windowFull (s : State) (dest job : Nat) : Bool :=
  match minOf (s.stream dest job).unmarked with
  | some m => decide (m + 65536 ≤ (s.stream dest job).next)
  | none => false

/-- Sends a request. -/
def State.request (s : State) (what : SentFor) (dest job kind dpa len : Nat) (payload : Bytes) (dclass : Nat := 0) : State :=
  let st := s.stream dest job
  let seq := st.next
  let p : Packet := { seq, dst := dest, src := s.pkg, kind, job, len, dpa, dclass, dgen := if job = 0 then s.fab.dgen else 0, payload }
  let o : Sent := { dest, job, seq, kind, dpa, len, what, dropped := false, sentCk := s.ck, room := 0 }
  let n : Stream := { next := seq + 1, unmarked := st.unmarked ++ [seq] }
  ({ s with fab := { s.fab with streams := s.fab.streams.put (streamKey dest job) n, out := s.fab.out ++ [o] } }).hand p

/-- Answers a request. -/
def State.respond (s : State) (r : Packet) (kind : Nat) (payload : Bytes) : State :=
  s.hand { seq := r.seq, dst := r.src, src := s.pkg, kind, job := r.job, len := payload.length, dpa := r.dpa, dclass := r.dclass,
           dgen := r.dgen, payload }

/-- REFUSE (R354). -/
def State.refusePacket (s : State) (r : Packet) (reason : Nat) : State :=
  (s.bump .homeRefusals).respond r pkRefuse (leBytes 2 reason)

/-- The outstanding request a response answers. -/
def State.sentOf (s : State) (p : Packet) : Option Sent :=
  s.fab.out.find? fun o => o.dest = p.src ∧ o.job = p.job ∧ o.seq = p.seq

/-- Marks a SEQ and drops the request from the outstanding ones (R359). -/
def State.mark (s : State) (p : Packet) : State :=
  let st := s.stream p.src p.job
  ({ s with fab := { s.fab with
    streams := s.fab.streams.put (streamKey p.src p.job) { st with unmarked := st.unmarked.filter (· ≠ p.seq) }
    out := s.fab.out.filter fun o => !(decide (o.dest = p.src) && decide (o.job = p.job) && decide (o.seq = p.seq)) } }).flushFabric

/-- Stretches of up to 1 024 B within a 4 KiB granule, as (offset, length) (R355, R356). -/
def stretches : Nat → Nat → Nat → Nat → List (Nat × Nat)
  | 0, _, _, _ => []
  | fuel + 1, addr, off, len =>
    if len = 0 then []
    else
      let n := min (min len 1024) (4096 - addr % 4096)
      (off, n) :: stretches fuel (addr + n) (off + n) (len - n)

def fabStretches (addr len : Nat) : List (Nat × Nat) := stretches (len + 1) addr 0 len

/-- Elements per ATOMIC packet of an opcode: as many as 1 024 B and a granule hold, at most 1 024 / 8 for the answer. -/
def atomicRuns : Nat → Nat → Nat → Nat → Nat → Nat → List (Nat × Nat)
  | 0, _, _, _, _, _ => []
  | fuel + 1, addr, i, n, w, carried =>
    if n = 0 then []
    else
      let k := max 1 (min n (min (1024 / carried) ((4096 - addr % 4096) / w)))
      (i, k) :: atomicRuns fuel (addr + k * w) (i + k) (n - k) w carried

/-- AOP of an opcode (R357). -/
def aopOf (op : Op) : Nat :=
  match op with
  | .faddI64 => 0
  | .ffetchAddI64 => 1
  | .fswapI64 => 2
  | .fcasI64 => 3
  | .faddF32Fast => 4
  | _ => 5

end Sys2Proof.Machine
end

