-- ==== Sys2Proof/Machine/MatCore.lean ====
section
/-! DEFINITION. The matrix commands as functions of a descriptor and of the scratchpad bytes it reads: the checks, the
cycle count, the read and write sets, and the bytes and counts of the result (R27 to R50, R61 to R85, R98 to R105, R137,
R138, R145). -/

namespace Sys2Proof.Machine

/-- What kind of accumulator a matrix command uses (R63, R77). -/
inductive MatKind where
  | fp | int8 | kaolin | ci16 | fullSum
  deriving DecidableEq, Repr

def matKind (op : Op) (d : Desc) : MatKind :=
  match op with
  | .cmatmul => .ci16
  | .fullSum => .fullSum
  | _ => if d.matKaolin then .kaolin else if d.matAType = 5 then .int8 else .fp

/-- The operand and output types; codes 0xC to 0xF are refused before they are used. -/
def Desc.tyA (d : Desc) : Ty := (Ty.ofCode d.matAType).getD .fp32
def Desc.tyB (d : Desc) : Ty := (Ty.ofCode d.matBType).getD .fp32
def Desc.tyOut (d : Desc) : Ty := (Ty.ofCode d.matOutType).getD .fp32

/-- The FP8 and MX element types of R27's first row. -/
def Ty.fp8ish (t : Ty) : Bool := t.canMx

/-- Rows and columns of a tile (R62). -/
def matTile (k : MatKind) : Nat := if k = .ci16 then 32 else 128

/-- AK cycles per step (R62). -/
def matC (k : MatKind) (d : Desc) : Nat :=
  match k with
  | .kaolin => if d.matAType = 5 then 1 else 2
  | .fp => if d.tyA = .fp32 then 16 else if d.tyA.bytes = 2 then 4 else 1
  | _ => 1

/-- Tail of R62. -/
def matTail (k : MatKind) (d : Desc) : Nat :=
  match k with
  | .fp => if 2 ≤ d.tyA.bytes then 3 else 4
  | _ => 4

/-- Drain or fill cycles of `r` valid rows (R62, R73). -/
def matDrain (k : MatKind) (d : Desc) (r : Nat) : Nat :=
  match k with
  | .ci16 => ceilDiv r 16
  | .kaolin => if d.matRecordOut then 2 * r else ceilDiv r 2
  | .fullSum => if d.matRecordOut then 2 * r else ceilDiv r 2
  | _ => ceilDiv r 4

/-- Fill cycles of the input tile C, at the drain rate of R62 (R77, R145). -/
def matFill (k : MatKind) (d : Desc) (r : Nat) : Nat :=
  match k with
  | .fullSum => d.matK * 2 * r
  | _ => matDrain k d r

/-- Whether a fused input stage is named (R98). -/
def Desc.matInputStage (d : Desc) : Bool := decide (d.matInscaleMode ≠ 0) || decide (d.matBiasMode ≠ 0)

/-- Whether a later stage is named that a kaolin element enters as FP32: an input stage or an activation. OUT_EXP and MX output alone
are no such stage, and the element goes to the output format under R48 with one rounding (R98, R104). DESIGN CHOICE, log entry 81. -/
def Desc.matLater (d : Desc) : Bool := d.matInputStage || decide (d.matAct ≠ 0)

def Desc.matActF (d : Desc) : Act := (Act.ofCode d.matAct).getD .none

/-- Whether an activation takes the segment path for an output type (R101). -/
def segPath (a : Act) (t : Ty) : Bool := a.transcendental && (decide (t = .fp32) || decide (t = .int32))

/-- Latency of an activation (R104). -/
def actLatency (a : Act) (t : Ty) : Nat :=
  match a with
  | .none => 0
  | .relu => 1
  | _ => if segPath a t then 14 else 22

/-- fused_latency of R73 (R104). -/
def matFusedLatency (k : MatKind) (d : Desc) : Nat :=
  (if k = .kaolin ∧ d.matLater then 4 else 0) + (if d.matInputStage then 6 else 0)
    + actLatency d.matActF d.tyOut + (if d.matMxOut then 12 else 0)

/-- When a tile's fill, issue and drain begin (R73), and its valid rows. -/
structure TileTimes where
  fill  : Nat
  issue : Nat
  drain : Nat
  rows  : Nat
  deriving DecidableEq, Repr, Inhabited

/-- State of R73's loop. -/
structure CountState where
  issueFree : Nat
  fillFree  : Nat
  drainFree : Nat
  bank0     : Nat
  bank1     : Nat
  /-- Every tile so far, newest first. -/
  tiles     : List TileTimes
  deriving DecidableEq, Repr

/-- One tile of R73. -/
def countTile (fills : Bool) (fill drain tail iLen : Nat) (odd : Bool) (rows : Nat) (c : CountState) : CountState :=
  let bank := if odd then c.bank1 else c.bank0
  let fillStart := max bank c.fillFree
  let fillFree := if fills then fillStart + fill else c.fillFree
  let ready := if fills then fillFree else bank
  let issueStart := max c.issueFree ready
  let issueFree := issueStart + iLen
  let drainStart := max (issueFree + tail) c.drainFree
  let drainFree := drainStart + drain
  { issueFree := issueFree, fillFree := fillFree, drainFree := drainFree,
    bank0 := if odd then c.bank0 else drainFree, bank1 := if odd then drainFree else c.bank1,
    tiles := ⟨fillStart, issueStart, drainStart, rows⟩ :: c.tiles }

/-- Valid rows of every tile in processing order, row tiles outer (R71). -/
def matTileRows (k : MatKind) (d : Desc) : List Nat :=
  let t := matTile k
  (List.range (ceilDiv d.matM t)).flatMap fun r =>
    List.replicate (ceilDiv d.matN t) (min t (d.matM - r * t))

/-- Issue cycles of one tile (R73, R145). -/
def matIssue (k : MatKind) (d : Desc) : Nat :=
  if k = .fullSum then 0 else (if d.matPack then ceilDiv d.matK 2 else d.matK) * matC k d

/-- R73's loop over the tiles. -/
def matCountState (op : Op) (d : Desc) : CountState :=
  let k := matKind op d
  let fills := d.matAccumulate || decide (k = .fullSum)
  (matTileRows k d).foldl (fun (p : CountState × Bool) r =>
    (countTile fills (matFill k d r) (matDrain k d r) (matTail k d) (matIssue k d) p.2 r p.1, !p.2))
    (⟨0, 0, 0, 0, 0, []⟩, false) |>.1

/-- The cycle count of R73 and R145, in AK cycles. -/
def matCount (op : Op) (d : Desc) : Nat :=
  (matCountState op d).drainFree + 16 + matFusedLatency (matKind op d) d

/-- First issue cycles of the passes of a command: each tile's issue cut into passes of 2 048 AK cycles (R72). -/
def matPassStarts (op : Op) (d : Desc) : List Nat :=
  let i := matIssue (matKind op d) d
  (matCountState op d).tiles.reverse.flatMap fun t =>
    (List.range (ceilDiv i 2048)).map fun p => t.issue + 2048 * p

/-- Bytes per AK cycle of an operand stream (R67). -/
def streamBytes (t : Ty) (packed kaolin : Bool) : Nat :=
  match t with
  | .bf16 | .fp16 => 64
  | .fp32 => 32
  | .ci16 => 128
  | .int8 => 128
  | .e2m1 => (if packed then 128 else 64) / (if kaolin then 2 else 1)
  | .e3m2 | .e2m3 => (if packed then 192 else 96) / (if kaolin then 2 else 1)
  | _ => 128 / (if kaolin then 2 else 1)

/-- Whether the streams of a command fit their paths (R64, R67). -/
def pathWidthOk (d : Desc) : Bool :=
  let a := streamBytes d.tyA d.matPack d.matKaolin
  let b := streamBytes d.tyB d.matPack d.matKaolin
  let priv := (if scrTier d.matAAddr = 0 then a else 0) + (if scrTier d.matBAddr = 0 then b else 0)
  let shar := (if scrTier d.matAAddr = 1 then a else 0) + (if scrTier d.matBAddr = 1 then b else 0)
  decide (priv ≤ 256) && decide (shar ≤ 192)

/-- A parameter range beyond the loaded entries (R138). -/
def paramBeyond (mode idx m n len : Nat) : Bool :=
  decide (mode ≠ 0) && decide (len * 16 < idx + modeCount mode m n)

/-- Output type rules shared by the tile outputs: sub-byte types only as MX, the MX bit only on MX types (R136). -/
def outTypeBad (t : Ty) (mx : Bool) : Bool :=
  (mx && !t.canMx) || (decide (t.bytes = 0) && !mx) || decide (t = .ci16)

/-- R27, R136, R138, R145: pairings of types, MX bits and forms. -/
def matPairingBad (op : Op) (d : Desc) : Bool :=
  let a := d.tyA
  let b := d.tyB
  let o := d.tyOut
  match op with
  | .cmatmul =>
    decide (a ≠ .ci16) || decide (b ≠ .ci16) || decide (o ≠ .ci16) || d.matKaolin || d.matMxA || d.matMxB || d.matMxOut
      || d.matRecordOut
  | .fullSum =>
    !d.matKaolin || decide (scrTier d.matAAddr ≠ 0) || decide (decide (o = .krec) ≠ d.matRecordOut)
      || outTypeBad o d.matMxOut
  | _ =>
    let pair := (a.fp8ish && b.fp8ish) ||
      (decide (a = b) && (decide (a = .int8) || decide (a = .bf16) || decide (a = .fp16) || decide (a = .fp32)))
    !pair || (d.matMxA && !a.canMx) || (d.matMxB && !b.canMx)
      || (decide (a.bytes = 0) && !d.matMxA) || (decide (b.bytes = 0) && !d.matMxB)
      || decide (decide (o = .krec) ≠ d.matRecordOut) || (d.matRecordOut && !d.matKaolin)
      || outTypeBad o d.matMxOut

/-- Whether a fused stage or a fill line scale is named (R98, R100). -/
def Desc.matFused (d : Desc) : Bool :=
  d.matLater || decide (d.matOutExp ≠ 0) || d.matMxOut || decide (d.matFillScaleMode ≠ 0)

/-- The 0x02xx reasons of a matrix descriptor in increasing code order (R163, R164), 0x0201, 0x0202, the header's share of
0x0203 and 0x0212 apart. -/
def matReasons (op : Op) (d : Desc) (numfwOk : Bool) : List (Nat × Bool) :=
  let k := matKind op d
  let types := (Ty.ofCode d.matAType).isNone || (Ty.ofCode d.matBType).isNone || (Ty.ofCode d.matOutType).isNone
  let enc := decide (8 ≤ d.matAct) || decide (d.matOutExp < -64) || decide (63 < d.matOutExp)
    || decide (d.matFillScaleMode = 1)
  let kaoAny := d.matKaolin
  let starts := [d.matAAddr, d.matDAddr] ++ (if op = .fullSum then [] else [d.matBAddr])
    ++ (if d.matAccumulate then [d.matCAddr] else []) ++ (if d.matMxA then [d.matAScaleAddr] else [])
    ++ (if d.matMxB then [d.matBScaleAddr] else []) ++ (if d.matMxOut then [d.matOutScaleAddr] else [])
  [(0x0203, types || enc),
   (0x0204, decide (d.matM = 0) || decide (d.matN = 0) || decide (d.matK = 0) || decide (1024 < d.matParamLen)
      || paramBeyond d.matInscaleMode d.matInscaleIdx d.matM d.matN d.matParamLen
      || paramBeyond d.matBiasMode d.matBiasIdx d.matM d.matN d.matParamLen
      || paramBeyond d.matFillScaleMode d.matFillScaleIdx d.matM d.matN d.matParamLen),
   (0x0205, starts.any fun a => decide (a % 64 ≠ 0)),
   (0x0206, matPairingBad op d),
   (0x0207, d.matPack && !(decide (op = .matmul) && d.matMxA && d.matMxB && decide (d.tyA.bytes = 0)
      && decide (d.tyB.bytes = 0))),
   (0x0208, (decide (k = .kaolin) && (decide (d.tyA = .bf16) || decide (d.tyA = .fp16) || decide (d.tyA = .fp32)))
      || (kaoAny && decide (d.matFillScaleMode ≠ 0))),
   (0x0209, decide (d.matWindowBase < -320) || decide (127 < d.matWindowBase)),
   (0x020A, decide (op ≠ .fullSum) && !pathWidthOk d),
   (0x020B, d.matFused && (decide (k = .ci16) || decide (k = .fullSum) || d.matRecordOut)),
   (0x020C, (d.matAccumulate && (decide (k = .ci16) || decide (k = .fullSum)))
      || (d.matCRecord && !(decide (k = .kaolin) && d.matAccumulate)))] ++
  [(0x020D, decide (16384 < modeCount d.matInscaleMode d.matM d.matN + modeCount d.matBiasMode d.matM d.matN
      + modeCount d.matFillScaleMode d.matM d.matN)),
   (0x0210, decide (26400 < matCount op d)),
   (0x0211, segPath d.matActF d.tyOut && !numfwOk)]

/-- The type of C (R77). -/
def matCType (k : MatKind) (d : Desc) : Ty :=
  match k with
  | .int8 => .int32
  | .kaolin => if d.matCRecord then .krec else .fp32
  | _ => .fp32

/-- Type of the panels a FULL_SUM or an operand uses. -/
def matSetStride (d : Desc) : Nat := d.matAPanelStride * 64

/-- The read set of a matrix command (R66, R68, R77, R138, R145). -/
def matReadSet (op : Op) (d : Desc) : List Ext :=
  let k := matKind op d
  let param : List Ext := if d.matParamLen = 0 then [] else
    [⟨0, d.matParamAddr * 64, d.matParamLen * 16 * (if d.matParamBf16 then 2 else 4)⟩]
  let c := if d.matAccumulate then
    operandExts (matCType k d) 0 d.matCAddr (d.matOutPanelStride * 64) d.matN d.matM else []
  if k = .fullSum then
    ((List.range d.matK).flatMap fun r =>
      operandExts .krec 0 (scrOff d.matAAddr + r * matSetStride d) (d.matOutPanelStride * 64) d.matN d.matM) ++ param
  else
    operandExts d.tyA (scrTier d.matAAddr) (scrOff d.matAAddr) (d.matAPanelStride * 64) d.matM d.matK
      ++ operandExts d.tyB (scrTier d.matBAddr) (scrOff d.matBAddr) (d.matBPanelStride * 64) d.matN d.matK
      ++ (if d.matMxA then scaleExts d.matAScaleAddr d.matM d.matK else [])
      ++ (if d.matMxB then scaleExts d.matBScaleAddr d.matN d.matK else []) ++ c ++ param

/-- The outputs of a matrix command, one list per operand (R69, R102). -/
def matOutputs (_op : Op) (d : Desc) : List (List Ext) :=
  let o := d.tyOut
  [operandExts o 0 d.matDAddr (d.matOutPanelStride * 64) d.matN d.matM]
    ++ (if d.matMxOut then [scaleExts d.matOutScaleAddr d.matN d.matM] else [])

/-- How many lanes a panel has for the output. -/
def outLanes (k : MatKind) : Nat := matTile k

/-- Reads a scratchpad byte of the private (0) or shared (1) allocation. -/
abbrev ScrRead := Nat → Nat → Byte

/-- Operand element (lane, step) of A: value with its scale (R24, R66). -/
def matAVal (rd : ScrRead) (d : Desc) (i k : Nat) : Fl :=
  let p := i / d.tyA.lanes
  let l := i % d.tyA.lanes
  let v := d.tyA.value (panelCode (rd (scrTier d.matAAddr)) d.tyA (scrOff d.matAAddr + p * d.matAPanelStride * 64) l k)
  if d.matMxA then (mxScale (scaleCode (rd 0) (d.matAScaleAddr + p * scaleStride d.matK) l k)).mul v else v

/-- Operand element (lane, step) of B. -/
def matBVal (rd : ScrRead) (d : Desc) (j k : Nat) : Fl :=
  let p := j / d.tyB.lanes
  let l := j % d.tyB.lanes
  let v := d.tyB.value (panelCode (rd (scrTier d.matBAddr)) d.tyB (scrOff d.matBAddr + p * d.matBPanelStride * 64) l k)
  if d.matMxB then (mxScale (scaleCode (rd 0) (d.matBScaleAddr + p * scaleStride d.matK) l k)).mul v else v

/-- CI16 components of an operand element, with conjugation in 17 bits (R26, R85). -/
def ciParts (code : Nat) (conj : Bool) : Int × Int :=
  let re := toSigned 16 code
  let im := toSigned 16 (code / 65536)
  (re, if conj then -im else im)

/-- The code of C's element (i, j) (R77). -/
def matCCode (rd : ScrRead) (d : Desc) (t : Ty) (i j : Nat) : Nat :=
  panelCode (rd 0) t (d.matCAddr + j / t.lanes * d.matOutPanelStride * 64) (j % t.lanes) i

/-- An entry of the parameter store for a mode (R96, R138). -/
def matParam (par : ParamRead) (mode idx i j : Nat) : Fl := par (idx + modeIdx mode i j)

/-- Fast accumulation of one element in the order of R37. -/
def fastAcc (acc : Fl) (a b : Nat → Fl) (kTop : Nat) (packed : Bool) : Fl :=
  if packed then
    (List.range (ceilDiv kTop 2)).foldl (fun acc j =>
      let p := (a (2 * j)).mul (b (2 * j))
      let p := if 2 * j + 1 < kTop then p.add ((a (2 * j + 1)).mul (b (2 * j + 1))) else p
      fmtFP32.round (acc.add p)) acc
  else
    (List.range kTop).foldl (fun acc k => fmtFP32.round (acc.add ((a k).mul (b k)))) acc

/-- The input stage of R98: a × s + b exactly, rounded once to FP32. -/
def inputStage (x s b : Fl) : Fl := fp32Fma x s b

/-- Stages 2 to 4 of R98 on an entry value; `count` is what the entry conversion counted. -/
def matFinish (par : ParamRead) (fw : Numfw) (d : Desc) (i j : Nat) (x : Fl) (count : Nat) : Elem :=
  let x := if d.matInputStage then
      inputStage x (if d.matInscaleMode = 0 then Fl.one else matParam par d.matInscaleMode d.matInscaleIdx i j)
        (if d.matBiasMode = 0 then Fl.zero else matParam par d.matBiasMode d.matBiasIdx i j)
    else x
  let a := d.matActF
  { out := actStage fw a d.matOutExp d.tyOut x, raw := 0, sat := count, inv := if actInvalid a x then 1 else 0,
    satHi := false, satLo := false }

/-- A kaolin element at drain (R43, R48, R49). -/
def kaoFinish (par : ParamRead) (fw : Numfw) (d : Desc) (i j : Nat) (k0 : Kao) : Elem :=
  let w := d.matWindowBase
  let k := k0.clamp
  if d.matRecordOut then
    { out := .exact Fl.zero, raw := k.record w, sat := 0, inv := 0, satHi := k.satHi, satLo := k.satLo }
  else
    let v := k.toFl w
    let e :=
      if d.matLater then
        let (c, n) := fmtFP32.encode d.matOutSat v
        matFinish par fw d i j (fmtFP32.decode c) (if n then 1 else 0)
      else matFinish par fw d i j v 0
    { e with satHi := k.satHi, satLo := k.satLo }

/-- An INT32 element of C under a fill line scale in INT8 mode: the product is formed exactly and rounded once, half to even, to
the integer its accumulator holds (R103). DEDUCED, log entry 11. A product that is not finite, or that does not fit the 40 bits of the
accumulator (R35), is a free value, log entry 11. -/
def int8FillScaled (c : Int) (f : Fl) : Int :=
  let free := Config.int8FillScale c (fp32Code f)
  match (Fl.ofInt c).mul f with
  | .fin s m e =>
    let r : Nat := if 0 ≤ e then m * 2 ^ e.toNat else rneShift m (-e).toNat false
    if s && decide (r ≤ 2 ^ 39) then -(r : Int) else if !s && decide (r < 2 ^ 39) then r else free
  | _ => free

/-- What the fill of C puts into an element's accumulator, or the cleared element (R37, R40, R77, R103). A FULL_SUM fills its K sets of
records one after another, each added in. -/
def matFillAcc (rd : ScrRead) (par : ParamRead) (op : Op) (d : Desc) (i j : Nat) : Acc :=
  let scale := matParam par d.matFillScaleMode d.matFillScaleIdx i j
  match matKind op d with
  | .ci16 => .pair 0 0
  | .fullSum =>
    .kaolin ((List.range d.matK).foldl (fun (k : Kao) r =>
      k.addRecord d.matWindowBase (panelCode (rd 0) .krec
        (scrOff d.matAAddr + r * matSetStride d + j / 128 * d.matOutPanelStride * 64) (j % 128) i)) Kao.zero)
  | .kaolin =>
    .kaolin (if d.matAccumulate then
        if d.matCRecord then Kao.zero.addRecord d.matWindowBase (matCCode rd d .krec i j)
        else Kao.zero.addFl d.matWindowBase (fmtFP32.decode (matCCode rd d .fp32 i j))
      else Kao.zero)
  | .int8 =>
    .int40 (if d.matAccumulate then
        let c := toSigned 32 (matCCode rd d .int32 i j)
        if d.matFillScaleMode = 0 then c else int8FillScaled c scale
      else 0)
  | .fp =>
    .fp32 (if d.matAccumulate then
        if d.matFillScaleMode = 0 then matCCode rd d .fp32 i j
        else fp32Code (fp32Mul (fmtFP32.decode (matCCode rd d .fp32 i j)) scale)
      else 0)

/-- The accumulator element of output (i, j) after the products of k below `kTop` (R29, R36, R37, R42, R83, R85). -/
def matAcc (rd : ScrRead) (par : ParamRead) (op : Op) (d : Desc) (i j kTop : Nat) : Acc :=
  let c := matFillAcc rd par op d i j
  match matKind op d with
  | .ci16 =>
    let code (addr stride lane step : Nat) : Nat :=
      panelCode (rd (scrTier addr)) .ci16 (scrOff addr + lane / 32 * stride * 64) (lane % 32) step
    let (re, im) := (List.range kTop).foldl (fun (p : Int × Int) kk =>
      let (ar, ai) := ciParts (code d.matAAddr d.matAPanelStride i kk) d.matConjA
      let (br, bi) := ciParts (code d.matBAddr d.matBPanelStride j kk) d.matConjB
      (p.1 + ar * br - ai * bi, p.2 + ar * bi + ai * br)) c.parts
    .pair re im
  | .fullSum => c
  | .kaolin =>
    .kaolin ((List.range kTop).foldl (fun (k : Kao) kk =>
      k.addFl d.matWindowBase ((matAVal rd d i kk).mul (matBVal rd d j kk))) c.kao)
  | .int8 =>
    .int40 ((List.range kTop).foldl (fun (acc : Int) kk =>
      acc + toSigned 8 (panelCode (rd (scrTier d.matAAddr)) .int8
          (scrOff d.matAAddr + i / 128 * d.matAPanelStride * 64) (i % 128) kk)
        * toSigned 8 (panelCode (rd (scrTier d.matBAddr)) .int8
          (scrOff d.matBAddr + j / 128 * d.matBPanelStride * 64) (j % 128) kk)) c.int)
  | .fp => .fp32 (fp32Code (fastAcc c.fl (matAVal rd d i) (matBVal rd d j) kTop d.matPack))

/-- What the drain of an accumulator element gives (R35, R36, R48, R49, R98). -/
def matDrained (par : ParamRead) (fw : Numfw) (op : Op) (d : Desc) (i j : Nat) (a : Acc) : Elem :=
  match matKind op d with
  | .ci16 =>
    let (r, s1) := satInt 16 (rneShiftInt a.parts.1 d.matShift)
    let (q, s2) := satInt 16 (rneShiftInt a.parts.2 d.matShift)
    { out := .exact Fl.zero, raw := ofSigned 16 r + 65536 * ofSigned 16 q,
      sat := (if s1 then 1 else 0) + (if s2 then 1 else 0), inv := 0, satHi := false, satLo := false }
  | .fullSum => kaoFinish par fw d i j a.kao
  | .kaolin => kaoFinish par fw d i j a.kao
  | .int8 =>
    let (v, s) := satInt 32 a.int
    let x := if d.matLater then fmtFP32.round (.ofInt v) else .ofInt v
    matFinish par fw d i j x (if s then 1 else 0)
  | .fp => matFinish par fw d i j a.fl 0

/-- One output element of a matrix command. -/
def matElem (rd : ScrRead) (par : ParamRead) (fw : Numfw) (op : Op) (d : Desc) (i j : Nat) : Elem :=
  matDrained par fw op d i j (matAcc rd par op d i j d.matK)

/-- Scale byte of block `b` of column `j` of an MX output, from the exact values of its valid rows (R33, R102). -/
def tileScale (t : Ty) (rows : Nat) (el : Nat → Nat → Elem) (j b : Nat) : Nat :=
  match t.fmt with
  | some f => mxBlockScaleA f ((List.range (min 32 (rows - 32 * b))).map fun r => (el (32 * b + r) j).out)
  | none => 0

/-- Code written for element (i, j), and whether narrowing counted it (R32 to R34, R98). -/
def tileCode (t : Ty) (mx outSat : Bool) (rows : Nat) (el : Nat → Nat → Elem) (i j : Nat) : Nat × Bool :=
  if t = .krec ∨ t = .ci16 then ((el i j).raw, false)
  else if mx then
    match t.fmt with
    | some f => mxElementA f (tileScale t rows el j (i / 32)) (el i j).out
    | none => (0, false)
  else outCode t outSat (el i j).out

/-- The value that the written code of element (i, j) stands for (R23, R24). -/
def tileValue (t : Ty) (mx outSat : Bool) (rows : Nat) (el : Nat → Nat → Elem) (i j : Nat) : Fl :=
  let v := t.value (tileCode t mx outSat rows el i j).1
  if mx then (mxScale (tileScale t rows el j (i / 32))).mul v else v

/-- The tile outputs of an element grid: bytes and what narrowing counted, with MX block scales when `mx` (R69, R98, R102).
`rows` steps and `cols` lanes, panels `stride` bytes apart, scale arrays at `sAddr`. -/
def tileOut (old : Nat → Byte) (t : Ty) (mx outSat : Bool) (addr sAddr stride rows cols : Nat)
    (el : Nat → Nat → Elem) : List (Nat × Byte) × Nat :=
  let lanes := t.lanes
  let panels := ceilDiv cols lanes
  let enc := tileCode t mx outSat rows el
  let bytes := (List.range panels).flatMap fun p =>
    panelWrites old t (addr + p * stride) (min lanes (cols - p * lanes)) rows fun l k => (enc k (p * lanes + l)).1
  let scales := if mx then
      (List.range cols).flatMap fun j => (List.range (ceilDiv rows 32)).map fun b =>
        (sAddr + j / 128 * scaleStride rows + b * 128 + j % 128, BitVec.ofNat 8 (tileScale t rows el j b))
    else []
  let sat := ((List.range rows).flatMap fun i => (List.range cols).map fun j => if (enc i j).2 then 1 else 0).sum
  (bytes ++ scales, sat)

/-- (row, column) of every element in drain order: row tiles outer, column tiles inner, rows ascending (R71, R76). -/
def drainOrder (m n t : Nat) : List (Nat × Nat) :=
  (List.range (ceilDiv m t)).flatMap fun rt => (List.range (ceilDiv n t)).flatMap fun ct =>
    (List.range (min t (m - rt * t))).flatMap fun r =>
      (List.range (min t (n - ct * t))).map fun c => (rt * t + r, ct * t + c)

/-- The result of a matrix command: what it writes in the private scratchpad and what its record counts. An element saturated as it
enters the output stages (R35, R98) and again as it is written counts in both places. DESIGN CHOICE, log entry 81. -/
def matRun (rd : ScrRead) (par : ParamRead) (fw : Numfw) (op : Op) (d : Desc) : EngOut :=
  let el := matElem rd par fw op d
  let elems := (drainOrder d.matM d.matN (matTile (matKind op d))).map fun p => el p.1 p.2
  let (ws, sat) := tileOut (rd 0) d.tyOut d.matMxOut d.matOutSat d.matDAddr d.matOutScaleAddr
    (d.matOutPanelStride * 64) d.matM d.matN el
  { writes := ws, sat := sat + (elems.map (·.sat)).sum, inv := (elems.map (·.inv)).sum,
    satHi := (elems.filter (·.satHi)).length, satLo := (elems.filter (·.satLo)).length,
    first := firstFlagged elems 0 }

/-- Input records a matrix command reads, for the check of 0x0308 (R49, R164). -/
def matInputRecords (rd : ScrRead) (op : Op) (d : Desc) : List Nat :=
  let k := matKind op d
  let grid := (List.range d.matM).flatMap fun i => (List.range d.matN).map fun j => (i, j)
  if k = .fullSum then
    (List.range d.matK).flatMap fun r => grid.map fun p =>
      panelCode (rd 0) .krec (scrOff d.matAAddr + r * matSetStride d + p.2 / 128 * d.matOutPanelStride * 64)
        (p.2 % 128) p.1
  else if k = .kaolin ∧ d.matAccumulate ∧ d.matCRecord then
    grid.map fun p => matCCode rd d .krec p.1 p.2
  else []

/-- Valid columns of every tile in processing order (R71). -/
def matTileCols (k : MatKind) (d : Desc) : List Nat :=
  let t := matTile k
  (List.range (ceilDiv d.matM t)).flatMap fun _ =>
    (List.range (ceilDiv d.matN t)).map fun c => min t (d.matN - c * t)

/-- Passes of a command as (first issue cycle, AK cycles, active cell-steps): valid rows × valid columns × steps (R72, R81). -/
def matPasses (op : Op) (d : Desc) : List (Nat × Nat × Nat) :=
  let k := matKind op d
  let i := matIssue k d
  (List.zip (matCountState op d).tiles.reverse (matTileCols k d)).flatMap fun t =>
    (List.range (ceilDiv i 2048)).map fun p =>
      (t.1.issue + 2048 * p, min 2048 (i - 2048 * p), t.1.rows * t.2 * (min 2048 (i - 2048 * p) / matC k d))

/-- Length and active cell-steps of the pass that begins at AK cycle `at_` or first after it; 0 when none does. -/
def matPassAt (op : Op) (d : Desc) (at_ : Nat) : Nat × Nat :=
  match (matPasses op d).find? fun p => at_ ≤ p.1 with
  | some p => p.2
  | none => (0, 0)

/-- Valid rows whose drain or fill is over after `at_` AK cycles of it, where `cycles r` is the time `r` rows take. -/
def rowsDone (cycles : Nat → Nat) (rows at_ : Nat) : Nat := ((List.range rows).filter fun r => decide (cycles (r + 1) ≤ at_)).length

/-- What bank `b` holds when pass `p` of a matrix command is about to issue (R37, R63, R73, R76, R77), by row × 128 + column of its
tile: the accumulators of the tile under way, what has not drained of the tile before, or what has been filled for the next one. -/
def matBank (rd : ScrRead) (par : ParamRead) (op : Op) (d : Desc) (p b : Nat) : Tab Acc :=
  let k := matKind op d
  let side := matTile k
  let cols := ceilDiv d.matN side
  let per := max 1 (ceilDiv (matIssue k d) 2048)
  let tiles := (matCountState op d).tiles.reverse
  let t := p / per
  let steps := p % per * 2048 / matC k d
  let now := (tiles.getD t default).issue + p % per * 2048
  let elems (t kTop from_ to_ : Nat) : Tab Acc :=
    ((List.range (to_ - from_)).flatMap fun r => (List.range (min side (d.matN - t % cols * side))).map fun c =>
      ((from_ + r) * 128 + c, matAcc rd par op d (t / cols * side + from_ + r) (t % cols * side + c) kTop)).filter
        fun q => !q.2.isClear
  let u := tiles.getD (t - 1) default
  let v := tiles.getD (t + 1) default
  if b = t % 2 then elems t (if d.matPack then min d.matK (2 * steps) else steps) 0 (tiles.getD t default).rows
  else if t ≠ 0 ∧ now < u.drain + matDrain k d u.rows then
    elems (t - 1) d.matK (rowsDone (matDrain k d) u.rows (now - u.drain)) u.rows
  else if d.matAccumulate ∧ v.fill < now then elems (t + 1) 0 0 (rowsDone (matFill k d) v.rows (now - v.fill))
  else []

end Sys2Proof.Machine
end

