-- ==== Sys2Proof/Machine/VecCore.lean ====
section
/-! DEFINITION. The vector commands as functions of a descriptor and of the private scratchpad bytes it reads: checks,
count, sets, and results (R95 to R126, R139, R140, R552, R553). -/

namespace Sys2Proof.Machine

def Desc.tyIn0 (d : Desc) : Ty := (Ty.ofCode d.vecIn0Type).getD .fp32
def Desc.tyIn1 (d : Desc) : Ty := (Ty.ofCode d.vecIn1Type).getD .fp32
def Desc.vecTyOut (d : Desc) : Ty := (Ty.ofCode d.vecOutType).getD .fp32
def Desc.vecActF (d : Desc) : Act := (Act.ofCode d.vecAct).getD .none
def Desc.vecInputStage (d : Desc) : Bool := decide (d.vecInscaleMode ≠ 0) || decide (d.vecBiasMode ≠ 0)

/-- Lines, and elements of a line, along the axis named (R139). -/
def Desc.vecLines (d : Desc) : Nat := if d.vecAxis = 0 then d.vecRows else d.vecCols
def Desc.vecLineLen (d : Desc) : Nat := if d.vecAxis = 0 then d.vecCols else d.vecRows

/-- Row and column of element `t` of line `l`. -/
def Desc.vecAt (d : Desc) (l t : Nat) : Nat × Nat := if d.vecAxis = 0 then (l, t) else (t, l)

/-- Sweeps s (R114). -/
def vecSweeps (op : Op) : Nat := if op = .softmaxStep then 2 else 1

/-- Pipeline latency λ (R114). -/
def vecLatency (op : Op) (d : Desc) : Nat :=
  match op with
  | .map => 6 + actLatency d.vecActF d.vecTyOut + (if d.vecMxOut then 12 else 0)
  | .convert => if d.vecMxOut then 12 else 4
  | .binary => 6
  | .lineMax => 10
  | .softmaxStep => 32
  | .softmaxExact => 30
  | .normalise => 12
  | .normStats => 40
  | _ => 10

/-- Bytes read per element across the main inputs (R115). -/
def vecInBytes (op : Op) (d : Desc) : Nat := d.tyIn0.bytes + (if op = .binary then d.tyIn1.bytes else 0)

/-- Elements per AK cycle (R115). -/
def vecRate (op : Op) (d : Desc) : Nat := if vecInBytes op d ≤ 4 then 512 else 256

/-- The count of R115. -/
def vecCount (op : Op) (d : Desc) : Nat :=
  8 + vecSweeps op * ceilDiv (d.vecRows * d.vecCols) (vecRate op d) + vecLatency op d + 16

/-- First cycles of the passes: at most 2 048 AK cycles each from cycle 0, a sweep boundary always a pass boundary (R116). -/
def vecPassStarts (op : Op) (d : Desc) : List Nat :=
  let sweep := ceilDiv (d.vecRows * d.vecCols) (vecRate op d)
  let first := 8 + sweep
  let cut (a n : Nat) : List Nat := (List.range (max 1 (ceilDiv n 2048))).map fun p => a + 2048 * p
  if vecSweeps op = 1 then cut 0 (vecCount op d) else cut 0 first ++ cut first (vecCount op d - first)

/-- Whether the operation writes a tile. -/
def vecTileOp (op : Op) : Bool := decide (op ≠ .lineMax) && decide (op ≠ .normStats)

/-- Whether the input and output stages of MAP apply. -/
def vecMapLike (op : Op) : Bool := decide (op = .map) || decide (op = .convert)

/-- Parameter entries beyond the block, and how many a command names (R138, R140). -/
def vecParamRanges (op : Op) (d : Desc) : List (Nat × Nat) :=
  match op with
  | .map | .convert =>
    (if d.vecInscaleMode = 0 then [] else [(d.vecInscaleIdx, modeCount d.vecInscaleMode d.vecRows d.vecCols)])
      ++ (if d.vecBiasMode = 0 then [] else [(d.vecBiasIdx, modeCount d.vecBiasMode d.vecRows d.vecCols)])
  | .softmaxStep => [(d.vecStateIdx, 2 * d.vecLines)]
  | .softmaxExact => [(d.vecStateIdx, d.vecLines)]
  | .normalise => [(d.vecStateIdx, d.vecLines)]
  | .normApply => [(d.vecInscaleIdx, 2 * d.vecLines), (d.vecBiasIdx, 2 * d.vecLineLen)]
  | _ => []

/-- Fields R140 does not list for an operation, which must be 0: those that its table has columns for. A mode field of the body that no
column names (SUBOP, RSQRT, RMS, ACT, INSCALE_MODE, BIAS_MODE, OUT_SCALE_ADDR) may hold any value where its operation does not use
it. DESIGN CHOICE, log entry 82. -/
def vecUnlisted (op : Op) (d : Desc) : Bool :=
  let in1 := decide (op ≠ .binary) && (decide (d.vecIn1Addr ≠ 0) || decide (d.vecIn1Type ≠ 0))
  let out1 := decide (op ≠ .softmaxStep) && decide (op ≠ .softmaxExact) && decide (op ≠ .normStats)
    && decide (d.vecOut1Addr ≠ 0)
  let out2 := decide (op ≠ .softmaxStep) && decide (op ≠ .normStats) && decide (d.vecOut2Addr ≠ 0)
  let scaled := vecMapLike op || decide (op = .normApply)
  let inscale := !scaled && decide (d.vecInscaleIdx ≠ 0)
  let bias := !scaled && decide (d.vecBiasIdx ≠ 0)
  let state := decide (op ≠ .softmaxStep) && decide (op ≠ .softmaxExact) && decide (op ≠ .normalise)
    && decide (d.vecStateIdx ≠ 0)
  let fval := decide (op ≠ .normStats) && decide (d.vecFval ≠ 0)
  in1 || out1 || out2 || inscale || bias || state || fval

/-- Types and combinations not allowed (R118, R120, R124, R136): SOFTMAX_STEP reads FP32 and writes BF16 or E4M3, SOFTMAX_EXACT writes
a format of the exact path (R101). A partial record as main input is refused here, with 0x0206, and not as a read of more than
8 B per element. DESIGN CHOICE, log entry 67. -/
def vecPairingBad (op : Op) (d : Desc) : Bool :=
  let badIn (t : Ty) : Bool := decide (t.bytes = 0) || decide (t = .ci16) || decide (t = .krec)
  let o := d.vecTyOut
  badIn d.tyIn0 || (decide (op = .binary) && badIn d.tyIn1)
    || (vecTileOp op && (outTypeBad o d.vecMxOut || decide (o = .krec)))
    || (d.vecMxOut && !(vecTileOp op))
    || (decide (op = .softmaxStep) && (decide (d.tyIn0 ≠ .fp32) || d.vecMxOut || (decide (o ≠ .bf16) && decide (o ≠ .e4m3))))
    || (decide (op = .softmaxExact) && (decide (o = .fp32) || decide (o = .int32)))
    || (decide (op = .normStats) && d.vecKaolin && decide (d.tyIn0 ≠ .fp32) && decide (d.tyIn0 ≠ .bf16)
        && decide (d.tyIn0 ≠ .fp16))

/-- The 0x02xx reasons of a vector descriptor in increasing code order (R163, R164). SOFTMAX_EXACT asks for neither KAOLIN nor
RECORD_OUT, and is the same with and without them (R120). DESIGN CHOICE, log entry 82. -/
def vecReasons (op : Op) (d : Desc) (numfwOk : Bool) : List (Nat × Bool) :=
  let types := (Ty.ofCode d.vecIn0Type).isNone || (Ty.ofCode d.vecOutType).isNone || (Ty.ofCode d.vecIn1Type).isNone
  let enc := decide (8 ≤ d.vecAct) || decide (d.vecOutExp < -64) || decide (63 < d.vecOutExp) || decide (3 < d.vecSubop)
  let reserved := decide (field d 196 128 ≠ 0)
  let ranges := vecParamRanges op d
  let seg := (vecMapLike op && segPath d.vecActF d.vecTyOut) || decide (op = .softmaxStep)
    || (decide (op = .normStats) && d.vecRsqrt)
  [(0x0203, types || enc || reserved || vecUnlisted op d),
   (0x0204, decide (d.vecRows = 0) || decide (d.vecCols = 0) || decide (1024 < d.vecParamLen)
      || ranges.any fun r => decide (d.vecParamLen * 16 < r.1 + r.2)),
   (0x0206, vecPairingBad op d),
   (0x0208, decide (op = .softmaxStep) && d.vecKaolin),
   (0x0209, decide (d.vecWindowBase < -320) || decide (127 < d.vecWindowBase)),
   (0x020D, decide (16384 < (ranges.map (·.2)).sum)),
   (0x020F, decide (8 < vecInBytes op d)),
   (0x0210, decide (26400 < vecCount op d)),
   (0x0211, seg && !numfwOk)]

/-- Byte ranges of a tile of ROWS rows and COLS columns at an address (R553). -/
def vecTileExts (t : Ty) (addr rows cols : Nat) : List Ext := operandExts t 0 addr (t.vecPanel rows) cols rows

/-- The read set of a vector command. -/
def vecReadSet (op : Op) (d : Desc) : List Ext :=
  vecTileExts d.tyIn0 d.vecIn0Addr d.vecRows d.vecCols
    ++ (if op = .binary then vecTileExts d.tyIn1 d.vecIn1Addr d.vecRows d.vecCols else [])
    ++ (if d.vecParamLen = 0 then []
        else [⟨0, d.vecParamAddr * 64, d.vecParamLen * 16 * (if d.vecParamBf16 then 2 else 4)⟩])

/-- Whether NORM_STATS writes records (R124). -/
def Desc.vecStatsRecords (d : Desc) : Bool := d.vecKaolin && d.vecRecordOut

/-- The outputs of a vector command, one list per operand (R140, R553). -/
def vecOutputs (op : Op) (d : Desc) : List (List Ext) :=
  let l := d.vecLines
  let tile := vecTileExts d.vecTyOut d.vecOut0Addr d.vecRows d.vecCols
  match op with
  | .lineMax => [[⟨0, d.vecOut0Addr, 4 * l⟩]]
  | .softmaxStep => [tile, [⟨0, d.vecOut1Addr, 8 * l⟩], [⟨0, d.vecOut2Addr, 4 * l⟩]]
  | .softmaxExact => [tile, [⟨0, d.vecOut1Addr, 32 * l⟩]]
    ++ (if d.vecMxOut then [scaleExts d.vecOutScaleAddr d.vecCols d.vecRows] else [])
  | .normStats =>
    if d.vecStatsRecords then
      [[⟨0, d.vecOut0Addr, 32 * l⟩], [⟨0, d.vecOut1Addr, 32 * l⟩], [⟨0, d.vecOut2Addr, 8 * l⟩]]
    else
      [[⟨0, d.vecOut0Addr, 4 * l⟩]] ++ (if d.vecRms then [] else [[⟨0, d.vecOut1Addr, 4 * l⟩]])
        ++ (if d.vecRsqrt then [[⟨0, d.vecOut2Addr, 4 * l⟩]] else [])
  | _ => [tile] ++ (if d.vecMxOut then [scaleExts d.vecOutScaleAddr d.vecCols d.vecRows] else [])

/-- Input element (i, j) of a tile. -/
def vecElemAt (rd : Nat → Byte) (t : Ty) (addr rows i j : Nat) : Fl :=
  t.value (panelCode rd t (addr + j / 128 * t.vecPanel rows) (j % 128) i)

/-- Main input element (i, j). -/
def vecIn0 (rd : Nat → Byte) (d : Desc) (i j : Nat) : Fl := vecElemAt rd d.tyIn0 d.vecIn0Addr d.vecRows i j

/-- Second input element (i, j). -/
def vecIn1 (rd : Nat → Byte) (d : Desc) (i j : Nat) : Fl := vecElemAt rd d.tyIn1 d.vecIn1Addr d.vecRows i j

/-- A line of the main input. -/
def vecLine (rd : Nat → Byte) (d : Desc) (l : Nat) : List Fl :=
  (List.range d.vecLineLen).map fun t => let p := d.vecAt l t; vecIn0 rd d p.1 p.2

/-- MAP and CONVERT on one element (R98, R114). -/
def mapElem (rd : Nat → Byte) (par : ParamRead) (fw : Numfw) (d : Desc) (i j : Nat) : Elem :=
  let x := vecIn0 rd d i j
  let later := d.vecInputStage || decide (d.vecAct ≠ 0)
  let x := if later then fmtFP32.round x else x
  let x := if d.vecInputStage then
      inputStage x
        (if d.vecInscaleMode = 0 then Fl.one else par (d.vecInscaleIdx + modeIdx d.vecInscaleMode i j))
        (if d.vecBiasMode = 0 then Fl.zero else par (d.vecBiasIdx + modeIdx d.vecBiasMode i j))
    else x
  let a := d.vecActF
  { out := actStage fw a d.vecOutExp d.vecTyOut x, raw := 0, sat := 0, inv := if actInvalid a x then 1 else 0,
    satHi := false, satLo := false }

/-- BINARY on two values: FP32, one rounding each (R114, R552). -/
def binaryOp (sub : Nat) (a b : Fl) : Fl :=
  let a := fmtFP32.round a
  let b := fmtFP32.round b
  match sub with
  | 0 => fp32Add a b
  | 1 => fp32Mul a b
  | 2 => a.max b
  | _ => a.min b

/-- OUT_EXP scales the result of BINARY before the final rounding, as it does in NORMALISE, where the manual names an output stage only
for MAP and NORM_APPLY (R114, R125). DESIGN CHOICE, log entry 68. -/
def binaryElem (rd : Nat → Byte) (d : Desc) (i j : Nat) : Elem :=
  .plain (.exact ((binaryOp d.vecSubop (vecIn0 rd d i j) (vecIn1 rd d i j)).scale2 d.vecOutExp))

/-- NORMALISE: IEEE division by the line's factor (R114); OUT_EXP as in `binaryElem`. DESIGN CHOICE, log entry 68. -/
def normaliseElem (rd : Nat → Byte) (par : ParamRead) (d : Desc) (i j : Nat) : Elem :=
  let l := if d.vecAxis = 0 then i else j
  .plain (.exact ((fp32Div (fmtFP32.round (vecIn0 rd d i j)) (par (d.vecStateIdx + l))).scale2 d.vecOutExp))

/-- NORM_APPLY on one element (R125). -/
def normApplyElem (rd : Nat → Byte) (par : ParamRead) (d : Desc) (i j : Nat) : Elem :=
  let (l, t) := if d.vecAxis = 0 then (i, j) else (j, i)
  let x := fmtFP32.round (vecIn0 rd d i j)
  let x := if d.vecRms then x else fp32Sub x (par (d.vecInscaleIdx + 2 * l))
  let y := fp32Mul x (par (d.vecInscaleIdx + 2 * l + 1))
  let y := fp32Fma y (par (d.vecBiasIdx + 2 * t)) (par (d.vecBiasIdx + 2 * t + 1))
  .plain (.exact (y.scale2 d.vecOutExp))

/-- Maximum of a nonempty line (R552). -/
def lineMax (xs : List Fl) : Fl :=
  match xs with
  | [] => .nan
  | x :: xs => xs.foldl Fl.max x

/-- Combines neighbours once. -/
def pairUp {α : Type} (f : α → α → α) : List α → List α
  | a :: b :: t => f a b :: pairUp f t
  | t => t

/-- The fixed tree over 32 partials: five levels (R122). -/
def tree32 {α : Type} (f : α → α → α) (d : α) (xs : List α) : α :=
  (pairUp f (pairUp f (pairUp f (pairUp f (pairUp f xs))))).headD d

/-- Elements t with t mod 32 = p, in increasing t. -/
def partialOf (xs : List Fl) (p : Nat) : List Fl :=
  (List.range (ceilDiv (xs.length - p) 32)).filterMap fun q => xs[32 * q + p]?

/-- Σ over 32 partial sums and the fixed tree, FP32 additions (R118, R122). -/
def treeSum (xs : List Fl) : Fl :=
  tree32 fp32Add Fl.zero ((List.range 32).map fun p => (partialOf xs p).foldl fp32Add Fl.zero)

/-- A partial of NORM_STATS: count, mean, sum of squared deviations (R121). -/
structure Moment where
  n    : Nat
  mean : Fl
  m2   : Fl
  deriving DecidableEq, Repr

def Moment.empty : Moment := ⟨0, Fl.zero, Fl.zero⟩

/-- One update (R121). -/
def Moment.update (p : Moment) (x : Fl) : Moment :=
  let n := p.n + 1
  let d := fp32Sub x p.mean
  let mean := fp32Add p.mean (fp32Div d (fmtFP32.round (.ofInt n)))
  ⟨n, mean, fp32Add p.m2 (fp32Mul d (fp32Sub x mean))⟩

/-- Two partials combined (R122). -/
def Moment.combine (a b : Moment) : Moment :=
  let n := a.n + b.n
  if n = 0 then Moment.empty
  else
    let f (k : Nat) : Fl := fmtFP32.round (.ofInt k)
    let d := fp32Sub b.mean a.mean
    let mean := fp32Add a.mean (fp32Mul d (fp32Div (f b.n) (f n)))
    ⟨n, mean, fp32Add (fp32Add a.m2 b.m2) (fp32Mul (fp32Mul d d) (fp32Div (fp32Mul (f a.n) (f b.n)) (f n)))⟩

def lineMoment (xs : List Fl) : Moment :=
  tree32 Moment.combine Moment.empty ((List.range 32).map fun p => (partialOf xs p).foldl Moment.update Moment.empty)

/-- n / d as FP32 from an integer numerator scaled by 2^e. A statistic above the range is infinity, whatever OUT_SAT says, and counts
nowhere. DESIGN CHOICE, log entry 81. -/
def quotFp32 (n : Int) (d : Nat) (e : Int) : Fl :=
  if n = 0 then Fl.zero
  else fmtFP32.decode (fmtFP32.encodeQuot false (decide (n < 0)) n.natAbs d e).1

/-- Per line: what NORM_STATS writes (R123, R124): first, second and third output bytes, flags, and invalid count. -/
structure LineStats where
  o0 : Bytes
  o1 : Bytes
  o2 : Bytes
  hi : Bool
  lo : Bool
  inv : Nat
  deriving DecidableEq, Repr

/-- The reciprocal deviation rsqrt(x + ε) on the segment path. -/
def recipDev (fw : Numfw) (d : Desc) (x : Fl) : Fl × Nat :=
  let a := fp32Add x (fmtFP32.decode d.vecFval)
  (fmtFP32.round (segValue fw .rsqrt a), if actInvalid .rsqrt a then 1 else 0)

def f32le (v : Fl) : Bytes := leBytes 4 (fp32Code v)

/-- NORM_STATS on one line (R123, R124). The RMS form rounds each square and each addition to FP32: whether the step is fused is not
stated. DESIGN CHOICE, log entry 69. A line of one element has variance +0, whatever its size. In the kaolin RMS form the flags of the
sum of x, which no output uses, count as well. DESIGN CHOICE, log entry 81. -/
def lineStats (fw : Numfw) (d : Desc) (xs : List Fl) : LineStats :=
  let n := xs.length
  if d.vecKaolin then
    let w := d.vecWindowBase
    let sx := (xs.foldl (fun (k : Kao) x => k.addFl w x) Kao.zero).clamp
    let sq := (xs.foldl (fun (k : Kao) x => k.addFl w (x.mul x)) Kao.zero).clamp
    let hi := sx.satHi || sq.satHi
    let lo := sx.satLo || sq.satLo
    if d.vecStatsRecords then
      ⟨leBytes 32 (sx.record w), leBytes 32 (sq.record w), leBytes 8 n, hi, lo, 0⟩
    else
      let bad := sx.nan || sx.pinf || sx.ninf || sq.nan || sq.pinf || sq.ninf
      let mean := if bad then .nan else quotFp32 sx.v n w
      let ms := if bad then .nan else quotFp32 sq.v n w
      -- (n Σx² − (Σx)²) / n² over units 2^W for Σx² and 2^2W for (Σx)²
      let num : Int :=
        if 0 ≤ w then (n : Int) * sq.v - sx.v * sx.v * ((2 ^ w.toNat : Nat) : Int)
        else (n : Int) * sq.v * ((2 ^ (-w).toNat : Nat) : Int) - sx.v * sx.v
      let var := if bad then .nan else quotFp32 num (n * n) (if 0 ≤ w then w else 2 * w)
      let (rd, inv) := recipDev fw d (if d.vecRms then ms else var)
      ⟨f32le (if d.vecRms then ms else mean), if d.vecRms then [] else f32le var,
       if d.vecRsqrt then f32le rd else [], hi, lo, if d.vecRsqrt then inv else 0⟩
  else
    let bad := xs.any fun x => match x with
      | .fin _ _ _ => false
      | _ => true
    let ys := xs.map fmtFP32.round
    let nn := fmtFP32.round (.ofInt n)
    let ms := if bad then .nan else fp32Div (treeSum (ys.map fun y => fp32Mul y y)) nn
    let m := lineMoment ys
    let mean := if bad then .nan else m.mean
    let var := if bad then .nan else if n = 1 then Fl.zero else fp32Div m.m2 nn
    let (rd, inv) := recipDev fw d (if d.vecRms then ms else var)
    ⟨f32le (if d.vecRms then ms else mean), if d.vecRms then [] else f32le var,
     if d.vecRsqrt then f32le rd else [], false, false, if d.vecRsqrt then inv else 0⟩

/-- The P weight exp2(s − m) on the exact path to the P format (R118). -/
def softmaxWeight (t : Ty) (s m : Fl) : Fl := t.value (outCode t false (actValue .exp2 (fp32Sub s m))).1

/-- SOFTMAX_STEP on one line: (m_new, l_new, α, weights) (R118). -/
def softmaxLine (fw : Numfw) (t : Ty) (mOld lOld : Fl) (ss : List Fl) : Fl × Fl × Fl × List Fl :=
  let mTile := lineMax ss
  let mNew := mOld.max mTile
  match mNew with
  | .nan => (.nan, .nan, .nan, ss.map fun _ => .nan)
  | .inf true => (.inf true, lOld, Fl.one, ss.map fun _ => Fl.zero)
  | .inf false => (.nan, .nan, .nan, ss.map fun _ => .nan)
  | _ =>
    let alpha := fmtFP32.round (segValue fw .exp2 (fp32Sub mOld mNew))
    let ps := ss.map fun s => softmaxWeight t s mNew
    (mNew, fp32Add (fp32Mul alpha lOld) (treeSum ps), alpha, ps)

/-- Result of a vector command. Where NORM_STATS forms two kaolin sums of a line, the counts of R44 take the line once and the first
flagged index is the line's. DESIGN CHOICE, log entry 70. OUT_EXP has no effect on SOFTMAX_STEP and SOFTMAX_EXACT. DESIGN CHOICE, log
entry 68. -/
def vecRun (rd : Nat → Byte) (par : ParamRead) (fw : Numfw) (op : Op) (d : Desc) : EngOut :=
  let o := d.vecTyOut
  let rows := d.vecRows
  let cols := d.vecCols
  let tile (el : Nat → Nat → Elem) : List (Nat × Byte) × Nat :=
    tileOut rd o d.vecMxOut d.vecOutSat d.vecOut0Addr d.vecOutScaleAddr (o.vecPanel rows) rows cols el
  let plainTile (el : Nat → Nat → Elem) : EngOut :=
    let (ws, sat) := tile el
    let elems := (List.range rows).flatMap fun i => (List.range cols).map fun j => el i j
    { writes := ws, sat := sat + (elems.map (·.sat)).sum, inv := (elems.map (·.inv)).sum, satHi := 0, satLo := 0,
      first := none }
  let lines := List.range d.vecLines
  let weight (tbl : List (List Fl)) (i j : Nat) : Elem :=
    let (l, t) := if d.vecAxis = 0 then (i, j) else (j, i)
    .plain (.exact ((tbl.getD l []).getD t Fl.zero))
  match op with
  | .binary => plainTile (binaryElem rd d)
  | .normalise => plainTile (normaliseElem rd par d)
  | .normApply => plainTile (normApplyElem rd par d)
  | .lineMax =>
    { writes := lines.flatMap fun l => runWrites (d.vecOut0Addr + 4 * l) (f32le (lineMax ((vecLine rd d l).map
        fmtFP32.round))), sat := 0, inv := 0, satHi := 0, satLo := 0, first := none }
  | .softmaxStep =>
    let rs := lines.map fun l => softmaxLine fw o (par (d.vecStateIdx + 2 * l))
      (par (d.vecStateIdx + 2 * l + 1)) (vecLine rd d l)
    let (ws, sat) := tile (weight (rs.map fun r => r.2.2.2))
    { writes := ws ++ runWrites d.vecOut1Addr (rs.flatMap fun r => f32le r.1 ++ f32le r.2.1)
        ++ runWrites d.vecOut2Addr (rs.flatMap fun r => f32le r.2.2.1),
      sat := sat, inv := 0, satHi := 0, satLo := 0, first := none }
  | .softmaxExact =>
    let w := d.vecWindowBase
    let el (i j : Nat) : Elem :=
      .plain (actValue .exp2 (fp32Sub (fmtFP32.round (vecIn0 rd d i j)) (par (d.vecStateIdx + if d.vecAxis = 0 then i else j))))
    let (ws, sat) := tile el
    let ks := lines.map fun l => ((List.range d.vecLineLen).foldl (fun (k : Kao) t =>
      let p := d.vecAt l t
      k.addFl w (tileValue o d.vecMxOut d.vecOutSat rows el p.1 p.2)) Kao.zero).clamp
    { writes := ws ++ runWrites d.vecOut1Addr (ks.flatMap fun k => leBytes 32 (k.record w)),
      sat := sat, inv := 0, satHi := (ks.filter (·.satHi)).length, satLo := (ks.filter (·.satLo)).length,
      first := firstFlagged (ks.map fun k => { Elem.plain (.exact Fl.zero) with satHi := k.satHi, satLo := k.satLo }) 0 }
  | .normStats =>
    let rs := lines.map fun l => lineStats fw d (vecLine rd d l)
    { writes := runWrites d.vecOut0Addr (rs.flatMap (·.o0)) ++ runWrites d.vecOut1Addr (rs.flatMap (·.o1))
        ++ runWrites d.vecOut2Addr (rs.flatMap (·.o2)),
      sat := 0, inv := (rs.map (·.inv)).sum, satHi := (rs.filter (·.hi)).length, satLo := (rs.filter (·.lo)).length,
      first := firstFlagged (rs.map fun r => { Elem.plain (.exact Fl.zero) with satHi := r.hi, satLo := r.lo }) 0 }
  | _ => plainTile (mapElem rd par fw d)

end Sys2Proof.Machine
end

