-- ==== Sys2Proof/Machine/Loam.lean ====
section
/-! DEFINITION. Commands' byte sets and holds (R151, R152), and the loam pool: reference counts, frames, drops, fetches and
quotas (R190 to R204). -/

namespace Sys2Proof.Machine

-- Commands under way --------------------

def Cmd.op (x : Cmd) : Option Op := Op.ofCode (Desc.opcode x.desc)

/-- What a command reads, apart from the rows a GATHER names (R151). -/
def opReads (op : Op) (d : Desc) : List Ext :=
  match op.unit with
  | .engine => if op.isMatrix then matReadSet op d else vecReadSet op d
  | .dma => dmaReadSet op d
  | .fabric => fabReadSet op d
  | .hub => hubReadSet op d

/-- What a command writes (R151). -/
def opWrites (op : Op) (d : Desc) : List Ext :=
  match op.unit with
  | .engine => (if op.isMatrix then matOutputs op d else vecOutputs op d).flatten
  | .dma => dmaWriteSet op d
  | .fabric => fabWriteSet op d
  | .hub => hubWriteSet op d

/-- What context `c`'s command reads in full. -/
def State.readsOf (s : State) (c : Nat) (op : Op) (d : Desc) : List Ext :=
  opReads op d ++ (if op = .gather then gatherExts (s.ctxByte c) d else [])

/-- A command that has started and neither committed nor ended (R152, R155, R205). -/
def Cmd.holds (x : Cmd) : Bool := decide (x.phase ≠ .waiting)

/-- Bytes that context `c`'s command holds. -/
def State.heldBy (s : State) (c : Nat) : List (Nat × Nat) :=
  match (s.ctx c).cmd with
  | some x => if x.holds then
      match x.op with
      | some op => (opWrites op x.desc).flatMap (s.extRuns c)
      | none => []
    else []
  | none => []

/-- Bytes that a radio command holds. -/
def State.radioHeldBy (s : State) (l : Nat) : List (Nat × Nat) :=
  match s.radio.cmds.get none l with
  | some x => if x.holds then
      match x.op with
      | some op => (opWrites op x.desc).flatMap (s.radioView x.engine).runs
      | none => []
    else []
  | none => []

/-- Every held byte but those of `who` (R152). -/
def State.heldRuns (s : State) (who : Option Owner) : List (Nat × Nat) :=
  ((s.liveCtxs.filter fun c => who ≠ some (.context c)).flatMap s.heldBy) ++
    (((s.radio.cmds.map (·.1)).filter fun l => who ≠ some (.radio l)).flatMap s.radioHeldBy)

-- Reference counts (R194) --------------------

/-- Page `p` under map entry `e`. -/
def pageKey (p e : Nat) : Nat := p * 2 ^ 256 + e

def keyPage (k : Nat) : Nat := k / 2 ^ 256

/-- The reference that a context holds to a page. -/
def Ctx.ref (x : Ctx) (p : Nat) : Nat := x.refs.get 0 p

/-- The map entry that a reference names. -/
def refEntry (r : Nat) : Nat := r % 2 ^ 256

/-- The reference count of page `p` under map entry `e`: a changed entry makes another page of that number (R209). -/
def State.pageCount (s : State) (n p e : Nat) : Nat :=
  ((s.sliceCtxs n).filter fun c => (s.ctx c).live && decide ((s.ctx c).ref p ≠ 0) && decide (refEntry ((s.ctx c).ref p) = e)).length +
    (((s.sliceCtxs n).map fun c => match (s.ctx c).cmd with
      | some x => if x.holds && x.pages.contains (pageKey p e) then 1 else 0
      | none => 0)).sum

/-- Sets the ages of a slice's pages to 0: their counts changed (R197). -/
def State.touchPages (s : State) (n : Nat) (ps : List Nat) : State :=
  { s with tier := { s.tier with pages := s.tier.pages.map fun x =>
      if x.2.slice = n ∧ ps.contains (pageKey x.2.page x.2.entry) then (x.1, { x.2 with age := 0 }) else x } }

/-- Pages of a slice with their frames. -/
def State.slicePages (s : State) (n : Nat) : List (Nat × LoamPage) := s.tier.pages.filter fun x => x.2.slice = n

/-- Frames a slice's pages and fetches take. -/
def State.residentPages (s : State) (n : Nat) : Nat :=
  (s.slicePages n).length + (s.tier.fetches.filter fun f => f.slice = n ∧ f.frame ≠ none).length

/-- Over its loam quota (R204). -/
def State.loamOver (s : State) (n : Nat) : Bool := decide (s.reg .loamQuotaPages n < (s.slicePages n).length)

/-- The page of count 0 with the highest age among those chosen, ties to the lowest frame (R198). -/
def State.oldestPage (s : State) (ok : LoamPage → Bool) : Option Nat :=
  let cs := s.tier.pages.filter fun x => ok x.2 && decide (s.pageCount x.2.slice x.2.page x.2.entry = 0)
  let best := (cs.map fun x => x.2.age).foldl max 0
  (cs.find? fun x => x.2.age = best).map (·.1)

/-- Contexts of slice `n` whose LOAM_ACQUIRE has not committed and names page `p` under entry `e` (R195). -/
def State.acquiring (s : State) (n p e : Nat) : List Nat :=
  (s.sliceCtxs n).filter fun c => match (s.ctx c).cmd with
    | some x => decide (x.op = some .loamAcquire) && (s.ctx c).live && decide ((s.mapOf c).get 0 p = e) &&
        (pagesOf (tierOff (Desc.dmaSrc x.desc)) (Desc.dmaLength x.desc)).contains p
    | none => false

/-- Asks for a fetch of page `p` for contexts `cs`, joining one under way (R194, R195). -/
def State.askFetch (s : State) (n p e : Nat) (cs : List Nat) (again : Bool) : State :=
  let mine (f : Fetch) : Bool := decide (f.slice = n) && decide (f.page = p) && decide (f.entry = e)
  let join (f : Fetch) : Fetch :=
    if mine f then { f with demand := f.demand ++ cs.filter (fun c => !f.demand.contains c), again := f.again || again } else f
  let fetches :=
    if s.tier.fetches.any mine then s.tier.fetches.map join
    else s.tier.fetches ++ [{ slice := n, page := p, entry := e, frame := none, demand := cs, again := again }]
  { s with tier := { s.tier with fetches := fetches } }

/-- Drops the page in a frame; a frame with an uncorrectable word is retired at once (R461). An acquire that still waits for the page
fetches it again (R195). -/
def State.dropPage (s : State) (f : Nat) : State :=
  let x := s.tier.pages.at f
  let s := { s with tier := { s.tier with pages := s.tier.pages.erase f } }
  let s := if s.badIn (f * frameBytes) frameBytes then (s.setFrame f .retired).bump .unitsRetired else s
  let cs := s.acquiring x.slice x.page x.entry
  if cs = [] then s else s.askFetch x.slice x.page x.entry cs false

-- Frames (R198, R199) --------------------

/-- Free frames of the pool. -/
def State.poolGaps (s : State) : List (Nat × Nat) :=
  gaps s.loamBase (s.loamBase + s.tier.loamFrames)
    (sortNat (s.tier.pages.map (·.1) ++ s.tier.fetches.filterMap (·.frame) ++
      (s.tier.frames.keysWhere fun _ u => u = .retired)))

/-- Frames reserved for sealed slices and not yet used by them. -/
def State.reservedFree (s : State) : Nat :=
  (((List.range 64).filter s.sealed).map fun n => s.reg .loamQuotaPages n - s.residentPages n).sum

/-- A free frame for slice `n`, step 1 of R198. -/
def State.freePoolFrame (s : State) (n : Nat) : Option Nat × State :=
  let g := s.poolGaps
  if decide (s.residentPages n < s.reg .loamQuotaPages n) && (s.sealed n || decide (s.reservedFree < gapStarts 1 g)) then
    s.pickStart 1 g
  else (none, s)

/-- The page whose frame a fetch of slice `n` takes when no free one may be had (R198). -/
def State.victim (s : State) (n : Nat) : Option Nat :=
  if s.residentPages n < s.reg .loamQuotaPages n then s.oldestPage fun x => decide (x.slice = n) || !s.sealed x.slice
  else s.oldestPage fun x => decide (x.slice = n)

/-- A frame for a demand fetch of slice `n` (R198); a dropped page whose frame retires gives none, and the next one is taken. -/
def State.takeFrame (s : State) (n : Nat) : Nat → Option Nat × State
  | 0 => (none, s)
  | k + 1 =>
    match s.freePoolFrame n with
    | (some f, s) => (some f, s)
    | (none, s) =>
      match s.victim n with
      | some f =>
        let s := (s.dropPage f).bump .evictions
        if s.tier.frames.at f = .retired then s.takeFrame n k else (some f, s)
      | none => (none, s)

/-- Largest ORDER in a slice's map other than 0xFFFF. -/
def orders (map : Tab Nat) : List Nat := (map.map fun x => entryOrder x.2).filter (· ≠ 0xFFFF)

/-- Whether an ORDER lies in L to L + PREFETCH_DEPTH (R202). -/
def State.inWindow (s : State) (n : Nat) (map : Tab Nat) (o : Nat) : Bool :=
  let w := s.tier.window.get 0 n
  let top := (orders map).foldl max 0
  (List.range (w % 65536 + 1)).any fun i => decide ((w / 65536 + i) % (top + 1) = o)

/-- The frame a prefetch takes (R202); a dropped page whose frame retires gives none, and the next one is taken. -/
def State.prefetchFrame (s : State) (n : Nat) : Nat → Option Nat × State
  | 0 => (none, s)
  | k + 1 =>
    match s.freePoolFrame n with
    | (some f, s) => (some f, s)
    | (none, s) =>
      let map := (s.loamMap n).entries
      match s.oldestPage fun x => decide (x.slice = n) && !s.inWindow n map (entryOrder x.entry) with
      | some f =>
        let s := (s.dropPage f).bump .evictions
        if s.tier.frames.at f = .retired then s.prefetchFrame n k else (some f, s)
      | none => (none, s)

-- Fetches (R195, R198, R202) --------------------

/-- A fetch that no acquire asked for. -/
def Fetch.isPrefetch (f : Fetch) : Bool := decide (f.demand = []) && !f.again

/-- Gives fetch `i` its frame. -/
def State.giveFrame (s : State) (i k : Nat) : State :=
  { s with tier := { s.tier with fetches := s.tier.fetches.zipIdx.map fun q => if q.2 = i then { q.1 with frame := some k } else q.1 } }

/-- The frame of a fetch that waits for one, dropping pages only when `drops`. -/
def State.frameFor (s : State) (drops : Bool) (f : Fetch) : Option Nat × State :=
  if !drops then s.freePoolFrame f.slice
  else if f.isPrefetch then s.prefetchFrame f.slice (s.tier.pages.length + 1)
  else s.takeFrame f.slice (s.tier.pages.length + 1)

/-- Gives frames to the fetches that wait for one, from number `i` on, oldest first. -/
def State.fillFetches (s : State) (drops : Bool) : Nat → Nat → State
  | 0, _ => s
  | k + 1, i =>
    match s.tier.fetches[i]? with
    | none => s
    | some f =>
      if f.frame ≠ none then s.fillFetches drops k (i + 1)
      else
        match s.frameFor drops f with
        | (some r, s) => (s.giveFrame i r).fillFetches drops k (i + 1)
        | (none, s) => s.fillFetches drops k (i + 1)

/-- Frames for whoever waits: free ones in the cycle itself, those of dropped pages at its end (R200). -/
def State.refillFetches (s : State) (drops : Bool) : State :=
  s.fillFetches drops (s.tier.fetches.length + s.tier.pages.length) 0

/-- Starts a demand fetch of a page for contexts `cs`, or joins the one under way. -/
def State.demandFetch (s : State) (n p e : Nat) (cs : List Nat) (again : Bool) : State :=
  (s.askFetch n p e cs again).refillFetches false

/-- Absent pages of a range, under context `c`'s map. -/
def State.absentPages (s : State) (c n : Nat) (ps : List Nat) : List Nat :=
  ps.filter fun p => s.pageFrame n p ((s.mapOf c).get 0 p) = none

/-- Drops pages of entries no longer mapped, once their counts are 0 (R209). -/
def State.sweepStale (s : State) (n : Nat) : State :=
  ((s.slicePages n).filter fun x => (s.loamMap n).entries.get 0 x.2.page ≠ x.2.entry ∧ s.pageCount n x.2.page x.2.entry = 0).foldl
    (fun s x => s.dropPage x.1) s

/-- Drops pages of count 0, highest age first, while the slice is over its quota (R204). -/
def State.sweepOver (s : State) (n : Nat) : Nat → State
  | 0 => s
  | k + 1 =>
    if s.loamOver n then
      match s.oldestPage fun x => decide (x.slice = n) with
      | some f => (s.dropPage f).sweepOver n k
      | none => s
    else s

/-- The pages of a slice are looked at for drops at the end of the CK cycle (R200). -/
def State.sweepLoam (s : State) (n : Nat) : State :=
  { s with tier := { s.tier with due := if s.tier.due.contains n then s.tier.due else s.tier.due ++ [n] } }

/-- Drops are due, or fetches wait for frames. -/
def State.loamDue (s : State) : Bool := decide (s.tier.due ≠ []) || s.tier.fetches.any fun f => f.frame = none

/-- Prefetches that found no frame by the end of the CK cycle end, and the prefetch of their slices stops (R202). -/
def State.stopPrefetch (s : State) : State :=
  let idle (f : Fetch) : Bool := f.isPrefetch && decide (f.frame = none)
  let ns := (s.tier.fetches.filter idle).map (·.slice)
  { s with tier := { s.tier with
    fetches := s.tier.fetches.filter fun f => !idle f
    prefetch := ns.foldl (fun (t : Tab (List Nat)) n => t.set [] n []) s.tier.prefetch } }

/-- The loam map that a commit left pending takes effect: EPOCH increments, and commands under way keep the former copy (R207, R208). -/
def State.switchMap (s : State) (n : Nat) : State :=
  match (s.loamMap n).next with
  | none => s
  | some new =>
    let old := (s.loamMap n).entries
    let s := { s with tier := { s.tier with maps := s.tier.maps.put n ⟨new, old, none⟩ } }
    let s := (s.sliceCtxs n).foldl (fun s c => s.modCtx c fun x => { x with oldMap := x.cmd.isSome }) s
    (s.bump .loamMapEpoch n).sweepLoam n

/-- The next check of context `c` takes the slice's newest map (R208). -/
def State.takeMap (s : State) (c : Nat) : State :=
  let s := match s.sliceOf c with
    | some n => s.switchMap n
    | none => s
  s.modCtx c fun x => { x with oldMap := false }

/-- The end of a CK cycle in the loam manager (R200): drops under the quota rules and of stale pages, then under R198. -/
def State.settleLoam (s : State) : State :=
  if !s.loamDue then s
  else
    let due := sortNat s.tier.due
    let s := { s with tier := { s.tier with due := [] } }
    let s := due.foldl (fun s n => (s.sweepStale n).sweepOver n (s.slicePages n).length) s
    (s.refillFetches true).stopPrefetch

/-- A kill of context `c`'s command ends its part in fetches that have no frame yet; those nobody else waits for end (R195, R198). -/
def State.dropWaitingFetches (s : State) (c : Nat) : State :=
  let leave (f : Fetch) : Fetch := if f.frame = none then { f with demand := f.demand.filter (· ≠ c) } else f
  let stays (f : Fetch) : Bool := decide (f.frame ≠ none) || f.again || decide (f.demand ≠ [c])
  { s with tier := { s.tier with fetches := (s.tier.fetches.filter stays).map leave } }

/-- Pages acquired: references set (R194, R195). -/
def State.acquirePages (s : State) (c n : Nat) (ps : List Nat) : State :=
  let fresh := ps.filter fun p => (s.ctx c).ref p = 0
  let map := s.mapOf c
  let s := fresh.foldl (fun s p =>
    let k := s.tier.refClock
    { (s.modCtx c fun x => { x with refs := x.refs.set 0 p (pageKey (k + 1) (map.get 0 p)) }) with
      tier := { s.tier with refClock := k + 1 } }) s
  s.touchPages n (fresh.map fun p => pageKey p (map.get 0 p))

/-- References dropped. -/
def State.releasePages (s : State) (c n : Nat) (ps : List Nat) : State :=
  let held := ps.filter fun p => (s.ctx c).ref p ≠ 0
  let keys := held.map fun p => pageKey p (refEntry ((s.ctx c).ref p))
  let s := held.foldl (fun s p => s.modCtx c fun x => { x with refs := x.refs.set 0 p 0 }) s
  (s.touchPages n keys).sweepLoam n

/-- Contexts of slice `n` that hold a reference to page `p` under entry `e`, the oldest reference first (R194). -/
def State.referrers (s : State) (n p e : Nat) : List Nat :=
  let cs := (s.sliceCtxs n).filter fun c => (s.ctx c).live && decide ((s.ctx c).ref p ≠ 0) && decide (refEntry ((s.ctx c).ref p) = e)
  (cs.foldl (fun (t : Tab Nat) c => t.insert ((s.ctx c).ref p) c) []).map (·.2)

/-- Queues the prefetches of R202 after an acquire of pages `ps`. -/
def State.queuePrefetch (s : State) (c n : Nat) (ps : List Nat) : State :=
  let map := s.mapOf c
  let os := (ps.map fun p => entryOrder (map.get 0 p)).filter (· ≠ 0xFFFF)
  if os = [] then { s with tier := { s.tier with prefetch := s.tier.prefetch.set [] n [] } }
  else
    let l := os.foldl max 0
    let top := (orders map).foldl max 0
    let depth := s.reg .prefetchDepth n
    let want := ((List.range depth).map fun i => (l + 1 + i) % (top + 1)).eraseDups
    let queue := want.flatMap fun o =>
      (map.filter fun x => entryLen x.2 ≠ 0 ∧ entryOrder x.2 = o ∧ s.pageFrame n x.1 x.2 = none).map (·.1)
    { s with tier := { s.tier with
        prefetch := s.tier.prefetch.set [] n queue
        window := s.tier.window.set 0 n (l * 65536 + depth) } }

-- Streaming (R196) --------------------

/-- Bytes of a DMA command's read set in pages absent now. -/
def State.streamed (s : State) (c n : Nat) (xs : List Ext) : Nat :=
  ((xs.filter fun x => x.tier = 3).map fun x =>
    ((s.absentPages c n (pagesOf x.off x.len)).map fun p =>
      min (x.off + x.len) ((p + 1) * frameBytes) - max x.off (p * frameBytes)).sum).sum

/-- Tier 3 pages of a read set. -/
def loamPagesOf (xs : List Ext) : List Nat := ((xs.filter fun x => x.tier = 3).flatMap fun x => pagesOf x.off x.len).eraseDups

/-- Device addresses of the bytes that a range streams from sources on this package (R192, R196). -/
def State.streamRuns (s : State) (c : Nat) (streams : List Nat) (x : Ext) : List (Nat × Nat) :=
  if x.tier ≠ 3 then []
  else match s.sliceOf c with
    | none => []
    | some n => ((pagesOf x.off x.len).filter streams.contains).flatMap fun p =>
        s.sourceRuns n ((s.mapOf c).get 0 p) (max x.off (p * frameBytes) - p * frameBytes)
          (min (x.off + x.len) ((p + 1) * frameBytes) - p * frameBytes)

/-- Device addresses of what context `c`'s command reads: its own tiers, and the sources of loam pages that are absent (R152, R196). -/
def State.readRuns (s : State) (c : Nat) (xs : List Ext) : List (Nat × Nat) :=
  let absent := s.absentPages c ((s.sliceOf c).getD 0) (loamPagesOf xs)
  xs.flatMap fun x => s.extRuns c x ++ s.streamRuns c absent x

end Sys2Proof.Machine
end

