-- ==== Sys2Proof/Machine/Context.lean ====
section
/-! DEFINITION. Completion records (R133, R159), hood images (R186 to R188), teardown (R158), allocations and placement of
contexts (R174 to R186, R206, R240 to R242, R384 to R386). -/

namespace Sys2Proof.Machine

-- Completion records (R133, R154, R159) --------------------

/-- A count that saturates at its field (R159). -/
def satCount (w n : Nat) : Nat := min n (2 ^ w - 1)

/-- The record's bits above PHASE (R159). -/
def recordBits (tag step : Nat) (seq : Nat) (wait elapsed : Nat) (k : Counts) (count idle opcode engine code cause : Nat) : Nat :=
  tag * 2 ^ 480 + step * 2 ^ 384 + seq * 2 ^ 352 + satCount 32 wait * 2 ^ 320 + satCount 32 elapsed * 2 ^ 288
    + satCount 32 k.sat * 2 ^ 256 + satCount 32 k.inv * 2 ^ 224 + satCount 32 k.satHi * 2 ^ 192 + satCount 32 k.satLo * 2 ^ 160
    + (match k.first with | some i => satCount 32 i | none => 2 ^ 32 - 1) * 2 ^ 128
    + satCount 16 count * 2 ^ 112 + satCount 16 idle * 2 ^ 96 + opcode * 2 ^ 84 + engine * 2 ^ 76 + code * 2 ^ 68 + cause * 2 ^ 60

/-- No counts. -/
def Counts.none : Counts := ⟨0, 0, 0, 0, .none⟩

/-- Records a completion ring still has room for (R133). -/
def Page.cplRoom (p : Page) : Nat := 2 ^ p.cplLog2 - (p.cplIndex - p.cplHead).toNat

/-- Writes a completion record, PHASE by the pass through the ring (R133). A command that started had its PASID bound then, and keeps that
epoch for its record (R389). -/
def State.writeRecord (s : State) (c bits : Nat) : State :=
  let p := (s.ctx c).page
  if p.cplRoom = 0 || !s.hif.access then s
  else
    let i := p.cplIndex.toNat
    let phase := 1 - i / 2 ^ p.cplLog2 % 2
    let s := s.hostWr (s.reg .ctxPasid c) (p.cplBase + i % 2 ^ p.cplLog2 * 64) (leBytes 64 (bits + phase))
    s.modPage c fun p => { p with cplIndex := p.cplIndex + 1 }

/-- Raises a queue's vector, or counts it when it is no longer granted (R154, R384, R390). -/
def State.raiseQueue (s : State) (c : Nat) : State :=
  let v := (s.ctx c).page.vector
  match s.sliceOf c with
  | some n => if s.vecGranted n v then s.raiseVector v else s.bump .vectorDrops
  | none => s

/-- Size of the private and shared allocations a context is to have. -/
def State.wantedSizes (s : State) (c : Nat) : Nat × Nat :=
  let a := (s.ctx c).alloc
  if a.hood = none ∧ !(s.ctx c).restored then (alignUp granule (s.reg .ctxPrivReq c), alignUp sharedUnit (s.reg .ctxSharedReq c))
  else (a.privBytes, a.sharedBytes)

-- Hood images (R186 to R188) --------------------

/-- A re-run is pending (R157). -/
def Ctx.rerun (x : Ctx) : Bool := match x.cmd with
  | some k => decide (k.phase = .rerun) || decide (k.phase = .killing)
  | none => false

/-- The image's header with DIGEST 0 (R188). -/
def State.imageHeader (s : State) (c : Nat) : Bytes :=
  let x := s.ctx c
  let p := x.page
  let flags := (if x.rerun then 1 else 0) + (if s.isLc c then 2 else 0)
  let n := (s.sliceOf c).getD 0
  let front := List.flatten
    [leBytes 4 0x5A484431, leBytes 2 1, leBytes 2 flags, leBytes 4 s.detClass, leBytes 1 n, zeros 1, leBytes 2 c,
     leBytes 8 x.step, leBytes 16 x.seed, leBytes 8 (s.reg .ctxJobId c), leBytes 8 (ofSigned 64 (-x.deficit)),
     leBytes 8 p.cmdBase, leBytes 8 p.cplBase, leBytes 4 p.ringCfg, leBytes 4 p.head.toNat, leBytes 4 p.tail.toNat,
     leBytes 4 p.cplHead.toNat, leBytes 4 p.cplIndex.toNat, leBytes 4 p.ignored.toNat, leBytes 4 p.lastIgnored,
     leBytes 4 p.lastIgnoredSeq.toNat, zeros 4, leBytes 4 (s.wantedSizes c).1, leBytes 4 (s.wantedSizes c).2]
  slice front 0 4096

/-- The 8 KiB reference set (R187). -/
def refBytes (refs : Tab Nat) : Bytes :=
  (List.range 8192).map fun i => BitVec.ofNat 8 (((List.range 8).filter fun b => refs.get 0 (8 * i + b) ≠ 0).map (2 ^ ·)).sum

/-- Offsets in the image of bytes that a pending re-run holds in tiers 0 and 1 (R157). -/
def State.heldImage (s : State) (c : Nat) : List (Nat × Nat) :=
  let x := s.ctx c
  match x.cmd with
  | some k => if x.rerun then
      match k.op with
      | some op => (opWrites op k.desc).filterMap fun (e : Ext) =>
          if e.tier = 0 then some (0x3000 + e.off, e.len)
          else if e.tier = 1 then some (0x3000 + x.alloc.privBytes + e.off, e.len) else none
      | none => []
    else []
  | none => []

/-- The image's resident bytes: those of a placed context that are not spilled (R186). -/
def State.copyResident (s : State) (c h e : Nat) : State :=
  let x := s.ctx c
  let gs := (List.range (x.alloc.privBytes / granule)).filter fun g => !x.alloc.spilled.contains g
  let s := gs.foldl (fun s g => s.copyRange (privDpa e + x.alloc.privBase + g * granule) (h + imageGranule g) granule) s
  s.copyRange (sharedDpa (e / 8) + x.alloc.sharedBase) (h + 0x3000 + x.alloc.privBytes) x.alloc.sharedBytes

/-- Writes the hood image into the hood area (R186); a context off its engine has its bytes there. -/
def State.writeImage (s : State) (c : Nat) : State :=
  let x := s.ctx c
  match x.alloc.hood with
  | some h =>
    let s := match x.alloc.engine with
      | some e => s.copyResident c h e
      | none => s
    let s := (s.heldImage c).foldl (fun s r => s.clear (h + r.1) r.2) s
    let s := s.wrRun h (s.imageHeader c)
    let s := s.wrRun (h + 0x1000) (refBytes x.refs)
    s.wrRun (h + 0x80) (sha512 (s.rdRun h (0x3000 + x.alloc.privBytes + x.alloc.sharedBytes)))
  | none => s

/-- The image of a context, as its hood area holds it; of a context that was never placed, one with zero allocations (R186, R189). -/
def State.contextImage (s : State) (c : Nat) : Bytes :=
  let x := s.ctx c
  let (p, h) := s.wantedSizes c
  match x.alloc.hood with
  | some a => s.rdRun a (0x3000 + p + h)
  | none =>
    let body := refBytes x.refs ++ zeros (p + h)
    let head := s.imageHeader c
    head.take 0x80 ++ sha512 (head ++ body) ++ head.drop 0xC0 ++ body

-- Freeing (R178, R384) --------------------

/-- The parameter store is cleared with the private scratchpad of its engine, but for the bank that a running command uses (R178). -/
def State.clearStore (s : State) (e : Nat) : State :=
  s.modEngine e fun x =>
    let busy := decide (x.running ≠ none) || x.shadow
    { x with
      store0 := if busy && decide (x.storeNow = 0) then x.store0 else []
      store1 := if busy && decide (x.storeNow ≠ 0) then x.store1 else [] }

/-- Granules of context `c`'s allocation that lie in the scratchpad, each freed when no other context has a copy of it
elsewhere waiting to return: clears what `c` owns. -/
def State.freePriv (s : State) (c : Nat) (from_ : Nat) : State :=
  let a := (s.ctx c).alloc
  match a.engine with
  | some e => ((List.range (a.privBytes / granule)).filter fun g => from_ ≤ g && !a.spilled.contains g).foldl
      (fun s g => s.freeUnits (privDpa e + a.privBase + g * granule) granule 1) s
  | none => s

def State.freeShared (s : State) (c : Nat) (from_ : Nat) : State :=
  let a := (s.ctx c).alloc
  match a.engine with
  | some e => s.freeUnits (sharedDpa (e / 8) + a.sharedBase + from_) sharedUnit ((a.sharedBytes - from_) / sharedUnit)
  | none => s

/-- Frees a context's hood area. -/
def State.freeHood (s : State) (c : Nat) : State :=
  let a := (s.ctx c).alloc
  match a.hood with
  | some h => ((List.range a.hoodFrames).foldl (fun s i => s.freeFrame (h / frameBytes + i)) s).modAlloc c
      fun a => { a with hood := none, hoodFrames := 0 }
  | none => s

/-- LC_FLOOR_BYTES applies on each engine once no BE allocation there lies below it (R211). -/
def State.refreshFloors (s : State) : State :=
  let f := s.reg .lcFloorBytes
  let keep := s.tier.floors.filter fun (p : Nat × Nat) =>
    (s.classOn p.1 false).any (fun c => decide (0 < (s.ctx c).alloc.privBytes) && decide ((s.ctx c).alloc.privBase < f))
  { s with tier := { s.tier with floors := keep } }

/-- Grows private regions below their quota as frames are free, in ascending slice number (R205). The frame is left open. -/
def State.growRegion (s : State) (n : Nat) : Nat → State
  | 0 => s
  | k + 1 =>
    let r := s.tier.regions.get [] n
    if r.length < s.reg .privQuotaFrames n then
      match s.pickStart 1 (s.frameGaps 0 s.openTop) with
      | (some f, s) =>
        let s := (s.clear (f * frameBytes) frameBytes).setFrame f (.priv n)
        ({ s with tier := { s.tier with regions := s.tier.regions.set [] n (r ++ [f]) } }).growRegion n k
      | (none, s) => s
    else s

def State.growRegions (s : State) : State :=
  ((List.range 64).filter s.sliceOn).foldl (fun s n =>
    s.growRegion n (s.reg .privQuotaFrames n - (s.tier.regions.get [] n).length)) s

/-- Frames of slice `n`'s region that a started command reads or writes (R205). -/
def State.frameBusy (s : State) (n f : Nat) : Bool :=
  (s.sliceCtxs n).any fun c => match (s.ctx c).cmd with
    | some x => x.holds && match x.op with
      | some op => (s.readRuns c (s.readsOf c op x.desc) ++ (opWrites op x.desc).flatMap (s.extRuns c)).any fun r =>
          overlap r.1 r.2 (f * frameBytes) frameBytes
      | none => false
    | none => false

/-- Shrinks a region from its top to its quota, as far as no started command uses the frame (R205). -/
def State.trimRegion (s : State) (n : Nat) : Nat → State
  | 0 => s
  | k + 1 =>
    let r := s.tier.regions.get [] n
    match r.getLast? with
    | some f =>
      if s.reg .privQuotaFrames n < r.length && !s.frameBusy n f then
        let s := { s with tier := { s.tier with regions := s.tier.regions.set [] n r.dropLast } }
        (s.freeFrame f).trimRegion n k
      else s
    | none => s

def State.trimRegions (s : State) : State :=
  ((List.range 64).filter fun n => decide (s.reg .privQuotaFrames n < (s.tier.regions.get [] n).length)).foldl
    (fun s n => s.trimRegion n (s.tier.regions.get [] n).length) s

/-- Frees frames that a quota no longer covers, then grows the regions that wait for frames. -/
def State.settleRegions (s : State) : State := s.trimRegions.growRegions

-- Quotas of scratchpad (R206) --------------------

/-- Scratchpad bytes allocated to a slice. -/
def State.spBytes (s : State) (n : Nat) : Nat :=
  ((s.sliceCtxs n).map fun c => let a := (s.ctx c).alloc; if a.engine = none then 0 else a.privBytes + a.sharedBytes).sum

-- Placement (R174, R176, R181, R241, R242) --------------------

/-- Whether a context's hood area of `n` frames serves it on a die where it is: its own die's, in the die's hood home stack, or in the
interleaved zone when that stack has no room (R181). -/
def State.hoodKeeps (s : State) (c die n : Nat) : Bool :=
  let a := (s.ctx c).alloc
  let z := s.localFrames (s.hoodStack die)
  match a.hood with
  | none => false
  | some h => decide (a.hoodFrames = n) && (decide (a.hoodDie = die + 1) ||
      (decide (z.1 ≤ h / frameBytes) && decide (h / frameBytes < z.2)) ||
      (decide (h < s.zoneBytes) && decide (gapStarts n (s.frameGaps z.1 z.2) = 0)))

/-- The die a re-placed context was on. -/
def Alloc.home (a : Alloc) : Option Nat := if a.hoodDie = 0 then none else some (a.hoodDie - 1)

/-- An engine that may serve a context but for the room in its scratchpads (R242, R391, R392). -/
def State.engineServes (s : State) (c e : Nat) : Bool :=
  let (p, h) := s.wantedSizes c
  let sealOk := match s.sliceOf c with
    | some n => if s.sealed n then bit (s.sealMask n) e else s.dedicatedTo e = none
    | none => false
  let hoodOk := s.hoodKeeps c (e / 8) (hoodFrames p h) || s.hoodFits (e / 8) (hoodFrames p h)
  s.meInService e && sealOk && hoodOk

/-- Criterion 1 but for the floor (R242). -/
def State.engineFits (s : State) (c e : Nat) : Bool :=
  let (p, h) := s.wantedSizes c
  s.engineServes c e && (s.fitPriv e c (p / granule)).isSome
    && (h = 0 || decide (0 < gapStarts (h / sharedUnit) (s.sharedGaps (e / 8) c)))

/-- Criterion 1 (R242). -/
def State.criterion1 (s : State) (c e : Nat) : Bool :=
  s.engineFits c e && (!s.isLc c ||
    s.fitFloor e c ((s.wantedSizes c).1 / granule) ||
    !((List.range 128).any fun f => s.engineFits c f && s.fitFloor f c ((s.wantedSizes c).1 / granule)))

/-- A preference: passed over when it would leave no candidate. -/
def prefer (p : Nat → Bool) (l : List Nat) : List Nat := if (l.filter p) = [] then l else l.filter p

/-- The engine of a rising list that criteria 2 to 5 prefer; `home` is the die of a re-placed context. -/
def State.bestEngine (s : State) (c : Nat) (home : Option Nat) (l : List Nat) : Option Nat :=
  let l := if s.isLc c then prefer (fun e => !s.engineBound e) l else l
  let l := match home with
    | some d => prefer (fun e => e / 8 = d) l
    | none => l
  let l := if s.reg .placeHint c = 0xFF then l else prefer (fun e => e / 8 = s.reg .placeHint c) l
  let few := minOf (l.map fun e => (s.classOn e (s.isLc c)).length)
  (l.filter fun e => some (s.classOn e (s.isLc c)).length = few).head?

/-- The engine that R242 chooses. -/
def State.chooseEngine (s : State) (c : Nat) (home : Option Nat) : Option Nat :=
  s.bestEngine c home ((List.range 128).filter (s.criterion1 c))

/-- Every engine that criterion 1 allows, in the order in which R242 would choose them. -/
def State.rankEngines (s : State) (c : Nat) (home : Option Nat) : Nat → List Nat → List Nat
  | 0, _ => []
  | k + 1, l =>
    match s.bestEngine c home l with
    | some e => e :: s.rankEngines c home k (l.filter (· ≠ e))
    | none => []

/-- Gives up the frames of a hood area above the first `n` (R186). -/
def State.trimHood (s : State) (c n : Nat) : State :=
  let a := (s.ctx c).alloc
  match a.hood with
  | some h => ((List.range (a.hoodFrames - n)).foldl (fun s i => s.freeFrame (h / frameBytes + n + i)) s).modAlloc c
      fun a => { a with hoodFrames := min n a.hoodFrames }
  | none => s

/-- A new hood area of `n` frames for a context of a die, with the old one's contents. -/
def State.newHood (s : State) (c die n : Nat) : Option State :=
  let a := (s.ctx c).alloc
  match s.pickStart n (s.hoodGaps die n) with
  | (some f, s) =>
    let s := (List.range n).foldl (fun s i => (s.clear ((f + i) * frameBytes) frameBytes).setFrame (f + i) (.hood c)) s
    let s := match a.hood with
      | some h => (s.copyRange h (f * frameBytes) (min n a.hoodFrames * frameBytes)).freeHood c
      | none => s
    some (s.modAlloc c fun a => { a with hood := some (f * frameBytes), hoodFrames := n })
  | (none, _) => none

/-- A hood area of `n` frames for a context on a die: kept or cut where it may stay, else a new one with the old contents (R181,
R186); none where there is no room. -/
def State.settleHood (s : State) (c die n : Nat) : Option State :=
  let a := (s.ctx c).alloc
  if s.hoodKeeps c die n then some s
  else if n < a.hoodFrames ∧ s.hoodKeeps c die a.hoodFrames then some (s.trimHood c n)
  else s.newHood c die n

/-- Granules of an allocation at `base` that another class's allocation overlaps on the engine above the floor (R184). -/
def State.overlapped (s : State) (e c base n : Nat) : List Nat :=
  let others := ((s.placedOn e).filter (· ≠ c)).flatMap fun o => (s.ctx o).alloc.granules
  (List.range n).filter fun g => others.contains (base / granule + g)

/-- Places a context on an engine, its private allocation at granule `g` and its shared one at unit `sh` of the die: its bytes come from
its hood area when it has been placed before, else they are to be cleared (R178, R186). Its share there is what SHARE holds now (R246). -/
def State.placeSpot (s : State) (c e g sh : Nat) : State :=
  let (p, h) := s.wantedSizes c
  let again := (s.ctx c).alloc.hood ≠ none
  match s.settleHood c (e / 8) (hoodFrames p h) with
  | some s =>
    let base := g * granule
    let spilled := s.overlapped e c base (p / granule)
    let s := s.modAlloc c fun a => { a with
      hoodDie := e / 8 + 1, engine := some e, privBase := base, privBytes := p
      sharedBase := sh * sharedUnit, sharedBytes := h
      spilled, clearing := !again }
    let s := s.modCtx c fun x => { x with share := s.reg .ctxShare c }
    match (s.ctx c).alloc.hood with
    | some hd =>
      if again then
        let gs := (List.range (p / granule)).filter fun i => !spilled.contains i
        let s := gs.foldl (fun s i => s.copyRange (hd + imageGranule i) (privDpa e + base + i * granule) granule) s
        s.copyRange (hd + 0x3000 + p) (sharedDpa (e / 8) + sh * sharedUnit) h
      else s
    | none => s
  | none => s

/-- Where the private allocation of a context that an engine fits goes, in granules (R174). -/
def State.privSpot (s : State) (c e : Nat) : Option Nat := s.fitPriv e c ((s.wantedSizes c).1 / granule)

/-- Places a context on an engine that fits it, its shared allocation at unit `sh` of the die (R174, R176). -/
def State.placeAt (s : State) (c e sh : Nat) : State :=
  match s.privSpot c e with
  | some g => s.placeSpot c e g sh
  | none => s

/-- The place that a plan keeps for a context is free, and may be taken (R174 to R176). -/
def State.spotFits (s : State) (c e g sh : Nat) : Bool :=
  let p := (s.wantedSizes c).1 / granule
  let h := (s.wantedSizes c).2 / sharedUnit
  let privTaken := s.takenGranules e (s.isLc c) c
  let sharedTaken := s.takenShared (e / 8) c
  s.engineServes c e && decide (g + p ≤ s.tenantGranules e) && (s.isLc c || decide (p = 0) || decide (s.floorGranules e ≤ g))
    && ((List.range p).all fun i => !privTaken.contains (g + i))
    && decide (sh + h ≤ (2 ^ 25 - s.radioKeepShared (e / 8)) / sharedUnit) && (List.range h).all fun i => !sharedTaken.contains (sh + i)

/-- Places a context on an engine; where its shared allocation lies is left open. Frames that its old hood area frees go to the regions
that wait for frames (R205). -/
def State.placeOn (s : State) (c e : Nat) : State :=
  match s.pickStart ((s.wantedSizes c).2 / sharedUnit) (s.sharedGaps (e / 8) c) with
  | (sh, s) => (s.placeAt c e (sh.getD 0)).growRegions

/-- Frees a context's scratchpad bytes (R178, R384). -/
def State.freePads (s : State) (c : Nat) : State :=
  let t := (s.freePriv c 0).freeShared c 0
  match (s.ctx c).alloc.engine with
  | some e => t.clearStore e
  | none => t

/-- Takes a context off its engine: its image is written, its scratchpad bytes freed (R186, R241). -/
def State.unplace (s : State) (c : Nat) : State :=
  match (s.ctx c).alloc.engine with
  | none => s
  | some _ =>
    let s := s.writeImage c
    let s := s.freePads c
    (s.modAlloc c fun a => { a with engine := none, spilled := [], clearing := false }).refreshFloors

/-- A command that writes nothing in its context's allocations, with which the context may move while it waits (R241). -/
def movesWaiting (op : Op) : Bool :=
  match op with
  | .wait | .waitMem | .nop | .fenceFabric => true
  | _ => false

/-- A context at a commit boundary with no command started since, or one whose command lets it move (R241). -/
def State.mayMove (s : State) (c : Nat) : Bool :=
  match (s.ctx c).cmd with
  | none => true
  | some x => decide (x.phase = .rerun) || decide (x.phase = .waiting) || match x.op with
    | some op => movesWaiting op
    | none => false

-- In-place changes (R386) --------------------

/-- Whether a private allocation may become `n` granules in place (R174, R386). -/
def State.growsPriv (s : State) (c n : Nat) : Bool :=
  let a := (s.ctx c).alloc
  match a.engine with
  | none => false
  | some e =>
    let taken := s.takenGranules e (s.isLc c) c
    decide (a.privBase / granule + n ≤ s.tenantGranules e) &&
      (List.range n).all fun i => !taken.contains (a.privBase / granule + i)

/-- Whether a shared allocation may become `n` units in place (R176, R386). -/
def State.growsShared (s : State) (c n : Nat) : Bool :=
  let a := (s.ctx c).alloc
  match a.engine with
  | none => false
  | some e =>
    let taken := s.takenShared (e / 8) c
    decide (a.sharedBase / sharedUnit + n ≤ (2 ^ 25 - s.radioKeepShared (e / 8)) / sharedUnit) &&
      (List.range n).all fun i => !taken.contains (a.sharedBase / sharedUnit + i)

/-- Clears the copies in the hood area of granules of a private allocation that begin or cease to be spilled (R178, R206). -/
def State.clearCopies (s : State) (c : Nat) (gs : List Nat) : State :=
  match (s.ctx c).alloc.hood with
  | some h => gs.foldl (fun s g => s.clear (h + imageGranule g) granule) s
  | none => s

/-- Resizes the allocations in place: bytes added are zero, bytes removed are cleared, in the scratchpad and in the hood area (R178,
R386). -/
def State.resize (s : State) (c priv shared : Nat) : State :=
  let a := (s.ctx c).alloc
  match a.engine, s.settleHood c ((a.engine.getD 0) / 8) (hoodFrames (max priv a.privBytes) (max shared a.sharedBytes)) with
  | some e, some s =>
    let s := if priv < a.privBytes then
        ((s.freePriv c (priv / granule)).clearStore e).clearCopies c (a.spilled.filter fun g => decide (priv / granule ≤ g)) else s
    let s := if shared < a.sharedBytes then s.freeShared c shared else s
    let fresh := (s.overlapped e c a.privBase (priv / granule)).filter fun g => a.privBytes / granule ≤ g
    let s := (((List.range (priv / granule)).filter fun g => a.privBytes / granule ≤ g && !fresh.contains g).foldl
        (fun s g => s.clear (privDpa e + a.privBase + g * granule) granule) s).clearCopies c fresh
    let s := if a.sharedBytes < shared then
        s.clear (sharedDpa (e / 8) + a.sharedBase + a.sharedBytes) (shared - a.sharedBytes) else s
    let s := s.modAlloc c fun a => { a with
      privBytes := priv, sharedBytes := shared
      spilled := (a.spilled.filter fun g => decide (g < priv / granule)) ++ fresh }
    ((s.settleHood c (e / 8) (hoodFrames priv shared)).getD s).refreshFloors
  | _, _ => s

/-- Whether a context's allocations may have these sizes in place (R174, R176, R186, R206, R386): what grows has room, the hood area
has room, and the slice stays within its quota. -/
def State.resizes (s : State) (c priv shared : Nat) : Bool :=
  let a := (s.ctx c).alloc
  let n := (s.sliceOf c).getD 0
  let die := (a.engine.getD 0) / 8
  (decide (priv ≤ a.privBytes) || s.growsPriv c (priv / granule)) && (decide (shared ≤ a.sharedBytes) || s.growsShared c (shared / sharedUnit))
    && (decide (priv ≤ a.privBytes ∧ shared ≤ a.sharedBytes) ||
      (decide (s.spBytes n - a.privBytes - a.sharedBytes + priv + shared ≤ s.reg .spQuotaBytes n) &&
        (decide (hoodFrames priv shared ≤ a.hoodFrames) || s.hoodFits die (hoodFrames priv shared))))

/-- The hub's choice of allocations to shrink after a cut of SP_QUOTA_BYTES (R206): descending contexts, private before shared,
each from its top. -/
def State.cutAllocations (s : State) : List Nat → Nat → State
  | [], _ => s
  | c :: cs, excess =>
    let a := (s.ctx c).alloc
    if a.engine = none then s.cutAllocations cs excess
    else
      let p := min a.privBytes (alignUp granule excess)
      let excess := excess - p
      let h := min a.sharedBytes (alignUp sharedUnit excess)
      let s := if p = 0 then s else s.modWanted c fun w => { w with priv := some (a.privBytes - p) }
      let s := if h = 0 then s else s.modWanted c fun w => { w with shared := some (a.sharedBytes - h) }
      s.cutAllocations cs (excess - h)

-- Commit boundaries (R206, R233, R241, R386, R389) --------------------

/-- Applies a write of CTX_PRIV_REQ (or CTX_SHARED_REQ) at the boundary: the entry takes the value and the allocation its size, or the
write is ignored where the size no longer fits (R386). DEDUCED, log entry 74. -/
def State.takeReq (s : State) (c : Nat) (r : Reg) (ask : Option (Nat × Nat)) (sizes : Nat → Nat × Nat) : State :=
  match ask with
  | none => s
  | some (sess, v) =>
    let z := sizes v
    if s.resizes c z.1 z.2 then (s.setReg r v c).resize c z.1 z.2 else s.ignoreWrite sess r.index r.sub 0x8016

/-- The changes of size that waited for a boundary (R206, R386). -/
def State.takeSizes (s : State) (c : Nat) (w : Wanted) : State :=
  let s := s.takeReq c .ctxPrivReq w.privReq fun v => (alignUp granule v, (s.ctx c).alloc.sharedBytes)
  let s := s.takeReq c .ctxSharedReq w.sharedReq fun v => ((s.ctx c).alloc.privBytes, alignUp sharedUnit v)
  let a := (s.ctx c).alloc
  if w.priv = none ∧ w.shared = none then s
  else s.resize c (min a.privBytes (w.priv.getD a.privBytes)) (min a.sharedBytes (w.shared.getD a.sharedBytes))

/-- Whether a placed context's private allocation may lie where it is under the class it has now (R174). -/
def State.placeOk (s : State) (c : Nat) : Bool :=
  let a := (s.ctx c).alloc
  match a.engine with
  | none => true
  | some e => s.growsPriv c (a.privBytes / granule) && (s.isLc c || decide (s.floorGranules e * granule ≤ a.privBase) || decide (a.privBytes = 0))

/-- A context whose place its new class does not allow is placed again, on the same engine if that fits it (R174, R233). DEDUCED, log
entry 74. -/
def State.replaceIf (s : State) (c : Nat) : State :=
  if s.placeOk c then s.refreshFloors
  else
    let e := (s.ctx c).alloc.engine
    let s := s.unplace c
    match e with
    | some e => if s.criterion1 c e then s.placeOn c e else
        match s.chooseEngine c (some (e / 8)) with
        | some f => s.placeOn c f
        | none => s
    | none => s

/-- Applies what waited for the context's commit boundary. Wanted engine 255 takes the context off its engine, to be placed
again. A context whose planned place is still in use waits for it off its engine, and CONTEXT_PLACED takes it there (R175). -/
def State.atBoundary (s : State) (c : Nat) : State :=
  let w := (s.ctx c).wanted
  let s := s.modCtx c fun x => { x with wanted := default }
  let s := match w.cls with
    | some v => (s.setReg .ctxClass v c).replaceIf c
    | none => s
  let s := match w.pasid with
    | some v => s.setReg .ctxPasid v c
    | none => s
  let s := s.takeSizes c w
  match w.engine, w.spot with
  | some e, some (g, sh) =>
    let s := s.unplace c
    if s.spotFits c e g sh then (s.placeSpot c e g sh).growRegions
    else s.modWanted c fun y => { y with engine := some e, spot := some (g, sh) }
  | some e, none =>
    let s := s.unplace c
    if e < 128 ∧ s.criterion1 c e then s.placeOn c e else s
  | none, _ => s

/-- Applies waiting changes now if the context is at a boundary (R241 for moves alone). -/
def State.tryBoundary (s : State) (c : Nat) : State :=
  match (s.ctx c).cmd with
  | none => s.atBoundary c
  | some _ =>
    let w := (s.ctx c).wanted
    if w.engine ≠ none ∧ s.mayMove c then
      let s := s.modWanted c fun _ => { (default : Wanted) with engine := w.engine, spot := w.spot }
      (s.atBoundary c).modWanted c fun y => { w with engine := y.engine, spot := y.spot }
    else s

-- Engines and turns --------------------

/-- ME_STATE while a command of an owner code runs; IN_WINDOW is kept (R94). -/
def State.engineBusy (s : State) (e ctx mode owner : Nat) : State :=
  let w := bit (s.reg .meState e) 1
  s.setReg .meState (ctx * 2 ^ 16 + mode * 2 ^ 8 + owner * 2 ^ 4 + (if w then 2 else 0) + 1) e

/-- An engine after its command: nothing runs, both banks are clear (R76), and of ME_STATE, CONTEXT and IN_WINDOW are kept (R94). -/
def State.engineIdle (s : State) (e : Nat) : State :=
  let s := s.modEngine e fun x => { x with running := none, shadow := false, bank0 := [], bank1 := [] }
  let v := s.reg .meState e
  s.setReg .meState (field v 27 16 * 2 ^ 16 + (if bit v 1 then 2 else 0)) e

/-- Frees the engine that an owner's command runs on. -/
def State.freeEngine (s : State) (who : Owner) : State :=
  (s.engines.keysWhere fun _ (x : Engine) => decide (x.running = some who)).foldl (fun s e => s.engineIdle e) s

/-- A context leaves an engine's rounds. -/
def State.leaveRounds (s : State) (c : Nat) : State :=
  let fix (r : Round) : Round := { r with holder := if r.holder = some c then none else r.holder, ended := r.ended.filter (· ≠ c) }
  { s with engines := s.engines.mapAll fun _ x => { x with lc := fix x.lc, be := fix x.be } }

-- Teardown and removal (R158, R384, R385) --------------------

/-- The command under way of a queue that is removed or torn down with its job counts as killed: KILLS, and on an engine its own KILLS and
KILLED_CYCLES (R93, R169, R240, R364, R385). The AK cycles from its start are known; those of the kill itself, at most 400 (R86), are open. -/
def State.countRemoved (s : State) (c : Nat) : State :=
  match (s.ctx c).cmd with
  | some x =>
    if x.phase = .started ∨ x.phase = .killing then
      let s := s.bump .kills
      match x.op with
      | some op =>
        if op.unit = .engine then
          { (s.bump .meKills x.engine).bump .killedCycles c ((s.ck - x.startCk) * 4 + Config.pick s.free % 401) with free := s.free + 1 }
        else s
      | none => s
    else s
  | none => s

/-- Responses to a command's requests are discarded from now on (R155, R364). -/
def State.dropRequests (s : State) (c : Nat) : State :=
  { s with fab := { s.fab with out := s.fab.out.map fun o => match o.what with
    | .load x _ => if x = c then { o with dropped := true } else o
    | .atomic x _ => if x = c then { o with dropped := true } else o
    | _ => o } }

/-- The command under way ends without a commit: holds, engine, pages and fetches are let go. -/
def State.endCommand (s : State) (c : Nat) : State :=
  let pages := match (s.ctx c).cmd with
    | some x => x.pages
    | none => []
  let s := ((s.freeEngine (.context c)).dropRequests c).dropWaitingFetches c
  let s := s.modCtx c fun x => { x with cmd := none, copying := false, quietCk := if x.cmd = none then x.quietCk else s.ck }
  let s := { s with faults := { s.faults with shadows := s.faults.shadows.filter fun w => w.written || decide (w.ctx ≠ c) } }
  match s.sliceOf c with
  | some n => if pages = [] then s else (s.touchPages n pages).sweepLoam n
  | none => s

/-- Teardown of a context's queue: one record of code 0x30 or 0x40, STATE 3 (R158). -/
def State.teardown (s : State) (c code cause : Nat) : State :=
  let x := s.ctx c
  if !x.live || x.page.state = 3 then s
  else
    let running := match x.cmd with
      | some k => if k.holds then some k else none
      | none => none
    let bits := match running with
      | some k => recordBits (Desc.tag k.desc) k.step k.seq (k.startCk - k.nextCk) (s.ck - k.startCk) k.counts k.count k.idleAk
          (Desc.opcode k.desc) k.engine code cause
      | none => recordBits 0 x.step x.page.head.toNat 0 0 Counts.none 0 0 0 0xFF code cause
    let bound := running.isSome || s.pasidBound c
    let wrote := bound && decide (0 < x.page.cplRoom) && s.hif.access
    let s := (if bound then s.writeRecord c bits else s).bumpIf wrote .teardownRecords
    let s := s.endCommand c
    let retire := running.isSome || x.page.head ≠ x.page.tail
    let s := s.modPage c fun p => { p with state := 3, head := if retire then p.head + 1 else p.head }
    (((s.leaveRounds c).setReg .ctxJobId 0 c).tryBoundary c).settleRegions

/-- The hub's read of an uncorrectable context descriptor (R462). -/
def State.ctxFault (s : State) (c : Nat) : State := ((s.bump .ueTotal).fault 0x0106 2 10 0 c).teardown c 0x30 0x01

/-- Removes a context: allocations cleared and freed, hood area freed, loam references dropped (R384, R385). -/
def State.removeCtx (s : State) (c : Nat) : State :=
  let x := s.ctx c
  if !x.live then s
  else
    let s := s.endCommand c
    let s := match s.sliceOf c with
      | some n => s.releasePages c n (x.refs.map fun (p : Nat × Nat) => p.1)
      | none => s
    let s := ((s.freePads c).freeHood c).leaveRounds c
    let s := ((s.setReg .ctxJobId 0 c).dropBad (badCtx c)).setCtx c { (default : Ctx) with page := (s.ctx c).page }
    s.refreshFloors.settleRegions

end Sys2Proof.Machine
end

