-- ==== Sys2Proof/Machine/Accept.lean ====
section
/-! DEFINITION. Checking a descriptor (R150, R162 to R165), ignoring it, and the operand wait of an accepted command (R151,
R195, R355, R357, R474). -/

namespace Sys2Proof.Machine

-- Reasons (R163, R164) --------------------

/-- The 0x02xx reasons of an opcode's own body. -/
def bodyReasons (op : Op) (d : Desc) (numfwOk : Bool) : List (Nat × Bool) :=
  match op.unit with
  | .engine => if op.isMatrix then matReasons op d numfwOk else vecReasons op d numfwOk
  | .dma => dmaReasons op d
  | .fabric => fabReasons op d
  | .hub => hubReasons op d

/-- The 0x02xx reasons of a descriptor whose opcode is defined, in increasing code order; `enabled` tells whether its group is
(R169, R279). -/
def reasons02 (op : Op) (d : Desc) (enabled numfwOk : Bool) : Option Nat :=
  firstReason ([(0x0202, !enabled), (0x0203, decide (field d 7 0 ≠ 0))] ++ bodyReasons op d numfwOk ++
    [(0x0212, op.nd && !d.ndAck)])

/-- Outputs that overlap one another or what is read (R151). -/
def overlapBad (reads writes : List Ext) : Bool := extsHit writes reads || selfHit writes

/-- Whether a command of the opcode uses a tier 4 address. -/
def usesHost (op : Op) : Bool :=
  match op with
  | .hostRead | .hostWrite => true
  | _ => false

/-- The 0x03xx reasons that the check of R150 finds for context `c` (R163). -/
def State.reasons03 (s : State) (c : Nat) (op : Op) (d : Desc) : Option Nat :=
  let reads := opReads op d
  let writes := opWrites op d
  let fab := if op.unit = .fabric then s.fabricReasons c op d else []
  let fabHas (k : Nat) : Bool := fab.any fun p => p.1 = k && p.2
  let n := (s.sliceOf c).getD 0
  firstReason
    [(0x0301, d.stepCheck && decide (d.expectedStep ≠ (s.ctx c).step)),
     (0x0302, overlapBad reads writes),
     (0x0303, (reads ++ writes).any (fun x => !s.extIn c x) || fabHas 0x0303
        || (decide (op = .waitMem) && decide (tierOf (Desc.waitMemAddr d) ≠ 2))),
     (0x0304, writes.any fun x => x.tier = 3),
     (0x0305, decide (op = .loamAcquire) && s.loamOver n && decide (s.absentPages c n (loamPagesOf reads) ≠ [])),
     (0x0306, fabHas 0x0306),
     (0x0307, fabHas 0x0307),
     (0x0309, usesHost op && !s.pasidBound c)]

/-- The first reason for which a descriptor of context `c` is ignored (R164). -/
def State.reasonFor (s : State) (c : Nat) (d : Desc) : Option Nat :=
  match Op.ofCode d.opcode with
  | none => some 0x0201
  | some op =>
    match reasons02 op d (bit (s.reg .opcodeEnable ((s.sliceOf c).getD 0)) op.group) s.boot.numfwOk with
    | some r => some r
    | none => s.reasons03 c op d

-- Ignoring (R162) --------------------

/-- The package-wide counters of an ignore (R169). -/
def State.countIgnored (s : State) (reason : Nat) : State := (s.bump .ignoredTotal).setReg .lastIgnored reason

/-- Retires the descriptor in slot HEAD without effect. -/
def State.ignoreHead (s : State) (c reason : Nat) : State :=
  (s.countIgnored reason).modCtx c fun x =>
    let page := { x.page with
      ignored := x.page.ignored + 1, lastIgnored := reason, lastIgnoredSeq := x.page.head, head := x.page.head + 1 }
    { x with cmd := none, page, nextAt := s.ck, quietCk := if x.cmd = none then x.quietCk else s.ck }

/-- An ignored doorbell (R131, R162). -/
def State.ignoreDoorbell (s : State) (c reason : Nat) (t : W32) : State :=
  (s.countIgnored reason).modPage c fun p =>
    { p with ignored := p.ignored + 1, lastIgnored := reason, lastIgnoredSeq := t }

-- Requests of a fabric command (R355, R357) --------------------

/-- Requests a command sends in its operand wait, as (offset or first element, length or count). -/
def requestPlan (op : Op) (d : Desc) : List (Nat × Nat) :=
  match op with
  | .fload => fabStretches d.fabFaddr d.fabLength
  | .fstore | .fstoreShared => []
  | _ => if op.isAtomic then
      let (w, carried) := aopBytes (aopOf op)
      atomicRuns (d.fabLength + 1) d.fabFaddr 0 d.fabLength w carried
    else []

/-- The payload of an ATOMIC packet (R357, R358). -/
def State.atomicPayload (s : State) (c : Nat) (op : Op) (d : Desc) (step first count : Nat) : Bytes :=
  let rd := s.ctxByte c
  let w := (aopBytes (aopOf op)).1
  let head := leBytes 16 (step % 2 ^ 64 * 2 ^ 64 + s.ctxMember c * 2 ^ 48 + first * 2 ^ 36 + aopOf op * 2 ^ 32)
  head ++ (List.range count).flatMap fun i =>
    let v := readRun rd (tierOf d.fabLocal) (tierOff d.fabLocal + (first + i) * w) w
    if op = .fcasI64 then readRun rd (tierOf d.fabCmpLocal) (tierOff d.fabCmpLocal + (first + i) * 8) 8 ++ v else v

/-- Sends the requests of context `c`'s fabric command that are not sent yet, as far as the SEQ window allows (R359). -/
def State.pump (s : State) (c : Nat) : List (Nat × Nat) → State
  | [] => s
  | (off, n) :: rest =>
    match (s.ctx c).cmd with
    | none => s
    | some x =>
      match x.op with
      | none => s
      | some op =>
        let d : Desc := x.desc
        let job := s.ctxJob c
        let addr := d.fabFaddr + (if op = .fload then off else off * (aopBytes (aopOf op)).1)
        let dest := addr / 2 ^ 41
        if s.windowFull dest job then s
        else
          let r : Request := ⟨dest, (s.stream dest job).next, off, false⟩
          let s := s.modCtx c fun x => { x with cmd := x.cmd.map fun k => { k with requests := k.requests ++ [r] } }
          let s := if op = .fload then s.request (.load c off) dest job pkRead (addr % 2 ^ 41) n []
            else
              let p := s.atomicPayload c op d x.step off n
              s.request (.atomic c off) dest job pkAtomic (addr % 2 ^ 41) p.length p
          s.pump c rest

/-- Another command holds a byte that context `c`'s command reads (R152). -/
def State.readsHeld (s : State) (c : Nat) (op : Op) (d : Desc) : Bool :=
  runsHit (s.readRuns c (s.readsOf c op d)) (s.heldRuns (some (.context c)))

/-- Staging space that a fabric command reserves (R355 to R357). -/
def stagingNeed (op : Op) (d : Desc) : Nat := if op.isAtomic then d.fabLength * (aopBytes (aopOf op)).2 else d.fabLength

/-- A command holds staging space: a load or an atomic from its first request on, a store from its start on. -/
def Cmd.stages (x : Cmd) (op : Op) : Bool :=
  decide (op.unit = .fabric) && (decide (x.requests ≠ []) || ((decide (op = .fstore) || decide (op = .fstoreShared)) && decide (x.phase = .started)))

/-- Staging space that context `c`'s command holds. -/
def State.stagedBy (s : State) (c : Nat) : Nat :=
  match (s.ctx c).cmd with
  | some x => match x.op with
    | some op => if x.stages op then stagingNeed op x.desc else 0
    | none => 0
  | none => 0

/-- Staging space in use: of commands, and of committed stores' bytes that have not left (R356). -/
def State.stagingTaken (s : State) : Nat :=
  (s.liveCtxs.map s.stagedBy).sum + ((s.fab.held.filter fun p => p.kind = pkWrite).map (·.len)).sum

/-- A command finds staging space. How much there is stays open: log entry 88; beside nothing else, one command always finds its space. -/
def State.staging (s : State) (op : Op) (d : Desc) : Bool :=
  decide (s.stagingTaken = 0) || Config.stagingRoom s.stagingTaken (stagingNeed op d)

/-- Requests of context `c` whose responses are still out (R155, R357). -/
def State.outstanding (s : State) (c : Nat) : Bool :=
  s.fab.out.any fun o => match o.what with
    | .load x _ => x = c
    | .atomic x _ => x = c
    | _ => false

/-- The requests of a fabric command go out once no other command holds a byte they carry (R152, R357), staging space is reserved, and the
responses of requests withdrawn before have returned (R155). A store reserves its space at its start and sends nothing here (R356). -/
def State.pumpFabric (s : State) (c : Nat) : State :=
  match (s.ctx c).cmd with
  | none => s
  | some x =>
    match x.op with
    | none => s
    | some op =>
      if s.readsHeld c op x.desc || (decide (x.requests = []) && decide (requestPlan op x.desc ≠ []) && (s.outstanding c || !s.staging op x.desc)) then s
      else (s.modCtx c fun y => { y with cmd := y.cmd.map fun k => { k with checked := true } }).pump c
        ((requestPlan op x.desc).drop x.requests.length)

/-- Records that FADD_KREC adds (R51). -/
def State.addendRecords (s : State) (c : Nat) (d : Desc) : List Nat :=
  (List.range d.fabLength).map fun i => leNat (readRun (s.ctxByte c) (tierOf d.fabLocal) (tierOff d.fabLocal + 32 * i) 32)

/-- A FADD_KREC whose records may be read has one with reserved bits set (R49, R164); a re-run is not checked again (R155). -/
def State.addendBad (s : State) (c : Nat) : Bool :=
  match (s.ctx c).cmd with
  | some x => decide (x.op = some .faddKrec) && !x.checked && !s.readsHeld c .faddKrec x.desc &&
      (s.addendRecords c x.desc).any recordReserved
  | none => false

/-- Every request of a fabric command is sent and answered. -/
def Cmd.answered (x : Cmd) (op : Op) : Bool :=
  decide (x.requests.length = (requestPlan op x.desc).length) && x.requests.all fun r => r.answered

-- The operand wait (R150, R195) --------------------

/-- LOAM_ACQUIRE fetches its absent pages (R195). -/
def State.fetchPages (s : State) (c : Nat) (d : Desc) : State :=
  match s.sliceOf c with
  | none => s
  | some n => (s.absentPages c n (pagesOf (tierOff d.dmaSrc) d.dmaLength)).foldl
      (fun s p => s.demandFetch n p ((s.mapOf c).get 0 p) [c] false) s

/-- Begins, or begins again after a kill, the operand wait of context `c`'s command. -/
def State.beginWait (s : State) (c : Nat) : State :=
  match (s.ctx c).cmd with
  | none => s
  | some x =>
    match x.op with
    | some .loamAcquire => s.fetchPages c x.desc
    | some op => if op.unit = .fabric then s.pumpFabric c else s
    | none => s

-- Shadow selection (R474) --------------------

/-- Frames that copies of a command's sets take. -/
def shadowFramesFor (op : Op) (d : Desc) : Nat :=
  ceilDiv ((((opReads op d) ++ (opWrites op d)).map (·.len)).sum) frameBytes

/-- Shadow frames that context `c`'s selected command is to take at its start. -/
def State.shadowOwed (s : State) (c : Nat) : Nat :=
  match (s.ctx c).cmd with
  | some x => match x.op with
    | some op => if x.shadowed && decide (x.phase = .waiting) then shadowFramesFor op x.desc else 0
    | none => 0
  | none => 0

/-- Shadow frames in use, or held for commands that are selected. -/
def State.shadowUsed (s : State) : Nat := (s.faults.shadows.map (·.frames)).sum + (s.liveCtxs.map s.shadowOwed).sum

/-- Counts down at the check of an eligible command; true when it is selected. -/
def State.shadowSelect (s : State) (op : Op) (d : Desc) : Bool × State :=
  let eligible := decide (op.unit = .engine) && decide (s.reg .shadowN ≠ 0) &&
    decide (s.shadowUsed + shadowFramesFor op d ≤ s.tier.shadowFrames)
  if !eligible then (false, s)
  else if s.faults.countdown ≤ 1 then (true, { s with faults := { s.faults with countdown := s.reg .shadowN } })
  else (false, { s with faults := { s.faults with countdown := s.faults.countdown - 1 } })

-- Accepting (R150) --------------------

/-- The count of R73, R115 or R145; 0 for opcodes off the engines. -/
def opCount (op : Op) (d : Desc) : Nat :=
  match op.unit with
  | .engine => if op.isMatrix then matCount op d else vecCount op d
  | _ => 0

/-- A command as it is accepted; `next` is the CK cycle in which it became next (R159). -/
def newCmd (op : Op) (d : Desc) (seq step next loamEpoch pasidEpoch : Nat) (shadowed : Bool) : Cmd :=
  { desc := d, seq, step, count := opCount op d, phase := .waiting, done := false, engine := 0xFF, nextCk := next, startCk := next,
    idleAk := 0, cause := 0, checked := false, counts := Counts.none, requests := [], landed := [], loamEpoch, pasidEpoch,
    pages := [], streams := [], shadowed, denied := [], silent := false }

/-- Accepts a descriptor that passed every check. -/
def State.acceptCmd (s : State) (c : Nat) (op : Op) (d : Desc) : State :=
  let (sh, s) := s.shadowSelect op d
  let n := (s.sliceOf c).getD 0
  let k := newCmd op d (s.ctx c).page.head.toNat (s.ctx c).step (s.ctx c).nextAt (s.reg .loamMapEpoch n) (s.reg .pasidMapEpoch) sh
  s.modCtx c fun x => { x with cmd := some k }

/-- Whether context `c` may fetch and check a descriptor now (R131, R150, R366, R377, R389). -/
def State.mayFetch (s : State) (c : Nat) : Bool :=
  let x := s.ctx c
  x.live && s.queueRuns c && decide (x.alloc.engine ≠ none) && decide (x.cmd = none) && !x.snapped
    && decide (x.page.head ≠ x.page.tail) && s.hif.access && s.pasidBound c

/-- The descriptor in slot HEAD. -/
def State.headDesc (s : State) (c : Nat) : Desc :=
  let p := (s.ctx c).page
  leNat (s.hostRd (s.reg .ctxPasid c) (p.cmdBase + p.head.toNat % 2 ^ p.cmdLog2 * 64) 64)

/-- Checks the next descriptor, passing over ignored ones, until one is accepted or the ring is empty (R150, R162). -/
def State.checkLoop (s : State) (c : Nat) : Nat → State
  | 0 => s
  | k + 1 =>
    if !s.mayFetch c then s
    else if s.isBad (badCtx c) then s.ctxFault c
    else
      let s := s.takeMap c
      let d := s.headDesc c
      match s.reasonFor c d, Op.ofCode d.opcode with
      | some r, _ => (s.ignoreHead c r).checkLoop c k
      | none, some op =>
        let s := s.acceptCmd c op d
        if s.addendBad c then (s.ignoreHead c 0x0308).checkLoop c k else s.beginWait c
      | none, none => s

/-- Checks the next command of a context (R150). -/
def State.checkNext (s : State) (c : Nat) : State :=
  let p := (s.ctx c).page
  s.checkLoop c ((p.tail - p.head).toNat + 1)

/-- Retires a command that waited for its start without effect: the context is at a boundary, and checks its next command. -/
def State.ignoreWaiting (s : State) (c reason : Nat) : State := ((s.ignoreHead c reason).tryBoundary c).checkNext c

/-- Context `c`'s fabric command still has requests to send. -/
def State.fabricWaits (s : State) (c : Nat) : Bool :=
  match (s.ctx c).cmd with
  | some x =>
    match x.op with
    | some op => decide (op.unit = .fabric) && (decide (x.phase = .waiting) || decide (x.phase = .rerun)) &&
        decide (x.requests.length < (requestPlan op x.desc).length) && s.queueRuns c
    | none => false
  | none => false

/-- Fabric commands that waited for a hold look again (R152, R164). -/
def State.wakeFabric (s : State) : State :=
  (s.liveCtxs.filter s.fabricWaits).foldl (fun s c =>
    if s.addendBad c then s.ignoreWaiting c 0x0308 else s.beginWait c) s

/-- Every context that may fetch checks its next command, in ascending order. -/
def State.checkAll (s : State) : State := s.liveCtxs.foldl (fun s c => s.checkNext c) s

end Sys2Proof.Machine
end

