-- ==== Sys2Proof/Machine/Snapshot.lean ====
section
/-! DEFINITION. Snapshots of a job on this package (R366), and where the home logic finds a byte (R184, R354). -/

namespace Sys2Proof.Machine

/-- The contexts of a job entry. -/
def State.jobCtxs (s : State) (i : Nat) : List Nat :=
  s.liveCtxs.filter fun c => decide (s.reg .ctxJobId c ≠ 0) && decide (s.ctxJob c = cfgJob (s.jobBits i))

/-- A context of the job whose scratchpad allocation holds the DPA, and the byte's place: a spilled granule's is in the hood area. -/
def State.homeAlloc (s : State) (i a : Nat) : Option Nat :=
  (s.jobCtxs i).findSome? fun c =>
    let x := (s.ctx c).alloc
    match x.engine with
    | none => none
    | some e =>
      let p := privDpa e + x.privBase
      let h := sharedDpa (e / 8) + x.sharedBase
      if p ≤ a ∧ a < p + x.privBytes then s.privByte c (a - p)
      else if h ≤ a ∧ a < h + x.sharedBytes then s.sharedByte c (a - h)
      else none

/-- Changes the outstanding requests. -/
def State.modOut (s : State) (f : Sent → Sent) : State := { s with fab := { s.fab with out := s.fab.out.map f } }

/-- Where the byte a home serves at DPA `a` lies. -/
def State.homeDpa (s : State) (i a : Nat) : Nat := if a < padBase then a else (s.homeAlloc i a).getD a

def State.homeRead (s : State) (i a n : Nat) : Bytes := (List.range n).map fun k => s.rd (s.homeDpa i (a + k))

/-- The DPA field of a bulk packet: the header of a copy or its body, the package copied, and the offset in 1 KiB. DESIGN CHOICE: the
manual gives bulk packets no address form (R366 to R368). -/
def bulkDpa (src off : Nat) (header : Bool) : Nat := (if header then 2 ^ 40 else 0) + src % 64 * 2 ^ 34 + off / 1024 % 2 ^ 34

/-- The snapshot header (R366): the digest is over the body and the header with the digest at 0. DESIGN CHOICE: the order of its
fields. -/
def snapHeader (id job src images imageBytes regionBytes : Nat) (body : Bytes) : Bytes :=
  let front := leBytes 4 id ++ leBytes 2 job ++ leBytes 1 src ++ zeros 1 ++ leBytes 8 imageBytes ++ leBytes 8 regionBytes ++ leBytes 4 images
  let h := slice front 0 4096
  h.take 0x40 ++ sha512 (body ++ h) ++ h.drop 0x80

/-- Sends bytes of a copy to the buddy by BULK_WRITE. -/
def State.sendBulk (s : State) (i : Nat) (header : Bool) (bs : Bytes) : State :=
  let w := s.jobBits i
  ((pieces 1024 (bs.length + 1) bs).zipIdx).foldl (fun s p =>
    s.request (.snapshot i) (cfgBuddy w) (cfgJob w) pkBulkWrite (bulkDpa s.pkg (1024 * p.2) header) p.1.length p.1) s

/-- Regions of the job homed here with SNAP set, in table order. -/
def State.snapRegions (s : State) (i : Nat) : List Nat :=
  (s.jobEntry i).windows.filter fun r => regionSnap r && decide (regionBase r / 2 ^ 41 = s.pkg)

/-- Byte runs of the snapshot regions. -/
def State.snapRuns (s : State) (i : Nat) : List (Nat × Nat) := (s.snapRegions i).map fun r => (regionBase r % 2 ^ 41, regionSize r)

/-- A command outside the job holds a byte of a snapshot region: the copy waits (R152). -/
def State.snapHeld (s : State) (i : Nat) : Bool :=
  let others := (s.liveCtxs.filter fun c => !(s.jobCtxs i).contains c).flatMap s.heldBy
  runsHit (s.snapRuns i) (others ++ (s.radio.cmds.map (·.1)).flatMap s.radioHeldBy)

/-- Bytes of a snapshot region: what a pending re-run of the job holds is saved as 0, as in a hood image (R157). DEDUCED, log entry 94. -/
def State.snapRead (s : State) (i a n : Nat) : Bytes :=
  let own := (s.jobCtxs i).flatMap s.heldBy
  ((s.homeRead i a n).zipIdx).map fun b => if runsHit [(s.homeDpa i (a + b.2), 1)] own then 0 else b.1

/-- Hood images, then the snapshot regions, then the header. -/
def State.sendSnapshot (s : State) (i id : Nat) : State :=
  let cs := s.jobCtxs i
  let s := cs.foldl (fun s c => s.writeImage c) s
  let images := (cs.map s.contextImage).flatten
  let regions := (s.snapRegions i).flatMap fun r => s.snapRead i (regionBase r % 2 ^ 41) (regionSize r)
  let h := snapHeader id (cfgJob (s.jobBits i)) s.pkg cs.length images.length regions.length (images ++ regions)
  (s.sendBulk i false (images ++ regions)).sendBulk i true h

/-- The snapshot ends: SNAP_STATUS 2 or 3, and the contexts resume. -/
def State.endSnapshot (s : State) (i : Nat) (ok : Bool) : State :=
  match (s.jobEntry i).snapshot with
  | none => s
  | some n =>
    let s := s.modJob i fun j => { j with snapshot := none }
    let s := s.modOut fun o => if o.what = .snapshot i then { o with dropped := true } else o
    let s := (s.setReg .snapStatus (if ok then 2 else 3) i).setReg .snapLastId (if ok then n.id else s.reg .snapLastId i) i
    (s.jobCtxs i).foldl (fun s c => ((s.modCtx c fun x => { x with snapped := false }).beginWait c).checkNext c) s

/-- A command of the context has been granted and has not ended, or has requests out. -/
def State.midCommand (s : State) (c : Nat) : Bool :=
  (s.fab.out.any fun o => match o.what with
    | .load x _ => x = c
    | .atomic x _ => x = c
    | _ => false) || match (s.ctx c).cmd with
    | some x => decide (x.phase = .started) || decide (x.phase = .killing)
    | none => false

/-- Takes a snapshot on: its images are written and sent once every context is at a commit boundary, and it ends when every BULK_ACK
has returned. -/
def State.settleSnapshot (s : State) (i : Nat) : State :=
  match (s.jobEntry i).snapshot with
  | none => s
  | some n =>
    if n.sent then
      if s.fab.out.any fun o => decide (o.what = SentFor.snapshot i) then s else s.endSnapshot i true
    else if (s.jobCtxs i).any s.midCommand || s.snapHeld i then s
    else (s.modJob i fun j => { j with snapshot := some { n with sent := true } }).sendSnapshot i n.id

def State.settleSnapshots (s : State) : State :=
  (s.fab.jobs.keysWhere fun _ j => decide (j.snapshot ≠ none)).foldl (fun s i => s.settleSnapshot i) s

end Sys2Proof.Machine
end

