-- ==== Sys2Proof/Machine/Run.lean ====
section
/-! DEFINITION. Granting, starting, running, killing and committing the commands of contexts (R86 to R94, R149 to R168,
R229 to R240). -/

namespace Sys2Proof.Machine

-- Readiness --------------------

/-- Byte runs of context `c`'s command: what it reads and what it writes. -/
def State.touches (s : State) (c : Nat) (op : Op) (d : Desc) : List (Nat × Nat) :=
  s.readRuns c (s.readsOf c op d) ++ (opWrites op d).flatMap (s.extRuns c)

/-- The operand wait of an accepted or killed command is over (R150, R152, R178, R184, R195, R355 to R357, R474). -/
def State.operandsReady (s : State) (c : Nat) (x : Cmd) (op : Op) : Bool :=
  let a := (s.ctx c).alloc
  let n := (s.sliceOf c).getD 0
  decide (a.spilled = []) && !a.clearing && !(s.ctx c).copying
    && !runsHit (s.touches c op x.desc) (s.heldRuns (some (.context c)))
    && (decide (op ≠ .loamAcquire) || decide (s.absentPages c n (loamPagesOf (opReads op x.desc)) = []))
    && (decide (op.unit ≠ .fabric) || x.answered op)
    && ((decide (op ≠ .fstore) && decide (op ≠ .fstoreShared)) || s.staging op x.desc)

/-- The context lies on an engine where its commands may start: on a dedicated one when its slice is sealed (R392). -/
def State.onOwnEngine (s : State) (c : Nat) : Bool :=
  match (s.ctx c).alloc.engine, s.sliceOf c with
  | some e, some n => !s.sealed n || bit (s.sealMask n) e
  | _, _ => false

/-- A context whose queue runs, whose completion ring has room for two records (R133), and whose PASID is bound, but for a re-run, which
keeps the epoch of its start (R389). -/
def State.mayStart (s : State) (c : Nat) : Bool :=
  let x := s.ctx c
  x.live && s.queueRuns c && decide (2 ≤ x.page.cplRoom) && !x.snapped && s.onOwnEngine c && (s.pasidBound c || x.rerun)

/-- GATE_BE and GATE_LC (R244). -/
def State.gated (s : State) (c : Nat) : Bool := bit (s.reg .schedGates) (if s.isLc c then 1 else 0)

/-- Context `c`'s ready command. -/
def State.readyCmd (s : State) (c : Nat) : Option (Cmd × Op) :=
  match (s.ctx c).cmd with
  | some x =>
    match x.op with
    | some op =>
      if s.mayStart c && (decide (x.phase = .waiting) || decide (x.phase = .rerun)) && s.operandsReady c x op then some (x, op)
      else none
    | none => none
  | none => none

/-- Context `c` has an engine command ready. -/
def State.engineReady (s : State) (c : Nat) : Bool :=
  match s.readyCmd c with
  | some (_, op) => op.unit = .engine
  | none => false

/-- Context `c` has an engine command accepted or to re-run, its operands ready or not (R243). -/
def State.enginePending (s : State) (c : Nat) : Bool :=
  match (s.ctx c).cmd with
  | some x => match x.op with
    | some op => decide (op.unit = .engine) && s.mayStart c && (decide (x.phase = .waiting) || decide (x.phase = .rerun))
    | none => false
  | none => false

-- Shares and turns (R236 to R239) --------------------

/-- q_c of R236, with the shares in force. -/
def State.quantum (s : State) (c e : Nat) : Nat :=
  let n := (s.sliceOf c).getD 0
  let sum := (((s.classOn e (s.isLc c)).filter fun x => s.sliceOf x = some n).map fun x => (s.ctx x).share).sum
  max 64 (s.reg .quantumAk * s.reg .sliceWeight n * (s.ctx c).share / (16 * sum))

def State.round (s : State) (e : Nat) (lc : Bool) : Round := if lc then (s.engine e).lc else (s.engine e).be
def State.setRound (s : State) (e : Nat) (lc : Bool) (r : Round) : State :=
  s.modEngine e fun x => if lc then { x with lc := r } else { x with be := r }

/-- A list of rising context numbers in turn order: those after `last` first. -/
def turnOrder (last : Option Nat) (l : List Nat) : List Nat :=
  match last with
  | some x => (l.filter (x < ·)) ++ l.filter (· ≤ x)
  | none => l

/-- Goes through contexts in turn order to the first that may start: one that has no command ready takes its turn and gives it up, its D
capped (R239); one that ended its turn in this period, or has D ≤ 0, is passed. -/
def State.passTurns (s : State) (e : Nat) (ended : List Nat) : List Nat → Option Nat × State
  | [] => (none, s)
  | c :: cs =>
    if !s.engineReady c then
      (s.modCtx c fun x => { x with deficit := min x.deficit (s.quantum c e) }).passTurns e ended cs
    else if !ended.contains c && decide (0 < (s.ctx c).deficit) then (some c, s)
    else s.passTurns e ended cs

/-- Brings a round to the point where its turn holder has a ready command and D > 0, giving up turns and beginning periods as
R237 and R239 say; nothing changes when no context of the class is ready. -/
def State.advanceRound (s : State) (e : Nat) (lc : Bool) : Nat → State
  | 0 => s
  | k + 1 =>
    let r := s.round e lc
    let members := s.classOn e lc
    let ready := members.filter s.engineReady
    if ready = [] then s
    else
      match r.holder with
      | some h =>
        if !members.contains h then (s.setRound e lc { r with holder := none }).advanceRound e lc k
        else if s.engineReady h then s
        else
          let s := s.modCtx h fun x => { x with deficit := min x.deficit (s.quantum h e) }
          (s.setRound e lc { r with holder := none, last := some h }).advanceRound e lc k
      | none =>
        match s.passTurns e r.ended (turnOrder r.last members) with
        | (some c, s) => s.setRound e lc { r with holder := some c }
        | (none, s) =>
          let s := members.foldl (fun s c => s.modCtx c fun x => { x with share := s.reg .ctxShare c }) s
          let s := members.foldl (fun s c => s.modCtx c fun x => { x with deficit := x.deficit + s.quantum c e }) s
          (s.setRound e lc { r with ended := [], running := true }).advanceRound e lc k

/-- Context `c` runs an engine command. -/
def State.onEngine (s : State) (c : Nat) : Bool :=
  match (s.ctx c).cmd with
  | some x => match x.op with
    | some op => decide (op.unit = .engine) && (decide (x.phase = .started) || decide (x.phase = .killing))
    | none => false
  | none => false

/-- A turn holder that runs no engine command and has none ready gives up its turn at once, its D capped (R239). -/
def State.yieldTurn (s : State) (e : Nat) (lc : Bool) : State :=
  let r := s.round e lc
  match r.holder with
  | some h =>
    if s.onEngine h || s.engineReady h then s
    else (s.modCtx h fun x => { x with deficit := min x.deficit (s.quantum h e) }).setRound e lc { r with holder := none, last := some h }
  | none => s

/-- Every engine's turn holders that are not ready give up their turns. -/
def State.yieldTurns (s : State) : State :=
  (s.engines.map (·.1)).foldl (fun s e => (s.yieldTurn e true).yieldTurn e false) s

/-- Whether context `c` may start now by turn, or in place of a turn holder that R230 refuses (R237, R239). -/
def State.hasTurn (s : State) (e : Nat) (lc : Bool) (c : Nat) : Bool :=
  let passes (x : Nat) : Bool := match s.readyCmd x with
    | some (k, _) => s.startRule e k.count
    | none => false
  match (s.round e lc).holder with
  | none => false
  | some h =>
    if h = c then true
    else if passes h then false
    else
      match (turnOrder (some h) ((s.classOn e lc).filter s.engineReady)).find? fun x => x ≠ h ∧ passes x with
      | some x => x = c
      | none => false

/-- Charges a committed count to a context and ends its turn when D ≤ 0 (R237). -/
def State.charge (s : State) (c e n : Nat) : State :=
  let lc := s.isLc c
  let s := s.modCtx c fun x => { x with deficit := x.deficit - n }
  let r := s.round e lc
  if r.holder = some c ∧ (s.ctx c).deficit ≤ 0 then
    s.setRound e lc { r with holder := none, last := some c, ended := r.ended ++ [c] }
  else s

-- Engine state (R94) --------------------

/-- MODE of a command. The manual's values name matrix modes: a vector command shows 3 with KAOLIN set, else 1. DESIGN CHOICE, log
entry 72. -/
def modeOf (op : Op) (d : Desc) : Nat :=
  if op.isMatrix then
    match matKind op d with
    | .ci16 => 4
    | .int8 => 2
    | .kaolin => 3
    | .fullSum => 3
    | _ => 1
  else if d.vecKaolin then 3 else 1

-- Checks before cycle 0 (R49, R147, R164) --------------------

/-- The reason found in the operand wait: GATHER's rows, then reserved bits of input records. -/
def State.lateReason (s : State) (c : Nat) (op : Op) (d : Desc) : Option Nat :=
  let rd := s.ctxByte c
  let rows := if op = .gather then gatherExts rd d else []
  firstReason
    [(0x0302, extsHit rows (opWrites op d)),
     (0x0303, rows.any fun x => !s.extIn c x),
     (0x0308, op.isMatrix && (matInputRecords rd op d).any recordReserved)]

-- Starting --------------------

/-- Bytes of ranges as a table keyed tier × 2^60 + offset. -/
def State.copyExts (s : State) (c : Nat) (xs : List Ext) : Tab Byte :=
  xs.foldl (fun t x => t.setRun 0 (x.tier * 2 ^ 60 + x.off) (readRun (s.ctxByte c) x.tier x.off x.len)) []

/-- The copy of a selected command's read set, made before cycle 0 (R474). -/
def State.shadowCopy (s : State) (c : Nat) (x : Cmd) (op : Op) (e : Nat) : State :=
  if !x.shadowed || x.phase = .rerun then s
  else
    let w : Shadow :=
      { ctx := c, desc := x.desc, step := x.step, slice := (s.sliceOf c).getD 0, engine := e, counts := Counts.none,
        readSet := s.copyExts c (opReads op x.desc), writeSet := [], written := false, shadowEngine := none, selectedCk := s.ck,
        idleAk := 0, frames := shadowFramesFor op x.desc, privBytes := (s.ctx c).alloc.privBytes, sharedBytes := (s.ctx c).alloc.sharedBytes,
        privBase := 0, sharedBase := 0 }
    { s with faults := { s.faults with shadows := s.faults.shadows ++ [w] } }

/-- The record FENCE_FABRIC makes at its start (R359). -/
def fenceRequests (f : Tab Nat) : List Request := f.map fun p => ⟨p.1, p.2 - 1, 0, false⟩

/-- Starts context `c`'s command: cycle 0, the hold, the pages it reads (R152, R194). -/
def State.startCmd (s : State) (c : Nat) (x : Cmd) (op : Op) (unit : Nat) : State :=
  let reads := loamPagesOf (s.readsOf c op x.desc)
  let n := (s.sliceOf c).getD 0
  let pages := reads.map fun p => pageKey p ((s.mapOf c).get 0 p)
  let streams := s.absentPages c n reads
  let s := s.bumpIf (op.unit = .dma) .streamedBytes 0 (if isLoamOp op then 0 else s.streamed c n (s.readsOf c op x.desc))
  let s := s.modCtx c fun y => { y with cmd := some { x with
    phase := .started
    startCk := s.ck
    engine := unit
    done := false
    checked := true
    pages := if isLoamOp op then [] else pages
    streams := if isLoamOp op then [] else streams
    pasidEpoch := if x.phase = .rerun then x.pasidEpoch else s.reg .pasidMapEpoch
    requests := if op = .fenceFabric then fenceRequests y.fence else x.requests } }
  if isLoamOp op then s else s.touchPages n pages

/-- The bank of the parameter store that engine `e`'s command uses. -/
def Engine.store (x : Engine) : List Nat := if x.storeNow = 0 then x.store0 else x.store1

/-- The parameter vectors of a command as the DMA writes them (R96, R138). -/
def paramStore (rd : TierRead) (op : Op) (d : Desc) : List Nat :=
  if op.isMatrix then paramBlock (rd 0) (d.matParamAddr * 64) d.matParamBf16 d.matParamLen
  else paramBlock (rd 0) (d.vecParamAddr * 64) d.vecParamBf16 d.vecParamLen

/-- Before cycle 0, the DMA writes a command's vectors into the bank that the engine's previous command did not use; entries beyond
them keep what they held (R96). -/
def State.loadParams (s : State) (e : Nat) (rd : TierRead) (op : Op) (d : Desc) : State :=
  let new := paramStore rd op d
  s.modEngine e fun x =>
    if x.storeNow = 0 then { x with storeNow := 1, store1 := new ++ x.store1.drop new.length }
    else { x with storeNow := 0, store0 := new ++ x.store0.drop new.length }

/-- First cycles of a command's passes (R72, R116). -/
def passStarts (op : Op) (d : Desc) : List Nat := if op.isMatrix then matPassStarts op d else vecPassStarts op d

/-- Pass `p` of an engine's command begins: its report (R81), none of a vector command's, and what the banks hold (R63). -/
def State.beginPass (s : State) (e : Nat) (rd : TierRead) (op : Op) (d : Desc) (p : Nat) : State :=
  if op.isMatrix then
    let par := bankRead (s.engine e).store
    let r := matPassAt op d ((passStarts op d).getD p 0)
    s.modEngine e fun y => { y with
      report := r.2, passLen := r.1, passIdle := 0, bank0 := matBank rd par op d p 0, bank1 := matBank rd par op d p 1 }
  else s.modEngine e fun y => { y with report := 0, passLen := 0, passIdle := 0 }

/-- ENGINE_GRANT (R230, R234, R237, R239, R244, R500). -/
def State.grantEngine (s : State) (c ak : Nat) : State :=
  match s.readyCmd c, (s.ctx c).alloc.engine with
  | some (x, op), some e =>
    let lc := s.isLc c
    if op.unit ≠ .engine || s.gated c || !s.engineFree e then s
    else if !lc && (s.classOn e true).any s.engineReady then s
    else
      let s := s.advanceRound e lc 4096
      if !s.startRule e x.count then
        let w := s.deniedBefore e
        if x.denied.contains w then s
        else (s.bump .brimDenials).modCtx c fun y => { y with cmd := some { x with denied := w :: x.denied } }
      else if !s.hasTurn e lc c then s
      else if 256 < ak then s.bump .staleGrants
      else
        match if x.checked then none else s.lateReason c op x.desc with
        | some r => s.ignoreWaiting c r
        | none =>
          let s := ((s.shadowCopy c x op e).startCmd c x op e).loadParams e (s.ctxByte c) op x.desc
          let s := (s.modEngine e fun y => { y with running := some (.context c) }).beginPass e (s.ctxByte c) op x.desc 0
          s.engineBusy e c (modeOf op x.desc) (if lc then 1 else 2)
  | _, _ => s

/-- DMA_SLOT_GRANT (R231, R244, R356). -/
def State.grantDma (s : State) (c : Nat) : State :=
  match s.readyCmd c, (s.ctx c).alloc.engine with
  | some (x, op), some e =>
    if op.unit = .engine || s.gated c then s
    else
      match if x.checked then none else s.lateReason c op x.desc with
      | some r => s.ignoreWaiting c r
      | none => s.startCmd c x op (if op.unit = .hub then 0xFE else 0x80 + e / 8)
  | _, _ => s

-- Running --------------------

/-- Context `c`'s started command, not yet run, when its opcode is `op`. -/
def State.runningAs (s : State) (c : Nat) (op : Op) : Option Cmd :=
  match (s.ctx c).cmd with
  | some x => if x.phase = .started ∧ !x.done ∧ x.op = some op then some x else none
  | none => none

def State.modCmd (s : State) (c : Nat) (f : Cmd → Cmd) : State := s.modCtx c fun x => { x with cmd := x.cmd.map f }

/-- What an engine command writes and counts, from what the scratchpads and the parameter store give. -/
def engineRun (rd : TierRead) (par : ParamRead) (fw : Numfw) (op : Op) (d : Desc) : EngOut :=
  if op.isMatrix then matRun rd par fw op d else vecRun (rd 0) par fw op d

/-- What engine `e` computes for a command (R96, R101). -/
def State.engineOut (s : State) (e : Nat) (rd : TierRead) (op : Op) (d : Desc) : EngOut :=
  engineRun rd (bankRead (s.engine e).store) s.numfw op d

/-- After its last drain an engine's banks are clear (R76). -/
def State.clearBanks (s : State) (e : Nat) : State := s.modEngine e fun y => { y with bank0 := [], bank1 := [] }

def EngOut.counts (o : EngOut) : Counts := ⟨o.sat, o.inv, o.satHi, o.satLo, o.first⟩

/-- An engine command of a context runs: its results are written in place, under its hold (R153). -/
def State.runEngine (s : State) (c : Nat) (op : Op) : State :=
  match s.runningAs c op with
  | some x =>
    let o := s.engineOut x.engine (s.ctxByte c) op x.desc
    let s := o.writes.foldl (fun s w => s.ctxPut c 0 w.1 w.2) (s.clearBanks x.engine)
    s.modCmd c fun k => { k with done := true, counts := o.counts }
  | none => s

/-- A destination that route changes have found unreachable (R348). -/
def State.unreachable (s : State) (dest : Nat) : Bool := s.fab.drains.any fun d => d.unreachable && decide (d.dest = dest)

/-- A page that the command streams comes from a package that cannot be reached: the command waits, and the end of its job ends it
(R196, R363). -/
def State.streamLost (s : State) (c : Nat) (op : Op) (d : Desc) (streams : List Nat) : Bool :=
  (loamPagesOf (s.readsOf c op d)).any fun p =>
    let e := (s.mapOf c).get 0 p
    streams.contains p && decide (entryKind e = 1) && decide (entrySource e / 2 ^ 41 ≠ s.pkg) && s.unreachable (entrySource e / 2 ^ 41)

/-- A stream that has gone unanswered for REQ_TIMEOUT_US is reported once (R363). -/
def State.reportStream (s : State) (c : Nat) (x : Cmd) : State :=
  if x.denied = [] ∧ x.startCk + 825 * s.reg .reqTimeoutUs ≤ s.ck then
    ((s.bump .unreachableReports).fault 0x0402 0 0 0 c).modCmd c fun k => { k with denied := [0] }
  else s

/-- A DMA command of a context runs. It takes no byte that another command holds (R152). -/
def State.runDma (s : State) (c : Nat) (op : Op) : State :=
  match s.runningAs c op with
  | some x =>
    if usesHost op && !s.hif.access || s.readsHeld c op x.desc then s
    else if s.streamLost c op x.desc x.streams then s.reportStream c x
    else
      let rs := dmaRun (s.ctxByte c) op x.desc (s.ctx c).seed x.step
      let s := rs.foldl (fun s r => s.ctxPutRun c r.tier r.off r.bytes) s
      s.modCmd c fun k => { k with done := true }
  | none => s

/-- LOAM_ACQUIRE is done in a cycle in which every page is present; a page dropped meanwhile is fetched again (R195). -/
def State.runAcquire (s : State) (c : Nat) : State :=
  match s.runningAs c .loamAcquire with
  | some x =>
    if s.absentPages c ((s.sliceOf c).getD 0) (loamPagesOf (opReads .loamAcquire x.desc)) = [] then
      s.modCmd c fun k => { k with done := true }
    else s.fetchPages c x.desc
  | none => s

/-- A fabric command copies what has landed into local memory, or its source into staging (R355 to R357). -/
def State.runFabric (s : State) (c : Nat) (op : Op) : State :=
  match s.runningAs c op with
  | some x =>
    let d : Desc := x.desc
    if (op = .fstore ∨ op = .fstoreShared) ∧ s.readsHeld c op d then s
    else
    let s := match op with
      | .fload => s.ctxPutRun c (tierOf d.fabLocal) (tierOff d.fabLocal) (x.landed.run 0 0 d.fabLength)
      | .fstore | .fstoreShared =>
        let bs := readRun (s.ctxByte c) (tierOf d.fabLocal) (tierOff d.fabLocal) d.fabLength
        s.modCmd c fun k => { k with landed := Tab.setRun 0 [] 0 bs }
      | _ => if op.fetches then s.ctxPutRun c (tierOf d.fabResultLocal) (tierOff d.fabResultLocal) (x.landed.run 0 0 (d.fabLength * 8))
        else s
    s.modCmd c fun k => { k with done := true }
  | none => s

/-- Whether a hub command's condition for its commit holds now (R143, R167, R359). -/
def State.hubCondition (s : State) (c : Nat) (op : Op) (x : Cmd) : Bool :=
  let d : Desc := x.desc
  match op with
  | .wait => decide (d.waitValue ≤ s.sync ((s.sliceOf c).getD 0) d.waitCounter)
  | .waitMem => !s.readsHeld c op d && decide (d.waitMemValue ≤ leNat (readRun (s.ctxByte c) 2 (tierOff d.waitMemAddr) 8))
  | .fenceFabric => x.requests.all fun r => (s.fab.streams.at r.dest).unmarked.all fun q => decide (r.seq < q)
  | _ => true

/-- A hub command runs in the command processor once its condition holds. -/
def State.runHub (s : State) (c : Nat) (op : Op) : State :=
  match s.runningAs c op with
  | some x => if s.hubCondition c op x then s.modCmd c fun k => { k with done := true } else s
  | none => s

-- Committing (R154) --------------------

/-- WRITE packets of a committed store, in ascending address order (R356); the fence counts them (R359). -/
def State.sendStores (s : State) (c : Nat) (x : Cmd) : State :=
  let d : Desc := x.desc
  let job := s.ctxJob c
  (fabStretches d.fabFaddr d.fabLength).foldl (fun s p =>
    let addr := d.fabFaddr + p.1
    let dest := addr / 2 ^ 41
    let seq := (s.stream dest job).next
    let s := s.modCtx c fun y => { y with fence := y.fence.set 0 (streamKey dest job) (seq + 1) }
    s.request (.store c) dest job pkWrite (addr % 2 ^ 41) p.2 (x.landed.run 0 p.1 p.2)) s

/-- SEQs of a committed atomic enter its context's fence (R359). -/
def State.fenceAtomics (s : State) (c : Nat) (x : Cmd) : State :=
  let job := s.ctxJob c
  x.requests.foldl (fun s r => s.modCtx c fun y =>
    { y with fence := y.fence.set 0 (streamKey r.dest job) (max (r.seq + 1) (y.fence.get 0 (streamKey r.dest job))) }) s

/-- What a command changes at its commit beside its write set. -/
def State.commitOwn (s : State) (c : Nat) (x : Cmd) (op : Op) : State :=
  let d : Desc := x.desc
  let n := (s.sliceOf c).getD 0
  match op with
  | .setSeed => s.modCtx c fun y => { y with seed := d.seed }
  | .readTime => s.ctxPutRun c 0 d.readTimeDst (leBytes 16 (time80 (s.ns d.readTimeTb)))
  | .loamAcquire =>
    let ps := loamPagesOf (opReads op d)
    (s.acquirePages c n ps).queuePrefetch c n ps
  | .loamRelease => s.releasePages c n (loamPagesOf (opReads op d))
  | .fstore | .fstoreShared => s.sendStores c x
  | _ => if op.isAtomic then s.fenceAtomics c x else s

/-- The command's engine is free again; idle that a pass boundary put off is inserted now (R91, R93, R240). -/
def State.releaseEngine (s : State) (c : Nat) (x : Cmd) (op : Op) : State :=
  if op.unit ≠ .engine then s
  else
    let e := x.engine
    let g := s.engine e
    let off := if g.idleOff then g.idleReq.getD 0 else 0
    let s := s.modEngine e fun y => { y with idleReq := if g.idleOff then none else y.idleReq, idleOff := false }
    let s := (s.engineIdle e).bump .idleInserted e off
    let s := (s.bump .execCycles e x.count).bump .engineCycles c x.count
    s.charge c e x.count

/-- Counters of a commit (R93, R126, R169). -/
def State.countCommit (s : State) (x : Cmd) (op : Op) : State :=
  let flagged := decide (0 < x.counts.satHi + x.counts.satLo)
  let s := (s.bump .commits).bumpIf (flagged && decide (op.unit = .engine)) .kaolinFlagged x.engine
  let s := s.bumpIf (op.unit = .engine && !op.isMatrix) .vecCommands
  (s.bump .satElements 0 x.counts.sat).bump .invalidElements 0 x.counts.inv

/-- Code of a commit's record (R44, R160). -/
def commitCode (k : Counts) : Nat := if 0 < k.satHi + k.satLo then 0x10 else 0x00

/-- The write set of a selected command is copied after its commit (R474). -/
def State.shadowWritten (s : State) (c : Nat) (x : Cmd) : State :=
  if !x.shadowed || !(s.faults.shadows.any fun w => w.ctx = c && decide (w.step = x.step)) then s
  else
    let s := s.modCtx c fun y => { y with copying := true }
    { s with faults := { s.faults with shadows := s.faults.shadows.map fun w =>
        if w.ctx = c ∧ w.step = x.step then { w with counts := x.counts } else w } }

/-- A pending PASID map switches at a command boundary, and the former one is the shadow (R207, R208, R388). -/
def State.switchPasid (s : State) : State :=
  match s.hif.pasidNext with
  | some m =>
    let old := s.hif.pasid
    let s := (s.bump .pasidMapEpoch).setReg .pasidMapEntries old.length
    { s with hif := { s.hif with
        pasid := m, pasidNext := none, pasidShadow := Tab.setRun 0 s.hif.pasidShadow 0 (old.flatMap (leBytes 4)) } }
  | none => s

/-- A fetched descriptor that uses tier 4 and has not started is ignored once its context's PASID is not bound (R389); a killed command keeps
its slot (R155). -/
def State.dropUnbound (s : State) : State :=
  s.liveCtxs.foldl (fun s c =>
    match (s.ctx c).cmd with
    | some x =>
      match x.op with
      | some op =>
        if usesHost op && !s.pasidBound c && decide (x.phase = .waiting) then ((s.endCommand c).ignoreHead c 0x0309).tryBoundary c
        else s
      | none => s
    | none => s) s

/-- A command boundary: a committed PASID map takes effect, and every context checks its next command under it. -/
def State.pasidBoundary (s : State) : State :=
  match s.hif.pasidNext with
  | some _ => s.switchPasid.dropUnbound.checkAll
  | none => s

/-- Uncorrectable words that context `c`'s command reads, as DPAs (R196, R462). -/
def State.badReads (s : State) (c : Nat) (x : Cmd) (op : Op) : List Nat :=
  let runs := (s.readsOf c op x.desc).flatMap fun e => s.extRuns c e ++ s.streamRuns c x.streams e
  (s.tier.badWords.filter fun w => runs.any fun r => overlap (8 * w) 8 r.1 r.2).map (8 * ·)

/-- The enabled job whose window region holds a DPA of this package. -/
def State.jobRegionOf (s : State) (dpa : Nat) : Option Nat :=
  (List.range 256).find? fun i => decide (s.reg .jobState i = 1) &&
    (s.jobEntry i).windows.any fun r => decide (regionBase r / 2 ^ 41 = s.pkg) &&
      overlap (regionBase r % 2 ^ 41) (regionSize r) dpa 1

/-- Loam frames with uncorrectable words that the command reads are dropped and fetched again (R194, R462). -/
def State.badLoam (s : State) (c : Nat) (x : Cmd) (op : Op) : State :=
  let n := (s.sliceOf c).getD 0
  (loamPagesOf (s.readsOf c op x.desc)).foldl (fun s p =>
    let e := (s.mapOf c).get 0 p
    match s.pageFrame n p e with
    | some f => if s.badIn (f * frameBytes) frameBytes then
        let s := s.badRecord 0x0104 1 (s.firstBad (f * frameBytes) frameBytes) c
        (s.dropPage f).demandFetch n p e (s.referrers n p e) true
      else s
    | none => s) s

/-- The queues of a slice that run are frozen: STATE 2. -/
def State.freezeQueues (s : State) (cs : List Nat) : State :=
  cs.foldl (fun s c => s.modPage c fun p => { p with state := if p.state = 1 then 2 else p.state }) s

def State.freezeImages (s : State) (cs : List Nat) : State := cs.foldl (fun s c => s.writeImage c) s

/-- A freezing slice is frozen once nothing of it runs: STATE 2 and hood images (R396). -/
def State.settleFreeze (s : State) (n : Nat) : State :=
  let cs := (s.sliceCtxs n).filter fun c => (s.ctx c).live
  let busy := cs.any fun c => s.outstanding c || match (s.ctx c).cmd with
    | some x => decide (x.phase = .started) || decide (x.phase = .killing)
    | none => false
  if s.sliceState n ≠ 1 || busy then s
  else ((s.freezeQueues cs).freezeImages cs).setSliceState n 2

/-- Every freezing slice with nothing left to run is frozen. -/
def State.settleAll (s : State) : State := (List.range 64).foldl (fun s n => s.settleFreeze n) s

/-- The commit of context `c`'s command (R154). -/
def State.commitCtx (s : State) (c : Nat) (x : Cmd) (op : Op) : State :=
  let n := (s.sliceOf c).getD 0
  let d : Desc := x.desc
  let s := s.commitOwn c x op
  let s := s.modCtx c fun y => { y with quietCk := s.ck, nextAt := s.ck, cmd := none, step := (y.step + 1) % 2 ^ 64, page := { y.page with head := y.page.head + 1 } }
  let s := if d.signalEn then s.setSync n d.signalCtr (s.sync n d.signalCtr + 1) else s
  let s := s.writeRecord c (recordBits d.tag x.step x.seq (x.startCk - x.nextCk) (s.ck - x.startCk) x.counts x.count x.idleAk d.opcode
    x.engine (commitCode x.counts) 0)
  let s := if d.irq then s.raiseQueue c else s
  let s := ((s.countCommit x op).releaseEngine c x op).shadowWritten c x
  let s := if x.pages = [] then s else (s.touchPages n x.pages).sweepLoam n
  ((((s.atBoundary c).settleRegions).settleFreeze n).pasidBoundary).checkNext c

/-- COMMIT of a context: a read of an uncorrectable word ends the owner of the data instead (R154, R462). -/
def State.commitOf (s : State) (c : Nat) : State :=
  match (s.ctx c).cmd with
  | some x =>
    match x.op with
    | some op =>
      if !(decide (x.phase = .started) && x.done) then s
      else if s.isBad (badCtx c) then s.ctxFault c
      else if op.unit = .hub && !s.hubCondition c op x then s
      else
        let s := s.badLoam c x op
        if op = .loamAcquire && s.absentPages c ((s.sliceOf c).getD 0) (loamPagesOf (opReads op x.desc)) ≠ [] then
          s.fetchPages c x.desc
        else match s.badReads c x op with
        | [] => s.commitCtx c x op
        | a :: as =>
          match (a :: as).find? fun b => (s.jobRegionOf b).isSome with
          | some b =>
            let i := (s.jobRegionOf b).getD 0
            if (s.jobEntry i).broken then s
            else (s.badRecord 0x0103 2 b c (cfgJob (s.jobBits i))).modJob i
              fun j => { j with broken := true }
          | none => (s.badRecord 0x0102 2 a c).teardown c 0x30 0x01
    | none => s
  | none => s

-- Killing (R86 to R88, R155, R235, R240) --------------------

/-- A kill request for context `c`'s command: no effect at or after its commit point. One before its start withdraws it, which is no kill
(R155): a fabric command's requests are given up, and it begins its operand wait again once their responses have returned (R357). -/
def State.killCtx (s : State) (c cause ak : Nat) : State :=
  match (s.ctx c).cmd with
  | some x =>
    match x.op with
    | some op =>
      if x.phase = .killing then s.modCmd c fun k => { k with cause := max k.cause cause }
      else if x.phase ≠ .started then
        if x.requests = [] then s else (s.modCmd c fun k => { k with requests := [], landed := [] }).dropRequests c
      else if op.unit = .engine && decide (x.count + x.idleAk ≤ ak) then s
      else (s.modCmd c fun k => { k with phase := .killing, cause }).dropRequests c
    | none => s
  | none => s

/-- KILL_DONE of context `c`'s command after `ak` AK cycles (R155, R159, R240). Idle that the brim put off stays due, until a later
command of the engine commits. DESIGN CHOICE, log entry 72. -/
def State.killDoneCtx (s : State) (c ak : Nat) : State :=
  match (s.ctx c).cmd with
  | some x =>
    match x.op with
    | some op =>
      if x.phase ≠ .killing || s.outstanding c then s
      else
        let n := (s.sliceOf c).getD 0
        let d : Desc := x.desc
        let s := if (s.ctx c).page.reportKills && !x.silent then s.writeRecord c (recordBits d.tag x.step x.seq (x.startCk - x.nextCk)
            (s.ck - x.startCk) Counts.none x.count x.idleAk d.opcode x.engine 0x01 x.cause) else s
        let s := (s.bump .kills).bumpIf (x.cause = 0x10) .preemptKills
        let s := if op.unit = .engine then
            ((s.bump .meKills x.engine).bump .killedCycles c ak).engineIdle x.engine
          else s
        let s := (s.modCmd c fun k => { k with
          phase := .rerun, done := false, requests := [], landed := [], counts := Counts.none, idleAk := 0, pages := [], streams := [], cause := 0, silent := false }).dropWaitingFetches c
        let s := if x.pages = [] then s else (s.touchPages n x.pages).sweepLoam n
        let s := ((s.tryBoundary c).settleFreeze n).pasidBoundary
        if s.queueRuns c then s.beginWait c else s
    | none => s
  | none => s

-- Shadows that run (R475) --------------------

/-- Frees the engine and the temporary allocation of shadow `w`, which is cleared after use, and the parameter store with it (R96, R178). -/
def State.clearShadow (s : State) (w : Shadow) : State :=
  match w.shadowEngine with
  | none => s
  | some e =>
    let s := (s.clear (privDpa e + w.privBase) w.privBytes).clear (sharedDpa (e / 8) + w.sharedBase) w.sharedBytes
    (s.engineIdle e).clearStore e

/-- The shadow that runs on engine `e`. -/
def State.shadowOn (s : State) (e : Nat) : Option Shadow := s.faults.shadows.find? fun w => w.shadowEngine = some e

/-- Bytes of a running shadow's temporary allocation. -/
def State.shadowByte (s : State) (w : Shadow) (e : Nat) : TierRead := fun t off =>
  s.rd ((if t = 0 then privDpa e + w.privBase else sharedDpa (e / 8) + w.sharedBase) + off)

/-- A running shadow is killed (R89, R93, R234, R475): the engine keeps nothing of it, and it waits to run again. -/
def State.stopShadow (s : State) (e : Nat) : State :=
  match s.shadowOn e with
  | none => s
  | some w =>
    let back (x : Shadow) : Shadow := if x = w then { x with shadowEngine := none, idleAk := 0 } else x
    let s := ((s.clearShadow w).bump .kills).bump .meKills e
    { s with faults := { s.faults with shadows := s.faults.shadows.map back } }

-- Pre-emption (R234) --------------------

/-- Pre-emption of the BE command, or of the shadow, on an engine by a pending LC command (R233, R234). -/
def State.preempt (s : State) (e ak : Nat) : State :=
  let lcWaits := (s.classOn e true).any s.enginePending
  match (s.engine e).running with
  | some (.context c) =>
    match (s.ctx c).cmd with
    | some x =>
      let left := x.count + x.idleAk - ak
      if !s.isLc c && lcWaits && decide (s.reg .killSkipAk < left) then s.killCtx c 0x10 ak else s
    | none => s
  | some (.radio _) => s
  | none =>
    match s.shadowOn e with
    | some w =>
      match Op.ofCode (Desc.opcode w.desc) with
      | some op => if lcWaits && decide (s.reg .killSkipAk < opCount op w.desc + w.idleAk - ak) then (s.bump .preemptKills).stopShadow e else s
      | none => s
    | none => s

-- Throttle idle (R81, R91) --------------------

/-- Bytes of a radio engine's regions. -/
def State.radioByte (s : State) (e : Nat) : TierRead := fun t off => s.rd ((s.radioView e).dpa t off)

/-- Whether a command that has `left` AK cycles to go ends a brim before the engine's next window. -/
def State.idleFits (s : State) (e left : Nat) : Bool :=
  match s.nextWindow e with
  | none => true
  | some w => decide (left * 10 + 33 * brimNs ≤ 33 * w)

/-- The number of the pass that begins `at_` AK cycles after cycle 0, its idle not counted; none within a pass, at cycle 0 and
beyond the last: a command's start is no pass boundary, and no idle goes before its first pass (R91). DESIGN CHOICE, log entry 72. -/
def passNumber (op : Op) (d : Desc) (at_ : Nat) : Option Nat :=
  (List.range (passStarts op d).length).find? fun p => decide (0 < p) && decide ((passStarts op d)[p]? = some at_)

/-- Idle asked of engine `e` goes in before the pass that begins now of a tenant command with `left` AK cycles to go, to which `add` adds
it, or is put off (R91). -/
def State.insertIdle (s : State) (e left : Nat) (add : Nat → State → State) : State :=
  match (s.engine e).idleReq with
  | none => s
  | some n =>
    if s.idleFits e (left + n) then
      ((add n s).modEngine e fun y => { y with idleReq := none, idleOff := false, passIdle := n }).bump .idleInserted e n
    else s.modEngine e fun y => { y with idleOff := true }

/-- Idle of context `c`'s command. -/
def State.addIdle (c n : Nat) (s : State) : State := s.modCmd c fun k => { k with idleAk := k.idleAk + n }

/-- Idle of a shadow's run. -/
def State.addShadowIdle (w : Shadow) (n : Nat) (s : State) : State :=
  { s with faults := { s.faults with shadows := s.faults.shadows.map fun x => if x = w then { x with idleAk := x.idleAk + n } else x } }

/-- PASS_BOUNDARY, `ak` AK cycles after cycle 0 (R63, R72, R81, R91, R116): radio commands report, and are never
throttled; a shadow is, as of class BE (R233). At any other cycle than a pass's first nothing happens. -/
def State.passBoundary (s : State) (e ak : Nat) : State :=
  match (s.engine e).running with
  | some (.context c) =>
    match (s.ctx c).cmd with
    | some x =>
      match x.op with
      | some op =>
        match passNumber op x.desc (ak - x.idleAk) with
        | some p =>
          if x.phase = .started then
            (s.beginPass e (s.ctxByte c) op x.desc p).insertIdle e (x.count + x.idleAk - ak) (State.addIdle c)
          else s
        | none => s
      | none => s
    | none => s
  | some (.radio l) =>
    match s.radio.cmds.at l with
    | some x =>
      match x.op with
      | some op =>
        match passNumber op x.desc ak with
        | some p => if x.phase = .started then s.beginPass e (s.radioByte e) op x.desc p else s
        | none => s
      | none => s
    | none => s
  | none =>
    match s.shadowOn e with
    | some w =>
      match Op.ofCode (Desc.opcode w.desc) with
      | some op =>
        match passNumber op w.desc (ak - w.idleAk) with
        | some p =>
          (s.beginPass e (s.shadowByte w e) op w.desc p).insertIdle e (opCount op w.desc + w.idleAk - ak) (State.addShadowIdle w)
        | none => s
      | none => s
    | none => s

end Sys2Proof.Machine
end

