-- ==== Sys2Proof/Machine/Radio.lean ====
section
/-! DEFINITION. Radio command queues and radio commands on borrowed engines (R227, R279, R280, R555), and the operations that
serve tenant and radio commands alike. -/

namespace Sys2Proof.Machine

-- Core events (R259) --------------------

/-- Raises an event on a core: its counter, and the cell, SFN and slot of the latest. -/
def State.raiseEvent (s : State) (core type cell slot : Nat) : State :=
  s.modCore core fun c => { c with
    events := c.events.set 0 type (c.events.get 0 type + 1)
    evCell := c.evCell.set 0 type cell
    evSfn := c.evSfn.set 0 type (s.cell cell).sfn
    evSlot := c.evSlot.set 0 type slot }

-- The command under way on a radio queue --------------------

def State.radioCmd (s : State) (l : Nat) : Option Cmd := s.radio.cmds.get none l
def State.setRadioCmd (s : State) (l : Nat) (x : Option Cmd) : State :=
  { s with radio := { s.radio with cmds := s.radio.cmds.set none l x } }
def State.modRadioCmd (s : State) (l : Nat) (f : Cmd → Cmd) : State := s.setRadioCmd l ((s.radioCmd l).map f)

/-- Queue number of a logical engine's radio command queue (R293). -/
def radioQueue (l : Nat) : Nat := 0x1200 + l

/-- Cell and core of the command under way (R279). -/
def State.radioTag (s : State) (l : Nat) : Nat := s.radio.cmdTag.get 0 l
def tagCell (t : Nat) : Nat := t % 256
def tagCore (t : Nat) : Nat := t / 256

-- Checks (R162 to R165, R279) --------------------

/-- Whether a range lies within the radio regions (R174, R175, R279). -/
def RadioView.holds (v : RadioView) (x : Ext) : Bool :=
  match x.tier with
  | 0 => decide (x.off + x.len ≤ v.privBytes)
  | 1 => decide (x.off + x.len ≤ v.sharedBytes)
  | _ => false

/-- The first reason for which a radio descriptor is ignored. -/
def State.radioReason (s : State) (l e : Nat) (d : Desc) : Option Nat :=
  match Op.ofCode d.opcode with
  | none => some 0x0201
  | some op =>
    let on := decide (op.group = 0) || decide (op.group = 1) || decide (op.group = 3)
    match reasons02 op d on s.boot.numfwOk with
    | some r => some r
    | none =>
      let reads := opReads op d
      let writes := opWrites op d
      firstReason
        [(0x0301, d.stepCheck && decide (d.expectedStep ≠ s.radio.steps.get 0 l)),
         (0x0302, overlapBad reads writes),
         (0x0303, (reads ++ writes).any fun x => !(s.radioView e).holds x)]

/-- Counts an ignored radio command or ENGQ (R279). -/
def State.countRadioIgnored (s : State) (reason : Nat) : State :=
  ((s.countIgnored reason).bump .radioIgnored).setReg .radioLastIgnored reason

/-- Checks the descriptor at READ of a radio queue, passing over ignored ones (R162, R280). -/
def State.radioCheckLoop (s : State) (l : Nat) : Nat → State
  | 0 => s
  | k + 1 =>
    let q := radioQueue l
    match s.radioCmd l, s.logicalEngine l with
    | none, some e =>
      if s.qDepth q = 0 || !s.qOn q then s
      else
        let w := s.qWord q (s.queue q).read
        let d : Desc := leNat w.bytes
        match s.radioReason l e d, Op.ofCode d.opcode with
        | some r, _ => ((s.countRadioIgnored r).qRead q 1).radioCheckLoop l k
        | none, some op =>
          let x := newCmd op d (s.queue q).read.toNat (s.radio.steps.get 0 l) s.ck 0 0 false
          let s := s.setRadioCmd l (some x)
          { s with radio := { s.radio with
              cmdTag := s.radio.cmdTag.set 0 l w.tag
              lateCounted := s.radio.lateCounted.filter fun k => decide (k / 2 ^ 32 ≠ l) || decide (k = l * 2 ^ 32 + x.seq) } }
        | none, none => s
    | _, _ => s

def State.radioCheck (s : State) (l : Nat) : State := s.radioCheckLoop l (s.qDepth (radioQueue l) + 1)

/-- Every radio queue checks its next descriptor. -/
def State.radioCheckAll (s : State) : State := (List.range 128).foldl (fun s l => s.radioCheck l) s

-- ENGQ (R279) --------------------

/-- The time base of a core: that of its KIND 1 entries (R218). -/
def State.coreTb (s : State) (core : Nat) : Option Nat :=
  (((List.range 8).flatMap s.tilthEntries).find? fun e => tilthKind e = 1 ∧ tilthUnit e = core).map tilthTb

/-- The cell is enabled, on the core's die, in the core's time base (R279). -/
def State.cellServes (s : State) (cell core : Nat) : Bool :=
  (s.cell cell).enabled && decide (s.cellBd cell = core / 48) && decide (s.coreTb core = some (s.cellTb cell))

/-- The logical engine is one whose BD bit names the core's die (R279). -/
def State.logicalServes (s : State) (l core : Nat) : Bool :=
  match s.logicalEntry l with
  | some e => tilthBd e = core / 48
  | none => false

-- Starting (R65, R152, R227, R280) --------------------

/-- The current window of logical engine `l` for `cell`, of any time base: its engine, the time now and its end, both within the frame. -/
def State.ownWindow (s : State) (l cell : Nat) : Option (Nat × Nat × Nat) :=
  (List.range 8).findSome? fun t =>
    let now := s.inFrame t
    let es := (s.tilthEntries t).filter fun e => tilthKind e = 0 ∧ tilthUnit e = l ∧ tilthCell e = cell
    match (es.flatMap occurrences).find? fun o => decide (o.1 ≤ now) && decide (now < o.2), s.engineFor t l with
    | some o, some e => some (e, now, o.2)
    | _, _ => none

/-- RADIO_START of the command at the head of logical engine `l`'s queue. A radio command has no context: CONTEXT of ME_STATE is 0.
DESIGN CHOICE, log entry 72. -/
def State.radioStart (s : State) (l ak : Nat) : State :=
  match s.radioCmd l with
  | some x =>
    match x.op, s.ownWindow l (tagCell (s.radioTag l)) with
    | some op, some (e, now, stop) =>
      let d : Desc := x.desc
      let runs := ((opReads op d) ++ (opWrites op d)).flatMap (s.radioView e).runs
      if x.phase = .started || x.phase = .killing || !s.engineFree e
          || decide (stop < now + countBound x.count) || runsHit runs (s.heldRuns (some (.radio l))) then s
      else if 256 < ak then s.bump .staleGrants
      else if !x.checked && op.isMatrix && (matInputRecords (s.radioByte e) op d).any recordReserved then
        (((s.countRadioIgnored 0x0308).qRead (radioQueue l) 1).setRadioCmd l none).radioCheck l
      else
        let s := if x.phase = .waiting then s.qRead (radioQueue l) 1 else s
        let s := s.setRadioCmd l (some { x with phase := .started, startCk := s.ck, engine := e, done := false, checked := true })
        let s := s.loadParams e (s.radioByte e) op d
        let s := (s.modEngine e fun y => { y with running := some (.radio l) }).beginPass e (s.radioByte e) op d 0
        s.engineBusy e 0 (modeOf op d) 3
    | _, _ => s
  | none => s

-- Running, committing, killing --------------------

/-- An engine command of a radio queue runs: its results are written in place, under its hold. -/
def State.runRadio (s : State) (l : Nat) (op : Op) : State :=
  match s.radioCmd l with
  | some x =>
    if x.phase = .started ∧ !x.done ∧ x.op = some op then
      let o := s.engineOut x.engine (s.radioByte x.engine) op x.desc
      let s := o.writes.foldl (fun s w => s.wr ((s.radioView x.engine).dpa 0 w.1) w.2) (s.clearBanks x.engine)
      s.modRadioCmd l fun k => { k with done := true, counts := o.counts }
    else s
  | none => s

/-- An engine command of either owner runs. -/
def State.runOwned (s : State) (who : Owner) (op : Op) : State :=
  match who with
  | .context c => s.runEngine c op
  | .radio l => s.runRadio l op

/-- R555. -/
def radioWord (l : Nat) (x : Cmd) (code cause : Nat) : Nat :=
  Desc.tag x.desc * 2 ^ 96 + code * 2 ^ 88 + 0x30 * 2 ^ 80 + cause * 2 ^ 72 + satCount 16 x.count * 2 ^ 56 +
    Desc.opcode x.desc * 2 ^ 44 + l * 2 ^ 37 + x.engine * 2 ^ 29 + satCount 16 x.counts.sat * 2 ^ 13

/-- The command under way of a radio queue ends with a completion word and ENGINE_DONE (R279); a word of code 0x30 that its queue takes
counts in TEARDOWN_RECORDS (R169). -/
def State.endRadio (s : State) (l : Nat) (x : Cmd) (code cause : Nat) : State :=
  let t := s.radioTag l
  let (wrote, s) := s.qPush (0x1100 + tagCore t) 0 (leBytes 16 (radioWord l x code cause))
  let s := s.bumpIf (wrote && decide (code = 0x30)) .teardownRecords
  let s := s.raiseEvent (tagCore t) 4 (tagCell t) (s.cell (tagCell t)).slot
  let s := (s.freeEngine (.radio l)).setRadioCmd l none
  s.radioCheck l

/-- Uncorrectable words of the radio regions that a command reads (R462). -/
def State.radioBad (s : State) (x : Cmd) (op : Op) : List Nat :=
  let runs := (opReads op x.desc).flatMap (s.radioView x.engine).runs
  (s.tier.badWords.filter fun w => runs.any fun r => overlap (8 * w) 8 r.1 r.2).map (8 * ·)

/-- COMMIT of a radio command (R57, R154, R279, R462). -/
def State.commitRadio (s : State) (l : Nat) : State :=
  match s.radioCmd l with
  | some x =>
    match x.op with
    | some op =>
      if x.phase ≠ .started || !x.done then s
      else match s.radioBad x op with
        | a :: _ =>
          let s := s.badRecord 0x0105 4 a
          s.endRadio l x 0x30 0x01
        | [] =>
          let flagged := decide (0 < x.counts.satHi + x.counts.satLo)
          let s := { s with radio := { s.radio with steps := s.radio.steps.set 0 l ((s.radio.steps.get 0 l + 1) % 2 ^ 64) } }
          let s := ((s.bump .commits).bumpIf flagged .kaolinFlagged x.engine).bumpIf (!op.isMatrix) .vecCommands
          let s := (s.bump .satElements 0 x.counts.sat).bump .invalidElements 0 x.counts.inv
          ((s.bump .execCycles x.engine x.count).endRadio l x (commitCode x.counts) 0).pasidBoundary
    | none => s
  | none => s

/-- A radio command is killed by a check fault alone (R89, R227, R479). -/
def State.killRadio (s : State) (l cause ak : Nat) : State :=
  match s.radioCmd l with
  | some x =>
    if cause ≠ 0x12 || x.phase ≠ .started || decide (x.count ≤ ak) then s
    else s.modRadioCmd l fun k => { k with phase := .killing, cause }
  | none => s

/-- KILL_DONE of a radio command: it re-runs from the head of its queue while its window allows (R479). -/
def State.killDoneRadio (s : State) (l : Nat) : State :=
  match s.radioCmd l with
  | some x =>
    if x.phase ≠ .killing then s
    else
      let s := ((s.bump .kills).bump .meKills x.engine).freeEngine (.radio l)
      s.modRadioCmd l fun k => { k with phase := .rerun, done := false, counts := Counts.none, cause := 0 }
  | none => s

/-- The command at the head of logical engine `l`'s queue that has not started, as its cell and index; of a logical engine that finds no
engine, the descriptor at READ (R220). -/
def State.radioHead (s : State) (l : Nat) : Option (Nat × Nat) :=
  let q := radioQueue l
  match s.radioCmd l with
  | some x => if x.phase = .waiting ∨ x.phase = .rerun then some (tagCell (s.radioTag l), x.seq) else none
  | none =>
    if s.qDepth q = 0 || !s.qOn q then none
    else some (tagCell (s.qWord q (s.queue q).read).tag, (s.queue q).read.toNat)

/-- The command at the head of logical engine `l`'s queue has not started by the end of its cell's window: it counts once
(R220, R227, R280). -/
def State.radioLateAt (s : State) (l cell : Nat) : State :=
  match s.radioHead l with
  | some (k, i) =>
    let key := l * 2 ^ 32 + i
    if k = cell && !s.radio.lateCounted.contains key then
      let s := { s with radio := { s.radio with lateCounted := key :: s.radio.lateCounted } }
      let e := (s.logicalEngine l).getD 0xFF
      (s.bump .radioLate).fault 0x0501 4 2 e cell
    else s
  | none => s

-- Owners --------------------

def State.commitOwned (s : State) (who : Owner) : State :=
  match who with
  | .context c => (s.commitOf c).settleSnapshots
  | .radio l => s.commitRadio l

def State.killOwned (s : State) (who : Owner) (cause ak : Nat) : State :=
  match who with
  | .context c => s.killCtx c cause ak
  | .radio l => s.killRadio l cause ak

def State.killDoneOwned (s : State) (who : Owner) (ak : Nat) : State :=
  match who with
  | .context c => (s.killDoneCtx c ak).settleSnapshots
  | .radio l => s.killDoneRadio l

end Sys2Proof.Machine
end

