-- ==== Sys2Proof/Machine/Schedule.lean ====
section
/-! DEFINITION. The host's queue pages (R128 to R133, R385) and the scheduler's commands: placement, grants, commits, kills and
check faults (R86 to R91, R150 to R161, R227 to R244). -/

namespace Sys2Proof.Machine

/-- What every command of the model answers. -/
abbrev Out := Host.Outcome State Fault Refusal

-- Queue pages --------------------

/-- DOORBELL of context `c` with value `t` (R131). -/
def State.doorbell (s : State) (c : Nat) (t : W32) : State :=
  let p := (s.ctx c).page
  if p.state = 0 then s.ignoreDoorbell c 0x0101 t
  else if p.state = 3 then s.ignoreDoorbell c 0x0104 t
  else if (t - p.tail).toInt < 0 then s.ignoreDoorbell c 0x0102 t
  else if 2 ^ p.cmdLog2 < (t - p.tail).toNat ∨ 2 ^ p.cmdLog2 < (t - p.head).toNat then s.ignoreDoorbell c 0x0103 t
  else (s.modCtx c fun x => { x with
    page := { p with tail := t }, nextAt := if p.head = p.tail then s.ck else x.nextAt }).checkNext c

/-- DOORBELL: the host's own writes to its memory come first. -/
def execDoorbell (slice queue : Nat) (tail : W32) (writes : List HostWrite) (s : State) : Out :=
  let s := s.hostPut writes
  match s.queueCtx slice queue with
  | some c => .next (if s.hif.access then s.doorbell c tail else s)
  | none => .next s

/-- RING_CFG without its reserved bits, which a write drops (R130). DESIGN CHOICE, log entry 82. -/
def ringMask (v : W32) : Nat := v.toNat &&& 0xC7FF0FF0

/-- Fields of a RING_CFG value that allow ENABLE (R130). -/
def State.ringOk (s : State) (n : Nat) (p : Page) : Bool :=
  decide (6 ≤ p.cmdLog2) && decide (p.cmdLog2 ≤ 16) && decide (6 ≤ p.cplLog2) && decide (p.cplLog2 ≤ 16)
    && s.vecGranted n p.vector && decide (p.cmdBase % 4096 = 0) && decide (p.cplBase % 4096 = 0)

/-- A new context on queue registers that were just enabled (R130, R385). -/
def State.createCtx (s : State) (n c : Nat) (p : Page) : State :=
  s.setCtx c { (default : Ctx) with
    live := true
    page := { p with head := 0, tail := 0, cplHead := 0, cplIndex := 0, state := if s.sliceState n = 0 then 1 else 2 } }

/-- RING_CFG of queue context `c` of slice `n`: while ENABLE is 1 a write changes only ENABLE; the ring base registers hold any value
written to them (R130). Clearing ENABLE kills the command under way without a record and removes the context (R385). -/
def State.ringCfg (s : State) (n c v cmdBase cplBase : Nat) : State :=
  let p := (s.ctx c).page
  let p := { p with cmdBase := cmdBase, cplBase := cplBase }
  if p.enabled then
    if bit v 31 then s.modPage c fun _ => p
    else ((s.countRemoved c).removeCtx c).modPage c fun _ => { p with ringCfg := setBit p.ringCfg 31 false, state := 0 }
  else
    let p := { p with ringCfg := v }
    if bit v 31 then
      if s.ringOk n p then s.createCtx n c p
      else s.modPage c fun _ => { p with ringCfg := setBit v 31 false }
    else s.modPage c fun _ => p

/-- RING_CFG, with what the ring base registers hold when it is written. -/
def execRingCfg (slice queue : Nat) (value : W32) (cmdBase cplBase : W64) (s : State) : Out :=
  match s.queueCtx slice queue with
  | some c => .next (if s.hif.access then (s.ringCfg slice c (ringMask value) cmdBase.toNat cplBase.toNat).settleAll else s)
  | none => .next s

/-- The 32-bit register at an offset of the page of queue `queue` of a slice: 0 where no context is bound (R129). -/
def State.pageRead (s : State) (slice queue off : Nat) : Nat :=
  match s.queueCtx slice queue with
  | none => 0
  | some c =>
    let p := (s.ctx c).page
    match off with
    | 0x04 => p.head.toNat
    | 0x08 => p.tail.toNat
    | 0x0C => p.ignored.toNat
    | 0x10 => p.lastIgnored
    | 0x14 => p.lastIgnoredSeq.toNat
    | 0x18 => p.state
    | 0x1C => p.cplHead.toNat
    | 0x20 => p.cmdBase % 2 ^ 32
    | 0x24 => p.cmdBase / 2 ^ 32 % 2 ^ 32
    | 0x28 => p.cplBase % 2 ^ 32
    | 0x2C => p.cplBase / 2 ^ 32 % 2 ^ 32
    | 0x30 => p.ringCfg
    | _ => 0

/-- CPL_HEAD (R133). -/
def execCplHead (slice queue : Nat) (value : W32) (s : State) : Out :=
  match s.queueCtx slice queue with
  | some c => .next (if s.hif.access then s.modPage c fun p => { p with cplHead := value } else s)
  | none => .next s

-- Placement (R241, R242, R385) --------------------

/-- Whether a slice's scratchpad quota has room for what context `c` is to have (R206, R385). -/
def State.quotaFits (s : State) (c : Nat) : Bool :=
  match s.sliceOf c with
  | some n => decide (s.spBytes n + (s.wantedSizes c).1 + (s.wantedSizes c).2 ≤ s.reg .spQuotaBytes n)
  | none => false

/-- The place that a plan kept for a context, once it is free (R175). -/
def State.keptSpot (s : State) (c : Nat) : Option (Nat × Nat × Nat) :=
  match (s.ctx c).wanted.place with
  | some (e, g, sh) => if s.spotFits c e g sh then some (e, g, sh) else none
  | none => none

/-- CONTEXT_PLACED: at the place a plan kept for the context, else where R242 says. -/
def State.place (s : State) (c : Nat) : State :=
  let x := s.ctx c
  if !x.live || x.alloc.engine ≠ none || x.page.state = 3 || !s.quotaFits c then s
  else match s.keptSpot c, s.chooseEngine c x.alloc.home with
    | some (e, g, sh), _ => (((s.placeSpot c e g sh).modWanted c fun w => { w with engine := none, spot := none }).growRegions).checkNext c
    | none, some e => ((s.placeOn c e).modWanted c fun w => { w with engine := none, spot := none }).checkNext c
    | none, none => s

def execContextPlaced (ctx : Nat) (s : State) : Out := .next (s.place ctx)

-- Grants, commits, kills --------------------

/-- ENGINE_GRANT; `akToStart` is how many AK cycles after the decision cycle 0 can come (R229, R500). -/
def execEngineGrant (ctx akToStart : Nat) (s : State) : Out := .next (s.grantEngine ctx akToStart).yieldTurns

def execDmaSlotGrant (ctx : Nat) (s : State) : Out := .next (s.grantDma ctx).yieldTurns

/-- COMMIT (R154). -/
def execCommit (who : Owner) (s : State) : Out := .next (s.commitOwned who).wakeFabric.yieldTurns

/-- PASS_BOUNDARY (R81, R91). -/
def execPassBoundary (engine ak : Nat) (s : State) : Out := .next (s.passBoundary engine ak)

/-- LC_PREEMPT_KILL (R234). -/
def execLcPreemptKill (engine ak : Nat) (s : State) : Out := .next (s.preempt engine ak)

/-- KILL_REQUEST (R86 to R88, R235): causes 0x10 to 0x13. -/
def execKillRequest (who : Owner) (cause ak : Nat) (s : State) : Out :=
  .next (if 0x10 ≤ cause ∧ cause ≤ 0x13 then s.killOwned who cause ak else s)

/-- KILL_DONE (R155). -/
def execKillDone (who : Owner) (ak : Nat) (s : State) : Out := .next (s.killDoneOwned who ak).yieldTurns

/-- A check fault on engine `e`: a kill with cause 0x12 and code 0x0201; a shadow's run is killed (R89, R93). CONTEXT of the record is a
radio command's cell. DESIGN CHOICE, log entry 72. -/
def State.checkFault (s : State) (e : Nat) : State :=
  match (s.engine e).running with
  | some who =>
    let c := match who with
      | .context c => c
      | .radio l => tagCell (s.radioTag l)
    (((s.bump .checkFaults e).fault 0x0201 1 2 e c).killOwned who 0x12 0)
  | none =>
    match s.shadowOn e with
    | some w => ((s.bump .checkFaults e).fault 0x0201 1 2 e w.ctx).stopShadow e
    | none => s

def execEngineCheckFault (engine : Nat) (s : State) : Out := .next (s.checkFault engine)

end Sys2Proof.Machine
end

