-- ==== Sys2Proof/Machine/LoamCmd.lean ====
section
/-! DEFINITION. Spills and restores between resident owners, clearing, loam fetches, prefetch and ageing, and the writes of the
memory entries that have an effect of their own (R174 to R211). -/

namespace Sys2Proof.Machine

-- Resident owners (R184, R185) --------------------

/-- Granules of `c` that lie in its hood area and whose place in the scratchpad holds context `o`'s bytes. -/
def State.ownedBy (s : State) (c o : Nat) : List Nat :=
  let a := (s.ctx c).alloc
  let b := (s.ctx o).alloc
  a.spilled.filter fun g =>
    let abs := a.privBase / granule + g
    b.granules.contains abs && !b.spilled.contains (abs - b.privBase / granule)

/-- Spills the granules that context `o` owns and `c` takes over. -/
def State.spillFor (s : State) (e c o : Nat) : State :=
  let gs := s.ownedBy c o
  let a := (s.ctx c).alloc
  let b := (s.ctx o).alloc
  match gs, b.hood with
  | [], _ => s
  | _, none => s
  | _, some h =>
    let mine := gs.map fun g => a.privBase / granule + g - b.privBase / granule
    let s := mine.foldl (fun s j => s.copyRange (privDpa e + b.privBase + j * granule) (h + imageGranule j) granule) s
    let s := s.modAlloc o fun b => { b with spilled := b.spilled ++ mine }
    (s.bump .spills).bump .spillBytes 0 (mine.length * granule)

/-- Context `c` becomes resident owner of all its granules: the former owners' bytes are spilled, its own restored (R185). -/
def State.exchange (s : State) (c : Nat) : State :=
  let a := (s.ctx c).alloc
  match a.engine, a.hood with
  | some e, some h =>
    let s := ((s.placedOn e).filter (· ≠ c)).foldl (fun s o => s.spillFor e c o) s
    let s := a.spilled.foldl (fun s g => s.copyRange (h + imageGranule g) (privDpa e + a.privBase + g * granule) granule) s
    s.modAlloc c fun a => { a with spilled := [] }
  | _, _ => s

/-- A command that has started and not ended. -/
def Ctx.running (x : Ctx) : Bool := match x.cmd with
  | some k => decide (k.phase = .started) || decide (k.phase = .killing)
  | none => false

/-- A command accepted or to re-run (R243). -/
def Ctx.waits (x : Ctx) : Bool := match x.cmd with
  | some k => decide (k.phase = .waiting) || decide (k.phase = .rerun)
  | none => false

/-- Contexts that would be displaced by `c` are all between commands (R185). -/
def State.mayExchange (s : State) (c : Nat) : Bool :=
  match (s.ctx c).alloc.engine with
  | some e => ((s.placedOn e).filter (· ≠ c)).all fun o => decide (s.ownedBy c o = []) || !(s.ctx o).running
  | none => false

/-- SPILL_DONE of an LC context whose command waits; a turn holder that loses granules gives up its turn (R239). -/
def execSpillDone (ctx : Nat) (s : State) : Out :=
  .next (if s.isLc ctx && (s.ctx ctx).waits && s.mayExchange ctx then (s.exchange ctx).yieldTurns else s)

/-- No command of an LC context that overlaps `c` has been pending for LC_RECLAIM_US (R184, R243). -/
def State.overlapIdle (s : State) (c : Nat) : Bool :=
  match (s.ctx c).alloc.engine with
  | some e => (s.classOn e true).all fun o =>
      let x := s.ctx o
      !(x.alloc.granules.any fun g => (s.ctx c).alloc.granules.contains g) ||
        (decide (x.cmd = none) && (decide (x.quietCk = 0) || decide (x.quietCk + 825 * s.reg .lcReclaimUs ≤ s.ck)))
  | none => false

/-- BE_RECLAIM of a BE context with a command ready. -/
def execBeReclaim (ctx : Nat) (s : State) : Out :=
  .next (if !s.isLc ctx && (s.ctx ctx).waits && s.overlapIdle ctx && s.mayExchange ctx then (s.exchange ctx).yieldTurns else s)

-- Clearing (R178) --------------------

/-- The bytes of a context's new allocations are zero. -/
def State.clearAlloc (s : State) (c : Nat) : State :=
  let a := (s.ctx c).alloc
  match a.engine with
  | some e =>
    let gs := (List.range (a.privBytes / granule)).filter fun g => !a.spilled.contains g
    let s := gs.foldl (fun s g =>
      let d := privDpa e + a.privBase + g * granule
      (s.clear d granule).healRange d granule) s
    let d := sharedDpa (e / 8) + a.sharedBase
    let s := ((s.clear d a.sharedBytes).healRange d a.sharedBytes).clearStore e
    s.modAlloc c fun a => { a with clearing := false }
  | none => s

def execClearDone (ctx : Nat) (s : State) : Out :=
  .next (if (s.ctx ctx).alloc.clearing then s.clearAlloc ctx else s)

-- Fetches (R190, R195, R198, R200, R201) --------------------

/-- Fills a frame with a page of KIND 0: the listed host bytes of the page's length. -/
def State.fillHost (s : State) (frame e : Nat) : State :=
  let base := hostKey (entryPasid e) (entrySource e)
  let got := s.host.keep fun k _ => decide (base ≤ k) && decide (k < base + entryLen e)
  { s with mem := got.foldl (fun m p => m.set 0 (p.1 - base + frame * frameBytes) p.2) s.mem }

/-- Fills a frame with a page whose source lies on this package. -/
def State.fillOwn (s : State) (n frame e : Nat) : State :=
  ((s.sourceRuns n e 0 (entryLen e)).foldl (fun (q : State × Nat) r => (q.1.copyRange r.1 (frame * frameBytes + q.2) r.2, q.2 + r.2))
    (s, 0)).1

/-- Writes all 2 MiB of a frame from a page's source, bytes beyond its length as 0. A page is filled with the bytes that streaming it
gives (R196). -/
def State.fillFrame (s : State) (n frame e : Nat) : State :=
  let s := (s.clear (frame * frameBytes) frameBytes).healRange (frame * frameBytes) frameBytes
  match entryKind e with
  | 0 => s.fillHost frame e
  | 1 =>
    if entrySource e / 2 ^ 41 = s.pkg then s.fillOwn n frame e
    else s.wrRun (frame * frameBytes) ((List.range (entryLen e)).map fun i => s.sourceByte n e i)
  | _ => s.fillOwn n frame e

/-- The source of a page holds an uncorrectable word of this package. -/
def State.sourceBad (s : State) (n e : Nat) : Bool := (s.sourceRuns n e 0 (entryLen e)).any fun r => s.badIn r.1 r.2

/-- The first such word, as a DPA. -/
def State.sourceBadAt (s : State) (n e : Nat) : Nat :=
  match (s.sourceRuns n e 0 (entryLen e)).find? fun r => s.badIn r.1 r.2 with
  | some r => s.firstBad r.1 r.2
  | none => 0

/-- A command holds a byte of the source of a page (R152). -/
def State.sourceHeld (s : State) (n e : Nat) : Bool := runsHit (s.sourceRuns n e 0 (entryLen e)) (s.heldRuns none)

/-- Installs a fetched page. -/
def State.installPage (s : State) (f : Fetch) (frame : Nat) : State :=
  let s := s.fillFrame f.slice frame f.entry
  let page : LoamPage := { slice := f.slice, page := f.page, entry := f.entry, age := 0 }
  let s := { s with tier := { s.tier with
    pages := s.tier.pages.put frame page
    fetches := s.tier.fetches.filter (· ≠ f) } }
  (s.bump .fetches).sweepLoam f.slice

/-- Drops a fetch that failed. -/
def State.dropFetch (s : State) (f : Fetch) : State :=
  ({ s with tier := { s.tier with fetches := s.tier.fetches.filter (· ≠ f) } }).refillFetches false

/-- The contexts whose acquires asked for a failed fetch end (R201). -/
def State.endAcquirers (s : State) (cs : List Nat) (cause : Nat) : State := (cs.foldl (fun s c => s.teardown c 0x30 cause) s).settleAll

/-- A fetch ends without its bytes (R201, R363, R376, R462): a prefetch counts, a demand fetch ends the contexts that asked, and one
that was to bring a page back is dropped, reads of the page streaming from then on. -/
def State.fetchFailed (s : State) (f : Fetch) : State :=
  match entryKind f.entry with
  | 1 =>
    if f.demand = [] ∧ !f.again then (s.bump .prefetchFails).dropFetch f
    else (s.bump .unreachableReports).fault 0x0402 0 0 0 0xFFFF (entrySource f.entry / 2 ^ 41)
  | 0 => (((s.bump .hostErrors).bumpIf (decide (f.demand = []) && !f.again) .prefetchFails).dropFetch f).endAcquirers f.demand 0x02
  | _ =>
    if f.demand = [] ∧ !f.again then (s.bump .prefetchFails).dropFetch f
    else ((s.badRecord 0x0102 2 (s.sourceBadAt f.slice f.entry) (f.demand.headD 0xFFFF)).dropFetch f).endAcquirers f.demand 0x01

/-- FETCH_COMPLETION; it waits while a command holds a byte of the source (R152). A page of KIND 1 takes the bytes that streaming it gives,
and the operand's are not used (R196, log entry 14). -/
def execFetchCompletion (slice page : Nat) (_peer : Bytes) (result : FetchResult) (s : State) : Out :=
  match s.tier.fetches.find? fun f => f.slice = slice ∧ f.page = page ∧ f.frame ≠ none with
  | some f =>
    match result, f.frame with
    | .ok, some k =>
      if entryKind f.entry = 0 && !s.hif.access then .next s
      else if s.sourceHeld slice f.entry then .next s
      else if s.sourceBad slice f.entry then .next (s.fetchFailed f)
      else .next (s.installPage f k)
    | _, _ => .next (s.fetchFailed f)
  | none => .next s

-- Prefetch (R202, R204) --------------------

/-- Queued pages that are still absent and not on their way. -/
def State.prefetchDue (s : State) (n : Nat) : List Nat :=
  let map := (s.loamMap n).entries
  (s.tier.prefetch.get [] n).filter fun p =>
    let e := map.get 0 p
    entryLen e ≠ 0 && decide (s.pageFrame n p e = none) &&
      !(s.tier.fetches.any fun f => f.slice = n ∧ f.page = p ∧ f.entry = e)

def State.setPrefetch (s : State) (n : Nat) (ps : List Nat) : State :=
  { s with tier := { s.tier with prefetch := s.tier.prefetch.set [] n ps } }

/-- PREFETCH_START: prefetch stops while the slice is over its quota. A free frame is taken at once; a page that gives up its frame does
so at the end of the CK cycle (R200), and prefetch stops there where no frame qualifies. -/
def State.prefetchStart (s : State) (n : Nat) : State :=
  match s.prefetchDue n with
  | [] => s.setPrefetch n []
  | p :: ps =>
    if s.loamOver n then s.setPrefetch n []
    else
      let (k, s) := s.freePoolFrame n
      let f : Fetch := { slice := n, page := p, entry := (s.loamMap n).entries.get 0 p, frame := k, demand := [], again := false }
      ({ s with tier := { s.tier with fetches := s.tier.fetches ++ [f] } }).setPrefetch n ps

def execPrefetchStart (slice : Nat) (s : State) : Out := .next (s.prefetchStart slice)

-- Ageing (R197) --------------------

def execAgeTick (s : State) : Out :=
  let older (x : Nat × LoamPage) : Nat × LoamPage :=
    if s.pageCount x.2.slice x.2.page x.2.entry = 0 then (x.1, { x.2 with age := min 255 (x.2.age + 1) }) else x
  .next { s with tier := { s.tier with pages := s.tier.pages.map older } }

-- LOAM_MAP_COMMIT (R207 to R209) --------------------

/-- LOAM_MAP_STATUS (R213): 1 while a committed copy waits for the next check of a context, 2 while a command still uses the former copy. -/
def State.mapStatus (s : State) (n : Nat) : Nat :=
  if (s.loamMap n).next.isSome then 1
  else if (s.sliceCtxs n).any fun c => (s.ctx c).oldMap && (s.ctx c).cmd.isSome then 2
  else 0

/-- A switch of a slice's map is pending, or a lookup still uses the former copy. -/
def State.mapBusy (s : State) (n : Nat) : Bool := decide (s.mapStatus n ≠ 0)

/-- Entry `p` of the map in host memory. -/
def State.hostEntry (s : State) (n p : Nat) : Nat :=
  leNat (s.hostRd (s.reg .loamMapPasid n) (s.reg .loamMapIova n + 32 * p) 32)

/-- The map in host memory. -/
def State.hostMap (s : State) (n : Nat) : Tab Nat :=
  (List.range (s.reg .loamMapEntries n)).foldl (fun t p => t.set 0 p (s.hostEntry n p)) []

/-- RANGE of an entry (R192, R209): KIND 3, an unaligned SOURCE, a length above 512, or a KIND 2 source outside the region. -/
def State.entryRange (s : State) (n e : Nat) : Bool :=
  decide (entryKind e = 3) || decide (entrySource e % 4096 ≠ 0) || decide (2 ^ 21 < entryLen e) ||
    (decide (entryKind e = 2) &&
      decide (min (s.tier.regions.get [] n).length (s.reg .privQuotaFrames n) * frameBytes < entrySource e + entryLen e))

/-- Reserved fields of an entry. -/
def entryReserved (e : Nat) : Bool := decide (field e 143 128 ≠ 0) || decide (field e 63 0 ≠ 0)

/-- An entry to which a context of the slice holds a reference changes. -/
def State.refChanges (s : State) (n : Nat) (new : Tab Nat) : Bool :=
  (s.sliceCtxs n).any fun c => (s.ctx c).live && (s.ctx c).refs.any fun (p : Nat × Nat) =>
    decide (new.get 0 p.1 ≠ refEntry p.2)

/-- A taken commit: the copy waits for the next check of a context of the slice (R207, R208). -/
def State.pendMap (s : State) (n : Nat) (new : Tab Nat) : State :=
  { s with tier := { s.tier with maps := s.tier.maps.modify n fun m => { m with next := some new } } }

/-- A host read that the write needed has failed (R209). -/
def State.mapReadFailed (s : State) (n : Nat) : State := (s.bump .hostErrors).fault 0x0603 0 0 0 0xFFFF n

/-- LOAM_MAP_COMMIT. -/
def State.loamCommit (n v : Nat) (s : State) : Except Nat State :=
  let epochBad : Bool := s.mapBusy n || decide (v ≠ (s.reg .loamMapEpoch n + 1) % 2 ^ 32)
  if !s.hif.access then (if epochBad then .error 0x8013 else .error 0x8018)
  else
    let new := s.hostMap n
    let es := new.map fun (p : Nat × Nat) => p.2
    if es.any (s.entryRange n) then .error 0x8010
    else if es.any entryReserved then .error 0x8011
    else if s.refChanges n new then .error 0x8012
    else if epochBad then .error 0x8013
    else .ok (s.pendMap n new)

/-- The write by session `sess`: a failed read also counts and is reported. -/
def State.loamMapWrite (s : State) (sess n v : Nat) : State :=
  let t := s.write sess .loamMapCommit n v (State.loamCommit n (v % 2 ^ 32))
  if !s.hif.access && decide (t ≠ s) && decide (t.reg .dictLastIgnored = 0x8018) then t.mapReadFailed n else t

def execLoamMapCommit (sess slice value : Nat) (s : State) : Out := .next (s.loamMapWrite sess slice value)

-- Quotas (R199, R204 to R206, R211) --------------------

/-- LOAM_QUOTA_PAGES: reservations of sealed slices stay within the pool. -/
def State.loamQuota (n v : Nat) (s : State) : Except Nat State :=
  let others := (((List.range 64).filter fun m => m ≠ n && s.sealed m).map fun m => s.reg .loamQuotaPages m).sum
  if s.sealed n && decide (s.tier.loamFrames < others + v) then .error 0x8016
  else .ok ((s.setReg .loamQuotaPages v n).sweepLoam n)

def execLoamQuotaPages (sess slice value : Nat) (s : State) : Out :=
  .next (s.write sess .loamQuotaPages slice value (State.loamQuota slice (value % 2 ^ 32)))

/-- PRIV_QUOTA_FRAMES. -/
def State.privQuota (n v : Nat) (s : State) : Except Nat State := .ok (s.setReg .privQuotaFrames v n).settleRegions

def execPrivQuotaFrames (sess slice value : Nat) (s : State) : Out :=
  .next (s.write sess .privQuotaFrames slice value (State.privQuota slice (value % 2 ^ 32)))

/-- SP_QUOTA_BYTES. -/
def State.spQuota (n v : Nat) (s : State) : Except Nat State :=
  let s := s.setReg .spQuotaBytes v n
  if v < s.spBytes n then
    let cs := s.sliceCtxs n
    .ok (cs.foldl (fun s c => s.tryBoundary c) (s.cutAllocations cs.reverse (s.spBytes n - v)))
  else .ok s

def execSpQuotaBytes (sess slice value : Nat) (s : State) : Out :=
  .next (s.write sess .spQuotaBytes slice value (State.spQuota slice (value % 2 ^ 32)))

/-- LC_FLOOR_BYTES: an engine with a BE allocation below the new floor keeps the one in force there (R211). -/
def State.lcFloor (v : Nat) (s : State) : Except Nat State :=
  let old (e : Nat) : Nat := match s.tier.floors.get 0 e with
    | 0 => s.reg .lcFloorBytes
    | k + 1 => k
  let keep := (List.range 128).filter fun e => (s.classOn e false).any fun c => decide (0 < (s.ctx c).alloc.privBytes) && decide ((s.ctx c).alloc.privBase < v)
  let floors := keep.foldl (fun (t : Tab Nat) e => t.set 0 e (old e + 1)) []
  .ok ({ s with tier := { s.tier with floors := floors } }.setReg .lcFloorBytes v)

def execLcFloorBytes (sess value : Nat) (s : State) : Out :=
  .next (s.write sess .lcFloorBytes 0 value (State.lcFloor (value % 2 ^ 32)))

end Sys2Proof.Machine
end

