-- ==== Sys2Proof/Machine/TilthCmd.lean ====
section
/-! DEFINITION. Loading, committing, preparing and switching the tilth table (R174, R175, R211, R218 to R226), its windows (R227,
R259, R261), and the writes of CLASS and MOVE (R233, R241, R246). -/

namespace Sys2Proof.Machine

-- Loading (R214, R221, R245) --------------------

/-- TILTH_STATUS (R245): 1 while a copy is being prepared, 2 while every time base still uses the current copy, 3 afterwards. -/
def State.tilthStatus (s : State) : Nat :=
  if s.tilth.copies.length ≤ 1 then 0
  else if s.tilth.copies.any fun c => !c.ready then 1
  else if (List.range 8).all fun t => s.tilth.position.get 0 t = 0 then 2 else 3

/-- TILTH_LOAD_OFFSET. -/
def State.tilthOffset (v : Nat) (s : State) : Except Nat State :=
  if 65552 < v then .error 0x8010
  else if s.tilthStatus ≠ 0 then .error 0x8012
  else .ok (s.setReg .tilthLoadOffset v)

/-- TILTH_LOAD_DATA. -/
def State.tilthLoad (data : Bytes) (s : State) : Except Nat State :=
  let o := s.reg .tilthLoadOffset
  if 65552 < o + data.length then .error 0x8010
  else if s.tilthStatus ≠ 0 then .error 0x8012
  else .ok (({ s with tilth := { s.tilth with shadow := s.tilth.shadow.setRun 0 o data, loaded := true } }).setReg .tilthLoadOffset (o + data.length))

def execTilthLoadData (sess : Nat) (data : Bytes) (s : State) : Out :=
  .next (s.writeOctets sess .tilthLoadData 0 data (State.tilthLoad data))

-- Room for radio regions (R174, R175) --------------------

/-- Contexts with bytes where a radio region is, or is to be. -/
def State.displaced (s : State) : List Nat :=
  s.ctxs.keysWhere fun _ x => x.live && match x.alloc.engine with
    | some e => decide (2 ^ 22 - s.radioKeep e < x.alloc.privBase + x.alloc.privBytes) ||
        (decide (0 < x.alloc.sharedBytes) && decide (2 ^ 25 - s.radioKeepShared (e / 8) < x.alloc.sharedBase + x.alloc.sharedBytes))
    | none => false

/-- Every unit of a die at which a shared allocation of `k` units may begin; one entry for no shared allocation. -/
def State.sharedStarts (s : State) (die c k : Nat) : List Nat :=
  if k = 0 then [0] else (s.sharedGaps die c).flatMap fun g => (List.range (g.2 + 1 - k)).map (g.1 + ·)

/-- Where a plan puts a context: the engine, the first granule and the first shared unit. -/
structure Move where
  ctx : Nat
  engine : Nat
  granule : Nat
  unit : Nat
  deriving DecidableEq, Repr

/-- One placement of every context of a list at once, among all that R174, R176 and criterion 1 of R242 allow: the contexts in every
order, on every engine, with their shared allocations at every place. The first found is taken, engines in the order in which R242
prefers them. -/
def State.planMoves (s : State) : Nat → List Nat → Option (List Move)
  | _, [] => some []
  | 0, _ => none
  | k + 1, cs => cs.findSome? fun c =>
      (s.rankEngines c (s.ctx c).alloc.home 128 ((List.range 128).filter (s.criterion1 c))).findSome? fun e =>
        (s.sharedStarts (e / 8) c ((s.wantedSizes c).2 / sharedUnit)).findSome? fun h =>
          ((s.placeAt c e h).planMoves k (cs.filter (· ≠ c))).map fun l => ⟨c, e, (s.privSpot c e).getD 0, h⟩ :: l

/-- The plan for the displaced contexts of `s`, made on a state that holds no bytes and from which earlier plans for them are gone. -/
def State.plan (s : State) : Option (List Move) :=
  let cs := s.displaced
  let ghost := cs.foldl (fun g c => (g.modAlloc c fun a => { a with engine := none }).modWanted c fun w => { w with engine := none, spot := none })
    { s with mem := [] }
  ghost.planMoves cs.length cs

/-- Asks for the moves of a plan, each context at its own boundary and to the place the plan keeps for it (R175, R241); where there is no
plan, for removal from the engine. -/
def State.askMoves (s : State) (cs : List Nat) (plan : Option (List Move)) : State :=
  let to_ (c : Nat) : Nat × Option (Nat × Nat) :=
    match (plan.getD []).find? fun m => m.ctx = c with
    | some m => (m.engine, some (m.granule, m.unit))
    | none => (255, none)
  let s := cs.foldl (fun s c => s.modWanted c fun w => { w with engine := some (to_ c).1, spot := (to_ c).2 }) s
  cs.foldl (fun s c => (s.tryBoundary c).checkNext c) s

/-- Radio regions of engines and dies that a copy names and `was` did not (R174, R211). -/
def State.openRegions (s : State) (was : Nat → Bool) : State :=
  let p := s.reg .radioSpBytes
  let h := s.reg .radioSharedBytes
  let s := (List.range 128).foldl (fun (s : State) e =>
    if s.namedEngine e && !was e then { s with tier := { s.tier with radioSp := s.tier.radioSp.set 0 e p } } else s) s
  (List.range 16).foldl (fun (s : State) d =>
    let es := (List.range 8).map (8 * d + ·)
    if es.any s.namedEngine && !es.any was then { s with tier := { s.tier with radioShared := s.tier.radioShared.set 0 d h } } else s) s

/-- Radio regions of engines that no copy names any more are cleared (R178). -/
def State.closeRegions (s : State) : State :=
  let s := (List.range 128).foldl (fun s e =>
    let p := s.tier.radioSp.get 0 e
    if p ≠ 0 && !s.namedEngine e then
      let s := (s.clear (privDpa e + (2 ^ 22 - p)) p).clearStore e
      { s with tier := { s.tier with radioSp := s.tier.radioSp.set 0 e 0 } }
    else s) s
  (List.range 16).foldl (fun s d =>
    let h := s.tier.radioShared.get 0 d
    if h ≠ 0 && !(List.range 8).any (fun i => s.namedEngine (8 * d + i)) then
      let s := s.clear (sharedDpa d + (2 ^ 25 - h)) h
      { s with tier := { s.tier with radioShared := s.tier.radioShared.set 0 d 0 } }
    else s) s

/-- The radio region of engine `e`, and of its die, take the sizes of their entries; bytes that leave a region are cleared (R178, R211). -/
def State.resizeRegion (s : State) (e : Nat) : State :=
  let p := s.tier.radioSp.get 0 e
  let q := s.reg .radioSpBytes
  let h := s.tier.radioShared.get 0 (e / 8)
  let k := s.reg .radioSharedBytes
  let s := if q < p then (s.clear (privDpa e + (2 ^ 22 - p)) (p - q)).clearStore e else s
  let s := if k < h then s.clear (sharedDpa (e / 8) + (2 ^ 25 - h)) (h - k) else s
  { s with tier := { s.tier with
      radioSp := s.tier.radioSp.set 0 e q, radioShared := s.tier.radioShared.set 0 (e / 8) k } }

/-- Engine `e` is bound to time base `t` by the copy that `t` uses. -/
def State.boundTo (s : State) (t e : Nat) : Bool :=
  match s.tilthNow t with
  | some c => !(c.onEngine t e).isEmpty
  | none => false

/-- The radio regions of the engines chosen take their new sizes, once no tenant allocation is in the way (R211). -/
def State.resizeRegions (s : State) (mine : Nat → Bool) : State :=
  if s.displaced ≠ [] then s
  else ((List.range 128).filter fun e => s.namedEngine e && mine e).foldl (fun s e => s.resizeRegion e) s

/-- Engines that a copy names and no time base is bound to take new sizes at once (R211). -/
def State.resizeUnbound (s : State) : State := s.resizeRegions fun e => !(List.range 8).any fun t => s.boundTo t e

-- Committing (R221 to R225) --------------------

/-- The table with a copy added, the empty copy first when there was none. -/
def State.withCopy (s : State) (c : TilthCopy) : State :=
  let old := if s.tilth.copies = [] then [{ (default : TilthCopy) with ready := true }] else s.tilth.copies
  { s with tilth := { s.tilth with copies := old ++ [c] } }

/-- The copy that the shadow makes. -/
def State.newCopy (s : State) : TilthCopy :=
  let es := s.shadowEntries
  { entries := es, raw := s.tilth.shadow, binding := s.bindTable es, ready := false, acceptedCk := s.ck, rebind := false, admitMw := s.padmMw es }

/-- The first check of R223 that fails. -/
def State.tilthReason (s : State) (v : Bytes) : Option Nat :=
  let es := s.shadowEntries
  firstReason
    [(1, s.tilthFormatBad),
     (2, decide (leAt v 0 4 ≠ (s.reg .tilthEpoch + 1) % 2 ^ 32) || decide (slice v 4 64 ≠ s.shadowDigest)),
     (3, decide (1 < s.tilth.copies.length)),
     (4, tilthOverlap es),
     (5, tilthBindingBad es),
     (6, decide ((s.bindTable es).length < (tilthLogicals es).length)),
     (7, ((s.withCopy s.newCopy).openRegions s.namedEngine).plan = none),
     (8, !bandwidthOk s.build.stackMask es s.sealedStackShare s.sealedMeshShare),
     (9, decide (256 * 1000 * s.reg .powerCapW < s.padm256 es))]

/-- TILTH_COMMIT (R221 to R223). -/
def State.tilthCommit (v : Bytes) (s : State) : Except Nat State :=
  match s.tilthReason v with
  | some r => .error (0x8100 + r)
  | none =>
    let s := (s.withCopy s.newCopy).openRegions s.namedEngine
    .ok (s.askMoves s.displaced s.plan)

/-- A move that a plan asked for is not complete (R222): the context is off its engine, and its place is still kept for it. -/
def State.moving (s : State) : List Nat :=
  s.ctxs.keysWhere fun _ x => x.live && decide (x.page.state ≠ 3) && x.wanted.place.isSome

/-- TILTH_PREPARED: binding is done, and every move is complete: no tenant allocation lies in a radio region (R175, R222). -/
def execTilthPrepared (s : State) : Out :=
  let copies := s.tilth.copies.map fun c => { c with ready := true }
  let s' : State := { s with tilth := { s.tilth with copies } }
  .next (if s.displaced = [] ∧ s.moving = [] then s'.resizeUnbound else s)

-- Binding epochs (R220) --------------------

/-- The copies with every copy that one of the engines `es`, which have just left service, was bound in bound again: current ones by a
new epoch after them, the others in place. `n` counts the copies passed. -/
def State.rebindCopies (s : State) (es : List Nat) : Nat → List TilthCopy → List TilthCopy × List Nat
  | _, [] => ([], [])
  | n, c :: cs =>
    let (rest, ins) := s.rebindCopies es (n + 1) cs
    let lost := es.any c.binds
    let current := (List.range 8).any fun t => s.tilth.position.get 0 t = n && !(c.of t).isEmpty
    let c' : TilthCopy := { c with binding := s.bindTable c.entries, ready := false, acceptedCk := s.ck }
    if !lost then (c :: rest, ins)
    else if current then (c :: { c' with rebind := true } :: rest, n :: ins)
    else ({ c' with rebind := c.rebind } :: rest, ins)

/-- Binds again after the engines `es` have left service. -/
def State.rebindTilth (s : State) (es : List Nat) : State :=
  let (cs, ins) := s.rebindCopies es 0 s.tilth.copies
  let position := (List.range 8).foldl (fun (t : Tab Nat) b =>
    let p := s.tilth.position.get 0 b
    t.set 0 b (p + (ins.filter (· < p)).length)) []
  let s := ({ s with tilth := { s.tilth with copies := cs, position } }).openRegions s.namedEngine
  s.askMoves s.displaced s.plan

-- Switching (R211, R222) --------------------

/-- Drops the oldest copy once every time base that it or the next one names has switched; EPOCH increments, and the former table
is the shadow (R207). -/
def State.retireCopies (s : State) : Nat → State
  | 0 => s
  | k + 1 =>
    match s.tilth.copies with
    | a :: b :: cs =>
      if (List.range 8).all fun t => ((a.of t).isEmpty && (b.of t).isEmpty) || decide (0 < s.tilth.position.get 0 t) then
        let position := (List.range 8).foldl (fun (t : Tab Nat) i => t.set 0 i (s.tilth.position.get 0 i - 1)) []
        let shadow := if b.rebind then s.tilth.shadow else a.raw
        (({ s with tilth := { s.tilth with copies := b :: cs, position, shadow } }).bump .tilthEpoch).retireCopies k
      else s
    | _ => s

/-- A core bound to another time base than before has its X and Y memory cleared (R425). -/
def State.rebindCore (s : State) (k : Nat) : State :=
  match s.coreTb k with
  | none => s
  | some t => s.modCore k fun c => { c with
      data := if c.boundTb = 0 ∨ c.boundTb = t + 1 then c.data else []
      boundTb := t + 1 }

/-- TILTH_SWITCH of time base `t` at its frame boundary. -/
def State.tilthSwitch (s : State) (t : Nat) : State :=
  let p := s.tilthTarget t s.ck
  let s := { s with tilth := { s.tilth with position := s.tilth.position.set 0 t p } }
  let s := (s.retireCopies s.tilth.copies.length).closeRegions
  let s := (s.resizeRegions (s.boundTo t)).resizeUnbound
  let s := (List.range 96).foldl (fun s k => s.rebindCore k) s
  s.setReg .admitPower (match s.tilth.copies with
    | c :: _ => c.admitMw
    | [] => 0)

-- Windows (R215, R227, R259, R261) --------------------

/-- The entries numbered `i` of the copies that their time bases use, whose occurrence `k` is current now. -/
def State.currentEntries (s : State) (i k : Nat) : List Nat :=
  (s.tilth.copies.zipIdx).filterMap fun p =>
    match p.1.entries[i]? with
    | some e =>
      let now := s.inFrame (tilthTb e)
      match (occurrences e)[k]? with
      | some o => if s.tilth.position.get 0 (tilthTb e) = p.2 ∧ o.1 ≤ now ∧ now < o.2 then some e else none
      | none => none
    | none => none

/-- Number of an occurrence under way. -/
def windowKey (e i k : Nat) : Nat := e * 2 ^ 20 + i * 256 + k

/-- IN_WINDOW of an engine (R94). -/
def State.setInWindow (s : State) (e : Nat) (b : Bool) : State := s.setReg .meState (setBit (s.reg .meState e) 1 b) e

/-- A cell that is set to move here and has not reached its boundary (R281). -/
def State.coming (s : State) (cell : Nat) : Bool :=
  match (s.cell cell).move with
  | some (_, 1, _) => !(s.cell cell).moving
  | _ => false

/-- A KIND 1 window that ends at `stop` begins on a core (R259, R261, R281, R529): one of a cell of another die raises nothing and counts,
and one of a cell that is still to move here, or restored and waiting for lock, raises nothing yet. -/
def State.coreWindow (s : State) (core cell t stop : Nat) : State :=
  let s := s.modCore core fun c => { c with window := cell + 1, windowFrom := s.ns t, windowStop := some stop }
  if s.cellBd cell ≠ core / 48 then s.bump .windowMismatch
  else
    if s.boot.cellsWait.contains cell || s.coming cell then s
    else (s.raiseEvent core 1 cell (s.cell cell).slot).modCore core fun c =>
      { c with waitCk := if c.waitCk = none then some s.ck else c.waitCk }

/-- The occurrence is over: another part of the frame has come, or its end has passed. -/
def State.windowOver (s : State) (occurrence : Nat) (w : Window) : Bool :=
  let t := tilthTb (w.key / 2 ^ 20)
  decide ((s.ns t + 2 ^ 64 - w.stop) % 2 ^ 64 < 2 ^ 63) || match (occurrences (w.key / 2 ^ 20))[occurrence]? with
    | some o => decide (s.inFrame t < o.1) || decide (o.2 ≤ s.inFrame t)
    | none => true

/-- An occurrence ends: IN_WINDOW of the engine that it was set on, unless another is under way there (R94), the core's window (R259), and a radio command of its cell that
has not started (R227, R280). -/
def State.windowEnds (s : State) (w : Window) : State :=
  let e := w.key / 2 ^ 20
  let s := { s with tilth := { s.tilth with windows := s.tilth.windows.filter (· ≠ w) } }
  match tilthKind e with
  | 0 =>
    let s := match w.engine with
      | some g => if s.tilth.windows.any fun x => x.engine = some g then s else s.setInWindow g false
      | none => s
    s.radioLateAt (tilthUnit e) (tilthCell e)
  | 1 =>
    let same (x : Window) : Bool :=
      let y := x.key / 2 ^ 20
      decide (tilthKind y = 1) && decide (tilthUnit y = tilthUnit e) && decide (tilthCell y = tilthCell e)
    let now := s.ns (tilthTb e)
    let over_ : Nat := if since64 now w.stop < 0 then now else w.stop
    s.modCore (tilthUnit e) fun c =>
      if c.window = tilthCell e + 1 && !s.tilth.windows.any same then { c with window := 0, windowStop := some over_ } else c
  | _ => s

/-- The occurrence under way of entry `i` of a copy: where copies of two time bases have one each, one that is over. -/
def State.windowOf (s : State) (i k : Nat) : Option Window :=
  let ws := s.tilth.windows.filter fun w => w.key % 2 ^ 20 = i * 256 + k
  match ws.find? (s.windowOver k) with
  | some w => some w
  | none => ws.head?

/-- An occurrence begins. -/
def State.windowStarts (s : State) (e i k : Nat) : State :=
  let stop := match (occurrences e)[k]? with
    | some o => (s.ns (tilthTb e) + (o.2 - s.inFrame (tilthTb e))) % 2 ^ 64
    | none => 0
  let g := if tilthKind e = 0 then s.engineFor (tilthTb e) (tilthUnit e) else none
  let w : Window := { key := windowKey e i k, stop, engine := g }
  let s := { s with tilth := { s.tilth with windows := s.tilth.windows ++ [w] } }
  match tilthKind e, g with
  | 0, some g => s.setInWindow g true
  | 1, _ => s.coreWindow (tilthUnit e) (tilthCell e) (tilthTb e) stop
  | _, _ => s

/-- The occurrence of an entry under way. -/
def State.underWay (s : State) (e i k : Nat) : Option Window := s.tilth.windows.find? fun w => w.key = windowKey e i k

/-- The end of an occurrence under way has passed. -/
def State.windowPast (s : State) (w : Window) : Bool :=
  decide ((s.ns (tilthTb (w.key / 2 ^ 20)) + 2 ^ 64 - w.stop) % 2 ^ 64 < 2 ^ 63)

/-- WINDOW_START: an occurrence that is current and has not begun begins; an earlier occurrence of the entry ends where the next begins
with its end. -/
def execWindowStart (entry occurrence : Nat) (s : State) : Out :=
  let start (e : Nat) : Option State :=
    match s.underWay e entry occurrence with
    | none => some (s.windowStarts e entry occurrence)
    | some w => if s.windowPast w then some ((s.windowEnds w).windowStarts e entry occurrence) else none
  .next (((s.currentEntries entry occurrence).findSome? start).getD s)

/-- WINDOW_END of an occurrence that is over. -/
def execWindowEnd (entry occurrence : Nat) (s : State) : Out :=
  .next (match s.windowOf entry occurrence with
  | some w => if s.windowOver occurrence w then s.windowEnds w else s
  | none => s)

/-- RADIO_START; `akToStart` is how many AK cycles after the decision cycle 0 can come. -/
def execRadioStart (logical akToStart : Nat) (s : State) : Out := .next (s.radioStart logical akToStart)

-- CLASS and MOVE (R233, R246) --------------------

/-- CLASS of context `c`: at its next commit boundary. -/
def State.classWrite (c v : Nat) (s : State) : Except Nat State :=
  let allowed := match s.sliceOf c with
    | some n => decide (s.reg .lcAllowed n = 1)
    | none => false
  if v = 0 && !allowed then .error 0x8012
  else if (s.ctx c).live then .ok ((s.modWanted c fun w => { w with cls := some v }).tryBoundary c)
  else .ok (s.setReg .ctxClass v c)

def execSetClass (sess value : Nat) (s : State) : Out :=
  .next (s.write sess .ctxClass 0 value (State.classWrite (s.selected sess .ctx) (value % 256)))

/-- MOVE of context `c` to engine `e`. -/
def State.moveWrite (c e : Nat) (s : State) : Except Nat State :=
  if 127 < e then .error 0x8010
  else if !(s.ctx c).live then .error 0x8012
  else if !s.criterion1 c e then .error 0x8016
  else .ok (((s.modWanted c fun w => { w with engine := some e, spot := none }).tryBoundary c).checkNext c)

def execMove (sess value : Nat) (s : State) : Out :=
  .next (s.write sess .ctxMove 0 value (State.moveWrite (s.selected sess .ctx) (value % 256)))

end Sys2Proof.Machine
end

