-- ==== Sys2Proof/Machine/Dsp.lean ====
section
/-! DEFINITION. The DSP cores: bundles, loops, registers, the ACS group, handlers and events (R249 to R263). -/

namespace Sys2Proof.Machine

-- Memories and registers (R249, R253, R254) --------------------

/-- Key of an uncorrectable 32-bit word in a core's data memory (R458). -/
def badData (core a : Nat) : Nat := 2 ^ 62 + core * 2 ^ 19 + a / 4

/-- Key of an uncorrectable 32-bit word in a core's instruction memory. -/
def badCode (core a : Nat) : Nat := 2 ^ 63 + core * 2 ^ 19 + a / 4

/-- Key of an uncorrectable UE descriptor. -/
def badUe (i : Nat) : Nat := 2 ^ 60 + i

/-- A core's bytes from a 19-bit core address. -/
def DspCore.read (c : DspCore) (a n : Nat) : Bytes := (List.range n).map fun i => c.data.get 0 ((a + i) % 2 ^ 19)

def DspCore.write (c : DspCore) (a : Nat) (bs : Bytes) : DspCore :=
  { c with data := (bs.zipIdx).foldl (fun t p => t.set 0 ((a + p.2) % 2 ^ 19) p.1) c.data }

/-- G0 reads 0. -/
def DspCore.gReg (c : DspCore) (k : Nat) : BitVec 32 := if k = 0 then 0 else BitVec.ofNat 32 (c.g.get 0 k)

/-- G0 ignores writes. -/
def DspCore.setG (c : DspCore) (k : Nat) (v : BitVec 32) : DspCore := if k = 0 then c else { c with g := c.g.set 0 k v.toNat }

/-- The physical register that the name Vk addresses (R254). -/
def DspCore.vPhys (c : DspCore) (k : Nat) : Nat := if k < 16 then k else 16 + (k - 16 + c.rrb) % 48

/-- The 128 bytes of a physical V register. -/
def DspCore.vBytes (c : DspCore) (p : Nat) : Bytes := c.v.run 0 (p * 128) 128

/-- The 32 CI16 lanes of Vk. -/
def DspCore.lanes (c : DspCore) (k : Nat) : List (Int × Int) :=
  let bs := c.vBytes (c.vPhys k)
  (List.range 32).map fun i => (toSigned 16 (leAt bs (4 * i) 2), toSigned 16 (leAt bs (4 * i + 2) 2))

/-- Bytes of 32 lanes. -/
def laneBytes (l : List (Int × Int)) : List Nat :=
  l.flatMap fun p => (leBytes 2 (ofSigned 16 p.1) ++ leBytes 2 (ofSigned 16 p.2)).map BitVec.toNat

/-- Components of VA register `a`: two for each lane. -/
def DspCore.acc (c : DspCore) (a : Nat) : List (Int × Int) :=
  (List.range 32).map fun i => (toSigned 48 (c.va.get 0 (a * 64 + 2 * i)), toSigned 48 (c.va.get 0 (a * 64 + 2 * i + 1)))

/-- A sum or difference as it stands in 16 bits; free where it does not fit. -/
def narrow16 (x : Int) : Int := if -32768 ≤ x ∧ x ≤ 32767 then x else (Config.dspNarrow x).toInt

/-- A value as it stands in 48 bits; free where it does not fit. -/
def narrow48 (x : Int) : Int := if -(2 ^ 47) ≤ x ∧ x ≤ 2 ^ 47 - 1 then x else (Config.dspAcc x).toInt

def cmul (x y : Int × Int) : Int × Int := (x.1 * y.1 - x.2 * y.2, x.1 * y.2 + x.2 * y.1)
def conj (x : Int × Int) : Int × Int := (x.1, -x.2)

-- Latencies (R252) --------------------

/-- Applies a write whose latency has elapsed. A multiply-accumulate adds its products to what the VA register holds then, so those that
issue in consecutive cycles all accumulate (R253: VA accumulation is exact): DEDUCED, log entry 16. -/
def DspCore.land (c : DspCore) (l : Late) : DspCore :=
  match l.kind, l.words with
  | 0, w :: _ => c.setG l.reg (BitVec.ofNat 32 w)
  | 1, ws => { c with v := c.v.setRun 0 (l.reg * 128) (ws.map (BitVec.ofNat 8)) }
  | 3, ws => { c with va := Tab.setRun 0 c.va (l.reg * 64) (((Tab.run 0 c.va (l.reg * 64) 64).zip ws).map fun p =>
      ofSigned 48 (narrow48 (toSigned 48 p.1 + toSigned 48 p.2))) }
  | _, ws => { c with va := Tab.setRun 0 c.va (l.reg * 64) ws }

/-- Puts a write behind those that are readable no later. -/
def lateInsert (l : Late) : List Late → List Late
  | [] => [l]
  | x :: xs => if l.due < x.due then l :: x :: xs else x :: lateInsert l xs

/-- Every write that is readable in BK cycle `bk` lands, in the order in which they became readable, and of one cycle in issue order. -/
def DspCore.settle (c : DspCore) : DspCore :=
  let c' := ((c.late.filter fun l => l.due ≤ c.bk).foldl (fun a l => lateInsert l a) []).foldl DspCore.land c
  { c' with late := c.late.filter fun l => !decide (l.due ≤ c.bk) }

/-- A register write readable after `n` cycles. -/
def DspCore.post (c : DspCore) (n kind reg : Nat) (words : List Nat) : DspCore :=
  { c with late := c.late ++ [⟨c.bk + n, kind, reg, words⟩] }

-- Program flow (R252, R255) --------------------

/-- The bundle after the one at `pc`, the loops still open and RRB after the back-edges. -/
def nextBundle (pc : Nat) : List Loop → Nat → Nat × List Loop × Nat
  | [], rrb => (pc + 1, [], rrb)
  | l :: ls, rrb =>
    if pc + 1 ≠ l.start + l.len then (pc + 1, l :: ls, rrb)
    else if l.iter + 1 < l.total then
      (l.start, { l with iter := l.iter + 1 } :: ls, if l.s = 0 then rrb else (rrb + 47) % 48)
    else nextBundle pc ls rrb

/-- The bundle has issued: one BK cycle. -/
def DspCore.advance (c : DspCore) : DspCore :=
  let (pc, loops, rrb) := nextBundle c.pc c.loops c.rrb
  { c with pc, loops, rrb, bk := c.bk + 1 }

/-- A taken branch: two BK cycles. -/
def DspCore.jump (c : DspCore) (target : Nat) : DspCore := { c with pc := target, bk := c.bk + 2 }

/-- An operation of stage `k` executes in the present iteration (R255). -/
def DspCore.stageOn (c : DspCore) (k : Nat) : Bool :=
  match c.loops.find? fun l => l.s ≠ 0 with
  | some l => decide (k ≤ l.iter) && decide (l.iter ≤ l.n - 1 + k)
  | none => true

-- Operations (R251) --------------------

/-- Address of a slot A or B operation: X memory for slot A, Y for slot B. -/
def DspCore.slotAddr (c : DspCore) (y : Bool) (g : Nat) (off : Int) : Nat :=
  (((c.gReg g).toInt + off) % (2 ^ 18 : Int)).toNat + (if y then 2 ^ 18 else 0)

/-- Bytes that a load or store moves, its G register, offset and post-increment, and whether it loads. -/
def memSize : MemOp → Nat
  | .loadV .. | .storeV .. => 128
  | .loadG .. | .storeG .. => 4
  | .load _ _ n _ _ | .store _ _ n _ _ => n

def memAddr : MemOp → Nat × Int × Int
  | .loadV _ g o p | .storeV _ g o p | .loadG _ g o p | .storeG _ g o p | .load _ g _ o p | .store _ g _ o p => (g, o, p)

def memLoads : MemOp → Bool
  | .loadV .. | .loadG .. | .load .. => true
  | _ => false

/-- What a slot A or B operation changes; `c0` is the core as the cycle begins. -/
def DspCore.memOp (c0 c : DspCore) (y : Bool) (m : MemOp) : DspCore :=
  let (g, off, step) := memAddr m
  let a := c0.slotAddr y g off
  let c := if step = 0 then c else c.post 1 0 g [((c0.gReg g) + BitVec.ofInt 32 step).toNat]
  let got := (c0.read a (memSize m)).map BitVec.toNat
  match m with
  | .loadV v _ _ _ => c.post 3 1 (c0.vPhys v) got
  | .load v _ _ _ _ => c.post 3 1 (c0.vPhys v) got
  | .loadG d _ _ _ => c.post 3 0 d [leNat (c0.read a 4)]
  | .storeV v _ _ _ => c.write a (c0.vBytes (c0.vPhys v))
  | .store v _ n _ _ => c.write a ((c0.vBytes (c0.vPhys v)).take n)
  | .storeG r _ _ _ => c.write a (leBytes 4 (c0.gReg r).toNat)

/-- A component shifted right by `n`, or left by a negative `n`, rounded under R28 and saturated to 16 bits (R251). -/
def shift16 (n x : Int) : Int × Bool := satInt 16 (if n < 0 then x * 2 ^ (-n).toNat else rneShiftInt x n.toNat)

/-- What a slot C operation changes, and its saturated components (R253); those of `shift` count as those of a move from VA: DESIGN
CHOICE, log entry 16. -/
def DspCore.vecOp (c0 c : DspCore) (o : VecOp) : DspCore × Nat :=
  let put (n d : Nat) (l : List (Int × Int)) : DspCore := c.post n 1 (c0.vPhys d) (laneBytes l)
  let words (l : List (Int × Int)) : List Nat := l.flatMap fun p => [ofSigned 48 (narrow48 p.1), ofSigned 48 (narrow48 p.2)]
  let putAcc (a : Nat) (l : List (Int × Int)) : DspCore := c.post 4 2 a (words l)
  let addAcc (a : Nat) (l : List (Int × Int)) : DspCore := c.post 4 3 a (words l)
  let two (f : Int × Int → Int × Int → Int × Int) (a b : Nat) : List (Int × Int) :=
    ((c0.lanes a).zip (c0.lanes b)).map fun p => f p.1 p.2
  let nar (x : Int × Int) : Int × Int := (narrow16 x.1, narrow16 x.2)
  let narrowed (d : Nat) (l : List ((Int × Bool) × (Int × Bool))) : DspCore × Nat :=
    (put 2 d (l.map fun p => (p.1.1, p.2.1)), (l.map fun p => (if p.1.2 then 1 else 0) + if p.2.2 then 1 else 0).sum)
  match o with
  | .add d a b => (put 2 d (two (fun x y => nar (x.1 + y.1, x.2 + y.2)) a b), 0)
  | .sub d a b => (put 2 d (two (fun x y => nar (x.1 - y.1, x.2 - y.2)) a b), 0)
  | .mul r a b => (putAcc r (two cmul a b), 0)
  | .mulConj r a b => (putAcc r (two (fun x y => cmul x (conj y)) a b), 0)
  | .mac r a b => (addAcc r (two cmul a b), 0)
  | .macConj r a b => (addAcc r (two (fun x y => cmul x (conj y)) a b), 0)
  | .magSq r a => (putAcc r ((c0.lanes a).map fun x => (x.1 * x.1 + x.2 * x.2, 0)), 0)
  | .permute d a idx =>
    let src := c0.lanes a
    (put 2 d ((c0.lanes idx).map fun i => (src[(i.1 % 32).toNat]?).getD (0, 0)), 0)
  | .shift d a n => narrowed d ((c0.lanes a).map fun x => (shift16 n x.1, shift16 n x.2))
  | .moveAcc d r n => narrowed d ((c0.acc r).map fun x => (shift16 (n % 32 : Nat) x.1, shift16 (n % 32 : Nat) x.2))
  | .clearAcc r => (c.post 2 2 r (List.replicate 64 0), 0)

/-- What a slot D operation changes, and the target of a taken branch. -/
def DspCore.scalarOp (c0 c : DspCore) (o : ScalarOp) : DspCore × Option Nat :=
  match o with
  | .arith code d a b => (c.post 1 0 d [(Config.scalarOp code (c0.gReg a) (c0.gReg b)).toNat], none)
  | .imm d v => (c.post 1 0 d [v.toNat], none)
  | .branch t => (c, some t)
  | .branchIfZero a t => (c, if c0.gReg a = 0 then some t else none)
  | .branchIfNotZero a t => (c, if c0.gReg a = 0 then none else some t)

/-- Operations of a bundle that execute in this iteration. -/
def DspCore.live (c : DspCore) {α : Type} (x : Option (Nat × α)) : Option α :=
  match x with
  | some (k, a) => if c.stageOn k then some a else none
  | none => none

/-- The operations of slots A, B and C of one cycle on core `c`, whose registers and memories stood as in `c0` before the cycle's writes
(R250), and the components they saturated. -/
def DspCore.beside (c0 c : DspCore) (a b : Option (Nat × MemOp)) (v : Option (Nat × VecOp)) : DspCore × Nat :=
  let c := match c0.live a with
    | some m => c0.memOp c false m
    | none => c
  let c := match c0.live b with
    | some m => c0.memOp c true m
    | none => c
  match c0.live v with
  | some o => c0.vecOp c o
  | none => (c, 0)

/-- One bundle, and the components it saturated. -/
def DspCore.run (c0 : DspCore) (b : Bundle) : DspCore × Nat :=
  let (c, n) := c0.beside c0 b.a b.b b.c
  let (c, t) := match c0.live b.d with
    | some o => c0.scalarOp c o
    | none => (c, none)
  (match t with
    | some t => c.jump t
    | none => c.advance, n)

/-- Bytes of data memory that the loads of a bundle read. -/
def DspCore.loadRuns (c : DspCore) (a b : Option (Nat × MemOp)) : List (Nat × Nat) :=
  let one (y : Bool) (x : Option (Nat × MemOp)) : List (Nat × Nat) := match c.live x with
    | some m => if memLoads m then [(c.slotAddr y (memAddr m).1 (memAddr m).2.1, (memSize m))] else []
    | none => []
  one false a ++ one true b

-- Issuing (R251, R462) --------------------

/-- The core runs a handler and does not stall. -/
def DspCore.runs (c : DspCore) : Bool := c.handler.isSome && !c.syncing && !c.rewriting

/-- BK cycles for which UE.SYNC has stalled the core: four for three CK cycles (R276). -/
def State.stalledBk (s : State) (core : Nat) : Nat := if (s.core core).syncing then ceilDiv ((s.ck - (s.core core).syncCk) * 4) 3 else 0

/-- BUSY_BK (R285): the handlers that have ended and the one that runs. -/
def State.busyBk (s : State) (core : Nat) : Nat :=
  let c := s.core core
  (s.reg .busyBk core + if c.handler.isSome then c.bk + s.stalledBk core - c.entryBk else 0) % 2 ^ 64

/-- The stall of UE.SYNC ends: its BK cycles have passed. -/
def State.endSync (s : State) (core : Nat) : State :=
  let n := s.stalledBk core
  if (s.core core).syncing then s.modCore core fun c => { c with bk := c.bk + n, syncing := false } else s

/-- The core leaves its handler. -/
def State.leaveHandler (s : State) (core : Nat) : State :=
  let s := s.endSync core
  let c := s.core core
  (s.bump .busyBk core (c.bk - c.entryBk)).modCore core fun c => { c with handler := none, loops := [] }

/-- The core abandons its handler, if one runs, and the hub rewinds its queues (R462, R531). -/
def State.abandon (s : State) (core : Nat) : State :=
  (if (s.core core).handler.isSome then s.leaveHandler core else s).rewindQueues core

/-- An uncorrectable word of instruction memory stops the core until the hub has rewritten the page (R462). -/
def State.codeFault (s : State) (core : Nat) : State :=
  (((s.bump .ueTotal).fault 0x0108 4 5 core).abandon core).modCore core fun c => { c with rewriting := true }

/-- An uncorrectable word of data memory: the core abandons its handler and the word is written as 0. -/
def State.dataFault (s : State) (core a : Nat) : State :=
  let s := (((s.bump .ueTotal).fault 0x0107 4 5 core).dropBad (badData core a)).abandon core
  s.modCore core fun c => c.write (a / 4 * 4) (zeros 4)

/-- Whether the bundle at `pc` of the active page holds an uncorrectable word. -/
def State.badBundle (s : State) (core : Nat) : Bool :=
  let c := s.core core
  let a := c.active * 65536 + c.pc * 16
  (List.range 4).any fun k => s.isBad (badCode core (a + 4 * k))

/-- The first uncorrectable word of data memory in a list of runs. -/
def State.badRun (s : State) (core : Nat) (runs : List (Nat × Nat)) : Option Nat :=
  runs.findSome? fun r => ((List.range (r.2 + 4)).map (r.1 / 4 * 4 + ·)).find? fun a =>
    a % 4 = 0 && decide (a < r.1 + r.2) && s.isBad (badData core a)

/-- Issues an operation of slot D, or a bundle, on a running core. -/
def State.issue (s : State) (core : Nat) (f : State → State) : State :=
  if !(s.core core).runs then s
  else if s.badBundle core then s.codeFault core
  else f (s.modCore core DspCore.settle)

/-- BUNDLE. -/
def execBundle (core : Nat) (b : Bundle) (s : State) : Out :=
  .next (s.issue core fun s =>
    let c := s.core core
    match s.badRun core (c.loadRuns b.a b.b) with
    | some a => s.dataFault core a
    | none =>
      let (c', n) := c.run b
      (s.bump .dspSat core n).modCore core fun _ => c')

/-- A bundle whose slot D operation is a command of its own: `reads` are the bytes of data memory that it reads, `now` is what it does with
the values from before the cycle's writes, and `later` what it does once the bundle has issued; both only in an iteration that executes
its stage (R250, R251, R255). -/
def State.issueWith (s : State) (site : Issue) (reads : List (Nat × Nat)) (now later : State → State) : State :=
  let core := site.core
  let x := site.x
  s.issue core fun s =>
    let c0 := s.core core
    let on := c0.stageOn x.stage
    match s.badRun core (c0.loadRuns x.a x.b ++ if on then reads else []) with
    | some a => s.dataFault core a
    | none =>
      let s := if on then now s else s
      let (c, n) := c0.beside (s.core core) x.a x.b x.c
      let s := (s.bump .dspSat core n).modCore core fun _ => c.advance
      if on then later s else s

/-- The loops that a core has open leave no level for one more, or for a second LOOPM (R255). -/
def DspCore.loopsFull (c : DspCore) (modulo : Bool) : Bool := decide (4 ≤ c.loops.length) || (modulo && c.loops.any fun l => l.s ≠ 0)

/-- Opens a loop of `len` bundles from the next one on. -/
def DspCore.open_ (c : DspCore) (len total n stages : Nat) : DspCore :=
  { c with loops := ⟨c.pc, len, total, 0, n, stages⟩ :: c.loops, rrb := if stages = 0 then c.rrb else 0 }

/-- LOOPM (R254, R255). -/
def execLoopm (site : Issue) (n s_ ii : Nat) (s : State) : Out :=
  .next (if n = 0 ∨ 65535 < n ∨ s_ = 0 ∨ 16 < s_ ∨ ii = 0 ∨ 64 < ii ∨ (s.core site.core).loopsFull true then s
    else s.issueWith site [] id fun s => s.modCore site.core fun c => c.open_ ii (n + s_ - 1) n s_)

/-- LOOP (R255). -/
def execLoop (site : Issue) (n len : Nat) (s : State) : Out :=
  .next (if n = 0 ∨ len = 0 ∨ (s.core site.core).loopsFull false then s
    else s.issueWith site [] id fun s => s.modCore site.core fun c => c.open_ len n n 0)

-- The ACS group (R256 to R258) --------------------

/-- Parity of the low `n` bits. -/
def parity (n w : Nat) : Bool := popCount n w % 2 = 1

/-- Branch metric of the branch with the 7-bit register contents `w`, newest bit lowest: Σ (1 − 2c) × L. -/
def branchMetric (w : Nat) : List Nat → List Int → Int
  | p :: ps, l :: ls => (if parity 7 (w &&& p) then -l else l) + branchMetric w ps ls
  | _, _ => 0

/-- The larger of two wrapping 16-bit metrics by signed difference, and whether it is the second; the first on a tie. -/
def acsSelect (a b : Nat) : Nat × Bool := if 0 < toSigned 16 (b + 2 ^ 16 - a) then (b, true) else (a, false)

/-- Metric and decision of state `t` after a stage of mode K7. -/
def k7State (m : Nat → Nat) (polys : List Nat) (soft : List Int) (t : Nat) : Nat × Bool :=
  let p0 := t / 2
  let p1 := t / 2 + 32
  let cand (p : Nat) : Nat := ofSigned 16 (toSigned 16 (m p) + branchMetric (2 * p + t % 2) polys soft)
  acsSelect (cand p0) (cand p1)

/-- Branch metric of the E-UTRA constituent code (PRESUMED, log entry 18: feedback 1 + D² + D³, parity 1 + D + D³) from state `p`, whose
newest register bit is bit 0, to a state with newest bit `a`: its systematic and parity bits against their soft bits. -/
def t8Branch (p a : Nat) (l : Int × Int) : Int :=
  let r (i : Nat) : Nat := p / 2 ^ i % 2
  (if (a + r 1 + r 2) % 2 = 1 then -l.1 else l.1) + if (a + r 0 + r 2) % 2 = 1 then -l.2 else l.2

/-- Metric and decision of state `i` after a stage of mode T8: the forward recursion over its two predecessors as in mode K7, or the
backward recursion over its two successors, 2 × i and 2 × i + 1 of the eight. -/
def t8State (back : Bool) (m : Nat → Nat) (l : Int × Int) (i : Nat) : Nat × Bool :=
  let via (p a from_ : Nat) : Nat := ofSigned 16 (toSigned 16 (m from_) + t8Branch p a l)
  if back then acsSelect (via i 0 (2 * i % 8)) (via i 1 (2 * i % 8 + 1))
  else acsSelect (via (i / 2) (i % 2) (i / 2)) (via (i / 2 + 4) (i % 2) (i / 2 + 4))

/-- Soft bits that a stage consumes: one for each polynomial in K7, a systematic and a parity bit for each of the eight trellises in
T8. -/
def Acs.softLen (a : Acs) : Nat := if a.t8 then 16 else a.polys.length

/-- The new metrics and the 64 decision bits of a stage with its soft bits: in T8, those of trellis k stand at 8 × k + state. -/
def Acs.stage (a : Acs) (soft : List Nat) : List Nat × List Bool :=
  let l := soft.map (toSigned 8)
  if a.t8 then
    let r := (List.range 64).map fun i =>
      t8State a.back (fun k => a.metrics.get 0 (i / 8 * 8 + k)) (l.getD (i / 8 * 2) 0, l.getD (i / 8 * 2 + 1) 0) (i % 8)
    (r.map (·.1), r.map (·.2))
  else
    let r := (List.range 64).map (k7State (a.metrics.get 0) a.polys l)
    (r.map (·.1), r.map (·.2))

/-- 64 bits as a number, bit 0 first. -/
def bitsNat : List Bool → Nat
  | [] => 0
  | b :: bs => (if b then 1 else 0) + 2 * bitsNat bs

/-- ACS.SETUP. -/
def execAcsSetup (site : Issue) (mode : AcsMode) (polys : List Nat) (softReg decReg : Nat) (s : State) : Out :=
  .next (s.issueWith site [] (fun s => s.modCore site.core fun c => { c with acs := { c.acs with
    t8 := decide (mode ≠ .k7), back := decide (mode = .t8Back), polys, softReg, softAt := 0, decReg, decAt := 0 } }) id)

/-- A stage: the byte pointer starts again where the register holds no further stage. -/
def DspCore.acsStep (c : DspCore) : DspCore :=
  let a := c.acs
  let off := if 128 < a.softAt + a.softLen then 0 else a.softAt
  let (ms, ds) := a.stage (((slice (c.vBytes (c.vPhys a.softReg)) off a.softLen)).map BitVec.toNat)
  { c with
    v := c.v.setRun 0 (c.vPhys a.decReg * 128 + a.decAt) (leBytes 8 (bitsNat ds))
    acs := { a with metrics := Tab.setRun 0 [] 0 ms, softAt := off + a.softLen, decAt := (a.decAt + 8) % 128 } }

/-- ACS.STEP. -/
def execAcsStep (site : Issue) (s : State) : Out :=
  .next (s.issueWith site [] (fun s => s.modCore site.core DspCore.acsStep) id)

/-- ACS.LOADPM. -/
def execAcsLoadpm (site : Issue) (v : Nat) (s : State) : Out :=
  .next (s.issueWith site [] (fun s => s.modCore site.core fun c =>
    let bs := c.vBytes (c.vPhys v)
    { c with acs := { c.acs with metrics := Tab.setRun 0 [] 0 ((List.range 64).map fun i => leAt bs (2 * i) 2) } }) id)

/-- ACS.STOREPM. -/
def execAcsStorepm (site : Issue) (v : Nat) (s : State) : Out :=
  .next (s.issueWith site [] (fun s => s.modCore site.core fun c =>
    { c with v := c.v.setRun 0 (c.vPhys v * 128) ((c.acs.metrics.run 0 0 64).flatMap (leBytes 2)) }) id)

/-- The state with the largest metric by signed difference, ties to the lowest. -/
def bestState (m : Nat → Nat) : Nat → Nat
  | 0 => 0
  | k + 1 =>
    let b := bestState m k
    if 0 < toSigned 16 (m (k + 1) + 2 ^ 16 - m b) then k + 1 else b

/-- ACS.BEST: the best state goes to a G register, and trace-back starts from it. -/
def execAcsBest (site : Issue) (g : Nat) (s : State) : Out :=
  .next (s.issueWith site [] (fun s => s.modCore site.core fun c =>
    let b := bestState (c.acs.metrics.get 0) 63
    let c := c.post 1 0 g [b]
    { c with acs := { c.acs with tbState := b } }) id)

/-- One stage back from the decision word at an address of X memory; the stage's input bit goes to a G register. -/
def DspCore.traceBack (c : DspCore) (addr g : Nat) : DspCore :=
  let t := c.acs.tbState
  let d := bit (leNat (c.read (addr % 2 ^ 18) 8)) t
  let c := c.post 1 0 g [t % 2]
  { c with acs := { c.acs with tbState := t / 2 + if d then 32 else 0 } }

/-- ACS.TB, which takes slot A of its bundle (R257). -/
def execAcsTb (site : Issue) (addr g : Nat) (s : State) : Out :=
  .next (s.issueWith { site with x := { site.x with a := none } } [(addr % 2 ^ 18, 8)] (fun s => s.modCore site.core fun c => c.traceBack addr g) id)

-- Handlers (R260, R261) --------------------

/-- The highest-priority event type with a count. -/
def DspCore.due (c : DspCore) : Option Nat := [1, 2, 3, 4, 5, 6].find? fun t => c.events.get 0 t ≠ 0

/-- NS64 of a TIME80 value (R317). -/
def ofTime80 (t : Nat) : Nat := (t / 2 ^ 32 * 10 ^ 9 + t % 2 ^ 32) % 2 ^ 64

/-- A swap is pending and PROG_SWAP_AT has come (R263). -/
def State.swapDue (s : State) (core : Nat) : Bool :=
  (s.core core).pendingDigest.isSome &&
    decide (0 ≤ since64 (s.ns ((s.coreTb core).getD 0)) (ofTime80 (s.reg .progSwapAt core)))

/-- The former page becomes the inactive one (R263). -/
def State.swapProg (s : State) (core : Nat) : State :=
  match (s.core core).pendingDigest with
  | some d => (s.setOct .progDigest d core).modCore core fun c =>
      { c with active := 1 - c.active, pendingDigest := none, loaded := 0 }
  | none => s

/-- The core has no KIND 1 window now and had none at PROG_SWAP_AT: its latest window had ended by then, or began later (R263). -/
def State.swapFree (s : State) (core : Nat) : Bool :=
  let c := s.core core
  let p := ofTime80 (s.reg .progSwapAt core)
  decide (c.window = 0) && match c.windowStop with
    | none => true
    | some e => decide (0 ≤ since64 p e) || decide (since64 p c.windowFrom < 0)

/-- PROG_SWAP: at a SLOT entry that is due, or where the core had no current KIND 1 window at PROG_SWAP_AT. -/
def execProgSwap (core : Nat) (s : State) : Out :=
  let c := s.core core
  .next (if s.swapDue core && (s.swapFree core || (decide (c.due = some 2) && decide (c.handler = none))) then
    s.swapProg core else s)

/-- Late entries of a handler (R261). -/
def State.entryFaults (s : State) (core t count : Nat) : State :=
  let c := s.core core
  if t = 2 && decide (1 < count) then
    let s := s.modCell (c.evCell.get 0 t) fun x => { x with overran := true }
    (s.bump .slotOverruns).fault 0x0502 4 5 core (c.evCell.get 0 t)
  else if t = 1 then
    match c.waitCk with
    | some w => if 825 < s.ck - w then (s.bump .windowLate).fault 0x0503 0 5 core (c.evCell.get 0 t) else s
    | none => s
  else s

/-- HANDLER_ENTRY: a handler begins at bundle type − 1 of the active page. -/
def State.enterHandler (s : State) (core : Nat) : State :=
  let c := s.core core
  match c.due with
  | none => s
  | some t =>
    if c.handler.isSome || c.rewriting || !bit s.dspService core || s.power.vbbOut then s
    else
      let s := if t = 2 && s.swapDue core then s.swapProg core else s
      let n := c.events.get 0 t
      let s := s.entryFaults core t n
      s.modCore core fun c =>
        let c := { c with bk := c.bk + 4 }.settle
        let c := (((c.setG 1 (BitVec.ofNat 32 (c.evCell.get 0 t))).setG 2 (BitVec.ofNat 32 (c.evSfn.get 0 t))).setG 3
          (BitVec.ofNat 32 (c.evSlot.get 0 t))).setG 4 (BitVec.ofNat 32 n)
        { c with
          handler := some t
          pc := t - 1
          loops := []
          entryBk := c.bk
          events := c.events.set 0 t 0
          waitCk := if t = 1 then none else c.waitCk }

def execHandlerEntry (core : Nat) (s : State) : Out := .next (s.enterHandler core)

/-- HALT (R260). -/
def execHalt (site : Issue) (s : State) : Out :=
  .next (s.issueWith site [] id fun s => s.leaveHandler site.core)

-- Programs (R262, R285) --------------------

/-- PROG_LOAD_OFFSET. -/
def State.progOffset (core v : Nat) (s : State) : Except Nat State :=
  if 65536 < v then .error 0x8010
  else if (s.core core).pendingDigest.isSome then .error 0x8012
  else .ok (s.setReg .progLoadOffset v core)

/-- PROG_LOAD_DATA: into the inactive page. -/
def State.progLoad (core : Nat) (data : Bytes) (s : State) : Except Nat State :=
  let o := s.reg .progLoadOffset core
  if 65536 < o + data.length then .error 0x8010
  else if (s.core core).pendingDigest.isSome then .error 0x8012
  else
    let s := s.modCore core fun c =>
      { c with code := c.code.setRun 0 ((1 - c.active) * 65536 + o) data, loaded := if o = 0 then data.length else max c.loaded (o + data.length) }
    .ok (s.setReg .progLoadOffset (o + data.length) core)

def execProgLoadData (sess core : Nat) (data : Bytes) (s : State) : Out :=
  .next (if core < 96 then s.writeOctets sess .progLoadData core data (State.progLoad core data) else s)

/-- PROG_COMMIT (R262). -/
def State.progCommit (core : Nat) (digest : Bytes) (s : State) : Except Nat State :=
  let c := s.core core
  let own := sha512 (c.code.run 0 ((1 - c.active) * 65536) c.loaded)
  if c.pendingDigest.isSome then .error 0x8012
  else if digest ≠ own || !(pieces 64 16 (s.oct .programAllow)).contains digest then .error 0x8014
  else .ok ((s.setOct .progCommit digest core).modCore core fun c => { c with pendingDigest := some digest })

def execProgCommit (sess core : Nat) (digest : Bytes) (s : State) : Out :=
  .next (if core < 96 then s.writeOctets sess .progCommit core digest (State.progCommit core digest) else s)

/-- PROGRAM_REWRITE_DONE (R462, R531): the active page is whole again, and events are taken. -/
def execProgramRewriteDone (core : Nat) (s : State) : Out :=
  let c := s.core core
  if !c.rewriting then .next s
  else
    let lo := badCode core (c.active * 65536)
    let s := { s with tier := { s.tier with badWords := s.tier.badWords.filter fun w => !(decide (lo ≤ w) && decide (w < lo + 16384)) } }
    .next (s.modCore core fun c => { c with rewriting := false })

end Sys2Proof.Machine
end

