-- ==== Sys2Proof/Machine/Coder.lean ====
section
/-! DEFINITION. UE context descriptors (R275, R276), radio engine commands queued by cores (R279), coding and FFT jobs (R264 to
R270), and what a cell move sends (R281, R369). -/

namespace Sys2Proof.Machine

-- The radio's stacked memory (R180) --------------------

/-- DPA of byte `o` of the radio stacked-memory region: the stacks of the mask in ascending order. -/
def State.radioStackDpa (s : State) (o : Nat) : Option Nat :=
  let b := s.tier.radioStackBytes
  if b = 0 then none
  else ((bitsOf 12 s.tier.radioStackMask)[o / b]?).map fun n => s.localDpa n + o % b

/-- Bytes of the region; the bytes that an uncorrectable word covers read as 0, as R462 says of the LLRs of a soft buffer. -/
def State.radioStackRead (s : State) (o n : Nat) : Bytes :=
  (List.range n).map fun i => match s.radioStackDpa (o + i) with
    | some a => if s.badIn (a / 8 * 8) 8 then 0 else s.rd a
    | none => 0

/-- The uncorrectable words of a run of the region. -/
def State.radioStackBads (s : State) (o n : Nat) : List Nat :=
  ((List.range n).filterMap fun i => (s.radioStackDpa (o + i)).map fun a => a / 8 * 8).filter fun a => s.badIn a 8

def State.radioStackWrite (s : State) (o : Nat) (bs : Bytes) : State :=
  (bs.zipIdx).foldl (fun s p => match s.radioStackDpa (o + p.2) with
    | some a => s.wr a p.1
    | none => s) s

-- Cells (R277, R283) --------------------

def State.cellType (s : State) (c : Nat) : Nat := field (s.cellCfg c) 23 20
def State.cellBw (s : State) (c : Nat) : Nat := field (s.cellCfg c) 19 8
def State.symbolEv (s : State) (c : Nat) : Bool := bit (s.cellCfg c) 7

/-- Antennas of a cell type. -/
def antennasOf (t : Nat) : Nat :=
  match t with
  | 1 => 8
  | 2 => 32
  | 3 => 64
  | _ => 4

/-- CU of R277. -/
def cellUnits (t bw : Nat) : Nat :=
  ceilDiv ((match t with | 0 => 6 | 1 => 10 | 2 => 28 | 3 => 48 | _ => 10) * bw) 1000

/-- CU of the enabled cells of a baseband die. -/
def State.cuSum (s : State) (bd : Nat) : Nat :=
  ((s.enabledCells.filter fun c => s.cellBd c = bd).map fun c => cellUnits (s.cellType c) (s.cellBw c)).sum

/-- Whether a cell's UE range holds a descriptor. -/
def State.inUeRange (s : State) (c i : Nat) : Bool :=
  decide (s.reg .ueBase c ≤ i) && decide (i < s.reg .ueBase c + s.reg .ueCount c)

/-- A cell that has passed its move boundary as the source. -/
def State.leaving (s : State) (c : Nat) : Bool :=
  (s.cell c).moving && match (s.cell c).move with
    | some (_, 0, _) => true
    | _ => false

/-- A cell that has passed its move boundary as the destination. -/
def State.arriving (s : State) (c : Nat) : Bool :=
  (s.cell c).moving && match (s.cell c).move with
    | some (_, 1, _) => true
    | _ => false

-- UE accesses (R276, R462) --------------------

def State.postUe (s : State) (core idx addr : Nat) (write : Bool) : State :=
  let c := s.core core
  let a : UeAccess := { core, index := idx, addr, bytes := if write then some (c.read addr 64) else none }
  let s := { s with radio := { s.radio with ueQueue := s.radio.ueQueue ++ [a] } }
  s.modCore core fun c => { c with ueOpen := c.ueOpen + 1 }

/-- UE.RD. -/
def execUeRd (site : Issue) (idx addr : Nat) (s : State) : Out :=
  .next (s.issueWith site [] (fun s => s.postUe site.core idx addr false) id)

/-- UE.WR: the 64 bytes are read as it is posted. -/
def execUeWr (site : Issue) (idx addr : Nat) (s : State) : Out :=
  .next (s.issueWith site [(addr, 64)] (fun s => s.postUe site.core idx addr true) id)

/-- UE.SYNC. -/
def execUeSync (site : Issue) (s : State) : Out :=
  .next (s.issueWith site [] id fun s => s.modCore site.core fun c => { c with syncing := decide (0 < c.ueOpen), syncCk := s.ck })

/-- A core may access descriptor `i`: a cell whose CELL_CFG names its die and time base owns it. -/
def State.ueAllowed (s : State) (core i : Nat) (write : Bool) : Bool :=
  decide (i < 262144) && (List.range 256).any fun c =>
    decide (s.cellBd c = core / 48) && decide (s.coreTb core = some (s.cellTb c)) && s.inUeRange c i && !(write && s.leaving c)

def State.setUe (s : State) (i v : Nat) : State := { s with radio := { s.radio with ue := s.radio.ue.set 0 i v } }

/-- A UE access of a core is over. -/
def State.ueOver (s : State) (a : UeAccess) : State :=
  let s := { s with radio := { s.radio with ueQueue := s.radio.ueQueue.erase a } }
  let s : State := if (s.core a.core).ueOpen ≤ 1 then s.endSync a.core else s
  s.modCore a.core fun c => { c with ueOpen := c.ueOpen - 1 }

/-- The hub applies an access whole, or refuses it. -/
def State.applyUe (s : State) (a : UeAccess) : State :=
  if !s.ueAllowed a.core a.index a.bytes.isSome then (s.bump .ueRefused).ueOver a
  else match a.bytes with
    | some bs => ((s.setUe a.index (leNat bs)).dropBad (badUe a.index)).ueOver a
    | none =>
      let s := if s.isBad (badUe a.index) then
          (((s.bump .ueTotal).fault 0x0106 4 10 0 0xFFFF a.index).dropBad (badUe a.index)).setUe a.index 0 else s
      (s.modCore a.core fun c => c.write a.addr (leBytes 64 (s.radio.ue.get 0 a.index))).ueOver a

/-- UE_ACCESS_ARRIVAL of the oldest access of a core. -/
def execUeAccessArrival (core : Nat) (s : State) : Out :=
  match s.radio.ueQueue.find? fun a => a.core = core with
  | some a => .next (s.applyUe a)
  | none => .next s

-- ENGQ (R279) --------------------

/-- A descriptor of a core for a logical engine's queue (R279). -/
def State.engq (s : State) (core logical cell : Nat) (bs : Bytes) : State :=
  if !s.cellServes cell core || !s.logicalServes logical core then s.countRadioIgnored 0x0106
  else
    let q := radioQueue logical
    let full := decide (s.qFree q = 0) && s.qOn q
    let (_, s) := s.qPush q (cell + 256 * core) bs
    if full then s.countRadioIgnored 0x0105 else s.radioCheck logical

/-- ENGQ. -/
def execEngq (site : Issue) (logical cell addr : Nat) (s : State) : Out :=
  .next (s.issueWith site [(addr, 64)] (fun s => s.engq site.core logical cell ((s.core site.core).read addr 64)) id)

-- Jobs (R264) --------------------

def jobOp (w : Nat) : Nat := field w 255 248
def jobCell (w : Nat) : Nat := field w 247 240
def jobDeadline (w : Nat) : Nat := field w 239 208
def jobMaxIter (w : Nat) : Nat := field w 207 202
def jobBg (w : Nat) : Nat := field w 201 201
def jobZn (w : Nat) : Nat := field w 200 192
def jobK (w : Nat) : Nat := field w 191 176
def jobE (w : Nat) : Nat := field w 175 160
def jobRv (w : Nat) : Nat := field w 159 158
def jobQm (w : Nat) : Nat := field w 157 155
def jobCrc (w : Nat) : Nat := field w 154 152
def jobCombine (w : Nat) : Bool := bit w 151
def jobSoft (w : Nat) : Nat := field w 150 127
def jobIn (w : Nat) : Nat := field w 126 108
def jobOutAt (w : Nat) : Nat := field w 107 89
def jobTag (w : Nat) : Nat := field w 88 73

/-- Divides out a factor. -/
def stripFactor (p : Nat) : Nat → Nat → Nat
  | 0, n => n
  | k + 1, n => if n % p = 0 then stripFactor p k (n / p) else n

/-- Lengths 2^a × 3^b × 5^c from 12 to 4 096 (R248). -/
def fftLengthOk (n : Nat) : Bool :=
  decide (12 ≤ n) && decide (n ≤ 4096) && decide (stripFactor 5 12 (stripFactor 3 12 (stripFactor 2 12 n)) = 1)

/-- Reasons for which a job is ignored (R163, R264, R269). -/
def jobReason (w : Nat) : Option Nat :=
  let op := jobOp w
  let fft := op = 0x10 || op = 0x11
  let ldpc := op = 1 || op = 2
  let polar := op = 3 || op = 4
  let fftExtra := fft && decide (field w 207 192 ≠ 0 ∨ field w 175 127 ≠ 0)
  let iterExtra := op ≠ 1 && decide (jobMaxIter w ≠ 0)
  firstReason
    [(0x0201, !(fft || ldpc || polar)),
     (0x0203, decide (field w 72 0 ≠ 0) || fftExtra || iterExtra),
     (0x0204, (fft && !fftLengthOk (jobK w)) || (op = 1 && (decide (jobMaxIter w = 0) || decide (32 < jobMaxIter w)))
        || (ldpc && (decide (jobZn w < 2) || decide (384 < jobZn w)))
        || (polar && (decide (jobZn w < 5) || decide (10 < jobZn w)))
        || (!fft && (decide (jobE w = 0) || decide (5 < jobQm w) || decide (6 < jobCrc w) || decide (jobK w = 0))))]

/-- An ignored job (R264). -/
def State.ignoreJob (s : State) (reason : Nat) : State := (s.bump .coderIgnored).setReg .coderLastIgnored reason

/-- A job of a core (R264). -/
def State.submitJob (s : State) (core : Nat) (bs : Bytes) : State :=
  match jobReason (leNat bs) with
  | some r => s.ignoreJob r
  | none =>
    let q := 0x1000 + core / 48
    let full := decide (s.qFree q = 0) && s.qOn q
    let (_, s) := s.qPush q core bs
    if full then s.ignoreJob 0x0105 else s

/-- CODE. -/
def execCode (site : Issue) (addr : Nat) (s : State) : Out :=
  .next (s.issueWith site [(addr, 32)] (fun s => s.submitJob site.core ((s.core site.core).read addr 32)) id)

-- Staging and eligibility (R266, R281) --------------------

/-- Takes the jobs of a die's queue into staging, in order of arrival. -/
def State.stageLoop (s : State) (die : Nat) : Nat → State
  | 0 => s
  | k + 1 =>
    let q := 0x1000 + die
    if s.qDepth q = 0 || !s.qOn q then s
    else
      let w := s.qWord q (s.queue q).read
      let j : Job := { word := leNat w.bytes, die, core := w.tag, arrival := s.radio.jobSeq }
      let s := s.qRead q 1
      ({ s with radio := { s.radio with staged := s.radio.staged ++ [j], jobSeq := s.radio.jobSeq + 1 } }).stageLoop die k

def State.stageJobs (s : State) (die : Nat) : State := s.stageLoop die (s.qDepth (0x1000 + die))

/-- Bytes of the soft buffer of an LDPC job: the circular buffer of its base graph. -/
def softBytes (w : Nat) : Nat := ldpcN (jobBg w) (jobZn w)

/-- 4 KiB units of a job's soft buffer. -/
def softUnits (w : Nat) : List Nat := (List.range (ceilDiv (softBytes w) 4096)).map (jobSoft w + ·)

/-- A job's input and soft buffer are staged. -/
def State.eligible (s : State) (j : Job) : Bool :=
  !(jobOp j.word = 1 && jobCombine j.word && s.arriving (jobCell j.word)) ||
    (softUnits j.word).all fun u => (s.cell (jobCell j.word)).softs.contains u

/-- Worst-case time T in BK cycles (R267). -/
def worstBk (w : Nat) : Nat :=
  let z := jobZn w
  match jobOp w with
  | 1 => 64 + jobMaxIter w * ldpcLayers (jobBg w) z (jobE w) * ceilDiv z 24
  | 2 => 32 + ceilDiv (jobK w + jobE w) 512
  | 3 => 64 + 2 ^ z + 2 ^ z * z / 16
  | 4 => 16 + 2 ^ z / 32
  | _ => 48 + 2 * ceilDiv (jobK w) 8

/-- ns from now to a job's deadline, by signed difference. -/
def State.slack (s : State) (w : Nat) : Int := -(since32 (s.ns (s.cellTb (jobCell w))) (jobDeadline w))

/-- Engine slots of a die that serve an OP: first and count (R248). -/
def coderSlots (op : Nat) : Nat × Nat :=
  match op with
  | 1 => (0, 4)
  | 2 => (4, 2)
  | 3 => (6, 2)
  | 4 => (8, 1)
  | _ => (9, 16)

/-- The eligible job of a kind that is taken next: earliest deadline, then earliest arrival. -/
def State.nextJob (s : State) (die op : Nat) : Option Job :=
  let js := s.radio.staged.filter fun j => j.die = die ∧ coderSlots (jobOp j.word) = coderSlots op ∧ s.eligible j
  js.foldl (fun b j => match b with
    | none => some j
    | some x => if since32 (jobDeadline j.word) (jobDeadline x.word) < 0 then some j else some x) none

-- Results (R265) --------------------

/-- Bytes of input of a job; an encoder attaches the CRC itself. -/
def jobInBytes (w : Nat) : Nat :=
  match jobOp w with
  | 1 | 3 => jobE w
  | 2 | 4 => ceilDiv (jobK w - crcLen (jobCrc w)) 8
  | _ => 4 * jobK w

/-- The 16-byte result. -/
def State.jobResult (s : State) (w status iter exp : Nat) : Nat :=
  jobTag w * 2 ^ 112 + status * 2 ^ 104 + iter * 2 ^ 96 + exp * 2 ^ 88 + jobOp w * 2 ^ 80 + jobCell w * 2 ^ 72
    + s.ns (s.cellTb (jobCell w)) % 2 ^ 32 * 2 ^ 40

/-- Ends a job: its result word, CODER_DONE and the counters (R265, R266, R273). -/
def State.endJob (s : State) (j : Job) (status iter exp : Nat) : State :=
  let w := j.word
  let c := jobCell w
  let (_, s) := s.qPush (0x1100 + j.core) 0 (leBytes 16 (s.jobResult w status iter exp))
  let s := s.raiseEvent j.core 5 c (s.cell c).slot
  let s := (s.bump .coderJobs).bumpIf (status = 2) .coderLate
  if jobOp w = 1 then s.modCell c fun x =>
    { x with cbFail := x.cbFail + (if status = 1 then 1 else 0), cbLate := x.cbLate + if status = 2 then 1 else 0 }
  else s

def State.unstage (s : State) (j : Job) : State :=
  { s with radio := { s.radio with staged := s.radio.staged.filter (· ≠ j) } }

/-- What a job's operation gives (R264 to R270), an LDPC decode by the base-graph set `set`. -/
def jobOut (w : Nat) (set input soft : Bytes) : JobOut :=
  let n := jobZn w
  let k := jobK w
  let e := jobE w
  match jobOp w with
  | 1 => ldpcDecode set (jobBg w) n k e (jobRv w) (jobQm w) (jobCrc w) (jobMaxIter w) input soft
  | 2 => { (default : JobOut) with out := ldpcEncode (jobBg w) n k e (jobRv w) (jobQm w) (jobCrc w) input }
  | 3 => polarDecode n k e (jobCrc w) input
  | 4 => { (default : JobOut) with out := polarEncode n k e (jobCrc w) input }
  | 0x10 => fftRun false k input
  | _ => fftRun true k input

/-- A job on its engine from CK cycle `ck` on. -/
def runJob (j : Job) (set input soft : Bytes) (ck : Nat) : Running :=
  let o := jobOut j.word set input soft
  { job := j, status := if o.fails then 1 else 0, iter := o.iter, exp := o.exp, out := o.out, soft := o.soft, startCk := ck }

/-- A set waiting for a code block becomes current (R268). -/
def State.ldpcSwitch (s : State) : State :=
  if s.radio.ldpcWait then
    ({ s with radio := { s.radio with ldpcSet := s.radio.ldpcShadow, ldpcShadow := s.radio.ldpcSet, ldpcWait := false } }).bump .ldpcSetEpoch
  else s

/-- An engine of a die takes the next job of its kind, when that is one of OP `op`. -/
def State.takeJob (s : State) (die op : Nat) : State :=
  let s := s.stageJobs die
  match s.nextJob die op with
  | none => s
  | some j =>
    let w := j.word
    let (lo, n) := coderSlots op
    if jobOp w ≠ op then s
    else match ((List.range n).map fun i => die * 32 + lo + i).find? fun k => s.radio.running.get none k = none with
      | none => s
      | some k =>
        if s.slack w * 11 < (worstBk w : Int) * 10 then (s.unstage j).endJob j 2 0 0
        else match s.badRun j.core [(jobIn w, jobInBytes w)] with
          | some a => s.dataFault j.core a
          | none =>
            let s := if op = 1 then s.ldpcSwitch else s
            let combine := op = 1 && jobCombine w
            let o := jobSoft w * 4096
            let s := match (if combine then s.radioStackBads o (softBytes w) else []) with
              | a :: _ => s.badRecord 0x0105 4 a
              | [] => s
            let soft := if combine then s.radioStackRead o (softBytes w) else []
            let r := runJob j s.radio.ldpcSet ((s.core j.core).read (jobIn w) (jobInBytes w)) soft s.ck
            let s := s.unstage j
            { s with radio := { s.radio with running := s.radio.running.set none k (some r) } }

def execLdpcDecode (die : Nat) (s : State) : Out := .next (if die < 2 then s.takeJob die 1 else s)
def execLdpcEncode (die : Nat) (s : State) : Out := .next (if die < 2 then s.takeJob die 2 else s)
def execPolarDecode (die : Nat) (s : State) : Out := .next (if die < 2 then s.takeJob die 3 else s)
def execPolarEncode (die : Nat) (s : State) : Out := .next (if die < 2 then s.takeJob die 4 else s)
def execFft (die : Nat) (s : State) : Out := .next (if die < 2 then s.takeJob die 0x10 else s)
def execInverseFft (die : Nat) (s : State) : Out := .next (if die < 2 then s.takeJob die 0x11 else s)

/-- JOB_DEADLINE_PASSED of the job at a place in a die's staging that waits for its soft buffer. -/
def execJobDeadlinePassed (die slot : Nat) (s : State) : Out :=
  let s := if die < 2 then s.stageJobs die else s
  match (s.radio.staged.filter fun j => j.die = die)[slot]? with
  | some j => .next (if !s.eligible j && decide (s.slack j.word < 0) then (s.unstage j).endJob j 2 0 0 else s)
  | none => .next s

-- Cell moves: what the source sends (R281, R369) --------------------

/-- The DPA field of CELL_DATA. -/
def cellDpa (cell part off : Nat) : Nat := cell % 256 * 2 ^ 33 + part * 2 ^ 30 + off % 2 ^ 30

/-- Offset of a cell's state block in the radio region. -/
def stateBlock (cell : Nat) : Nat := cell * 65536

/-- First 4 KiB unit of a cell's soft buffers: the lowest HARQ_BASE of its descriptors in use. -/
def State.softBase (s : State) (cell : Nat) : Nat :=
  ((minOf (((List.range (s.reg .ueCount cell)).map fun i => s.radio.ue.get 0 (s.reg .ueBase cell + i)).filterMap fun d =>
    if bit d 0 then some (field d 39 16) else none))).getD 0

/-- Sends bytes of a part in CELL_DATA packets of up to 1 024 B. -/
def State.sendPart (s : State) (cell peer part off : Nat) (bs : Bytes) : State :=
  ((pieces 1024 (bs.length + 1) bs).zipIdx).foldl (fun s p =>
    s.request (.cell cell) peer 0 pkCellData (cellDpa cell part (off + 1024 * p.2)) p.1.length p.1 0) s

/-- Sends the 4 KiB unit `u` of a cell's soft buffers. -/
def State.sendSoft (s : State) (cell peer u : Nat) : State :=
  s.sendPart cell peer 3 ((u - s.softBase cell) * 4096) (s.radioStackRead (u * 4096) 4096)

/-- Bytes of g(n + 1) and g(n + 2), antenna by antenna. -/
def State.gainState (s : State) (cell : Nat) : Bytes :=
  (List.range (antennasOf (s.cellType cell))).flatMap fun a =>
    let x := (s.cell cell).antennas.at a
    [BitVec.ofNat 8 x.gNow, BitVec.ofNat 8 x.gNext]

/-- Units of a cell that a job not yet ended writes. -/
def State.softBusy (s : State) (cell : Nat) : List Nat :=
  let js := s.radio.staged ++ s.radio.running.filterMap fun p => p.2.map fun (r : Running) => r.job
  (js.filter fun j => jobOp j.word = 1 ∧ jobCell j.word = cell).flatMap fun j => softUnits j.word

/-- What the source sends at the move boundary. -/
def State.sendCellState (s : State) (cell peer : Nat) : State :=
  let ue := (List.range (s.reg .ueCount cell)).flatMap fun i => leBytes 64 (s.radio.ue.get 0 (s.reg .ueBase cell + i))
  let s := s.sendPart cell peer 0 0 ue
  let s := s.sendPart cell peer 1 0 (s.radioStackRead (stateBlock cell) 65536)
  let s := s.sendPart cell peer 2 0 (s.gainState cell)
  let late := s.softBusy cell
  ((s.cell cell).softs.filter fun u => !late.contains u).foldl (fun s u => s.sendSoft cell peer u) s

/-- Bytes of descriptors, state block and gain state that a destination waits for. -/
def State.moveBytes (s : State) (cell : Nat) : Nat := 64 * s.reg .ueCount cell + 65536 + 2 * antennasOf (s.cellType cell)

/-- CODER_JOB_END: the output and the result, and at a source the soft buffer after its last decode. -/
def State.finishJob (s : State) (k : Nat) (r : Running) : State :=
  let w := r.job.word
  let c := jobCell w
  let s := s.modCore r.job.core fun x => x.write (jobOutAt w) r.out
  let s := { s with radio := { s.radio with running := s.radio.running.set none k none } }
  let s := if jobOp w = 1 then
      let s := s.radioStackWrite (jobSoft w * 4096) r.soft
      let us := softUnits w
      let s := s.modCell c fun x => { x with softs := us ++ x.softs.filter fun u => !us.contains u }
      match (s.cell c).move, s.leaving c with
      | some (peer, _, _), true => (us.filter fun u => !(s.softBusy c).contains u).foldl (fun s u => s.sendSoft c peer u) s
      | _, _ => s
    else s
  s.endJob r.job r.status r.iter r.exp

def execCoderJobEnd (die slot : Nat) (s : State) : Out :=
  match s.radio.running.get none (die * 32 + slot) with
  | some r => .next (if slot < 32 then s.finishJob (die * 32 + slot) r else s)
  | none => .next s

/-- Clears a cell's UE range and its areas in the radio region (R281, R425, R465). -/
def State.clearCell (s : State) (cell : Nat) : State :=
  let lo := s.reg .ueBase cell
  let n := s.reg .ueCount cell
  let s := { s with radio := { s.radio with ue := s.radio.ue.keep fun k _ => !(decide (lo ≤ k) && decide (k < lo + n)) } }
  let s := s.radioStackWrite (stateBlock cell) (zeros 65536)
  let s := (s.cell cell).softs.foldl (fun s u => s.radioStackWrite (u * 4096) (zeros 4096)) s
  s.modCell cell fun x => { x with softs := [] }

/-- CU_BD0 and CU_BD1 (R284). -/
def State.refreshCu (s : State) : State := (s.setReg .cuBd0 (s.cuSum 0)).setReg .cuBd1 (s.cuSum 1)

/-- A cell is enabled: both gains are GAIN_INIT (R272). -/
def State.enableCell (s : State) (cell : Nat) : State :=
  let g := s.reg .gainInit
  let a : Antenna := { (default : Antenna) with known := true, gNow := g, gNext := g }
  (s.modCell cell fun x => { x with
    enabled := true, want := none, begun := false
    antennas := (List.range (antennasOf (s.cellType cell))).foldl (fun t i => t.put i a) [] }).refreshCu

/-- A cell is disabled. -/
def State.disableCell (s : State) (cell : Nat) : State :=
  (s.modCell cell fun x => { x with enabled := false, want := none, begun := false }).refreshCu

/-- MOVE_TAIL_END: the source disables the cell and clears its areas; at the destination the move is over. -/
def execMoveTailEnd (cell : Nat) (s : State) : Out :=
  let x := s.cell cell
  if !x.moving || s.ck < x.moveCk + s.reg .moveTailUs * 825 then .next s
  else
    let over_ (s : State) : State := s.modCell cell fun x => { x with move := none, moving := false, landed := 0 }
    if s.leaving cell then
      let s := s.setReg .cellCfg (setBit (s.cellCfg cell) 31 false) cell
      .next ((over_ (s.clearCell cell)).disableCell cell)
    else .next (over_ s)

end Sys2Proof.Machine
end

