-- ==== Sys2Proof/Machine/Image.lean ====
section
/-! DEFINITION. Contexts created from hood images (R187 to R189, R368, R399). -/

namespace Sys2Proof.Machine

-- Fields of a hood image (R187, R188).
def imgFlags (img : Bytes) : Nat := leAt img 0x006 2
def imgClass (img : Bytes) : Nat := leAt img 0x008 4
def imgContext (img : Bytes) : Nat := leAt img 0x00E 2
def imgPriv (img : Bytes) : Nat := leAt img 0x06C 4
def imgShared (img : Bytes) : Nat := leAt img 0x070 4
def imgBytes (img : Bytes) : Nat := 0x3000 + imgPriv img + imgShared img

/-- Magic, format and digest of a hood image hold. -/
def imageOk (img : Bytes) : Bool :=
  decide (leAt img 0 4 = 0x5A484431) && decide (leAt img 4 2 = 1) && decide (img.length = imgBytes img)
    && decide (imgPriv img % granule = 0) && decide (imgShared img % sharedUnit = 0)
    && decide (imgPriv img ≤ 2 ^ 22) && decide (imgShared img ≤ 2 ^ 25)
    && decide (slice img 0x80 64 = sha512 (img.take 0x80 ++ zeros 64 ++ img.drop 0xC0))

/-- Pages of a reference set. -/
def imgRefs (img : Bytes) : List Nat :=
  let bs := slice img 0x1000 8192
  (bs.zipIdx).flatMap fun b => (List.range 8).filterMap fun i => if b.1.toNat.testBit i then some (8 * b.2 + i) else none

/-- Queue registers of an image, in STATE 2. -/
def imgPage (img : Bytes) : Page :=
  { (default : Page) with
    ringCfg := leAt img 0x48 4, cmdBase := leAt img 0x38 8, cplBase := leAt img 0x40 8
    head := BitVec.ofNat 32 (leAt img 0x4C 4), tail := BitVec.ofNat 32 (leAt img 0x50 4)
    cplHead := BitVec.ofNat 32 (leAt img 0x54 4), cplIndex := BitVec.ofNat 32 (leAt img 0x58 4)
    ignored := BitVec.ofNat 32 (leAt img 0x5C 4), lastIgnored := leAt img 0x60 4
    lastIgnoredSeq := BitVec.ofNat 32 (leAt img 0x64 4), state := 2 }

/-- Creates context `c` of slice `n` from an image: its bytes go to a hood area, and from there to the engine that R242 gives, if one
does. None when no hood area can be had. -/
def State.restoreCtx (s : State) (n c : Nat) (img : Bytes) (job : Nat) (pasid : Option Nat) : Option State :=
  let s := s.setCtx c { (default : Ctx) with
    live := true, restored := true, page := imgPage img, nextAt := s.ck
    step := leAt img 0x10 8, seed := leAt img 0x18 16
    deficit := -(toSigned 64 (leAt img 0x30 8))
    alloc := { (default : Alloc) with privBytes := imgPriv img, sharedBytes := imgShared img } }
  let s := (s.setReg .ctxClass (if bit (imgFlags img) 1 then 0 else 1) c).setReg .ctxJobId job c
  let s := match pasid with
    | some p => s.setReg .ctxPasid p c
    | none => s
  let k := hoodFrames (imgPriv img) (imgShared img)
  let e := s.chooseEngine c none
  let die := match e with
    | some e => some (e / 8)
    | none => (List.range 16).find? fun d => s.hoodFits d k
  match die with
  | none => none
  | some d =>
    match s.settleHood c d k with
    | none => none
    | some s =>
      let s := s.modAlloc c fun a => { a with hoodDie := d + 1 }
      let s := match (s.ctx c).alloc.hood with
        | some h => s.wrRun h img
        | none => s
      let s := match e with
        | some e => if s.quotaFits c then s.placeOn c e else s
        | none => s
      let ps := imgRefs img
      let s := s.acquirePages c n ps
      some ((s.absentPages c n ps).foldl (fun s p => s.demandFetch n p ((s.mapOf c).get 0 p) [c] false) s)

/-- Cuts a run of images laid end to end, each padded to 4 KiB. -/
def cutImages : Nat → Bytes → List Bytes
  | 0, _ => []
  | k + 1, bs => bs.take (imgBytes bs) :: cutImages k (bs.drop (alignUp 4096 (imgBytes bs)))

end Sys2Proof.Machine
end

