-- ==== Sys2Proof/Machine/Channel.lean ====
section
/-! DEFINITION. The radio host channels (R393 to R395, R404), reads of queues by units, cores and the host (R271, R292, R297), and
XFER (R280, R297, R393). -/

namespace Sys2Proof.Machine

-- Channels (R393, R404) --------------------

def State.rhcOn (s : State) (n : Nat) : Bool := bit (s.reg .rhcCfg n) 31
def State.rhcVector (s : State) (n : Nat) : Nat := field (s.reg .rhcCfg n) 26 16
def State.rhcUpLog2 (s : State) (n : Nat) : Nat := field (s.reg .rhcCfg n) 15 12
def State.rhcDownLog2 (s : State) (n : Nat) : Nat := field (s.reg .rhcCfg n) 11 8
def State.rhcDataLog2 (s : State) (n : Nat) : Nat := field (s.reg .rhcCfg n) 7 3

def State.channel (s : State) (n : Nat) : Channel := s.hif.channels.at n
def State.modChannel (s : State) (n : Nat) (f : Channel → Channel) : State :=
  { s with hif := { s.hif with channels := s.hif.channels.modify n f } }

/-- PHASE of ring index `i` (R133). -/
def phaseOf (log2 : Nat) (i : W32) : Nat := 1 - i.toNat / 2 ^ log2 % 2

/-- Writes bytes into a byte ring of host memory. -/
def State.ringWrite (s : State) (pasid base log2 at_ : Nat) (bs : Bytes) : State :=
  (bs.zipIdx).foldl (fun s p => s.hostWr pasid (base + (at_ + p.2) % 2 ^ log2) [p.1]) s

/-- Up record and payload (R394): written only when both have room, else dropped and counted. -/
def State.upRecord (s : State) (n type source cell inline : Nat) (payload : Bytes) : State :=
  let c := s.channel n
  let pasid := s.reg .rhcPasid n
  let start := if payload = [] then c.dataIndex else BitVec.ofNat 32 (alignUp 64 c.dataIndex.toNat)
  let stop := start + BitVec.ofNat 32 payload.length
  let room := decide ((c.upIndex - c.upConsumed).toNat < 2 ^ s.rhcUpLog2 n) &&
    decide ((stop - c.dataConsumed).toNat ≤ 2 ^ s.rhcDataLog2 n)
  if !s.rhcOn n || !s.hif.access || decide (2 ^ 20 ≤ pasid) || !room then s.bump .rhcDropped n
  else
    let x := s.cell cell
    let w := inline * 2 ^ 256 + start.toNat * 2 ^ 224 + payload.length * 2 ^ 192 + source % 2 ^ 16 * 2 ^ 176 + cell % 256 * 2 ^ 168
      + x.sfn % 1024 * 2 ^ 158 + x.slot % 128 * 2 ^ 151 + type * 2 + phaseOf (s.rhcUpLog2 n) c.upIndex
    let s := s.ringWrite pasid (s.reg .upDataBase n) (s.rhcDataLog2 n) start.toNat payload
    let s := s.hostWr pasid (s.reg .upRingBase n + c.upIndex.toNat % 2 ^ s.rhcUpLog2 n * 64) (leBytes 64 w)
    (s.modChannel n fun c => { c with upIndex := c.upIndex + 1, dataIndex := stop }).raiseVector (s.rhcVector n)

-- The down ring (R393, R395) --------------------

/-- Counts an ignored doorbell or descriptor. -/
def State.ignoreRhc (s : State) (n reason : Nat) : State :=
  s.modChannel n fun c => { c with ignored := c.ignored + 1, lastIgnored := reason }

/-- DOWN_DOORBELL with value `t` (R131, R393). -/
def State.downDoorbell (s : State) (n : Nat) (t : W32) : State :=
  let c := s.channel n
  let cap := 2 ^ s.rhcDownLog2 n
  if !s.rhcOn n then s.ignoreRhc n 0x0101
  else if (t - c.downTail).toInt < 0 then s.ignoreRhc n 0x0102
  else if cap < (t - c.downTail).toNat ∨ cap < (t - c.downHead).toNat then s.ignoreRhc n 0x0103
  else s.modChannel n fun c => { c with downTail := t }

/-- DOWN_DOORBELL, with what the host wrote before it to its memory and to UP_CONSUMED and DATA_CONSUMED. -/
def execDownDoorbell (channel : Nat) (tail : W32) (consumed : Option (W32 × W32)) (writes : List HostWrite) (s : State) : Out :=
  let s := s.hostPut writes
  if !s.hif.access || decide (8 ≤ channel) then .next s
  else
    let s := match consumed with
      | some (u, d) => s.modChannel channel fun c => { c with upConsumed := u, dataConsumed := d }
      | none => s
    .next (s.downDoorbell channel tail)

/-- The reason for which a down descriptor is ignored. -/
def State.downReason (s : State) (n w : Nat) : Option Nat :=
  let len := field w 447 416
  let cell := field w 383 376
  let core := field w 375 368
  let dest := field w 415 384 * 4096
  firstReason
    [(0x0B01, decide (field w 351 0 ≠ 0) || decide (len = 0) || decide (1048576 < len)),
     (0x0B02, !(s.cell cell).enabled || decide (s.cellTb cell ≠ n) || decide (95 < core) || decide (core / 48 ≠ s.cellBd cell)),
     (0x0B03, decide (popCount 12 s.tier.radioStackMask * s.tier.radioStackBytes < dest + len))]

/-- DOWN_DESCRIPTOR: the next descriptor of a channel (R395). -/
def State.downDescriptor (s : State) (n : Nat) : State :=
  let c := s.channel n
  let pasid := s.reg .rhcPasid n
  if !s.rhcOn n || !s.hif.access || decide (2 ^ 20 ≤ pasid) || decide (c.downHead = c.downTail) then s
  else
    let w := leNat (s.hostRd pasid (s.reg .downRingBase n + c.downHead.toNat % 2 ^ s.rhcDownLog2 n * 64) 64)
    let s := s.modChannel n fun c => { c with downHead := c.downHead + 1 }
    match s.downReason n w with
    | some r => s.ignoreRhc n r
    | none =>
      let cell := field w 383 376
      let core := field w 375 368
      let s := s.radioStackWrite (field w 415 384 * 4096) (s.hostRd pasid (field w 511 448) (field w 447 416))
      let r := field w 367 352 * 2 ^ 112 + 0x20 * 2 ^ 80 + cell * 2 ^ 72 + s.ns (s.cellTb cell) % 2 ^ 32 * 2 ^ 40
      let (_, s) := s.qPush (0x1100 + core) 0 (leBytes 16 r)
      s.raiseEvent core 5 cell (s.cell cell).slot

def execDownDescriptor (channel : Nat) (s : State) : Out := .next (if channel < 8 then s.downDescriptor channel else s)

/-- RHC_CFG (R404): setting ENABLE sets every index to 0. -/
def State.rhcCfg (n v : Nat) (s : State) : Except Nat State :=
  let old := s.reg .rhcCfg n
  let on := bit v 31
  let vec := field v 26 16
  let sizes := decide (6 ≤ field v 15 12) && decide (6 ≤ field v 11 8) && decide (16 ≤ field v 7 3) && decide (field v 7 3 ≤ 30)
    && decide (field v 15 12 ≤ 15)
  let taken := (List.range 64).any fun k => s.vecGranted k vec
  if on && !bit old 31 && !sizes then .error 0x8010
  else if field v 30 27 ≠ 0 ∨ field v 2 0 ≠ 0 then .error 0x8011
  else if bit old 31 && decide (field v 30 0 ≠ field old 30 0) then .error 0x8012
  else if on && !bit old 31 && taken then .error 0x8015
  else
    let s := s.setReg .rhcCfg v n
    .ok (if on && !bit old 31 then s.modChannel n fun c =>
      { (default : Channel) with ignored := c.ignored, lastIgnored := c.lastIgnored } else s)

def execRhcCfg (sess channel : Nat) (value : W32) (s : State) : Out :=
  .next (if channel < 8 then s.write sess .rhcCfg channel value.toNat (State.rhcCfg channel value.toNat) else s)

-- Routes of fronthaul items --------------------

/-- Route of an item: 1 radio with its cell and antenna, 2 for its consumer, 3 service with its slice. -/
def routeRadio (cell ant : Nat) : Nat := 2 ^ 20 + cell * 64 + ant
def routeOther (cell ant : Nat) : Nat := 2 * 2 ^ 20 + cell * 64 + ant
def routeService (slice : Nat) : Nat := 3 * 2 ^ 20 + slice
def routeKind (t : Nat) : Nat := t / 2 ^ 20
def routeCell (t : Nat) : Nat := t % 2 ^ 20 / 64 % 256
def routeAntenna (t : Nat) : Nat := t % 64

-- Uplink samples (R271, R272, R292) --------------------

/-- Method and width of a section: its own header, or the cell's when STATIC_COMP is set; none where they disagree. -/
def sectionComp (static_ : Bool) (comp : Nat) (x : Section) : Option (Nat × Nat) :=
  match static_, x.compHdr with
  | true, none => some (field comp 7 4, field comp 3 0)
  | false, some p => some p
  | _, _ => none

/-- udIqWidth, of which 0 means 16. -/
def iqWidth (w : Nat) : Nat := if w = 0 then 16 else w

/-- A decompressed component: the mantissa shifted left by the exponent, saturated to 16 bits. -/
def decompress (method width exp : Nat) (m : Int) : Int :=
  (satInt 16 (toSigned (iqWidth width) (ofSigned (iqWidth width) m) * 2 ^ (if method = 1 then exp % 16 else 0))).1

/-- Components I, Q, I, Q … of a section. -/
def sectionSamples (method width : Nat) (x : Section) : List Int :=
  x.prbs.flatMap fun p => p.2.map (decompress method width p.1)

/-- Mantissas and exponents with which the gain 0.75 g − 12 dB is within 0.005 dB: the value is the mantissa times 2^−e; the least
mantissa, the greatest, and e, for g from 0 to 63. -/
def gainTab0 : List (Nat × Nat × Nat) := 
  [(32905, 32942, 17), (35873, 35913, 17), (39108, 39152, 17), (42635, 42683, 17),
   (46480, 46532, 17), (50672, 50729, 17), (55241, 55304, 17), (60223, 60292, 17),
   (32827, 32864, 16), (35788, 35828, 16), (39015, 39059, 16), (42534, 42582, 16),
   (46370, 46422, 16), (50552, 50609, 16), (55110, 55173, 16), (60081, 60149, 16)]
def gainTab1 : List (Nat × Nat × Nat) := 
  [(32750, 32786, 15), (35703, 35743, 15), (38923, 38967, 15), (42433, 42481, 15),
   (46260, 46312, 15), (50432, 50489, 15), (54980, 55042, 15), (59938, 60006, 15),
   (65344, 65418, 15), (35619, 35659, 14), (38831, 38874, 14), (42333, 42380, 14),
   (46150, 46202, 14), (50312, 50369, 14), (54850, 54912, 14), (59796, 59864, 14)]
def gainTab2 : List (Nat × Nat × Nat) := 
  [(65189, 65263, 14), (35534, 35574, 13), (38739, 38782, 13), (42232, 42280, 13),
   (46041, 46093, 13), (50193, 50250, 13), (54720, 54782, 13), (59655, 59722, 13),
   (65034, 65108, 13), (35450, 35490, 12), (38647, 38690, 12), (42132, 42180, 12),
   (45932, 45984, 12), (50074, 50131, 12), (54590, 54652, 12), (59513, 59581, 12)]
def gainTab3 : List (Nat × Nat × Nat) := 
  [(64880, 64954, 12), (35366, 35406, 11), (38555, 38599, 11), (42032, 42080, 11),
   (45823, 45875, 11), (49956, 50012, 11), (54461, 54523, 11), (59372, 59440, 11),
   (64727, 64800, 11), (35282, 35322, 10), (38464, 38507, 10), (41933, 41980, 10),
   (45715, 45766, 10), (49837, 49894, 10), (54332, 54393, 10), (59232, 59299, 10)]
def gainTab : List (Nat × Nat × Nat) := gainTab0 ++ gainTab1 ++ gainTab2 ++ gainTab3

/-- The mantissa held for gain index `g` is free within the bound of R271. -/
def gainMant (g : Nat) : Nat × Nat :=
  match gainTab[g % 64]? with
  | some (lo, hi, e) => (lo + Config.gainPick g % (hi + 1 - lo), e)
  | none => (0, 0)

/-- A component after gain, and whether it saturated. -/
def applyGain (g : Nat) (x : Int) : Int × Bool :=
  let (m, e) := gainMant g
  satInt 16 (rneShiftInt (x * m) e)

/-- A byte of X memory: 18 bits of address. -/
def DspCore.writeX (c : DspCore) (a : Nat) (bs : Bytes) : DspCore :=
  { c with data := (bs.zipIdx).foldl (fun t p => t.set 0 ((a + p.2) % 2 ^ 18) p.1) c.data }

/-- The gain of a section's slot, `place` slots after the one under way and with number `k`: a later slot takes g(n + 1) when the one under
way has uplink data; an earlier one the gain it had (R272). -/
def Antenna.gainFor (a : Antenna) (place : Int) (k : Nat) : Nat :=
  if 0 < place ∧ a.samples ≠ 0 then a.gNext else if place < 0 ∧ a.lastSlot = k + 1 then a.gPrev else a.gNow

/-- A section's samples enter the measurement of their own slot (R271). Those read after their slot's end enter none: g(n + 2) has been
set by then. DEDUCED, log entry 20. -/
def Antenna.measure (a : Antenna) (place : Int) (power samples saturated : Nat) : Antenna :=
  if place < 0 then a
  else if 0 < place then { a with
    sumNext := a.sumNext + power, samplesNext := a.samplesNext + samples, saturatedNext := a.saturatedNext + saturated }
  else { a with sum := a.sum + power, samples := a.samples + samples, saturated := a.saturated + saturated }

/-- Samples of an antenna enter the measurement, take the gain and go to the X memory that the cell's section map names, each PRB at its
place in the symbol: 12 samples of 4 bytes. The manual gives no section map: core and address of a symbol's PRB 0 are free. -/
def State.ingest (s : State) (cell ant : Nat) (l : List Int) (x : Section) : State :=
  let a := (s.cell cell).antennas.at ant
  let place := s.slotsAhead cell x.symbolStart.toNat
  let power := (l.map fun v => (v * v).toNat).sum
  let out := l.map (applyGain (a.gainFor place (s.slotNumber cell x.symbolStart.toNat)))
  let a' := a.measure place power (l.length / 2) (out.filter fun o => o.2).length
  let s := s.modCell cell fun y => { y with antennas := y.antennas.put ant a' }
  let core := 48 * s.cellBd cell + Config.sectionCore cell ant x.symbolStart.toNat % 48
  s.modCore core fun c =>
    c.writeX (Config.sectionAddr cell ant x.symbolStart.toNat + 48 * x.startPrb) (out.flatMap fun o => leBytes 2 (ofSigned 16 o.1))

/-- The ingress unit takes an item. -/
def State.ingestItem (s : State) (cell ant : Nat) (f : Frame) : State :=
  match f.body with
  | .ecpri _ _ _ _ _ sections =>
    sections.foldl (fun s x =>
      match sectionComp (s.reg .staticComp cell = 1) (s.reg .ulComp cell) x with
      | some (m, w) => s.ingest cell ant (sectionSamples m w x) x
      | none => s) s
  | _ => s

-- Reading queues (R297) --------------------

/-- What becomes of a whole item in its consumer's hands. -/
def State.consume (s : State) (q : Nat) (by_ : QueueUser) (x : HeldItem) : State :=
  match by_ with
  | .unit =>
    if qFronthaul q && !s.qEgress q then
      if routeKind x.tag = 1 then
        match x.frame with
        | some f => s.ingestItem (routeCell x.tag) (routeAntenna x.tag) f
        | none => s
      else if routeKind x.tag = 3 then (s.qPush (0x1400 + x.tag % 64) 0 x.bytes).2
      else s
    else s
  | .host => if qFronthaul q then s.upRecord (s.cellTb (routeCell x.tag)) 3 q (routeCell x.tag) 0 x.bytes else s
  | _ => s

/-- A READ of `n` words of queue `q`: the items that it completes are the consumer's; the engines of a die take the jobs of its job queue
into staging. -/
def State.takeItems (s : State) (q n : Nat) (by_ : QueueUser) : State :=
  let s := s.qSync q
  if !s.qOn q || decide (s.qDepth q < n) then s.qRead q n
  else if by_ = .unit ∧ (q = 0x1000 ∨ q = 0x1001) then s.stageLoop (q - 0x1000) n
  else (s.takes q n).1.foldl (fun s x => s.consume q by_ x) (s.qRead q n)

-- XFER (R280, R297, R393) --------------------

/-- DPA of byte `off` of the radio scratchpad region of logical engine `l`, as a tier address of R135. -/
def State.radioPadRun (s : State) (core l off len : Nat) : Option (Nat × Nat) :=
  match s.logicalEngine l with
  | some e =>
    if s.logicalServes l core && (s.radioView e).holds ⟨tierOf off, tierOff off, len⟩ then
      some ((s.radioView e).dpa (tierOf off) (tierOff off), len)
    else none
  | none => none

/-- No held write set shares a byte with a run (R152). -/
def State.notHeld (s : State) (r : Nat × Nat) : Bool := !runsHit [r] (s.heldRuns none)

/-- Bytes of the radio stacked-memory region. -/
def State.radioStackSize (s : State) : Nat := popCount 12 s.tier.radioStackMask * s.tier.radioStackBytes

/-- Compression of one PRB: the smallest exponent with which every component fits, and the mantissas (R292). -/
def compressPrb (method width : Nat) (l : List Int) : Nat × List Int :=
  if method ≠ 1 then (0, l)
  else
    let w := iqWidth width
    let fits (e : Nat) : Bool := l.all fun v => !(satInt w (rneShiftInt v e)).2
    match (List.range 16).find? fits with
    | some e => (e, l.map (rneShiftInt · e))
    | none => (15, l.map (Config.bfpMantissa w))

/-- Values of `w` bits, most significant first, packed into bytes. -/
def packWide (w : Nat) (l : List Int) : Bytes :=
  let bits := l.flatMap fun v => (List.range w).map fun i => (ofSigned w v).testBit (w - 1 - i)
  beBytes (ceilDiv bits.length 8) ((bits.foldl (fun n b => 2 * n + if b then 1 else 0) 0) * 2 ^ (8 * ceilDiv bits.length 8 - bits.length))

/-- A section compressed under a method and width: its header of 4 bytes, its udCompHdr unless STATIC_COMP is set, and each PRB with the
exponent of method 1. The byte layout is O-RAN's: PRESUMED, log entry 76. -/
def compressSection (method width : Nat) (static_ : Bool) (x : Section) : Section :=
  let prbs := x.prbs.map fun p => compressPrb method width p.2
  let hdr : Bytes := if static_ then [] else [BitVec.ofNat 8 (width * 16 + method), 0]
  { x with
    compHdr := if static_ then none else some (method, width)
    prbs
    bytes := slice x.bytes 0 4 ++ hdr ++ prbs.flatMap fun p =>
      (if method = 1 then [BitVec.ofNat 8 p.1] else []) ++ packWide (iqWidth width) p.2 }

/-- A downlink frame as the fronthaul die writes it into an egress queue: the frame's bytes before its sections with the eCPRI payload size
put right, the compressed sections, and the FCS (R292). PRESUMED as the section's layout, log entry 76. -/
def State.compressFrame (s : State) (cell : Nat) (f : Frame) : Frame :=
  match f.body with
  | .ecpri a b c 0 e sections =>
    let comp := s.reg .dlComp cell
    let new := sections.map (compressSection (field comp 7 4) (field comp 3 0) (s.reg .staticComp cell = 1))
    let head := f.bytes.take (f.bytes.length - 4 - (sections.map fun x => x.bytes.length).sum)
    let body := new.flatMap fun x => x.bytes
    let at_ := 14 + 4 * f.vlans
    let whole := head.take (at_ + 2) ++ beBytes 2 (head.length + body.length - at_ - 4) ++ head.drop (at_ + 4) ++ body
    { f with bytes := whole ++ leBytes 4 (crc32 whole), body := .ecpri a b c 0 e new }
  | _ => f

/-- Length of the item at READ of a queue, in bytes. -/
def State.headLen (s : State) (q : Nat) : Nat := ((s.qHead q).map fun w => w.bytes.length).sum

/-- Tags of the head item of an egress queue that has a port (R305). -/
def State.tagHead (s : State) (q : Nat) : State :=
  let x := s.queue q
  let port := s.reg .qEgressPort q
  if !s.qEgress q || !s.qOn q || x.headFinish ≠ none || decide (s.qDepth q = 0) || decide (15 < port) then s
  else
    let start := tagMax (s.fh.vtime.get 0 port) x.finish
    let f := start + ceilDiv ((s.headLen q + 20) * 65536) (s.fh.weights.get 1024 q)
    s.setQueue q { x with headFinish := some (f % 2 ^ 48) }

/-- Produces a frame into a fronthaul queue: its words, and what the model keeps of it. -/
def State.pushFrame (s : State) (q tag : Nat) (item : Bytes) (f : Frame) (bad : Bool := false) : State :=
  let i := (s.queue q).write
  let (ok, s) := s.qProduce q tag item bad
  if !ok then s
  else ((s.modQueue q fun x => { x with frames := x.frames.put (i.toNat % s.qCap q) (some f) }).level q).tagHead q

-- The queue at the end of a frame (R295, R296) --------------------

/-- MAX_FRAME that a compatibility-mode queue admits packets by. -/
def State.admitMax (s : State) (q port : Nat) : Nat :=
  if s.qEgress q then (if s.reg .qEgressPort q = 0xFF then 9216 else s.reg .maxFrame (s.reg .qEgressPort q)) else s.reg .maxFrame port

/-- A frame written into a queue as an item, good or bad. -/
def State.putItem (s : State) (q port tag : Nat) (item : Bytes) (f : Frame) (bad : Bool) : State :=
  if !s.qOn q then s.qIgnore q 0x0A05
  else if s.qCompat q then
    if s.qFree q < ceilDiv (s.admitMax q port) 64 then s.bump .qOverflows q
    else (s.pushFrame q tag (item.take (s.admitMax q port)) f bad).bumpIf bad .qBad q
  else if s.qFree q < (itemWords 64 0 0 false (item.length + 1) item).length then s.bump .qOverflows q
  else if bad then s.bump .qBad q
  else s.pushFrame q tag item f

/-- A frame that says no more than its bytes. -/
def plainFrame (bs : Bytes) : Frame := ⟨bs, true, 0, 0, 0, false, .service⟩

/-- Whether a core may consume a queue: its own completion queue, or a fronthaul ingress queue. -/
def State.coreReads (s : State) (core q : Nat) : Bool := q = 0x1100 + core || (qFronthaul q && !s.qEgress q)

/-- An XFER that meets a held byte waits for the hold to end (R152, R280). -/
def State.xferWaits (s : State) (core : Nat) (o : XferOp) : State :=
  { s with radio := { s.radio with xferWait := s.radio.xferWait ++ [(core, o)] } }

/-- XFER of a core. `coreToQueue` moves an item that holds no U-plane section. -/
def State.xfer (s : State) (core : Nat) (o : XferOp) : State :=
  let c := s.core core
  let back (s : State) (a : Nat) (bs : Bytes) : State := s.modCore core fun c => c.write a bs
  match o with
  | .coreToStack a off len => if off + len ≤ s.radioStackSize then s.radioStackWrite off (c.read a len) else s
  | .stackToCore a off len => if off + len ≤ s.radioStackSize then back s a (s.radioStackRead off len) else s
  | .coreToPad a l off len => match s.radioPadRun core l off len with
    | some r => if s.notHeld r then s.wrRun r.1 (c.read a len) else s.xferWaits core o
    | none => s
  | .padToCore a l off len => match s.radioPadRun core l off len with
    | some r => if s.notHeld r then back s a (s.rdRun r.1 len) else s.xferWaits core o
    | none => s
  | .stackToPad so l off len => match s.radioPadRun core l off len with
    | some r =>
      if s.radioStackSize < so + len then s
      else if s.notHeld r then s.wrRun r.1 (s.radioStackRead so len) else s.xferWaits core o
    | none => s
  | .padToStack l off so len => match s.radioPadRun core l off len with
    | some r =>
      if s.radioStackSize < so + len then s
      else if s.notHeld r then s.radioStackWrite so (s.rdRun r.1 len) else s.xferWaits core o
    | none => s
  | .queueToCore q a =>
    if !s.coreReads core q then s
    else
      let ws := s.qHead q
      if ws = [] || !s.qOn q then s.qRead q 1
      else
        let items := (s.takes q ws.length).1
        items.foldl (fun s x => back s a x.bytes) ((s.usedBy q core).takeItems q ws.length (.core core))
  | .coreToQueue a q len => if s.qEgress q then s.putItem q 0 0 (c.read a len) (plainFrame (c.read a len)) false else s
  | .frameToQueue q cell f =>
    let f := s.compressFrame cell f
    if s.qEgress q then s.putItem q 0 (routeRadio cell 0) f.bytes f false else s
  | .coreToHost a len tag =>
    match s.coreTb core with
    | some t => s.upRecord t 2 tag (c.evCell.get 0 (c.handler.getD 0)) 0 (c.read a len)
    | none => s

/-- Core bytes that XFER reads. -/
def xferReads : XferOp → List (Nat × Nat)
  | .coreToStack a _ len | .coreToPad a _ _ len | .coreToQueue a _ len | .coreToHost a len _ => [(a, len)]
  | _ => []

/-- XFER as its bytes in core memory are read. -/
def State.xferNow (s : State) (core : Nat) (o : XferOp) : State :=
  match s.badRun core (xferReads o) with
  | some a => s.dataFault core a
  | none => s.xfer core o

/-- The XFERs that wait look again, in order. -/
def State.wakeXfer (s : State) : State :=
  s.radio.xferWait.foldl (fun s p => s.xferNow p.1 p.2) { s with radio := { s.radio with xferWait := [] } }

/-- XFER. -/
def execXfer (site : Issue) (op : XferOp) (s : State) : Out :=
  .next (s.issueWith site [] id fun s => s.xferNow site.core op)

end Sys2Proof.Machine
end

