-- ==== Sys2Proof/Machine/Servo.lean ====
section
/-! DEFINITION. Time-base servos and lock states (R319 to R321), and the end of an uplink slot: gain and quality report (R271 to
R274). -/

namespace Sys2Proof.Machine

-- Servos (R319 to R321) --------------------

/-- INCR of R318 for a frequency adjustment in ppb. -/
def incrOf (ppb : Int) : Nat := rneDiv (5206020965 * (10 ^ 9 + ppb).toNat) (10 ^ 9)

/-- A change of lock state is a fault report (R321). -/
def State.setLock (s : State) (t v : Nat) : State :=
  if s.reg .lockState t = v then s else (s.setReg .lockState v t).fault 0x0504 0 12 t 0xFFFF v

/-- Clamps to ±m. -/
def clampFl (m : Nat) (x : Fl) : Fl :=
  let hi := Fl.ofInt m
  if hi.below x then hi else if x.below hi.neg then hi.neg else x

/-- Lock state after a measurement θ (R321). -/
def State.relock (s : State) (t : Nat) (theta : Int) : State :=
  let small := decide (theta.natAbs < s.reg .lockNs t)
  let good := if small then (s.tb t).good + 1 else 0
  let s := s.modTb t fun b => { b with good }
  let s := if s.reg .lockState t = 3 then s.setLock t 1 else s
  if s.reg .lockState t = 2 && !small then s.setLock t 1
  else if s.reg .lockState t = 1 && decide (16 ≤ good) then s.setLock t 2
  else s

/-- The servo's computation at a measurement θ, in FP32 (R319). -/
def State.servo (s : State) (t : Nat) (theta : Int) : State :=
  let th := fmtFP32.round (Fl.ofInt theta)
  let kp := fmtFP32.decode (s.reg .servoKp t)
  let ki := fmtFP32.decode (s.reg .servoKi t)
  let slew := s.reg .slewPpb t
  let integ := clampFl slew (fp32Add (fmtFP32.decode (s.tb t).integ) (fp32Mul ki th))
  let adj := (toIntSat 32 (clampFl slew (fp32Add (fp32Mul kp th) integ).neg)).1
  let s := s.setRegI .lastOffsetNs theta t
  (s.modTb t fun b => { b with
    integ := fp32Code integ, adjPending := some adj, adjs := (adj :: b.adjs).take 16, lastCk := s.ck }).relock t theta

/-- A measurement of time base `t`, and of those that follow it (SERVO_SRC 4), which measure when what they follow does. -/
def State.measureFrom (s : State) : Nat → Nat → Int → State
  | 0, _, _ => s
  | k + 1, t, theta =>
    let s := s.servo t theta
    (List.range 8).foldl (fun s u =>
      if s.reg .servoSrc u = 4 && decide (s.reg .servoArg u = t) && decide (u ≠ t) then
        s.measureFrom k u (since64 (s.ns u) (s.ns t) + s.regI .followOffsetNs u)
      else s) s

def State.measure (s : State) (t : Nat) (theta : Int) : State := s.measureFrom 8 t theta

/-- Compensation in force, by its place in Pins.comps (R329). -/
def State.comp (s : State) (k : Nat) : Int := toSigned 32 (s.pins.comps.get 0 k)

-- PTP (R320) --------------------

/-- A time base in sixteenths of a nanosecond. -/
def State.ns16 (s : State) (t : Nat) : Nat := (s.tb t).count / 2 ^ 28 % 2 ^ 68

/-- An event message's timestamp, in 2^-16 ns. -/
def State.stampNow (s : State) (t : Nat) : Int := (s.ns16 t * 2 ^ 12 : Nat)

/-- The order of the alternate BMCA, least first: class, accuracy, variance, priority 2, the grandmaster where the class is above 127, steps
removed, and the sender. The local priority of a port, of which the manual gives none, is equal for all: PRESUMED, log entry 85. -/
def PtpMaster.rank (m : PtpMaster) : List Nat :=
  [m.data.clockClass, m.data.accuracy, m.data.variance, m.data.priority2]
    ++ (if m.data.clockClass ≤ 127 then [] else [m.data.grandmaster]) ++ [m.data.steps, m.source, m.port]

/-- Lexicographic order. -/
def ranksBelow : List Nat → List Nat → Bool
  | a :: as, b :: bs => decide (a < b) || (decide (a = b) && ranksBelow as bs)
  | [], _ :: _ => true
  | _, [] => false

/-- The best of the masters heard. -/
def bestMaster (l : List PtpMaster) : Option PtpMaster :=
  l.foldl (fun b m => match b with
    | none => some m
    | some x => if ranksBelow m.rank x.rank then some m else some x) none

/-- An Announce: masters not heard for three intervals of 1/8 s are dropped, and a change of the chosen one starts its measurement afresh
(PRESUMED, log entry 85). -/
def State.ptpAnnounce (s : State) (t port : Nat) (m : PtpMsg) : State :=
  s.modTb t fun b =>
    let masters := ⟨port, m.source, m.announce, s.ck⟩ :: b.masters.filter fun x =>
      !(decide (x.port = port) && decide (x.source = m.source)) && decide (s.ck < x.lastCk + 309375000)
    let master := (bestMaster masters).map fun x => (x.port, x.source)
    if master = b.master then { b with masters }
    else { b with masters, master, syncAt := none, toSlave := none, path2 := none, delayReqAt := none }

/-- A number of 2^-17 ns in whole nanoseconds: which of its two neighbours is open. -/
def wholeNs (x : Int) : Int := x / 2 ^ 17 + if x % 2 ^ 17 ≠ 0 && Config.ptpLater x then 1 else 0

/-- A master-to-slave time: with a mean path delay known, it gives an offset, less ASYM_NS (R320). -/
def State.ptpOffset (s : State) (t : Nat) (x : Int) : State :=
  let s := s.modTb t fun b => { b with toSlave := some x, syncAt := none }
  match (s.tb t).path2 with
  | some p => s.measure t (wholeNs (2 * x - p) - s.comp (16 + t))
  | none => s

/-- A message of the chosen master reaches the slave clock of time base `t` on a port, corrected by `c`. -/
def State.ptpSlave (s : State) (t port : Nat) (kind : PtpKind) (c : Int) (m : PtpMsg) : State :=
  let b := s.tb t
  match kind with
  | .sync false => s.ptpOffset t (s.stampNow t - c - m.time * 2 ^ 16)
  | .sync true => s.modTb t fun b => { b with syncAt := some (m.seq, s.stampNow t - c) }
  | .followUp => match b.syncAt with
    | some (n, x) => if n = m.seq then s.ptpOffset t (x - c - m.time * 2 ^ 16) else s
    | none => s
  | .delayResp => match b.delayReqAt, b.toSlave with
    | some out, some x =>
      if m.seq = b.delayReqs % 2 ^ 16 ∧ m.target = (Config.ptpPort port).toNat then
        s.modTb t fun b => { b with delayReqAt := none, path2 := some (x + (m.time * 2 ^ 16 - out - c)) }
      else s
    | _, _ => s
  | _ => s

/-- A PTP message reaches the time bases whose source it is: their domain, on a port of their mask (R320). -/
def State.ptpTake (s : State) (port : Nat) (kind : PtpKind) (domain : Nat) (correction : W64) (m : PtpMsg) : State :=
  (List.range 8).foldl (fun s t =>
    if !(decide (s.reg .servoSrc t = 1) && decide (s.reg .ptpDomain t = domain) && bit (s.reg .ptpPortMask t) port) then s
    else if kind = .announce then s.ptpAnnounce t port m
    else if (s.tb t).master = some (port, m.source) then s.ptpSlave t port kind correction.toInt m
    else s) s

-- The end of an uplink slot (R271 to R274) --------------------

/-- Whether 10^(k/640) is at most n/d. -/
def dbLe (nn dd : Nat) (k : Int) : Bool :=
  if 0 ≤ k then decide (dd * 10 ^ k.toNat ≤ nn) else decide (dd ≤ nn * 10 ^ (-k).toNat)

/-- The largest k from `lo` on, within 2^fuel steps, for which it is. -/
def dbSearch (nn dd : Nat) : Nat → Int → Int
  | 0, lo => lo
  | f + 1, lo => if dbLe nn dd (lo + 2 ^ f) then dbSearch nn dd f (lo + 2 ^ f) else dbSearch nn dd f lo

/-- P of R271: the mean of |x|² over `n` samples relative to 2^30, in 1/64 dB; the rounding is left open. No power is below every
floor. -/
def powerDb (sum n : Nat) : Int :=
  if sum = 0 ∨ n = 0 then -(2 ^ 31)
  else
    let nn := sum ^ 640
    let dd := (n * 2 ^ 30) ^ 640
    let k := dbSearch nn dd 15 (-16384)
    let exact := if 0 ≤ k then decide (dd * 10 ^ k.toNat = nn) else decide (dd = nn * 10 ^ (-k).toNat)
    if !exact && Config.powerRound sum n then k + 1 else k

/-- g(n + 2) of R272. -/
def State.nextGain (s : State) (p : Int) (g : Nat) : Nat :=
  let target := s.regI .gainTarget
  let dev := p + 48 * (g : Int) - 768 - target
  if p < s.regI .gainFloor ∨ dev.natAbs ≤ s.reg .gainHyst then g
  else
    let x := target - p + 768
    (max 0 (min 63 (-((24 - x) / 48)))).toNat

/-- GAIN_UPDATE of an antenna at the end of slot number `k`: an uplink slot is one that carried samples. -/
def State.gainStep (s : State) (k : Nat) (a : Antenna) : Antenna :=
  let b : Antenna := { a with
    sum := a.sumNext, samples := a.samplesNext, saturated := a.saturatedNext, sumNext := 0, samplesNext := 0, saturatedNext := 0 }
  if a.samples = 0 then b
  else { b with
    known := true
    gPrev := a.gNow
    lastSlot := k + 1
    gNow := a.gNext
    gNext := s.nextGain (powerDb a.sum a.samples) a.gNext }

/-- Largest of a list. -/
def maxOf (l : List Nat) : Nat := l.foldl max 0

/-- The quality report of R273. -/
def reportWord (cell : Nat) (x : Cell) (as : List Antenna) (evm sinr : Nat) : Nat :=
  cell * 2 ^ 248 + x.sfn % 1024 * 2 ^ 238 + x.slot % 128 * 2 ^ 231 + evm * 2 ^ 208 + sinr * 2 ^ 192
    + ((as.map (·.gNow)).foldl min 63) % 256 * 2 ^ 184 + maxOf (as.map (·.gNow)) % 256 * 2 ^ 176
    + (as.filter fun a => a.saturated ≠ 0).length % 256 * 2 ^ 168 + (as.map (·.saturated)).sum % 2 ^ 32 * 2 ^ 136
    + x.cbFail % 2 ^ 16 * 2 ^ 120 + x.cbLate % 2 ^ 16 * 2 ^ 104

/-- The slot under way in a cell ends: gains, and one report into the channel of its time base. EVM and SINR of a slot with data are free
among the codes that say a measurement was made (R273, R274; log entry 21). -/
def State.endSlot (s : State) (cell : Nat) : State :=
  let x := s.cell cell
  if !x.begun then s
  else
    let as := (List.range (antennasOf (s.cellType cell))).map fun i => x.antennas.at i
    let data := as.any fun a => a.samples ≠ 0
    let (evm, sinr, s) := if data then (let (e, s) := s.draw Config.evm; let (r, s) := s.draw Config.sinr; (e.toNat % 0xFFFF, (0x8001 + r.toNat % 0xFFFF) % 2 ^ 16, s))
      else (0xFFFF, 0x8000, s)
    let s := (s.setReg .lastEvm evm cell).setReg .lastSinr sinr cell
    let s := s.upRecord (s.cellTb cell) 1 0 cell (reportWord cell x as evm sinr) []
    s.modCell cell fun x => { x with
      antennas := x.antennas.mapAll fun _ a => s.gainStep (slotCount (s.cellScs cell) x.sfn x.slot) a
      begun := false
      cbFail := 0
      cbLate := 0 }

end Sys2Proof.Machine
end

