-- ==== Sys2Proof/Machine/Fronthaul.lean ====
section
/-! DEFINITION. The fronthaul ports: classification, policing, PTP forwarding and egress (R287 to R309), and the queue commands
(R297 to R306, R312). -/

namespace Sys2Proof.Machine

-- Ports (R287, R311) --------------------

/-- Lanes of the port whose first lane is lane `l` of a die under a PORT_MODE; 0 where there is no such port. -/
def portLanes (mode l : Nat) : Nat :=
  match mode with
  | 0 => if l < 8 then 1 else 0
  | 1 => if l = 0 ∨ l = 4 then 4 else 0
  | 2 => if l = 0 then 8 else 0
  | 3 => if l = 0 then 4 else if 4 ≤ l ∧ l < 8 then 1 else 0
  | _ => 0

/-- Port FHp exists. -/
def State.fhExists (s : State) (p : Nat) : Bool := decide (p < 16) && decide (portLanes (s.reg .portMode (p / 8)) (p % 8) ≠ 0)

/-- The entry is that of a fronthaul port that PORT_MODE does not create: it reads as its default (R311, R448). -/
def State.unfitted (s : State) (r : Reg) (i : Nat) : Bool := decide (r.index = 0x4110) && !s.fhExists i

/-- Port FHp exists, is enabled and has its link. -/
def State.fhUp (s : State) (p : Nat) : Bool := s.fhExists p && decide (s.reg .fhPortEnable p = 1) && bit s.fh.linkUp p

/-- MAC_ADDR of a fronthaul port: the image's until a write (R311). -/
def State.fhMac (s : State) (p : Nat) : Bytes :=
  if s.oct .fhMacAddr p = [] then beBytes 6 (Config.fhMac s.runningBody p).toNat else s.oct .fhMacAddr p

-- Double-buffered tables of a die (R207, R208, R305, R308) --------------------

/-- Queues whose weights belong to a die. -/
def dieQueues (die : Nat) : List Nat := (List.range 1024).map (die * 1024 + ·)

/-- Keys of a table whose entries belong to a die. -/
def ofDie (per die : Nat) (t : Tab Nat) : Tab Nat := t.keep fun k _ => k / per = die

/-- The WFQ table of a die switches: current weights and Q_WEIGHT change places. -/
def State.switchWfq (s : State) (die : Nat) : State :=
  if !s.fh.weightNext.contains die then s
  else
    let s := (dieQueues die).foldl (fun s q =>
      let cur := s.fh.weights.get 1024 q
      let new := s.reg .qWeight q
      if cur = new then s
      else { s.setReg .qWeight cur q with fh := { s.fh with weights := s.fh.weights.set 1024 q new } }) s
    ({ s with fh := { s.fh with weightNext := s.fh.weightNext.filter (· ≠ die) } }).bump .fhWfqEpoch die

/-- Fields of a policer profile, in the order of R313. -/
def polRegs : List Reg := [.polMode, .cirMbps, .cbsBytes, .peirMbps, .pebsBytes, .pcpColour, .yellowLevel]

/-- Field `k` of the profile in force for a slice on a die. -/
def State.pol (s : State) (die slice k : Nat) : Nat := s.fh.profiles.get 0 (die * 1024 + slice * 8 + k)

/-- Field `k` of a slice's profile in the shadow copy of a die: the entries are that of FD0. -/
def State.polShadow (s : State) (die slice : Nat) (r : Reg) (k : Nat) : Nat :=
  if die = 0 then s.reg r slice else s.fh.profileShadow.get 0 (slice * 8 + k)

/-- Field `k` of a slice's profile changes places between a die's current copy and its shadow copy. -/
def State.swapPol (s : State) (die slice : Nat) (r : Reg) (k : Nat) : State :=
  let cur := s.pol die slice k
  let new := s.polShadow die slice r k
  let s : State := if die = 0 then s.setReg r cur slice
    else { s with fh := { s.fh with profileShadow := s.fh.profileShadow.set 0 (slice * 8 + k) cur } }
  { s with fh := { s.fh with profiles := s.fh.profiles.set 0 (die * 1024 + slice * 8 + k) new } }

/-- The policer profiles of a die switch: each die has both copies of the table (R207). Buckets keep their tokens, clamped to their new
size. -/
def State.switchPol (s : State) (die : Nat) : State :=
  if !s.fh.profileNext.contains die then s
  else
    let s := (List.range 64).foldl (fun s n => (polRegs.zipIdx).foldl (fun s p => s.swapPol die n p.1 p.2) s) s
    let s := { s with fh := { s.fh with profileNext := s.fh.profileNext.filter (· ≠ die) } }
    let clamp (k : Nat) (b : Bucket) : Bucket :=
      if k / 64 = die then { b with c := min b.c (s.pol die (k % 64) 2 * 264000), p := min b.p (s.pol die (k % 64) 4 * 264000) } else b
    ({ s with fh := { s.fh with buckets := s.fh.buckets.mapAll clamp } }).bump .polEpoch die

/-- A packet boundary of a die. -/
def State.packetBoundary (s : State) (die : Nat) : State := (s.switchWfq die).switchPol die

-- Classification (R289, R290) --------------------

/-- MATCH of a frame; none for PTP. -/
def frameMatch (f : Frame) : Option Nat :=
  match f.body with
  | .ptp .. => none
  | .ecpri _ _ _ t _ _ => some (if t = 0 then 0 else if t = 2 then 1 else 2)
  | .service => some 3

/-- Whether a classification entry matches a frame that arrives on lane `l` of its die. -/
def classMatches (e l : Nat) (f : Frame) : Bool :=
  let m := field e 126 124
  let vlan := bit e 115 || if bit e 114 then decide (f.vlans = 1) && decide (f.vlanId = field e 113 102) else decide (f.vlans = 0)
  let eaxc := match f.body with
    | .ecpri _ _ _ _ x _ => decide ((x.toNat ^^^ field e 101 86) &&& field e 85 70 = 0)
    | _ => true
  bit e 127 && decide (frameMatch f = some m) && bit (field e 123 116) l && vlan && eaxc

/-- The lowest-numbered valid entry of a die that matches. -/
def State.classify (s : State) (die l : Nat) (f : Frame) : Option Nat :=
  let lo := Reg.key .classEntry (die * 4096)
  ((s.prot.octs.filter fun p => decide (lo ≤ p.1) && decide (p.1 < lo + 4096)).map fun p => leNat p.2).find? fun e => classMatches e l f

-- Policing (R307, R308) --------------------

/-- Colours of R307. -/
inductive Colour where
  | green
  | yellow
  | red
  deriving DecidableEq, Repr

/-- Tokens after `dck` CK cycles at a rate in Mb/s, up to a size in bytes. -/
def refill (tokens rate size dck : Nat) : Nat := min (tokens + rate * 40 * dck) (size * 264000)

/-- Colour of a frame of `b` units under a POL_MODE, its input colour `pre`, and the buckets left. -/
def police (mode pre b c p : Nat) : Colour × Nat × Nat :=
  let pre := if mode = 1 ∨ mode = 3 then 0 else pre
  if mode = 0 ∨ 4 < mode then (.red, c, p)
  else if mode ≤ 2 then
    if pre = 2 ∨ p < b then (.red, c, p)
    else if pre = 1 ∨ c < b then (.yellow, c, p - b)
    else (.green, c - b, p - b)
  else if pre = 0 ∧ b ≤ c then (.green, c - b, p)
  else if pre ≠ 2 ∧ b ≤ p then (.yellow, c, p - b)
  else (.red, c, p)

/-- Input colour of a PCP_COLOUR code; code 3 has none in the manual, and its colour is free, log entry 20. -/
def pcpColour (c : Nat) : Nat := if c = 3 then Config.pcpColour3 % 3 else c

/-- Colours a frame of a slice on a die at its last byte. -/
def State.colour (s : State) (die slice : Nat) (f : Frame) : Colour × State :=
  let k := die * 64 + slice
  let x := s.fh.buckets.at k
  let dck := s.ck - x.last
  let c := if x.used then refill x.c (s.pol die slice 1) (s.pol die slice 2) dck else s.pol die slice 2 * 264000
  let p := if x.used then refill x.p (s.pol die slice 3) (s.pol die slice 4) dck else s.pol die slice 4 * 264000
  let pre := if f.vlans = 0 then 0 else pcpColour (field (s.pol die slice 5) (2 * (f.pcp % 8) + 1) (2 * (f.pcp % 8)))
  let (col, c, p) := police (s.pol die slice 0) pre (f.bytes.length * 264000) c p
  (col, { s with fh := { s.fh with buckets := s.fh.buckets.put k ⟨true, c, p, s.ck⟩ } })

/-- A service frame under ACTION 3. -/
def State.serviceFrame (s : State) (die port q slice : Nat) (f : Frame) (bad : Bool) : State :=
  if bad || !s.qOn q || decide (s.qFree q < ceilDiv f.bytes.length 64) then s.putItem q port (routeService slice) f.bytes f bad
  else
    let (col, s) := s.colour die slice f
    match col with
    | .green => (s.bump .greenFrames slice).putItem q port (routeService slice) f.bytes f false
    | .yellow =>
      let s := s.bump .yellowFrames slice
      if s.pol die slice 6 ≤ s.qDepth q then s.bump .yellowDropped slice
      else s.putItem q port (routeService slice) f.bytes f false
    | .red => (s.bump .redFrames slice).bump .qBad q

-- U-plane windows (R291, R292) --------------------

/-- One section: kept, or counted and dropped. -/
def State.sectionCheck (s : State) (die cell : Nat) (x : Section) : Bool × State :=
  let d := since64 (s.ns (s.cellTb cell)) x.symbolStart.toNat
  if d < s.regI .ulWinMinNs cell then (false, s.bump .ulEarly die)
  else if s.regI .ulWinMaxNs cell < d then (false, s.bump .ulLate die)
  else match sectionComp (s.reg .staticComp cell = 1) (s.reg .ulComp cell) x with
    | some (m, _) => if m ≤ 1 then (true, s) else (false, s.bump .uplaneBad die)
    | none => (false, s.bump .uplaneBad die)

def State.sectionsCheck (s : State) (die cell : Nat) : List Section → List Section × State
  | [] => ([], s)
  | x :: l =>
    let (ok, s) := s.sectionCheck die cell x
    let (rest, s) := s.sectionsCheck die cell l
    (if ok then x :: rest else rest, s)

/-- A frame under ACTION 1: a U-plane frame enters the queue as its accepted sections, any other whole. -/
def State.radioFrame (s : State) (die port q cell ant : Nat) (f : Frame) (bad : Bool) : State :=
  match f.body with
  | .ecpri a b c 0 e sections =>
    if bad then s.putItem q port (routeRadio cell ant) f.bytes f true
    else
      let (keep, s) := s.sectionsCheck die cell sections
      if keep = [] then s
      else s.putItem q port (routeRadio cell ant) (keep.flatMap fun x => x.bytes) { f with body := .ecpri a b c 0 e keep } false
  | _ => s.putItem q port (routeRadio cell ant) f.bytes f bad

-- PTP (R309, R320) --------------------

/-- Route of a forwarded PTP frame: the time base and the ingress timestamp. -/
def routePtp (tb stamp : Nat) : Nat := 2 ^ 100 + tb * 2 ^ 72 + stamp

/-- Forwards a PTP frame to the ports of its die that PTP_FWD names. -/
def State.ptpForward (s : State) (port : Nat) (f : Frame) : State :=
  let t := s.reg .tcTb port
  let tag := routePtp t (s.ns16 t)
  (bitsOf 8 (s.reg .ptpFwd port)).foldl (fun s l =>
    let p := port / 8 * 8 + l
    let q := s.reg .ptpQueue p
    if s.fhExists p && s.qEgress q && decide (qDie q = port / 8) then s.putItem q port tag f.bytes f false else s) s

/-- Message kinds whose correctionField takes the residence time. -/
def corrected : PtpKind → Bool
  | .sync _ | .delayReq | .pdelayReq | .pdelayResp => true
  | _ => false

/-- The bytes of a PTP frame with its correctionField put right, eight bytes at offset 8 of the PTP header, and the FCS computed again; the
layout is that of IEEE 1588: PRESUMED, log entry 76. -/
def withCorrection (vlans : Nat) (c : W64) (bs : Bytes) : Bytes :=
  let at_ := 14 + 4 * vlans + 8
  let whole := bs.take at_ ++ beBytes 8 c.toNat ++ (bs.take (bs.length - 4)).drop (at_ + 8)
  whole ++ leBytes 4 (crc32 whole)

/-- The frame as it leaves: residence × 2^16 added to the correctionField. -/
def State.ptpLeave (s : State) (tag : Nat) (f : Frame) : Frame :=
  match f.body with
  | .ptp k d c m =>
    if tag < 2 ^ 100 || !corrected k then f
    else
      let t := tag / 2 ^ 72 % 8
      let residence := (s.ns16 t + 2 ^ 68 - tag % 2 ^ 72) % 2 ^ 68
      let c := c + BitVec.ofNat 64 (residence * 2 ^ 12)
      { f with bytes := withCorrection f.vlans c f.bytes, body := .ptp k d c m }
  | _ => f

-- FRAME_RECEIVED (R288 to R309) --------------------

/-- A well-formed frame of eCPRI or service goes where its entry says. -/
def State.route (s : State) (port : Nat) (f : Frame) (bad : Bool) : State :=
  let die := port / 8
  match s.classify die (port % 8) f with
  | none => s.bump .unclassified port
  | some e =>
    let q := die * 1024 + field e 53 44
    if s.qEgress q then s
    else match field e 69 68 with
      | 1 => s.radioFrame die port q (field e 67 60) (field e 59 54) f bad
      | 2 => s.putItem q port (routeOther (field e 67 60) (field e 59 54)) f.bytes f bad
      | 3 => s.serviceFrame die port q (field e 43 38) f bad
      | _ => s

/-- A frame that the header shows to be malformed (R288, R289). -/
def frameMalformed (f : Frame) : Bool :=
  f.macControl || decide (1 < f.vlans) || match f.body with
    | .ecpri r c z _ _ _ => !(r && c && z)
    | _ => false

/-- FEC of a frame that arrives: codewords corrected, and some that could not be when its FCS fails (R288, R311). Free values, log entry
89. -/
def State.fhFec (s : State) (port : Nat) (bad : Bool) : State :=
  let (a, s) := s.draw Config.fecCorrected
  let (b, s) := if bad then s.draw Config.fecUncorrected else (0, s)
  let c := s.fh.fec.at port
  { s with fh := { s.fh with fec := s.fh.fec.put port ⟨true, c.ok + a.toNat, c.bad + b.toNat⟩ } }

/-- FRAME_RECEIVED at the last byte of a frame. -/
def State.frameIn (s : State) (port : Nat) (f : Frame) : State :=
  if !s.fhUp port then s
  else
    let s := ((s.fhFec port !f.fcsOk).packetBoundary (port / 8)).bump .fhRxFrames port
    let long := decide (s.reg .maxFrame port < f.bytes.length)
    let s := ((s.bumpIf (!f.fcsOk) .fcsErrors port).bumpIf long .oversize port)
    let bad := !f.fcsOk || long
    if frameMalformed f then s.bump .malformed port
    else match f.body with
      | .ptp k d c m => if bad then s else (s.ptpForward port f).ptpTake port k d c m
      | _ => s.route port f bad

def execFrameReceived (port : Nat) (f : Frame) (s : State) : Out := .next (s.frameIn port f)

-- FRAME_TRANSMITTED (R305, R309) --------------------

/-- The queue whose head frame a free port sends: the smallest F, ties to the lowest Q_ID. -/
def State.nextEgress (s : State) (port : Nat) : Option (Nat × Nat) :=
  ((dieQueues (port / 8)).filterMap fun q =>
    if s.qEgress q && s.qOn q && decide (s.reg .qEgressPort q = port) && decide (s.qDepth q ≠ 0) then
      (s.queue q).headFinish.map fun f => (q, f)
    else none).foldl (fun b x => match b with
      | none => some x
      | some y => if toSigned 48 (x.2 + 2 ^ 48 - y.2) < 0 then some x else some y) none

/-- FRAME_TRANSMITTED: a port sends its next frame. -/
def State.frameOut (s : State) (port : Nat) : State :=
  if !s.fhUp port then s
  else
    let s := s.packetBoundary (port / 8)
    let s := (dieQueues (port / 8)).foldl (fun s q => if s.qEgress q then s.tagHead q else s) s
    match s.nextEgress port with
    | none => s
    | some (q, f) =>
      let n := (s.qHead q).length
      let i := (s.queue q).read
      let frame := if (s.queue q).part = none then (s.frameAt q i).map (s.ptpLeave (s.qWord q i).tag) else none
      let s := { s with fh := { s.fh with vtime := s.fh.vtime.set 0 port f, sent := s.fh.sent.put port frame } }
      let s := s.modQueue q fun x => { x with finish := f }
      ((s.qRead q n).tagHead q).bump .fhTxFrames port

def execFrameTransmitted (port : Nat) (s : State) : Out := .next (if port < 16 then s.frameOut port else s)

-- Queue operations (R297 to R299, R304, R312) --------------------

/-- The operations of Q_OP. -/
inductive QOp where
  | flush
  | mark
  | rewind
  | release (i : W32)
  | read (n : Nat)
  deriving DecidableEq, Repr

/-- Why an operation is ignored in the present state. -/
def State.qOpReason (s : State) (q : Nat) (o : QOp) : Option Nat :=
  let x := s.queue q
  if !s.qOn q then some 0x0A05
  else match o with
    | .flush => none
    | .mark => if s.qRecovery q then none else some 0x0A01
    | .rewind => if !s.qRecovery q then some 0x0A01 else if x.markValid then none else some 0x0A02
    | .release i => if !s.qRecovery q then some 0x0A01
        else if (x.read - x.release).toNat < (i - x.release).toNat then some 0x0A03 else none
    | .read n => if s.qDepth q < n then some 0x0A04 else none

/-- A waiting radio command whose descriptor FLUSH has removed, or before which REWIND has put READ, leaves the head of its queue (R280). -/
def State.afterRadioOp (s : State) (q : Nat) : State :=
  if !qRadio q then s
  else
    let l := q - 0x1200
    let gone : Bool := match s.radioCmd l with
      | some x => decide (x.phase = .waiting) && (decide (BitVec.ofNat 32 x.seq ≠ (s.queue q).read) || decide (s.qDepth q = 0))
      | none => false
    (if gone then s.setRadioCmd l none else s).radioCheck l

/-- An operation, ignored or not. A READ hands over no descriptor of a radio command queue: READ passes one only as its command starts or
is ignored (R280; DESIGN CHOICE, log entry 41). -/
def State.qOperate (s : State) (q : Nat) (o : QOp) (by_ : QueueUser) : State :=
  let s := s.qSync q
  let s := match o with
    | .flush => s.qFlush q
    | .mark => s.qMarkNow q
    | .rewind => s.qRewind q
    | .release i => s.qReleaseTo q i
    | .read n => if qRadio q && (s.qOpReason q o).isNone then s else s.takeItems q n by_
  (s.tagHead q).afterRadioOp q

/-- An operation by Q_OP of a session whose QUEUE_SELECT names the queue: an ignored one is also an ignored write. -/
def State.qOpWrite (q : Nat) (o : QOp) (n : Nat) (s : State) : State :=
  match (s.qSync q).qOpReason q o with
  | some e => (s.qOperate q o (.session n)).ignoreWrite n 0x4120 6 (0x8000 + e)
  | none => s.qOperate q o (.session n)

/-- The block that consumes a queue performs the operation (R293): the ingress unit, the transit switch or the engines READ; a port reads
by transmitting, and the scheduler by starting commands. -/
def State.unitActs (s : State) (q : Nat) (o : QOp) : Bool :=
  match o with
  | .read _ => (qFronthaul q && !s.qEgress q) || decide (q = 0x1000) || decide (q = 0x1001)
  | _ => !qRadio q

/-- A core performs the operation: a READ of its own it makes through XFER, which moves whole items (R297). -/
def State.coreActs (s : State) (core q : Nat) (o : QOp) : Bool :=
  match o with
  | .read _ => false
  | _ => s.coreReads core q || (qRadio q && s.logicalServes (q - 0x1200) core)

/-- An operation by whoever may perform it. -/
def State.qBy (s : State) (q : Nat) (o : QOp) (by_ : QueueUser) : State :=
  if !qExists q then s
  else match by_ with
    | .session n =>
      if !s.isOpen n || decide (s.sreg n .queueSelect ≠ q) then s
      else match Reg.writeRight .qOp (s.role n) with
        | some e => (s.ignoreWrite n 0x4120 6 e).answerWrite n Reg.qOp.ty
        | none => (s.qOpWrite q o n).answerWrite n Reg.qOp.ty
    | .core c => if s.coreActs c q o then (s.usedBy q c).qOperate q o by_ else s
    | .unit => if s.unitActs q o then s.qOperate q o by_ else s
    | .host => if qFronthaul q then s.qOperate q o by_ else s

def execQueueRead (q n : Nat) (by_ : QueueUser) (s : State) : Out := .next (s.qBy q (.read n) by_)
def execQueueRelease (q : Nat) (i : W32) (by_ : QueueUser) (s : State) : Out := .next (s.qBy q (.release i) by_)
def execMark (q : Nat) (by_ : QueueUser) (s : State) : Out := .next (s.qBy q .mark by_)
def execRewind (q : Nat) (by_ : QueueUser) (s : State) : Out := .next (s.qBy q .rewind by_)
def execFlush (q : Nat) (by_ : QueueUser) (s : State) : Out := .next (s.qBy q .flush by_)

/-- STALE_CHECK (R301). -/
def State.staleCheck (s : State) (q : Nat) : State :=
  let s := s.qSync q
  let x := s.queue q
  let t := s.reg .qStaleNs q
  if !s.qOn q || decide (t = 0) || decide (s.qDepth q = 0) || x.staleOut || decide (since64 s.qns x.since < (t : Int)) then s
  else (s.modQueue q fun x => { x with staleOut := true }).notice q 1

def execStaleCheck (q : Nat) (s : State) : Out := .next (if qExists q then s.staleCheck q else s)

/-- QUEUE_SAMPLE (R306). -/
def State.sample (s : State) (q : Nat) : State :=
  let s := s.qSync q
  if !s.qOn q then s
  else
    let d := s.qDepth q
    let vis := match (s.queue q).part with
      | some x => x.visTime
      | none => (s.qWord q (s.queue q).read).visTime
    let delay := if d = 0 then 0 else (s.qns + 2 ^ 64 - vis) % 2 ^ 32
    let s := (s.setReg .qSampleDepth d q).setReg .qSampleDelayNs delay q
    let s := (s.setReg .qMaxDepth (max d (s.reg .qMaxDepth q)) q).setReg .qMaxDelayNs (max delay (s.reg .qMaxDelayNs q)) q
    (s.bump .qDelaySumNs q delay).bump .qSamples q

def execQueueSample (q : Nat) (s : State) : Out := .next (if qExists q then s.sample q else s)

-- Configuration (R293, R305, R312, R313) --------------------

/-- Words of a die's pool that enabled queues hold (R293). -/
def State.poolUsed (s : State) (die except : Nat) : Nat :=
  ((dieQueues die).map fun q => if q ≠ except && s.qOn q then s.qCap q else 0).sum

/-- Enabled egress queues that name a port. -/
def State.egressCount (s : State) (port except : Nat) : Nat :=
  ((List.range 0x800).filter fun q => q ≠ except && s.qOn q && s.qEgress q && decide (s.reg .qEgressPort q = port)).length

/-- POOL_FREE_WORDS of a die. -/
def State.refreshPool (s : State) (die : Nat) : State := s.setReg .poolFreeWords (262144 - s.poolUsed die 0x800) die

/-- Q_CFG of queue `q` by a session of role `role`. -/
def State.qCfgWrite (q v role : Nat) (s : State) : Except Nat State :=
  let old := s.reg .qCfg q
  let v := if qFronthaul q then v else setBit (setBit v 30 false) 28 false
  let was := bit old 31
  let on := bit v 31 && !was
  let cap := field v 27 24
  let sized := qFronthaul q
  let port := s.reg .qEgressPort q
  if bit v 29 ≠ bit old 29 && role ≠ 4 then .error 0x8001
  else if on && sized && cap < 4 then .error 0x8010
  else if decide (field v 23 0 ≠ 0) then .error 0x8011
  else if was && decide (field v 28 24 ≠ field old 28 24 ∨ bit v 30 ≠ bit old 30) then .error 0x8012
  else if (on || (was && !bit v 31)) && qSession q then .error 0x8012
  else if on && sized && decide (262144 < s.poolUsed (qDie q) q + 2 ^ cap) then .error 0x8016
  else if on && bit v 28 && decide (port ≠ 0xFF) && decide (32 ≤ s.egressCount port q) then .error 0x8016
  else
    let s := if on then s.qEnable q else s
    let s := s.qSetRecovery q (bit v 29)
    let s := (s.setReg .qCfg v q).setReg .qStatus (if on then 0 else s.reg .qStatus q) q
    .ok (if sized then s.refreshPool (qDie q) else s)

def execQCfg (sess : Nat) (value : W32) (s : State) : Out :=
  let q := s.selected sess .queue
  .next (s.write sess .qCfg 0 value.toNat (State.qCfgWrite q value.toNat (s.role sess)))

/-- QUEUE_SELECT. -/
def State.queueSelectWrite (sess v : Nat) (s : State) : Except Nat State :=
  if qExists v then .ok (s.setSreg sess .queueSelect v) else .error 0x8010

def execQueueSelect (sess value : Nat) (s : State) : Out :=
  .next (s.write sess .queueSelect 0 value (State.queueSelectWrite sess (value % 2 ^ 16)))

/-- WFQ_COMMIT of a die. -/
def State.wfqCommit (die v : Nat) (s : State) : Except Nat State :=
  if v ≠ (s.reg .fhWfqEpoch die + 1) % 2 ^ 32 || s.fh.weightNext.contains die then .error 0x8013
  else .ok { s with fh := { s.fh with weightNext := s.fh.weightNext ++ [die] } }

def execWfqCommit (sess die value : Nat) (s : State) : Out :=
  .next (if die < 2 then s.write sess .fhWfqCommit die value (State.wfqCommit die (value % 2 ^ 32)) else s)

/-- POL_COMMIT of a die. -/
def State.polCommit (die v : Nat) (s : State) : Except Nat State :=
  if v ≠ (s.reg .polEpoch die + 1) % 2 ^ 32 || s.fh.profileNext.contains die then .error 0x8013
  else .ok { s with fh := { s.fh with profileNext := s.fh.profileNext ++ [die] } }

def execPolCommit (sess die value : Nat) (s : State) : Out :=
  .next (if die < 2 then s.write sess .polCommit die value (State.polCommit die (value % 2 ^ 32)) else s)

/-- PORT_MODE of a die. -/
def State.portModeWrite (die v : Nat) (s : State) : Except Nat State :=
  if 3 < v then .error 0x8010
  else if (List.range 8).any fun l => s.reg .fhPortEnable (die * 8 + l) = 1 then .error 0x8012
  else .ok (s.setReg .portMode v die)

def execPortMode (sess die value : Nat) (s : State) : Out :=
  .next (if die < 2 then s.write sess .portMode die value (State.portModeWrite die (value % 256)) else s)

-- Link changes (R287, R490) --------------------

/-- FRONTHAUL_LINK_CHANGE. -/
def execFronthaulLinkChange (port : Nat) (up fecLock : Bool) (s : State) : Out :=
  if !s.fhExists port || (up && !s.portsTrain) then .next s
  else
    .next { s with fh := { s.fh with linkUp := setBit s.fh.linkUp port up, fecLock := setBit s.fh.fecLock port fecLock } }

end Sys2Proof.Machine
end

