-- ==== Sys2Proof/Machine/Time.lean ====
section
/-! DEFINITION. Time bases, their servos' inputs, radio frames, slots and symbols, trigger outputs, captures and 1PPS (R315 to
R333). Each command that stands for an instant is the first CK cycle in which its instant has been reached. -/

namespace Sys2Proof.Machine

-- Ticks (R316, R318, R324) --------------------

/-- Context `c` stalls on an unbound PASID with a non-empty queue (R389). -/
def State.pasidStalled (s : State) (c : Nat) : Bool :=
  let x := s.ctx c
  s.queueRuns c && decide (x.page.head ≠ x.page.tail) && !s.pasidBound c

/-- What the host interface and the hub do at a CK tick: a Function Level Reset that completes gives host access back (R377), the
firmware adds to its trace ring of 262 144 entries (R381, R467), and a snapshot that waited for a hold goes on (R152, R366). -/
def State.hostTick (s : State) : State :=
  let new := (Config.traced s.ck).map fun w => (BitVec.ofNat 80 (time80 s.qns)) ++ w
  let t := s.faults.trace ++ new
  let s := ({ s with faults := { s.faults with trace := t.drop (t.length - 262144) } } : State).settleSnapshots
  match s.hif.flrEnd with
  | some e => if s.ck < e then s else ({ s with hif := { s.hif with access := true, flrEnd := none } }).checkAll
  | none => s

/-- CK_TICK. Fabric commands that waited for a hold look again (R152), and so do XFERs (R280). Service receive queues take the READ that
contexts have written (R297). Fabric ports send what is left, credits among it (R336 to R338, R361). The loam manager's drops of the
cycle that ends come last in it (R200). Mesh route tables that wait switch (R210). Turn holders without a ready command give up their
turns (R239). The host interface goes on (R377). Then NS64 of every time base advances by INCR, and counts of CK cycles advance. -/
def execCkTick (s : State) : Out :=
  if s.boot.inReset then .next s
  else
    let s : State := (s.wakeFabric.wakeXfer).syncServices.linkTick
    let s := { s.settleLoam.meshSettle.yieldTurns.hostTick with ck := s.ck + 1 }
    let s : State := (List.range 8).foldl (fun s t =>
      s.modTb t fun b => { b with count := (b.count + s.reg .incr t) % 2 ^ 96 }) s
    let s := s.bump .pasidStalls 0 (s.liveCtxs.filter s.pasidStalled).length
    let s : State := if s.reg .clkState = 1 then { s with power := { s.power with holdCk := s.power.holdCk + 1 } } else s
    .next s

/-- Registers whose compensations take effect at an apply tick (R329), with their places in Pins.comps. -/
def compRegs : List (Nat × Reg × Nat) :=
  ((List.range 8).map fun n => (n, Reg.trigCompNs, n)) ++ ((List.range 4).map fun n => (8 + n, Reg.capCompNs, n)) ++
    [(12, Reg.ppsInCompNs, 0), (13, Reg.ppsOutCompNs, 0)] ++ (List.range 8).map fun t => (16 + t, Reg.asymNs, t)

/-- What an apply tick does to time base `t` (R318). -/
def State.applyTb (s : State) (t : Nat) : State :=
  let b := s.tb t
  let s := match b.adjPending with
    | some a => ((s.setRegI .freqAdjPpb a t).setReg .incr (incrOf a) t).modTb t fun b => { b with adjPending := none }
    | none => s
  match b.stepPending with
  | some d =>
    let s := s.modTb t fun b => { b with stepPending := none, count := ofSigned 96 ((b.count : Int) + d * (2 ^ 32 : Nat)) }
    if s.reg .ppsOutCfg % 8 = t then { s with pins := { s.pins with ppsNext := s.ns t } } else s
  | none => s

/-- APPLY_TICK, in the CK cycle before whose advance it comes: its number is a multiple of 4 096. -/
def execApplyTick (s : State) : Out :=
  if (s.ck + 1) % 4096 ≠ 0 then .next s
  else
    let s := (List.range 8).foldl (fun s t => s.applyTb t) s
    let comps := compRegs.foldl (fun (t : Tab Nat) x => t.set 0 x.1 (s.reg x.2.1 x.2.2)) s.pins.comps
    .next { s with pins := { s.pins with comps } }

-- Writes of a time base's entries (R318, R319, R322) --------------------

/-- Trigger outputs: TRIG_CFG (R333). -/
def trigOn (w : Nat) : Bool := bit w 31
def trigTb (w : Nat) : Nat := field w 29 27
def trigMode (w : Nat) : Nat := field w 26 25
def trigCell (w : Nat) : Nat := field w 24 17

/-- An enabled cell names time base `t`. -/
def State.cellNames (s : State) (t : Nat) : Bool := s.enabledCells.any fun c => decide (s.cellTb c = t)

/-- STEP_NS, ignored while an enabled cell, a tilth table entry or an enabled TRIG output names the time base. -/
def State.stepWrite (t v : Nat) (s : State) : Except Nat State :=
  if s.cellNames t || s.tilthNames t || ((List.range 8).any fun n => trigOn (s.reg .trigCfg n) && decide (trigTb (s.reg .trigCfg n) = t))
  then .error 0x8012
  else .ok (s.modTb t fun b => { b with stepPending := some (b.stepPending.getD 0 + toSigned 64 v) })

def execStepNs (sess tb : Nat) (value : Int) (s : State) : Out :=
  .next (if tb < 8 then s.write sess .stepNs tb (ofSigned 64 value) (State.stepWrite tb (ofSigned 64 value)) else s)

/-- FRAME_OFFSET_NS, ignored while an enabled cell or a tilth table entry names the time base. -/
def State.frameOffsetWrite (t v : Nat) (s : State) : Except Nat State :=
  if s.cellNames t || s.tilthNames t then .error 0x8012 else .ok (s.setReg .frameOffsetNs v t)

def execFrameOffsetNs (sess tb value : Nat) (s : State) : Out :=
  .next (if tb < 8 then s.write sess .frameOffsetNs tb value (State.frameOffsetWrite tb (value % 2 ^ 64)) else s)

/-- Following from time base `a` on leads to `t`. -/
def State.follows (s : State) (t : Nat) : Nat → Nat → Bool
  | 0, _ => false
  | k + 1, a => decide (a = t) || (decide (s.reg .servoSrc a = 4) && decide (a < 8) && s.follows t k (s.reg .servoArg a))

/-- θ of SERVO_SRC 4: the offset to the time base that it follows, plus FOLLOW_OFFSET_NS (R319; DEDUCED, log entry 43). -/
def State.followTheta (s : State) (t : Nat) : Int := since64 (s.ns t) (s.ns (s.reg .servoArg t)) + s.regI .followOffsetNs t

/-- SERVO_SRC (R319, R321). -/
def State.servoSrcWrite (t v : Nat) (s : State) : Except Nat State :=
  if v = 4 && s.follows t 9 (s.reg .servoArg t) then .error 0x8012
  else
    let s := s.setReg .servoSrc v t
    if v = 0 then .ok ((s.setLock t 0).modTb t fun b => { b with good := 0 })
    else
      let s := if s.reg .lockState t = 0 then s.setLock t 1 else s
      .ok (if v = 4 then s.measure t (s.followTheta t) else s)

def execServoSrc (sess tb value : Nat) (s : State) : Out :=
  .next (if tb < 8 then s.write sess .servoSrc tb value (State.servoSrcWrite tb (value % 256)) else s)

/-- The Delay_Req of time base `t` from a port: its layout is that of IEEE 1588 over Ethernet (PRESUMED, log entries 76 and 85). -/
def State.delayReqFrame (s : State) (t port seq : Nat) : Frame :=
  let source := (Config.ptpPort port).toNat
  let dest := if Config.ptpForwardable then 0x011B19000000 else 0x0180C200000E
  let bs := beBytes 6 dest ++ s.fhMac port ++ beBytes 2 0x88F7 ++ beBytes 1 1 ++ beBytes 1 2 ++ beBytes 2 44 ++
    beBytes 1 (s.reg .ptpDomain t) ++ zeros 15 ++ beBytes 10 source ++ beBytes 2 seq ++ beBytes 1 1 ++ beBytes 1 0x7F ++ zeros 10
  { bytes := bs ++ leBytes 4 (crc32 bs), fcsOk := true, vlans := 0, vlanId := 0, pcp := 0, macControl := false
    body := .ptp .delayReq (s.reg .ptpDomain t) 0 ⟨source, seq, 0, 0, default⟩ }

/-- DELAY_REQ: a time base with a PTP source sends its next Delay_Req from the port of its chosen master, 16 in a second (R320). -/
def State.sendDelayReq (s : State) (t : Nat) : State :=
  let b := s.tb t
  match b.master with
  | some (port, _) =>
    if s.reg .servoSrc t ≠ 1 || !s.fhUp port || (decide (b.delayReqs ≠ 0) && decide (s.ck < b.delayReqCk + 51562500)) then s
    else
      let seq := (b.delayReqs + 1) % 2 ^ 16
      let f := s.delayReqFrame t port seq
      let s : State := { s with fh := { s.fh with sent := s.fh.sent.put port (some f) } }
      (s.bump .fhTxFrames port).modTb t fun b =>
        { b with delayReqs := b.delayReqs + 1, delayReqCk := s.ck, delayReqAt := some (s.stampNow t) }
  | none => s

def execDelayReq (tb : Nat) (s : State) : Out := .next (if tb < 8 then s.sendDelayReq tb else s)

/-- The mean of a list of adjustments, rounded to the nearest integer under R28. -/
def meanRne (l : List Int) : Int :=
  let t := l.sum
  let m := rneDiv t.natAbs l.length
  if t < 0 then -(m : Int) else m

/-- HOLDOVER_ENTRY (R321). -/
def execHoldoverEntry (tb : Nat) (s : State) : Out :=
  if s.reg .lockState tb ≠ 2 || decide (8 ≤ tb) || decide (s.ck < (s.tb tb).lastCk + s.reg .lossMs tb * 825000) then .next s
  else .next ((s.setLock tb 3).modTb tb fun b =>
    { b with good := 0, adjPending := if b.adjs = [] then b.adjPending else some (meanRne b.adjs) })

-- Frames, slots and symbols (R322) --------------------

/-- Position of time base `t` in its radio frame, in 2^-32 ns. -/
def State.frameFrac (s : State) (t : Nat) : Nat :=
  ((s.tb t).count + (frameNs - s.reg .frameOffsetNs t % frameNs) * 2 ^ 32) % (frameNs * 2 ^ 32)

/-- This CK cycle is the first in which a multiple of `period` ns of the frame, plus `start`, has been reached. -/
def State.reached (s : State) (t period start : Nat) : Bool :=
  let x := s.frameFrac t % (period * 2 ^ 32)
  decide (start * 2 ^ 32 ≤ x) && decide (x < start * 2 ^ 32 + s.reg .incr t)

/-- Start of symbol `l` of a millisecond, in ns, with normal cyclic prefix: 2 192 / 2^μ units of 1/30.72 MHz a symbol, and 16 more for
the first of each half. -/
def symbolNs (mu l : Nat) : Nat :=
  (l * (2192 / 2 ^ mu) + (if 1 ≤ l then 16 else 0) + (if 7 * 2 ^ mu < l then 16 else 0)) * 3125 / 96

/-- Symbol starts of a millisecond. -/
def symbolStarts (mu : Nat) : List Nat := (List.range (14 * 2 ^ mu)).map (symbolNs mu)

/-- Raises an event of a cell on the cores of its die whose window is the cell's (R259, R261). -/
def State.cellEvent (s : State) (cell type at_ : Nat) : State :=
  (List.range 96).foldl (fun s k => if (s.core k).window = cell + 1 ∧ s.cellBd cell = k / 48 then s.raiseEvent k type cell at_ else s) s

/-- A cell that raises no SLOT or SYMBOL event: it is disabled, lost with a stack, or has left by a move (R281, R465). -/
def State.cellSilent (s : State) (cell : Nat) : Bool := !(s.cell cell).enabled || (s.cell cell).lost || s.leaving cell

/-- A destination raises no event of the cell yet: frame F + 1 has not begun, or the descriptors, state block and gain state have not
landed (R281). -/
def State.awaiting (s : State) (cell : Nat) : Bool :=
  s.coming cell || (s.arriving cell && decide ((s.cell cell).landed < s.moveBytes cell))

/-- SLOT_BOUNDARY: the slot under way ends with its gains and report, and the next one begins. -/
def State.slotBoundary (s : State) (cell : Nat) : State :=
  let t := s.cellTb cell
  let slot := s.inFrame t / slotNs (s.cellScs cell)
  let x := s.cell cell
  if s.cellSilent cell || !s.reached t (slotNs (s.cellScs cell)) 0 || (x.begun && x.sfn = s.sfnNow t && x.slot = slot) then s
  else
    let s := s.endSlot cell
    let s := s.modCell cell fun x => { x with sfn := s.sfnNow t, slot, symbol := 0, begun := true, overran := x.overran && decide (slot ≠ 0) }
    if s.awaiting cell then s else s.cellEvent cell 2 slot

def execSlotBoundary (cell : Nat) (s : State) : Out := .next (s.slotBoundary cell)

/-- SYMBOL_BOUNDARY. -/
def State.symbolBoundary (s : State) (cell : Nat) : State :=
  let t := s.cellTb cell
  let mu := s.cellScs cell
  if s.cellSilent cell then s
  else match ((symbolStarts mu).zipIdx).find? fun p => s.reached t 1000000 p.1 with
    | some (_, l) =>
      let s := s.modCell cell fun x => { x with symbol := l % 14 }
      if s.symbolEv cell && !s.awaiting cell then s.cellEvent cell 3 (l % 14) else s
    | none => s

def execSymbolBoundary (cell : Nat) (s : State) : Out := .next (s.symbolBoundary cell)

-- Radio frame boundaries --------------------

/-- Contexts whose hood area lies in the radio region that the entries now ask for. -/
def State.hoodsInRadio (s : State) : List Nat :=
  s.liveCtxs.filter fun c => match (s.ctx c).alloc.hood with
    | some h => (bitsOf 12 s.tier.radioStackMask).any fun n =>
        overlap (s.localDpa n) s.tier.radioStackBytes h ((s.ctx c).alloc.hoodFrames * frameBytes)
    | none => false

/-- A waiting change of RADIO_STACK_MASK or RADIO_STACK_BYTES applies to every stack once no tenant's hood area is in the way;
bytes that leave the region are cleared (R211). -/
def State.switchRadioStack (s : State) : State :=
  if !s.tier.radioStackWait then s
  else
    let m0 := s.tier.radioStackMask
    let b0 := s.tier.radioStackBytes
    let m := s.reg .radioStackMask
    let b := s.reg .radioStackBytes
    let s1 := { s with tier := { s.tier with radioStackMask := m, radioStackBytes := b, radioStackWait := false } }
    let s2 := s1.hoodsInRadio.foldl (fun s c =>
      let a := (s.ctx c).alloc
      match a.engine with
      | some e => (s.newHood c (e / 8) a.hoodFrames).getD s
      | none => (s.newHood c (a.hoodDie - 1) a.hoodFrames).getD s) s1
    if s2.hoodsInRadio ≠ [] then s
    else (bitsOf 12 m0).foldl (fun s n =>
      let keep := if bit m n then min b b0 else 0
      s.clear (s.localDpa n + keep) (b0 - keep)) s2

/-- The change is due at a frame boundary of time base `t`: an enabled cell names it, or no cell is enabled. -/
def State.radioStackBoundary (s : State) (t : Nat) : State :=
  if s.cellNames t || s.enabledCells = [] then s.switchRadioStack else s

/-- What a frame boundary does to one of its time base's cells. -/
def State.cellBoundary (s : State) (t cell : Nat) : State :=
  let x := s.cell cell
  if s.cellTb cell ≠ t then s
  else
    let s := if x.lost then
        ((((s.endSlot cell).setReg .cellCfg (setBit (s.cellCfg cell) 31 false) cell).clearCell cell).disableCell cell).modCell cell
          fun x => { x with lost := false }
      else s
    let s := match x.want with
      | some true => if s.boot.cellsWait.contains cell || s.power.vbbOut then s else s.enableCell cell
      | some false => (s.endSlot cell).disableCell cell
      | none => s
    let s := if s.boot.cellsWait.contains cell && decide (s.reg .lockState t = 2) then
        { s.enableCell cell with boot := { s.boot with cellsWait := s.boot.cellsWait.filter (· ≠ cell) } }
      else s
    match x.move with
    | some (peer, 0, f) =>
      if !x.moving && decide (s.sfnNow t = (f + 1) % 1024) then
        ((s.endSlot cell).modCell cell fun x => { x with moving := true, moveCk := s.ck }).sendCellState cell peer
      else s
    | some (_, _, f) =>
      if !x.moving && decide (s.sfnNow t = f) then s.modCell cell fun x => { x with moving := true, moveCk := s.ck } else s
    | none => s

/-- RADIO_FRAME_BOUNDARY of time base `t`. -/
def State.frameBoundary (s : State) (t : Nat) : State :=
  if !s.reached t frameNs 0 then s
  else
    let s := (s.tilthSwitch t).radioStackBoundary t
    ((List.range 256).foldl (fun s c => s.cellBoundary t c) s).radioCheckAll

def execRadioFrameBoundary (tb : Nat) (s : State) : Out := .next (if tb < 8 then s.frameBoundary tb else s)

-- Trigger outputs (R325, R326) --------------------

/-- Rounds a signed distance up to a multiple. -/
def upTo (p : Nat) (x : Int) : Int := if x ≤ 0 then 0 else (ceilDiv x.toNat p * p : Nat)

/-- Boundaries within a millisecond or a frame that a mode names: the period and the starts in it. -/
def boundaryStarts (mode mu : Nat) : Nat × List Nat :=
  match mode with
  | 1 => (frameNs, [0])
  | 2 => (slotNs mu, [0])
  | _ => (1000000, symbolStarts mu)

/-- The first boundary at or after `x`, counted from `off`. -/
def nextBoundary (off x : Nat) (p : Nat × List Nat) : Nat :=
  let y := (x + frameNs - off % frameNs) % frameNs
  let z := y % p.1
  match p.2.find? fun b => decide (z ≤ b) with
  | some b => (x + (b - z)) % 2 ^ 64
  | none => (x + (p.1 - z)) % 2 ^ 64

/-- The first scheduled edge of output `n` at or after NS64 `x`. -/
def State.trigAfter (s : State) (n x : Nat) : Option Nat :=
  let w := s.reg .trigCfg n
  if trigMode w = 0 then
    let st := s.reg .trigStart n
    let p := s.reg .trigPeriodNs n
    let r := since64 x st
    if r ≤ 0 then some st
    else if p = 0 then none
    else some (ofSigned 64 (st + upTo p r))
  else some (nextBoundary (s.reg .frameOffsetNs (trigTb w)) x (boundaryStarts (trigMode w) (s.cellScs (trigCell w))))

/-- The edge to come of an enabled output, less its compensation. -/
def State.trigDue (s : State) (n : Nat) : Option (Nat × Nat) :=
  if !trigOn (s.reg .trigCfg n) then none
  else (s.trigAfter n (s.pins.trigNext.get 0 n)).map fun e => (e, ofSigned 64 ((e : Int) - s.comp n))

/-- In modes 2 and 3, an edge needs its cell enabled on the output's time base. -/
def State.trigCellOn (s : State) (w : Nat) : Bool :=
  decide (trigMode w < 2) || ((s.cell (trigCell w)).enabled && decide (s.cellTb (trigCell w) = trigTb w))

/-- An instant of time base `t` was reached before the present CK cycle (R326). -/
def State.passed (s : State) (t due : Nat) : Bool :=
  decide (0 ≤ since64 (((s.tb t).count + 2 ^ 96 - s.reg .incr t) % 2 ^ 96 / 2 ^ 32) due)

/-- The edge of output `k` that the instant `due` of time base `t` asks for lies in one of the two eighths of the CK cycle about it
(R325). -/
def State.placeEdge (s : State) (k t due : Nat) : State :=
  let (later, s) := s.draw Config.edgeLater
  let x := ((due * 2 ^ 32 + 2 ^ 97 + s.reg .incr t - (s.tb t).count) % 2 ^ 96) * 8 / s.reg .incr t
  { s with pins := { s.pins with edgeAt := s.pins.edgeAt.put k (min 7 (x + if later then 1 else 0)) } }

/-- TRIG_EDGE: an edge now due is produced; one that has passed counts in TRIG_MISSED. -/
def State.trigEdge (s : State) (n : Nat) : State :=
  match s.trigDue n with
  | none => s
  | some (e, due) =>
    let w := s.reg .trigCfg n
    let late := since64 (s.ns (trigTb w)) due
    if late < 0 then s
    else
      let s := { s with pins := { s.pins with trigNext := s.pins.trigNext.set 0 n ((e + 1) % 2 ^ 64) } }
      if !s.trigCellOn w then s
      else if s.passed (trigTb w) due then s.bump .trigMissed n
      else
        let s := s.placeEdge n (trigTb w) due
        { s with pins := { s.pins with
        trig := setBit s.pins.trig n true
        trigPol := setBit s.pins.trigPol n (bit w 30)
        trigEnd := s.pins.trigEnd.put n ((due + s.reg .trigWidthNs n) % 2 ^ 64, trigTb w) } }

def execTrigEdge (n : Nat) (s : State) : Out := .next (if n < 8 then s.trigEdge n else s)

/-- TRIG_PULSE_END. -/
def execTrigPulseEnd (n : Nat) (s : State) : Out :=
  let (stop, t) := s.pins.trigEnd.at n
  .next (if n < 8 && bit s.pins.trig n && decide (0 ≤ since64 (s.ns t) stop) then
    { s with pins := { s.pins with trig := setBit s.pins.trig n false, trigEnd := s.pins.trigEnd.erase n } } else s)

/-- Shortest distance between neighbours of a list. -/
def leastGap : List Nat → Option Nat
  | a :: b :: l => match leastGap (b :: l) with
    | some g => some (min (b - a) g)
    | none => some (b - a)
  | _ => none

/-- Spacing of the edges that configuration `w` gives output `n`; none for a single edge. -/
def State.trigSpacing (s : State) (n w : Nat) : Option Nat :=
  match trigMode w with
  | 0 => if s.reg .trigPeriodNs n = 0 then none else some (s.reg .trigPeriodNs n)
  | 1 => some frameNs
  | 2 => some (slotNs (s.cellScs (trigCell w)))
  | _ => leastGap (symbolStarts (s.cellScs (trigCell w)) ++ [1000000])

/-- The rules of R325 for an enabled output. -/
def State.trigRulesOk (s : State) (n w width : Nat) : Bool :=
  (match s.trigSpacing n w with
    | some g => decide (width < g)
    | none => true) && (decide (trigMode w < 2) || decide (s.cellTb (trigCell w) = trigTb w))

/-- TRIG_CFG of output `n`: while ENABLE is 1 only ENABLE changes. -/
def State.trigCfgWrite (n v : Nat) (s : State) : Except Nat State :=
  let old := s.reg .trigCfg n
  if trigOn old then .ok (s.setReg .trigCfg (setBit old 31 (trigOn v)) n)
  else if !trigOn v then .ok (s.setReg .trigCfg v n)
  else if !s.trigRulesOk n v (s.reg .trigWidthNs n) then .error 0x8010
  else
    let now := s.ns (trigTb v)
    let s := s.setReg .trigCfg v n
    let s := { s with pins := { s.pins with trigNext := s.pins.trigNext.set 0 n now, trigDriven := setBit s.pins.trigDriven n true } }
    .ok (s.bumpIf (trigMode v = 0 && decide (s.reg .trigPeriodNs n = 0) && decide (0 < since64 now (s.reg .trigStart n))) .trigMissed n)

def execTrigCfg (sess n : Nat) (value : W32) (s : State) : Out :=
  .next (if n < 8 then s.write sess .trigCfg n value.toNat (State.trigCfgWrite n value.toNat) else s)

-- Captures and 1PPS (R327, R328) --------------------

/-- CAP_CFG, CAP_OVERRUN and their instance for an input; input 4 is the 1PPS input. -/
def capRegs (n : Nat) : Reg × Reg × Nat := if n = 4 then (.ppsInCfg, .ppsInOverrun, 0) else (.capCfg, .capOverrun, n)

/-- NS64 of time base `t` at eighth `k` of the CK cycle, corrected by the compensation of input `n` (R327). -/
def State.capNs (s : State) (n k t : Nat) : Nat :=
  ofSigned 64 ((((s.tb t).count + k * s.reg .incr t / 8) / 2 ^ 32 : Nat) - s.comp (8 + n))

/-- A record of R327. -/
def State.capRecord (s : State) (n k : Nat) (falling : Bool) : Bytes :=
  leBytes 4 (s.pins.capSeq.get 0 n) ++ leBytes 4 (if falling then 1 else 0) ++
    (List.range 8).flatMap fun t => leBytes 8 (s.capNs n k t)

/-- Signed distance of a time from the next multiple of `p`: the first one at or after it (R319). -/
def offMultiple (x p : Nat) : Int := if p = 0 then 0 else (x : Int) - (ceilDiv x p * p : Nat)

/-- Time bases whose servo takes its offsets from input `n`. -/
def State.capMeasure (s : State) (n k : Nat) : State :=
  (List.range 8).foldl (fun s t =>
    let x := s.capNs n k t
    if n = 4 then (if s.reg .servoSrc t = 2 then s.measure t (offMultiple x (10 ^ 9)) else s)
    else if s.reg .servoSrc t = 3 ∧ s.reg .servoArg t = n then s.measure t (offMultiple x (s.reg .capPeriodNs t)) else s) s

/-- An edge on a capture input. -/
def State.capEdge (s : State) (n : Nat) (falling : Bool) : State :=
  let (cfg, over_, i) := capRegs n
  let w := s.reg cfg i
  let wanted := match w % 4 with
    | 0 => !falling
    | 1 => falling
    | _ => true
  let last := s.pins.capLast.get 0 n
  if !bit w 7 || !wanted then s
  else
    let (k, s) := s.draw Config.edgePhase
    let k := k % 8
    let at_ := s.ck * 8 + k + 1
    if last ≠ 0 && decide ((at_ - last) * 40 < 20 * 33 * 8) then s.bump over_ i
    else
      let s := { s with pins := { s.pins with capLast := s.pins.capLast.set 0 n at_ } }
      let q := s.pins.caps.get [] n
      let s := if 16 ≤ q.length then s.bump over_ i
        else { s with pins := { s.pins with
          caps := s.pins.caps.set [] n (q ++ [s.capRecord n k falling])
          capSeq := s.pins.capSeq.set 0 n ((s.pins.capSeq.get 0 n + 1) % 2 ^ 32) } }
      s.capMeasure n k

def execCapEdge (n : Nat) (falling : Bool) (s : State) : Out := .next (if n < 4 then s.capEdge n falling else s)

def execPpsInEdge (falling : Bool) (s : State) : Out := .next (s.capEdge 4 falling)

/-- Removes the oldest record of an input; no bytes when there is none. -/
def State.capTake (s : State) (n : Nat) : Bytes × State :=
  match s.pins.caps.get [] n with
  | r :: q => (r, { s with pins := { s.pins with caps := s.pins.caps.set [] n q } })
  | [] => ([], s)

/-- A READ of CAP_READ or PPS_IN_READ by an open session, answered with the record. -/
def State.capReadBy (s : State) (sess n : Nat) : State :=
  if !s.isOpen sess then s
  else
    let (r, s) := s.capTake n
    s.answer sess (s.opResult sess 0 Reg.capRead.ty r)

def execCapRead (sess n : Nat) (s : State) : Out := .next (if n < 4 then s.capReadBy sess n else s)

def execPpsInRead (sess : Nat) (s : State) : Out := .next (s.capReadBy sess 4)

/-- PPS_OUT_EDGE: the next whole second of PPS_OUT_TB, less the compensation, is due; late ones are not produced. -/
def execPpsOutEdge (s : State) : Out :=
  let w := s.reg .ppsOutCfg
  let t := w % 8
  let e : Nat := ceilDiv s.pins.ppsNext (10 ^ 9) * 10 ^ 9
  let due : Nat := ofSigned 64 ((e : Int) - s.comp 13)
  let late := since64 (s.ns t) due
  if !bit w 7 || decide (late < 0) then .next s
  else
    let s := { s with pins := { s.pins with ppsNext := e + 1 } }
    let held := decide (s.reg .lockState t = 2) || decide (s.reg .lockState t = 3)
    .next (if s.passed t due || (bit w 6 && !held) then s
      else
        let s := s.placeEdge 8 t due
        { s with pins := { s.pins with ppsOut := true, ppsEnd := (due + s.reg .ppsOutWidthNs) % 2 ^ 64, ppsTb := t } })

/-- PPS_OUT_PULSE_END. -/
def execPpsOutPulseEnd (s : State) : Out :=
  .next (if s.pins.ppsOut && decide (0 ≤ since64 (s.ns s.pins.ppsTb) s.pins.ppsEnd) then
    { s with pins := { s.pins with ppsOut := false } } else s)

/-- PPS_OUT_CFG: seconds count from now on. -/
def State.ppsOutWrite (v : Nat) (s : State) : Except Nat State :=
  .ok { s.setReg .ppsOutCfg v with pins := { s.pins with ppsNext := s.ns (v % 8) } }

-- Calibration (R329) --------------------

/-- A unit may be measured: an output line has no edge due within 2 µs. -/
def State.calReady (s : State) (u : CalUnit) : Bool :=
  match u with
  | .trig n => decide (n < 8) && match s.trigDue n with
    | some (_, due) => decide (2000 < (since64 (s.ns (trigTb (s.reg .trigCfg n))) due).natAbs)
    | none => true
  | .ppsOut =>
    let x := ((s.ns (s.reg .ppsOutCfg % 8) : Int) + s.comp 13) % 10 ^ 9
    !bit (s.reg .ppsOutCfg) 7 || decide (x + 2000 < 10 ^ 9)
  | .cap n => decide (n < 4)
  | .ppsIn => true
  | .port p => s.fhExists p

def execCalibration (unit : CalUnit) (s : State) : Out := .next (s.bumpIf (s.calReady unit) .calRuns)

end Sys2Proof.Machine
end

