-- ==== Sys2Proof/Machine/Home.lean ====
section
/-! DEFINITION. Arriving flits and packets, the home logic, responses, and buddy copies (R336 to R344, R354 to R369). -/

namespace Sys2Proof.Machine

-- Flits (R336 to R338) --------------------

def State.modPort (s : State) (p : Nat) (f : Port → Port) : State := s.setPort p (f (s.port p))

/-- A fabric port is fitted and in service. -/
def State.xpFitted (s : State) (p : Nat) : Bool := bit s.xpService p

/-- Flits of a replay buffer that an acknowledgement of `seq` covers. -/
def ackedBy (seq : Nat) (l : List Flit) : Nat :=
  match l.findIdx? fun f => field f.header.toNat 63 52 = seq with
  | some i => i + 1
  | none => 0

/-- A port begins to retrain, keeping its replay buffer and sequences. -/
def State.retrainPort (s : State) (p : Nat) : State :=
  if !(s.port p).up || (s.port p).retraining then s
  else (s.modPort p fun x => { x with retraining := true, naks := 0, retrainCk := s.ck }).bump .retrains p

/-- The acknowledgement, NAK and credit fields of a flit taken in order: what a NAK asks for is sent again, in order (R337). -/
def State.linkFields (s : State) (p h : Nat) : State :=
  let seq := field h 51 40
  let s := if bit h 39 || bit h 38 then
      s.modPort p fun x =>
        let k := ackedBy seq x.replay
        { x with replay := x.replay.drop k, naks := if k = 0 then x.naks else 0, ackCk := if k = 0 then x.ackCk else s.ck }
    else s
  let s := s.modPort p fun x =>
    let c := field h 37 36
    { x with used := x.used.set 0 c (x.used.get 0 c - field h 35 24) }
  if bit h 38 then
    let s := (s.modPort p fun x => { x with naks := x.naks + 1 }).bump .replays p
    if 8 ≤ (s.port p).naks then s.retrainPort p else s.modPort p fun x => { x with tx := x.tx ++ x.replay }
  else s

/-- FEC of a flit that arrives (R371): codewords corrected, and some that could not be when its CRC fails. -/
def State.fecCount (s : State) (p : Nat) (bad : Bool) : State :=
  let (a, s) := s.draw Config.fecCorrected
  let (b, s) := if bad then s.draw Config.fecUncorrected else (0, s)
  s.modPort p fun x => { x with fecOk := x.fecOk + a.toNat, fecBad := x.fecBad + b.toNat }

-- Packets (R343) --------------------

/-- Drops a packet with its counter and report; cases count from 1 in the order of R343's table. -/
def State.dropPacket (s : State) (port case_ : Nat) (r : Reg) (p : Packet) : State :=
  (s.bump r).raise { s.record 0x0404 0 7 port with suspect := p.src, job := p.job, data := case_ }

/-- Malformed: a reserved bit set, DGEN in a packet of a job, KIND 0xF, LEN out of range, or an ATOMIC that is none (R343). -/
def Packet.bad (p : Packet) : Bool :=
  decide (p.kind = 0xF) || !p.lenOk || (decide (p.job ≠ 0) && decide (p.dgen ≠ 0)) ||
    (decide (p.kind = pkAtomic) && (decide (5 < atomicAop p) || decide (field (atomicHead p) 31 0 ≠ 0)
      || decide ((p.len - 16) % (aopBytes (atomicAop p)).2 ≠ 0)))

/-- SRC_PKG is a member of the packet's enabled job. -/
def State.memberOf (s : State) (p : Packet) : Bool :=
  decide (p.job = 0) || match s.jobIndex p.job with
    | some i => bit (cfgMembers (s.jobBits i)) p.src
    | none => false

/-- A packet's bytes have arrived at a port: header, ciphertext and tag. -/
def State.takePacket (s : State) (port : Nat) (bs : Bytes) : State :=
  let p := headerOf bs
  let s := (s.bump .fabRxBytes port bs.length).modPort port fun x =>
    { x with owed := x.owed.set 0 p.cls (x.owed.get 0 p.cls + ceilDiv bs.length 64) }
  if !s.fabricOn then s.dropPacket port 2 .droppedUnknownJob p
  else if p.dst ≠ s.pkg then s.dropPacket port 1 .droppedMisrouted p
  else if !s.memberOf p then s.dropPacket port 2 .droppedUnknownJob p
  else
    let c := slice bs 24 p.carried
    let t := slice bs (24 + p.carried) 16
    match s.packetKey p with
    | none => s.dropPacket port 2 .droppedUnknownJob p
    | some k => match gcmOpen k p.iv p.header c t with
      | none => s.dropPacket port 3 .authFails p
      | some payload =>
        let p := { p with payload }
        if p.bad then s.dropPacket port 4 .droppedMalformed p
        else { s with fab := { s.fab with arrived := s.fab.arrived ++ [p] } }

/-- Takes whole packets from the front of a port's bytes; zeros in place of a header are padding. -/
def State.parsePackets (s : State) (port : Nat) : Nat → Bytes → State
  | 0, bs => s.modPort port fun x => { x with rx := bs }
  | n + 1, bs =>
    if bs.length < 24 then s.modPort port fun x => { x with rx := bs }
    else if (bs.take 24).all (· = 0) then s.modPort port fun x => { x with rx := [] }
    else if bs.length < (headerOf bs).wireLen then s.modPort port fun x => { x with rx := bs }
    else (s.takePacket port (bs.take (headerOf bs).wireLen)).parsePackets port n (bs.drop (headerOf bs).wireLen)

/-- Packet bytes of a data flit: they go on with a packet under way, unless a header begins the flit, or start at PKT_START. -/
def State.flitData (s : State) (port h : Nat) (bs : Bytes) : State :=
  let rx := (s.port port).rx
  let start := field h 23 16
  let bs := if start = 0 then bs else if rx ≠ [] then rx ++ bs else if start = 0xFF then [] else bs.drop start
  s.parsePackets port 12 bs

/-- FLIT_RECEIVED. -/
def State.flitIn (s : State) (port : Nat) (f : Flit) : State :=
  let x := s.port port
  let h := f.header.toNat
  if !x.up || !s.xpFitted port || decide (s.reg .fabPortEnable port = 0) then s
  else if decide (f.payload.length ≠ 244) || decide (f.crc.toNat ≠ crc32c (leBytes 8 h ++ f.payload)) then
    ((s.fecCount port true).bump .crcErrors port).modPort port fun x => { x with nakOut := true, discarding := true }
  else
    let s := s.fecCount port false
    let idle := decide (field h 15 14 = 0)
    let want := if idle then x.rxSeq else (x.rxSeq + 1) % 4096
    if field h 63 52 ≠ want then s.modPort port fun x => { x with nakOut := x.nakOut || !x.discarding, discarding := true }
    else
      let s := (s.modPort port fun x => { x with rxSeq := want, discarding := x.discarding && idle }).linkFields port h
      (if field h 15 14 = 1 then s.flitData port h f.payload else s).flushFabric

def execFlitReceived (port : Nat) (f : Flit) (s : State) : Out := .next (if port < 16 then s.flitIn port f else s)

/-- 5 µs have passed with flits outstanding and no acknowledgement, or a flit has been NAKed 8 times in a row (R337). -/
def State.mustRetrain (s : State) (port : Nat) : Bool :=
  let x := s.port port
  decide (8 ≤ x.naks) || (decide (x.replay ≠ []) && decide (x.ackCk + 4125 ≤ s.ck))

/-- RETRAIN. -/
def execRetrain (port : Nat) (s : State) : Out := .next (if port < 16 && s.mustRetrain port then s.retrainPort port else s)

/-- FABRIC_PORT_DOWN: unacknowledged flits are dropped. -/
def State.portDown (s : State) (port : Nat) : State :=
  if !(s.port port).up then s
  else (s.setPort port { (s.port port) with
    up := false, retraining := false, replay := [], naks := 0, nakOut := false, discarding := false, used := [], owed := [], rx := [],
    fill := [], fillStarts := [], tx := [] }).fault 0x0401 3 7 port

/-- FABRIC_PORT_DOWN, of a port that has not retrained after 2 ms (R337). -/
def execFabricPortDown (port : Nat) (s : State) : Out :=
  let x := s.port port
  .next (if x.retraining && decide (x.retrainCk + 1650000 ≤ s.ck) then s.portDown port else s)

/-- FABRIC_LINK_UP: a retrain has ended and the replay resumes, or a link has come up afresh. -/
def execFabricLinkUp (port peer : Nat) (s : State) : Out :=
  if !s.xpFitted port || !s.portsTrain then .next s
  else
    let s := s.setReg .peerId peer port
    let s := if (s.port port).up then s.modPort port fun x =>
        { x with retraining := false, ackCk := s.ck, tx := if x.retraining then x.replay else x.tx }
      else s.setPort port { (default : Port) with
        up := true, txSeq := 1, fecOk := (s.port port).fecOk, fecBad := (s.port port).fecBad }
    .next s.flushFabric

-- What arrived (R360) --------------------

/-- Two requests touch a line in common. -/
def sameLine (p q : Packet) : Bool :=
  let (a, m) := p.extent
  let (b, n) := q.extent
  decide (a / 64 ≤ (b + n - 1) / 64) && decide (b / 64 ≤ (a + m - 1) / 64)

/-- The first arrived packet of a kind that does not wait, and that no earlier request to one of its lines holds up. -/
def firstOf (kind : Nat) (waits : Packet → Bool) : List Packet → List Packet → Option Packet
  | _, [] => none
  | before, p :: ps =>
    if p.kind = kind ∧ !waits p ∧ !(p.atHome && before.any fun q => q.atHome && sameLine p q) then some p
    else firstOf kind waits (before ++ [p]) ps

def State.arrivedOf (s : State) (kind : Nat) (waits : Packet → Bool := fun _ => false) : Option Packet :=
  firstOf kind waits [] s.fab.arrived

/-- Removes the packet from what has arrived. -/
def State.takeArrived (s : State) (p : Packet) : State := { s with fab := { s.fab with arrived := s.fab.arrived.erase p } }

-- Home logic (R354 to R358) --------------------

/-- A DPA that a home never serves: reserved, or a loam, buddy, shadow or ledger frame or a radio region. -/
def State.barred (s : State) (a : Nat) : Bool :=
  if !s.dpaExists a then true
  else if padBase ≤ a then
    let die := (a - padBase) / 2 ^ 26
    let o := (a - padBase) % 2 ^ 26
    if o < 2 ^ 25 then
      let e := die * 8 + o / 2 ^ 22
      decide (s.tenantGranules e * granule ≤ o % 2 ^ 22)
    else decide (2 ^ 25 - s.radioKeepShared die ≤ o - 2 ^ 25)
  else
    let f := a / frameBytes
    let ledger := match s.tier.frames.get .free f with
      | .ledger _ => true
      | _ => false
    let radio := (bitsOf 12 s.tier.radioStackMask).any fun n => overlap (s.localDpa n) s.tier.radioStackBytes a 1
    ledger || radio || (decide (s.openTop ≤ f) && decide (a < s.zoneBytes))

/-- Whether a home serves a packet of job entry `i` (R354); else the reason of its refusal. -/
def State.serveReason (s : State) (i : Nat) (p : Packet) (right : Nat → Bool) : Option Nat :=
  let (a, n) := p.extent
  let bytes := (List.range n).map (a + ·)
  let region := findRegion (s.jobEntry i).windows (s.pkg * 2 ^ 41 + a) n
  let granted := match region with
    | some r => right r
    | none => false
  let own := s.tier.regions.get [] (cfgSlice (s.jobBits i))
  if bytes.any s.barred then some 0x0003
  else if granted then none
  else if bytes.all fun b => own.contains (b / frameBytes) then none
  else if bytes.all fun b => (s.homeAlloc i b).isSome then none
  else if region.isSome then some 0x0002
  else some 0x0001

/-- Bytes of the extent that an uncorrectable word covers (R462). -/
def State.homeBad (s : State) (i : Nat) (p : Packet) : Bool :=
  (List.range p.extent.2).any fun k => s.badIn (s.homeDpa i (p.dpa + k) / 8 * 8) 8

/-- A request that the home serves waits while a command holds one of its bytes (R152, R355, R356). -/
def State.homeWaits (s : State) (right : Nat → Bool) (p : Packet) : Bool :=
  match s.jobIndex p.job with
  | some i => decide (s.serveReason i p right = none) &&
      runsHit ((List.range p.extent.2).map fun k => (s.homeDpa i (p.dpa + k), 1)) (s.heldRuns none)
  | none => false

/-- Serves the first request of a kind that does not wait: an uncorrectable word is reported and not answered (R462), and `f` applies
it. -/
def State.serve (s : State) (kind : Nat) (right : Nat → Bool) (f : State → Nat → Packet → State) : State :=
  match s.arrivedOf kind (s.homeWaits right) with
  | none => s
  | some p =>
    match s.jobIndex p.job with
    | none => (s.takeArrived p).refusePacket p 0x0001
    | some i => match s.serveReason i p right with
      | some r => (s.takeArrived p).refusePacket p r
      | none =>
        if s.homeBad i p then
          let bads := ((List.range p.extent.2).map fun k => s.homeDpa i (p.dpa + k) / 8 * 8).filter fun a => s.badIn a 8
          (s.takeArrived p).badRecord 0x0103 2 (bads.headD 0) 0xFFFF p.job
        else f (s.takeArrived p) i p

/-- FABRIC_READ. -/
def execFabricRead (s : State) : Out :=
  .next (s.serve pkRead regionRead fun s i p => s.respond p pkReadData (s.homeRead i p.dpa p.len))

/-- Writes bytes where the home finds them. -/
def State.homeWrite (s : State) (i a : Nat) (bs : Bytes) : State :=
  (bs.zipIdx).foldl (fun s b => s.wr (s.homeDpa i (a + b.2)) b.1) s

/-- FABRIC_WRITE. -/
def execFabricWrite (s : State) : Out :=
  .next (s.serve pkWrite regionWritable fun s i p => (s.homeWrite i p.dpa p.payload).respond p pkWriteAck [])

/-- What an atomic operation leaves at the home (R357): `home` and `el` are the element's bytes there and in the packet. -/
def atomicApply (aop : Nat) (home el : Bytes) : Bytes :=
  match aop with
  | 0 | 1 => leBytes 8 (leNat home + leNat el)
  | 2 => el
  | 3 => if el.take 8 = home then el.drop 8 else home
  | 4 => leBytes 4 (fp32Code (fp32Add (fmtFP32.decode (leNat home)) (fmtFP32.decode (leNat el))))
  | _ => leBytes 32 (kaoAtomicAdd (leNat home) (leNat el))

/-- Elements of an ATOMIC from number `k` on, applied in order under the ledger slot: those already applied give their saved prior
value (R358). -/
def State.atomicLoop (s : State) (i member : Nat) (p : Packet) : Nat → Nat → Bytes → Bytes × State
  | 0, _, _ => ([], s)
  | n + 1, k, bs =>
    let aop := atomicAop p
    let (w, c) := aopBytes aop
    let idx := field (atomicHead p) 47 36 + k
    let l := (s.jobEntry i).ledger.at member
    let (prior, s) := match l.done.get 0 idx with
      | 0 =>
        let home := s.homeRead i (p.dpa + k * w) w
        let s := s.homeWrite i (p.dpa + k * w) (atomicApply aop home (bs.take c))
        let l := { l with done := l.done.set 0 idx (leNat (home.take 8) + 1) }
        (leNat (home.take 8), s.modJob i fun j => { j with ledger := j.ledger.put member l })
      | v => (v - 1, s)
    let (rest, s) := s.atomicLoop i member p n (k + 1) (bs.drop c)
    (leBytes 8 prior ++ rest, s)

/-- Applies an ATOMIC packet under its ledger slot. -/
def State.atomicAt (s : State) (i : Nat) (p : Packet) : State :=
  let h := atomicHead p
  let member := field h 63 48
  let step := field h 127 64
  let l := (s.jobEntry i).ledger.at member
  let d := since64 step l.step
  if cfgLedger (s.jobBits i) ≤ member ∨ d < 0 then s.refusePacket p 0x0004
  else
    let s := if 0 < d then s.modJob i fun j => { j with ledger := j.ledger.put member ⟨step, []⟩ } else s
    let (prior, s) := s.atomicLoop i member p ((p.len - 16) / (aopBytes (atomicAop p)).2) 0 (p.payload.drop 16)
    s.respond p pkAtomicAck (if 1 ≤ atomicAop p ∧ atomicAop p ≤ 3 then prior else [])

/-- ATOMIC. -/
def execAtomic (s : State) : Out := .next (s.serve pkAtomic regionAtomic State.atomicAt)

-- Responses (R355 to R359, R364) --------------------

/-- A response taken: what its request was for, with its SEQ marked; none when it answers nothing. -/
def State.takeResponse (s : State) (kind : Nat) : Option (Packet × Option Sent × State) :=
  match s.arrivedOf kind with
  | none => none
  | some p =>
    let o := s.sentOf p
    let s := s.takeArrived p
    match o with
    | some o => some (p, (if o.dropped then none else some o), s.mark p)
    | none => some (p, none, s)

/-- After a response, the context's command may go on: further requests leave, and a freeze or snapshot that waited for it too. -/
def State.afterResponse (s : State) (c : Nat) : State := ((s.pumpFabric c).settleAll).settleSnapshots

/-- A request of context `c`'s command is answered, with bytes that land at `off`. -/
def State.landFor (s : State) (c : Nat) (o : Sent) (off : Nat) (bs : Bytes) : State :=
  (s.modCtx c fun x => { x with cmd := x.cmd.map fun k => { k with
    landed := Tab.setRun 0 k.landed off bs
    requests := k.requests.map fun r => if r.dest = o.dest ∧ r.seq = o.seq then { r with answered := true } else r } }).afterResponse c

/-- READ_DATA. -/
def execReadData (s : State) : Out :=
  match s.takeResponse pkReadData with
  | some (p, some o, s) => match o.what with
    | .load c off => .next (s.landFor c o off p.payload)
    | _ => .next (s.settleAll.settleSnapshots)
  | some (_, none, s) => .next (s.settleAll.settleSnapshots)
  | none => .next s

/-- WRITE_ACK. -/
def execWriteAck (s : State) : Out :=
  match s.takeResponse pkWriteAck with
  | some (_, _, s) => .next s
  | none => .next s

/-- ATOMIC_ACK: prior values land by element. -/
def execAtomicAck (s : State) : Out :=
  match s.takeResponse pkAtomicAck with
  | some (p, some o, s) => match o.what with
    | .atomic c first => .next (s.landFor c o (first * 8) p.payload)
    | _ => .next (s.settleAll.settleSnapshots)
  | some (_, none, s) => .next (s.settleAll.settleSnapshots)
  | none => .next s

-- Route drains (R347, R348) --------------------

/-- DRAIN: answered at once. -/
def execDrain (s : State) : Out :=
  match s.arrivedOf pkDrain with
  | some p => .next ((s.takeArrived p).respond p pkDrainAck [])
  | none => .next s

/-- A route change with no destination left to switch ends: EPOCH increments, and the former table is the shadow (R207). -/
def State.finishRoute (s : State) : State :=
  match s.fab.routeNext with
  | some _ =>
    if s.fab.drains ≠ [] then s
    else ({ s with fab := { s.fab with routeNext := none } }.bump .routeEpoch).setReg .routeStatus 0
  | none => s

/-- Destination `d` switches to its new entry and its held packets leave. -/
def State.switchRoute (s : State) (d : Nat) : State :=
  let new := match s.fab.routeNext with
    | some t => t.get 0 d
    | none => s.fab.route.get 0 d
  let old := s.fab.route.get 0 d
  let s := { s with fab := { s.fab with route := s.fab.route.set 0 d new, drains := s.fab.drains.filter fun x => x.dest ≠ d } }
  let sh := s.oct .routeTable
  let s := s.setOct .routeTable (sh.take (2 * d) ++ leBytes 2 old ++ sh.drop (2 * d + 2))
  s.flushFabric.finishRoute

/-- An enabled job has traffic outstanding to a destination (R348). -/
def State.trafficTo (s : State) (d : Nat) : Bool :=
  (s.fab.out.any fun o => decide (o.dest = d) && decide (o.job ≠ 0) && (s.jobIndex o.job).isSome) ||
    s.fab.held.any fun p => decide (p.dst = d) && decide (p.job ≠ 0) && (s.jobIndex p.job).isSome

/-- Unreachable destinations switch once no enabled job has traffic outstanding to them. -/
def State.settleUnreachable (s : State) : State :=
  (s.fab.drains.filter (·.unreachable)).foldl (fun s x => if s.trafficTo x.dest then s else s.switchRoute x.dest) s

/-- DRAIN_ACK. -/
def execDrainAck (s : State) : Out :=
  match s.takeResponse pkDrainAck with
  | some (p, _, s) =>
    let drop (x : RouteDrain) : RouteDrain := if x.dest = p.src then { x with waiting := x.waiting.filter (· ≠ p.seq) } else x
    let s := { s with fab := { s.fab with drains := s.fab.drains.map drop } }
    match s.fab.drains.find? fun x => x.dest = p.src with
    | some x => .next (if x.waiting = [] ∧ !x.unreachable then s.switchRoute p.src else s)
    | none => .next s
  | none => .next s

-- Buddy copies (R366 to R368) --------------------

def State.modBuddies (s : State) (f : List BuddyCopy → List BuddyCopy) : State :=
  { s with fab := { s.fab with buddies := f s.fab.buddies } }

/-- A free frame of the buddy pool; which one is left open. -/
def State.buddyFrame (s : State) : Option Nat × State := s.pickStart 1 (s.frameGaps s.buddyBase s.loamBase)

/-- Frees the frames of a copy. -/
def State.freeCopy (s : State) (b : BuddyCopy) : State :=
  (b.frames.foldl (fun s f => s.freeFrame f) s).modBuddies fun l => l.erase b

/-- Piece `k` of the body or the header has arrived in a copy. -/
def BuddyCopy.has (b : BuddyCopy) (header : Bool) (k : Nat) : Bool := if header then b.gotHead.contains k else b.got.contains k

/-- The copy that a (JOB, source) pair is writing. A piece that has arrived before begins another, and so does the first piece after a
complete copy; it takes the slot that does not hold the latest complete copy. Copies stand in order of completion, the latest last. -/
def State.openCopy (s : State) (job src : Nat) (header : Bool) (k : Nat) : State :=
  let mine := s.fab.buddies.filter fun b => b.job = job ∧ b.src = src
  let writing := mine.find? fun b => !b.complete
  if (writing.map fun b => b.has header k) = some false then s
  else
    let old := match writing with
      | some b => some b
      | none => if 2 ≤ mine.length then mine.head? else none
    let s := match old with
      | some b => s.freeCopy b
      | none => s
    let other := (s.fab.buddies.find? fun b => b.job = job ∧ b.src = src).map (·.slot)
    s.modBuddies fun l => l ++ [{ (default : BuddyCopy) with job, src, slot := if other = some 0 then 1 else 0 }]

/-- The frame of byte `off` of a copy, taken from the pool when new. -/
def State.copyFrames (s : State) (b : BuddyCopy) : Nat → Option (BuddyCopy × State)
  | 0 => some (b, s)
  | n + 1 => match s.buddyFrame with
    | (some f, s) =>
      let b' := { b with frames := b.frames ++ [f] }
      ((s.setFrame f .buddy).clear (f * frameBytes) frameBytes).copyFrames b' n
    | (none, _) => none

/-- Bytes of a copy. -/
def State.copyRead (s : State) (b : BuddyCopy) (off n : Nat) : Bytes :=
  (List.range n).map fun i => match b.frames[(off + i) / frameBytes]? with
    | some f => s.rd (f * frameBytes + (off + i) % frameBytes)
    | none => 0

def State.copyWrite (s : State) (b : BuddyCopy) (off : Nat) (bs : Bytes) : State :=
  (bs.zipIdx).foldl (fun s x => match b.frames[(off + x.2) / frameBytes]? with
    | some f => s.wr (f * frameBytes + (off + x.2) % frameBytes) x.1
    | none => s) s

/-- The digest in a copy's header checks. -/
def headerChecks (h body : Bytes) : Bool :=
  decide (slice h 0x40 64 = sha512 (body ++ h.take 0x40 ++ zeros 64 ++ h.drop 0x80)) && decide (leAt h 8 8 + leAt h 16 8 = body.length)

/-- Where a copy keeps byte `off` of its header or of its body. -/
def copyAt (header : Bool) (off : Nat) : Nat := if header then off else 4096 + off

/-- A copy whose header and body have arrived and check is complete, and the latest. -/
def State.closeCopy (s : State) (b : BuddyCopy) : State :=
  let h := s.copyRead b (copyAt true 0) 4096
  let n := leAt h 8 8 + leAt h 16 8
  if b.gotHead.length < 4 || b.length < n || b.got.length < ceilDiv n 1024 then s
  else if headerChecks h (s.copyRead b (copyAt false 0) n) then
    s.modBuddies fun l => l.erase b ++ [{ b with complete := true, snapId := leAt h 0 4 }]
  else s

/-- BULK_WRITE. -/
def State.bulkWrite (s : State) (p : Packet) : State :=
  let header := bit p.dpa 40
  let off := field p.dpa 33 0 * 1024
  let s := s.openCopy p.job p.src header (off / 1024)
  match s.fab.buddies.find? fun b => b.job = p.job ∧ b.src = p.src ∧ !b.complete with
  | none => s.refusePacket p 0x0006
  | some b =>
    let at_ := copyAt header off
    let need := ceilDiv (at_ + p.len) frameBytes - b.frames.length
    match s.copyFrames b need with
    | none => s.refusePacket p 0x0006
    | some (b', s) =>
      let b' := if header then { b' with gotHead := b'.gotHead ++ [off / 1024] }
        else { b' with length := max b'.length (off + p.len), got := b'.got ++ [off / 1024] }
      let s := (s.modBuddies fun l => l.map fun x => if x = b then b' else x).copyWrite b' at_ p.payload
      (s.closeCopy b').respond p pkBulkAck []

def execBulkWrite (s : State) : Out :=
  match s.arrivedOf pkBulkWrite with
  | some p => .next ((s.takeArrived p).bulkWrite p)
  | none => .next s

/-- The latest complete copy of a source under a job. -/
def State.latestCopy (s : State) (job src : Nat) : Option BuddyCopy :=
  (s.fab.buddies.reverse).find? fun b => b.job = job ∧ b.src = src ∧ b.complete

/-- BULK_READ: an uncorrectable word is reported and makes the copy invalid (R462). -/
def State.bulkRead (s : State) (p : Packet) : State :=
  match s.latestCopy p.job (field p.dpa 39 34) with
  | none => s.refusePacket p 0x0001
  | some b =>
    let off := copyAt (bit p.dpa 40) (field p.dpa 33 0 * 1024)
    let words := (List.range p.len).filterMap fun i =>
      (b.frames[(off + i) / frameBytes]?).map fun f => (f * frameBytes + (off + i) % frameBytes) / 8 * 8
    match words.find? fun a => s.badIn a 8 with
    | some a => (s.badRecord 0x0103 2 a 0xFFFF p.job).modBuddies fun l => l.map fun x => if x = b then { x with complete := false } else x
    | none => s.respond p pkBulkData (s.copyRead b off p.len)

def execBulkRead (s : State) : Out :=
  match s.arrivedOf pkBulkRead with
  | some p => .next ((s.takeArrived p).bulkRead p)
  | none => .next s

/-- BULK_ACK. -/
def execBulkAck (s : State) : Out :=
  match s.takeResponse pkBulkAck with
  | some (_, _, s) => .next s.settleSnapshots
  | none => .next s

-- Restoring from a buddy (R368) --------------------

/-- Bytes of a restore's header lie from here on in what has arrived. -/
def headerAt : Nat := 2 ^ 48

/-- Ends a restore. -/
def State.endRestore (s : State) (i : Nat) (ok : Bool) : State :=
  let s := s.modOut fun o => match o.what with
    | .restore j _ => if j = i then { o with dropped := true } else o
    | _ => o
  (s.modJob i fun j => { j with restoring := none }).setReg .jobRestoreStatus (if ok then 2 else 3) i

/-- Creates the contexts of the images; none when an image fails or a context cannot be taken. Each keeps its number and its member
index. -/
def State.restoreImages (s : State) (n job : Nat) : List Bytes → Option State
  | [] => some s
  | img :: rest =>
    let c := imgContext img
    let member := leAt img 0x28 2
    if !imageOk img || decide (s.sliceOf c ≠ some n) || (s.ctx c).page.enabled then none
    else match s.restoreCtx n c img (job * 2 ^ 48 + member) none with
      | some s => s.restoreImages n job rest
      | none => none

/-- Fills regions in table order. -/
def State.fillRegions (s : State) (i : Nat) : List Nat → Bytes → State
  | [], _ => s
  | r :: rs, bs =>
    (s.homeWrite i (regionBase r % 2 ^ 41) (slice bs 0 (regionSize r))).fillRegions i rs (bs.drop (regionSize r))

/-- Everything has arrived: digests, then regions and contexts, which stand frozen. -/
def State.finishRestore (s : State) (i : Nat) (r : Restoring) (total : Nat) : State :=
  let h := r.bytes.run 0 headerAt 4096
  let body := r.bytes.run 0 0 total
  let n := cfgSlice (s.jobBits i)
  if !headerChecks h body then s.endRestore i false
  else
    match s.restoreImages n (cfgJob (s.jobBits i)) (cutImages (leAt h 24 4) body) with
    | some t => ((t.fillRegions i (t.snapRegions i) (body.drop (leAt h 8 8))).setSliceState n 2).endRestore i true
    | none => s.endRestore i false

/-- Sends BULK_READs for `total` bytes of a copy. -/
def State.askCopy (s : State) (i : Nat) (r : Restoring) (total : Nat) (header : Bool) : State :=
  (List.range (ceilDiv total 1024)).foldl (fun s k =>
    s.request (.restore i (k * 1024 + if header then headerAt else 0)) r.buddy (cfgJob (s.jobBits i)) pkBulkRead
      (bulkDpa r.source (k * 1024) header) (min 1024 (total - k * 1024)) []) s

/-- BULK_DATA: the header first, then the body its lengths name. -/
def State.bulkData (s : State) (i off : Nat) (bs : Bytes) : State :=
  match (s.jobEntry i).restoring with
  | none => s
  | some r =>
    let r := { r with bytes := Tab.setRun 0 r.bytes off bs }
    let s := s.modJob i fun j => { j with restoring := some r }
    let left := s.fab.out.any fun o => match o.what with
      | .restore j _ => j = i
      | _ => false
    if left then s
    else match r.total with
      | none =>
        let h := r.bytes.run 0 headerAt 4096
        let t := leAt h 8 8 + leAt h 16 8
        let s := s.modJob i fun j => { j with restoring := some { r with total := some t } }
        if t = 0 then s.finishRestore i r 0 else s.askCopy i r t false
      | some t => s.finishRestore i r t

def execBulkData (s : State) : Out :=
  match s.takeResponse pkBulkData with
  | some (p, some o, s) => match o.what with
    | .restore i off => .next (s.bulkData i off p.payload)
    | _ => .next s
  | some (_, none, s) => .next s
  | none => .next s

-- Refusals (R354, R366, R367, R369) --------------------

/-- REFUSE: of a READ, WRITE or ATOMIC it is reported to the fabric manager, and its command waits; a snapshot or restore fails; a move
counts as failed. -/
def execRefuse (s : State) : Out :=
  match s.takeResponse pkRefuse with
  | some (p, some o, s) => match o.what with
    | .snapshot i => .next (s.endSnapshot i false)
    | .restore i _ => .next (s.endRestore i false)
    | .cell c => .next (s.modCell c fun x => { x with moveFails := x.moveFails + 1 })
    | .load _ _ | .store _ | .atomic _ _ =>
      .next { s with fab := { s.fab with refusals := s.fab.refusals ++ [⟨o.dest, o.job, o.seq, leAt p.payload 0 2⟩] } }
    | _ => .next s
  | some (_, none, s) => .next (s.settleAll.settleSnapshots)
  | none => .next s

-- Cell moves (R281, R369) --------------------

/-- Installs, from the landing place, the descriptors that `n` bytes landed at an offset of part 0 touch (R369). -/
def State.installUe (s : State) (cell off n : Nat) : State :=
  (List.range (ceilDiv (off % 64 + n) 64)).foldl (fun s k =>
    let d := off / 64 + k
    let i := s.reg .ueBase cell + d
    let w := leNat (s.radioStackRead (Config.cellLanding cell 0 + 64 * d) 64)
    if s.inUeRange cell i then { s with radio := { s.radio with ue := s.radio.ue.set 0 i w } } else s) s

/-- Gain state: g(n + 1) and g(n + 2) of each antenna. -/
def State.installGain (s : State) (cell off : Nat) (bs : Bytes) : State :=
  s.modCell cell fun x => { x with antennas := (bs.zipIdx).foldl (fun (t : Tab Antenna) b =>
    let k := off + b.2
    t.modify (k / 2) fun a => if k % 2 = 0 then { a with known := true, gNow := b.1.toNat } else { a with known := true, gNext := b.1.toNat }) x.antennas }

/-- Bytes of a part land in the radio stacked-memory region, and the hub installs descriptors and gain state from there (R18, R369); where
in the region those two parts land is free, log entry 77. -/
def State.landCell (s : State) (cell part off : Nat) (bs : Bytes) : State :=
  let count (s : State) : State := s.modCell cell fun x => { x with landed := x.landed + bs.length }
  match part with
  | 0 => count ((s.radioStackWrite (Config.cellLanding cell part + off) bs).installUe cell off bs.length)
  | 1 => count (s.radioStackWrite (stateBlock cell + off) bs)
  | 2 => count ((s.radioStackWrite (Config.cellLanding cell part + off) bs).installGain cell off bs)
  | _ =>
    let b := s.softBase cell * 4096 + off
    let s := s.radioStackWrite b bs
    if (b + bs.length) % 4096 = 0 then s.modCell cell fun x => { x with softs := (b / 4096) :: x.softs.filter (· ≠ b / 4096) } else s

/-- The first SLOT event of the new home, once descriptors, state block and gain state have landed; late by more than 1 µs, it counts. -/
def State.firstSlot (s : State) (cell : Nat) : State :=
  let x := s.cell cell
  let s := if s.ck ≤ x.moveCk + 825 then s else (s.bump .windowLate).fault 0x0503 0 4 (s.cellBd cell) cell
  if x.begun then s.cellEvent cell 2 x.slot else s

/-- CELL_DATA. -/
def State.cellData (s : State) (p : Packet) : State :=
  let cell := field p.dpa 40 33
  let named := match (s.cell cell).move with
    | some (peer, 1, _) => decide (peer = p.src)
    | _ => false
  if !named || decide (p.job ≠ 0) then s.refusePacket p 0x0005
  else
    let waited := s.awaiting cell
    let s := s.landCell cell (field p.dpa 32 30) (field p.dpa 29 0) p.payload
    let s := if waited && !s.awaiting cell then s.firstSlot cell else s
    s.respond p pkCellAck []

def execCellData (s : State) : Out :=
  match s.arrivedOf pkCellData with
  | some p => .next ((s.takeArrived p).cellData p)
  | none => .next s

/-- CELL_ACK. -/
def execCellAck (s : State) : Out :=
  match s.takeResponse pkCellAck with
  | some (_, _, s) => .next s
  | none => .next s

end Sys2Proof.Machine
end

