-- ==== Sys2Proof/Machine/Relevo.lean ====
section
/-! DEFINITION. Routes, jobs, windows, credentials, snapshots and buddies as the fabric manager commands them (R345 to R352, R363 to
R373). -/

namespace Sys2Proof.Machine

-- Routes (R345, R347, R348, R339) --------------------

/-- ROUTE_TABLE: the shadow copy, while no change is under way (R207). -/
def State.routeTableWrite (data : Bytes) (s : State) : Except Nat State :=
  if s.reg .routeStatus = 1 then .error 0x8013 else .ok (s.setOct .routeTable data)

def execRouteTable (sess : Nat) (data : Bytes) (s : State) : Out :=
  .next (s.writeOctets sess .routeTable 0 data (State.routeTableWrite data))

/-- The shadow route table as entries. -/
def State.shadowRoutes (s : State) : Tab Nat :=
  (List.range 64).foldl (fun (t : Tab Nat) d => t.set 0 d (leAt (s.oct .routeTable) (2 * d) 2)) []

/-- The DRAINs of a destination: one in each class on every port of its old entry. A DRAIN's DPA names its port by R345's own rule. -/
def State.sendDrains (s : State) (d : Nat) : State :=
  let n := (bitsOf 16 (s.fab.route.get 0 d)).length
  if !s.fabricOn || decide (d = s.pkg) then s
  else (List.range (4 * n)).foldl (fun s k =>
    let seq := (s.stream d 0).next
    let add (x : RouteDrain) : RouteDrain := if x.dest = d then { x with waiting := x.waiting ++ [seq] } else x
    let s := { s with fab := { s.fab with drains := s.fab.drains.map add } }
    s.request (.drain d) d 0 pkDrain (k / 4 * 4096) 0 [] (k % 4)) s

/-- ROUTE_COMMIT. -/
def State.routeCommit (v : Nat) (s : State) : Except Nat State :=
  if v ≠ (s.reg .routeEpoch + 1) % 2 ^ 32 || decide (s.reg .routeStatus = 1) then .error 0x8013
  else
    let new := s.shadowRoutes
    let ds := (List.range 64).filter fun d => decide (new.get 0 d ≠ s.fab.route.get 0 d)
    let drains := ds.map fun d => (⟨d, [], false, s.ck⟩ : RouteDrain)
    let s := { (s.setReg .routeStatus 1) with fab := { s.fab with routeNext := some new, drains } }
    let s := ds.foldl (fun s d => s.sendDrains d) s
    let ready := (s.fab.drains.filter fun x => x.waiting = []).map (·.dest)
    .ok (ready.foldl (fun s d => s.switchRoute d) s).finishRoute

def execRouteCommit (sess value : Nat) (s : State) : Out :=
  .next (s.write sess .routeCommit 0 value (State.routeCommit (value % 2 ^ 32)))

/-- ROUTE_DRAIN_TIMEOUT: the destination is unreachable, and reported. -/
def execRouteDrainTimeout (dest : Nat) (s : State) : Out :=
  match s.fab.drains.find? fun x => x.dest = dest with
  | some x =>
    if x.unreachable || decide (x.waiting = []) || decide (s.ck < x.startCk + s.reg .routeDrainUs * 825) then .next s
    else
      let lost (y : RouteDrain) : RouteDrain := if y.dest = dest then { y with unreachable := true } else y
      let s := { s with fab := { s.fab with drains := s.fab.drains.map lost } }
      .next (s.raise { s.record 0x0403 0 0 0 with suspect := dest }).settleUnreachable
  | none => .next s

/-- WFQ_COMMIT of the fabric ports: the weights in force and the entries change places at the packet boundary (R339, R207). -/
def State.fabWfq (v : Nat) (s : State) : Except Nat State :=
  if v ≠ (s.reg .fabWfqEpoch + 1) % 2 ^ 32 then .error 0x8013
  else
    let regs := [(Reg.weightReq, 1), (Reg.weightRsp, 2), (Reg.weightBulk, 3)]
    let s := (List.range 16).foldl (fun s p => regs.foldl (fun s x =>
      let new := s.reg x.1 p
      let old := s.fab.weights.get x.1.dflt (p * 4 + x.2)
      { s.setReg x.1 old p with fab := { s.fab with weights := s.fab.weights.set x.1.dflt (p * 4 + x.2) new } }) s) s
    .ok (s.bump .fabWfqEpoch)

def execRelevoWfqCommit (sess value : Nat) (s : State) : Out :=
  .next (s.write sess .fabWfqCommit 0 value (State.fabWfq (value % 2 ^ 32)))

/-- REQ_TIMEOUT: reported, and again after each further REQ_TIMEOUT_US without an answer; a snapshot or restore that asked fails; a command
waits (R363, R366, R472). -/
def execReqTimeout (dest job : Nat) (seq : W64) (s : State) : Out :=
  match s.fab.out.find? fun o => o.dest = dest ∧ o.job = job ∧ o.seq = seq.toNat with
  | some o =>
    if s.ck < o.sentCk + s.reg .reqTimeoutUs * 825 then .next s
    else
      let s := s.modOut fun x => if x = o then { x with sentCk := s.ck } else x
      let s := (s.bump .unreachableReports).raise { s.record 0x0402 0 0 0 with suspect := dest, job := job }
      match o.dropped, o.what with
      | false, .snapshot i => .next (s.endSnapshot i false)
      | false, .restore i _ => .next (s.endRestore i false)
      | _, _ => .next s
  | none => .next s

-- Job entries (R349 to R351, R358, R364) --------------------

/-- Frees the ledger frames of a job entry and erases its key and ledger. -/
def State.eraseJob (s : State) (i : Nat) : State :=
  let fs := (s.jobEntry i).ledgerFrames
  let s := fs.foldl (fun s f => s.freeFrame f) s
  s.modJob i fun j => { j with key := [], ledger := [], ledgerFrames := [], snapshot := none, restoring := none, broken := false }

/-- Takes `k` frames of the interleaved zone for a ledger; none when they cannot be had. Which frames is left open. -/
def State.takeLedger (s : State) (i job : Nat) : Nat → Option State
  | 0 => some s
  | k + 1 => match s.pickStart 1 (s.frameGaps 0 s.openTop) with
    | (some f, s) =>
      let s := (s.clear (f * frameBytes) frameBytes).setFrame f (.ledger job)
      (s.modJob i fun j => { j with ledgerFrames := j.ledgerFrames ++ [f] }).takeLedger i job k
    | (none, _) => none

/-- The reason for which an enabling JOB_CFG is ignored. -/
def State.jobReason (s : State) (w : Nat) : Option Nat :=
  let tenant := s.prot.tenantKeys.get [] (cfgSlice w)
  firstReason
    [(0x8010, decide (cfgJob w = 0) || decide (4096 < cfgLedger w) || (decide (63 < cfgBuddy w) && decide (cfgBuddy w ≠ 0xFF))),
     (0x8011, decide (field w 17 1 ≠ 0)),
     (0x8012, decide (63 < s.pkg) || !bit (cfgMembers w) s.pkg || decide (tenant = []) || (s.jobIndex (cfgJob w)).isSome)]

/-- SEQ starts at 0 for a job set up again (R342, R350). -/
def State.dropStreams (s : State) (job : Nat) : State :=
  { s with fab := { s.fab with streams := s.fab.streams.keep fun k _ => decide (k % 65536 ≠ job) } }

/-- Held packets of a job, its requests outstanding and what has arrived of it are dropped. -/
def State.dropTraffic (s : State) (job : Nat) : State :=
  { s with fab := { s.fab with
    held := s.fab.held.filter fun p => p.job ≠ job
    arrived := s.fab.arrived.filter fun p => p.job ≠ job
    out := s.fab.out.filter fun o => o.job ≠ job } }

/-- JOB_CFG of entry `i`. -/
def State.jobCfgWrite (i : Nat) (data : Bytes) (s : State) : Except Nat State :=
  let w := leNat data
  let old := s.jobBits i
  if cfgEnable old then
    if field w 17 1 ≠ 0 then .error 0x8011
    else if setBit w 0 false ≠ setBit old 0 false then .error 0x8012
    else if cfgEnable w then .ok s
    else .ok (((((s.eraseJob i).dropTraffic (cfgJob old)).setOct .jobCfg data i).setReg .jobState 0 i).settleRegions.settleUnreachable)
  else if !cfgEnable w then
    if field w 17 1 ≠ 0 then .error 0x8011 else .ok (s.setOct .jobCfg data i)
  else match s.jobReason w with
    | some r => .error r
    | none => match s.takeLedger i (cfgJob w) (ceilDiv (cfgLedger w * 36864) frameBytes) with
      | none => .error 0x8016
      | some s =>
        let key := jobKey (s.prot.tenantKeys.get [] (cfgSlice w)) (cfgJob w) (cfgNonce w)
        .ok ((((s.modJob i fun j => { j with key }).setOct .jobCfg data i).setReg .jobState 1 i).dropStreams (cfgJob w))

def execJobCfg (sess : Nat) (value : BitVec 256) (s : State) : Out :=
  .next (s.writeOctets sess .jobCfg 0 (leBytes 32 value.toNat) (State.jobCfgWrite (s.selected sess .job) (leBytes 32 value.toNat)))

/-- Ends the job of entry `i` (R364). -/
def State.endJobEntry (s : State) (i cause : Nat) : State :=
  let job := cfgJob (s.jobBits i)
  let s := s.setReg .jobState 2 i
  let s := (s.jobCtxs i).foldl (fun s c => (s.countRemoved c).teardown c 0x40 cause) s
  let s := s.dropTraffic job
  let s := s.setReg .snapStatus (if (s.jobEntry i).snapshot = none then s.reg .snapStatus i else 3) i
  let s := s.setReg .jobRestoreStatus (if (s.jobEntry i).restoring = none then s.reg .jobRestoreStatus i else 3) i
  let s := ((s.eraseJob i).dropStreams job).setReg .jobState 3 i
  s.settleRegions.settleUnreachable.settleAll

/-- JOB_TEARDOWN. -/
def State.jobTeardownWrite (i cause : Nat) (s : State) : Except Nat State :=
  if s.reg .jobState i = 1 then .ok (s.endJobEntry i cause) else .error 0x8012

def execJobTeardown (sess cause : Nat) (s : State) : Out :=
  .next (s.write sess .jobTeardown 0 cause (State.jobTeardownWrite (s.selected sess .job) (cause % 256)))

/-- CTX_JOB_ID of context `c` (R351). -/
def State.ctxJobWrite (c v : Nat) (s : State) : Except Nat State :=
  let started := match (s.ctx c).cmd with
    | some x => x.holds
    | none => false
  let entry := s.jobIndex (field v 63 48)
  let room := match entry with
    | some i => decide (field v 15 0 < cfgLedger (s.jobBits i))
    | none => true
  if v ≠ 0 ∧ !room then .error 0x8010
  else if field v 47 16 ≠ 0 then .error 0x8011
  else if started || (decide (v ≠ 0) && (entry.isNone || decide (field v 63 48 = 0))) then .error 0x8012
  else .ok ((s.setReg .ctxJobId v c).checkNext c)

def execCtxJobId (sess : Nat) (value : W64) (s : State) : Out :=
  .next (s.write sess .ctxJobId 0 value.toNat (State.ctxJobWrite (s.selected sess .ctx) value.toNat))

-- Windows (R352, R372) --------------------

/-- WIN_LOAD_DATA of entry `i`. -/
def State.winLoad (i : Nat) (data : Bytes) (s : State) : Except Nat State :=
  let o := s.reg .winLoadOffset i
  if 16384 < o + data.length then .error 0x8010
  else .ok ((s.modJob i fun j => { j with shadow := Tab.setRun 0 j.shadow o data }).setReg .winLoadOffset (o + data.length) i)

def execWinLoadData (sess : Nat) (data : Bytes) (s : State) : Out :=
  .next (s.writeOctets sess .winLoadData 0 data (State.winLoad (s.selected sess .job) data))

/-- Two regions overlap. -/
def regionsHit (a b : Nat) : Bool := overlap (regionBase a) (regionSize a) (regionBase b) (regionSize b)

def anyRegionsHit : List Nat → Bool
  | [] => false
  | r :: rs => rs.any (regionsHit r) || anyRegionsHit rs

/-- Regions of the shadow copy. -/
def State.shadowWindows (s : State) (i : Nat) : List Nat :=
  (List.range (s.reg .winEntries i)).map fun k => leNat ((s.jobEntry i).shadow.run 0 (16 * k) 16)

/-- WIN_COMMIT of entry `i`: sources and the home take the copy at their next check and packet, and the former one is the shadow. -/
def State.winCommit (i v : Nat) (s : State) : Except Nat State :=
  let ws := s.shadowWindows i
  let bad := ws.any fun r => decide (regionSize r = 0) || decide (regionBase r % 4096 ≠ 0)
    || (decide (63 < regionOwner r) && decide (regionOwner r < 0xFE))
  match firstReason
    [(0x8010, decide (ws = []) || bad), (0x8011, ws.any fun r => decide (field r 35 0 ≠ 0)),
     (0x8013, decide (v ≠ (s.reg .winEpoch i + 1) % 2 ^ 32)), (0x8015, anyRegionsHit ws)] with
  | some r => .error r
  | none =>
    let old := (s.jobEntry i).windows
    let s := s.modJob i fun j => { j with windows := ws, shadow := Tab.setRun 0 j.shadow 0 (old.flatMap (leBytes 16)) }
    .ok ((s.setReg .winEntries old.length i).bump .winEpoch i).checkAll

def execWinCommit (sess value : Nat) (s : State) : Out :=
  .next (s.write sess .winCommit 0 value (State.winCommit (s.selected sess .job) (value % 2 ^ 32)))

-- Credentials (R350, R365) --------------------

/-- FABRIC_CTRL 1: FABRIC_STATE becomes 1, with a DGEN drawn from the hub's random source. -/
def State.fabricEnable (s : State) : Except Nat State :=
  if s.fabricOn then .ok s
  else if 63 < s.pkg then .error 0x8012
  else
    let (r, s) := s.random 5
    let s := { s with fab := { s.fab with dgen := leNat r % 2 ^ 38 } }
    .ok ((s.dropStreams 0).setReg .fabricState 1).flushFabric

/-- The fabric credentials are revoked. -/
def State.revoke (s : State) : State :=
  if !s.fabricOn then s
  else
    let s := s.fault 0x0405 2 0 0
    let s := ((List.range 256).filter fun i => decide (s.reg .jobState i = 1)).foldl (fun s i => s.endJobEntry i 0x06) s
    let s := s.setReg .fabricState 0
    let open_ (x : RouteDrain) : RouteDrain := { x with waiting := [], unreachable := false }
    let s := { s with fab := { s.fab with held := [], arrived := [], out := [], drains := s.fab.drains.map open_ } }
    (s.fab.drains.map (·.dest)).foldl (fun s d => s.switchRoute d) s

/-- FABRIC_CTRL. -/
def State.fabricCtrl (v : Nat) (s : State) : Except Nat State := if v = 1 then s.fabricEnable else .ok s.revoke

def execFabricEnable (sess : Nat) (s : State) : Out := .next (s.write sess .fabricCtrl 0 1 (State.fabricCtrl 1))

def execFabricRevoke (sess : Nat) (s : State) : Out := .next (s.write sess .fabricCtrl 0 2 (State.fabricCtrl 2))

-- Snapshots and buddies (R366 to R368) --------------------

/-- JOB_SNAPSHOT of entry `i`. -/
def State.snapshotWrite (i id : Nat) (s : State) : Except Nat State :=
  if s.reg .snapStatus i = 1 || decide (cfgBuddy (s.jobBits i) = 0xFF) || decide (s.reg .jobState i ≠ 1) then .error 0x8012
  else
    let cs := s.jobCtxs i
    let s := cs.foldl (fun s c =>
      let s := s.modCtx c fun x => { x with snapped := true }
      match (s.ctx c).cmd with
      | some x => if x.op = some .wait ∨ x.op = some .waitMem then s.killCtx c 0x11 0 else s
      | none => s) s
    let s := (s.modJob i fun j => { j with snapshot := some ⟨id, false, false⟩ }).setReg .snapStatus 1 i
    .ok (s.settleSnapshot i)

def execJobSnapshot (sess snapId : Nat) (s : State) : Out :=
  .next (s.write sess .jobSnapshot 0 snapId (State.snapshotWrite (s.selected sess .job) (snapId % 2 ^ 32)))

/-- BUDDY_ADOPT: the slots of the old job belong to the job of entry `i`. -/
def State.adoptWrite (i old : Nat) (s : State) : Except Nat State :=
  if s.reg .jobState i ≠ 1 then .error 0x8012
  else
    let job := cfgJob (s.jobBits i)
    if old = job then .ok s
    else
      let moved := s.fab.buddies.filter fun b => b.job = old
      let stale := s.fab.buddies.filter fun b => b.job = job ∧ moved.any fun m => m.src = b.src
      let s := stale.foldl (fun s b => s.freeCopy b) s
      .ok (s.modBuddies fun l => l.map fun b => if b.job = old then { b with job := job } else b)

def execBuddyAdopt (sess oldJob : Nat) (s : State) : Out :=
  .next (s.write sess .buddyAdopt 0 oldJob (State.adoptWrite (s.selected sess .job) (oldJob % 65536)))

/-- RESTORE_FROM_BUDDY of entry `i`: the header of the copy is asked for first. -/
def State.restoreWrite (i v : Nat) (s : State) : Except Nat State :=
  if 63 < v % 256 ∨ 63 < v / 256 then .error 0x8010
  else if s.reg .jobState i ≠ 1 || decide (s.reg .jobRestoreStatus i = 1) then .error 0x8012
  else
    let r : Restoring := { buddy := v % 256, source := v / 256, bytes := [], total := none, asked := true }
    let s := (s.modJob i fun j => { j with restoring := some r }).setReg .jobRestoreStatus 1 i
    .ok (s.askCopy i r 4096 true)

def execRestoreFromBuddy (sess value : Nat) (s : State) : Out :=
  .next (s.write sess .restoreFromBuddy 0 value (State.restoreWrite (s.selected sess .job) (value % 65536)))

/-- BUDDY_RELEASE. -/
def State.releaseWrite (job : Nat) (s : State) : Except Nat State :=
  .ok ((s.fab.buddies.filter fun b => b.job = job).foldl (fun s b => s.freeCopy b) s)

def execBuddyRelease (sess job : Nat) (s : State) : Out :=
  .next (s.write sess .buddyRelease 0 job (State.releaseWrite (job % 65536)))

end Sys2Proof.Machine
end

