-- ==== Sys2Proof/Machine/Restart.lean ====
section
/-! DEFINITION. What a reset of the package discards and keeps (R523). -/

namespace Sys2Proof.Machine

/-- Most of the burst bank, in nJ (R512). -/
def State.bankMax (s : State) : Nat := (s.reg .burstW - s.reg .powerCapW) * s.reg .burstMaxMs * 1000000

/-- The memory manager of a build after reset. -/
def Tier.forBuild (b : Build) : Tier :=
  { Tier.reset with radioStackMask := b.dflt .radioStackMask, loamFrames := b.dflt .loamPoolFrames }

/-- What a reset keeps: the flash devices, the always-on latches and stacked memory with its bad words. -/
def State.cleared (s : State) : State :=
  let t := { State.reset with
    pending := s.pending
    build := s.build
    host := s.host
    free := s.free
    mem := s.mem.keep fun a _ => decide (a < padBase)
    tier := { Tier.forBuild s.build with badWords := s.tier.badWords.filter fun w => decide (8 * w < padBase) }
    boot := { State.reset.boot with
      flash := s.boot.flash, numfw := s.boot.numfw, seqFault := s.boot.seqFault, tripFault := s.boot.tripFault, removed := s.boot.removed,
      testMode := s.boot.testMode, inReset := true }
    mgmt := { State.reset.mgmt with sent := s.mgmt.sent }
    hif := { State.reset.hif with raised := s.hif.raised } }
  { t with power := { t.power with bank := t.bankMax } }

/-- A reset of the package from source `cause`: every die is held in reset, every link is down. -/
def State.packageReset (s : State) (cause : Nat) : State :=
  (s.cleared.setReg .resetCause cause).setReg .startCount (s.reg .startCount + 1)

end Sys2Proof.Machine
end

