-- ==== Sys2Proof/Machine/Faults.lean ====
section
/-! DEFINITION. Heartbeats, reports and the self-fence (R468 to R470), corrected errors and scrubbing (R458 to R461), links and units
that leave service (R20, R210, R463, R465, R479), and shadow recompute (R474 to R478, R483, R484). -/

namespace Sys2Proof.Machine

-- Heartbeats (R469, R470) --------------------

/-- HB_LOSS_MS in CK cycles. -/
def State.hbLossCk (s : State) : Nat := s.reg .hbLossMs * 825000

/-- HEARTBEAT: one frame on each port with a REPORT_DEST, outside the limits of R468. -/
def State.heartbeat (s : State) : State :=
  if s.reg .hbEnable ≠ 1 then s
  else
    let seq := (s.faults.hbSeq + 1) % 2 ^ 32
    let f : FaultRec := { s.record 0x0000 0 0 0 with data := seq }
    let i := s.reg .faultLogIndex
    let ports := [0, 1].filter fun m => decide (s.oct .reportDest m ≠ zeros 18)
    let recent := s.faults.beats.filter fun b => decide (s.ck < b.2.2 + s.hbLossCk)
    let s := { s with faults := { s.faults with
      hbSeq := seq, log := s.faults.log.put i f, beats := recent ++ ports.map fun m => (seq, m, s.ck) } }
    ports.foldl (fun s m => s.report m [f.word]) (s.setReg .faultLogIndex ((i + 1) % 16384))

def execHeartbeat (s : State) : Out := .next s.heartbeat

/-- HB_ECHO of a session on management port `m`, 0 or 1. -/
def State.hbEchoWrite (m v : Nat) (s : State) : Except Nat State :=
  if s.faults.beats.any fun b => decide (b.1 = v) && decide (b.2.1 = m) && decide (s.ck ≤ b.2.2 + s.hbLossCk) then
    .ok { s with faults := { s.faults with renewed := s.faults.renewed.set 0 m (s.ck + 1) } }
  else .error 0x8010

/-- HB_ECHO; a mailbox session lies on no management port. -/
def State.hbEchoBy (sess v : Nat) (s : State) : Except Nat State :=
  match (s.sess sess).via with
  | .mailbox => .error 0x8010
  | t => s.hbEchoWrite (viaPort t - 1) v

def execHbEcho (sess value : Nat) (s : State) : Out := .next (s.write sess .hbEcho 0 value (State.hbEchoBy sess (value % 2 ^ 32)))

/-- Port `m` has been renewed within HB_LOSS_MS (HB_STATE). -/
def State.hbRenewed (s : State) (m : Nat) : Bool :=
  match s.faults.renewed.get 0 m with
  | 0 => false
  | n + 1 => decide (s.ck < n + s.hbLossCk)

/-- Neither port has been renewed for HB_LOSS_MS, counted from the setting of HB_ENABLE at the earliest. -/
def State.hbLost (s : State) : Bool :=
  let last := max (s.faults.renewed.get 0 2) (max (s.faults.renewed.get 0 0) (s.faults.renewed.get 0 1)) - 1
  decide (last + s.hbLossCk ≤ s.ck)

/-- SELF_FENCE: the package revokes its own credentials. -/
def execSelfFence (s : State) : Out :=
  .next (if s.reg .hbEnable = 1 ∧ s.fabricOn ∧ s.hbLost then (s.bump .selfFences).revoke else s)

/-- HB_ENABLE: renewal counts from its setting. -/
def State.hbEnableWrite (v : Nat) (s : State) : Except Nat State :=
  let s := if v = 1 ∧ s.reg .hbEnable = 0 then
      { s with faults := { s.faults with renewed := Tab.set 0 [] 2 (s.ck + 1), beats := [] } } else s
  .ok (s.setReg .hbEnable v)

/-- HB_LOSS_MS and HB_PERIOD_US keep HB_LOSS_MS × 1 000 at or above 2 × HB_PERIOD_US (R483). -/
def State.hbTimes (r : Reg) (v loss period : Nat) (s : State) : Except Nat State :=
  if loss * 1000 < 2 * period then .error 0x8010 else .ok (s.setReg r v)

-- Reports (R468) --------------------

/-- Pairs (SUSPECT_PKG, epoch) of records, in order, without repeats. -/
def reportKeys (fs : List FaultRec) : List (Nat × Nat) := (fs.map fun f => (f.suspect, f.epoch)).eraseDups

/-- REPORT_EPOCH_END: the records of every epoch that is over leave, one frame per suspect, epoch and port; sessions get the same
words. -/
def State.epochEnd (s : State) : State :=
  let over_ (f : FaultRec) : Bool := decide (f.epoch ≠ s.epochNow % 2 ^ 32)
  let out := s.faults.epoch.filter over_
  let s := { s with faults := { s.faults with epoch := s.faults.epoch.filter fun f => !over_ f } }
  (reportKeys out).foldl (fun s k =>
    let fs := out.filter fun f => (f.suspect, f.epoch) = k
    let s := (s.report 0 (fs.map FaultRec.word)).report 1 (fs.map FaultRec.word)
    fs.foldl (fun s f => s.event 1 0 0 0xFFFFFFFF f.bits (some f.time)) s) s

def execReportEpochEnd (s : State) : Out := .next s.epochEnd

-- Corrected errors and scrubbing (R459 to R461) --------------------

/-- The unit a scrubbed place belongs to, as UNIT_KIND and UNIT. -/
def State.locUnit (s : State) (l : Loc) : Nat × Nat :=
  match l with
  | .dpa a => s.dpaUnit a
  | .ueDescriptor _ => (10, 0)
  | .contextDescriptor _ => (10, 0)
  | .dspData core _ => (5, core)
  | .dspInstr core _ => (5, core)
  | .hubFirmware => (10, 0)
  | .paramStore e => (2, e)
  | .queuePool d => (8, d)
  | .fabricBuffers d => (6, d)

/-- FAULT_CODE by the place a word lies in (R462), which names no code for the last three. -/
def State.locCode (s : State) (l : Loc) : Nat :=
  match l with
  | .dpa a =>
    if (s.tier.pages.keysWhere fun f _ => decide (f = a / frameBytes)) ≠ [] then 0x0104
    else
      let radioPad := (List.range 128).any fun e =>
        let p := s.tier.radioSp.get 0 e
        decide (privDpa e + 2 ^ 22 - p ≤ a) && decide (a < privDpa e + 2 ^ 22)
      let radioShared := (List.range 16).any fun d =>
        let p := s.tier.radioShared.get 0 d
        decide (sharedDpa d + 2 ^ 25 - p ≤ a) && decide (a < sharedDpa d + 2 ^ 25)
      let radioStack := (bitsOf 12 s.tier.radioStackMask).any fun n =>
        decide (s.localDpa n ≤ a) && decide (a < s.localDpa n + s.tier.radioStackBytes)
      if radioPad || radioShared || radioStack then 0x0105
      else
        let kept := match s.tier.frames.get .free (a / frameBytes) with
          | .ledger _ => true
          | .buddy => true
          | _ => false
        if (s.jobRegionOf a).isSome || kept then 0x0103 else 0x0102
  | .ueDescriptor _ => 0x0106
  | .contextDescriptor _ => 0x0106
  | .dspData _ _ => 0x0107
  | .dspInstr _ _ => 0x0108
  | .hubFirmware => 0x0109
  | .paramStore _ => 0
  | .queuePool _ => 0
  | .fabricBuffers _ => 0

/-- Keys of the word in the list of uncorrectable words. Hub firmware memory holds none of the model's data, and R462 gives a word of the
last three no owner to end: it is only counted. DESIGN CHOICE, log entry 93. -/
def State.locWords (s : State) (l : Loc) : List Nat :=
  match l with
  | .dpa a => (List.range ((dpaWord a).2 / 8)).map fun k => (dpaWord a).1 / 8 + k
  | .ueDescriptor i => [badUe i]
  | .contextDescriptor c => [badCtx c]
  | .dspData core a => [badData core (a % 2 ^ 19)]
  | .dspInstr core a => [badCode core ((s.core core).active * 65536 + a % 65536)]
  | .hubFirmware => []
  | .paramStore _ => []
  | .queuePool _ => []
  | .fabricBuffers _ => []

/-- SCRUB: a corrected word counts; an uncorrectable one is reported with severity 0 and ends nothing, but in hub firmware memory,
which the running firmware reads, it resets the package (R462, R522). -/
def State.scrub (s : State) (l : Loc) (r : ScrubResult) : State :=
  let (k, u) := s.locUnit l
  match r with
  | .clean => s
  | .corrected =>
    let key := k * 256 + u
    { s.bump .ceTotal with faults := { s.faults with corrected := s.faults.corrected.set 0 key (s.faults.corrected.get 0 key + 1) } }
  | .uncorrectable =>
    let a := match l with
      | .dpa a => (dpaWord a).1
      | _ => 0
    let new := (s.locWords l).filter fun w => !s.tier.badWords.contains w
    let s := { s with tier := { s.tier with badWords := s.tier.badWords ++ new } }
    let s := s.bump .ueTotal
    let s := if s.locCode l = 0 then s else s.raise { s.record (s.locCode l) 0 k u with address := a }
    if l = .hubFirmware then s.packageReset 6 else s

def execScrub (loc : Loc) (result : ScrubResult) (s : State) : Out := .next (s.scrub loc result)

/-- CE_SECOND of a unit: `corrected` is what its accesses corrected in this second, beside the scrub reads. -/
def State.ceSecond (s : State) (u : UnitId) (corrected : Nat) : State :=
  let key := (UnitId.code u).1 * 256 + (UnitId.code u).2
  let n := corrected + s.faults.corrected.get 0 key
  let s := { s.bump .ceTotal 0 corrected with faults := { s.faults with corrected := s.faults.corrected.set 0 key 0 } }
  if s.reg .ceReportThreshold < n then s.fault 0x0101 1 (UnitId.code u).1 (UnitId.code u).2 0xFFFF (n % 2 ^ 32) else s

def execCeSecond (unit : UnitId) (corrected : Nat) (s : State) : Out := .next (s.ceSecond unit corrected)

-- Units that leave service (R20, R220, R465, R479) --------------------

/-- Kills the running commands of the contexts on the engines, but for hub commands, which use none of their units (R241, R479). -/
def State.killOn (s : State) (es : List Nat) : State :=
  (es.flatMap s.placedOn).foldl (fun s c => match (s.ctx c).cmd with
    | some x => match x.op with
      | some op => if op.unit = .hub then s else s.killCtx c 0x13 0
      | none => s
    | none => s) s

/-- Radio commands on the engines re-run in their windows; each engine a copy binds is reported (R220, R467, R479). -/
def State.radioOn (s : State) (es : List Nat) : State :=
  es.foldl (fun s e =>
    let s := if s.engineBound e then s.fault 0x0505 3 2 e else s
    match (s.engine e).running with
    | some (.radio l) => s.killRadio l 0x12 0
    | _ => s) s

/-- Steps 1 to 3 of R479 for engines whose bits are already clear. -/
def State.enginesLeave (s : State) (es : List Nat) : State :=
  let s := (s.killOn es).radioOn es
  let s := es.foldl (fun s e => s.stopShadow e) s
  ((s.askMoves (es.flatMap s.placedOn) none).rebindTilth es).settleAll

/-- The stack homed on a compute die (R14, R19, R181). -/
def State.homeStack (s : State) (die : Nat) : Option Nat :=
  if [5, 6, 9, 10].contains die then none
  else
    let n := s.hoodStack die
    if [4, 7, 8, 11].contains die ∧ n < 8 then none else some n

/-- A cell's areas in the radio region: its state block, the soft buffers its UE descriptors name, and those written (R465). -/
def State.cellAreas (s : State) (cell : Nat) : List (Nat × Nat) :=
  let ues := ((List.range (s.reg .ueCount cell)).map fun i => s.radio.ue.get 0 (s.reg .ueBase cell + i)).filter fun d =>
    bit d 0 && decide (field d 15 8 ≠ 0)
  (stateBlock cell, 65536) :: ues.map (fun d => (field d 39 16 * 4096, 4096)) ++ (s.cell cell).softs.map fun u => (u * 4096, 4096)

/-- RADIO_STACK_LOST: cells with an area in the stack are disabled at their next frame boundary. -/
def State.radioStackLost (s : State) (n : Nat) : State :=
  if !bit s.tier.radioStackMask n then s
  else
    let lo := popCount n s.tier.radioStackMask * s.tier.radioStackBytes
    s.enabledCells.foldl (fun s cell =>
      if (s.cellAreas cell).any fun a => overlap a.1 a.2 lo s.tier.radioStackBytes then
        (s.modCell cell fun x => { x with lost := true }).fault 0x0506 4 3 n cell
      else s) s

/-- UNIT_OUT of a fitted stack. -/
def State.stackLeaves (s : State) (n : Nat) : State :=
  if !bit s.stackService n then s
  else
    let s := { s with faults := { s.faults with stackOut := setBit s.faults.stackOut n true } }
    (s.fault 0x0204 3 3 n).radioStackLost n

/-- Cores leave service: a handler that runs is abandoned. -/
def State.coresLeave (s : State) (l : List Nat) : State :=
  l.foldl (fun s n =>
    let s := { s with faults := { s.faults with dspOut := setBit s.faults.dspOut n true } }
    if (s.core n).handler.isSome then s.leaveHandler n else s) s

/-- A fabric port leaves service. -/
def State.xpLeaves (s : State) (p : Nat) : State :=
  if !bit s.xpService p then s
  else ({ s with faults := { s.faults with xpOut := setBit s.faults.xpOut p true } }).portDown p

/-- A fronthaul port's link goes down. -/
def State.fhLeaves (s : State) (p : Nat) : State :=
  { s with fh := { s.fh with linkUp := setBit s.fh.linkUp p false, fecLock := setBit s.fh.fecLock p false } }

/-- A compute die leaves service; its router and stack keep running (R20). -/
def State.dieLeaves (s : State) (n : Nat) : State :=
  if bit s.faults.cdOut n then s
  else
    let s := { s with faults := { s.faults with cdOut := setBit s.faults.cdOut n true } }
    (s.enginesLeave ((List.range 8).map (8 * n + ·))).fault 0x0204 3 1 n

/-- A compute die's router is lost, and with it its home stack (R20). -/
def State.routerLost (s : State) (n : Nat) : State :=
  if bit s.faults.routerOut n then s
  else
    let s := { s with faults := { s.faults with routerOut := setBit s.faults.routerOut n true } }
    let s := (s.dieLeaves n).fault 0x0302 3 1 n
    match s.homeStack n with
    | some k => s.stackLeaves k
    | none => s

/-- The die or stack is part of this build (R19). -/
def State.fitted (s : State) (u : UnitId) : Bool :=
  match u with
  | .stack n => bit s.build.stackMask n
  | .xd n => s.xdFitted n
  | .xp n => s.xdFitted (n / 4)
  | .link n => s.linkExists n
  | _ => true

/-- A unit leaves service, alone: not what depends on its links. -/
def State.unitLeaves (s : State) (u : UnitId) : State :=
  let out (s : State) : State := s.fault 0x0204 3 (UnitId.code u).1 (UnitId.code u).2
  match u with
  | .me n =>
    if 127 < n || bit s.faults.meOut n then s
    else
      let s := { s with faults := { s.faults with meOut := setBit s.faults.meOut n true } }
      out (s.enginesLeave [n])
  | .cd n => if n < 16 then s.dieLeaves n else s
  | .stack n => s.stackLeaves n
  | .bd n =>
    let cores := (List.range 48).map (48 * n + ·)
    if 1 < n || cores.all (bit s.faults.dspOut ·) then s else out (s.coresLeave cores)
  | .dsp n => if 95 < n || bit s.faults.dspOut n then s else out (s.coresLeave [n])
  | .xd n =>
    let ports := (List.range 4).map (4 * n + ·)
    if 3 < n || ports.all (!bit s.xpService ·) then s else out (ports.foldl (fun s p => s.xpLeaves p) s)
  | .xp n => if 15 < n || !bit s.xpService n then s else out (s.xpLeaves n)
  | .fd n =>
    if 1 < n || s.faults.cutOff.contains (.fd n) then s
    else out ((List.range 8).foldl (fun s p => s.fhLeaves (8 * n + p))
      { s with faults := { s.faults with cutOff := s.faults.cutOff ++ [.fd n] } })
  | .fh n => if n < 16 then out (s.fhLeaves n) else s
  | .link n =>
    if s.linkUp n then out { s with faults := { s.faults with linksOut := s.faults.linksOut ++ [n] } } else s
  | .package => out s
  | .hd => out s
  | .timeBase _ => out s

/-- Units that the mesh no longer reaches leave service as with a failed router, until no more follow (R20, R463). -/
def State.cutUnits (s : State) : Nat → State
  | 0 => s
  | k + 1 =>
    match linkedUnits.filter fun u => s.fitted u && s.cutOff u && !s.faults.cutOff.contains u with
    | [] => s
    | us =>
      (us.foldl (fun s u =>
        let s := match u with
          | .cd n => s.routerLost n
          | u => (s.unitLeaves u).fault 0x0302 3 (UnitId.code u).1 (UnitId.code u).2
        if s.faults.cutOff.contains u then s else { s with faults := { s.faults with cutOff := s.faults.cutOff ++ [u] } }) s).cutUnits k

/-- A link or a router is lost: the units it cuts off leave service, and the hub loads tables that avoid what is out (R20, R463). -/
def State.meshLoss (s : State) : State := (s.cutUnits 40).meshSwitch

/-- A router failed (R20). -/
def State.routerFault (s : State) (n : Nat) : State :=
  if 15 < n || bit s.faults.routerOut n then s else (s.routerLost n).meshLoss

/-- A unit leaves service (R479). -/
def State.leave (s : State) (u : UnitId) : State :=
  match u with
  | .link n => if s.linkUp n then (s.unitLeaves (.link n)).meshLoss else s
  | u => s.unitLeaves u

/-- UNIT_OUT; `router` says that a compute die leaves because its router failed. -/
def execUnitOut (unit : UnitId) (router : Bool) (s : State) : Out :=
  .next (match unit, router with
  | .cd n, true => s.routerFault n
  | u, _ => s.leave u)

-- Links (R13, R463) --------------------

/-- LINK_RETRAIN. -/
def execLinkRetrain (link : Nat) (s : State) : Out :=
  .next (if !s.linkExists link then s
    else { s with faults := { s.faults with linksRetrained := s.faults.linksRetrained.set 0 link (s.ck + 1) } })

/-- A link has retrained, and 100 µs have passed since (R463). -/
def State.linkDue (s : State) (link : Nat) : Bool :=
  match s.faults.linksRetrained.get 0 link with
  | 0 => false
  | n + 1 => decide (n + 82500 ≤ s.ck)

/-- LINK_DOWN, of a link that has carried no flit within 100 µs of its retraining. -/
def execLinkDown (link : Nat) (s : State) : Out :=
  .next (if !s.linkDue link || !s.linkUp link then s
    else
      let s := { s with faults := { s.faults with linksOut := s.faults.linksOut ++ [link] } }
      (s.fault 0x0301 3 11 link).meshLoss)

-- Returning and quarantine (R478, R479, R483) --------------------

/-- The current tilth table cannot be bound (reason 0x06 of R223). -/
def State.unbindable (s : State) : Bool :=
  match s.tilth.copies with
  | c :: _ => decide ((s.bindTable c.entries).length < (tilthLogicals c.entries).length)
  | [] => false

/-- Quarantines engines whose bits of ME_QUARANTINE are already set. -/
def State.quarantine (s : State) (es : List Nat) : State :=
  let s := s.enginesLeave es
  es.foldl (fun s e => (s.fault 0x0203 3 2 e).fault 0x0204 3 2 e) s

/-- ME_QUARANTINE. -/
def State.quarantineWrite (v : Nat) (s : State) : Except Nat State :=
  let old := leNat (s.oct .meQuarantine)
  let added := (bitsOf 128 v).filter fun e => !bit old e
  let back := (bitsOf 128 old).filter fun e => !bit v e
  let t := s.setOct .meQuarantine (leBytes 16 v)
  if added ≠ [] ∧ t.unbindable then .error 0x8016
  else
    let t := back.foldl (fun (t : State) e =>
      { t.setReg .meMismatches 0 e with faults := { t.faults with meOut := setBit t.faults.meOut e false } }) t
    .ok (if added = [] then t else t.quarantine added)

def execMeQuarantine (sess : Nat) (value : BitVec 128) (s : State) : Out :=
  .next (s.writeOctets sess .meQuarantine 0 (leBytes 16 value.toNat) (State.quarantineWrite value.toNat))

/-- A die that its local PLL took out returns with its router (R489); its home stack stays out. DESIGN CHOICE, log entry 95. -/
def State.dieReturns (s : State) (d : Nat) : State :=
  let pll := bit s.faults.routerPll d
  { s with faults := { s.faults with
    cdOut := setBit s.faults.cdOut d false
    routerOut := if pll then setBit s.faults.routerOut d false else s.faults.routerOut
    routerPll := setBit s.faults.routerPll d false } }

/-- CD_OUT_MASK; a die whose local PLL is out of lock (R489), or whose router has failed (R20), stays out. -/
def State.cdOutWrite (v : Nat) (s : State) : Except Nat State :=
  let old := s.reg .cdOutMask
  let added := (bitsOf 16 v).filter fun d => !bit old d
  let back := (bitsOf 16 old).filter fun d => !bit v d && bit (s.reg .diePllLock) d && (s.routerUp d || bit s.faults.routerPll d)
  let t := s.setReg .cdOutMask v
  if added ≠ [] ∧ t.unbindable then .error 0x8016
  else
    let t := back.foldl State.dieReturns t
    let t := if back.any (bit s.faults.routerPll) then t.meshSwitch else t
    .ok (added.foldl (fun t d => (t.enginesLeave ((List.range 8).map (8 * d + ·))).fault 0x0204 3 1 d) t)

def execCdOutMask (sess : Nat) (value : W16) (s : State) : Out :=
  .next (s.write sess .cdOutMask 0 value.toNat (State.cdOutWrite value.toNat))

-- Shadow recompute (R474 to R477) --------------------

/-- Private base of a shadow's temporary allocation on an engine, in granules: a BE place that no allocation has. -/
def State.shadowPriv (s : State) (w : Shadow) (e : Nat) : Option Nat :=
  let lo := min (max (s.floorGranules e) (s.reg .lcFloorBytes / granule)) (s.tenantGranules e)
  let taken := sortNat (s.takenGranules e true 4096 ++ s.takenGranules e false 4096)
  highStart (w.privBytes / granule) (gaps lo (s.tenantGranules e) taken)

/-- Engine `e` qualifies for shadow `w` (R475). -/
def State.shadowFits (s : State) (w : Shadow) (e : Nat) : Bool :=
  let sealOk := if s.sealed w.slice then bit (s.sealMask w.slice) e else decide (s.dedicatedTo e = none)
  decide (e / 8 ≠ w.engine / 8) && s.meInService e && sealOk && (s.shadowPriv w e).isSome
    && (decide (w.sharedBytes = 0) || decide (0 < gapStarts (w.sharedBytes / sharedUnit) (s.sharedGaps (e / 8) 4096)))

/-- It may start there now: R230, R244; being of class BE, after every ready LC command (R233, R234). -/
def State.shadowReady (s : State) (w : Shadow) (e : Nat) : Bool :=
  match Op.ofCode (Desc.opcode w.desc) with
  | some op => s.engineFree e && !bit (s.reg .schedGates) 0 && s.startRule e (opCount op w.desc) && !(s.classOn e true).any s.enginePending
  | none => false

/-- Removes a shadow. -/
def State.dropShadow (s : State) (w : Shadow) : State :=
  { s with faults := { s.faults with shadows := s.faults.shadows.filter (· ≠ w) } }

/-- A shadow that never starts is skipped; a context that waits for its copy goes on. -/
def State.skipShadow (s : State) (w : Shadow) : State :=
  let s := (s.dropShadow w).bump .shadowSkipped
  if w.written then s else s.modCtx w.ctx fun x => { x with copying := false }

/-- Starts shadow `w` on engine `e`: the temporary allocation holds the copy of the read set, and zeros elsewhere. -/
def State.startShadow (s : State) (w : Shadow) (e : Nat) : State :=
  match s.shadowPriv w e, s.pickStart (w.sharedBytes / sharedUnit) (s.sharedGaps (e / 8) 4096), Op.ofCode (Desc.opcode w.desc) with
  | some g, (sh, s), some op =>
    let p := privDpa e + g * granule
    let h := sharedDpa (e / 8) + sh.getD 0 * sharedUnit
    let s := (s.clear p w.privBytes).clear h w.sharedBytes
    let s := w.readSet.foldl (fun s b => s.wr ((if b.1 / 2 ^ 60 = 0 then p else h) + b.1 % 2 ^ 60) b.2) s
    let w' : Shadow := { w with shadowEngine := some e, privBase := g * granule, sharedBase := sh.getD 0 * sharedUnit }
    let s := { s with faults := { s.faults with shadows := s.faults.shadows.map fun x => if x = w then w' else x } }
    let s := s.loadParams e (s.shadowByte w' e) op w.desc
    let s := (s.modEngine e fun x => { x with shadow := true }).beginPass e (s.shadowByte w' e) op w.desc 0
    s.engineBusy e w.ctx (modeOf op w.desc) 4
  | _, _, _ => s

/-- SHADOW_START: the oldest copied shadow that waits; skipped when no engine qualifies. Which ready engine takes it is left open. -/
def execShadowStart (s : State) : Out :=
  .next (match s.faults.shadows.find? fun w => w.written && w.shadowEngine = none with
  | none => s
  | some w =>
    let fit := (List.range 128).filter fun e => s.shadowFits w e
    if fit = [] then s.skipShadow w
    else match s.choose (fit.filter fun e => s.shadowReady w e) with
      | (some e, t) => t.startShadow w e
      | (none, _) => s)

/-- SHADOW_MAX_AGE: a shadow that has not started in time is skipped. -/
def execShadowMaxAge (s : State) : Out :=
  .next (match s.faults.shadows.find? fun w => w.shadowEngine = none && decide (w.selectedCk + s.reg .shadowMaxAgeMs * 825000 ≤ s.ck) with
  | some w => s.skipShadow w
  | none => s)

/-- SHADOW_COPY_DONE: the write set is copied, and the context's next command may proceed. -/
def State.shadowCopied (s : State) (c : Nat) : State :=
  let take (w : Shadow) : Shadow :=
    match Op.ofCode (Desc.opcode w.desc) with
    | some op => if w.ctx = c && !w.written then { w with written := true, writeSet := s.copyExts c (opWrites op w.desc) } else w
    | none => w
  if !(s.ctx c).copying then s
  else
    let s := { s with faults := { s.faults with shadows := s.faults.shadows.map take } }
    (s.modCtx c fun x => { x with copying := false }).checkNext c

def execShadowCopyDone (ctx : Nat) (s : State) : Out := .next (s.shadowCopied ctx)

/-- The original's output bytes, in the order of its write set. -/
def Shadow.output (w : Shadow) : Bytes :=
  match Op.ofCode (Desc.opcode w.desc) with
  | some op => (opWrites op w.desc).flatMap fun x => w.writeSet.run 0 (x.tier * 2 ^ 60 + x.off) x.len
  | none => []

/-- The original as a result. -/
def Shadow.original (w : Shadow) : ShadowResult :=
  { bytes := w.output, sat := w.counts.sat, inv := w.counts.inv, satHi := w.counts.satHi, satLo := w.counts.satLo,
    firstFlagged := w.counts.first.getD 0xFFFFFFFF, engine := w.engine }

/-- Results agree but for the engine. -/
def sameResult (a b : ShadowResult) : Bool := { a with engine := 0 } = { b with engine := 0 }

/-- Positions at which two outputs differ. -/
def diffAt (a b : Bytes) : List Nat := (List.range (max a.length b.length)).filter fun i => decide (a[i]? ≠ b[i]?)

/-- An entry of the mismatch log (R477). Temperatures, voltages and the activity are the sensors' readings: free values. -/
def State.mismatchEntry (s : State) (w : Shadow) (r : ShadowResult) (third verdict : Nat) : Bytes :=
  let d := diffAt w.output r.bytes
  let m (i : Nat) : Nat := Config.measured (s.free + i) % 65536
  let bits := w.ctx % 65536 * 2 ^ 496 + w.engine % 256 * 2 ^ 488 + r.engine % 256 * 2 ^ 480 + third % 256 * 2 ^ 472 + verdict * 2 ^ 464 +
    m 0 * 2 ^ 448 + m 1 * 2 ^ 432 + m 2 * 2 ^ 416 + m 3 * 2 ^ 400 + m 4 * 2 ^ 384 + d.length % 2 ^ 32 * 2 ^ 352 +
    d.headD 0 % 2 ^ 32 * 2 ^ 320 + w.step % 2 ^ 64 * 2 ^ 256 + time80 s.qns * 2 ^ 176 + w.slice % 256 * 2 ^ 168
  leBytes 64 w.desc ++ leBytes 64 bits

/-- Charges an engine with a mismatch, and quarantines it at MISMATCH_LIMIT (R478). -/
def State.chargeMismatch (s : State) (e : Nat) : State :=
  let s := s.bump .meMismatches e
  if s.reg .mismatchLimit ≤ s.reg .meMismatches e && !bit (leNat (s.oct .meQuarantine)) e then
    (s.setOct .meQuarantine (leBytes 16 (setBit (leNat (s.oct .meQuarantine)) e true))).quarantine [e]
  else s

/-- A difference between a shadow and its original, judged by a third run on a third die (R476). -/
def State.mismatch (s : State) (w : Shadow) (r : ShadowResult) (third : Option ShadowResult) : State :=
  let o := w.original
  let third := third.filter fun t => decide (t.engine / 8 ≠ o.engine / 8) && decide (t.engine / 8 ≠ r.engine / 8)
  let (verdict, charged) : Nat × List Nat := match third with
    | none => (4, [])
    | some t =>
      if sameResult t r then (1, [o.engine])
      else if sameResult t o then (2, [r.engine])
      else (3, [o.engine, r.engine])
  let e := s.mismatchEntry w r ((third.map fun t => t.engine).getD 0xFF) verdict
  let s := { s.bump .shadowMismatches with free := s.free + 5, faults := { s.faults with mismatches := (e :: s.faults.mismatches).take 16 } }
  let s := s.raise { s.record 0x0202 0 2 o.engine with context := w.ctx, job := s.ctxJob w.ctx, data := w.step }
  charged.foldl (fun s e => s.chargeMismatch e) s

/-- SHADOW_COMPARE of the shadow on the engine that the result names. EXEC_CYCLES does not count its run, and idle that the brim put off
in it stays due until a tenant command of the engine commits (R91). DESIGN CHOICE, log entry 72. -/
def execShadowCompare (shadow : ShadowResult) (third : Option ShadowResult) (s : State) : Out :=
  .next (match s.faults.shadows.find? fun w => w.shadowEngine = some shadow.engine with
  | none => s
  | some w =>
    let s := ((s.clearShadow w).dropShadow w).bump .shadowRuns
    if sameResult w.original shadow then s else s.mismatch w shadow third)

end Sys2Proof.Machine
end

