-- ==== Sys2Proof/Machine/Slices.lean ====
section
/-! DEFINITION. The host interface's slices: the PASID map (R388, R389), allocation requests (R386), slice maps and seals (R382 to
R384, R391, R392), freezing, saving and restoring (R396 to R400), function resets and failed host requests (R376, R377). -/

namespace Sys2Proof.Machine

-- The PASID map (R388, R389) --------------------

/-- PASID_LOAD_OFFSET: a write while the former copy is in use is ignored (R207). -/
def State.pasidOffset (v : Nat) (s : State) : Except Nat State :=
  if 16384 < v then .error 0x8010 else .ok (s.setReg .pasidLoadOffset v)

/-- Commands that started under the former PASID map still run: its copy is not yet the shadow (R207). -/
def State.formerPasid (s : State) : Bool :=
  s.liveCtxs.any fun c => match (s.ctx c).cmd with
    | some x => x.holds && decide (x.pasidEpoch ≠ s.reg .pasidMapEpoch)
    | none => false

/-- PASID_LOAD_DATA. -/
def State.pasidLoad (data : Bytes) (s : State) : Except Nat State :=
  let o := s.reg .pasidLoadOffset
  if 16384 < o + data.length then .error 0x8010
  else if s.hif.pasidNext.isSome || s.formerPasid then .error 0x8013
  else .ok (({ s with hif := { s.hif with pasidShadow := s.hif.pasidShadow.setRun 0 o data } }).setReg .pasidLoadOffset (o + data.length))

def execPasidLoadData (sess : Nat) (data : Bytes) (s : State) : Out :=
  .next (s.writeOctets sess .pasidLoadData 0 data (State.pasidLoad data))

/-- Some value occurs twice. -/
def hasTwice : List Nat → Bool
  | [] => false
  | x :: xs => xs.contains x || hasTwice xs

/-- No command of a context is running. -/
def State.noneHeld (s : State) : Bool :=
  s.liveCtxs.all fun c => match (s.ctx c).cmd with
    | some x => !x.holds
    | none => true

/-- PASID_MAP_COMMIT: takes effect at the next command boundary, at once when no command runs. -/
def State.pasidCommit (v : Nat) (s : State) : Except Nat State :=
  let es := (List.range (s.reg .pasidMapEntries)).map fun i => leNat (s.hif.pasidShadow.run 0 (4 * i) 4)
  if es.any fun e => decide (field e 30 26 ≠ 0) then .error 0x8011
  else if s.hif.pasidNext.isSome || decide (v ≠ (s.reg .pasidMapEpoch + 1) % 2 ^ 32) then .error 0x8013
  else if hasTwice ((es.filter fun e => bit e 31).map fun e => field e 19 0) then .error 0x8015
  else
    let s := { s with hif := { s.hif with pasidNext := some es } }
    .ok (if s.noneHeld then s.pasidBoundary else s)

/-- CTX_PASID of context `c`: at its next commit boundary (R389). -/
def State.ctxPasidWrite (c v : Nat) (s : State) : Except Nat State :=
  if 2 ^ 20 ≤ v ∧ v ≠ 0xFFFFFFFF then .error 0x8010
  else if (s.ctx c).live then .ok (((s.modWanted c fun w => { w with pasid := some v }).tryBoundary c).checkNext c)
  else .ok (s.setReg .ctxPasid v c)

def execCtxPasid (sess value : Nat) (s : State) : Out :=
  .next (s.write sess .ctxPasid 0 value (State.ctxPasidWrite (s.selected sess .ctx) (value % 2 ^ 32)))

-- Allocation requests (R386) --------------------

/-- CTX_PRIV_REQ of context `c`, written by session `sess`: a size that does not fit now is refused at once, and one that fits is judged
again at the boundary where it applies (R386). -/
def State.privReq (sess c v : Nat) (s : State) : Except Nat State :=
  let a := (s.ctx c).alloc
  if !(s.ctx c).live || decide (a.engine = none) then .ok (s.setReg .ctxPrivReq v c)
  else if !s.resizes c (alignUp granule v) a.sharedBytes then .error 0x8016
  else .ok ((s.modWanted c fun w => { w with privReq := some (sess, v) }).tryBoundary c)

def execCtxPrivReq (sess value : Nat) (s : State) : Out :=
  .next (s.write sess .ctxPrivReq 0 value (State.privReq sess (s.selected sess .ctx) (value % 2 ^ 32)))

/-- CTX_SHARED_REQ of context `c`, written by session `sess`. -/
def State.sharedReq (sess c v : Nat) (s : State) : Except Nat State :=
  let a := (s.ctx c).alloc
  if !(s.ctx c).live || decide (a.engine = none) then .ok (s.setReg .ctxSharedReq v c)
  else if !s.resizes c a.privBytes (alignUp sharedUnit v) then .error 0x8016
  else .ok ((s.modWanted c fun w => { w with sharedReq := some (sess, v) }).tryBoundary c)

def execCtxSharedReq (sess value : Nat) (s : State) : Out :=
  .next (s.write sess .ctxSharedReq 0 value (State.sharedReq sess (s.selected sess .ctx) (value % 2 ^ 32)))

-- Freezing and thawing (R396) --------------------

/-- A freeze kills engine, DMA and fabric commands, WAIT and WAIT_MEM. -/
def freezeKills (op : Op) : Bool := decide (op.unit ≠ .hub) || decide (op = .wait) || decide (op = .waitMem)

/-- Freezes slice `n`; it is frozen once nothing of it runs, and its contexts give up their turns (R239). -/
def State.freezeSlice (s : State) (n : Nat) : State :=
  let s := s.setSliceState n 1
  let s := (s.sliceCtxs n).foldl (fun s c =>
    match (s.ctx c).cmd with
    | some x => match x.op with
      | some op => if freezeKills op then s.killCtx c 0x11 0 else s
      | none => s
    | none => s) s
  (s.settleFreeze n).yieldTurns

/-- Thaws slice `n`: its queues run again, and killed commands with them. -/
def State.thawSlice (s : State) (n : Nat) : State :=
  let cs := (s.sliceCtxs n).filter fun c => (s.ctx c).live
  let s := s.setSliceState n 0
  let s := cs.foldl (fun s c => s.modPage c fun p => { p with state := if p.state = 2 then 1 else p.state }) s
  cs.foldl (fun s c => if s.queueRuns c then (s.beginWait c).checkNext c else s) s

/-- SLICE_CTRL. -/
def State.sliceCtrl (n v : Nat) (s : State) : Except Nat State :=
  if v = 1 then (if !s.sliceOn n || decide (s.sliceState n ≠ 0) then .error 0x8012 else .ok (s.freezeSlice n))
  else if v = 2 then (if s.sliceState n ≠ 2 then .error 0x8012 else .ok (s.thawSlice n))
  else .error 0x8010

def execFreeze (sess slice : Nat) (s : State) : Out := .next (s.write sess .sliceCtrl slice 1 (State.sliceCtrl slice 1))

def execThaw (sess slice : Nat) (s : State) : Out := .next (s.write sess .sliceCtrl slice 2 (State.sliceCtrl slice 2))

-- Saving (R189, R397, R398) --------------------

/-- A save or restore of slice `n` is running. -/
def State.transferring (s : State) (n : Nat) : Bool := decide (s.reg .saveStatus n = 1) || decide (s.reg .sliceRestoreStatus n = 1)

/-- SLICE_SAVE; the operand is IOVA, then the PASID. -/
def State.sliceSave (n : Nat) (v : Bytes) (s : State) : Except Nat State :=
  let pasid := leAt v 8 4
  if !s.sliceOn n || decide (s.sliceState n ≠ 2) || !(decide (pasid < 2 ^ 20) && pasidIn s.hif.pasid n pasid) || s.transferring n then
    .error 0x8012
  else
    let t : Transfer := { iova := leAt v 0 8, pasid, strict := false }
    .ok ({ s with hif := { s.hif with saves := s.hif.saves.put n t } }.setReg .saveStatus 1 n)

def execSliceSave (sess slice iova pasid : Nat) (s : State) : Out :=
  let v := leBytes 8 iova ++ leBytes 4 pasid
  .next (s.writeOctets sess .sliceSave slice v (State.sliceSave slice v))

/-- Tier 2 bytes that a slice's pending re-runs hold, as (offset, length). -/
def State.heldRegion (s : State) (n : Nat) : List (Nat × Nat) :=
  (s.sliceCtxs n).flatMap fun c =>
    match (s.ctx c).cmd with
    | some k => match k.op with
      | some op => if (s.ctx c).rerun then ((opWrites op k.desc).filter fun e => e.tier = 2).map fun e => (e.off, e.len) else []
      | none => []
    | none => []

/-- Bytes of a slice's private region, in tier 2 order; those that a pending re-run holds are 0 (R157). -/
def State.regionBytes (s : State) (n : Nat) : Bytes :=
  let held := s.heldRegion n
  let bytes := (s.tier.regions.get [] n).flatMap fun f => s.rdRun (f * frameBytes) frameBytes
  if held = [] then bytes
  else bytes.zipIdx.map fun p => if held.any fun h => decide (h.1 ≤ p.2) && decide (p.2 < h.1 + h.2) then 0 else p.1

/-- The slice image (R397). -/
def State.sliceImage (s : State) (n : Nat) : Bytes :=
  let images := ((s.sliceCtxs n).filter fun c => (s.ctx c).live).map fun c =>
    let i := s.contextImage c
    i ++ zeros (alignUp 4096 i.length - i.length)
  let region := s.regionBytes n
  let body := images.flatten ++ region
  let front := List.flatten
    [leBytes 4 0x5A485331, leBytes 2 1, leBytes 2 images.length, leBytes 4 s.detClass, leBytes 2 (s.ctxBase n), zeros 2,
     leBytes 8 region.length, leBytes 4 (s.reg .privQuotaFrames n), leBytes 4 (s.reg .spQuotaBytes n),
     leBytes 4 (s.reg .loamQuotaPages n), leBytes 4 (s.reg .loamMapEntries n), leBytes 8 (s.reg .loamMapIova n),
     leBytes 4 (s.reg .loamMapPasid n), leBytes 1 (s.reg .sliceWeight n), leBytes 1 (s.reg .lcAllowed n), zeros 2,
     leBytes 8 (4096 + body.length)]
  let head := slice front 0 0x800 ++ ((List.range 256).flatMap fun k => leBytes 8 (s.sync n k))
  head.take 0x80 ++ sha512 (head ++ body) ++ head.drop 0xC0 ++ body

/-- The save of slice `n` is over. -/
def State.endSave (s : State) (n status : Nat) : State :=
  { s with hif := { s.hif with saves := s.hif.saves.erase n } }.setReg .saveStatus status n

/-- SLICE_SAVE_DONE: the image is in host memory. -/
def execSliceSaveDone (slice : Nat) (s : State) : Out :=
  if s.reg .saveStatus slice ≠ 1 || decide (64 ≤ slice) then .next s
  else if !s.hif.access then .next (s.endSave slice 3)
  else
    let t := s.hif.saves.at slice
    let img := s.sliceImage slice
    .next (((s.hostWr t.pasid t.iova img).setReg .sliceImageBytes img.length slice).endSave slice 2)

-- Restoring (R399, R400) --------------------

/-- SLICE_RESTORE; the operand is IOVA, PASID, then STRICT_CLASS. -/
def State.sliceRestore (n : Nat) (v : Bytes) (s : State) : Except Nat State :=
  let pasid := leAt v 8 4
  if leAt v 12 1 / 2 ≠ 0 then .error 0x8011
  else if !s.sliceOn n || !(decide (pasid < 2 ^ 20) && pasidIn s.hif.pasid n pasid) || s.transferring n then .error 0x8012
  else
    let t : Transfer := { iova := leAt v 0 8, pasid, strict := leAt v 12 1 = 1 }
    .ok ({ s with hif := { s.hif with restores := s.hif.restores.put n t } }.setReg .sliceRestoreStatus 1 n)

def execSliceRestore (sess slice iova pasid : Nat) (strict : Bool) (s : State) : Out :=
  let v := leBytes 8 iova ++ leBytes 4 pasid ++ leBytes 1 (if strict then 1 else 0)
  .next (s.writeOctets sess .sliceRestore slice v (State.sliceRestore slice v))

/-- Magic, format, length and digest of a slice image hold. -/
def sliceImageOk (img : Bytes) : Bool :=
  decide (leAt img 0 4 = 0x5A485331) && decide (leAt img 4 2 = 1) && decide (leAt img 0x38 8 = img.length)
    && decide (slice img 0x80 64 = sha512 (img.take 0x80 ++ zeros 64 ++ img.drop 0xC0))

/-- The context images of a slice image. -/
def sliceImages (img : Bytes) : List Bytes := cutImages (leAt img 6 2) (img.drop 4096)

/-- The private region's bytes of a slice image. -/
def imageRegion (img : Bytes) : Bytes :=
  (img.drop (4096 + ((sliceImages img).map fun i => alignUp 4096 i.length).sum)).take (leAt img 0x10 8)

/-- The queue that an image's context goes to. -/
def imageTarget (img i : Bytes) : Int := (imgContext i : Int) - (leAt img 0x0C 2 : Int)

/-- Every target queue is free and within CTX_COUNT. -/
def State.targetsFree (s : State) (n : Nat) (img : Bytes) : Bool :=
  (sliceImages img).all fun i =>
    let q := imageTarget img i
    decide (0 ≤ q) && decide (q < s.ctxCount n) && !(s.ctx (s.ctxBase n + q.toNat)).page.enabled

/-- The quotas of an image can be granted (R199). -/
def State.quotasFit (s : State) (n : Nat) (img : Bytes) : Bool :=
  let others := (((List.range 64).filter fun m => m ≠ n && s.sealed m).map fun m => s.reg .loamQuotaPages m).sum
  !s.sealed n || decide (others + leAt img 0x20 4 ≤ s.tier.loamFrames)

/-- Quotas, loam map registers, weight and sync counters of an image. -/
def State.imageRegs (s : State) (n : Nat) (img : Bytes) : State :=
  let s := ((s.setReg .privQuotaFrames (leAt img 0x18 4) n).setReg .spQuotaBytes (leAt img 0x1C 4) n).setReg .loamQuotaPages (leAt img 0x20 4) n
  let s := ((s.setReg .loamMapEntries (leAt img 0x24 4) n).setReg .loamMapIova (leAt img 0x28 8) n).setReg .loamMapPasid (leAt img 0x30 4) n
  let s := (s.setReg .sliceWeight (leAt img 0x34 1) n).setReg .lcAllowed (leAt img 0x35 1) n
  ((List.range 256).foldl (fun s k => s.setSync n k (leAt img (0x800 + 8 * k) 8)) s).settleRegions

/-- Writes an image's private region into frames of the slice. -/
def State.putRegion (s : State) (frames : List Nat) (bs : Bytes) : State :=
  (frames.zipIdx).foldl (fun s p => s.wrRun (p.1 * frameBytes) ((bs.drop (p.2 * frameBytes)).take frameBytes)) s

/-- The restored contexts, or none when one finds no hood area. -/
def State.restoreAll (n pasid : Nat) (img : Bytes) : State → List Bytes → Option State
  | s, [] => some s
  | s, i :: is =>
    match s.restoreCtx n (s.ctxBase n + (imageTarget img i).toNat) i (leAt i 0x28 8) (some pasid) with
    | some s => State.restoreAll n pasid img s is
    | none => none

/-- The effect of a restore, or none when it fails (R399). -/
def State.restored (s : State) (n : Nat) (t : Transfer) (img : Bytes) : Option State :=
  if !(sliceImageOk img && (sliceImages img).all imageOk && s.targetsFree n img && s.quotasFit n img
      && (!t.strict || decide (leAt img 8 4 = s.detClass))) then none
  else
    let s := s.imageRegs n img
    let frames := s.tier.regions.get [] n
    if frames.length * frameBytes < leAt img 0x10 8 then none
    else
      let s := s.putRegion frames (imageRegion img)
      match State.loamCommit n ((s.reg .loamMapEpoch n + 1) % 2 ^ 32) s with
      | .error _ => none
      | .ok s =>
        match State.restoreAll n t.pasid img (s.switchMap n) (sliceImages img) with
        | none => none
        | some s =>
          let s := if s.sliceState n = 0 then s.freezeSlice n else s
          some (s.setReg .sliceStatus (setBit (s.reg .sliceStatus n) 4 (decide (leAt img 8 4 ≠ s.detClass))) n)

/-- The restore of slice `n` is over. -/
def State.endSliceRestore (s : State) (n status : Nat) : State :=
  { s with hif := { s.hif with restores := s.hif.restores.erase n } }.setReg .sliceRestoreStatus status n

/-- SLICE_RESTORE_DONE. -/
def execSliceRestoreDone (slice : Nat) (s : State) : Out :=
  if s.reg .sliceRestoreStatus slice ≠ 1 || decide (64 ≤ slice) then .next s
  else if !s.hif.access then .next (s.endSliceRestore slice 3)
  else
    let t := s.hif.restores.at slice
    let img := s.hostRd t.pasid t.iova (leNat (s.hostRd t.pasid (t.iova + 0x38) 8))
    match s.restored slice t img with
    | some s => .next (s.endSliceRestore slice 2)
    | none => .next (s.endSliceRestore slice 3)

-- SLICE_MAP (R382 to R384) --------------------

/-- Two ranges of numbers share one. -/
def rangesMeet (a m b n : Nat) : Bool := overlap a m b n

/-- A vector outside the slices lies in a range: MB_VECTOR, or that of an enabled radio host channel. -/
def State.vecTaken (s : State) (base count : Nat) : Bool :=
  let in_ (v : Nat) : Bool := decide (base ≤ v) && decide (v < base + count)
  in_ (s.reg .mbVector) || (List.range 8).any fun k => s.rhcOn k && in_ (s.rhcVector k)

/-- A job entry with ENABLE 1 names slice `n`. -/
def State.jobNames (s : State) (n : Nat) : Bool :=
  (List.range 256).any fun i => cfgEnable (s.jobBits i) && decide (cfgSlice (s.jobBits i) = n)

/-- Contexts leave their slice with records of cause 0x03 and are removed with their queue pages. -/
def State.dropContexts (s : State) (cs : List Nat) : State :=
  cs.foldl (fun s c => ((s.teardown c 0x30 0x03).removeCtx c).modPage c fun _ => default) s

/-- Loam pages, fetches and prefetches of a slice are dropped, and its private frames freed. -/
def State.emptySlice (s : State) (n : Nat) : State :=
  let s := (s.tier.pages.keysWhere fun _ x => decide (x.slice = n)).foldl (fun s f => s.dropPage f) s
  let s := (s.tier.regions.get [] n).foldl (fun s f => s.freeFrame f) s
  let s := { s with tier := { s.tier with
    regions := s.tier.regions.set [] n []
    fetches := s.tier.fetches.filter fun f => f.slice ≠ n
    prefetch := s.tier.prefetch.set [] n []
    window := s.tier.window.set 0 n 0 } }
  (s.setReg .sliceStatus 0 n).refillFetches false

/-- The sync counters of a slice that is created are 0 (R167). -/
def State.clearSync (s : State) (n : Nat) : State :=
  { s with hif := { s.hif with sync := s.hif.sync.filter fun p => decide (p.1 / 256 ≠ n) } }

/-- SLICE_MAP of slice `n`. -/
def State.sliceMapWrite (n v : Nat) (s : State) : Except Nat State :=
  let on := bit v 63
  let base := field v 55 44
  let count := field v 43 31
  let vb := field v 30 20
  let vc := field v 19 8
  let was := s.sliceOn n
  let others := (List.range 64).filter fun m => m ≠ n && s.sliceOn m
  let less := was && (!on || decide (count < s.ctxCount n))
  if 4096 < base + count ∨ 2048 < vb + vc then .error 0x8010
  else if field v 62 56 ≠ 0 ∨ field v 7 0 ≠ 0 then .error 0x8011
  else if (was && on && (decide (base ≠ s.ctxBase n) || decide (vb ≠ s.vecBase n))) || (less && s.transferring n)
      || (was && !on && s.jobNames n) then .error 0x8012
  else if (others.any fun m => rangesMeet base count (s.ctxBase m) (s.ctxCount m) || rangesMeet vb vc (s.vecBase m) (s.vecCount m))
      || s.vecTaken vb vc then .error 0x8015
  else
    let gone := if on then (s.sliceCtxs n).filter fun c => base + count ≤ c else s.sliceCtxs n
    let s := s.dropContexts gone
    let s := s.setReg .sliceMap v n
    let s := if was && !on then s.emptySlice n else s
    let s := if on && !was then s.clearSync n else s
    .ok (s.settleRegions.settleFreeze n)

-- SEAL_CFG (R391, R392) --------------------

/-- A masked engine is bound by the current or the pending tilth table, or dedicated to another slice. -/
def State.sealTaken (s : State) (n mask : Nat) : Bool :=
  (List.range 128).any fun e => bit mask e && (s.engineBound e || (List.range 64).any fun m => m ≠ n && s.sealed m && bit (s.sealMask m) e)

/-- A masked engine holds a context of another slice. -/
def State.sealHeld (s : State) (n mask : Nat) : Bool :=
  (List.range 128).any fun e => bit mask e && (s.placedOn e).any fun c => decide (s.sliceOf c ≠ some n)

/-- Contexts of a sealed slice that lie on other engines are to move to its own. -/
def State.moveHome (s : State) (n : Nat) : State :=
  ((s.sliceCtxs n).filter fun c => (s.ctx c).live && match (s.ctx c).alloc.engine with
    | some e => !bit (s.sealMask n) e
    | none => false).foldl (fun s c =>
      let e := (s.chooseEngine c (s.ctx c).alloc.home).getD 255
      ((s.modWanted c fun w => { w with engine := some e, spot := none }).tryBoundary c).checkNext c) s

/-- SEAL_CFG of slice `n`. -/
def State.sealWrite (n : Nat) (v : Bytes) (s : State) : Except Nat State :=
  let w := leNat v
  let mask := field w 191 64
  let on := bit w 63
  let others := (List.range 64).filter fun m => m ≠ n && s.sealed m
  let stack := (others.map s.sealStack).sum + field w 31 24
  let mesh := (others.map s.sealMesh).sum + field w 23 16
  let shares := s.tilth.copies.all fun c => bandwidthOk s.build.stackMask c.entries stack mesh
  let empty := bandwidthOk s.build.stackMask [] stack mesh
  let loam := (others.map fun m => s.reg .loamQuotaPages m).sum + s.reg .loamQuotaPages n
  if on && decide (mask = 0) then .error 0x8010
  else if field w 62 32 ≠ 0 ∨ field w 15 0 ≠ 0 then .error 0x8011
  else if on && s.sealHeld n mask then .error 0x8012
  else if on && s.sealTaken n mask then .error 0x8015
  else if on && (!(shares && empty) || decide (s.tier.loamFrames < loam)) then .error 0x8016
  else
    let s := s.setOct .sealCfg v n
    .ok (if on then s.moveHome n else s)

-- Function resets (R377) --------------------

/-- Running tenant commands are killed without a record. -/
def State.silentKills (s : State) : State :=
  s.liveCtxs.foldl (fun s c =>
    match (s.ctx c).cmd with
    | some x =>
      if x.phase = .started ∨ x.phase = .killing then (s.killCtx c 0x11 0).modCmd c fun k => { k with silent := decide (k.phase = .killing) }
      else s
    | none => s) s

/-- FLR, D3hot or a surprise link down: host access ends. After an FLR it returns when the reset completes, within 1 ms (R377); the time
is free, log entry 90. -/
def execFunctionLevelReset (kind : FunctionReset) (s : State) : Out :=
  let s := (s.bump .flrCount).silentKills
  let s := ((List.range 64).filter fun n => s.sliceOn n && decide (s.sliceState n = 0)).foldl (fun s n => s.freezeSlice n) s
  let s := (s.hif.saves.map fun (p : Nat × Transfer) => p.1).foldl (fun s n => s.endSave n 3) s
  let s := (s.hif.restores.map fun (p : Nat × Transfer) => p.1).foldl (fun s n => s.endSliceRestore n 3) s
  let s := { s with hif := { s.hif with
    msix := [], pba := [], mbRequest := [], mbResponse := [], mbStatus := 0, access := false
    flrEnd := if kind = .flr && s.hif.access then some (s.ck + 1 + (Config.flrTime s.ck).toNat % 825000) else none } }
  .next (if kind = .linkDown then s.setReg .pcieLink 0 else s)

/-- PCIE_LINK_UP: the trained link, lanes and rate code (R374, R401, R541). -/
def execPcieLinkUp (lanes rate : Nat) (s : State) : Out :=
  if !linkTrains lanes rate then .next s
  else
    let s := { s with hif := { s.hif with access := true, flrEnd := none } }.setReg .pcieLink (lanes * 256 + rate)
    .next s.checkAll

-- BAR2 and BAR4 (R379, R381, R393, R467) --------------------

/-- The radio host channel register at an offset of its 256 bytes (R393). -/
def State.rhcRead (s : State) (n off : Nat) : Nat :=
  let c := s.channel n
  match off with
  | 0x04 => c.downHead.toNat
  | 0x08 => c.downTail.toNat
  | 0x0C => c.upConsumed.toNat
  | 0x10 => c.dataConsumed.toNat
  | 0x14 => c.ignored.toNat
  | 0x18 => c.lastIgnored
  | _ => 0

/-- A 32-bit read of BAR2 at a multiple of 4; offsets that are not listed read 0 (R379), and so do all others in a
package halted without an image (R528). -/
def State.bar2Read (s : State) (off : Nat) : Nat :=
  if s.boot.halted then (if off = 0x4004 then s.hif.mbStatus else 0)
  else if off < 0x2000 then leAt s.hif.mbRequest off 4
  else if off < 0x4000 then leAt s.hif.mbResponse (off - 0x2000) 4
  else if off = 0x4004 then s.hif.mbStatus
  else if off = 0x4008 then s.hif.mbResponse.length
  else if 0x4800 ≤ off ∧ off < 0x5000 then s.rhcRead ((off - 0x4800) / 0x100) (off % 0x100)
  else if 0x5000 ≤ off ∧ off < 0x5100 then
    ((List.range 32).map fun k => if s.hif.pba.contains ((off - 0x5000) * 8 + k) then 2 ^ k else 0).sum
  else if 0x8000 ≤ off ∧ off < 0x10000 then s.msixWord ((off - 0x8000) / 4)
  else 0

/-- BAR4 is open (R381). -/
def State.bar4On (s : State) : Bool :=
  decide (s.reg .bar4Open = 1) && s.openSessions.any fun m => decide (s.role m = 4)

/-- The event word of the fault record log at an index, as BAR4 shows it from offset 0x80_0000 on: 0 while closed (R381, R467). -/
def State.bar4Fault (s : State) (i : Nat) : Nat := if s.bar4On then (s.faults.log.at (i % 16384)).word else 0

/-- An entry of the hub trace ring, as the first 8 MiB of BAR4 show it: 0 while closed (R381, R467). -/
def State.bar4Trace (s : State) (i : Nat) : Nat := if s.bar4On then ((s.faults.trace[i]?).map BitVec.toNat).getD 0 else 0

-- Failed requests (R196, R201, R209, R376) --------------------

/-- The fetch of a page, by what asked for it. -/
def State.fetchOf (s : State) (slice page : Nat) (asked : Bool) : Option Fetch :=
  s.tier.fetches.find? fun f => decide (f.slice = slice) && decide (f.page = page) && decide (f.frame ≠ none) && (decide (f.demand ≠ []) || f.again) == asked

/-- A context's request failed. -/
def State.requestFailed (s : State) (c : Nat) : State :=
  if (s.ctx c).live then (((s.bump .hostErrors).teardown c 0x30 0x02)).settleAll else s

/-- A failed write drops the latest up record (R376): the host finds in its place none of this pass (R133). -/
def State.dropUp (s : State) (n : Nat) : State :=
  let c := s.channel n
  if c.upIndex = c.upConsumed then s
  else
    let i := (c.upIndex - 1).toNat
    let at_ := s.reg .upRingBase n + i % 2 ^ s.rhcUpLog2 n * 64
    let w := leNat (s.hostRd (s.reg .rhcPasid n) at_ 1)
    (s.hostWr (s.reg .rhcPasid n) at_ (leBytes 1 (w ^^^ 1))).modChannel n fun c => { c with upIndex := c.upIndex - 1 }

/-- HOST_REQUEST_FAILED. -/
def execHostRequestFailed (what : HostRequest) (s : State) : Out :=
  match what with
  | .contextRequest c => .next (s.requestFailed c)
  | .streamedRead c => .next (s.requestFailed c)
  | .demandFetch _ slice page =>
    match s.fetchOf slice page true with
    | some f => .next (s.fetchFailed f)
    | none => .next s
  | .prefetch slice page =>
    match s.fetchOf slice page false with
    | some f => .next (s.fetchFailed f)
    | none => .next s
  | .loamMap sess slice =>
    let t := s.write sess .loamMapCommit slice 0 fun _ => .error 0x8018
    .next (if t.reg .dictLastIgnored = 0x8018 ∧ t ≠ s then t.mapReadFailed slice else t)
  | .sliceSave n => .next (if s.reg .saveStatus n = 1 then (s.bump .hostErrors).endSave n 3 else s)
  | .sliceRestore n => .next (if s.reg .sliceRestoreStatus n = 1 then (s.bump .hostErrors).endSliceRestore n 3 else s)
  | .radioChannel n down =>
    let s := ((s.bump .rhcErrors n).bump .hostErrors).fault 0x0603 0 0 0 0xFFFF n
    let c := s.channel n
    .next (if !down then s.dropUp n
      else if c.downHead = c.downTail then s else s.modChannel n fun c => { c with downHead := c.downHead + 1 })

end Sys2Proof.Machine
end

