-- ==== Sys2Proof/Machine/Reset.lean ====
section
/-! DEFINITION. Resets of the package: sources, what they discard and keep, and the holds that end them (R505, R506, R515, R522 to
R525). -/

namespace Sys2Proof.Machine

/-- RESET_N. -/
def execResetN (s : State) : Out := .next (s.packageReset 1)

/-- HUB_WATCHDOG. -/
def execHubWatchdog (s : State) : Out := .next (s.packageReset 7)

/-- SEQ_FAULT: the first rail out of order is kept; every group must be removed and restored. -/
def execSeqFault (rail : Nat) (s : State) : Out :=
  let s := s.packageReset 2
  .next { s with boot := { s.boot with seqFault := some (s.boot.seqFault.getD rail), removed := false } }

/-- THERMTRIP. -/
def execThermtrip (s : State) : Out :=
  let s := s.packageReset 3
  .next { s with boot := { s.boot with tripFault := true, removed := false } }

/-- An always-on latch is set. -/
def State.latched (s : State) : Bool := s.boot.seqFault.isSome || s.boot.tripFault

/-- POWER_OFF: the always-on domain loses its supply with all others. -/
def State.powerOff (s : State) : State :=
  let s := s.cleared
  { s with
    mem := []
    tier := Tier.forBuild s.build
    boot := { s.boot with seqFault := none, tripFault := false, removed := false } }

def execPowerOff (s : State) : Out := .next s.powerOff

/-- POWER_ON: RESET_CAUSE and START_COUNT 0. -/
def execPowerOn (s : State) : Out := .next s.powerOff

/-- SUPPLIES_RESTORED: every group but VIO18 was removed, with what stacked memory held, and has been brought back. -/
def execSuppliesRestored (s : State) : Out :=
  if !s.latched || !s.boot.inReset then .next s
  else .next { s with
    mem := []
    tier := Tier.forBuild s.build
    boot := { s.boot with removed := true } }

/-- RESET_RELEASE: start-up stage 0 begins, unless a latch or TEST_MODE holds the dies (R506, R515, R548). -/
def execResetRelease (s : State) : Out :=
  if !s.boot.inReset || s.boot.testMode || (s.latched && !s.boot.removed) then .next s
  else .next { s with boot := { s.boot with inReset := false } }

-- RESET_REQUEST (R524) --------------------

/-- RESET_REQUEST of 1. -/
def State.resetWrite (v : Nat) (s : State) : Except Nat State :=
  if v ≠ 1 then .error 0x8010 else .ok { s with mgmt := { s.mgmt with resetAsked := true } }

/-- A requested reset takes effect once no save runs or is held, no handover runs, and the response has been sent. -/
def State.resetIfAsked (s : State) : State :=
  if s.mgmt.resetAsked && decide (s.reg .configStatus ≠ 1) && !s.mgmt.saveHeld && decide (s.reg .handoverStatus ≠ 1) then s.packageReset 8
  else s

def execResetRequest (sess value : Nat) (s : State) : Out :=
  .next (s.write sess .resetRequest 0 value (State.resetWrite (value % 256))).resetIfAsked

end Sys2Proof.Machine
end

