-- ==== Sys2Proof/Machine/Power.lean ====
section
/-! DEFINITION. The power controller, the burst bank, the thermal model, rails and sensors (R504 to R519), and the clocks (R488 to
R490, R497). -/

namespace Sys2Proof.Machine

-- The power estimate (R81, R509) --------------------

/-- mW of an engine at full FP8 activity (R81). -/
def engineFullMw : Nat := 6480

/-- mW of an engine's current pass with `idle` AK cycles before it: its active cell-steps as a share of 16 384 in each AK cycle. -/
def Engine.passMw (e : Engine) (idle : Nat) : Nat :=
  if e.passLen = 0 then 0 else engineFullMw * e.report / (16384 * (e.passLen + idle))

/-- The class whose command runs on an engine: 0 none, 1 LC, 2 BE, 3 radio. -/
def State.classRunning (s : State) (e : Engine) : Nat :=
  match e.running with
  | some (.context c) => if s.isLc c then 1 else 2
  | some (.radio _) => 3
  | none => if e.shadow then 2 else 0

/-- mW of the engines when LC and BE passes carry these idles; `none` for a class that is gated to rest. -/
def State.enginesMw (s : State) (lc be : Option Nat) : Nat :=
  (s.engines.map fun (p : Nat × Engine) =>
    match s.classRunning p.2 with
    | 1 => match lc with
      | some n => p.2.passMw n
      | none => 0
    | 2 => match be with
      | some n => p.2.passMw n
      | none => 0
    | 3 => p.2.passMw 0
    | _ => 0).sum

/-- mW of the engines as they run. -/
def State.enginesNow (s : State) : Nat :=
  (s.engines.map fun (p : Nat × Engine) => if p.2.running = none && !p.2.shadow then 0 else p.2.passMw p.2.passIdle).sum

/-- P_est. -/
def State.estimate (s : State) (other engines : Nat) : Nat := ((other + engines : Nat) + s.power.offset).toNat

-- Throttling (R511) --------------------

/-- What a step of the throttle asks for: 0 nothing, 1 to 32 idle of 64 × step on BE, 33 stage 2, 34 to 65 stage 3 with idle of
64 × (step − 33) on LC, 66 stage 4. -/
structure Throttle where
  stage : Nat
  beIdle : Nat
  lcIdle : Nat
  gates : Nat
  deriving DecidableEq, Repr

def throttleOf (k : Nat) : Throttle :=
  if k = 0 then ⟨0, 0, 0, 0⟩
  else if k ≤ 32 then ⟨1, 64 * k, 0, 0⟩
  else if k = 33 then ⟨2, 2048, 0, 1⟩
  else if k ≤ 65 then ⟨3, 2048, 64 * (k - 33), 1⟩
  else ⟨4, 2048, 2048, 3⟩

/-- The step in force. -/
def State.throttleNow (s : State) : Nat :=
  match s.reg .throttleStage with
  | 0 => 0
  | 1 => s.reg .beIdleAk / 64
  | 2 => 33
  | 3 => 33 + s.reg .lcIdleAk / 64
  | _ => 66

/-- Predicted P_est under a step: a gated class comes to rest. -/
def State.predict (s : State) (other k : Nat) : Nat :=
  let t := throttleOf k
  s.estimate other (s.enginesMw (if bit t.gates 1 then none else some t.lcIdle) (if bit t.gates 0 then none else some t.beIdle))

/-- Lowest step whose prediction is at or below a target; stage 4 when none is. -/
def State.lowestStep (s : State) (other target : Nat) : Nat :=
  ((List.range 67).find? fun k => s.predict other k ≤ target).getD 66

/-- The step for a target: up at once, down only with THROTTLE_HYST_W to spare. -/
def State.chooseStep (s : State) (other target : Nat) : Nat :=
  let need := s.lowestStep other target
  let now := s.throttleNow
  let down := min now (s.lowestStep other (target - 1000 * s.reg .throttleHystW))
  if now ≤ need then need else max need down

/-- Idle requests to every engine that runs a command of the class (R91). -/
def State.requestIdle (s : State) (t : Throttle) : State :=
  let ask (s' : State) (e : Engine) : Engine :=
    let n := match s'.classRunning e with
      | 1 => t.lcIdle
      | 2 => t.beIdle
      | _ => 0
    if n = 0 then e else { e with idleReq := some n }
  { s with engines := s.engines.mapAll fun _ e => ask s e }

/-- Sets a step. -/
def State.setStep (s : State) (k : Nat) : State :=
  let t := throttleOf k
  let s := ((s.setReg .throttleStage t.stage).setReg .beIdleAk t.beIdle).setReg .lcIdleAk t.lcIdle
  (s.setReg .schedGates t.gates).requestIdle t

-- The thermal model (R513, R514) --------------------

/-- A finite FP32 value as a rational. -/
def flRat : Fl → Option Rat
  | .fin n m e => some ((if n then -1 else 1) * (m : Rat) * (2 : Rat) ^ e)
  | _ => none

/-- Degrees of a temperature entry in 1/16 °C. -/
def degrees (v : Int) : Rat := (v : Rat) / 16

/-- R_JP and R_PC_REF. -/
def State.rJpRat (s : State) : Option Rat := flRat (fmtFP32.decode (s.reg .rJp))
def State.rPcRat (s : State) : Option Rat := flRat (fmtFP32.decode (s.reg .rPcRef))

/-- T_plate one millisecond on at `w` watts; none where a value it divides by is 0 or not a number. -/
def State.plateStep (s : State) (w plate : Rat) : Option Rat :=
  let flow := (s.reg .flowMlpm : Rat)
  let g := (s.reg .coolantHeatCapJkl : Rat) * (flow / 1000) / 60
  match s.rPcRat with
  | some r =>
    let rpc := r * Config.pow08 ((s.reg .flowRefMlpm : Rat) / flow)
    if flow = 0 ∨ g = 0 ∨ rpc = 0 ∨ s.reg .plateCJk = 0 then none
    else
      let cool := degrees (s.regI .coolantIn) + w / (2 * g)
      some (plate + (w - (plate - cool) / rpc) / 1000 / (s.reg .plateCJk : Rat))
  | none => none

/-- T_plate after `n` milliseconds at `w` watts. -/
def State.plateAfter (s : State) (w : Rat) : Nat → Rat → Option Rat
  | 0, t => some t
  | n + 1, t => match s.plateStep w t with
    | some t => s.plateAfter w n t
    | none => none

/-- The burst check (R514); none where the model gives no value. -/
def State.burstCheck (s : State) : Option Bool :=
  let w := (s.reg .burstW : Rat)
  match s.plateAfter w (s.reg .burstMaxMs) s.power.plate, s.rJpRat with
  | some t, some r => some (decide (t + w * r ≤ degrees (s.regI .tjThrottle - 16)))
  | _, _ => none

/-- Whether the check passes; open where the model gives no value. -/
def State.burstPasses (s : State) : Bool × State :=
  match s.burstCheck with
  | some b => (b, s)
  | none => (decide (Config.measured s.free % 2 = 1), { s with free := s.free + 1 })

-- Temperature limits (R515, R517) --------------------

/-- A die whose four sensors are all invalid. -/
def State.blindDie (s : State) : Bool :=
  let m := leNat (s.oct .sensorInvalidMask)
  (List.range 25).any fun d => decide (field m (4 * d + 3) (4 * d) = 15)

/-- The hottest die: one without a valid sensor is taken to be at TJ_CRIT (R517). -/
def State.hottestDie (s : State) (sensor : Int) : Int := if s.blindDie then max sensor (s.regI .tjCrit) else sensor

/-- Takes a reading of the hottest valid sensor: the thermal target and stage 4. -/
def State.sensed (s : State) (hottest : Int) : State :=
  let s := (s.setRegI .tjHottest hottest)
  let s := { s with power := { s.power with hottest := hottest } }
  let die := s.hottestDie hottest
  let data := ofSigned 16 die
  let s := if s.power.thermal = none ∧ s.regI .tjThrottle ≤ die then
      ({ s with power := { s.power with thermal := some (s.power.est - s.power.est / 50) } }).fault 0x0710 0 0 0 0xFFFF data
    else s
  if s.regI .tjCrit ≤ die then
    if s.power.crit then s else ({ s with power := { s.power with crit := true } }).fault 0x0711 0 0 0 0xFFFF data
  else if die < s.regI .tjCrit - 80 then { s with power := { s.power with crit := false } }
  else s

-- Burst and target (R510, R512) --------------------

/-- The bank after a control period at P_est. -/
def State.bankStep (s : State) (est : Nat) : Nat := min s.bankMax (s.power.bank + 1000 * s.reg .powerCapW - est)

/-- The excursion: it ends when its bank, its time, its check or its need ends; else one begins. -/
def State.burstStep (s : State) (est : Nat) : State :=
  let cap := 1000 * s.reg .powerCapW
  match s.power.bursting with
  | some n =>
    let (ok, s) := s.burstPasses
    let over_ := decide (s.power.bank = 0) || decide (1000 * s.reg .burstMaxMs ≤ n + 1) || !ok || decide (est ≤ cap)
    { s with power := { s.power with bursting := if over_ then none else some (n + 1) } }
  | none =>
    if s.power.bank = 0 ∨ est ≤ cap then s
    else
      let (ok, s) := s.burstPasses
      if ok then { s with power := { s.power with bursting := some 0 } } else s

/-- P_t, in mW. -/
def State.powerTarget (s : State) : Nat :=
  let cap := 1000 * (if s.power.bursting.isSome then s.reg .burstW else s.reg .powerCapW)
  match s.power.thermal with
  | some t => min cap t
  | none => cap

/-- Means of P_est: POWER_EST_W over 1 ms, and the sums of the 10 ms and 100 ms intervals. -/
def State.sumPower (s : State) (est : Nat) : State :=
  let p := s.power
  let p := { p with
    est := est, sum1 := p.sum1 + est, n1 := p.n1 + 1, sum10 := p.sum10 + est, n10 := p.n10 + 1
    sum100 := p.sum100 + est, n100 := p.n100 + 1 }
  if p.n1 < 1000 then { s with power := p }
  else { s with power := { p with sum1 := 0, n1 := 0 } }.setReg .powerEstW (p.sum1 / p.n1 / 1000)

/-- Stage 4 is held (R515, R516, R518). -/
def State.heldAt4 (s : State) : Bool := s.power.crit || s.power.flowOut || decide (s.power.overcurrent ≠ [])

/-- CONTROL_PERIOD. During the pause of a handover the stage does not fall (R533). -/
def State.controlPeriod (s : State) (m : PowerSample) : State :=
  let est := s.estimate m.otherMw s.enginesNow
  let s := (s.sumPower est).sensed m.hottest
  let s := { s with power := { s.power with bank := s.bankStep est } }
  let s := s.burstStep est
  let k := if s.heldAt4 then 66 else s.chooseStep m.otherMw s.powerTarget
  let s := s.setStep (if s.reg .handoverStatus = 1 then max k s.throttleNow else k)
  s.bumpIf (s.reg .throttleStage ≠ 0) .throttledUs

def execControlPeriod (m : PowerSample) (s : State) : Out := .next (s.controlPeriod m)

/-- POWER_CAP_W (R226, R510). -/
def State.powerCap (v : Nat) (s : State) : Except Nat State :=
  if s.reg .maxPackageW < v then .error 0x8010
  else if s.tilth.copies.any fun c => decide (1000 * v < c.admitMw) then .error 0x8016
  else
    let s := s.setReg .powerCapW v
    .ok { s with power := { s.power with bank := min s.bankMax s.power.bank } }

def execPowerCapW (sess value : Nat) (s : State) : Out :=
  .next (s.write sess .powerCapW 0 value (State.powerCap (value % 65536)))

/-- BURST_W (R512, R520). -/
def State.burstWrite (v : Nat) (s : State) : Except Nat State :=
  if v < s.reg .powerCapW ∨ 2700 < v then .error 0x8010
  else
    let s := s.setReg .burstW v
    .ok { s with power := { s.power with bank := min s.bankMax s.power.bank } }

/-- THERMAL_UPDATE: the model's step, its correction toward the measured temperature, and the thermal target. -/
def State.thermalUpdate (s : State) (m : ThermalSample) : State :=
  let s := ((s.setRegI .coolantIn m.coolantIn).setRegI .coolantOut m.coolantOut).setReg .flowMlpm m.flowMlpm
  let hot := decide (s.regI .coolantInMax < m.coolantIn)
  let s := if hot && !s.power.inletHot then s.fault 0x0714 0 0 0 0xFFFF (ofSigned 16 m.coolantIn) else s
  let w := (s.power.est : Rat) / 1000
  let next := match s.plateStep w s.power.plate, s.rJpRat with
    | some t, some r => some (t + (degrees m.hottest - w * r - t) / 16)
    | _, _ => none
  let s := match next with
    | some t => { s with power := { s.power with plate := t } }
    | none => { s with power := { s.power with plate := degrees (toSigned 16 (Config.measured s.free)) }, free := s.free + 1 }
  let s := s.setRegI .plateEst (s.power.plate * 16).floor
  let flowing := decide (s.reg .flowMinMlpm < m.flowMlpm)
  let ms := if s.power.flowOut && flowing then s.power.flowOkMs + 1 else 0
  let s := { s with power := { s.power with
    inletHot := hot, flowLowMs := if m.flowMlpm < s.reg .flowMinMlpm then s.power.flowLowMs + 1 else 0, flowOkMs := if 1000 ≤ ms then 0 else ms, flowOut := s.power.flowOut && decide (ms < 1000) } }
  let cap := 1000 * s.reg .powerCapW
  let s := match s.power.thermal with
    | some t =>
      let die := s.hottestDie m.hottest
      let t := if s.regI .tjThrottle ≤ die then t - s.power.est / 50
        else if die < s.regI .tjThrottle - 32 then t + cap / 100 else t
      { s with power := { s.power with thermal := if cap < t then none else some t } }
    | none => s
  s.sensed m.hottest

def execThermalUpdate (m : ThermalSample) (s : State) : Out := .next (s.thermalUpdate m)

/-- FLOW_DEMAND_PCT of a power in mW; open where it divides by 0. -/
def State.flowPct (s : State) (mw : Nat) : Nat :=
  let d := 10 * s.reg .coolantHeatCapJkl * s.reg .dtCoolantMax * s.reg .flowFullMlpm
  if d = 0 then 10 + Config.measured s.free % 91 else max 10 (min 100 (ceilDiv (60000 * mw) d))

/-- FLOW_DEMAND_UPDATE: P_dem is the larger of ADMIT_POWER and the mean of P_est over the last second. -/
def State.flowDemand (s : State) : State :=
  let p := s.power
  let means := ((if p.n100 = 0 then p.est else p.sum100 / p.n100) :: p.means).take 10
  let s := { s with power := { p with means := means, sum100 := 0, n100 := 0 } }
  { s with free := s.free + 1 }.setReg .flowDemandPct (s.flowPct (max (s.reg .admitPower) (means.sum / means.length)))

def execFlowDemandUpdate (s : State) : Out := .next s.flowDemand

/-- FLOW_LOW: the flow has stayed below FLOW_MIN_MLPM for 1 s (R516). -/
def execFlowLow (s : State) : Out :=
  if s.power.flowLowMs < 1000 then .next s
  else
  let s := { s with power := { s.power with flowOut := true, flowOkMs := 0 } }
  .next ((s.fault 0x0713 0 0 0 0xFFFF (s.reg .flowMlpm)).setStep 66)

-- Rails (R504, R507, R508, R518, R520) --------------------

/-- The unit a rail supplies, as UNIT_KIND and UNIT of R466. -/
def railUnit (r : Nat) : Nat × Nat := if r < 16 then (1, r) else (0, 0)

/-- Acts on a rail that is out of range (R518): a core's die leaves as a router fault, VBB disables every cell and holds the baseband
dies, and a rail of the whole package resets it. -/
def State.railOut (s : State) (r : Nat) : State :=
  if r < 16 then s.routerFault r
  else if r = 18 then
    let s := { s with power := { s.power with vbbOut := true } }
    let s := s.enabledCells.foldl (fun s c => s.modCell c fun x => { x with lost := true }) s
    ((List.range 96).filter fun n => (s.core n).handler.isSome).foldl (fun s n => s.leaveHandler n) s
  else if r = 22 ∨ 25 < r then s
  else s.packageReset 4

/-- RAIL_OUT_OF_RANGE. -/
def State.railCondition (s : State) (r : Nat) (c : RailCondition) : State :=
  let (k, u) := railUnit r
  let sev := if r = 18 then 4 else 3
  match c with
  | .low mv => (s.fault 0x0702 sev k u 0xFFFF (r % 256 + mv % 65536 * 65536)).railOut r
  | .high mv => (s.fault 0x0703 sev k u 0xFFFF (r % 256 + mv % 65536 * 65536)).railOut r
  | .regulatorFault => if r < 16 then s.railOut r else s
  | .overcurrent ma =>
    let s := s.fault 0x0704 0 k u 0xFFFF (r % 256 + ma % 2 ^ 32 * 2 ^ 32)
    ({ s with power := { s.power with overcurrent := s.power.overcurrent.filter (· ≠ r) ++ [r] } }).setStep 66
  | .overcurrentClear => { s with power := { s.power with overcurrent := s.power.overcurrent.filter (· ≠ r) } }
  | .backInTolerance => if r = 18 then { s with power := { s.power with vbbOut := false } } else s

def execRailOutOfRange (rail : Nat) (condition : RailCondition) (s : State) : Out :=
  .next (if rail < 26 then s.railCondition rail condition else s)

/-- REG_MAP names a regulator for a rail. -/
def State.railMapped (s : State) (r : Nat) : Bool := decide (leAt (s.oct .regMap) (2 * r) 1 % 128 ≠ 0)

/-- Reads one regulator: its values, or a transaction without an answer; the third in a row puts its rail out of range. -/
def State.readRail (s : State) (x : RailSample) : State :=
  if !s.railMapped x.rail || decide (25 < x.rail) then s
  else if x.answered then
    let s := { s with power := { s.power with fails := s.power.fails.set 0 x.rail 0 } }
    ((s.setReg .railMv x.mv x.rail).setReg .railMa x.ma x.rail).setReg .railStatus x.status x.rail
  else
    let n := s.power.fails.get 0 x.rail + 1
    let s := { s with power := { s.power with fails := s.power.fails.set 0 x.rail (n % 3) } }
    if n < 3 then s
    else ((s.bump .pmbusErrors).fault 0x0705 0 (railUnit x.rail).1 (railUnit x.rail).2 0xFFFF x.rail).railOut x.rail

/-- TELEMETRY_UPDATE: rails, and the offset of the static term, by at most 50 W. -/
def State.telemetry (s : State) (rails : List RailSample) (mw : Nat) : State :=
  let p := s.power
  let mean := if p.n10 = 0 then p.est else p.sum10 / p.n10
  let d : Int := max (-50000) (min 50000 ((mw : Int) - mean))
  let s := { s with power := { p with offset := p.offset + d, sum10 := 0, n10 := 0 } }
  rails.foldl (fun s x => s.readRail x) (s.setReg .powerMeasW (mw / 1000))

def execTelemetryUpdate (rails : List RailSample) (measuredMw : Nat) (s : State) : Out := .next (s.telemetry rails measuredMw)

/-- PMB_ALERT: the regulator is read; during the pause of a handover the alert is taken as an overcurrent warning (R533). -/
def execPmbAlert (r : RailSample) (s : State) : Out :=
  .next (if s.reg .handoverStatus = 1 ∧ r.rail < 26 then (s.railCondition r.rail (.overcurrent r.ma)).readRail r else s.readRail r)

/-- One step of a core rail within 0.60 to 0.78 V; its size, at most 10 mV, is open. -/
def State.vcoreStep (s : State) (die : Nat) (up : Bool) : State :=
  let d : Int := (Config.pick s.free % 10 + 1 : Nat)
  let v := s.power.setPoint.get 0 die + (if up then d else -d)
  { s with free := s.free + 1, power := { s.power with
    setPoint := s.power.setPoint.set 0 die (max (-100) (min 80 v)), stepped := s.power.stepped.set 0 die (s.ck + 1) } }

/-- AVS_STEP: at most one step per rail per millisecond. -/
def execAvsStep (die : Nat) (up : Bool) (s : State) : Out :=
  let last := s.power.stepped.get 0 die
  .next (if 15 < die ∨ (last ≠ 0 ∧ s.ck < last - 1 + 825000) then s else s.vcoreStep die up)

/-- TIMING_MARGIN_LOW: one step up, at once. -/
def execTimingMarginLow (die : Nat) (s : State) : Out := .next (if 15 < die then s else s.vcoreStep die true)

/-- SENSOR_CALIBRATION: a sensor that differs from its die's others is marked invalid. -/
def execSensorCalibration (die sensor : Nat) (differs : Bool) (s : State) : Out :=
  let m := leNat (s.oct .sensorInvalidMask)
  if !differs || 24 < die || 3 < sensor || bit m (4 * die + sensor) then .next s
  else
    let s := s.setOct .sensorInvalidMask (leBytes 13 (setBit m (4 * die + sensor) true))
    .next (s.fault 0x0715 0 0 0 0xFFFF (die + 256 * sensor))

-- Clocks (R488 to R490, R497, R502) --------------------

/-- REF_LOST. -/
def execRefLost (s : State) : Out :=
  .next (if s.reg .clkState = 1 then s else ((s.setReg .clkState 1).bump .refLosses).fault 0x0801 0 0 0)

/-- REF_RESTORED: the reference is back, or the PLL has slewed back to lock. -/
def execRefRestored (locked : Bool) (s : State) : Out :=
  .next (match s.reg .clkState, locked with
    | 1, false => (s.setReg .clkState 2).fault 0x0802 0 0 0
    | 2, true => s.setReg .clkState 0
    | _, _ => s)

/-- ROOT_PLL_UNLOCK, while the reference is present. -/
def execRootPllUnlock (s : State) : Out :=
  .next (if s.reg .clkState = 1 then s else (s.fault 0x0805 3 10 0).packageReset 5)

/-- A die by its bit of DIE_PLL_LOCK. -/
def dieUnit (d : Nat) : UnitId :=
  if d < 16 then .cd d else if d < 18 then .bd (d - 16) else if d = 18 then .hd else if d < 23 then .xd (d - 19) else .fd (d - 23)

/-- The home compute die of a stack (R12). -/
def stackDie (n : Nat) : Nat := [0, 1, 2, 3, 12, 13, 14, 15, 4, 8, 7, 11].getD n 0

/-- The die of a unit, as a bit of DIE_PLL_LOCK; a stack's is its home compute die (R12, R491). -/
def unitDie (u : UnitId) : Nat :=
  match u with
  | .cd n => n
  | .me n => n / 8
  | .stack n => stackDie n
  | .bd n => 16 + n
  | .dsp n => 16 + n / 48
  | .xd n => 19 + n
  | .xp n => 19 + n / 4
  | .fd n => 23 + n
  | .fh n => 23 + n / 8
  | _ => 18

/-- A die other than HD leaves service because its PLL is not locked, the router of a compute die with it (R20, R489). -/
def State.dieLost (s : State) (d : Nat) : State :=
  if 16 ≤ d then s.leave (dieUnit d)
  else if bit s.faults.routerOut d then s
  else ({ s with faults := { s.faults with routerPll := setBit s.faults.routerPll d true } }).routerFault d

/-- DIE_PLL_UNLOCK of a die other than HD. -/
def State.dieUnlock (s : State) (d : Nat) : State :=
  if d = 18 ∨ 24 < d ∨ !s.fitted (dieUnit d) ∨ !bit (s.reg .diePllLock) d then s
  else
    let (k, u) := UnitId.code (dieUnit d)
    ((s.setReg .diePllLock (setBit (s.reg .diePllLock) d false)).fault 0x0803 3 k u 0xFFFF d).dieLost d

def execDiePllUnlock (die : Nat) (s : State) : Out := .next (s.dieUnlock die)

/-- DIE_PLL_RELOCK: the die is released from reset; its units stay out of service until a drain and return. -/
def execDiePllRelock (die : Nat) (s : State) : Out :=
  .next (if die = 18 ∨ 24 < die ∨ !s.fitted (dieUnit die) then s else s.setReg .diePllLock (setBit (s.reg .diePllLock) die true))

/-- CROSSING_STALL of the receiving unit, where the build has it (R19). -/
def execCrossingStall (unit : UnitId) (s : State) : Out :=
  let stall (s : State) : State :=
    ((s.bump .xingStalls).fault 0x0804 3 (UnitId.code unit).1 (UnitId.code unit).2 0xFFFF (unitDie unit)).leave unit
  .next (if s.fitted unit then stall s else s)

/-- RCLK_CFG. -/
def State.rclkWrite (v : Nat) (s : State) : Except Nat State :=
  if !s.fhExists (v % 16) then .error 0x8010 else .ok (s.setReg .rclkCfg v)

def execRclkCfg (sess : Nat) (value : W16) (s : State) : Out :=
  .next (s.write sess .rclkCfg 0 value.toNat (State.rclkWrite value.toNat))

/-- The recovered clock that RCLK_OUT carries: a port whose link is up with FEC lock; low otherwise. -/
def State.rclkOut (s : State) : Option Nat :=
  let v := s.reg .rclkCfg
  let p := v % 16
  if bit v 15 && bit s.fh.linkUp p && bit s.fh.fecLock p then some p else none

-- Low-speed outputs (R506, R515, R516, R545) --------------------

/-- Level of TRIG output `n`; none while it stands at high impedance. A pulse under way keeps the polarity it began with (R325). -/
def State.trigPin (s : State) (n : Nat) : Option Bool :=
  if !bit s.pins.trigDriven n then none
  else some (if bit s.pins.trig n then bit s.pins.trigPol n else !bit (s.reg .trigCfg n) 30)

/-- Duty of FLOW_DEMAND in percent: driven high before stage 3. -/
def State.flowPin (s : State) : Nat := if s.boot.inReset || decide (s.reg .bootStage < 3) then 100 else s.reg .flowDemandPct

/-- SUPPLY_FAULT_N and THERMTRIP_N are low while their latch is set. -/
def State.supplyFaultN (s : State) : Bool := s.boot.seqFault.isNone
def State.thermtripN (s : State) : Bool := !s.boot.tripFault

end Sys2Proof.Machine
end

