-- ==== Sys2Proof/Machine/Firmware.lean ====
section
/-! DEFINITION. Firmware images (R408, R409), flash slots, loading and committing an image (R532), handover and its confirm (R533,
R534), configuration saves as far as other rules start them (R454, R455), and RECOVERY of start-up queues (R531). -/

namespace Sys2Proof.Machine

-- Slots --------------------

/-- Length of an image slot: header and body. -/
def slotBytes : Nat := 2 ^ 25 + 4096

-- Images (R408, R409) --------------------

def imageVersion (img : Bytes) : Nat := leAt img 0x008 4
def imageBody (img : Bytes) : Bytes := img.drop 4096

/-- The image in slot `d`, header and body. -/
def State.slotImage (s : State) (d : Nat) : Bytes := s.flashRd d 0 (4096 + leNat (s.flashRd d 0x00C 4))

/-- The checks of R409, with the header's marks. -/
def imageValid (img : Bytes) (minVersion : Nat) : Bool :=
  let root := slice img 0x040 32
  let v := imageVersion img
  decide (leAt img 0 4 = 0x5A465731) && decide (leAt img 4 2 = 1) && decide (leAt img 0x00C 4 ≤ 2 ^ 25)
    && (decide (sha512 root = Config.romDigest 0) || decide (sha512 root = Config.romDigest 1))
    && edVerify root (slice img 0x060 0x28) (slice img 0x0C0 64)
    && decide (leAt img 0x080 4 ≤ v) && decide (v ≤ leAt img 0x084 4)
    && edVerify (slice img 0x060 32) (img.take 0x140) (slice img 0x140 64)
    && decide (slice img 0x100 64 = sha512 (imageBody img))
    && decide (minVersion ≤ v)

def State.slotValid (s : State) (d : Nat) : Bool := imageValid (s.slotImage d) (s.reg .minFwVersion)

/-- Runs the checked copy `img` of slot `d`'s image: the entries it sets (R410, R428). -/
def State.runImage (s : State) (d : Nat) (img : Bytes) : State :=
  let s : State := { s with boot := { s.boot with bank := img } }
  ((s.setReg .activeImage d).setReg .hubFwVersion (imageVersion img)).setOct .hubFwDigest (sha512 img)

/-- FW_SLOT_STATUS and INACTIVE_VERSION after a check of slot `d` that gave `ok` (R532). -/
def State.slotResult (s : State) (d : Nat) (ok : Bool) : State :=
  let s := s.setReg .fwSlotStatus (setBit (s.reg .fwSlotStatus) d ok)
  if d = s.reg .activeImage then s else s.setReg .inactiveVersion (if ok then imageVersion (s.slotImage d) else 0)

-- Loading an image (R532) --------------------

/-- The slot that does not run. -/
def State.inactiveSlot (s : State) : Nat := 1 - s.reg .activeImage

/-- FW_LOAD_OFFSET. -/
def State.fwOffset (v : Nat) (s : State) : Except Nat State :=
  if slotBytes < v then .error 0x8010
  else if s.reg .handoverStatus = 1 then .error 0x8012
  else .ok (s.setReg .fwLoadOffset v)

/-- FW_LOAD_DATA: a write at offset 0 erases the slot, which is not valid until its commit. -/
def State.fwLoad (data : Bytes) (s : State) : Except Nat State :=
  let o := s.reg .fwLoadOffset
  let d := s.inactiveSlot
  if slotBytes < o + data.length then .error 0x8010
  else if s.reg .handoverStatus = 1 then .error 0x8012
  else
    let s := if o = 0 then s.flashErase d 0 slotBytes else s
    .ok (((s.flashWr d o data).setReg .fwLoadOffset (o + data.length)).slotResult d false)

def execFwLoadData (sess : Nat) (data : Bytes) (s : State) : Out :=
  .next (s.writeOctets sess .fwLoadData 0 data (State.fwLoad data))

/-- FW_COMMIT. -/
def State.fwCommit (digest : Bytes) (s : State) : Except Nat State :=
  let d := s.inactiveSlot
  if s.reg .handoverStatus = 1 then .error 0x8012
  else if sha512 (s.slotImage d) ≠ digest then .error 0x8014
  else
    let ok := s.slotValid d
    .ok (((s.setOct .fwCommit digest).bumpIf (!ok) .imageRejects).slotResult d ok)

def execFwCommit (sess : Nat) (digest : Bytes) (s : State) : Out :=
  .next (s.writeOctets sess .fwCommit 0 digest (State.fwCommit digest))

-- Handover (R533, R534) --------------------

/-- HANDOVER of 1. -/
def State.handoverWrite (v : Nat) (s : State) : Except Nat State :=
  if v ≠ 1 then .error 0x8010
  else if s.reg .handoverStatus = 1 || !bit (s.reg .fwSlotStatus) s.inactiveSlot then .error 0x8012
  else .ok { s.setReg .handoverStatus 1 with boot := { s.boot with reverting := false } }

def execHandover (sess value : Nat) (s : State) : Out :=
  .next (s.write sess .handover 0 value (State.handoverWrite (value % 256)))

/-- NUMFW_PENDING shows the numerics firmware that the running image carries (R53, R126). -/
def State.carryNumerics (s : State) : State :=
  s.setReg .numfwPending (Config.numfwVersion s.runningBody).toNat

/-- HANDOVER_COMPLETE: the copy of the inactive slot in the idle bank is checked under R409 (`ok`: it was read out whole) and runs, the old
image staying in its bank; or the old bank runs again. A copy that fails counts and leaves the running image. -/
def State.handoverDone (s : State) (ok : Bool) : State :=
  let img := s.slotImage s.inactiveSlot
  if s.reg .handoverStatus ≠ 1 then s
  else if s.boot.reverting then
    let s := ((s.runImage (s.boot.former.getD 0) s.boot.otherBank).setReg .handoverStatus 4).carryNumerics
    let s := { s with boot := { s.boot with former := none, otherBank := [], reverting := false } }
    (s.slotResult s.inactiveSlot (bit (s.reg .fwSlotStatus) s.inactiveSlot)).resetIfAsked
  else if !(ok && imageValid img (s.reg .minFwVersion)) then
    (((s.bump .imageRejects).setReg .handoverStatus 4).slotResult s.inactiveSlot false).resetIfAsked
  else
    let old := s.reg .activeImage
    let s := { s with boot := { s.boot with former := some old, otherBank := s.boot.bank, handoverCk := s.ck } }
    let s := ((s.runImage s.inactiveSlot img).setReg .handoverStatus 2).carryNumerics
    (s.slotResult old (bit (s.reg .fwSlotStatus) old)).resetIfAsked

def execHandoverComplete (ok : Bool) (s : State) : Out := .next (s.handoverDone ok)

/-- HANDOVER_CONFIRM_TIMEOUT: the same sequence hands back to the old bank. -/
def execHandoverConfirmTimeout (s : State) : Out :=
  if s.reg .handoverStatus ≠ 2 || decide (s.ck < s.boot.handoverCk + s.reg .handoverConfirmMs * 825000) then .next s
  else .next { s.setReg .handoverStatus 1 with boot := { s.boot with reverting := true } }

-- RECOVERY (R298, R531) --------------------

/-- Cells that the classification entries of a fronthaul queue name (R290). -/
def State.queueCells (s : State) (q : Nat) : List Nat :=
  let lo := Reg.key .classEntry (q / 1024 * 4096)
  ((s.prot.octs.filter fun (p : Nat × Bytes) => decide (lo ≤ p.1) && decide (p.1 < lo + 4096)).map fun (p : Nat × Bytes) => leNat p.2).filterMap
    fun e => if bit e 127 && decide (field e 53 44 = q % 1024) then some (field e 67 60) else none

/-- RECOVERY_HOLD_END of a queue: a frame ends in which its consumer has released and no SLOT_OVERRUN has been counted for its cells, or
RECOVERY_HOLD_MS have passed since stage 7. -/
def execRecoveryHoldEnd (q : Nat) (s : State) : Out :=
  let passed := decide (s.boot.readyCk + s.reg .recoveryHoldMs * 825000 ≤ s.ck) && decide (s.reg .bootStage = 7)
  let clean := decide ((s.queue q).release ≠ 0) && (s.queueCells q).all fun c => !(s.cell c).overran
  if !s.qRecovery q || !(passed || clean) then .next s
  else .next (s.qSetRecovery q false)

end Sys2Proof.Machine
end

