-- ==== Sys2Proof/Machine/Copies.lean ====
section
/-! DEFINITION. The configuration copies (R451 to R457): what a copy holds, its layout and sealing (R407), a save and its end, and
the choice of a copy at boot (R456). -/

namespace Sys2Proof.Machine

-- Records (R452, R453) --------------------

/-- A record of a copy: an entry's value, or a table under the entry of its COMMIT. -/
structure CopyRec where
  index : Nat
  sub : Nat
  selector : Nat
  value : Bytes
  deriving DecidableEq, Repr, Inhabited

/-- Selectors of a record of an entry without one, and of a table (R452, R453). -/
def noSelector : Nat := 0xFFFFFFFF
def tableSelector : Nat := 0xFFFFFFFE

/-- Order of records: index, subindex, selector. -/
def recKey (index sub selector : Nat) : Nat := (index * 256 + sub) * 2 ^ 32 + selector

def CopyRec.bytes (x : CopyRec) : Bytes :=
  leBytes 2 x.index ++ leBytes 1 x.sub ++ leBytes 4 x.selector ++ leBytes 4 x.value.length ++ x.value

/-- Records of a part, in its order. -/
def parseRecs : Nat → Bytes → List CopyRec
  | 0, _ => []
  | n + 1, bs =>
    if bs.length < 11 then []
    else
      let len := leAt bs 7 4
      ⟨leAt bs 0 2, leAt bs 2 1, leAt bs 3 4, slice bs 11 len⟩ :: parseRecs n (bs.drop (11 + len))

/-- Entries whose default is no value, or that a table stands for: their last written value is not held. -/
def Reg.momentary (r : Reg) : Bool :=
  [Reg.progCommit, .cellMove, .tilthCommit, .pasidMapCommit, .routeTable].contains r

/-- Load-offset entries. -/
def Reg.loadOffset (r : Reg) : Bool :=
  [Reg.tilthLoadOffset, .progLoadOffset, .winLoadOffset, .pasidLoadOffset, .fwLoadOffset].contains r

/-- A copy holds the entry (R453). -/
def Reg.held (r : Reg) : Bool :=
  !r.perSession && !r.momentary && !r.loadOffset && decide (r.index ≠ 0x5020) && decide (r.index ≠ 0x5021) &&
    (match r.access with
      | .rw | .rws | .rwd => true
      | _ => false)

/-- Index and selector under which instance `i` of an entry is named (R439, R453). -/
def Reg.nameOf (r : Reg) (i : Nat) : Nat × Nat :=
  match r.inst with
  | .one => (r.index, noSelector)
  | .fam _ => (r.index + i, noSelector)
  | .sel .classE => (r.index + i / 4096, i % 4096)
  | .sel _ => (r.index, i)
  | .session => (r.index, noSelector)
  | .sessFam _ => (r.index + i, noSelector)

/-- Bytes of a number of an entry's type. -/
def Reg.numBytes (r : Reg) (v : Nat) : Bytes := leBytes (r.width / 8) v

/-- Adds a record in order. -/
def addRec (t : Tab CopyRec) (x : CopyRec) : Tab CopyRec := t.insert (recKey x.index x.sub x.selector) x

/-- Records of every instance of entry `r` that differs from its default. -/
def State.entryRecs (s : State) (r : Reg) (t : Tab CopyRec) : Tab CopyRec :=
  let code := r.index * 256 + r.sub
  let fitted (k : Nat) : Bool := !s.unfitted r (k % 65536)
  let nums := (if r.access = .rwd then s.prot.regs else s.regs).filter fun p => fitted p.1
  let octs := (if r.access = .rwd then s.prot.octs else s.octs).filter fun p => fitted p.1
  let name (k : Nat) (v : Bytes) : CopyRec := ⟨(r.nameOf (k % 65536)).1, r.sub, (r.nameOf (k % 65536)).2, v⟩
  if r.width = 0 then
    (octs.filter fun (p : Nat × Bytes) => p.1 / 65536 = code).foldl (fun t (p : Nat × Bytes) => addRec t (name p.1 p.2)) t
  else
    (nums.filter fun (p : Nat × Nat) => p.1 / 65536 = code).foldl (fun t (p : Nat × Nat) => addRec t (name p.1 (r.numBytes p.2))) t

/-- Bytes of the tilth table's current copy: the latest that a time base uses. -/
def State.tilthBytes (s : State) : Bytes :=
  match s.tilth.copies[(s.tilth.position.map fun (p : Nat × Nat) => p.2).foldl max 0]? with
  | some c => if c.entries = [] then [] else c.raw.run 0 0 (16 + 16 * c.entries.length)
  | none => []

/-- Current WFQ weights of a die that differ from 1 024, as Q_ID and weight. -/
def State.wfqBytes (s : State) (die : Nat) : Bytes :=
  ((s.fh.weights.filter fun (p : Nat × Nat) => p.1 / 1024 = die).flatMap fun (p : Nat × Nat) => leBytes 2 p.1 ++ leBytes 2 p.2)

/-- Current policer profiles of a die, as slice × 8 + field and value. -/
def State.polBytes (s : State) (die : Nat) : Bytes :=
  ((s.fh.profiles.filter fun (p : Nat × Nat) => p.1 / 1024 = die).flatMap fun (p : Nat × Nat) => leBytes 2 (p.1 % 1024) ++ leBytes 4 p.2)

/-- A table's record, unless the table is empty. -/
def addTable (t : Tab CopyRec) (r : Reg) (i : Nat) (bs : Bytes) : Tab CopyRec :=
  if bs = [] then t else addRec t ⟨r.index + i, r.sub, tableSelector, bs⟩

/-- Table records of the plain and of the sealed part (R453). -/
def State.plainTables (s : State) (t : Tab CopyRec) : Tab CopyRec :=
  let t := addTable t .ldpcSetCommit 0 (if s.radio.ldpcSet = Radio.reset.ldpcSet then [] else s.radio.ldpcSet)
  let t := [0, 1].foldl (fun t d => addTable t .fhWfqCommit d (s.wfqBytes d)) t
  let t := [0, 1].foldl (fun t d => addTable t .polCommit d (s.polBytes d)) t
  addTable t .fabWfqCommit 0 (s.fab.weights.flatMap fun (p : Nat × Nat) => leBytes 2 p.1 ++ leBytes 2 p.2)

def State.sealedTables (s : State) (t : Tab CopyRec) : Tab CopyRec :=
  addTable (addTable t .tilthCommit 0 s.tilthBytes) .pasidMapCommit 0 (s.hif.pasid.flatMap (leBytes 4))

/-- Unwrapped secrets and CLAIM_STATE. -/
def State.secretRecs (s : State) (t : Tab CopyRec) : Tab CopyRec :=
  let t := s.prot.roleKeys.foldl (fun t (p : Nat × Bytes) => addRec t ⟨0x6003, 4, p.1, p.2⟩) t
  let t := s.prot.tenantKeys.foldl (fun t (p : Nat × Bytes) => addRec t ⟨0x6040 + p.1, 1, noSelector, p.2⟩) t
  let t := if s.prot.domainKey = [] then t else addRec t ⟨0x5000, 4, noSelector, s.prot.domainKey⟩
  if s.prot.claimed then addRec t ⟨0x6000, 4, noSelector, [1]⟩ else t

def recBytes (t : Tab CopyRec) : Bytes := t.flatMap fun (p : Nat × CopyRec) => p.2.bytes

/-- The plain part. -/
def State.plainPart (s : State) : Bytes :=
  let rs := Reg.all.filter fun r => r.held && decide (r.access ≠ .rwd)
  recBytes (s.plainTables (rs.foldl (fun t r => s.entryRecs r t) []))

/-- The sealed part, in the clear. -/
def State.sealedPart (s : State) : Bytes :=
  let rs := Reg.all.filter fun r => r.held && decide (r.access = .rwd)
  recBytes (s.sealedTables (s.secretRecs (rs.foldl (fun t r => s.entryRecs r t) [])))

-- The copy's header (R452) --------------------

/-- The 96-bit IV of a sealed part (R407). -/
def copyIv (ivRand : Bytes) (seq : Nat) : Bytes := ivRand ++ leBytes 4 seq

/-- A header with its DIGEST, for a device of public key `pub`. -/
def copyHeader (pub : Bytes) (seq plain sealed fw : Nat) (ivRand digest : Bytes) : Bytes :=
  let front := leBytes 4 0x5A434631 ++ leBytes 2 1 ++ zeros 2 ++ leBytes 4 seq ++ leBytes 4 plain ++ leBytes 4 sealed ++ leBytes 4 fw ++
    ivRand ++ zeros 32 ++ pub ++ zeros 32 ++ digest
  front ++ zeros (4096 - front.length)

/-- A whole copy of the values of `s`. -/
def State.copyBytes (s : State) (seq : Nat) (ivRand : Bytes) : Bytes :=
  let plain := s.plainPart
  let (c, tag) := gcmSeal s.storageKey (copyIv ivRand seq) [] s.sealedPart
  let sealed := c ++ tag
  let head (d : Bytes) := copyHeader s.devicePub seq plain.length sealed.length (s.reg .hubFwVersion) ivRand d
  head (sha512 (head (zeros 64) ++ plain ++ sealed)) ++ plain ++ sealed

-- Saves (R454, R455) --------------------

/-- Offset and length of a configuration copy (R451). -/
def copyOff : Nat := 0x3100000
def copyMax : Nat := 2 ^ 22

/-- COPY_A_SEQ or COPY_B_SEQ. -/
def copySeqReg (d : Nat) : Reg := if d = 0 then .copyASeq else .copyBSeq

/-- Starts a save: takes every value, chooses the copy not in use, erases it. With none in use, either may be the target. -/
def State.startSave (s : State) : State :=
  let seq := s.reg .configSeq + 1
  if 2 ^ 32 ≤ seq then s.setReg .configStatus 3
  else
    let (iv, s) := s.random 8
    let bytes := s.copyBytes seq iv
    let (d, s) := match s.reg .configSource with
      | 0 => (some 1, s)
      | 1 => (some 0, s)
      | _ => s.choose [0, 1]
    let d := d.getD 0
    let s := (s.flashErase d copyOff copyMax).setReg (copySeqReg d) 0
    { s.setReg .configStatus 1 with mgmt := { s.mgmt with saving := some bytes, saveTarget := d } }

/-- An automatic save: held while one runs (R455). -/
def State.autoSave (s : State) : State :=
  if s.reg .configStatus = 1 then { s with mgmt := { s.mgmt with saveHeld := true } } else s.startSave

/-- CONFIG_SAVE. -/
def State.configSave (v : Nat) (s : State) : Except Nat State :=
  if v ≠ 1 then .error 0x8010
  else if s.reg .configStatus = 1 || s.mgmt.saveHeld then .error 0x8017
  else .ok s.startSave

def execConfigSave (sess value : Nat) (s : State) : Out :=
  .next (s.write sess .configSave 0 value (State.configSave (value % 256)))

/-- Starts the save that requests held together make. -/
def State.releaseHeld (s : State) : State :=
  if s.mgmt.saveHeld then ({ s with mgmt := { s.mgmt with saveHeld := false } }).startSave else s

/-- The end of a save, with the outcome of its read-back. -/
def State.saveDone (s : State) (ok : Bool) : State :=
  match s.mgmt.saving with
  | none => s
  | some bytes =>
    let d := s.mgmt.saveTarget
    let s := { s with mgmt := { s.mgmt with saving := none } }
    let seq := leAt bytes 8 4
    let s :=
      if ok then
        let s := ((s.flashWr d copyOff bytes).setReg .configSeq seq).setReg .configSource d
        (((s.setReg (copySeqReg d) seq).setReg .configBytes bytes.length).setReg .configStatus 2).bump .configSaves
      else (s.setReg .configStatus 3).fault 0x0602 0 0 0
    let s := s.event 6 0 0 noSelector (s.reg .configSeq + d * 2 ^ 32 + (if ok then 0 else 2 ^ 33))
    s.releaseHeld.resetIfAsked

def execConfigSaveDone (readBackOk : Bool) (s : State) : Out := .next (s.saveDone readBackOk)

-- Choosing a copy at boot (R456) --------------------

/-- What a valid copy holds. -/
structure Copy where
  seq : Nat
  length : Nat
  plain : List CopyRec
  sealed : List CopyRec
  deriving DecidableEq, Repr, Inhabited

/-- The copy of flash device `d`, when every check holds. -/
def State.copyOf (s : State) (d : Nat) : Option Copy :=
  let h := s.flashRd d copyOff 4096
  let p := leAt h 0x00C 4
  let q := leAt h 0x010 4
  if leAt h 0 4 ≠ 0x5A434631 || leAt h 4 2 ≠ 1 || copyMax < 4096 + p + q || q < 16 || slice h 0x040 32 ≠ s.devicePub then none
  else
    let plain := s.flashRd d (copyOff + 4096) p
    let sealed := s.flashRd d (copyOff + 4096 + p) q
    let blank := h.take 0x080 ++ zeros 64 ++ h.drop 0x0C0
    if slice h 0x080 64 ≠ sha512 (blank ++ plain ++ sealed) then none
    else match gcmOpen s.storageKey (copyIv (slice h 0x018 8) (leAt h 8 4)) [] (sealed.take (q - 16)) (sealed.drop (q - 16)) with
      | none => none
      | some m => some ⟨leAt h 8 4, 4096 + p + q, parseRecs (p + 1) plain, parseRecs (m.length + 1) m⟩

/-- The valid copy with the higher SEQ, copy A on equal SEQ. -/
def State.bestCopy (s : State) : Option (Nat × Copy) :=
  match s.copyOf 0, s.copyOf 1 with
  | some a, some b => if a.seq < b.seq then some (1, b) else some (0, a)
  | some a, none => some (0, a)
  | none, some b => some (1, b)
  | none, none => none

/-- The value a list of records gives an entry without a selector. -/
def recValue (l : List CopyRec) (r : Reg) : Option Bytes :=
  (l.find? fun x => x.index = r.index ∧ x.sub = r.sub ∧ x.selector = noSelector).map (·.value)

end Sys2Proof.Machine
end

