-- ==== Sys2Proof/Machine/Entries.lean ====
section
/-! DEFINITION. The rules of every dictionary entry: what a write of a value does (R439 to R444 and the chapters' own tables), and
what a read returns (R441, R442). Every path by which an entry is written goes through `State.entryRule`: sessions, endorsed
changes and the records of a configuration copy. -/

namespace Sys2Proof.Machine

/-- Reason `e` when `b`, else the effect. -/
def refuseIf (b : Bool) (e : Nat) (x : Except Nat State) : Except Nat State := if b then .error e else x

/-- The entry takes the number `v`. -/
def State.keep (s : State) (sess : Nat) (r : Reg) (i v : Nat) : Except Nat State :=
  .ok (if r.perSession then s.setSreg sess r v i else s.setReg r v i)

-- Memory tiers and scheduling (R211 to R213, R245 to R247) --------------------

/-- A radio stack entry takes its new value, in force at its boundary, or at once while no cell is enabled (R211). -/
def State.radioStackEntry (s : State) (r : Reg) (v : Nat) : State :=
  let s := s.setReg r v
  let s := { s with tier := { s.tier with radioStackWait := true } }
  if s.enabledCells = [] then s.switchRadioStack else s

/-- RADIO_SP_BYTES or RADIO_SHARED_BYTES takes its new value; tenant allocations in the way are asked to move (R211). -/
def State.radioPadEntry (s : State) (r : Reg) (v : Nat) : State :=
  let s := s.setReg r v
  (s.askMoves s.displaced s.plan).resizeUnbound

def State.tierRule (sess : Nat) (r : Reg) (i v : Nat) (s : State) : Except Nat State :=
  if r = .lcFloorBytes then s.lcFloor v
  else if r = .radioStackMask then refuseIf (decide (v &&& s.build.stackMask ≠ v)) 0x8010 (.ok (s.radioStackEntry r v))
  else if r = .radioStackBytes then
    refuseIf (decide (v % gib ≠ 0) || decide (s.localBytes < v + 2 * gib)) 0x8010 (.ok (s.radioStackEntry r v))
  else if r = .radioSpBytes || r = .radioSharedBytes then .ok (s.radioPadEntry r v)
  else if r = .privQuotaFrames then s.privQuota i v
  else if r = .spQuotaBytes then s.spQuota i v
  else if r = .loamQuotaPages then s.loamQuota i v
  else if r = .loamMapIova || r = .loamMapPasid || r = .loamMapEntries then refuseIf (s.mapBusy i) 0x8012 (.ok (s.setReg r v i))
  else if r = .loamMapCommit then s.loamCommit i v
  else s.keep sess r i v

/-- The slice has a context of class LC, now or from its next boundary on. -/
def State.hasLc (s : State) (n : Nat) : Bool :=
  (s.sliceCtxs n).any fun c => (s.ctx c).live && (s.isLc c || decide ((s.ctx c).wanted.cls = some 0))

def State.schedRule (sess : Nat) (r : Reg) (i v : Nat) (s : State) : Except Nat State :=
  if r = .tilthLoadOffset then s.tilthOffset v
  else if r = .ctxClass then s.classWrite i v
  else if r = .placeHint then refuseIf (decide (15 < v) && decide (v ≠ 0xFF)) 0x8010 (s.keep sess r i v)
  else if r = .ctxMove then s.moveWrite i v
  else if r = .lcAllowed then refuseIf (decide (v = 0) && s.hasLc i) 0x8012 (s.keep sess r i v)
  else s.keep sess r i v

-- Baseband (R268, R275, R278, R281, R283 to R286) --------------------

/-- Every layer order is a permutation of its base graph's rows. -/
def ldpcSetOk (set : Bytes) : Bool :=
  (List.range 16).all fun k => (List.range (ldpcOrder set k).length).all fun row => (ldpcOrder set k).contains row

/-- LDPC_SET_LOAD_DATA. -/
def State.ldpcLoad (data : Bytes) (s : State) : Except Nat State :=
  refuseIf s.radio.ldpcWait 0x8013 (.ok { s with radio := { s.radio with ldpcShadow := data } })

/-- LDPC_SET_COMMIT: current at the next code block. -/
def State.ldpcCommit (v : Nat) (s : State) : Except Nat State :=
  if !ldpcSetOk s.radio.ldpcShadow then .error 0x8010
  else if s.radio.ldpcWait || decide (v ≠ (s.reg .ldpcSetEpoch + 1) % 2 ^ 32) then .error 0x8013
  else .ok { s.setReg .ldpcSetCommit v with radio := { s.radio with ldpcWait := true } }

/-- Cells that are enabled or whose CELL_CFG has ENABLE, but for one. -/
def State.cellsInUse (s : State) (except : Nat) : List Nat :=
  (List.range 256).filter fun c => c ≠ except && ((s.cell c).enabled || bit (s.cellCfg c) 31)

/-- A UE range meets that of another cell in use (R275). -/
def State.ueTaken (s : State) (c base count : Nat) : Bool :=
  (s.cellsInUse c).any fun d => overlap base count (s.reg .ueBase d) (s.reg .ueCount d)

/-- Subcarrier spacing, type and bandwidth of a CELL_CFG value fit together (R283). -/
def cellShapeOk (v : Nat) : Bool :=
  let scs := field v 26 24
  let bw := field v 19 8
  if 3 < scs then false
  else match field v 23 20 with
    | 4 => decide (scs = 0) && [14, 30, 50, 100, 150, 200].contains bw
    | t => decide (t < 4) && decide (bw ≤ [500, 1000, 2000, 4000].getD scs 0)

/-- CELL_CFG of a cell (R275, R278, R283, R411): ENABLE takes effect at the next frame boundary. -/
def State.cellCfgWrite (c v : Nat) (s : State) : Except Nat State :=
  let old := s.cellCfg c
  let bd := field v 30 30
  let on := bit v 31
  let cu := (((s.cellsInUse c).filter fun d => s.cellBd d = bd).map fun d => cellUnits (s.cellType d) (s.cellBw d)).sum
  if !cellShapeOk v then .error 0x8010
  else if field v 6 0 ≠ 0 then .error 0x8011
  else if (bit old 31 && decide (field v 30 0 ≠ field old 30 0)) || (on && !s.prot.claimed) then .error 0x8012
  else if on && s.ueTaken c (s.reg .ueBase c) (s.reg .ueCount c) then .error 0x8015
  else if on && decide (768 < cu + cellUnits (field v 23 20) (field v 19 8)) then .error 0x8016
  else .ok ((s.setReg .cellCfg v c).modCell c fun x => { x with want := if x.enabled = on then none else some on })

/-- UE_BASE or UE_COUNT of a cell. -/
def State.ueRange (r : Reg) (c v base count : Nat) (s : State) : Except Nat State :=
  if 262144 < base + count then .error 0x8010
  else if ((s.cell c).enabled || bit (s.cellCfg c) 31) && s.ueTaken c base count then .error 0x8015
  else .ok (s.setReg r v c)

/-- CELL_MOVE of a cell (R281): ignored while its time base is not LOCKED (R321). -/
def State.cellMoveWrite (c : Nat) (data : Bytes) (s : State) : Except Nat State :=
  let w := leNat data
  if 63 < field w 7 0 then .error 0x8010
  else if field w 63 19 ≠ 0 then .error 0x8011
  else if s.reg .lockState (s.cellTb c) ≠ 2 || !Config.peerLocked (field w 7 0) s.ck then .error 0x8012
  else .ok ((s.setOct .cellMove data c).modCell c fun x =>
    { x with move := some (field w 7 0, field w 8 8, field w 18 9), moving := false, landed := 0 })

def State.radioRule (sess : Nat) (r : Reg) (i v : Nat) (s : State) : Except Nat State :=
  if r = .ldpcSetCommit then s.ldpcCommit v
  else if r = .progLoadOffset then s.progOffset i v
  else if r = .cellCfg then s.cellCfgWrite i v
  else if r = .ueBase then s.ueRange r i v v (s.reg .ueCount i)
  else if r = .ueCount then s.ueRange r i v (s.reg .ueBase i) v
  else s.keep sess r i v

-- Fronthaul and queues (R290, R302, R305, R307, R310 to R314) --------------------

/-- CLASS_ENTRY. -/
def State.classEntryWrite (i : Nat) (data : Bytes) (s : State) : Except Nat State :=
  let w := leNat data
  let m := field w 126 124
  if decide (4 ≤ m) || (decide (m = 3) && decide (field w 85 70 ≠ 0)) || (decide (field w 69 68 = 3) && decide (m ≠ 3)) then .error 0x8010
  else if field w 37 0 ≠ 0 then .error 0x8011
  else .ok (s.setOct .classEntry data i)

/-- Q_NOTICE_TARGET (R302). -/
def State.noticeTargetOk (s : State) (q v : Nat) : Bool :=
  match field v 31 28 with
  | 0 => true
  | 1 => decide (field v 11 0 < 96)
  | 2 => s.noticeVector q (field v 11 0)
  | 3 => decide (field v 11 0 < 16)
  | _ => false

/-- The die whose tables hold a queue's weight has a switch pending. -/
def State.weightBusy (s : State) (q : Nat) : Bool := qFronthaul q && s.fh.weightNext.contains (qDie q)

/-- Q_LEVEL (R300): a notice comes when the depth next rises to it. -/
def State.qLevelWrite (s : State) (q v : Nat) : State :=
  let s := (s.setReg .qLevel v q).qSync q
  s.modQueue q fun x => { x with levelOut := decide (v ≤ s.qDepth q) }

def State.queueRule (sess role : Nat) (r : Reg) (i v : Nat) (s : State) : Except Nat State :=
  if r = .queueSelect then s.queueSelectWrite sess v
  else if r = .qCfg then s.qCfgWrite i v role
  else if r = .qLevel then .ok (s.qLevelWrite i v)
  else if r = .qStaleNs then refuseIf (decide (v ≠ 0) && (decide (v < 1000) || decide (10000000 < v))) 0x8010 (s.keep sess r i v)
  else if r = .qNoticeTarget then refuseIf (!s.noticeTargetOk i v) 0x8010 (s.keep sess r i v)
  else if r = .qStatus then .ok (s.setReg .qStatus (s.reg .qStatus i &&& (3 - v % 4)) i)
  else if r = .qWeight then refuseIf (decide (v = 0)) 0x8010 (refuseIf (s.weightBusy i) 0x8013 (s.keep sess r i v))
  else if r = .qEgressPort then
    refuseIf (decide (15 < v) && decide (v ≠ 0xFF)) 0x8010
      (refuseIf (decide (v ≠ 0xFF) && s.qOn i && s.qEgress i && decide (32 ≤ s.egressCount v i)) 0x8016 (s.keep sess r i v))
  else s.keep sess r i v

/-- Whether entry `r` is one of a policer profile's shadow copy. -/
def Reg.isPolicer (r : Reg) : Bool := polRegs.contains r

def State.fronthaulRule (sess : Nat) (r : Reg) (i v : Nat) (s : State) : Except Nat State :=
  if r = .portMode then s.portModeWrite i v
  else if r = .fhWfqCommit then s.wfqCommit i v
  else if r = .polCommit then s.polCommit i v
  else if r.index = 0x4110 then refuseIf (!s.fhExists i) 0x8012 (s.keep sess r i v)
  else if r.isPolicer then
    refuseIf (decide (r = .polMode) && decide (4 < v)) 0x8010 (refuseIf (decide (s.fh.profileNext ≠ [])) 0x8013
      (({ s with fh := { s.fh with profileShadow := s.fh.profileShadow.set 0 (i * 8 + (polRegs.idxOf r)) v } } : State).keep sess r i v))
  else if r = .svcRingOffset then refuseIf (decide (v % 64 ≠ 0)) 0x8010 (s.keep sess r i v)
  else if r = .svcCapLog2 then refuseIf (decide (v < 4) || decide (16 < v)) 0x8010 (s.keep sess r i v)
  else if r.index = 0x4180 then
    refuseIf ((decide (r = .ulComp) || decide (r = .dlComp)) && decide (1 < field v 7 4)) 0x8010
      (refuseIf (bit (s.cellCfg i) 31) 0x8012 (s.keep sess r i v))
  else s.keep sess r i v

-- Time bases and pins (R319, R325, R331 to R333) --------------------

/-- An FP32 code is finite. -/
def fp32Finite (v : Nat) : Bool := decide (field v 30 23 ≠ 255)

def State.timeRule (sess : Nat) (r : Reg) (i v : Nat) (s : State) : Except Nat State :=
  if r = .stepNs then s.stepWrite i v
  else if r = .frameOffsetNs then s.frameOffsetWrite i v
  else if r = .servoSrc then s.servoSrcWrite i v
  else if r = .servoArg then
    refuseIf (decide (7 < v) || (decide (s.reg .servoSrc i = 3) && decide (3 < v))) 0x8010
      (refuseIf (decide (s.reg .servoSrc i = 4) && s.follows i 9 v) 0x8012 (s.keep sess r i v))
  else if r = .servoKp || r = .servoKi then refuseIf (!fp32Finite v) 0x8010 (s.keep sess r i v)
  else if r = .trigCfg then s.trigCfgWrite i v
  else if r = .trigStart || r = .trigPeriodNs then refuseIf (trigOn (s.reg .trigCfg i)) 0x8012 (s.keep sess r i v)
  else if r = .trigWidthNs then
    refuseIf (trigOn (s.reg .trigCfg i) && !s.trigRulesOk i (s.reg .trigCfg i) v) 0x8010 (s.keep sess r i v)
  else if r = .capCfg || r = .ppsInCfg then refuseIf (decide (v % 4 = 3)) 0x8010 (s.keep sess r i v)
  else if r = .ppsOutCfg then s.ppsOutWrite v
  else s.keep sess r i v

-- The Relevo fabric (R370 to R373) --------------------

/-- Port `p` is fitted on this build (R371). -/
def State.portFitted (s : State) (p : Nat) : Bool := bit (s.build.dflt .fabricPortMask) p

def State.relevoRule (sess : Nat) (r : Reg) (i v : Nat) (s : State) : Except Nat State :=
  if r = .packageId then
    refuseIf (decide (63 < v) && decide (v ≠ 0xFF)) 0x8010 (refuseIf s.fabricOn 0x8012 (s.keep sess r i v))
  else if r = .fabricCtrl then s.fabricCtrl v
  else if r = .routeCommit then s.routeCommit v
  else if r = .fabWfqCommit then s.fabWfq v
  else if r = .fabPortEnable then refuseIf (!s.portFitted i) 0x8012 (.ok (s.setReg r v i).flushFabric)
  else if r.index = 0x5010 then
    refuseIf (decide (v = 0)) 0x8010 (refuseIf (!s.portFitted i) 0x8012 (s.keep sess r i v))
  else if r = .jobTeardown then s.jobTeardownWrite i v
  else if r = .winLoadOffset then refuseIf (decide (16384 < v)) 0x8010 (s.keep sess r i v)
  else if r = .winCommit then s.winCommit i v
  else if r = .jobSnapshot then s.snapshotWrite i v
  else if r = .buddyAdopt then s.adoptWrite i v
  else if r = .restoreFromBuddy then s.restoreWrite i v
  else if r = .buddyRelease then s.releaseWrite v
  else if r = .ctxJobId then s.ctxJobWrite i v
  else s.keep sess r i v

-- Host and slices (R401 to R404) --------------------

/-- SLICE_MAP: no slice is enabled while the part is unclaimed (R411). -/
def State.sliceMapRule (i v : Nat) (s : State) : Except Nat State :=
  match s.sliceMapWrite i v with
  | .error e => .error (if bit v 63 && !s.prot.claimed then min e 0x8012 else e)
  | .ok t => refuseIf (bit v 63 && !s.prot.claimed) 0x8012 (.ok t)

def State.hostRule (sess : Nat) (r : Reg) (i v : Nat) (s : State) : Except Nat State :=
  if r = .pasidLoadOffset then s.pasidOffset v
  else if r = .pasidMapCommit then s.pasidCommit v
  else if r = .mbVector then refuseIf (decide (2047 < v) && decide (v ≠ 0xFFFF)) 0x8010 (s.keep sess r i v)
  else if r = .bar4Open then refuseIf (decide (1 < v)) 0x8010 (s.keep sess r i v)
  else if r = .sliceMap then s.sliceMapRule i v
  else if r = .sliceCtrl then s.sliceCtrl i v
  else if r = .ctxPasid then s.ctxPasidWrite i v
  else if r = .ctxPrivReq then s.privReq sess i v
  else if r = .ctxSharedReq then s.sharedReq sess i v
  else if r = .rhcCfg then s.rhcCfg i v
  else if r = .upRingBase || r = .upDataBase || r = .downRingBase then refuseIf (s.rhcOn i) 0x8012 (s.keep sess r i v)
  else s.keep sess r i v

-- Security (R411, R412, R416, R422, R428, R429) --------------------

/-- The 32 bytes that an 80-byte wrapped value carries (R416). -/
def State.unwrapSecret (s : State) (v : Bytes) : Option Bytes :=
  let e := v.take 32
  let key := hkdf (x25519 s.kexKey e) (e ++ s.kexPub) (ascii "zc24-wrap") 32
  gcmOpen key (zeros 12) [] (slice v 32 32) (slice v 64 16)

/-- Whether an entry is secret (R416). -/
def Reg.secret (r : Reg) : Bool := [Reg.roleKey, .tenantKey, .domainKey].contains r

/-- Binds an unwrapped secret. -/
def State.setSecret (s : State) (r : Reg) (i : Nat) (k : Bytes) : State :=
  if r = .roleKey then { s with prot := { s.prot with roleKeys := s.prot.roleKeys.set [] i k } }
  else if r = .tenantKey then
    { s with prot := { s.prot with tenantKeys := s.prot.tenantKeys.set [] i (if k = zeros 32 then [] else k) } }
  else { s with prot := { s.prot with domainKey := k } }

def State.secretWrite (r : Reg) (i : Nat) (v : Bytes) (s : State) : Except Nat State :=
  match s.unwrapSecret v with
  | some k => .ok (s.setSecret r i k)
  | none => .error 0x8006

/-- RELEASE: the part is unclaimed again. Sessions close once the response has been sent. -/
def State.releasePart (s : State) : Except Nat State :=
  if ((List.range 64).any s.sliceOn) || decide (s.cellsInUse 256 ≠ []) then .error 0x8012
  else
    let s := (s.setOct .platformAnchor (zeros 32)).setOct .radioAnchor (zeros 32)
    .ok { s with prot := { s.prot with roleKeys := [], tenantKeys := [], domainKey := [], claimed := false } }

def State.anchorWrite (r : Reg) (v : Bytes) (s : State) : Except Nat State :=
  if v = zeros 32 then .error 0x8010 else .ok (s.setOct r v)

def State.securityRule (sess : Nat) (r : Reg) (i v : Nat) (s : State) : Except Nat State :=
  if r = .release then s.releasePart
  else if r = .minFwVersion then
    refuseIf (decide (v < s.reg .minFwVersion) || decide (s.reg .hubFwVersion < v)) 0x8010 (s.keep sess r i v)
  else if r = .configSave then s.configSave v
  else s.keep sess r i v

-- Faults, clocks, power and start-up --------------------

/-- FW_CONFIRM (R534): the new slot is the one to boot, and an automatic save starts. -/
def State.fwConfirm (v : Nat) (s : State) : Except Nat State :=
  if v ≠ 1 then .error 0x8010
  else if s.reg .handoverStatus ≠ 2 then .error 0x8012
  else
    let s := (s.setReg .bootPrefer (s.reg .activeImage)).setReg .handoverStatus 3
    .ok ({ s with boot := { s.boot with former := none, otherBank := [] } }).autoSave

def execFwConfirm (sess value : Nat) (s : State) : Out :=
  .next (s.write sess .fwConfirm 0 value (State.fwConfirm (value % 256)))

def State.serviceRule (sess : Nat) (r : Reg) (i v : Nat) (s : State) : Except Nat State :=
  if r = .cdOutMask then s.cdOutWrite v
  else if r = .hbEnable then s.hbEnableWrite v
  else if r = .hbPeriodUs then s.hbTimes r v (s.reg .hbLossMs) v
  else if r = .hbLossMs then s.hbTimes r v v (s.reg .hbPeriodUs)
  else if r = .hbEcho then s.hbEchoBy sess v
  else if r = .rclkCfg then s.rclkWrite v
  else if r = .powerCapW then s.powerCap v
  else if r = .burstW then s.burstWrite v
  else if r = .tjCrit then
    refuseIf (decide (toSigned 16 v < s.regI .tjThrottle + 80) || decide (1840 < toSigned 16 v)) 0x8010 (s.keep sess r i v)
  else if r = .tjThrottle then refuseIf (decide (s.regI .tjCrit < toSigned 16 v + 80)) 0x8010 (s.keep sess r i v)
  else if r = .resetRequest then s.resetWrite v
  else if r = .fwLoadOffset then s.fwOffset v
  else if r = .handover then s.handoverWrite v
  else if r = .fwConfirm then s.fwConfirm v
  else s.keep sess r i v

-- Octet entries --------------------

/-- Writes of octet entries. -/
def State.octetRule (r : Reg) (i : Nat) (v : Bytes) (s : State) : Except Nat State :=
  if r = .tilthLoadData then s.tilthLoad v
  else if r = .tilthCommit then s.tilthCommit v
  else if r = .programAllow then refuseIf (decide (v.length % 64 ≠ 0)) 0x8010 (.ok (s.setOct r v i))
  else if r = .ldpcSetLoadData then s.ldpcLoad v
  else if r = .progLoadData then s.progLoad i v
  else if r = .progCommit then s.progCommit i v
  else if r = .cellMove then s.cellMoveWrite i v
  else if r = .classEntry then s.classEntryWrite i v
  else if r = .fhMacAddr then refuseIf (!s.fhExists i) 0x8012 (.ok (s.setOct r v i))
  else if r.secret then s.secretWrite r i v
  else if r = .routeTable then s.routeTableWrite v
  else if r = .jobCfg then s.jobCfgWrite i v
  else if r = .winLoadData then s.winLoad i v
  else if r = .pasidLoadData then s.pasidLoad v
  else if r = .sealCfg then s.sealWrite i v
  else if r = .sliceSave then s.sliceSave i v
  else if r = .sliceRestore then s.sliceRestore i v
  else if r = .claim then .error 0x8012
  else if r = .platformAnchor || r = .radioAnchor then s.anchorWrite r v
  else if r = .meQuarantine then s.quarantineWrite (leNat v)
  else if r = .fwLoadData then s.fwLoad v
  else if r = .fwCommit then s.fwCommit v
  else .ok (s.setOct r v i)

-- One rule for every entry --------------------

/-- Writes of entries that hold a number or a time, by chapter. -/
def State.numberRule (sess role : Nat) (r : Reg) (i v : Nat) (s : State) : Except Nat State :=
  match r.index / 0x100 with
  | 0x34 => s.tierRule sess r i v
  | 0x33 => s.schedRule sess r i v
  | 0x40 => s.radioRule sess r i v
  | 0x41 => if r.index = 0x4120 then s.queueRule sess role r i v else s.fronthaulRule sess r i v
  | 0x42 => s.timeRule sess r i v
  | 0x50 => s.relevoRule sess r i v
  | 0x51 => s.hostRule sess r i v
  | 0x12 => s.securityRule sess r i v
  | 0x60 => if r.index = 0x6006 then s.serviceRule sess r i v else s.securityRule sess r i v
  | 0x70 => s.serviceRule sess r i v
  | 0x20 => s.serviceRule sess r i v
  | 0x21 => s.serviceRule sess r i v
  | 0x22 => s.serviceRule sess r i v
  | _ => s.keep sess r i v

/-- What a write of value `v` to instance `i` of entry `r` does, under the entry's own rules (R443, R444). -/
def State.entryRule (sess role : Nat) (r : Reg) (i : Nat) (v : Bytes) (s : State) : Except Nat State :=
  if r.width = 0 then s.octetRule r i v else s.byRules r (leNat v) (State.numberRule sess role r i (leNat v))

-- Reads --------------------

/-- Nominal voltage of a rail in mV, the set point of a VCORE rail (R504, R508). -/
def State.railNominal (s : State) (n : Nat) : Nat :=
  if n < 16 then ((700 : Int) + s.power.setPoint.get 0 n).toNat
  else match n with
    | 16 => 750
    | 17 => 700
    | 18 => 700
    | 19 => 750
    | 20 => 1200
    | 21 => 1200
    | 22 => 1800
    | k => (Config.hbmMv k).toNat

/-- CORE_STATE (R285). -/
def DspCore.stateBits (c : DspCore) : Nat :=
  let win := if c.window = 0 then 0xFF else c.window - 1
  (if c.handler.isSome then 1 else 0) + c.active % 2 * 2 + (if c.pendingDigest.isSome then 4 else 0) + win % 256 * 8

/-- GAIN_INDEX (R286): g(n + 1), or the default for an antenna that has had no gain. -/
def State.gainIndex (s : State) (cell ant : Nat) : Nat :=
  let a := (s.cell cell).antennas.at ant
  if a.known then a.gNext else 16

/-- A flag as a bit. -/
def flag (b : Bool) : Nat := if b then 1 else 0

/-- Numbers that the device derives from its state when they are read: memory, contexts and queues. -/
def State.derivedA (s : State) (r : Reg) (i : Nat) : Option Nat :=
  let x := s.ctx i
  let q := s.queue i
  if r = .detClass then some s.detClass
  else if r = .ctxQHead then some x.page.head.toNat
  else if r = .ctxQTail then some x.page.tail.toNat
  else if r = .ctxQIgnoredCount then some x.page.ignored.toNat
  else if r = .ctxQLastIgnored then some x.page.lastIgnored
  else if r = .ctxQLastIgnoredSeq then some x.page.lastIgnoredSeq.toNat
  else if r = .ctxQState then some x.page.state
  else if r = .syncCounter then some (s.hif.sync.get 0 i)
  else if r = .loamFreeFrames then some (s.tier.loamFrames - s.tier.pages.length)
  else if r = .privBase then some (if x.alloc.engine.isSome then x.alloc.privBase else 0)
  else if r = .privBytes then some x.alloc.privBytes
  else if r = .sharedBase then some (if x.alloc.engine.isSome then x.alloc.sharedBase else 0)
  else if r = .sharedBytes then some x.alloc.sharedBytes
  else if r = .ctxEngine then some (x.alloc.engine.getD 0xFF)
  else if r = .ctxResident then some (flag (decide (x.alloc.spilled ≠ [])))
  else if r = .hoodDpa then some (x.alloc.hood.getD 0)
  else if r = .loamRefs then some x.refs.length
  else if r = .privFrames then some (s.tier.regions.get [] i).length
  else if r = .spBytes then some (s.spBytes i)
  else if r = .loamPages then some (s.slicePages i).length
  else if r = .loamMapStatus then some (s.mapStatus i)
  else if r = .loamOver then some (flag (s.loamOver i))
  else if r = .tilthStatus then some s.tilthStatus
  else if r = .reEngine then some ((s.logicalEngine i).getD 0xFF)
  else if r = .reTb then some (match s.logicalEntry i with
    | some e => tilthTb e
    | none => 0xFF)
  else if r = .ctxDeficit then some (ofSigned 64 x.deficit)
  else if r = .sliceEngineCycles then some ((s.sliceCtxs i).map fun c => s.reg .engineCycles c).sum
  else if r = .qWrite then some q.write.toNat
  else if r = .qTail then some q.tail.toNat
  else if r = .qRead then some (s.qSync i |>.queue i).read.toNat
  else if r = .qRelease then some (s.qSync i |>.queue i).release.toNat
  else if r = .qMark then some q.mark.toNat
  else if r = .qStatus then some (s.reg .qStatus i % 4 + 4 * flag q.markValid)
  else if r = .qPackets then some ((s.qSync i).qPackets i)
  else none

/-- Numbers that the device derives: baseband, time, fabric, sessions, units and power. -/
def State.derivedB (s : State) (sess : Nat) (r : Reg) (i : Nat) : Option Nat :=
  let p := s.port i
  if r = .coreState then some (s.core i).stateBits
  else if r = .busyBk then some (s.busyBk i)
  else if r = .cellCu then some (cellUnits (s.cellType i) (s.cellBw i))
  else if r = .gainIndex then some (s.gainIndex (i / 256) (i % 256))
  else if r = .fhPortState then some (if s.fhExists i then 1 + 2 * flag (bit s.fh.linkUp i) else 0)
  else if r = .tbTime then some (time80 (s.ns i))
  else if r = .buddyFreeFrames then some (gapStarts 1 (s.frameGaps s.buddyBase s.loamBase))
  else if r = .fhFecCorrected then some ((s.fh.fec.at i).ok % 2 ^ 64)
  else if r = .fhFecUncorrected then some ((s.fh.fec.at i).bad % 2 ^ 32)
  else if r = .fabFecCorrected then some (p.fecOk % 2 ^ 64)
  else if r = .fabFecUncorrected then some (p.fecBad % 2 ^ 32)
  else if r = .fabPortState then some (if s.portFitted i then 1 + 2 * flag p.up + 4 * flag p.retraining else 0)
  else if r = .claimState then some (flag s.prot.claimed)
  else if r = .endorsePending then some s.mgmt.changes.length
  else if r = .tenantKeySet then some (flag (decide (s.prot.tenantKeys.get [] i ≠ [])))
  else if r = .sessionsOpen then some s.openSessions.length
  else if r = .sessionSelf then some (sess + s.role sess * 256 + viaPort (s.sess sess).via * 65536)
  else if r = .cdService then some s.cdService
  else if r = .stackService then some s.stackService
  else if r = .xpService then some s.xpService
  else if r = .hbState then some (flag (s.hbRenewed 0) + 2 * flag (s.hbRenewed 1))
  else if r = .ckCycle then some s.ck
  else if r = .holdoverMs then some (s.power.holdCk / 825000)
  else if r = .burstBankMj then some (s.power.bank / 1000000)
  else if r = .railSetpointMv then some (s.railNominal i)
  else none

/-- The number an entry reads as. -/
def State.readNumber (s : State) (sess : Nat) (r : Reg) (i : Nat) : Nat :=
  if s.unfitted r i then r.dflt
  else if r.perSession && decide (r ≠ .sessionSelf) then s.sreg sess r i
  else match s.derivedA r i with
    | some v => v
    | none => match s.derivedB sess r i with
      | some v => v
      | none => s.reg r i

/-- Content of an entry in SETUP_DIGEST (R424). -/
def State.setupContent (s : State) (r : Reg) (i : Nat) : Bytes :=
  if r.secret then match s.prot.lastNonce.get 0 (r.key i) with
    | 0 => leBytes 16 (Config.noNonce (r.key i)).toNat
    | n + 1 => leBytes 16 n
  else if r.width = 0 then s.oct r i
  else r.numBytes (s.reg r i)

/-- Instances of an RWD entry: those of its selector, or of its family. -/
def Reg.instances (r : Reg) : List Nat :=
  match r.inst with
  | .fam n => List.range n
  | .sel .cell => List.range 256
  | .sel .classE => List.range 8192
  | .sel .roleKey => List.range 5
  | _ => [0]

/-- One entry of the digest, keyed for its order. -/
def State.setupItem (s : State) (r : Reg) (i : Nat) : Nat × Bytes :=
  let (ix, sel) := r.nameOf i
  let c := s.setupContent r i
  (recKey ix r.sub sel, leBytes 2 ix ++ leBytes 1 r.sub ++ leBytes 4 sel ++ leBytes 4 c.length ++ c)

/-- SETUP_DIGEST (R424). -/
def State.setupDigest (s : State) : Bytes :=
  let rs := Reg.all.filter fun r => r.access = .rwd
  let t := rs.foldl (fun (t : Tab Bytes) r => r.instances.foldl (fun t i => t.insert (s.setupItem r i).1 (s.setupItem r i).2) t) []
  sha512 (t.flatMap fun (p : Nat × Bytes) => p.2)

/-- The octets an entry reads as, but for those whose reading changes the state. -/
def State.readOctets (s : State) (sess : Nat) (r : Reg) (i : Nat) : Bytes :=
  if r.secret then zeros 32
  else if r = .devicePubkey then s.devicePub
  else if r = .deviceKexPubkey then s.kexPub
  else if r = .deviceCert then beBytes 64 Config.deviceCert.toNat
  else if r = .tilthShadowDigest then s.shadowDigest
  else if r = .attestReport then (if (s.sess sess).report = [] then zeros 576 else (s.sess sess).report)
  else if r = .setupDigest then s.setupDigest
  else if r = .meService then leBytes 16 s.meService
  else if r = .dspService then leBytes 12 s.dspService
  else if r = .mismatchLog then s.faults.mismatches.getD i (zeros 128)
  else if r = .mgmtMacAddr then (if s.oct r i = [] then beBytes 6 (Config.macAddr i).toNat else s.oct r i)
  else if r = .fhMacAddr then (if s.unfitted r i then beBytes 6 (Config.fhMac s.runningBody i).toNat else s.fhMac i)
  else s.oct r i

/-- A fresh nonce for ENDORSE_NONCE (R419): the oldest of more than 16 is discarded. -/
def State.issueNonce (s : State) : Bytes × State :=
  let (b, s) := s.random 16
  let all := s.mgmt.nonces ++ [(BitVec.ofNat 128 (leNat b), s.ck)]
  (b, { s with mgmt := { s.mgmt with nonces := all.drop (all.length - 16) } })

/-- A read of instance `i` of entry `r` by session `sess`: the value, and what reading changes (R306, R333, R419). -/
def State.readEntry (s : State) (sess : Nat) (r : Reg) (i : Nat) : Bytes × State :=
  if r = .endorseNonce then s.issueNonce
  else if r = .capRead then s.capTake i
  else if r = .ppsInRead then s.capTake 4
  else if r = .qMaxDepth || r = .qMaxDelayNs then (r.numBytes (s.reg r i), s.setReg r 0 i)
  else if r.width = 0 then (s.readOctets sess r i, s)
  else (r.numBytes (s.readNumber sess r i), s)

end Sys2Proof.Machine
end

