-- ==== Sys2Proof/Machine/Sessions.lean ====
section
/-! DEFINITION. Requests and sessions (R411 to R421, R430 to R438): opening and closing sessions, the operations of a request,
endorsements and pending changes, CLAIM, attestation reports, and the host mailbox (R380). -/

namespace Sys2Proof.Machine

-- Times --------------------

/-- CK cycles of a second (R486). -/
def ckSecond : Nat := 825000000

-- Attestation (R423) --------------------

/-- Slices that satisfy `p`, as bits. -/
def sliceMask (p : Nat → Bool) : Nat := ((List.range 64).filter p).foldl (fun m n => m + 2 ^ n) 0

/-- The report's first 512 bytes. -/
def State.reportFront (s : State) (nonce : Bytes) : Bytes :=
  leBytes 4 0x5A415431 ++ leBytes 2 1 ++ leBytes 1 (flag s.prot.claimed) ++ leBytes 1 (s.reg .activeImage) ++ leBytes 4 (s.detClass) ++
  leBytes 1 (s.reg .buildCode) ++ leBytes 1 s.pkg ++ zeros 2 ++ leBytes 4 (s.reg .hubFwVersion) ++ leBytes 4 (s.reg .minFwVersion) ++
  leBytes 4 (s.reg .configSeq) ++ zeros 4 ++ leBytes 8 (sliceMask s.sealed) ++ leBytes 8 (sliceMask s.sliceOn) ++ leBytes 8 s.mgmt.reportsMade ++
  zeros 8 ++ s.devicePub ++ s.kexPub ++ nonce ++ zeros 32 ++ s.oct .hubFwDigest ++ s.oct .numfwDigest ++ s.setupDigest ++
  sha512 ((List.range 96).flatMap fun n => s.oct .progDigest n) ++ sha512 (s.oct .platformAnchor ++ s.oct .radioAnchor)

/-- A report for session `n`, counted with those made since reset. -/
def State.makeReport (s : State) (n : Nat) (nonce : Bytes) : State :=
  let s := { s with mgmt := { s.mgmt with reportsMade := (s.mgmt.reportsMade + 1) % 2 ^ 64 } }
  let front := s.reportFront nonce
  s.modSess n fun x => { x with report := front ++ edSign s.identitySeed front }

-- CLAIM (R411) --------------------

/-- CLAIM: the anchors and the role keys of roles 0 to 4. -/
def State.claimRule (data : Bytes) (s : State) : Except Nat State :=
  let keys := (List.range 5).map fun k => s.unwrapSecret (slice data (64 + 80 * k) 80)
  if keys.contains none then .error 0x8006
  else if slice data 0 32 = zeros 32 || slice data 32 32 = zeros 32 then .error 0x8010
  else if s.prot.claimed then .error 0x8012
  else
    let s := (s.setOct .platformAnchor (slice data 0 32)).setOct .radioAnchor (slice data 32 32)
    let s := (List.range 5).foldl (fun (s : State) k => s.setSecret .roleKey k ((keys.getD k none).getD [])) s
    .ok ({ s with prot := { s.prot with claimed := true } }).autoSave

-- Endorsements (R417 to R421) --------------------

/-- The message a custodian signs (R418). -/
def endorsedMessage (index sub selector : Nat) (v : Bytes) (nonce : BitVec 128) : Bytes :=
  let nv := if selector = noSelector then v else leBytes 4 selector ++ v
  leBytes 2 index ++ leBytes 1 sub ++ leBytes 4 nv.length ++ nv ++ leBytes 16 nonce.toNat

/-- Anchor key of a custodian. -/
def State.anchorKey (s : State) (custodian : Nat) : Bytes := s.oct (if custodian = 1 then .platformAnchor else .radioAnchor)

/-- A pending change whose 60 s have not passed; its last CK cycle still counts (R421). -/
def State.changeOpen (s : State) (c : Change) : Bool := decide (s.ck ≤ c.startCk + 60 * ckSecond)

/-- An unused nonce that has not lapsed. -/
def State.nonceUnused (s : State) (nonce : BitVec 128) : Bool :=
  s.mgmt.nonces.any fun p => decide (p.1 = nonce) && decide (s.ck < p.2 + 300 * ckSecond)

/-- The pending change that a nonce serves. -/
def State.changeBy (s : State) (nonce : BitVec 128) : Option Change :=
  s.mgmt.changes.find? fun c => decide (c.nonce = nonce) && s.changeOpen c

/-- The role that delivers a custodian's endorsements. -/
def custodianRole (custodian : Nat) : Nat := custodian + 1

/-- An endorsement is accepted (R418), apart from whether its nonce serves another entry. -/
def State.endorsementOk (s : State) (n index sub selector : Nat) (v : Bytes) (e : Endorsement) : Bool :=
  (decide (e.custodian = 1) || decide (e.custodian = 2)) && decide (s.role n = custodianRole e.custodian)
    && edVerify (s.anchorKey e.custodian) (endorsedMessage index sub selector v e.nonce) e.signature
    && (s.nonceUnused e.nonce || (s.changeBy e.nonce).isSome)

/-- Instance of an entry from its family index and a change's selector. -/
def Reg.instAt (r : Reg) (fam selector : Nat) : Nat :=
  match r.inst with
  | .sel .classE => fam * 4096 + selector
  | .sel _ => selector
  | _ => fam

/-- What SETUP_DIGEST keeps of an applied change: a secret's nonce, a commit's value (R424). -/
def State.noteApplied (s : State) (r : Reg) (i : Nat) (c : Change) : State :=
  if r.secret then { s with prot := { s.prot with lastNonce := s.prot.lastNonce.set 0 (r.key i) (c.nonce.toNat + 1) } }
  else if r = .tilthCommit then s.setOct r c.value
  else if r = .pasidMapCommit then s.setReg r (leNat c.value)
  else s

/-- Discards a pending change. -/
def State.dropChange (s : State) (nonce : BitVec 128) : State :=
  { s with mgmt := { s.mgmt with changes := s.mgmt.changes.filter fun c => c.nonce ≠ nonce } }

/-- A change completes by session `n`: the entry's own rules decide (R421). -/
def State.applyChange (s : State) (n : Nat) (c : Change) (r : Reg) (i : Nat) : State :=
  let s := s.dropChange c.nonce
  match s.entryRule n (s.role n) r i c.value with
  | .ok t => (((t.noteApplied r i c).bump .endorseApplied).event 4 c.index c.sub c.selector c.nonce.toNat).autoSave
  | .error e =>
    ((s.bump .endorseRefused).ignoreWrite n c.index c.sub e).event 5 c.index c.sub c.selector (c.nonce.toNat + e * 2 ^ 128)

/-- The first accepted endorsement that carries a nonce opens a pending change (R419). -/
def State.openChange (s : State) (c : Change) : State :=
  let s := { s with mgmt := { s.mgmt with
    nonces := s.mgmt.nonces.filter fun p => p.1 ≠ c.nonce
    changes := s.mgmt.changes ++ [c] } }
  s.event 3 c.index c.sub c.selector (c.custodian + c.nonce.toNat * 2 ^ 8)

/-- An endorsement of a write of instance `i` of an RWD entry by session `n` (R418 to R420). -/
def State.endorse (s : State) (n : Nat) (r : Reg) (i : Nat) (v : Bytes) (e : Endorsement) : State :=
  let (ix, sel) := r.nameOf i
  let refuse := (s.bump .endorseRefused).ignoreWrite n ix r.sub 0x8004
  if !s.endorsementOk n ix r.sub sel v e then refuse
  else match s.changeBy e.nonce with
    | some c =>
      if c.index ≠ ix || c.sub ≠ r.sub then refuse
      else if c.custodian = e.custodian || c.value ≠ v || c.selector ≠ sel then s.ignoreWrite n ix r.sub 0x8005
      else s.applyChange n c r i
    | none =>
      if s.mgmt.changes.any fun c => s.changeOpen c && decide (c.index = ix) && decide (c.sub = r.sub) && decide (c.selector = sel) then
        s.ignoreWrite n ix r.sub 0x8005
      else s.openChange ⟨ix, r.sub, sel, v, e.nonce, e.custodian, s.ck⟩

/-- NONCE_LAPSE: 300 s after issue. -/
def execNonceLapse (nonce : BitVec 128) (s : State) : Out :=
  .next { s with mgmt := { s.mgmt with
    nonces := s.mgmt.nonces.filter fun p => !(decide (p.1 = nonce) && decide (p.2 + 300 * ckSecond ≤ s.ck)) } }

/-- CHANGE_EXPIRED: more than 60 s after its first endorsement, since one in the CK cycle in which they end completes it (R421). -/
def execChangeExpired (nonce : BitVec 128) (s : State) : Out :=
  match s.mgmt.changes.find? fun c => decide (c.nonce = nonce) && !s.changeOpen c with
  | none => .next s
  | some c => .next (((s.dropChange nonce).bump .endorseExpired).event 5 c.index c.sub c.selector nonce.toNat)

-- Operations of a request (R435, R436) --------------------

/-- One operation of a request. -/
inductive ReqOp where
  | read (index sub : Nat)
  | write (index sub : Nat) (value : Bytes)
  | endorsed (index sub : Nat) (value : Bytes) (e : Endorsement)
  | events (words : Nat)
  | recall
  | close
  /-- A malformed operation (status 0x04). -/
  | bad
  deriving DecidableEq, Repr

/-- The entry that an operation names. -/
def ReqOp.name (o : ReqOp) : Option (Nat × Nat) :=
  match o with
  | .read ix sub => some (ix, sub)
  | .write ix sub _ => some (ix, sub)
  | .endorsed ix sub _ _ => some (ix, sub)
  | .events _ => none
  | .recall => none
  | .close => none
  | .bad => none

/-- TYPE of an operation's result: its entry's type, 0 when it names none. -/
def ReqOp.ty (o : ReqOp) : Nat :=
  match o.name with
  | some (ix, sub) => match Reg.find ix sub with
    | some (r, _) => r.ty
    | none => 0
  | none => 0

/-- Q_OP as a value (R312). -/
def queueOpOf (v : Nat) : Option QOp :=
  match v % 256 with
  | 1 => some .flush
  | 2 => some .mark
  | 3 => some .rewind
  | 4 => some (.release (BitVec.ofNat 32 (field v 63 32)))
  | 5 => some (.read (field v 63 32))
  | _ => none

/-- Whether a value's length fits an entry (R435). -/
def Reg.lengthOk (r : Reg) (v : Bytes) : Bool := if r.width = 0 then r.sizeOk v.length else decide (8 * v.length = r.width)

/-- A WRITE that the session's role may make. -/
def State.putEntry (s : State) (n : Nat) (r : Reg) (fam : Nat) (v : Bytes) : State :=
  let i := s.instOf n r fam
  let ix := r.index + fam
  if r = .qOp then match queueOpOf (leNat v) with
    | none => s.ignoreWrite n ix r.sub 0x8010
    | some o => if field (leNat v) 31 8 ≠ 0 then s.ignoreWrite n ix r.sub 0x8011 else s.qOpWrite i o n
  else if r = .attestNonce then s.makeReport n v
  else if r = .claim then s.take n ix r.sub (s.claimRule v)
  else
    let x := s.entryRule n (s.role n) r i v
    let failed : Bool := match x with
      | .error e => decide (r = .loamMapCommit) && decide (e = 0x8018)
      | .ok _ => false
    let t := s.take n ix r.sub x
    if failed then t.mapReadFailed i else t

/-- What one operation answers: status and value. -/
abbrev OpAnswer := Nat × Bytes

/-- READ. -/
def State.opRead (s : State) (n ix sub : Nat) : OpAnswer × State :=
  match Reg.find ix sub with
  | none => ((1, []), s)
  | some (r, fam) =>
    if r.access = .wo then ((3, []), s)
    else
      let (v, t) := s.readEntry n r (s.instOf n r fam)
      ((0, v), t)

/-- WRITE. -/
def State.opWrite (s : State) (n ix sub : Nat) (v : Bytes) : OpAnswer × State :=
  match Reg.find ix sub with
  | none => ((1, []), s)
  | some (r, fam) =>
    if !r.lengthOk v then ((2, []), s)
    else match r.writeRight (s.role n) with
      | some e => ((0, []), s.ignoreWrite n ix sub e)
      | none => ((0, []), s.putEntry n r fam v)

/-- WRITE_ENDORSED. An endorsement that is not accepted counts, whatever its write is ignored for (R418). -/
def State.opEndorsed (s : State) (n ix sub : Nat) (v : Bytes) (e : Endorsement) : OpAnswer × State :=
  match Reg.find ix sub with
  | none => ((1, []), s)
  | some (r, fam) =>
    let i := s.instOf n r fam
    let refused := s.bumpIf (!s.endorsementOk n ix sub (r.nameOf i).2 v e) .endorseRefused
    if !r.lengthOk v then ((2, []), s)
    else match r.access with
      | .rwd =>
        if s.role n = 2 || s.role n = 3 then ((0, []), s.endorse n r i v e)
        else ((0, []), refused.ignoreWrite n ix sub 0x8001)
      | .ro | .const => ((0, []), refused.ignoreWrite n ix sub 0x8002)
      | .rw | .wo | .rws => ((0, []), refused.ignoreWrite n ix sub 0x8003)

/-- EVENT_READ. -/
def State.opEvents (s : State) (n words : Nat) : OpAnswer × State :=
  if words = 0 || 16 < words then ((2, []), s)
  else
    let q := 0x1300 + n
    let k := min words (s.qDepth q)
    let v := (List.range k).flatMap fun j => (s.qWord q ((s.queue q).read + BitVec.ofNat 32 j)).bytes
    ((0, v), if k = 0 then s else s.qRead q k)

/-- One operation of session `n`. RECALL and CLOSE act with the response. -/
def State.doOp (s : State) (n : Nat) (o : ReqOp) : OpAnswer × State :=
  match o with
  | .read ix sub => s.opRead n ix sub
  | .write ix sub v => s.opWrite n ix sub v
  | .endorsed ix sub v e => s.opEndorsed n ix sub v e
  | .events k => s.opEvents n k
  | .recall => ((0, []), s)
  | .close => ((0, []), s)
  | .bad => ((4, []), s)

/-- The session number under which a sessionless request runs: none is open under it. -/
def sessionless : Nat := 16

/-- One operation without a session (R434). -/
def State.doSessionless (s : State) (o : ReqOp) : OpAnswer × State :=
  match o with
  | .read ix sub =>
    if ix = 0x1000 || (decide (ix = 0x6000) && decide (1 ≤ sub) && decide (sub ≤ 4)) then s.opRead sessionless ix sub else ((6, []), s)
  | .write ix sub v =>
    if ix = 0x6000 && sub = 5 then
      if !Reg.lengthOk .claim v then ((2, []), s) else ((0, []), s.take sessionless 0x6000 5 (s.claimRule v))
    else ((6, []), s)
  | .endorsed _ _ _ _ => ((6, []), s)
  | .events _ => ((6, []), s)
  | .recall => ((6, []), s)
  | .close => ((6, []), s)
  | .bad => ((4, []), s)

/-- Runs operations until the first malformed one; later ones are not executed (R436). -/
def runOps (run : State → ReqOp → OpAnswer × State) (n : Nat) : Bool → List ReqOp → State → Bytes × State
  | _, [], s => ([], s)
  | stopped, o :: os, s =>
    let ((status, v), t) := if stopped then ((5, []), s) else run s o
    let (rest, u) := runOps run n (stopped || decide (status ≠ 0)) os t
    (t.opResult n status o.ty v ++ rest, u)

-- Closing sessions (R412, R415, R428, R445) --------------------

/-- Session `n` closes: its event queue is flushed, and BAR4_OPEN returns to 0 with the last service session (R381). -/
def State.closeSession (s : State) (n : Nat) : State :=
  let q := 0x1300 + n
  let service : Bool := s.isOpen n && decide (s.role n = 4)
  let s := if s.qOn q then s.qFlush q else s
  let s := (s.setReg .qCfg (setBit (s.reg .qCfg q) 31 false) q).setSess n .closed
  if service && !(s.openSessions.any fun m => decide (s.role m = 4)) then s.setReg .bar4Open 0 else s

/-- Session `n` closes once the response has been sent: its role key changed, or the part was released. -/
def State.closesAfter (before after : State) (n : Nat) : Bool :=
  let k := Reg.key .roleKey (before.role n)
  decide ((before.sess n).phase ≠ 0) &&
    ((before.prot.claimed && !after.prot.claimed) || decide (before.prot.lastNonce.get 0 k ≠ after.prot.lastNonce.get 0 k))

/-- What follows a response. -/
def State.afterRequest (before s : State) : State :=
  ((List.range 16).foldl (fun (t : State) n => if before.closesAfter s n then t.closeSession n else t) s).resetIfAsked

/-- A request of session `n`: its operations in order, the response, and what follows it. Nothing happens without an open
session. -/
def State.serveRequest (s : State) (n : Nat) (ops : List ReqOp) : State :=
  if !s.isOpen n then s
  else
    let (results, t) := runOps (fun s o => s.doOp n o) n false ops s
    let t := t.answer n (if ops = [.recall] then (s.sess n).lastResponse else results)
    s.afterRequest (if ops = [.close] then t.closeSession n else t)

/-- Puts a frame that answers a client at `dest` on its transport; on a management port, the frame answered was accepted. -/
def State.replyVia (s : State) (via : Transport) (dest f : Bytes) : State :=
  match via with
  | .mailbox => ({ s with hif := { s.hif with mbResponse := f, mbStatus := 2 } }).raiseMailbox
  | v => (s.sendOn (viaPort v) dest f).bump .mgmtRxFrames (viaPort v - 1)

/-- While the hub is held under R407, every mailbox frame has the answer IDENTITY_FAIL. -/
def State.identityFail (s : State) : State :=
  if s.hif.access && !s.boot.inReset && s.boot.idFail then s.replyVia .mailbox [] (frameHeader 0x0F 0xFF 1 0 ++ [1]) else s

/-- A sessionless request through the mailbox (R434). -/
def State.serveSessionless (s : State) (ops : List ReqOp) : State :=
  let (results, t) := runOps State.doSessionless sessionless false ops s
  t.replyVia .mailbox [] (frameHeader 0x0B 0xFF results.length 0 ++ results)

/-- The mailbox takes sessionless requests (R380, R526). -/
def State.mailboxUp (s : State) : Bool :=
  s.hif.access && decide (3 ≤ s.reg .bootStage) && !s.boot.inReset && !s.boot.halted && !s.boot.idFail

-- Commands that are one operation --------------------

def execRead (sess index subindex : Nat) (s : State) : Out := .next (s.serveRequest sess [.read index subindex])

def execWrite (sess index subindex : Nat) (value : Bytes) (s : State) : Out := .next (s.serveRequest sess [.write index subindex value])

def execWriteEndorsed (sess index subindex : Nat) (value : Bytes) (e : Endorsement) (s : State) : Out :=
  .next (s.serveRequest sess [.endorsed index subindex value e])

def execEventRead (sess words : Nat) (s : State) : Out := .next (s.serveRequest sess [.events words])

def execRecall (sess : Nat) (s : State) : Out := .next (s.serveRequest sess [.recall])

def execClose (sess : Nat) (s : State) : Out := .next (s.serveRequest sess [.close])

def execEndorseNonce (sess : Nat) (s : State) : Out := .next (s.serveRequest sess [.read 0x6004 1])

def execAttestNonce (sess : Nat) (nonce : Bytes) (s : State) : Out := .next (s.serveRequest sess [.write 0x6002 1 nonce])

/-- CLAIM through the mailbox. -/
def execClaim (data : Bytes) (s : State) : Out :=
  .next (if s.mailboxUp then s.serveSessionless [.write 0x6000 5 data] else s.identityFail)

-- Opening a session (R414, R431, R433) --------------------

/-- Frames of sessions are taken on a transport. -/
def State.sessionsUp (s : State) (via : Transport) : Bool :=
  decide (s.reg .bootStage = 7) && !s.boot.inReset && (decide (via ≠ .mailbox) || s.hif.access)

/-- An address and UDP port of 18 octets names an IPv4 address, mapped under RFC 4291. -/
def mappedV4 (source : Nat) : Bool := decide (source / 2 ^ 48 = 0xFFFF)

/-- The address family of a source is on at its management port (R450); the mailbox has none. -/
def State.familyOn (s : State) (via : Transport) (source : Nat) : Bool :=
  let m := viaPort via - 1
  decide (via = .mailbox) || (if mappedV4 source then decide (s.oct .ipv4Addr m ≠ zeros 8) else decide (s.oct .ipv6Addr m ≠ zeros 17))

/-- A management port's own address in a source's family, and its UDP port (R430, R450). -/
def State.homeOf (s : State) (via : Transport) (source : Nat) : Bytes :=
  let m := viaPort via - 1
  if via = .mailbox then []
  else (if mappedV4 source then (s.oct .ipv4Addr m).take 4 else (s.oct .ipv6Addr m).take 16) ++ beBytes 2 (s.reg .mgmtUdpPort m)

/-- The reason for which OPEN is refused: unclaimed, full, locked out, key unset. -/
def State.openRefusal (s : State) (role : Nat) : Option Nat :=
  if !s.prot.claimed then some 4
  else if (List.range 16).all fun n => decide ((s.sess n).phase ≠ 0) then some 1
  else if s.mgmt.locked.contains role then some 2
  else if s.prot.roleKeys.get [] role = [] then some 3
  else none

/-- The lowest free session number. -/
def State.freeSession (s : State) : Nat := ((List.range 16).find? fun n => decide ((s.sess n).phase = 0)).getD 0

/-- A malformed frame is dropped without reply (R432). -/
def State.dropFrame (s : State) (via : Transport) : State :=
  match via with
  | .mailbox => s
  | v => s.bump .mgmtRxDiscarded (viaPort v - 1)

/-- OPEN. -/
def State.openVia (s : State) (via : Transport) (source role : Nat) (nc : Bytes) : State :=
  if 4 < role || nc.length ≠ 32 then s.dropFrame via
  else match s.openRefusal role with
    | some e => s.replyVia via (beBytes 18 source) (frameHeader 0x02 0xFF 1 0 ++ leBytes 1 e)
    | none =>
      let n := s.freeSession
      let (nd, s) := s.random 32
      let s := s.setSess n { Session.closed with phase := 1, role := role, via := via, source := source, home := s.homeOf via source, nc := nc, nd := nd, lastCk := s.ck }
      s.replyVia via (beBytes 18 source) (frameHeader 0x02 n 32 0 ++ nd)

/-- A frame of the mailbox that no session takes: held under R407, the hub answers it. -/
def State.elseFail (s : State) (via : Transport) : State := if via = .mailbox then s.identityFail else s

/-- OPEN; on a management port, from an address whose family is on there. -/
def execOpenSession (via : Transport) (source role : Nat) (nc : Bytes) (s : State) : Out :=
  .next (if s.sessionsUp via && s.familyOn via source then s.openVia via source role nc else s.elseFail via)

/-- Key and string over which the tags of PROOF and ACCEPT are taken. -/
def State.handshake (s : State) (n : Nat) (word : String) : Bytes :=
  let x := s.sess n
  hmac256 (s.prot.roleKeys.get [] x.role) (ascii word ++ leBytes 1 x.role ++ x.nc ++ x.nd ++ s.devicePub)

/-- A failed proof of a role: 8 within 60 s lock it out (R415). -/
def State.proofFailed (s : State) (role : Nat) : State :=
  let s := s.bump .sessionRefused
  if s.mgmt.locked.contains role then s
  else
    let times := ((s.mgmt.failed.get [] role).filter fun t => decide (s.ck < t + 60 * ckSecond)) ++ [s.ck]
    { s with mgmt := { s.mgmt with
      failed := s.mgmt.failed.set [] role times
      locked := if 8 ≤ times.length then s.mgmt.locked ++ [role] else s.mgmt.locked } }

/-- A session opens: its keys, its event queue, and ACCEPT. -/
def State.acceptSession (s : State) (n : Nat) : State :=
  let x := s.sess n
  let q := 0x1300 + n
  let keys := hkdf (s.prot.roleKeys.get [] x.role) (x.nc ++ x.nd) (ascii "prehel-session" ++ leBytes 1 x.role ++ leBytes 1 n) 64
  let tag := s.handshake n "accept"
  let s := s.setSess n { x with phase := 2, keyIn := keys.take 32, keyOut := keys.drop 32, lastCk := s.ck }
  ((s.setReg .qCfg 0x88000000 q).qEnable q).replyVia x.via (beBytes 18 x.source) (frameHeader 0x04 n 0 0 ++ tag)

/-- PROOF. -/
def State.proofVia (s : State) (via : Transport) (n : Nat) (tag : Bytes) : State :=
  let x := s.sess n
  if x.phase ≠ 1 || x.via ≠ via then s.bump .sessionAuthFails
  else if tag = s.handshake n "open" then s.acceptSession n
  else (s.setSess n .closed).proofFailed x.role

def execProof (via : Transport) (sess : Nat) (tag : Bytes) (s : State) : Out :=
  .next (if s.sessionsUp via then s.proofVia via sess tag else s.elseFail via)

/-- SESSION_IDLE: SESSION_IDLE_S without an accepted message. -/
def execSessionIdle (sess : Nat) (s : State) : Out :=
  let x := s.sess sess
  .next (if x.phase ≠ 0 && decide (x.lastCk + s.reg .sessionIdleS * ckSecond ≤ s.ck) then s.closeSession sess else s)

/-- LOCKOUT_END: 60 s after the failure that locked the role out. -/
def execLockoutEnd (role : Nat) (s : State) : Out :=
  let last := (s.mgmt.failed.get [] role).foldl max 0
  if !s.mgmt.locked.contains role || decide (s.ck < last + 60 * ckSecond) then .next s
  else .next { s with mgmt := { s.mgmt with
    failed := s.mgmt.failed.set [] role []
    locked := s.mgmt.locked.filter fun r => r ≠ role } }

-- Discarded frames (R415, R430, R432, R434) --------------------

/-- A message of session `n` is discarded; the eighth in a row closes it. -/
def State.authFailed (s : State) (n : Nat) : State :=
  let s := s.bump .sessionAuthFails
  if !s.isOpen n then s
  else
    let s := s.modSess n fun x => { x with bad := x.bad + 1 }
    if 8 ≤ (s.sess n).bad then s.closeSession n else s

-- The mailbox (R380, R432 to R435) --------------------

/-- An operation's head and what follows it. -/
def parseOp (bs : Bytes) : ReqOp × Nat :=
  let ix := leAt bs 1 2
  let sub := leAt bs 3 1
  let len := leAt bs 4 2
  let v := slice bs 6 len
  match leAt bs 0 1 with
  | 1 => (if len = 0 then .read ix sub else .bad, 6)
  | 2 => (if bs.length < 6 + len then .bad else .write ix sub v, 6 + len)
  | 3 =>
    let e := slice bs (6 + len) 81
    (if bs.length < 87 + len then .bad
      else .endorsed ix sub v ⟨leAt e 0 1, BitVec.ofNat 128 (leAt e 1 16), slice e 17 64⟩, 87 + len)
  | 4 => (if ix = 0 && sub = 0 then .events len else .bad, 6)
  | 5 => (if ix = 0 && sub = 0 && len = 0 then .recall else .bad, 6)
  | 6 => (if ix = 0 && sub = 0 && len = 0 then .close else .bad, 6)
  | _ => (.bad, 6)

/-- The operations of a payload: at most `n`; what is cut short, or beyond them, is one malformed operation. -/
def parseOps : Nat → Bytes → List ReqOp
  | 0, bs => if bs = [] then [] else [.bad]
  | n + 1, bs =>
    if bs = [] then []
    else if bs.length < 6 then [.bad]
    else (parseOp bs).1 :: parseOps n (bs.drop (parseOp bs).2)

/-- RECALL and CLOSE must be alone. -/
def aloneOps (os : List ReqOp) : List ReqOp :=
  if os.length ≤ 1 then os
  else os.map fun o => match o with
    | .recall => .bad
    | .close => .bad
    | o => o

/-- The operations of a request's payload. -/
def requestOps (payload : Bytes) : List ReqOp := aloneOps (parseOps 32 payload)

/-- Bytes after the payload of a client's frame, by type; none for other types. -/
def frameTag (type : Nat) : Option Nat :=
  match type with
  | 0x01 => some 0
  | 0x03 => some 32
  | 0x05 => some 32
  | 0x0A => some 0
  | _ => none

/-- A frame is well formed (R432). -/
def frameOk (f : Bytes) : Bool :=
  decide (16 ≤ f.length) && decide (leAt f 0 2 = 0x5048) && decide (leAt f 2 1 = 1) && (match frameTag (leAt f 3 1) with
    | some t => decide (f.length = 16 + leAt f 6 2 + t)
    | none => false)

/-- A REQUEST frame of a mailbox session: tag, sequence number and transport are checked (R415). -/
def State.mailboxRequest (s : State) (f : Bytes) : State :=
  let n := leAt f 4 1
  let len := leAt f 6 2
  let x := s.sess n
  if x.phase = 2 && x.via = .mailbox && decide (slice f (16 + len) 32 = hmac256 x.keyIn (f.take (16 + len)))
      && decide (leAt f 8 8 = x.seqIn + 1) then s.serveRequest n (requestOps (slice f 16 len))
  else s.authFailed n

/-- A well-formed frame in the mailbox. -/
def State.mailboxFrame (s : State) (f : Bytes) : State :=
  let payload := slice f 16 (leAt f 6 2)
  match leAt f 3 1 with
  | 0x0A => s.serveSessionless (requestOps payload)
  | 0x01 => if s.sessionsUp .mailbox then s.openVia .mailbox 0 (leAt f 5 1) payload else s
  | 0x03 => if s.sessionsUp .mailbox then s.proofVia .mailbox (leAt f 4 1) (slice f (16 + leAt f 6 2) 32) else s
  | 0x05 => if s.sessionsUp .mailbox then s.mailboxRequest f else s
  | _ => s

/-- An accepted frame: MB_STATUS becomes 1 while the hub processes it. -/
def State.mailboxRun (s : State) (f : Bytes) : State :=
  let s := { s with hif := { s.hif with mbStatus := 1 } }
  if s.boot.idFail then s.identityFail
  else if !s.mailboxUp || !frameOk f then s
  else s.mailboxFrame f

/-- A frame that gets no response leaves the mailbox idle. DESIGN CHOICE, log entry 92. -/
def State.mailboxEnd (s : State) : State :=
  if s.hif.mbStatus = 1 then { s with hif := { s.hif with mbStatus := 0 } } else s

/-- MB_REQ_LEN: `frame` is what the host wrote into MB_REQUEST before. -/
def State.mailboxWrite (s : State) (len : Nat) (frame : Bytes) : State :=
  if !s.hif.access || s.boot.inReset || s.boot.halted then s
  else if s.hif.mbStatus = 1 then s.bump .mbIgnored
  else
    let area := (frame ++ s.hif.mbRequest.drop frame.length).take 8192
    let s := { s with hif := { s.hif with mbRequest := area } }
    if len = 0 || 8192 < len then s.bump .mbIgnored
    else
      let f := (area ++ zeros (len - area.length)).take len
      (s.mailboxRun f).mailboxEnd

def execMbReqLen (len : Nat) (frame : Bytes) (s : State) : Out := .next (s.mailboxWrite len frame)

end Sys2Proof.Machine
end

