-- ==== Sys2Proof/Machine/Boot.lean ====
section
/-! DEFINITION. The start sequence (R526 to R531): one command ends a stage and begins the next. The identity, the choice of a
configuration copy and of an image, numerics firmware, dies and stacks, the records of the copy, and what the last stages start. -/

namespace Sys2Proof.Machine

-- Stage 0: identity (R405 to R407) --------------------

def State.bootIdentity (s : State) (i : BootInput) : State :=
  let up := linkTrains (i.pcie.toNat / 256) (i.pcie.toNat % 256)
  let s := { s.setReg .pcieLink (if up then i.pcie.toNat else 0) with hif := { s.hif with access := up } }
  let valid (read : Bool) (d : Nat) : Bool := read && seedCertified (s.seedBy d)
  let start (d : Nat) : State := (({ s with boot := { s.boot with seed := s.seedBy d } }).setReg .pufSource d).setReg .bootStage 1
  if valid i.pufA 0 then start 0
  else if valid i.pufB 1 then start 1
  else { s with boot := { s.boot with idFail := true } }

-- Stage 1: the configuration copy (R456) --------------------

def State.bootCopy (s : State) : State :=
  let seq (d : Nat) : Nat := match s.copyOf d with
    | some c => c.seq
    | none => 0
  let s := ((s.setReg .copyASeq (seq 0)).setReg .copyBSeq (seq 1)).setReg .bootStage 2
  match s.bestCopy with
  | some (d, c) => { ((s.setReg .configSeq c.seq).setReg .configSource d).setReg .configBytes c.length with boot := { s.boot with chosen := some d } }
  | none => s

/-- The copy that boot chose. -/
def State.chosenCopy (s : State) : Option Copy := s.boot.chosen.bind s.copyOf

-- Numerics firmware (R52, R53, R127) --------------------

/-- Numerics firmware of the running image is loaded; where it is rejected, that of the image booted from before is kept. -/
def State.bootNumerics (s : State) (ok : Bool) : State :=
  let body := s.runningBody
  let v := (Config.numfwVersion body).toNat
  let fw := if ok then some (v, sha512 (Config.numfwOf body), (Config.geluXmin body).toNat) else s.boot.numfw
  let s := { s.setReg .numfwPending v with boot := { s.boot with numfw := fw, numfwOk := fw.isSome } }
  let s := match fw with
    | some (version, digest, xmin) => ((s.setReg .numfwVersion version).setOct .numfwDigest digest).setReg .geluXmin xmin
    | none => s
  if ok then s else (s.bump .numfwRejects).fault 0x0601 0 0 0

-- Stage 2: the image (R409, R527, R528) --------------------

/-- A record's number in the chosen copy, 0 without one. -/
def State.chosenNumber (s : State) (part : Copy → List CopyRec) (r : Reg) : Nat :=
  match s.chosenCopy.bind fun c => recValue (part c) r with
  | some v => leNat v
  | none => 0

/-- The entries that show both slots once image `d` runs. -/
def State.showSlots (s : State) (d minVersion : Nat) : State :=
  let ok (k : Nat) : Bool := imageValid (s.slotImage k) minVersion
  ((s.runImage d (s.slotImage d)).slotResult 0 (ok 0)).slotResult 1 (ok 1)

/-- The image is chosen, and the hub firmware's first act is the load of its numerics firmware, before the mailbox answers (R6, R526):
`numerics` says that it meets R110 and R111. -/
def State.bootImage (s : State) (numerics : Bool) : State :=
  let first := s.chosenNumber Copy.plain .bootPrefer % 2
  let minVersion := s.chosenNumber Copy.sealed .minFwVersion
  let ok (k : Nat) : Bool := imageValid (s.slotImage k) minVersion
  if ok first then ((s.showSlots first minVersion).bootNumerics numerics).setReg .bootStage 3
  else
    let s := s.bump .imageRejects
    if ok (1 - first) then ((s.showSlots (1 - first) minVersion).bootNumerics numerics).setReg .bootStage 3
    else
      let s := s.bump .imageRejects
      { s with boot := { s.boot with halted := true }, hif := { s.hif with mbStatus := 3 } }

-- Stage 3: dies (R486, R489) --------------------

/-- The mesh route tables are loaded (R14). Dies whose local PLL did not lock leave service; the router of a compute die with them (R20,
R489). -/
def State.bootDies (s : State) (locked : Nat) : State :=
  let here := (List.range 25).filter fun d => s.fitted (dieUnit d)
  let s := s.setReg .diePllLock ((here.filter fun d => decide (d = 18) || bit locked d).map (2 ^ ·)).sum
  (here.filter fun d => decide (d ≠ 18) && !bit locked d).foldl (fun (s : State) d =>
    s.dieLost d) s

-- Stage 4: stacks --------------------

def State.bootStacks (s : State) (trained : Nat) : State :=
  ((bitsOf 12 s.build.stackMask).filter fun n => !bit trained n).foldl (fun (s : State) n => s.leave (.stack n)) s

-- Stage 5: configuration records (R456) --------------------

/-- The bit of a field named ENABLE, and of an entry named PORT_ENABLE. -/
def Reg.enableBit (r : Reg) : Option Nat :=
  if r = .sliceMap then some 63
  else if [Reg.cellCfg, .qCfg, .trigCfg, .rhcCfg].contains r then some 31
  else if r = .rclkCfg then some 15
  else if [Reg.capCfg, .ppsInCfg, .ppsOutCfg].contains r then some 7
  else if [Reg.fhPortEnable, .fabPortEnable].contains r then some 0
  else none

/-- A record's selector names an instance of its entry. -/
def Reg.selectorOk (r : Reg) (selector : Nat) : Bool :=
  match r.inst with
  | .sel .cell => decide (selector < 256)
  | .sel .classE => decide (selector < 4096)
  | .sel .ctx => decide (selector < 4096)
  | .sel .ctxQ => decide (selector < 4096)
  | .sel .queue => qExists selector
  | .sel _ => decide (selector < 65536)
  | _ => decide (selector = noSelector)

/-- Sizes in force from reset on follow their entries (R211, R370, R484). -/
def State.syncTier (s : State) : State :=
  { s with tier := { s.tier with
    localGib := s.reg .localZoneGib
    loamFrames := s.reg .loamPoolFrames
    buddyFrames := s.reg .buddyPoolFrames
    shadowFrames := s.reg .shadowFrames } }

/-- Unwrapped secrets and CLAIM_STATE, as the sealed part holds them (R452). -/
def State.secretRecord (s : State) (x : CopyRec) : Option State :=
  if x.index = 0x6003 && x.sub = 4 && x.selector < 5 && x.value.length = 32 then some (s.setSecret .roleKey x.selector x.value)
  else if 0x6040 ≤ x.index && x.index < 0x6080 && x.sub = 1 && x.value.length = 32 then some (s.setSecret .tenantKey (x.index - 0x6040) x.value)
  else if x.index = 0x5000 && x.sub = 4 && x.value.length = 32 then some (s.setSecret .domainKey 0 x.value)
  else if x.index = 0x6000 && x.sub = 4 then some { s with prot := { s.prot with claimed := decide (x.value = [1]) } }
  else none

/-- A value with its ENABLE field held at 0. -/
def Reg.disabled (r : Reg) (v : Bytes) : Bytes :=
  match r.enableBit with
  | some b => leBytes v.length (setBit (leNat v) b false)
  | none => v

/-- One record under its entry's own rules; none when it is skipped. Records of RWD entries count only from the sealed part. -/
def State.entryRecord (s : State) (isSealed enable : Bool) (x : CopyRec) : Option State :=
  match (if isSealed then s.secretRecord x else none) with
  | some t => some t
  | none => match Reg.find x.index x.sub with
    | none => none
    | some (r, fam) =>
      if !r.held || (decide (r.access = .rwd) && !isSealed) || !r.lengthOk x.value || !r.selectorOk x.selector then none
      else match s.entryRule sessionless 4 r (r.instAt fam x.selector) (if enable then x.value else r.disabled x.value) with
        | .ok t => some t.syncTier
        | .error _ => none

/-- The record holds its ENABLE field as 1. -/
def CopyRec.enables (x : CopyRec) : Bool :=
  match Reg.find x.index x.sub with
  | some (r, _) => match r.enableBit with
    | some b => bit (leNat x.value) b
    | none => false
  | none => false

/-- Pairs of a table record: key of `k` bytes and value of `m`. -/
def tablePairs (k m : Nat) (v : Bytes) : List (Nat × Nat) :=
  (pieces (k + m) (v.length + 1) v).map fun b => (leAt b 0 k, leAt b k m)

/-- The tilth table is taken as committed (R529). -/
def State.tilthRecord (s : State) (v : Bytes) : Option State :=
  let s := { s with tilth := { s.tilth with shadow := Tab.setRun 0 [] 0 v } }
  let commit := leBytes 4 (s.reg .tilthEpoch + 1) ++ s.shadowDigest
  match s.tilthCommit commit with
  | .ok t => some (t.setOct .tilthCommit commit)
  | .error _ => none

/-- The PASID map is committed. -/
def State.pasidRecord (s : State) (v : Bytes) : Option State :=
  let entries := s.reg .pasidMapEntries
  let s := { s with hif := { s.hif with pasidShadow := Tab.setRun 0 [] 0 v } }
  let epoch := s.reg .pasidMapEpoch + 1
  if v.length % 4 ≠ 0 || 16384 < v.length then none
  else match (s.setReg .pasidMapEntries (v.length / 4)).pasidCommit epoch with
    | .ok t => some ((t.setReg .pasidMapEntries entries).setReg .pasidMapCommit epoch)
    | .error _ => none

/-- The WFQ table of fronthaul die `die`. -/
def State.wfqRecord (s : State) (die : Nat) (v : Bytes) : Option State :=
  let ps := tablePairs 2 2 v
  if v.length % 4 ≠ 0 || ps.any fun p => decide (p.1 / 1024 ≠ die) || decide (p.2 = 0) then none
  else some ({ s with fh := { s.fh with weights := ps.foldl (fun t (p : Nat × Nat) => t.set 1024 p.1 p.2) s.fh.weights } }.bump .fhWfqEpoch die)

/-- The policer profiles of fronthaul die `die`. -/
def State.polRecord (s : State) (die : Nat) (v : Bytes) : Option State :=
  let ps := tablePairs 2 4 v
  if v.length % 6 ≠ 0 || ps.any fun p => decide (512 ≤ p.1) || (decide (p.1 % 8 = 0) && decide (4 < p.2)) then none
  else some ({ s with fh := { s.fh with profiles := ps.foldl (fun t (p : Nat × Nat) => t.set 0 (die * 1024 + p.1) p.2) s.fh.profiles } }.bump .polEpoch die)

/-- The WFQ table of the fabric ports. -/
def State.fabWfqRecord (s : State) (v : Bytes) : Option State :=
  let ps := tablePairs 2 2 v
  if v.length % 4 ≠ 0 || ps.any fun p => decide (64 ≤ p.1) || decide (p.1 % 4 = 0) || decide (p.2 = 0) then none
  else
    let dflt (k : Nat) : Nat := ([Reg.weightReq, .weightRsp, .weightBulk].getD (k % 4 - 1) .weightReq).dflt
    some ({ s with fab := { s.fab with weights := ps.foldl (fun t (p : Nat × Nat) => t.set (dflt p.1) p.1 p.2) s.fab.weights } }.bump .fabWfqEpoch)

/-- The LDPC base-graph set, which becomes current at the next code block. -/
def State.ldpcRecord (s : State) (v : Bytes) : Option State :=
  if ldpcSetOk v then some { s with radio := { s.radio with ldpcShadow := v, ldpcWait := true } } else none

/-- A table record, under the entry of its COMMIT. -/
def State.tableRecord (s : State) (isSealed : Bool) (x : CopyRec) : Option State :=
  match Reg.find x.index x.sub with
  | none => none
  | some (r, fam) =>
    if r = .tilthCommit && isSealed then s.tilthRecord x.value
    else if r = .pasidMapCommit && isSealed then s.pasidRecord x.value
    else if r = .ldpcSetCommit then s.ldpcRecord x.value
    else if r = .fhWfqCommit then s.wfqRecord fam x.value
    else if r = .polCommit then s.polRecord fam x.value
    else if r = .fabWfqCommit then s.fabWfqRecord x.value
    else none

/-- The records of a copy in ascending order, each with whether the sealed part holds it. -/
def Copy.records (c : Copy) : List (Bool × CopyRec) :=
  let put (isSealed : Bool) (t : Tab (Bool × CopyRec)) (x : CopyRec) : Tab (Bool × CopyRec) := t.insert (recKey x.index x.sub x.selector) (isSealed, x)
  (c.sealed.foldl (put true) (c.plain.foldl (put false) [])).map (·.2)

/-- One pass over records: those that were taken, and the state; a skipped one counts as a reject. -/
def bootPass (run : State → Bool → CopyRec → Option State) : List (Bool × CopyRec) → State → List (Bool × CopyRec) × State
  | [], s => ([], s)
  | x :: xs, s =>
    match run s x.1 x.2 with
    | some t => let (l, u) := bootPass run xs t; (x :: l, u)
    | none => bootPass run xs (s.bump .configRecordRejects)

/-- The three passes of R456. -/
def State.applyCopy (s : State) (c : Copy) : State :=
  let (tables, entries) := c.records.partition fun x => decide (x.2.selector = tableSelector)
  let (taken, s) := bootPass (fun s isSealed x => s.entryRecord isSealed false x) entries s
  let (_, s) := bootPass (fun s isSealed x => s.tableRecord isSealed x) tables s
  (bootPass (fun s isSealed x => s.entryRecord isSealed true x) (taken.filter fun x => x.2.enables) s).2

/-- Cells whose restored ENABLE is 1 wait for their time base (R529). -/
def State.bootRecords (s : State) : State :=
  let s := match s.chosenCopy with
    | some c => s.applyCopy c
    | none => s
  let s := s.syncTier
  { s with boot := { s.boot with cellsWait := (List.range 256).filter fun c => bit (s.cellCfg c) 31 } }

-- Stage 6: ports, programs and queues (R529, R531) --------------------

/-- The default program of each core, with its digest. -/
def State.bootPrograms (s : State) : State :=
  let body := s.runningBody
  (List.range 96).foldl (fun (s : State) n =>
    let p := Config.defaultProgram body n
    (s.setOct .progDigest (sha512 p) n).modCore n fun c => { c with code := c.code.setRun 0 (c.active * 65536) p }) s

/-- Ingress queues that valid classification entries of a die name with ACTION 1 or 2. -/
def State.namedQueues (s : State) (die : Nat) : List Nat :=
  let lo := Reg.key .classEntry (die * 4096)
  ((s.prot.octs.filter fun (p : Nat × Bytes) => decide (lo ≤ p.1) && decide (p.1 < lo + 4096)).map fun (p : Nat × Bytes) => leNat p.2).filterMap
    fun e => if bit e 127 && (decide (field e 69 68 = 1) || decide (field e 69 68 = 2)) then some (die * 1024 + field e 53 44) else none

/-- The hub enables a queue with RECOVERY set, as far as the queue's own rules let it. -/
def State.recoverQueue (s : State) (q : Nat) : State :=
  match s.qCfgWrite q (setBit (setBit (s.reg .qCfg q) 29 true) 31 true) 4 with
  | .ok t => t
  | .error _ => s

def State.bootPorts (s : State) : State :=
  let s := ((s.setReg .mgmtPortState 1 0).setReg .mgmtPortState 1 1).bootPrograms
  (s.namedQueues 0 ++ s.namedQueues 1).foldl (fun (s : State) q => s.recoverQueue q) s

-- Stage 7: ready (R506, R515, R519) --------------------

/-- The always-on latches are reported and cleared. -/
def State.reportLatches (s : State) : State :=
  let s := match s.boot.seqFault with
    | some rail => s.fault 0x0701 0 0 0 0xFFFF rail
    | none => s
  let s := if s.boot.tripFault then s.fault 0x0712 3 0 0 else s
  { s with boot := { s.boot with seqFault := none, tripFault := false, removed := false } }

/-- The end of a stage. -/
def State.bootStageEnds (s : State) (i : BootInput) : State :=
  match s.reg .bootStage with
  | 0 => s.bootIdentity i
  | 1 => s.bootCopy
  | 2 => s.bootImage i.numfwOk
  | 3 => (s.startRoutes.bootDies i.diesLocked.toNat).setReg .bootStage 4
  | 4 => (s.bootStacks i.stacksTrained.toNat).setReg .bootStage 5
  | 5 => s.bootRecords.setReg .bootStage 6
  | 6 =>
    let s := s.bootPorts.setReg .bootStage 7
    ({ s with boot := { s.boot with readyCk := s.ck } }).reportLatches
  | _ => s

/-- BOOT_STAGE. -/
def execBootStage (i : BootInput) (s : State) : Out :=
  .next (if s.boot.inReset || s.boot.idFail || s.boot.halted then s else s.bootStageEnds i)

end Sys2Proof.Machine
end

