-- ==== Sys2Proof/Machine/DmaCmd.lean ====
section
/-! DEFINITION. DMA commands and the loam commands (R141, R144 to R148, R194, R195, R554). -/

namespace Sys2Proof.Machine

/-- R144. -/
def execCopy (ctx : Nat) (s : State) : Out := .next (s.runDma ctx .copy)

/-- R141. -/
def execCopy2d (ctx : Nat) (s : State) : Out := .next (s.runDma ctx .copy2d)

/-- R147. -/
def execFill (ctx : Nat) (s : State) : Out := .next (s.runDma ctx .fill)

/-- R554. -/
def execTranspose (ctx : Nat) (s : State) : Out := .next (s.runDma ctx .transpose)

/-- R554. -/
def execToPanels (ctx : Nat) (s : State) : Out := .next (s.runDma ctx .toPanels)

/-- R147. -/
def execGather (ctx : Nat) (s : State) : Out := .next (s.runDma ctx .gather)

/-- R146. -/
def execFillRandom (ctx : Nat) (s : State) : Out := .next (s.runDma ctx .fillRandom)

/-- R144. -/
def execHostRead (ctx : Nat) (s : State) : Out := .next (s.runDma ctx .hostRead)

/-- R153. -/
def execHostWrite (ctx : Nat) (s : State) : Out := .next (s.runDma ctx .hostWrite)

/-- LOAM_ACQUIRE is done in a cycle in which every page is present (R195). -/
def execLoamAcquire (ctx : Nat) (s : State) : Out := .next (s.runAcquire ctx)

/-- LOAM_RELEASE reads and writes no bytes; its references go at its commit (R195). -/
def execLoamRelease (ctx : Nat) (s : State) : Out := .next (s.runDma ctx .loamRelease)

end Sys2Proof.Machine
end

