-- ==== Sys2Proof/Machine/EngineCmd.lean ====
section
/-! DEFINITION. Engine commands: what a started matrix or vector command of a context or of a radio queue computes (R61 to R127,
R144, R552, R553). Each result is written in place under the command's hold, and its counts are kept for its record. -/

namespace Sys2Proof.Machine

/-- R73. -/
def execMatmul (who : Owner) (s : State) : Out := .next (s.runOwned who .matmul)

/-- R85. -/
def execCmatmul (who : Owner) (s : State) : Out := .next (s.runOwned who .cmatmul)

/-- R145. -/
def execFullSum (who : Owner) (s : State) : Out := .next (s.runOwned who .fullSum)

/-- R114. -/
def execMap (who : Owner) (s : State) : Out := .next (s.runOwned who .map)

/-- R114. -/
def execBinary (who : Owner) (s : State) : Out := .next (s.runOwned who .binary)

/-- R114. -/
def execConvert (who : Owner) (s : State) : Out := .next (s.runOwned who .convert)

/-- R552. -/
def execLineMax (who : Owner) (s : State) : Out := .next (s.runOwned who .lineMax)

/-- R118. -/
def execSoftmaxStep (who : Owner) (s : State) : Out := .next (s.runOwned who .softmaxStep)

/-- R120. -/
def execSoftmaxExact (who : Owner) (s : State) : Out := .next (s.runOwned who .softmaxExact)

/-- R114. -/
def execNormalise (who : Owner) (s : State) : Out := .next (s.runOwned who .normalise)

/-- R121. -/
def execNormStats (who : Owner) (s : State) : Out := .next (s.runOwned who .normStats)

/-- R125. -/
def execNormApply (who : Owner) (s : State) : Out := .next (s.runOwned who .normApply)

end Sys2Proof.Machine
end

