-- ==== Sys2Proof/Machine/HubCmd.lean ====
section
/-! DEFINITION. Fabric commands as the command processor runs them (R142, R355 to R357), and hub commands (R143, R166 to R168,
R317, R359). -/

namespace Sys2Proof.Machine

/-- R355. -/
def execFload (ctx : Nat) (s : State) : Out := .next (s.runFabric ctx .fload)

/-- R356. -/
def execFstore (ctx : Nat) (s : State) : Out := .next (s.runFabric ctx .fstore)

/-- R356. -/
def execFstoreShared (ctx : Nat) (s : State) : Out := .next (s.runFabric ctx .fstoreShared)

/-- R357. -/
def execFaddI64 (ctx : Nat) (s : State) : Out := .next (s.runFabric ctx .faddI64)

/-- R357. -/
def execFfetchAddI64 (ctx : Nat) (s : State) : Out := .next (s.runFabric ctx .ffetchAddI64)

/-- R357. -/
def execFswapI64 (ctx : Nat) (s : State) : Out := .next (s.runFabric ctx .fswapI64)

/-- R357. -/
def execFcasI64 (ctx : Nat) (s : State) : Out := .next (s.runFabric ctx .fcasI64)

/-- R357. -/
def execFaddF32Fast (ctx : Nat) (s : State) : Out := .next (s.runFabric ctx .faddF32Fast)

/-- R51. -/
def execFaddKrec (ctx : Nat) (s : State) : Out := .next (s.runFabric ctx .faddKrec)

/-- R144. -/
def execNop (ctx : Nat) (s : State) : Out := .next (s.runHub ctx .nop)

/-- R167. -/
def execWait (ctx : Nat) (s : State) : Out := .next (s.runHub ctx .wait)

/-- R167. -/
def execWaitMem (ctx : Nat) (s : State) : Out := .next (s.runHub ctx .waitMem)

/-- R359. -/
def execFenceFabric (ctx : Nat) (s : State) : Out := .next (s.runHub ctx .fenceFabric)

/-- R166. -/
def execSetSeed (ctx : Nat) (s : State) : Out := .next (s.runHub ctx .setSeed)

/-- R317. -/
def execReadTime (ctx : Nat) (s : State) : Out := .next (s.runHub ctx .readTime)

end Sys2Proof.Machine
end

