-- ==== Sys2Proof/Machine/Network.lean ====
section
/-! DEFINITION. The management ports on the network (R430 to R432): what a port answers itself, the frames it takes out of UDP datagrams,
and what it discards. The layouts of Ethernet, ARP, IPv4, IPv6, ICMP and UDP are those of their RFCs: PRESUMED, log entry 87. -/

namespace Sys2Proof.Machine

-- Parts of a frame --------------------

/-- A number of `n` octets at offset `o`, highest first. -/
def beAt (bs : Bytes) (o n : Nat) : Nat := leNat (slice bs o n).reverse

/-- Sum of 16-bit words, highest octet first. -/
def wordSum : Bytes → Nat
  | a :: b :: l => a.toNat * 256 + b.toNat + wordSum l
  | [a] => a.toNat * 256
  | [] => 0

/-- The Internet checksum. -/
def netSum (bs : Bytes) : Nat :=
  let x := wordSum bs
  65535 - (if x = 0 then 0 else (x - 1) % 65535 + 1)

/-- Octets with a 16-bit field at offset `o` set. -/
def put16 (bs : Bytes) (o v : Nat) : Bytes := bs.take o ++ beBytes 2 v ++ bs.drop (o + 2)

/-- A port's own addresses. -/
def State.ownMac (s : State) (m : Nat) : Bytes := s.readOctets sessionless .mgmtMacAddr m
def State.ownV4 (s : State) (m : Nat) : Bytes := if s.oct .ipv4Addr m = zeros 8 then [] else (s.oct .ipv4Addr m).take 4
def State.ownV6 (s : State) (m : Nat) : Bytes := if s.oct .ipv6Addr m = zeros 17 then [] else (s.oct .ipv6Addr m).take 16

/-- Sends an Ethernet frame back to the station that a frame came from. -/
def State.sendBack (s : State) (m : Nat) (got : Bytes) (type : Nat) (body : Bytes) : State :=
  s.sendOn (m + 1) [] (slice got 6 6 ++ s.ownMac m ++ beBytes 2 type ++ body)

-- What a port answers itself (R430) --------------------

/-- ARP reply. -/
def State.arpReply (s : State) (m : Nat) (f : Bytes) : State :=
  s.sendBack m f 0x0806 (slice f 14 6 ++ beBytes 2 2 ++ s.ownMac m ++ s.ownV4 m ++ slice f 22 10)

/-- ICMP echo reply to the message `x`. -/
def State.echoV4 (s : State) (m : Nat) (f x : Bytes) : State :=
  let y := put16 (beBytes 2 0 ++ x.drop 2) 2 0
  let y := put16 y 2 (netSum y)
  let h := [0x45, 0] ++ beBytes 2 (20 + y.length) ++ zeros 4 ++ [64, 1, 0, 0] ++ s.ownV4 m ++ slice f 26 4
  s.sendBack m f 0x0800 (put16 h 10 (netSum h) ++ y)

/-- An ICMPv6 message to the sender of a frame. -/
def State.sendV6 (s : State) (m : Nat) (f y : Bytes) : State :=
  let src := s.ownV6 m
  let dst := slice f 22 16
  let y := put16 y 2 (netSum (src ++ dst ++ beBytes 4 y.length ++ beBytes 4 58 ++ put16 y 2 0))
  s.sendBack m f 0x86DD (beBytes 4 0x60000000 ++ beBytes 2 y.length ++ [58, 255] ++ src ++ dst ++ y)

/-- Neighbour advertisement: solicited, with the port's link-layer address. -/
def State.neighbour (s : State) (m : Nat) (f : Bytes) : State :=
  s.sendV6 m f ([136, 0, 0, 0] ++ beBytes 4 0x60000000 ++ s.ownV6 m ++ [2, 1] ++ s.ownMac m)

-- Frames out of datagrams (R414, R415, R430 to R432) --------------------

/-- A REQUEST of a network session: transport, source, tag and sequence number are checked. -/
def State.netRequest (s : State) (via : Transport) (source : Nat) (f : Bytes) : State :=
  let n := leAt f 4 1
  let len := leAt f 6 2
  let x := s.sess n
  if x.phase = 2 && decide (x.via = via) && decide (x.source = source) && decide (slice f (16 + len) 32 = hmac256 x.keyIn (f.take (16 + len)))
      && decide (leAt f 8 8 = x.seqIn + 1) then s.serveRequest n (requestOps (slice f 16 len))
  else s.authFailed n

/-- The payload of a datagram from `source`. -/
def State.netFrame (s : State) (via : Transport) (source : Nat) (f : Bytes) : State :=
  let n := leAt f 4 1
  let len := leAt f 6 2
  if 1472 < f.length || !frameOk f then s.dropFrame via
  else match leAt f 3 1 with
    | 0x01 => if s.sessionsUp via then s.openVia via source (leAt f 5 1) (slice f 16 len) else s.dropFrame via
    | 0x03 =>
      if !s.sessionsUp via then s.dropFrame via
      else if (s.sess n).source = source then s.proofVia via n (slice f (16 + len) 32)
      else s.authFailed n
    | 0x05 => if s.sessionsUp via then s.netRequest via source f else s.dropFrame via
    | _ => s.dropFrame via

/-- The port takes datagrams at an address and UDP port: its present ones, and those that the session a frame names was opened at (R450). -/
def State.takesAt (s : State) (via : Transport) (source n : Nat) (home : Bytes) : Bool :=
  decide (s.homeOf via source = home) || (s.isOpen n && decide ((s.sess n).via = via) && decide ((s.sess n).home = home))

/-- A UDP datagram `u` from an address to one of the port's. -/
def State.datagram (s : State) (via : Transport) (srcAddr dstAddr u : Bytes) : State :=
  let source := leNat (srcAddr ++ slice u 0 2).reverse
  let f := slice u 8 (beAt u 4 2 - 8)
  if u.length < 8 || beAt u 4 2 < 8 || u.length < beAt u 4 2 || !s.takesAt via source (leAt f 4 1) (dstAddr ++ slice u 2 2) then s.dropFrame via
  else s.netFrame via source f

/-- An Ethernet frame on a management port. -/
def State.netPacket (s : State) (via : Transport) (f : Bytes) : State :=
  let m := viaPort via - 1
  match beAt f 12 2 with
  | 0x0806 => if beAt f 20 2 = 1 ∧ s.ownV4 m ≠ [] ∧ slice f 38 4 = s.ownV4 m then s.arpReply m f else s.dropFrame via
  | 0x0800 =>
    let n := f.getD 14 0
    let h := 4 * (n.toNat % 16)
    let x := slice f (14 + h) (beAt f 16 2 - h)
    if n.toNat / 16 ≠ 4 ∨ beAt f 20 2 % 2 ^ 14 ≠ 0 then s.dropFrame via
    else match beAt f 23 1 with
      | 1 => if beAt x 0 2 = 0x0800 ∧ s.ownV4 m ≠ [] ∧ slice f 30 4 = s.ownV4 m then s.echoV4 m f x else s.dropFrame via
      | 17 => s.datagram via (zeros 10 ++ [0xFF, 0xFF] ++ slice f 26 4) (slice f 30 4) x
      | _ => s.dropFrame via
  | 0x86DD =>
    let x := slice f 54 (beAt f 18 2)
    let mine := decide (s.ownV6 m ≠ [])
    match beAt f 20 1 with
    | 58 =>
      if mine && decide (beAt x 0 2 = 0x8700) && decide (slice x 8 16 = s.ownV6 m) then s.neighbour m f
      else if mine && decide (beAt x 0 2 = 0x8000) && decide (slice f 38 16 = s.ownV6 m) then s.sendV6 m f ([129, 0] ++ x.drop 2)
      else s.dropFrame via
    | 17 => s.datagram via (slice f 22 16) (slice f 38 16) x
    | _ => s.dropFrame via
  | _ => s.dropFrame via

/-- MGMT_FRAME_DISCARDED: a frame that the reason names, or a packet as it arrived, which the port answers, takes or discards. -/
def execMgmtFrameDiscarded (via : Transport) (why : DiscardReason) (s : State) : Out :=
  let up := decide (6 ≤ s.reg .bootStage) && !s.boot.inReset
  match why with
    | .sessionAuth n => .next (if s.sessionsUp via then s.authFailed n else s)
    | .malformed => .next (if up then s.dropFrame via else s)
    | .sessionless => .next (if up then s.dropFrame via else s)
    | .datagram => .next (if up then s.dropFrame via else s)
    | .packet bs => .next (if up && decide (via ≠ .mailbox) then s.netPacket via bs else s)

end Sys2Proof.Machine
end

