-- ==== Sys2Proof/Machine/Dispatch.lean ====
section
/-! DEFINITION. One arm per command: a direct call of its meaning. -/

namespace Sys2Proof.Machine

def exec (i : Instr) (s : State) : Host.Outcome State Fault Refusal :=
  match i with
  | .doorbell slice queue tail writes => Sys2Proof.Machine.execDoorbell slice queue tail writes s
  | .ringCfg slice queue value cmdBase cplBase => Sys2Proof.Machine.execRingCfg slice queue value cmdBase cplBase s
  | .cplHead slice queue value => Sys2Proof.Machine.execCplHead slice queue value s
  | .contextPlaced ctx => Sys2Proof.Machine.execContextPlaced ctx s
  | .engineGrant ctx akToStart => Sys2Proof.Machine.execEngineGrant ctx akToStart s
  | .dmaSlotGrant ctx => Sys2Proof.Machine.execDmaSlotGrant ctx s
  | .commit who => Sys2Proof.Machine.execCommit who s
  | .passBoundary engine ak => Sys2Proof.Machine.execPassBoundary engine ak s
  | .lcPreemptKill engine ak => Sys2Proof.Machine.execLcPreemptKill engine ak s
  | .killRequest who cause ak => Sys2Proof.Machine.execKillRequest who cause ak s
  | .killDone who ak => Sys2Proof.Machine.execKillDone who ak s
  | .engineCheckFault engine => Sys2Proof.Machine.execEngineCheckFault engine s
  | .matmul who => Sys2Proof.Machine.execMatmul who s
  | .cmatmul who => Sys2Proof.Machine.execCmatmul who s
  | .fullSum who => Sys2Proof.Machine.execFullSum who s
  | .map who => Sys2Proof.Machine.execMap who s
  | .binary who => Sys2Proof.Machine.execBinary who s
  | .convert who => Sys2Proof.Machine.execConvert who s
  | .lineMax who => Sys2Proof.Machine.execLineMax who s
  | .softmaxStep who => Sys2Proof.Machine.execSoftmaxStep who s
  | .softmaxExact who => Sys2Proof.Machine.execSoftmaxExact who s
  | .normalise who => Sys2Proof.Machine.execNormalise who s
  | .normStats who => Sys2Proof.Machine.execNormStats who s
  | .normApply who => Sys2Proof.Machine.execNormApply who s
  | .copy ctx => Sys2Proof.Machine.execCopy ctx s
  | .copy2d ctx => Sys2Proof.Machine.execCopy2d ctx s
  | .fill ctx => Sys2Proof.Machine.execFill ctx s
  | .transpose ctx => Sys2Proof.Machine.execTranspose ctx s
  | .toPanels ctx => Sys2Proof.Machine.execToPanels ctx s
  | .gather ctx => Sys2Proof.Machine.execGather ctx s
  | .fillRandom ctx => Sys2Proof.Machine.execFillRandom ctx s
  | .hostRead ctx => Sys2Proof.Machine.execHostRead ctx s
  | .hostWrite ctx => Sys2Proof.Machine.execHostWrite ctx s
  | .loamAcquire ctx => Sys2Proof.Machine.execLoamAcquire ctx s
  | .loamRelease ctx => Sys2Proof.Machine.execLoamRelease ctx s
  | .fload ctx => Sys2Proof.Machine.execFload ctx s
  | .fstore ctx => Sys2Proof.Machine.execFstore ctx s
  | .fstoreShared ctx => Sys2Proof.Machine.execFstoreShared ctx s
  | .faddI64 ctx => Sys2Proof.Machine.execFaddI64 ctx s
  | .ffetchAddI64 ctx => Sys2Proof.Machine.execFfetchAddI64 ctx s
  | .fswapI64 ctx => Sys2Proof.Machine.execFswapI64 ctx s
  | .fcasI64 ctx => Sys2Proof.Machine.execFcasI64 ctx s
  | .faddF32Fast ctx => Sys2Proof.Machine.execFaddF32Fast ctx s
  | .faddKrec ctx => Sys2Proof.Machine.execFaddKrec ctx s
  | .nop ctx => Sys2Proof.Machine.execNop ctx s
  | .wait ctx => Sys2Proof.Machine.execWait ctx s
  | .waitMem ctx => Sys2Proof.Machine.execWaitMem ctx s
  | .fenceFabric ctx => Sys2Proof.Machine.execFenceFabric ctx s
  | .setSeed ctx => Sys2Proof.Machine.execSetSeed ctx s
  | .readTime ctx => Sys2Proof.Machine.execReadTime ctx s
  | .spillDone ctx => Sys2Proof.Machine.execSpillDone ctx s
  | .beReclaim ctx => Sys2Proof.Machine.execBeReclaim ctx s
  | .clearDone ctx => Sys2Proof.Machine.execClearDone ctx s
  | .fetchCompletion slice page peer result => Sys2Proof.Machine.execFetchCompletion slice page peer result s
  | .prefetchStart slice => Sys2Proof.Machine.execPrefetchStart slice s
  | .ageTick => Sys2Proof.Machine.execAgeTick s
  | .loamMapCommit sess slice value => Sys2Proof.Machine.execLoamMapCommit sess slice value s
  | .loamQuotaPages sess slice value => Sys2Proof.Machine.execLoamQuotaPages sess slice value s
  | .privQuotaFrames sess slice value => Sys2Proof.Machine.execPrivQuotaFrames sess slice value s
  | .spQuotaBytes sess slice value => Sys2Proof.Machine.execSpQuotaBytes sess slice value s
  | .lcFloorBytes sess value => Sys2Proof.Machine.execLcFloorBytes sess value s
  | .tilthLoadData sess data => Sys2Proof.Machine.execTilthLoadData sess data s
  | .tilthPrepared => Sys2Proof.Machine.execTilthPrepared s
  | .windowStart entry occurrence => Sys2Proof.Machine.execWindowStart entry occurrence s
  | .windowEnd entry occurrence => Sys2Proof.Machine.execWindowEnd entry occurrence s
  | .radioStart logical akToStart => Sys2Proof.Machine.execRadioStart logical akToStart s
  | .setClass sess value => Sys2Proof.Machine.execSetClass sess value s
  | .move sess value => Sys2Proof.Machine.execMove sess value s
  | .handlerEntry core => Sys2Proof.Machine.execHandlerEntry core s
  | .bundle core b => Sys2Proof.Machine.execBundle core b s
  | .loopm site n stages ii => Sys2Proof.Machine.execLoopm site n stages ii s
  | .loop site n len => Sys2Proof.Machine.execLoop site n len s
  | .acsSetup site mode polys softReg decReg => Sys2Proof.Machine.execAcsSetup site mode polys softReg decReg s
  | .acsStep site => Sys2Proof.Machine.execAcsStep site s
  | .acsLoadpm site v => Sys2Proof.Machine.execAcsLoadpm site v s
  | .acsStorepm site v => Sys2Proof.Machine.execAcsStorepm site v s
  | .acsBest site g => Sys2Proof.Machine.execAcsBest site g s
  | .acsTb site addr g => Sys2Proof.Machine.execAcsTb site addr g s
  | .engq site logical cell addr => Sys2Proof.Machine.execEngq site logical cell addr s
  | .code site addr => Sys2Proof.Machine.execCode site addr s
  | .xfer site op => Sys2Proof.Machine.execXfer site op s
  | .ueRd site idx addr => Sys2Proof.Machine.execUeRd site idx addr s
  | .ueWr site idx addr => Sys2Proof.Machine.execUeWr site idx addr s
  | .ueSync site => Sys2Proof.Machine.execUeSync site s
  | .ueAccessArrival core => Sys2Proof.Machine.execUeAccessArrival core s
  | .halt site => Sys2Proof.Machine.execHalt site s
  | .ldpcDecode die => Sys2Proof.Machine.execLdpcDecode die s
  | .ldpcEncode die => Sys2Proof.Machine.execLdpcEncode die s
  | .polarDecode die => Sys2Proof.Machine.execPolarDecode die s
  | .polarEncode die => Sys2Proof.Machine.execPolarEncode die s
  | .fft die => Sys2Proof.Machine.execFft die s
  | .inverseFft die => Sys2Proof.Machine.execInverseFft die s
  | .coderJobEnd die slot => Sys2Proof.Machine.execCoderJobEnd die slot s
  | .progLoadData sess core data => Sys2Proof.Machine.execProgLoadData sess core data s
  | .progCommit sess core digest => Sys2Proof.Machine.execProgCommit sess core digest s
  | .progSwap core => Sys2Proof.Machine.execProgSwap core s
  | .moveTailEnd cell => Sys2Proof.Machine.execMoveTailEnd cell s
  | .frameReceived port f => Sys2Proof.Machine.execFrameReceived port f s
  | .frameTransmitted port => Sys2Proof.Machine.execFrameTransmitted port s
  | .queueRead q n by_ => Sys2Proof.Machine.execQueueRead q n by_ s
  | .queueRelease q index by_ => Sys2Proof.Machine.execQueueRelease q index by_ s
  | .mark q by_ => Sys2Proof.Machine.execMark q by_ s
  | .rewind q by_ => Sys2Proof.Machine.execRewind q by_ s
  | .flush q by_ => Sys2Proof.Machine.execFlush q by_ s
  | .staleCheck q => Sys2Proof.Machine.execStaleCheck q s
  | .queueSample q => Sys2Proof.Machine.execQueueSample q s
  | .qCfg sess value => Sys2Proof.Machine.execQCfg sess value s
  | .queueSelect sess value => Sys2Proof.Machine.execQueueSelect sess value s
  | .wfqCommit sess die value => Sys2Proof.Machine.execWfqCommit sess die value s
  | .polCommit sess die value => Sys2Proof.Machine.execPolCommit sess die value s
  | .portMode sess die value => Sys2Proof.Machine.execPortMode sess die value s
  | .ckTick => Sys2Proof.Machine.execCkTick s
  | .applyTick => Sys2Proof.Machine.execApplyTick s
  | .stepNs sess tb value => Sys2Proof.Machine.execStepNs sess tb value s
  | .frameOffsetNs sess tb value => Sys2Proof.Machine.execFrameOffsetNs sess tb value s
  | .servoSrc sess tb value => Sys2Proof.Machine.execServoSrc sess tb value s
  | .delayReq tb => Sys2Proof.Machine.execDelayReq tb s
  | .holdoverEntry tb => Sys2Proof.Machine.execHoldoverEntry tb s
  | .radioFrameBoundary tb => Sys2Proof.Machine.execRadioFrameBoundary tb s
  | .slotBoundary cell => Sys2Proof.Machine.execSlotBoundary cell s
  | .symbolBoundary cell => Sys2Proof.Machine.execSymbolBoundary cell s
  | .trigCfg sess n value => Sys2Proof.Machine.execTrigCfg sess n value s
  | .trigEdge n => Sys2Proof.Machine.execTrigEdge n s
  | .trigPulseEnd n => Sys2Proof.Machine.execTrigPulseEnd n s
  | .capEdge n falling => Sys2Proof.Machine.execCapEdge n falling s
  | .ppsInEdge falling => Sys2Proof.Machine.execPpsInEdge falling s
  | .ppsOutEdge => Sys2Proof.Machine.execPpsOutEdge s
  | .capRead sess n => Sys2Proof.Machine.execCapRead sess n s
  | .ppsInRead sess => Sys2Proof.Machine.execPpsInRead sess s
  | .calibration unit => Sys2Proof.Machine.execCalibration unit s
  | .flitReceived port f => Sys2Proof.Machine.execFlitReceived port f s
  | .retrain port => Sys2Proof.Machine.execRetrain port s
  | .fabricPortDown port => Sys2Proof.Machine.execFabricPortDown port s
  | .fabricRead => Sys2Proof.Machine.execFabricRead s
  | .readData => Sys2Proof.Machine.execReadData s
  | .fabricWrite => Sys2Proof.Machine.execFabricWrite s
  | .writeAck => Sys2Proof.Machine.execWriteAck s
  | .atomic => Sys2Proof.Machine.execAtomic s
  | .atomicAck => Sys2Proof.Machine.execAtomicAck s
  | .drain => Sys2Proof.Machine.execDrain s
  | .drainAck => Sys2Proof.Machine.execDrainAck s
  | .refuse => Sys2Proof.Machine.execRefuse s
  | .bulkWrite => Sys2Proof.Machine.execBulkWrite s
  | .bulkRead => Sys2Proof.Machine.execBulkRead s
  | .bulkData => Sys2Proof.Machine.execBulkData s
  | .bulkAck => Sys2Proof.Machine.execBulkAck s
  | .cellData => Sys2Proof.Machine.execCellData s
  | .cellAck => Sys2Proof.Machine.execCellAck s
  | .routeTable sess data => Sys2Proof.Machine.execRouteTable sess data s
  | .routeCommit sess value => Sys2Proof.Machine.execRouteCommit sess value s
  | .routeDrainTimeout dest => Sys2Proof.Machine.execRouteDrainTimeout dest s
  | .relevoWfqCommit sess value => Sys2Proof.Machine.execRelevoWfqCommit sess value s
  | .reqTimeout dest job seq => Sys2Proof.Machine.execReqTimeout dest job seq s
  | .jobCfg sess value => Sys2Proof.Machine.execJobCfg sess value s
  | .jobTeardown sess cause => Sys2Proof.Machine.execJobTeardown sess cause s
  | .ctxJobId sess value => Sys2Proof.Machine.execCtxJobId sess value s
  | .winLoadData sess data => Sys2Proof.Machine.execWinLoadData sess data s
  | .winCommit sess value => Sys2Proof.Machine.execWinCommit sess value s
  | .fabricEnable sess => Sys2Proof.Machine.execFabricEnable sess s
  | .fabricRevoke sess => Sys2Proof.Machine.execFabricRevoke sess s
  | .jobSnapshot sess snapId => Sys2Proof.Machine.execJobSnapshot sess snapId s
  | .buddyAdopt sess oldJob => Sys2Proof.Machine.execBuddyAdopt sess oldJob s
  | .restoreFromBuddy sess value => Sys2Proof.Machine.execRestoreFromBuddy sess value s
  | .buddyRelease sess job => Sys2Proof.Machine.execBuddyRelease sess job s
  | .heartbeat => Sys2Proof.Machine.execHeartbeat s
  | .hbEcho sess value => Sys2Proof.Machine.execHbEcho sess value s
  | .selfFence => Sys2Proof.Machine.execSelfFence s
  | .reportEpochEnd => Sys2Proof.Machine.execReportEpochEnd s
  | .scrub loc result => Sys2Proof.Machine.execScrub loc result s
  | .ceSecond unit corrected => Sys2Proof.Machine.execCeSecond unit corrected s
  | .linkRetrain link => Sys2Proof.Machine.execLinkRetrain link s
  | .linkDown link => Sys2Proof.Machine.execLinkDown link s
  | .unitOut unit router => Sys2Proof.Machine.execUnitOut unit router s
  | .shadowStart => Sys2Proof.Machine.execShadowStart s
  | .shadowMaxAge => Sys2Proof.Machine.execShadowMaxAge s
  | .shadowCompare shadow third => Sys2Proof.Machine.execShadowCompare shadow third s
  | .meQuarantine sess value => Sys2Proof.Machine.execMeQuarantine sess value s
  | .cdOutMask sess value => Sys2Proof.Machine.execCdOutMask sess value s
  | .pasidLoadData sess data => Sys2Proof.Machine.execPasidLoadData sess data s
  | .ctxPasid sess value => Sys2Proof.Machine.execCtxPasid sess value s
  | .ctxPrivReq sess value => Sys2Proof.Machine.execCtxPrivReq sess value s
  | .ctxSharedReq sess value => Sys2Proof.Machine.execCtxSharedReq sess value s
  | .freeze sess slice => Sys2Proof.Machine.execFreeze sess slice s
  | .thaw sess slice => Sys2Proof.Machine.execThaw sess slice s
  | .sliceSave sess slice iova pasid => Sys2Proof.Machine.execSliceSave sess slice iova pasid s
  | .sliceSaveDone slice => Sys2Proof.Machine.execSliceSaveDone slice s
  | .sliceRestore sess slice iova pasid strict => Sys2Proof.Machine.execSliceRestore sess slice iova pasid strict s
  | .sliceRestoreDone slice => Sys2Proof.Machine.execSliceRestoreDone slice s
  | .functionLevelReset kind => Sys2Proof.Machine.execFunctionLevelReset kind s
  | .hostRequestFailed what => Sys2Proof.Machine.execHostRequestFailed what s
  | .mbReqLen len frame => Sys2Proof.Machine.execMbReqLen len frame s
  | .downDoorbell channel tail consumed writes => Sys2Proof.Machine.execDownDoorbell channel tail consumed writes s
  | .downDescriptor channel => Sys2Proof.Machine.execDownDescriptor channel s
  | .rhcCfg sess channel value => Sys2Proof.Machine.execRhcCfg sess channel value s
  | .openSession via source role nc => Sys2Proof.Machine.execOpenSession via source role nc s
  | .proof via sess tag => Sys2Proof.Machine.execProof via sess tag s
  | .read sess index subindex => Sys2Proof.Machine.execRead sess index subindex s
  | .write sess index subindex value => Sys2Proof.Machine.execWrite sess index subindex value s
  | .writeEndorsed sess index subindex value e => Sys2Proof.Machine.execWriteEndorsed sess index subindex value e s
  | .eventRead sess words => Sys2Proof.Machine.execEventRead sess words s
  | .recall sess => Sys2Proof.Machine.execRecall sess s
  | .close sess => Sys2Proof.Machine.execClose sess s
  | .sessionIdle sess => Sys2Proof.Machine.execSessionIdle sess s
  | .lockoutEnd role => Sys2Proof.Machine.execLockoutEnd role s
  | .endorseNonce sess => Sys2Proof.Machine.execEndorseNonce sess s
  | .nonceLapse nonce => Sys2Proof.Machine.execNonceLapse nonce s
  | .changeExpired nonce => Sys2Proof.Machine.execChangeExpired nonce s
  | .claim data => Sys2Proof.Machine.execClaim data s
  | .attestNonce sess nonce => Sys2Proof.Machine.execAttestNonce sess nonce s
  | .configSave sess value => Sys2Proof.Machine.execConfigSave sess value s
  | .configSaveDone readBackOk => Sys2Proof.Machine.execConfigSaveDone readBackOk s
  | .controlPeriod m => Sys2Proof.Machine.execControlPeriod m s
  | .telemetryUpdate rails measuredMw => Sys2Proof.Machine.execTelemetryUpdate rails measuredMw s
  | .thermalUpdate m => Sys2Proof.Machine.execThermalUpdate m s
  | .flowDemandUpdate => Sys2Proof.Machine.execFlowDemandUpdate s
  | .flowLow => Sys2Proof.Machine.execFlowLow s
  | .avsStep die up => Sys2Proof.Machine.execAvsStep die up s
  | .timingMarginLow die => Sys2Proof.Machine.execTimingMarginLow die s
  | .pmbAlert r => Sys2Proof.Machine.execPmbAlert r s
  | .railOutOfRange rail condition => Sys2Proof.Machine.execRailOutOfRange rail condition s
  | .sensorCalibration die sensor differs => Sys2Proof.Machine.execSensorCalibration die sensor differs s
  | .thermtrip => Sys2Proof.Machine.execThermtrip s
  | .seqFault rail => Sys2Proof.Machine.execSeqFault rail s
  | .powerCapW sess value => Sys2Proof.Machine.execPowerCapW sess value s
  | .refLost => Sys2Proof.Machine.execRefLost s
  | .refRestored locked => Sys2Proof.Machine.execRefRestored locked s
  | .rootPllUnlock => Sys2Proof.Machine.execRootPllUnlock s
  | .diePllUnlock die => Sys2Proof.Machine.execDiePllUnlock die s
  | .crossingStall unit => Sys2Proof.Machine.execCrossingStall unit s
  | .rclkCfg sess value => Sys2Proof.Machine.execRclkCfg sess value s
  | .powerOn => Sys2Proof.Machine.execPowerOn s
  | .resetN => Sys2Proof.Machine.execResetN s
  | .hubWatchdog => Sys2Proof.Machine.execHubWatchdog s
  | .resetRequest sess value => Sys2Proof.Machine.execResetRequest sess value s
  | .bootStage index => Sys2Proof.Machine.execBootStage index s
  | .recoveryHoldEnd q => Sys2Proof.Machine.execRecoveryHoldEnd q s
  | .fwLoadData sess data => Sys2Proof.Machine.execFwLoadData sess data s
  | .fwCommit sess digest => Sys2Proof.Machine.execFwCommit sess digest s
  | .handover sess value => Sys2Proof.Machine.execHandover sess value s
  | .fwConfirm sess value => Sys2Proof.Machine.execFwConfirm sess value s
  | .handoverConfirmTimeout => Sys2Proof.Machine.execHandoverConfirmTimeout s
  | .powerOff => Sys2Proof.Machine.execPowerOff s
  | .suppliesRestored => Sys2Proof.Machine.execSuppliesRestored s
  | .resetRelease => Sys2Proof.Machine.execResetRelease s
  | .fabricLinkUp port peer => Sys2Proof.Machine.execFabricLinkUp port peer s
  | .fronthaulLinkChange port up fecLock => Sys2Proof.Machine.execFronthaulLinkChange port up fecLock s
  | .pcieLinkUp lanes rate => Sys2Proof.Machine.execPcieLinkUp lanes rate s
  | .diePllRelock die => Sys2Proof.Machine.execDiePllRelock die s
  | .programRewriteDone core => Sys2Proof.Machine.execProgramRewriteDone core s
  | .shadowCopyDone ctx => Sys2Proof.Machine.execShadowCopyDone ctx s
  | .jobDeadlinePassed die slot => Sys2Proof.Machine.execJobDeadlinePassed die slot s
  | .mgmtFrameDiscarded via why => Sys2Proof.Machine.execMgmtFrameDiscarded via why s
  | .ppsOutPulseEnd => Sys2Proof.Machine.execPpsOutPulseEnd s
  | .handoverComplete ok => Sys2Proof.Machine.execHandoverComplete ok s

end Sys2Proof.Machine
end

