-- ==== Sys2Proof/Safety.lean ====
section
/-! DEFINITION. What counts as a safe step: it answers a next state, and the stores keep their canonical form. -/

namespace Sys2Proof.Machine

/-- The package's memories and the host's stand in canonical form: addresses strictly rising, no byte equal to what an
unlisted address reads as. -/
def Memory.wf (s : State) : Bool := Tab.wf 0 s.mem && Tab.wf 0 s.host

/-- The memory manager's tables list each key once. -/
abbrev Tier.tidy (t : Tier) : Prop :=
  t.frames.rising ∧ t.regions.rising ∧ t.pages.rising ∧ t.prefetch.rising ∧ t.window.rising ∧ t.maps.rising ∧ t.floors.rising ∧
  t.radioSp.rising ∧ t.radioShared.rising

/-- The host interface's tables list each key once. -/
abbrev HostIf.tidy (h : HostIf) : Prop :=
  h.msix.rising ∧ h.sync.rising ∧ h.pasidShadow.rising ∧ h.saves.rising ∧ h.restores.rising ∧ h.channels.rising

/-- The fronthaul's tables list each key once. -/
abbrev Fronthaul.tidy (f : Fronthaul) : Prop :=
  f.vtime.rising ∧ f.fec.rising ∧ f.sent.rising ∧ f.buckets.rising ∧ f.profiles.rising ∧ f.profileShadow.rising ∧ f.weights.rising

/-- The pins' tables list each key once. -/
abbrev Pins.tidy (p : Pins) : Prop :=
  p.edgeAt.rising ∧ p.trigNext.rising ∧ p.trigEnd.rising ∧ p.caps.rising ∧ p.capSeq.rising ∧ p.capLast.rising ∧ p.comps.rising

/-- The fault unit's tables list each key once. -/
abbrev Faults.tidy (f : Faults) : Prop := f.log.rising ∧ f.reportSeq.rising ∧ f.renewed.rising ∧ f.corrected.rising ∧
  f.linksRetrained.rising

/-- The protected part's tables list each key once. -/
abbrev Prot.tidy (p : Prot) : Prop :=
  p.regs.rising ∧ p.octs.rising ∧ p.roleKeys.rising ∧ p.tenantKeys.rising ∧ p.lastNonce.rising

/-- The radio side's tables list each key once. -/
abbrev Radio.tidy (r : Radio) : Prop :=
  r.cores.rising ∧ r.ue.rising ∧ r.cells.rising ∧ r.cmds.rising ∧ r.cmdTag.rising ∧ r.steps.rising ∧ r.running.rising

/-- The fabric's tables list each key once. -/
abbrev Fabric.tidy (f : Fabric) : Prop :=
  f.route.rising ∧ f.streams.rising ∧ f.ports.rising ∧ f.jobs.rising ∧ f.weights.rising

/-- The power controller's tables list each key once. -/
abbrev Power.tidy (p : Power) : Prop := p.setPoint.rising ∧ p.stepped.rising ∧ p.fails.rising

/-- The mesh route tables, in force and waiting, list each key once. -/
abbrev Mesh.tidy (m : Mesh) : Prop := m.routes.rising ∧ ∀ t ∈ m.next, t.rising

/-- The state's stores list each key once, and its memories stand in canonical form: what makes an object read as it was last
written. -/
abbrev State.tidy (s : State) : Prop :=
  Memory.wf s = true ∧ s.regs.rising ∧ s.octs.rising ∧ s.prot.tidy ∧ s.ctxs.rising ∧ s.engines.rising ∧ s.tier.tidy ∧ s.hif.tidy ∧
  s.queues.rising ∧ s.fh.tidy ∧ s.tbs.rising ∧ s.pins.tidy ∧ s.faults.tidy ∧ s.mgmt.sessions.rising ∧ s.mgmt.failed.rising ∧
  s.radio.tidy ∧ s.fab.tidy ∧ s.power.tidy ∧ s.mesh.tidy

/-- A step that neither faults nor refuses. -/
def State.steps (s : State) : Bool := match step s with
  | .next _ => true
  | _ => false

end Sys2Proof.Machine
end

