-- ==== Sys2Proof/Certificates/Slice0/Obligations.lean ====
section
/-! DEFINITION. What is claimed of the model: where every command completes and with what effect, what it leaves unchanged,
what is turned away, and what holds of every step. -/

open Sys2Proof Sys2Proof.Machine

namespace Sys2Proof.Claims

/-- Command `i` completes on `s`: exec answers a next state, of which `P` holds. -/
def completes (i : Instr) (s : State) (P : State → Prop) : Prop := ∃ t, exec i s = .next t ∧ P t

/-- Context `c`'s command is started and its own row has not run; its opcode is `op`. -/
abbrev underWay (s : State) (c : Nat) (x : Cmd) (op : Op) : Prop :=
  (s.ctx c).cmd = some x ∧ x.phase = .started ∧ x.done = false ∧ x.op = some op

/-- The same of the radio command of logical engine `l`. -/
abbrev radioUnderWay (s : State) (l : Nat) (x : Cmd) (op : Op) : Prop :=
  s.radioCmd l = some x ∧ x.phase = .started ∧ x.done = false ∧ x.op = some op

/-- The rows of the matrix and vector commands, with the opcode each runs. -/
def engineRows (who : Owner) : List (Instr × Op) :=
  [(.matmul who, .matmul), (.cmatmul who, .cmatmul), (.fullSum who, .fullSum), (.map who, .map), (.binary who, .binary),
   (.convert who, .convert), (.lineMax who, .lineMax), (.softmaxStep who, .softmaxStep), (.softmaxExact who, .softmaxExact),
   (.normalise who, .normalise), (.normStats who, .normStats), (.normApply who, .normApply)]

/-- The rows of the DMA commands that move bytes. -/
def dmaRows (c : Nat) : List (Instr × Op) :=
  [(.copy c, .copy), (.copy2d c, .copy2d), (.fill c, .fill), (.transpose c, .transpose), (.toPanels c, .toPanels),
   (.gather c, .gather), (.fillRandom c, .fillRandom), (.hostRead c, .hostRead), (.hostWrite c, .hostWrite),
   (.loamRelease c, .loamRelease)]

/-- The rows of the fabric commands. -/
def fabricRows (c : Nat) : List (Instr × Op) :=
  [(.fload c, .fload), (.fstore c, .fstore), (.fstoreShared c, .fstoreShared), (.faddI64 c, .faddI64),
   (.ffetchAddI64 c, .ffetchAddI64), (.fswapI64 c, .fswapI64), (.fcasI64 c, .fcasI64), (.faddF32Fast c, .faddF32Fast),
   (.faddKrec c, .faddKrec)]

/-- The rows of the hub commands. -/
def hubRows (c : Nat) : List (Instr × Op) :=
  [(.nop c, .nop), (.wait c, .wait), (.waitMem c, .waitMem), (.fenceFabric c, .fenceFabric), (.setSeed c, .setSeed),
   (.readTime c, .readTime)]

/-- DPA of byte `off` of context `c`'s tier `t`, where it has one (R135, R177, R182). -/
def ctxDpa (s : State) (c t off : Nat) : Option Nat :=
  match t with
  | 0 => s.privByte c off
  | 1 => s.sharedByte c off
  | 2 => (s.sliceOf c).bind fun n => s.regionDpa n off
  | _ => none

/-- A taken doorbell: TAIL is the value, and in an empty queue the descriptor in slot HEAD becomes next (R131, R159). -/
def tailTo (s : State) (c : Nat) (t : W32) : State := s.modCtx c fun x => { x with
  page := { x.page with tail := t }
  nextAt := if x.page.head = x.page.tail then s.ck else x.nextAt }

/-- A command that waited for its start retires without effect: the context is at a boundary, and checks its next one (R162, R164). -/
def retires (s : State) (c reason : Nat) : State := ((s.ignoreHead c reason).tryBoundary c).checkNext c

end Sys2Proof.Claims

open Sys2Proof.Claims

/-- A step runs the command at the front of the queue. For every command and state, a step of the state with the command at the
front of its queue is exec of that command on the state with the queue's rest. The queue of waiting commands is the model's
own form, not the manual's. (05_commands_and_instruction_list.md, log entry 3) -/
def Obligations.StepRunsTheFrontCommand : Prop :=
  ∀ (i : Instr) (rest : List Instr) (s : State),
    step { s with pending := i :: rest } = exec i { s with pending := rest }

/-- A step on an empty queue changes nothing. On an empty queue a step answers the state as it is: time passes by the command
CK_TICK alone. The model's choice, log entry 3. (16_clocks_and_crossings.md, log entry 3) -/
def Obligations.IdleStepKeepsTheState : Prop := ∀ s : State, s.pending = [] → step s = .next s

/-- DOORBELL, RING_CFG and CPL_HEAD complete and set the queue page. With host access up: DOORBELL of a running or frozen queue
with a value neither behind TAIL nor more than one ring ahead of TAIL or HEAD makes TAIL the value, begins the count of
WAIT_CK where the queue was empty, and checks the context's next descriptor; in a frozen queue nothing else happens.
RING_CFG: the ring base registers hold what was written to them in every case; on a disabled queue, a value with ENABLE
whose fields and bases are allowed creates the context with all its indices 0, one with ENABLE that is not allowed is held
with ENABLE 0, and one without ENABLE is held; on an enabled queue a value with ENABLE changes nothing else, and one without
it removes the context, with its command under way counted as killed, and disables the queue; then slices that freeze and
have nothing left to run are frozen. CPL_HEAD takes the value. Without host access, or in a page with no context bound, none
of the three has an effect but the host's own writes, and a register of such a page reads 0. (R129, R130, R131, R133, R385) -/
def Obligations.QueuePageWritesTakeEffect : Prop :=
  (∀ (s : State) (n q c : Nat) (t : W32) (ws : List HostWrite),
    let u := s.hostPut ws
    let p := (u.ctx c).page
    u.queueCtx n q = some c → u.hif.access = true → p.state = 1 ∨ p.state = 2 → 0 ≤ (t - p.tail).toInt →
    (t - p.tail).toNat ≤ 2 ^ p.cmdLog2 → (t - p.head).toNat ≤ 2 ^ p.cmdLog2 →
    exec (.doorbell n q t ws) s = .next ((tailTo u c t).checkNext c) ∧
    (p.state = 2 → exec (.doorbell n q t ws) s = .next (tailTo u c t))) ∧
  (∀ (s : State) (n q c : Nat) (v : W32) (a b : W64), s.queueCtx n q = some c → s.hif.access = true →
    let o := (s.ctx c).page
    let p := { o with cmdBase := a.toNat, cplBase := b.toNat }
    let r := { p with ringCfg := ringMask v }
    let goes (u : State) : Prop := exec (.ringCfg n q v a b) s = .next u.settleAll
    (o.enabled = false → bit (ringMask v) 31 = true → s.ringOk n r = true → goes (s.setCtx c { (default : Ctx) with
      live := true
      page := { r with head := 0, tail := 0, cplHead := 0, cplIndex := 0, state := if s.sliceState n = 0 then 1 else 2 } })) ∧
    (o.enabled = false → bit (ringMask v) 31 = true → s.ringOk n r = false →
      goes (s.modPage c fun _ => { r with ringCfg := setBit (ringMask v) 31 false })) ∧
    (o.enabled = false → bit (ringMask v) 31 = false → goes (s.modPage c fun _ => r)) ∧
    (o.enabled = true → bit (ringMask v) 31 = true → goes (s.modPage c fun _ => p)) ∧
    (o.enabled = true → bit (ringMask v) 31 = false →
      goes (((s.countRemoved c).removeCtx c).modPage c fun _ => { p with ringCfg := setBit p.ringCfg 31 false, state := 0 }))) ∧
  (∀ (s : State) (n q c : Nat) (v : W32), s.queueCtx n q = some c → s.hif.access = true →
    exec (.cplHead n q v) s = .next (s.modPage c fun p => { p with cplHead := v })) ∧
  (∀ (s : State) (n q : Nat) (v : W32) (a b : W64), s.hif.access = false ∨ s.queueCtx n q = none →
    exec (.ringCfg n q v a b) s = .next s ∧ exec (.cplHead n q v) s = .next s) ∧
  (∀ (s : State) (n q : Nat) (t : W32) (ws : List HostWrite), s.hif.access = false ∨ s.queueCtx n q = none →
    exec (.doorbell n q t ws) s = .next (s.hostPut ws)) ∧
  ∀ (s : State) (n q off : Nat), s.queueCtx n q = none → s.pageRead n q off = 0

/-- A doorbell that is not accepted is ignored with its reason. When host access is up, a DOORBELL to a disabled queue is
ignored with reason 0x0101, to a torn queue with 0x0104, one behind TAIL with 0x0102, and any other that is more than one
ring ahead of TAIL or HEAD with 0x0103: IGNORED_COUNT rises by one, LAST_IGNORED is the reason, LAST_IGNORED_SEQ is the
value, TAIL stays, and nothing is fetched. An accepted value becomes TAIL, and a doorbell to a frozen queue fetches nothing.
Waiting doorbells take effect in the order of the queue. (R131) -/
def Obligations.IgnoredDoorbellsAreCounted : Prop :=
  ∀ (s : State) (n q c : Nat) (t : W32) (ws : List HostWrite),
    let u := s.hostPut ws
    let p := (u.ctx c).page
    let back := (t - p.tail).toInt < 0
    let far := 2 ^ p.cmdLog2 < (t - p.tail).toNat ∨ 2 ^ p.cmdLog2 < (t - p.head).toNat
    let ignored (r : Nat) : Prop := completes (.doorbell n q t ws) s fun v =>
      (v.ctx c).page = { p with ignored := p.ignored + 1, lastIgnored := r, lastIgnoredSeq := t } ∧
      (v.ctx c).cmd = (u.ctx c).cmd ∧ v.mem = s.mem ∧ v.host = u.host ∧ v.reg .lastIgnored = r
    u.queueCtx n q = some c → u.hif.access = true →
    (p.state = 0 → ignored 0x0101) ∧ (p.state = 3 → ignored 0x0104) ∧
    ((p.state = 1 ∨ p.state = 2) → back → ignored 0x0102) ∧
    ((p.state = 1 ∨ p.state = 2) → ¬ back → far → ignored 0x0103) ∧
    ((p.state = 1 ∨ p.state = 2) → ¬ back → ¬ far →
      exec (.doorbell n q t ws) s = .next ((tailTo u c t).checkNext c)) ∧
    (p.state = 2 → ¬ back → ¬ far → exec (.doorbell n q t ws) s = .next (tailTo u c t)) ∧
    ∀ rest, step { s with pending := .doorbell n q t ws :: rest } = exec (.doorbell n q t ws) { s with pending := rest }

/-- CONTEXT_PLACED, ENGINE_GRANT and DMA_SLOT_GRANT complete. CONTEXT_PLACED of a live context off the engines that is not torn,
fits its slice's quota and for which a plan keeps a place that is free, or for which the hub's criteria choose an engine,
places it there and checks its next descriptor; of any other it changes nothing. ENGINE_GRANT of a ready engine command
whose class is not gated, whose engine is free, with no LC command ready before a BE one, that passes the window rule, whose
turn it is and that is not stale starts it: its command is started in this CK cycle on the engine, which runs it; no memory
and no other context's command changes. One that the window rule turns away is counted once for each window in BRIM_DENIALS;
one out of turn changes nothing; a stale one is counted; one whose late check fails is ignored with the reason, which is a
command boundary, and the next descriptor is checked; each after the engine's round has moved on. DMA_SLOT_GRANT of a ready
DMA, fabric or hub command whose class is not gated starts it, and changes no memory, no other context's command and no
engine's command; one whose late check fails is ignored with the reason. Grants of anything else only let turns pass that
have no ready command. (R152, R164, R230, R234, R237, R239, R241, R242, R244, R245, R500) -/
def Obligations.PlacementAndGrantsComplete : Prop :=
  (∀ (s : State) (c : Nat),
    let free := (s.ctx c).live = true ∧ (s.ctx c).alloc.engine = none ∧ (s.ctx c).page.state ≠ 3 ∧ s.quotaFits c = true
    let planned (u : State) : State := u.modWanted c fun w => { w with engine := none, spot := none }
    (∀ e g sh, free → s.keptSpot c = some (e, g, sh) →
      exec (.contextPlaced c) s = .next ((planned (s.placeSpot c e g sh)).growRegions.checkNext c)) ∧
    (∀ e, free → s.keptSpot c = none → s.chooseEngine c (s.ctx c).alloc.home = some e →
      exec (.contextPlaced c) s = .next ((planned (s.placeOn c e)).checkNext c)) ∧
    (¬ free ∨ (s.keptSpot c = none ∧ s.chooseEngine c (s.ctx c).alloc.home = none) → exec (.contextPlaced c) s = .next s)) ∧
  (∀ (s : State) (c ak : Nat),
    ((∀ x op, s.readyCmd c = some (x, op) → op.unit ≠ .engine ∨ s.gated c = true) ∨ (s.ctx c).alloc.engine = none →
      exec (.engineGrant c ak) s = .next s.yieldTurns) ∧
    ((∀ x op, s.readyCmd c = some (x, op) → op.unit = .engine ∨ s.gated c = true) ∨ (s.ctx c).alloc.engine = none →
      exec (.dmaSlotGrant c) s = .next s.yieldTurns)) ∧
  (∀ (s : State) (c e ak : Nat) (x : Cmd) (op : Op), s.readyCmd c = some (x, op) → (s.ctx c).alloc.engine = some e →
    op.unit = .engine → s.gated c = false →
    let first := s.engineFree e = true ∧ (s.isLc c = true ∨ (s.classOn e true).any s.engineReady = false)
    let r := s.advanceRound e (s.isLc c) 4096
    (¬ first → exec (.engineGrant c ak) s = .next s.yieldTurns) ∧
    (first → r.startRule e x.count = false →
      let w := r.deniedBefore e
      exec (.engineGrant c ak) s = .next (if x.denied.contains w then r.yieldTurns
        else ((r.bump .brimDenials).modCtx c fun y => { y with cmd := some { x with denied := w :: x.denied } }).yieldTurns)) ∧
    (first → r.startRule e x.count = true → r.hasTurn e (s.isLc c) c = false →
      exec (.engineGrant c ak) s = .next r.yieldTurns) ∧
    (first → r.startRule e x.count = true → r.hasTurn e (s.isLc c) c = true →
      (256 < ak → exec (.engineGrant c ak) s = .next (r.bump .staleGrants).yieldTurns) ∧
      (ak ≤ 256 →
        (∀ n, x.checked = false → r.lateReason c op x.desc = some n →
          exec (.engineGrant c ak) s = .next (retires r c n).yieldTurns) ∧
        (x.checked = true ∨ r.lateReason c op x.desc = none →
          completes (.engineGrant c ak) s fun t => (t.engine e).running = some (.context c) ∧ t.mem = s.mem ∧
            (∀ d, d ≠ c → (t.ctx d).cmd = (s.ctx d).cmd) ∧
            ∃ k, (t.ctx c).cmd = some k ∧ k.desc = x.desc ∧ k.phase = .started ∧ k.done = false ∧ k.engine = e ∧
              k.startCk = s.ck)))) ∧
  (∀ (s : State) (c e : Nat) (x : Cmd) (op : Op),
    s.readyCmd c = some (x, op) → (s.ctx c).alloc.engine = some e → op.unit ≠ .engine → s.gated c = false →
    (∀ n, x.checked = false → s.lateReason c op x.desc = some n →
      exec (.dmaSlotGrant c) s = .next (retires s c n).yieldTurns) ∧
    (x.checked = true ∨ s.lateReason c op x.desc = none →
      completes (.dmaSlotGrant c) s fun t => (∀ g, (t.engine g).running = (s.engine g).running) ∧ t.mem = s.mem ∧
        (∀ d, d ≠ c → (t.ctx d).cmd = (s.ctx d).cmd) ∧
        ∃ k, (t.ctx c).cmd = some k ∧ k.desc = x.desc ∧ k.phase = .started ∧ k.done = false ∧
          k.engine = (if op.unit = .hub then 0xFE else 0x80 + e / 8) ∧ k.startCk = s.ck))

/-- COMMIT completes for contexts and radio queues. COMMIT of a context whose command is started and run, whose hub condition
still holds and whose pages are present, with no uncorrectable word in the package, commits it: what the opcode changes, the
step and HEAD advance, the signal, the record, the interrupt, the counters, the engine freed, then the boundary and the next
check; then commands that waited for it go on. A COMMIT of a context whose command is not started or not run, or of a hub
command whose condition no longer holds, commits nothing. COMMIT of a radio command commits it likewise, and its step
counter rises. (R154, R279, R462) -/
def Obligations.CommitsComplete : Prop :=
  (∀ (s : State) (c : Nat) (x : Cmd) (op : Op), (s.ctx c).cmd = some x → x.op = some op → x.phase = .started → x.done = true →
    s.tier.badWords = [] → (op.unit = .hub → s.hubCondition c op x = true) →
    (op = .loamAcquire → s.absentPages c ((s.sliceOf c).getD 0) (loamPagesOf (opReads op x.desc)) = []) →
    let d : Desc := x.desc
    let n := (s.sliceOf c).getD 0
    let v := s.commitOwn c x op
    let u := v.modCtx c fun y => { y with
      quietCk := v.ck
      nextAt := v.ck
      cmd := none
      step := (y.step + 1) % 2 ^ 64
      page := { y.page with head := y.page.head + 1 } }
    let u := if d.signalEn then u.setSync n d.signalCtr (u.sync n d.signalCtr + 1) else u
    let u := u.writeRecord c (recordBits d.tag x.step x.seq (x.startCk - x.nextCk) (v.ck - x.startCk) x.counts x.count x.idleAk
      d.opcode x.engine (commitCode x.counts) 0)
    let u := if d.irq then u.raiseQueue c else u
    let u := ((u.countCommit x op).releaseEngine c x op).shadowWritten c x
    let u := if x.pages = [] then u else (u.touchPages n x.pages).sweepLoam n
    let u := (((u.atBoundary c).settleRegions).settleFreeze n).pasidBoundary.checkNext c
    exec (.commit (.context c)) s = .next u.settleSnapshots.wakeFabric.yieldTurns) ∧
  (∀ (s : State) (c : Nat) (x : Cmd) (op : Op), (s.ctx c).cmd = some x → x.op = some op →
    x.phase ≠ .started ∨ x.done = false ∨ (op.unit = .hub ∧ s.hubCondition c op x = false ∧ s.isBad (badCtx c) = false) →
    exec (.commit (.context c)) s = .next s.settleSnapshots.wakeFabric.yieldTurns) ∧
  (∀ (s : State) (l : Nat) (x : Cmd) (op : Op), s.radioCmd l = some x → x.op = some op → x.phase = .started → x.done = true →
    s.tier.badWords = [] →
    let u := { s with radio := { s.radio with steps := s.radio.steps.set 0 l ((s.radio.steps.get 0 l + 1) % 2 ^ 64) } }
    let u := ((u.bump .commits).bumpIf (decide (0 < x.counts.satHi + x.counts.satLo)) .kaolinFlagged x.engine).bumpIf
      (!op.isMatrix) .vecCommands
    let u := ((u.bump .satElements 0 x.counts.sat).bump .invalidElements 0 x.counts.inv).bump .execCycles x.engine x.count
    exec (.commit (.radio l)) s = .next (u.endRadio l x (commitCode x.counts) 0).pasidBoundary.wakeFabric.yieldTurns)

/-- PASS_BOUNDARY, LC_PREEMPT_KILL, KILL_REQUEST, KILL_DONE and ENGINE_CHECK_FAULT complete. KILL_REQUEST with cause 0x10 to
0x13 on a context's started command that is not yet at its commit point marks it as being killed with that cause, and its
outstanding responses are discarded; at or after the commit point it has no effect; of a command not started it withdraws
the fabric requests, whose responses are discarded, and does nothing else; on a command being killed the larger cause stays.
A radio command is killed by cause 0x12 alone. LC_PREEMPT_KILL kills the BE command, or stops the shadow, on an engine where
an LC command waits and more than KILL_SKIP_AK cycles are left, and does nothing otherwise. KILL_DONE of a context's killed
command with no response out, engine command or not, writes its record where kills are reported, counts it, frees its engine
and puts it back to run again from its start under the same step and slot. KILL_DONE of a radio command likewise.
ENGINE_CHECK_FAULT counts the fault, raises record 0x0201 and kills the command of the context or radio queue with cause
0x12, or stops the shadow; on an idle engine nothing happens. PASS_BOUNDARY at the first cycle of a pass of a started
command of a context, of a radio queue or of a shadow begins the pass, and inserts due idle in all but the radio's; at any
other cycle it changes nothing. With no idle asked for, beginning the pass is all. (R63, R72, R81, R86, R88, R89, R91, R155,
R234, R235, R479) -/
def Obligations.KillsAndPassesComplete : Prop :=
  (∀ (s : State) (c cause ak : Nat) (x : Cmd) (op : Op), (s.ctx c).cmd = some x → x.op = some op → 0x10 ≤ cause → cause ≤ 0x13 →
    (x.phase = .started → (op.unit = .engine → ak < x.count + x.idleAk) → completes (.killRequest (.context c) cause ak) s fun t =>
      (t.ctx c).cmd = some { x with phase := .killing, cause := cause } ∧ (t.ctx c).page = (s.ctx c).page ∧
      (∀ d, d ≠ c → t.ctx d = s.ctx d) ∧ t = { s with ctxs := t.ctxs, fab := { s.fab with out := t.fab.out } } ∧
      (∀ o ∈ t.fab.out, ∀ off, o.what = .load c off ∨ o.what = .atomic c off → o.dropped = true) ∧
      ∀ o ∈ s.fab.out, (∀ off, o.what ≠ .load c off ∧ o.what ≠ .atomic c off) → o ∈ t.fab.out) ∧
    (x.phase = .started → op.unit = .engine → x.count + x.idleAk ≤ ak →
      exec (.killRequest (.context c) cause ak) s = .next s) ∧
    (x.phase = .waiting ∨ x.phase = .rerun →
      (x.requests = [] → exec (.killRequest (.context c) cause ak) s = .next s) ∧
      (x.requests ≠ [] → completes (.killRequest (.context c) cause ak) s fun t =>
        (t.ctx c).cmd = some { x with requests := [], landed := [] } ∧ (t.ctx c).page = (s.ctx c).page ∧
        (∀ d, d ≠ c → t.ctx d = s.ctx d) ∧ t = { s with ctxs := t.ctxs, fab := { s.fab with out := t.fab.out } } ∧
        ∀ o ∈ t.fab.out, ∀ off, o.what = .load c off ∨ o.what = .atomic c off → o.dropped = true)) ∧
    (x.phase = .killing → exec (.killRequest (.context c) cause ak) s =
      .next (s.setCtx c { s.ctx c with cmd := some { x with cause := max x.cause cause } }))) ∧
  (∀ (s : State) (l cause ak : Nat) (x : Cmd), s.radioCmd l = some x → 0x10 ≤ cause → cause ≤ 0x13 →
    (cause = 0x12 → x.phase = .started → ak < x.count → exec (.killRequest (.radio l) cause ak) s =
      .next (s.setRadioCmd l (some { x with phase := .killing, cause := 0x12 }))) ∧
    (cause ≠ 0x12 ∨ x.phase ≠ .started ∨ x.count ≤ ak → exec (.killRequest (.radio l) cause ak) s = .next s)) ∧
  (∀ (s : State) (e c ak : Nat) (x : Cmd) (op : Op), (s.engine e).running = some (.context c) → (s.ctx c).cmd = some x →
    x.op = some op → x.phase = .started →
    let due := (s.classOn e true).any s.enginePending
    (s.isLc c = false → due = true → s.reg .killSkipAk < x.count + x.idleAk - ak → completes (.lcPreemptKill e ak) s fun t =>
      (t.ctx c).cmd = some { x with phase := .killing, cause := 0x10 } ∧ (∀ d, d ≠ c → t.ctx d = s.ctx d) ∧
      t = { s with ctxs := t.ctxs, fab := { s.fab with out := t.fab.out } }) ∧
    (s.isLc c = true ∨ due = false ∨ x.count + x.idleAk - ak ≤ s.reg .killSkipAk →
      exec (.lcPreemptKill e ak) s = .next s)) ∧
  (∀ (s : State) (e ak : Nat) (w : Shadow) (op : Op), (s.engine e).running = none → s.shadowOn e = some w →
    Op.ofCode (Desc.opcode w.desc) = some op → (s.classOn e true).any s.enginePending = true →
    s.reg .killSkipAk < opCount op w.desc + w.idleAk - ak →
    exec (.lcPreemptKill e ak) s = .next ((s.bump .preemptKills).stopShadow e)) ∧
  (∀ (s : State) (c ak : Nat) (x : Cmd) (op : Op), (s.ctx c).cmd = some x → x.op = some op → x.phase = .killing →
    s.outstanding c = false →
    let d : Desc := x.desc
    let u := if (s.ctx c).page.reportKills && !x.silent then s.writeRecord c (recordBits d.tag x.step x.seq (x.startCk - x.nextCk)
      (s.ck - x.startCk) Counts.none x.count x.idleAk d.opcode x.engine 0x01 x.cause) else s
    let u := (u.bump .kills).bumpIf (x.cause = 0x10) .preemptKills
    let u := if op.unit = .engine then ((u.bump .meKills x.engine).bump .killedCycles c ak).engineIdle x.engine else u
    let u := (u.modCmd c fun k => { k with
      phase := .rerun
      done := false
      requests := []
      landed := []
      counts := Counts.none
      idleAk := 0
      pages := []
      streams := []
      cause := 0
      silent := false }).dropWaitingFetches c
    let u := if x.pages = [] then u else (u.touchPages ((s.sliceOf c).getD 0) x.pages).sweepLoam ((s.sliceOf c).getD 0)
    let u := ((u.tryBoundary c).settleFreeze ((s.sliceOf c).getD 0)).pasidBoundary
    exec (.killDone (.context c) ak) s = .next (if u.queueRuns c then u.beginWait c else u).settleSnapshots.yieldTurns) ∧
  (∀ (s : State) (l ak : Nat) (x : Cmd), s.radioCmd l = some x → x.phase = .killing → exec (.killDone (.radio l) ak) s = .next
    ((((s.bump .kills).bump .meKills x.engine).freeEngine (.radio l)).setRadioCmd l
      (some { x with phase := .rerun, done := false, counts := Counts.none, cause := 0 })).yieldTurns) ∧
  (∀ (s : State) (e : Nat),
    (∀ c, (s.engine e).running = some (.context c) → exec (.engineCheckFault e) s =
      .next (((s.bump .checkFaults e).fault 0x0201 1 2 e c).killCtx c 0x12 0)) ∧
    (∀ l, (s.engine e).running = some (.radio l) → exec (.engineCheckFault e) s =
      .next (((s.bump .checkFaults e).fault 0x0201 1 2 e (tagCell (s.radioTag l))).killRadio l 0x12 0)) ∧
    ((s.engine e).running = none →
      (∀ w, s.shadowOn e = some w → exec (.engineCheckFault e) s =
        .next (((s.bump .checkFaults e).fault 0x0201 1 2 e w.ctx).stopShadow e)) ∧
      (s.shadowOn e = none → exec (.engineCheckFault e) s = .next s))) ∧
  (∀ (s : State) (e c ak : Nat) (x : Cmd) (op : Op), (s.engine e).running = some (.context c) → (s.ctx c).cmd = some x →
    x.op = some op → x.phase = .started →
    (∀ p, passNumber op x.desc (ak - x.idleAk) = some p → exec (.passBoundary e ak) s = .next
      ((s.beginPass e (s.ctxByte c) op x.desc p).insertIdle e (x.count + x.idleAk - ak) (State.addIdle c)) ∧
      ((s.engine e).idleReq = none → exec (.passBoundary e ak) s = .next (s.beginPass e (s.ctxByte c) op x.desc p))) ∧
    (passNumber op x.desc (ak - x.idleAk) = none → exec (.passBoundary e ak) s = .next s)) ∧
  (∀ (s : State) (e l ak : Nat) (x : Cmd) (op : Op), (s.engine e).running = some (.radio l) → s.radioCmd l = some x →
    x.op = some op → x.phase = .started →
    (∀ p, passNumber op x.desc ak = some p →
      exec (.passBoundary e ak) s = .next (s.beginPass e (s.radioByte e) op x.desc p)) ∧
    (passNumber op x.desc ak = none → exec (.passBoundary e ak) s = .next s)) ∧
  (∀ (s : State) (e ak : Nat) (w : Shadow) (op : Op), (s.engine e).running = none → s.shadowOn e = some w →
    Op.ofCode (Desc.opcode w.desc) = some op →
    (∀ p, passNumber op w.desc (ak - w.idleAk) = some p → exec (.passBoundary e ak) s = .next
      ((s.beginPass e (s.shadowByte w e) op w.desc p).insertIdle e (opCount op w.desc + w.idleAk - ak) (State.addShadowIdle w))) ∧
    (passNumber op w.desc (ak - w.idleAk) = none → exec (.passBoundary e ak) s = .next s))

/-- Every matrix and vector command of a context runs, writes its bytes in place and touches nothing else. MATMUL, CMATMUL,
FULL_SUM, MAP, BINARY, CONVERT, LINE_MAX, SOFTMAX_STEP, SOFTMAX_EXACT, NORMALISE, NORM_STATS and NORM_APPLY of a context
whose command of that opcode is started and not run: the command is then run, with the counts of its results; the bytes it
writes are written in order; the engine's banks are clear; every other byte, every other context, host memory, and every
register and unit stay as they were. With no such command nothing changes. (R73, R76, R85, R114, R118, R120, R121, R125,
R145, R153, R159, R552) -/
def Obligations.EngineCommandsComplete : Prop :=
  ∀ (s : State) (c : Nat) (i : Instr) (op : Op), (i, op) ∈ engineRows (.context c) →
    (∀ x, underWay s c x op →
      let o := s.engineOut x.engine (s.ctxByte c) op x.desc
      completes i s fun t =>
        (t.ctx c).cmd = some { x with done := true, counts := o.counts } ∧
        t.mem = (o.writes.foldl (fun u w => u.ctxPut c 0 w.1 w.2) s).mem ∧
        (∀ a, (∀ w ∈ o.writes, s.privByte c w.1 ≠ some a) → t.rd a = s.rd a) ∧
        (∀ d, d ≠ c → t.ctx d = s.ctx d) ∧ t.engines = (s.clearBanks x.engine).engines ∧
        t = { s with ctxs := t.ctxs, mem := t.mem, engines := t.engines }) ∧
    ((∀ x, ¬ underWay s c x op) → exec i s = .next s)

/-- Every matrix and vector command of a radio queue runs in its radio region and touches nothing else. The same twelve commands
of a radio queue: the command is then run with its counts, the bytes it writes are written in order into the engine's radio
region, the engine's banks are clear, and every other byte, register and unit stays as it was. With no such command nothing
changes. (R76, R153, R279, R280) -/
def Obligations.RadioEngineCommandsComplete : Prop :=
  ∀ (s : State) (l : Nat) (i : Instr) (op : Op), (i, op) ∈ engineRows (.radio l) →
    (∀ x, radioUnderWay s l x op →
      let o := s.engineOut x.engine (s.radioByte x.engine) op x.desc
      completes i s fun t =>
        t.radioCmd l = some { x with done := true, counts := o.counts } ∧
        t.mem = (o.writes.foldl (fun u w => u.wr ((s.radioView x.engine).dpa 0 w.1) w.2) s).mem ∧
        (∀ a, (∀ w ∈ o.writes, (s.radioView x.engine).dpa 0 w.1 ≠ a) → t.rd a = s.rd a) ∧
        (∀ k, k ≠ l → t.radioCmd k = s.radioCmd k) ∧ t.engines = (s.clearBanks x.engine).engines ∧
        t = { s with mem := t.mem, engines := t.engines, radio := { s.radio with cmds := t.radio.cmds } }) ∧
    ((∀ x, ¬ radioUnderWay s l x op) → exec i s = .next s)

/-- Every DMA command runs, writes its runs in place and touches nothing else. COPY, COPY_2D, FILL, TRANSPOSE, TO_PANELS,
GATHER, FILL_RANDOM, HOST_READ, HOST_WRITE and LOAM_RELEASE of a context whose command of that opcode is started and not
run, with host access up for the two that use the host, no byte it reads held by another command and no streamed page lost:
the command is then run; its runs of bytes, none of LOAM_RELEASE, are written in order; every byte of the package outside
them and, when no run lies in tier 4, all of host memory stay; every other context and every register stays. While host
access is down for one that uses it, or a byte it reads is held, nothing changes; while a page that it streams comes from a
package that cannot be reached, it is only reported, once, when late. LOAM_ACQUIRE runs once every page is present, and
writes nothing; until then it fetches the absent ones. With no such command nothing changes. (R141, R144, R146, R147, R152,
R153, R195, R196, R363, R554) -/
def Obligations.DmaCommandsComplete : Prop :=
  (∀ (s : State) (c : Nat) (i : Instr) (op : Op), (i, op) ∈ dmaRows c →
    (∀ x, underWay s c x op →
      let waits : Prop := (usesHost op = true ∧ s.hif.access = false) ∨ s.readsHeld c op x.desc = true
      let lost := s.streamLost c op x.desc x.streams
      let rs := dmaRun (s.ctxByte c) op x.desc (s.ctx c).seed x.step
      let u := rs.foldl (fun u r => u.ctxPutRun c r.tier r.off r.bytes) s
      (¬ waits → lost = false → completes i s fun t =>
        (t.ctx c).cmd = some { x with done := true } ∧ t.mem = u.mem ∧ t.host = u.host ∧
        (∀ a, (∀ r ∈ rs, ∀ k, k < r.bytes.length → ctxDpa s c r.tier (r.off + k) ≠ some a) → t.rd a = s.rd a) ∧
        ((∀ r ∈ rs, r.tier ≠ 4) → t.host = s.host) ∧
        (∀ d, d ≠ c → t.ctx d = s.ctx d) ∧ t = { s with ctxs := t.ctxs, mem := t.mem, host := t.host }) ∧
      (waits → exec i s = .next s) ∧
      (¬ waits → lost = true → exec i s = .next (s.reportStream c x)) ∧
      (op = .loamRelease → rs = [])) ∧
    ((∀ x, ¬ underWay s c x op) → exec i s = .next s)) ∧
  (∀ (s : State) (c : Nat),
    (∀ x, underWay s c x .loamAcquire →
      let absent := s.absentPages c ((s.sliceOf c).getD 0) (loamPagesOf (opReads .loamAcquire x.desc))
      (absent = [] → exec (.loamAcquire c) s = .next (s.setCtx c { s.ctx c with cmd := some { x with done := true } })) ∧
      (absent ≠ [] → exec (.loamAcquire c) s = .next (s.fetchPages c x.desc))) ∧
    ((∀ x, ¬ underWay s c x .loamAcquire) → exec (.loamAcquire c) s = .next s))

/-- What each DMA command that moves bytes writes. A linear COPY writes at DST the ROWS × LENGTH bytes read at SRC. COPY_2D,
HOST_READ and HOST_WRITE write row r, LENGTH bytes read at SRC + r × SRC_PITCH, at DST + r × DST_PITCH. FILL writes LENGTH /
element copies of the fill element into each row. FILL_RANDOM writes into row r the logical elements r × n to r × n + n - 1,
of which LENGTH holds n. GATHER writes row j from SRC + index j × SRC_PITCH. TRANSPOSE writes element (l, k) of its lanes
and steps at panel l / 128, from row l and column k of its source; TO_PANELS the same from row k and column l. Each writes
no further run. (R141, R144, R146, R147, R554) -/
def Obligations.DmaMovesTheBytesItNames : Prop :=
  ∀ (rd : TierRead) (d : Desc) (seed step : Nat),
    let runs (op : Op) := dmaRun rd op d seed step
    let cols := d.dmaLength / d.elemBytes
    let place (l k : Nat) : Nat := tierOff d.dmaDst + l / 128 * d.dmaDstPitch + k * 128 * d.elemBytes + l % 128 * d.elemBytes
    let from_ (r c : Nat) : Bytes := readRun rd (tierOf d.dmaSrc) (tierOff d.dmaSrc + r * d.dmaSrcPitch + c * d.elemBytes) d.elemBytes
    runs .copy = [⟨tierOf d.dmaDst, tierOff d.dmaDst, readRun rd (tierOf d.dmaSrc) (tierOff d.dmaSrc) (d.dmaRows * d.dmaLength)⟩] ∧
    (∀ op, op ∈ [Op.copy2d, .hostRead, .hostWrite, .fill, .fillRandom, .gather] → (runs op).length = d.dmaRows) ∧
    (∀ op, op ∈ [Op.transpose, .toPanels] → (runs op).length = d.dmaRows * cols) ∧
    (∀ op, op ∈ [Op.copy2d, .hostRead, .hostWrite] → ∀ r, r < d.dmaRows → (runs op)[r]? =
      some ⟨tierOf d.dmaDst, tierOff d.dmaDst + r * d.dmaDstPitch,
        readRun rd (tierOf d.dmaSrc) (tierOff d.dmaSrc + r * d.dmaSrcPitch) d.dmaLength⟩) ∧
    (∀ r, r < d.dmaRows → (runs .fill)[r]? =
      some ⟨tierOf d.dmaDst, tierOff d.dmaDst + r * d.dmaDstPitch, (List.replicate cols (fillElem d)).flatten⟩) ∧
    (∀ r, r < d.dmaRows → (runs .fillRandom)[r]? =
      some ⟨tierOf d.dmaDst, tierOff d.dmaDst + r * d.dmaDstPitch,
        let n := d.dmaLength / dmaLogical .fillRandom d
        (List.range n).flatMap fun c => randomElem d seed step (r * n + c)⟩) ∧
    (∀ r, r < d.dmaRows → (runs .gather)[r]? =
      some ⟨tierOf d.dmaDst, tierOff d.dmaDst + r * d.dmaDstPitch,
        readRun rd (tierOf d.dmaSrc) (tierOff d.dmaSrc +
          leNat (readRun rd (scrTier d.dmaIdxAddr) (scrOff d.dmaIdxAddr + 4 * r) 4) * d.dmaSrcPitch) d.dmaLength⟩) ∧
    (∀ l k, l < d.dmaRows → k < cols →
      (runs .transpose)[l * cols + k]? = some ⟨tierOf d.dmaDst, place l k, from_ l k⟩) ∧
    (∀ l k, l < cols → k < d.dmaRows →
      (runs .toPanels)[l * d.dmaRows + k]? = some ⟨tierOf d.dmaDst, place l k, from_ k l⟩)

/-- Every fabric command runs: results land in local memory, store data in staging. FLOAD writes the LENGTH bytes that have
landed at LOCAL; FSTORE and FSTORE_SHARED take their source into staging and write no memory; FFETCH_ADD_I64, FSWAP_I64 and
FCAS_I64 write the prior values that have landed at RESULT_LOCAL; FADD_I64, FADD_F32_FAST and FADD_KREC write nothing here.
In each the command is then run, and no other context, register or unit changes. While another command holds a byte that a
store reads, the store waits and nothing changes. With no such command nothing changes. (R51, R152, R355, R356, R357) -/
def Obligations.FabricCommandsComplete : Prop :=
  ∀ (s : State) (c : Nat) (i : Instr) (op : Op), (i, op) ∈ fabricRows c →
    (∀ x, underWay s c x op →
      let d : Desc := x.desc
      let stores : Prop := op = .fstore ∨ op = .fstoreShared
      let run : Option (Nat × Bytes) := if op = .fload then some (d.fabLocal, x.landed.run 0 0 d.fabLength)
        else if op = .ffetchAddI64 ∨ op = .fswapI64 ∨ op = .fcasI64 then some (d.fabResultLocal, x.landed.run 0 0 (d.fabLength * 8))
        else none
      let staged : Tab Byte := if op = .fstore ∨ op = .fstoreShared then
          Tab.setRun 0 [] 0 (readRun (s.ctxByte c) (tierOf d.fabLocal) (tierOff d.fabLocal) d.fabLength)
        else x.landed
      (¬ (stores ∧ s.readsHeld c op d = true) → completes i s fun t =>
        (t.ctx c).cmd = some { x with done := true, landed := staged } ∧
        (∀ a b, run = some (a, b) → t.mem = (s.ctxPutRun c (tierOf a) (tierOff a) b).mem ∧
          t.host = (s.ctxPutRun c (tierOf a) (tierOff a) b).host) ∧
        (run = none → t.mem = s.mem ∧ t.host = s.host) ∧
        (∀ e, e ≠ c → t.ctx e = s.ctx e) ∧ t = { s with ctxs := t.ctxs, mem := t.mem, host := t.host }) ∧
      (stores → s.readsHeld c op d = true → exec i s = .next s)) ∧
    ((∀ x, ¬ underWay s c x op) → exec i s = .next s)

/-- NOP, WAIT, WAIT_MEM, FENCE_FABRIC, SET_SEED and READ_TIME run once their condition holds. NOP, SET_SEED and READ_TIME run at
once; WAIT runs when its sync counter is at least VALUE, WAIT_MEM when no other command holds its word and the word is at
least VALUE, and FENCE_FABRIC when every request it counts has been marked. The command is then run, and nothing else
changes. While the condition of WAIT, WAIT_MEM or FENCE_FABRIC does not hold, nothing changes. At its commit SET_SEED sets
the seed, READ_TIME writes the 16 bytes of TIME80 of its time base at DST, and the other four change nothing of their own.
With no such command nothing changes. (R143, R144, R152, R166, R167, R317, R359) -/
def Obligations.HubCommandsComplete : Prop :=
  ∀ (s : State) (c : Nat) (i : Instr) (op : Op), (i, op) ∈ hubRows c →
    (∀ x, underWay s c x op →
      let d : Desc := x.desc
      let ready : Prop :=
        (op = .wait → d.waitValue ≤ s.sync ((s.sliceOf c).getD 0) d.waitCounter) ∧
        (op = .waitMem → s.readsHeld c op d = false ∧
          d.waitMemValue ≤ leNat (readRun (s.ctxByte c) 2 (tierOff d.waitMemAddr) 8)) ∧
        (op = .fenceFabric → ∀ r ∈ x.requests, ∀ q ∈ (s.fab.streams.at r.dest).unmarked, r.seq < q)
      (ready → exec i s = .next (s.setCtx c { s.ctx c with cmd := some { x with done := true } })) ∧
      (¬ ready → exec i s = .next s) ∧
      (op = .setSeed → s.commitOwn c x op = s.setCtx c { s.ctx c with seed := d.seed }) ∧
      (op = .readTime → s.commitOwn c x op = s.ctxPutRun c 0 d.readTimeDst (leBytes 16 (time80 (s.ns d.readTimeTb)))) ∧
      (op ≠ .setSeed → op ≠ .readTime → s.commitOwn c x op = s)) ∧
    ((∀ x, ¬ underWay s c x op) → exec i s = .next s)

namespace Sys2Proof.Claims

/-- Session `n` is open and its role may write entry `r` (R441). -/
abbrev mayWrite (s : State) (n : Nat) (r : Reg) : Prop := s.isOpen n = true ∧ r.writeRight (s.role n) = none

/-- The write `i` of entry `r` by session `n` is taken with effect `u`, and answered. -/
abbrev taken (i : Instr) (s : State) (n : Nat) (r : Reg) (u : State) : Prop := exec i s = .next (u.answerWrite n r.ty)

/-- The write `i` of entry `r` (family index `fam`) by session `n` is ignored with `reason`, counted and answered. -/
abbrev ignored (i : Instr) (s : State) (n : Nat) (r : Reg) (fam reason : Nat) : Prop :=
  exec i s = .next ((s.ignoreWrite n (r.index + fam) r.sub reason).answerWrite n r.ty)

/-- The write `i` of a number to entry `r`: without an open session it does nothing, without the right it is ignored. -/
abbrev guarded (i : Instr) (s : State) (n : Nat) (r : Reg) (fam : Nat) : Prop :=
  (s.isOpen n = false → exec i s = .next s) ∧
  (s.isOpen n = true → ∀ e, r.writeRight (s.role n) = some e → ignored i s n r fam e)

/-- The write `i` of octets `v` to entry `r`: without an open session it does nothing, of a wrong length it is a malformed request,
without the right it is ignored. -/
abbrev guardedOctets (i : Instr) (s : State) (n : Nat) (r : Reg) (fam : Nat) (v : Bytes) : Prop :=
  (s.isOpen n = false → exec i s = .next s) ∧
  (s.isOpen n = true → r.sizeOk v.length = false → exec i s = .next (s.answer n (s.opResult n 0x02 r.ty []))) ∧
  (s.isOpen n = true → r.sizeOk v.length = true → ∀ e, r.writeRight (s.role n) = some e → ignored i s n r fam e)

end Sys2Proof.Claims

/-- SPILL_DONE, BE_RECLAIM, CLEAR_DONE and AGE_TICK complete. SPILL_DONE of an LC context, and BE_RECLAIM of a BE context that
overlaps no LC context with a command within the last LC_RECLAIM_US, with a command waiting and only idle contexts to
displace, exchange the scratchpads' bytes, and make it the resident owner of every granule where it has an engine and a hood
area; turn holders that are no longer ready then give up their turns; in any other case nothing changes. CLEAR_DONE of an
allocation being cleared on its engine ends the clearing: every byte of it in the scratchpads reads 0, every other byte
stays, its uncorrectable words are gone, the engine's parameter store is cleared but for the bank that a running command
uses, and nothing else changes; of any other context it does nothing. AGE_TICK adds one to the age, up to 255, of every
resident page to which no reference is held, and changes nothing else. (R96, R178, R184, R185, R197, R209, R239, R243, R461) -/
def Obligations.AllocationEventsComplete : Prop :=
  (∀ (s : State) (c : Nat),
    let due := (s.ctx c).waits = true ∧ s.mayExchange c = true
    (s.isLc c = true → due → exec (.spillDone c) s = .next (s.exchange c).yieldTurns) ∧
    (¬ (s.isLc c = true ∧ due) → exec (.spillDone c) s = .next s) ∧
    (s.isLc c = false → s.overlapIdle c = true → due → exec (.beReclaim c) s = .next (s.exchange c).yieldTurns) ∧
    (¬ (s.isLc c = false ∧ s.overlapIdle c = true ∧ due) → exec (.beReclaim c) s = .next s) ∧
    (∀ e h, (s.ctx c).live = true → (s.ctx c).alloc.engine = some e → (s.ctx c).alloc.hood = some h →
      ((s.exchange c).ctx c).alloc.spilled = [] ∧ ((s.exchange c).ctx c).cmd = (s.ctx c).cmd)) ∧
  (∀ (s : State) (c e : Nat), (s.ctx c).live = true → (s.ctx c).alloc.clearing = true → (s.ctx c).alloc.engine = some e →
    let a := (s.ctx c).alloc
    let cleared (x : Nat) : Prop :=
      (∃ k, k < a.privBytes / granule * granule ∧ k / granule ∉ a.spilled ∧ x = privDpa e + a.privBase + k) ∨
      ∃ k, k < a.sharedBytes ∧ x = sharedDpa (e / 8) + a.sharedBase + k
    completes (.clearDone c) s fun t => (t.ctx c).alloc = { a with clearing := false } ∧ (∀ d, d ≠ c → t.ctx d = s.ctx d) ∧
      (∀ x, (cleared x → t.rd x = 0) ∧ (¬ cleared x → t.rd x = s.rd x)) ∧
      t = { s with ctxs := t.ctxs, mem := t.mem, engines := (s.clearStore e).engines
                   tier := { s.tier with badWords := t.tier.badWords } }) ∧
  (∀ (s : State) (c : Nat), (s.ctx c).alloc.clearing = false ∨ (s.ctx c).alloc.engine = none →
    exec (.clearDone c) s = .next s) ∧
  (∀ s : State, completes .ageTick s fun t => t = { s with tier := { s.tier with pages := t.tier.pages } } ∧
    t.tier.pages.length = s.tier.pages.length ∧
    ∀ k x, (k, x) ∈ s.tier.pages →
      let age := if s.pageCount x.slice x.page x.entry = 0 then min 255 (x.age + 1) else x.age
      (k, { x with age := age }) ∈ t.tier.pages)

/-- FETCH_COMPLETION, PREFETCH_START and LOAM_MAP_COMMIT complete. FETCH_COMPLETION of a fetch that has its frame, ended well
from a readable source of which no command holds a byte, fills the frame, lists the page in it, ends the fetch, counts it
and looks at the slice's drops at the end of the cycle; ended badly, or from a source with an uncorrectable word, it fails
the fetch; with no such fetch, host access down for a page of the host, or a held source, nothing changes. PREFETCH_START
starts the fetch of the first page queued that is still due, with a free frame where it finds one, else to wait for a frame
until the end of the cycle; with none due, or over the quota, the queue is emptied. LOAM_MAP_COMMIT by a session that may
write it, with host access up, a map without a faulty entry, no change to a referenced entry, no switch or lookup of the
former copy under way and the next epoch, leaves the map pending; otherwise it is ignored with the first of 0x8010, 0x8011,
0x8012 and 0x8013 that holds; with host access down it is ignored with 0x8013 or, counted and reported, 0x8018. The next
check of a context of the slice makes the pending map current, keeps the former copy for commands under way, and moves the
epoch on. (R152, R195, R196, R198, R200, R201, R202, R204, R207, R208, R209, R213) -/
def Obligations.LoamEventsComplete : Prop :=
  (∀ (s : State) (n p : Nat) (peer : Bytes) (r : FetchResult),
    let mine := s.tier.fetches.find? fun f => f.slice = n ∧ f.page = p ∧ f.frame ≠ none
    (mine = none → exec (.fetchCompletion n p peer r) s = .next s) ∧
    ∀ f k, mine = some f → f.frame = some k →
      let waits : Prop := (entryKind f.entry = 0 ∧ s.hif.access = false) ∨ s.sourceHeld n f.entry = true
      (r ≠ .ok → exec (.fetchCompletion n p peer r) s = .next (s.fetchFailed f)) ∧
      (r = .ok → waits → exec (.fetchCompletion n p peer r) s = .next s) ∧
      (r = .ok → ¬ waits →
        (s.sourceBad n f.entry = true → exec (.fetchCompletion n p peer r) s = .next (s.fetchFailed f)) ∧
        (s.sourceBad n f.entry = false → completes (.fetchCompletion n p peer r) s fun t => t = s.installPage f k ∧
          t.mem = (s.fillFrame n k f.entry).mem ∧
          t.tier.pages = s.tier.pages.put k { slice := n, page := p, entry := f.entry, age := 0 } ∧
          t.tier.fetches = s.tier.fetches.filter (· ≠ f) ∧ n ∈ t.tier.due ∧ t.ctxs = s.ctxs))) ∧
  (∀ (s : State) (n : Nat),
    (s.prefetchDue n = [] ∨ s.loamOver n = true → exec (.prefetchStart n) s = .next (s.setPrefetch n [])) ∧
    ∀ p ps, s.prefetchDue n = p :: ps → s.loamOver n = false →
      let f := s.freePoolFrame n
      let e := (f.2.loamMap n).entries.get 0 p
      let x : Fetch := { slice := n, page := p, entry := e, frame := f.1, demand := [], again := false }
      exec (.prefetchStart n) s =
        .next ({ f.2 with tier := { f.2.tier with fetches := f.2.tier.fetches ++ [x] } }.setPrefetch n ps)) ∧
  (∀ (s : State) (n m v : Nat), mayWrite s m .loamMapCommit →
    let range := ∃ x ∈ s.hostMap n, s.entryRange n x.2 = true
    let reserved := ∃ x ∈ s.hostMap n, entryReserved x.2 = true
    let changed := s.refChanges n (s.hostMap n) = true
    let late := s.mapBusy n = true ∨ v % 2 ^ 32 ≠ (s.reg .loamMapEpoch n + 1) % 2 ^ 32
    (s.hif.access = true →
      (range → ignored (.loamMapCommit m n v) s m .loamMapCommit n 0x8010) ∧
      (¬ range → reserved → ignored (.loamMapCommit m n v) s m .loamMapCommit n 0x8011) ∧
      (¬ range → ¬ reserved → changed → ignored (.loamMapCommit m n v) s m .loamMapCommit n 0x8012) ∧
      (¬ range → ¬ reserved → ¬ changed → late → ignored (.loamMapCommit m n v) s m .loamMapCommit n 0x8013) ∧
      (¬ range → ¬ reserved → ¬ changed → ¬ late →
        taken (.loamMapCommit m n v) s m .loamMapCommit (s.pendMap n (s.hostMap n)))) ∧
    (s.hif.access = false → s.tidy →
      (late → ignored (.loamMapCommit m n v) s m .loamMapCommit n 0x8013) ∧
      (¬ late → exec (.loamMapCommit m n v) s = .next (((s.ignoreWrite m (Reg.loamMapCommit.index + n) Reg.loamMapCommit.sub
        0x8018).answerWrite m Reg.loamMapCommit.ty).mapReadFailed n)))) ∧
  ∀ (s : State) (c n : Nat) (new : Tab Nat), s.sliceOf c = some n → (s.loamMap n).next = some new → s.tier.maps.rising →
    (s.takeMap c).loamMap n = ⟨new, (s.loamMap n).entries, none⟩ ∧ s.mapStatus n = 1

/-- LOAM_QUOTA_PAGES, PRIV_QUOTA_FRAMES, SP_QUOTA_BYTES and LC_FLOOR_BYTES complete. Written by a session that may write them:
LOAM_QUOTA_PAGES takes the value, and drops over the quota are due at the end of the cycle, but a sealed slice's value with
which the sealed slices' reservations would exceed the pool is ignored with 0x8016; PRIV_QUOTA_FRAMES takes the value, and
regions shrink and grow to it; SP_QUOTA_BYTES takes the value, and one below what the slice has allocated cuts allocations
from the highest context down, at their boundaries; LC_FLOOR_BYTES, a multiple of 64 KiB up to 4 MiB, takes the value, and
an engine with a BE allocation below it keeps the floor in force there. (R199, R204, R205, R206, R211) -/
def Obligations.QuotaWritesComplete : Prop :=
  ∀ (s : State) (m n v : Nat), v < 2 ^ 32 →
    (mayWrite s m .loamQuotaPages →
      let others := (((List.range 64).filter fun k => k ≠ n && s.sealed k).map fun k => s.reg .loamQuotaPages k).sum
      (s.sealed n = false ∨ others + v ≤ s.tier.loamFrames →
        taken (.loamQuotaPages m n v) s m .loamQuotaPages ((s.setReg .loamQuotaPages v n).sweepLoam n)) ∧
      (s.sealed n = true → s.tier.loamFrames < others + v → ignored (.loamQuotaPages m n v) s m .loamQuotaPages n 0x8016)) ∧
    (mayWrite s m .privQuotaFrames →
      taken (.privQuotaFrames m n v) s m .privQuotaFrames (s.setReg .privQuotaFrames v n).settleRegions) ∧
    (mayWrite s m .spQuotaBytes →
      let u := s.setReg .spQuotaBytes v n
      (u.spBytes n ≤ v → taken (.spQuotaBytes m n v) s m .spQuotaBytes u) ∧
      (v < u.spBytes n → taken (.spQuotaBytes m n v) s m .spQuotaBytes
        ((u.sliceCtxs n).foldl (fun t c => t.tryBoundary c) (u.cutAllocations (u.sliceCtxs n).reverse (u.spBytes n - v))))) ∧
    (mayWrite s m .lcFloorBytes → v ≤ 4194304 → v % 65536 = 0 →
      let below (e : Nat) : Bool := (s.classOn e false).any fun c =>
        decide (0 < (s.ctx c).alloc.privBytes) && decide ((s.ctx c).alloc.privBase < v)
      let floor (e : Nat) : Nat := match s.tier.floors.get 0 e with
        | 0 => s.reg .lcFloorBytes
        | k + 1 => k
      ∃ t : State, taken (.lcFloorBytes m v) s m .lcFloorBytes (t.setReg .lcFloorBytes v) ∧
        t = { s with tier := { s.tier with floors := t.tier.floors } } ∧
        ∀ e, e < 128 → t.tier.floors.get 0 e = if below e then floor e + 1 else 0)

/-- TILTH_LOAD_DATA, TILTH_PREPARED, WINDOW_START, WINDOW_END and RADIO_START complete. TILTH_LOAD_DATA of 16 to 1024 bytes, a
multiple of 16, by a session that may write: with no commit under way and within the shadow the bytes are written at
TILTH_LOAD_OFFSET, which advances; beyond its end it is ignored with 0x8010, and otherwise, with a commit under way, with
0x8012. TILTH_PREPARED makes every copy ready where no tenant allocation lies in a radio region and no planned move is open,
and engines that no time base is bound to take new region sizes; else it changes nothing. WINDOW_START of the first
occurrence of its number that is current in the copy of its time base and has not begun lists it, with its end and the
engine that copy binds to a KIND 0 entry, whose IN_WINDOW it sets; a KIND 1 window begins on its core; another kind changes
nothing else; one listed before whose end has passed ends and begins again; where every such occurrence has begun, or none
is current, nothing changes. WINDOW_END of an occurrence that is over removes it, with what its kind does; else nothing
changes. RADIO_START of the command at the head of a radio queue, in its cell's window with time for its count, on a free
engine, with no hold in its way, starts it there: queue advanced on its first start, parameters loaded, first pass begun,
engine busy; one that is stale counts, and one with a reserved record is ignored with 0x0308; without time, engine or window
it waits. (R63, R94, R96, R152, R175, R214, R221, R222, R227, R259, R279, R280) -/
def Obligations.TilthAndWindowCommandsComplete : Prop :=
  (∀ (s : State) (m : Nat) (v : Bytes), mayWrite s m .tilthLoadData → 16 ≤ v.length → v.length ≤ 1024 → v.length % 16 = 0 →
    let o := s.reg .tilthLoadOffset
    (o + v.length ≤ 65552 → s.tilthStatus = 0 → taken (.tilthLoadData m v) s m .tilthLoadData
      (({ s with tilth := { s.tilth with shadow := s.tilth.shadow.setRun 0 o v, loaded := true } }).setReg .tilthLoadOffset
        (o + v.length))) ∧
    (65552 < o + v.length → ignored (.tilthLoadData m v) s m .tilthLoadData 0 0x8010) ∧
    (o + v.length ≤ 65552 → s.tilthStatus ≠ 0 → ignored (.tilthLoadData m v) s m .tilthLoadData 0 0x8012)) ∧
  (∀ s : State,
    (s.displaced = [] → s.moving = [] → exec .tilthPrepared s = .next
      ({ s with tilth := { s.tilth with copies := s.tilth.copies.map fun c => { c with ready := true } } } : State).resizeUnbound) ∧
    (s.displaced ≠ [] ∨ s.moving ≠ [] → exec .tilthPrepared s = .next s)) ∧
  (∀ (s : State) (i k : Nat),
    let due (e : Nat) : Bool := match s.underWay e i k with
      | none => true
      | some w => s.windowPast w
    ((s.currentEntries i k).find? due = none → exec (.windowStart i k) s = .next s) ∧
    ∀ e, (s.currentEntries i k).find? due = some e →
      let stop := match (occurrences e)[k]? with
        | some o => (s.ns (tilthTb e) + (o.2 - s.inFrame (tilthTb e))) % 2 ^ 64
        | none => 0
      let g := if tilthKind e = 0 then s.engineFor (tilthTb e) (tilthUnit e) else none
      let u := { s with tilth := { s.tilth with windows := s.tilth.windows ++ [{ key := windowKey e i k, stop, engine := g }] } }
      (s.underWay e i k = none →
        (∀ f, g = some f → exec (.windowStart i k) s = .next (u.setInWindow f true)) ∧
        (tilthKind e = 1 → exec (.windowStart i k) s = .next (u.coreWindow (tilthUnit e) (tilthCell e) (tilthTb e) stop)) ∧
        (g = none → tilthKind e ≠ 1 → exec (.windowStart i k) s = .next u)) ∧
      ∀ w, s.underWay e i k = some w → exec (.windowStart i k) s = .next ((s.windowEnds w).windowStarts e i k)) ∧
  (∀ (s : State) (i k : Nat),
    (s.windowOf i k = none → exec (.windowEnd i k) s = .next s) ∧
    ∀ w, s.windowOf i k = some w →
      (s.windowOver k w = false → exec (.windowEnd i k) s = .next s) ∧
      (s.windowOver k w = true → completes (.windowEnd i k) s fun t => t = s.windowEnds w ∧
        t.tilth = { s.tilth with windows := s.tilth.windows.filter (· ≠ w) } ∧ t.mem = s.mem ∧ t.ctxs = s.ctxs)) ∧
  (∀ (s : State) (l ak : Nat),
    s.radioCmd l = none ∨ s.ownWindow l (tagCell (s.radioTag l)) = none → exec (.radioStart l ak) s = .next s) ∧
  (∀ (s : State) (l e ak now stop : Nat) (x : Cmd) (op : Op), s.radioCmd l = some x →
    x.op = some op → s.ownWindow l (tagCell (s.radioTag l)) = some (e, now, stop) →
    let hit := runsHit (((opReads op x.desc) ++ (opWrites op x.desc)).flatMap (s.radioView e).runs)
      (s.heldRuns (some (.radio l)))
    let may : Prop := (x.phase = .waiting ∨ x.phase = .rerun) ∧ s.engineFree e = true ∧ now + countBound x.count ≤ stop ∧ hit = false
    let bad := !x.checked && op.isMatrix && (matInputRecords (s.radioByte e) op x.desc).any recordReserved
    (¬ may → exec (.radioStart l ak) s = .next s) ∧
    (may → 256 < ak → exec (.radioStart l ak) s = .next (s.bump .staleGrants)) ∧
    (may → ak ≤ 256 → bad = true → exec (.radioStart l ak) s =
      .next ((((s.countRadioIgnored 0x0308).qRead (radioQueue l) 1).setRadioCmd l none).radioCheck l)) ∧
    (may → ak ≤ 256 → bad = false →
      let u := if x.phase = .waiting then s.qRead (radioQueue l) 1 else s
      let u := u.setRadioCmd l (some { x with phase := .started, startCk := u.ck, engine := e, done := false, checked := true })
      let u := u.loadParams e (u.radioByte e) op x.desc
      let u := u.modEngine e fun y => { y with running := some (.radio l) }
      let u := (u.beginPass e (u.radioByte e) op x.desc 0).engineBusy e 0 (modeOf op x.desc) 3
      completes (.radioStart l ak) s fun t => t = u ∧ t.mem = s.mem ∧ (t.engine e).running = some (.radio l) ∧
        t.radioCmd l = some { x with phase := .started, startCk := s.ck, engine := e, done := false, checked := true }))

/-- CLASS and MOVE complete. Written by a session that may write them: CLASS 0 for a context whose slice may not have LC
contexts is ignored with 0x8012, and CLASS above 1 with 0x8010; otherwise a context that does not exist takes CLASS at once,
and a live one at its next commit boundary. MOVE to an engine above 127 is ignored with 0x8010, of a context that does not
exist with 0x8012, and to an engine that does not fit it with 0x8016; otherwise the move is asked for at the context's next
boundary, applied at once where the context may move, and its next command is checked. (R233, R241, R246) -/
def Obligations.ClassAndMoveComplete : Prop :=
  (∀ (s : State) (m c v : Nat), mayWrite s m .ctxClass → s.selected m .ctx = c → v < 256 →
    let allowed := ∃ n, s.sliceOf c = some n ∧ s.reg .lcAllowed n = 1
    (1 < v → ignored (.setClass m v) s m .ctxClass 0 0x8010) ∧
    (v = 0 → ¬ allowed → ignored (.setClass m v) s m .ctxClass 0 0x8012) ∧
    (v ≤ 1 → (v = 0 → allowed) →
      ((s.ctx c).live = false → taken (.setClass m v) s m .ctxClass (s.setReg .ctxClass v c)) ∧
      ((s.ctx c).live = true →
        taken (.setClass m v) s m .ctxClass ((s.modWanted c fun w => { w with cls := some v }).tryBoundary c)))) ∧
  (∀ (s : State) (m c e : Nat), mayWrite s m .ctxMove → s.selected m .ctx = c → e < 256 →
    (127 < e → ignored (.move m e) s m .ctxMove 0 0x8010) ∧
    (e ≤ 127 → (s.ctx c).live = false → ignored (.move m e) s m .ctxMove 0 0x8012) ∧
    (e ≤ 127 → (s.ctx c).live = true → s.criterion1 c e = false → ignored (.move m e) s m .ctxMove 0 0x8016) ∧
    (e ≤ 127 → (s.ctx c).live = true → s.criterion1 c e = true →
      taken (.move m e) s m .ctxMove (((s.modWanted c fun w => { w with engine := some e, spot := none }).tryBoundary c).checkNext c)))

/-- A tilth commit is refused with the first of its nine reasons, and taken when none holds. The commit of a value is refused
with reason 0x8100 + r for the least r of the nine checks that fails: format, epoch or digest, a commit still pending,
overlap, binding, engines, room, bandwidth, power. When none fails the shadow becomes a further copy, not ready, radio
regions of engines named for the first time open, and the displaced contexts are asked to move as planned. (R222, R223,
R245, 14_management_dictionary.md) -/
def Obligations.TilthCommitNamesTheFirstFault : Prop :=
  ∀ (s : State) (v : Bytes),
    let es := s.shadowEntries
    let u := (s.withCopy s.newCopy).openRegions s.namedEngine
    let fails (r : Nat) : Prop :=
      (r = 1 ∧ s.tilthFormatBad = true) ∨
      (r = 2 ∧ (leAt v 0 4 ≠ (s.reg .tilthEpoch + 1) % 2 ^ 32 ∨ slice v 4 64 ≠ s.shadowDigest)) ∨
      (r = 3 ∧ 1 < s.tilth.copies.length) ∨ (r = 4 ∧ tilthOverlap es = true) ∨ (r = 5 ∧ tilthBindingBad es = true) ∨
      (r = 6 ∧ (s.bindTable es).length < (tilthLogicals es).length) ∨ (r = 7 ∧ u.plan = none) ∨
      (r = 8 ∧ bandwidthOk s.build.stackMask es s.sealedStackShare s.sealedMeshShare = false) ∨
      (r = 9 ∧ 256 * 1000 * s.reg .powerCapW < s.padm256 es)
    (∀ r, fails r → (∀ q, q < r → ¬ fails q) → State.tilthCommit v s = .error (0x8100 + r)) ∧
    ((∀ r, ¬ fails r) → State.tilthCommit v s = .ok (u.askMoves u.displaced u.plan) ∧
      (∃ old, u.tilth.copies = old ++ [s.newCopy]) ∧ s.newCopy.ready = false ∧ s.newCopy.entries = es)

namespace Sys2Proof.Claims

/-- Core `core` issues its next bundle: it runs a handler, does not stall, and no word of the bundle or of its data memory is
uncorrectable. -/
abbrev coreIssues (s : State) (core : Nat) : Prop :=
  (s.core core).runs = true ∧ s.badBundle core = false ∧ ∀ a, s.isBad (badData core a) = false

/-- Command `i` issues the bundle around it on core `core`: where its stage executes, `now` with the values from before the cycle's writes;
the operations beside it; the bundle's advance; and, where its stage executes, `later`. -/
def issued (i : Instr) (s : State) (core : Nat) (x : Slots) (now later : State → State) : Prop :=
  let u := s.modCore core DspCore.settle
  let c := u.core core
  let on := c.stageOn x.stage
  let v := if on then now u else u
  let r := c.beside (v.core core) x.a x.b x.c
  let w := (v.bump .dspSat core r.2).modCore core fun _ => r.1.advance
  exec i s = .next (if on then later w else w)

/-- The same of a command that changes its core alone: `now` and `later` are changes of the core. Nothing else changes but DSP_SAT. -/
def issuedOnCore (i : Instr) (s : State) (core : Nat) (x : Slots) (now later : DspCore → DspCore) : Prop :=
  let c := (s.core core).settle
  let on := c.stageOn x.stage
  let r := c.beside (if on then now c else c) x.a x.b x.c
  completes i s fun t => t.core core = (if on then later r.1.advance else r.1.advance) ∧
    (∀ m, m ≠ core → t.core m = s.core m) ∧
    t = { s.bump .dspSat core r.2 with radio := { s.radio with cores := t.radio.cores } }

end Sys2Proof.Claims

/-- BUNDLE, LOOPM, LOOP and the ACS operations complete, and change their core alone. On a core that issues, with writes that
are due already landed, each with the operations of the other slots beside it, and in an iteration that executes its stage:
BUNDLE runs its slots; LOOPM with n, s and ii in range, no LOOPM open and fewer than four loops opens a loop of ii bundles
run n + s − 1 times and sets RRB to 0; LOOP with fewer than four loops opens a loop of len bundles run n times; ACS.SETUP
sets mode, polynomials and registers; ACS.STEP advances metrics and decisions by one stage; ACS.LOADPM and ACS.STOREPM move
the 64 metrics from and to a register; ACS.BEST starts trace-back from the best state; ACS.TB, which takes slot A, goes one
stage back by the decision bit. No other core and no other state changes, but for DSP_SAT. On a core that runs no handler or
stalls nothing happens, a bundle with an uncorrectable word stops the core, and so does one that loads such a word of data.
(R250, R251, R252, R254, R255, R256, R257, R258, R462) -/
def Obligations.CoreOperationsComplete : Prop :=
  (∀ (s : State) (core : Nat), coreIssues s core →
    let c := (s.core core).settle
    (∀ b : Bundle, completes (.bundle core b) s fun t => t.core core = (c.run b).1 ∧ (∀ m, m ≠ core → t.core m = s.core m) ∧
      t = { s.bump .dspSat core (c.run b).2 with radio := { s.radio with cores := t.radio.cores } }) ∧
    ∀ x : Slots,
      (∀ k st ii, 1 ≤ k → k ≤ 65535 → 1 ≤ st → st ≤ 16 → 1 ≤ ii → ii ≤ 64 → c.loops.length < 4 → (∀ l ∈ c.loops, l.s = 0) →
        issuedOnCore (.loopm ⟨core, x⟩ k st ii) s core x id
          fun n => { n with loops := ⟨n.pc, ii, k + st - 1, 0, k, st⟩ :: n.loops, rrb := 0 }) ∧
      (∀ k len, 1 ≤ k → 1 ≤ len → c.loops.length < 4 →
        issuedOnCore (.loop ⟨core, x⟩ k len) s core x id fun n => { n with loops := ⟨n.pc, len, k, 0, k, 0⟩ :: n.loops }) ∧
      (∀ mode polys soft dec, issuedOnCore (.acsSetup ⟨core, x⟩ mode polys soft dec) s core x (fun n => { n with acs := { n.acs with
        t8 := decide (mode ≠ .k7)
        back := decide (mode = .t8Back)
        polys := polys
        softReg := soft
        softAt := 0
        decReg := dec
        decAt := 0 } }) id) ∧
      issuedOnCore (.acsStep ⟨core, x⟩) s core x (fun n =>
        let a := n.acs
        let off := if 128 < a.softAt + a.softLen then 0 else a.softAt
        let r := a.stage ((slice (n.vBytes (n.vPhys a.softReg)) off a.softLen).map BitVec.toNat)
        { n with
          acs := { a with metrics := Tab.setRun 0 [] 0 r.1, softAt := off + a.softLen, decAt := (a.decAt + 8) % 128 }
          v := n.v.setRun 0 (n.vPhys a.decReg * 128 + a.decAt) (leBytes 8 (bitsNat r.2)) }) id ∧
      (∀ v, issuedOnCore (.acsLoadpm ⟨core, x⟩ v) s core x (fun n => { n with acs := { n.acs with
        metrics := Tab.setRun 0 [] 0 ((List.range 64).map fun i => leAt (n.vBytes (n.vPhys v)) (2 * i) 2) } }) id) ∧
      (∀ v, issuedOnCore (.acsStorepm ⟨core, x⟩ v) s core x
        (fun n => { n with v := n.v.setRun 0 (n.vPhys v * 128) ((n.acs.metrics.run 0 0 64).flatMap (leBytes 2)) }) id) ∧
      (∀ g, issuedOnCore (.acsBest ⟨core, x⟩ g) s core x (fun n =>
        let b := bestState (n.acs.metrics.get 0) 63
        { n.post 1 0 g [b] with acs := { n.acs with tbState := b } }) id) ∧
      (∀ a g, issuedOnCore (.acsTb ⟨core, x⟩ a g) s core { x with a := none } (fun n =>
        let y := n.acs.tbState
        let d := bit (leNat (n.read (a % 2 ^ 18) 8)) y
        { n.post 1 0 g [y % 2] with acs := { n.acs with tbState := y / 2 + if d then 32 else 0 } }) id)) ∧
  ∀ (s : State) (core k ii v a : Nat) (b : Bundle) (x : Slots) (mode : AcsMode) (polys : List Nat),
    let rows := [Instr.bundle core b, .acsSetup ⟨core, x⟩ mode polys k v, .acsStep ⟨core, x⟩, .acsLoadpm ⟨core, x⟩ v, .acsStorepm ⟨core, x⟩ v,
      .acsBest ⟨core, x⟩ k, .acsTb ⟨core, x⟩ a k]
    let loops : Prop := 1 ≤ k ∧ k ≤ 65535 ∧ 1 ≤ ii ∧ ii ≤ 64 ∧ (s.core core).loopsFull true = false
    ((s.core core).runs = false → (∀ i ∈ rows, exec i s = .next s) ∧ exec (.loopm ⟨core, x⟩ k 1 ii) s = .next s ∧
      exec (.loop ⟨core, x⟩ k ii) s = .next s) ∧
    ((s.core core).runs = true → s.badBundle core = true → (∀ i ∈ rows, exec i s = .next (s.codeFault core)) ∧
      (loops → exec (.loopm ⟨core, x⟩ k 1 ii) s = .next (s.codeFault core) ∧ exec (.loop ⟨core, x⟩ k ii) s = .next (s.codeFault core))) ∧
    ((s.core core).runs = true → s.badBundle core = false →
      let u := s.modCore core DspCore.settle
      (∀ p, u.badRun core ((u.core core).loadRuns b.a b.b) = some p → exec (.bundle core b) s = .next (u.dataFault core p)) ∧
      ∀ p, u.badRun core ((u.core core).loadRuns x.a x.b) = some p →
        exec (.acsStep ⟨core, x⟩) s = .next (u.dataFault core p) ∧ exec (.acsBest ⟨core, x⟩ k) s = .next (u.dataFault core p))

/-- ACS.BEST finds a state no other exceeds, and the lowest such. Where all 64 metrics lie within a half of the 16-bit circle of
one another, so that signed differences order them, the state that ACS.BEST gives is at most 63, no state's metric exceeds
its metric by signed difference, and no lower state has a metric that it does not exceed. (R257, R258) -/
def Obligations.BestStateIsTheLargestMetric : Prop :=
  ∀ (m : Nat → Nat), (∀ k, k ≤ 63 → m k < 2 ^ 16) →
    (∃ base : Nat → Int, (∀ k, k ≤ 63 → 0 ≤ base k ∧ base k < 2 ^ 15) ∧ ∃ o : Int, ∀ k, k ≤ 63 → (m k : Int) = (o + base k) % 2 ^ 16) →
    bestState m 63 ≤ 63 ∧
    (∀ k, k ≤ 63 → toSigned 16 (m k + 2 ^ 16 - m (bestState m 63)) ≤ 0) ∧
    (∀ k, k < bestState m 63 → toSigned 16 (m k + 2 ^ 16 - m (bestState m 63)) < 0)

/-- UE.RD, UE.WR, UE.SYNC, UE_ACCESS_ARRIVAL, ENGQ, CODE, XFER, HALT and HANDLER_ENTRY complete. On a core that issues, in an
iteration that executes its stage, with the operations of the other slots beside it: UE.RD and UE.WR post an access, the
latter with the 64 bytes it reads; UE.SYNC stalls while accesses are open; HALT leaves the handler and its loops and counts
its cycles; ENGQ of a cell and engine that serve the core is queued where its queue has room and is otherwise ignored with
0x0105, and of another cell or engine with 0x0106; CODE of a job without a fault is queued where the queue has room, ignored
with 0x0105 where not, and with its reason where it has a fault; XFER between the core, the radio's stacked memory and the
radio scratchpads moves the bytes within their bounds, and beyond them nothing, or waits while a byte is held; XFER from a
queue that the core may read moves its head item, XFER to an egress queue makes an item of the bytes or of the compressed
frame, and XFER to the host makes an up record. UE_ACCESS_ARRIVAL of a core's oldest access, where it may not access, is
counted as refused; else a write stores the descriptor, and a read delivers it, or zeros with a report where it is
uncorrectable. HANDLER_ENTRY of an idle core in service with an event due begins the handler of the due type at its bundle,
with cell, SFN, slot and count in G1 to G4; otherwise nothing happens. (R250, R260, R261, R263, R264, R276, R279, R280,
R292, R297, R394, R462) -/
def Obligations.CoreHubCommandsComplete : Prop :=
  (∀ (s : State) (core : Nat) (x : Slots), coreIssues s core →
    (∀ i a, issued (.ueRd ⟨core, x⟩ i a) s core x (fun u : State =>
      { u with radio := { u.radio with ueQueue := u.radio.ueQueue ++ [(⟨core, i, a, none⟩ : UeAccess)] } }.modCore core
        fun c => { c with ueOpen := c.ueOpen + 1 }) id) ∧
    (∀ i a, issued (.ueWr ⟨core, x⟩ i a) s core x (fun u : State =>
      { u with radio := { u.radio with ueQueue := u.radio.ueQueue ++ [(⟨core, i, a, some ((u.core core).read a 64)⟩ : UeAccess)] } }.modCore core
        fun c => { c with ueOpen := c.ueOpen + 1 }) id) ∧
    issued (.ueSync ⟨core, x⟩) s core x id (fun u =>
      u.modCore core fun c => { c with syncing := decide (0 < c.ueOpen), syncCk := s.ck }) ∧
    issued (.halt ⟨core, x⟩) s core x id (fun u =>
      (u.bump .busyBk core ((u.core core).bk - (u.core core).entryBk)).modCore core fun c => { c with handler := none, loops := [] }) ∧
    (∀ l cell a, issued (.engq ⟨core, x⟩ l cell a) s core x (fun u => u.engq core l cell ((u.core core).read a 64)) id) ∧
    (∀ a, issued (.code ⟨core, x⟩ a) s core x (fun u => u.submitJob core ((u.core core).read a 32)) id) ∧
    ∀ o, issued (.xfer ⟨core, x⟩ o) s core x id (fun u => u.xfer core o)) ∧
  (∀ (u : State) (core l cell : Nat) (bs : Bytes),
    let serves := u.cellServes cell core = true ∧ u.logicalServes l core = true
    let p := (u.qPush (radioQueue l) (cell + 256 * core) bs).2
    let full := u.qFree (radioQueue l) = 0 ∧ u.qOn (radioQueue l) = true
    (¬ serves → u.engq core l cell bs = u.countRadioIgnored 0x0106) ∧
    (serves → full → u.engq core l cell bs = p.countRadioIgnored 0x0105) ∧
    (serves → ¬ full → u.engq core l cell bs = p.radioCheck l)) ∧
  (∀ (u : State) (core : Nat) (bs : Bytes),
    let q := 0x1000 + core / 48
    let full := u.qFree q = 0 ∧ u.qOn q = true
    (∀ r, jobReason (leNat bs) = some r → u.submitJob core bs = u.ignoreJob r) ∧
    (jobReason (leNat bs) = none → full → u.submitJob core bs = (u.qPush q core bs).2.ignoreJob 0x0105) ∧
    (jobReason (leNat bs) = none → ¬ full → u.submitJob core bs = (u.qPush q core bs).2)) ∧
  (∀ (u : State) (core a off len : Nat),
    let held (r : Nat × Nat) : Prop := u.notHeld r = false
    (off + len ≤ u.radioStackSize →
      u.xfer core (.coreToStack a off len) = u.radioStackWrite off ((u.core core).read a len) ∧
      u.xfer core (.stackToCore a off len) = u.modCore core fun c => c.write a (u.radioStackRead off len)) ∧
    ∀ l r, u.radioPadRun core l off len = some r →
      (held r → u.xfer core (.coreToPad a l off len) = u.xferWaits core (.coreToPad a l off len) ∧
        u.xfer core (.padToCore a l off len) = u.xferWaits core (.padToCore a l off len)) ∧
      (¬ held r → u.xfer core (.coreToPad a l off len) = u.wrRun r.1 ((u.core core).read a len) ∧
        u.xfer core (.padToCore a l off len) = u.modCore core fun c => c.write a (u.rdRun r.1 len)) ∧
      ∀ so, so + len ≤ u.radioStackSize →
        (held r → u.xfer core (.stackToPad so l off len) = u.xferWaits core (.stackToPad so l off len) ∧
          u.xfer core (.padToStack l off so len) = u.xferWaits core (.padToStack l off so len)) ∧
        (¬ held r → u.xfer core (.stackToPad so l off len) = u.wrRun r.1 (u.radioStackRead so len) ∧
          u.xfer core (.padToStack l off so len) = u.radioStackWrite so (u.rdRun r.1 len))) ∧
  (∀ (u : State) (core a off len so l : Nat),
    (u.radioStackSize < off + len → u.xfer core (.coreToStack a off len) = u ∧ u.xfer core (.stackToCore a off len) = u) ∧
    (u.radioPadRun core l off len = none → u.xfer core (.coreToPad a l off len) = u ∧ u.xfer core (.padToCore a l off len) = u ∧
      u.xfer core (.stackToPad so l off len) = u ∧ u.xfer core (.padToStack l off so len) = u) ∧
    (u.radioStackSize < so + len → u.xfer core (.stackToPad so l off len) = u ∧ u.xfer core (.padToStack l off so len) = u)) ∧
  (∀ (u : State) (core a q len tag cell : Nat) (f : Frame),
    let bs := (u.core core).read a len
    (u.coreReads core q = false → u.xfer core (.queueToCore q a) = u) ∧
    (u.coreReads core q = true → u.qHead q = [] ∨ u.qOn q = false → u.xfer core (.queueToCore q a) = u.qRead q 1) ∧
    (u.coreReads core q = true → u.qHead q ≠ [] → u.qOn q = true → u.xfer core (.queueToCore q a) =
      (u.takes q (u.qHead q).length).1.foldl (fun v (x : HeldItem) => v.modCore core fun c => c.write a x.bytes)
        ((u.usedBy q core).takeItems q (u.qHead q).length (.core core))) ∧
    (u.qEgress q = true → u.xfer core (.coreToQueue a q len) = u.putItem q 0 0 bs (plainFrame bs) false ∧
      u.xfer core (.frameToQueue q cell f) = u.putItem q 0 (routeRadio cell 0) (u.compressFrame cell f).bytes (u.compressFrame cell f) false) ∧
    (u.qEgress q = false → u.xfer core (.coreToQueue a q len) = u ∧ u.xfer core (.frameToQueue q cell f) = u) ∧
    (u.coreTb core = none → u.xfer core (.coreToHost a len tag) = u) ∧
    ∀ t, u.coreTb core = some t →
      u.xfer core (.coreToHost a len tag) = u.upRecord t 2 tag ((u.core core).evCell.get 0 ((u.core core).handler.getD 0)) 0 bs) ∧
  (∀ (s : State) (a : UeAccess), (s.radio.ueQueue.find? fun x => x.core = a.core) = some a →
    (s.ueAllowed a.core a.index a.bytes.isSome = false →
      exec (.ueAccessArrival a.core) s = .next ((s.bump .ueRefused).ueOver a)) ∧
    (s.ueAllowed a.core a.index a.bytes.isSome = true →
      (∀ bs, a.bytes = some bs → exec (.ueAccessArrival a.core) s =
        .next (((s.setUe a.index (leNat bs)).dropBad (badUe a.index)).ueOver a)) ∧
      (a.bytes = none → s.isBad (badUe a.index) = false → exec (.ueAccessArrival a.core) s = .next
        ((s.modCore a.core fun c => c.write a.addr (leBytes 64 (s.radio.ue.get 0 a.index))).ueOver a)) ∧
      (a.bytes = none → s.isBad (badUe a.index) = true →
        let u := (((s.bump .ueTotal).fault 0x0106 4 10 0 0xFFFF a.index).dropBad (badUe a.index)).setUe a.index 0
        exec (.ueAccessArrival a.core) s = .next
          ((u.modCore a.core fun c => c.write a.addr (leBytes 64 (u.radio.ue.get 0 a.index))).ueOver a)))) ∧
  (∀ (s : State) (core : Nat),
    let c := s.core core
    let may := c.handler = none ∧ c.rewriting = false ∧ bit s.dspService core = true ∧ s.power.vbbOut = false
    (c.due = none ∨ ¬ may → exec (.handlerEntry core) s = .next s) ∧
    ∀ ty, c.due = some ty → may →
      let n := c.events.get 0 ty
      let u := (if ty = 2 ∧ s.swapDue core = true then s.swapProg core else s).entryFaults core ty n
      exec (.handlerEntry core) s = .next (u.modCore core fun c =>
        let d := { c with bk := c.bk + 4 }.settle
        let d := (((d.setG 1 (BitVec.ofNat 32 (d.evCell.get 0 ty))).setG 2 (BitVec.ofNat 32 (d.evSfn.get 0 ty))).setG 3
          (BitVec.ofNat 32 (d.evSlot.get 0 ty))).setG 4 (BitVec.ofNat 32 n)
        { d with
          handler := some ty
          pc := ty - 1
          loops := []
          entryBk := d.bk
          events := d.events.set 0 ty 0
          waitCk := if ty = 1 then none else d.waitCk }))

/-- PROG_LOAD_DATA, PROG_COMMIT, PROG_SWAP and PROGRAM_REWRITE_DONE complete. For a core below 96 and a session that may write:
PROG_LOAD_DATA of 16 to 1024 bytes, a multiple of 16, puts its bytes into the inactive page at PROG_LOAD_OFFSET, which
advances; past the page it is ignored with 0x8010, and else, with a commit pending, with 0x8012. PROG_COMMIT of the digest
of the loaded image, which the allow list holds, makes the swap pending; of another digest it is ignored with 0x8014, and
with a commit pending with 0x8012. PROG_SWAP of a pending swap whose time has come makes the other page active on a core
that had no KIND 1 window at that time, or whose SLOT handler is due and that runs none; in any other case nothing changes.
PROGRAM_REWRITE_DONE of a core whose page is being rewritten frees the active page of uncorrectable words and lets the core
run, and changes nothing else. (R262, R263, R285, R462) -/
def Obligations.CoreProgramCommandsComplete : Prop :=
  (∀ (s : State) (m core : Nat) (v : Bytes), core < 96 → mayWrite s m .progLoadData → 16 ≤ v.length → v.length ≤ 1024 →
    v.length % 16 = 0 →
    let o := s.reg .progLoadOffset core
    (65536 < o + v.length → ignored (.progLoadData m core v) s m .progLoadData core 0x8010) ∧
    (o + v.length ≤ 65536 → (s.core core).pendingDigest ≠ none → ignored (.progLoadData m core v) s m .progLoadData core 0x8012) ∧
    (o + v.length ≤ 65536 → (s.core core).pendingDigest = none →
      taken (.progLoadData m core v) s m .progLoadData ((s.modCore core fun c => { c with
        code := c.code.setRun 0 ((1 - c.active) * 65536 + o) v
        loaded := if o = 0 then v.length else max c.loaded (o + v.length) }).setReg .progLoadOffset (o + v.length) core))) ∧
  (∀ (s : State) (m core : Nat) (d : Bytes), core < 96 → mayWrite s m .progCommit → d.length = 64 →
    let c := s.core core
    let good := d = sha512 (c.code.run 0 ((1 - c.active) * 65536) c.loaded) ∧ (pieces 64 16 (s.oct .programAllow)).contains d = true
    (c.pendingDigest ≠ none → ignored (.progCommit m core d) s m .progCommit core 0x8012) ∧
    (c.pendingDigest = none → ¬ good → ignored (.progCommit m core d) s m .progCommit core 0x8014) ∧
    (c.pendingDigest = none → good → taken (.progCommit m core d) s m .progCommit
      ((s.setOct .progCommit d core).modCore core fun c => { c with pendingDigest := some d }))) ∧
  (∀ (s : State) (core : Nat),
    let c := s.core core
    let due := s.swapDue core = true ∧ (s.swapFree core = true ∨ (c.due = some 2 ∧ c.handler = none))
    (∀ d, c.pendingDigest = some d → due → exec (.progSwap core) s = .next ((s.setOct .progDigest d core).modCore core fun c =>
      { c with active := 1 - c.active, pendingDigest := none, loaded := 0 })) ∧
    (¬ due → exec (.progSwap core) s = .next s)) ∧
  (∀ (s : State) (core : Nat),
    ((s.core core).rewriting = false → exec (.programRewriteDone core) s = .next s) ∧
    ((s.core core).rewriting = true → completes (.programRewriteDone core) s fun t =>
      (∀ a, a < 65536 → t.isBad (badCode core ((s.core core).active * 65536 + a / 8 * 8)) = false) ∧
      t = ({ s with tier := { s.tier with badWords := t.tier.badWords } }).modCore core fun c => { c with rewriting := false }))

/-- The coding and FFT commands, CODER_JOB_END, JOB_DEADLINE_PASSED and MOVE_TAIL_END complete. LDPC_DECODE, LDPC_ENCODE,
POLAR_DECODE, POLAR_ENCODE, FFT and INVERSE_FFT of a die stage its waiting jobs; when the next eligible job of the kind is
of that OP and an engine of the kind is free, then with less time left than the worst case allows the job ends with status
2, an uncorrectable word of its input faults its core, and otherwise it starts there with what its operation gives on its
input and soft buffer, a waiting base-graph set switching before an LDPC decode, and it leaves the staging; otherwise
nothing more happens. CODER_JOB_END ends the job that runs in a slot. JOB_DEADLINE_PASSED stages too, and ends a staged job
that is not eligible and past its deadline with status 2, and no other. MOVE_TAIL_END after MOVE_TAIL_US ends the move at
the destination, and at the source clears the cell's areas and disables it; before, or of a cell that does not move, it
changes nothing. (R264, R265, R266, R267, R268, R269, R270, R281, R369, R425, R462) -/
def Obligations.CoderCommandsComplete : Prop :=
  (∀ (s : State) (die op : Nat) (i : Instr),
    (i, op) ∈ [(Instr.ldpcDecode die, 1), (.ldpcEncode die, 2), (.polarDecode die, 3), (.polarEncode die, 4), (.fft die, 0x10),
      (.inverseFft die, 0x11)] → die < 2 →
    let u := s.stageJobs die
    let free := ((List.range (coderSlots op).2).map fun i => die * 32 + (coderSlots op).1 + i).find? fun k =>
      u.radio.running.get none k = none
    (u.nextJob die op = none ∨ free = none → exec i s = .next u) ∧
    ∀ j, u.nextJob die op = some j →
      let w := j.word
      let input := u.badRun j.core [(jobIn w, jobInBytes w)]
      (jobOp w ≠ op → exec i s = .next u) ∧
      ∀ k, jobOp w = op → free = some k →
        (u.slack w * 11 < (worstBk w : Int) * 10 → exec i s = .next ((u.unstage j).endJob j 2 0 0)) ∧
        ((worstBk w : Int) * 10 ≤ u.slack w * 11 →
          (∀ a, input = some a → exec i s = .next (u.dataFault j.core a)) ∧
          (input = none →
            let combine := decide (op = 1) && jobCombine w
            let v := if op = 1 then u.ldpcSwitch else u
            let v := match (if combine then v.radioStackBads (jobSoft w * 4096) (softBytes w) else []) with
              | a :: _ => v.badRecord 0x0105 4 a
              | [] => v
            let o := jobOut w v.radio.ldpcSet ((v.core j.core).read (jobIn w) (jobInBytes w))
              (if combine then v.radioStackRead (jobSoft w * 4096) (softBytes w) else [])
            let status := if o.fails then 1 else 0
            let r : Running := { job := j, status, iter := o.iter, exp := o.exp, out := o.out, soft := o.soft, startCk := v.ck }
            let x := v.unstage j
            exec i s = .next { x with radio := { x.radio with running := x.radio.running.set none k (some r) } }))) ∧
  (∀ (s : State) (die slot : Nat), slot < 32 →
    (s.radio.running.get none (die * 32 + slot) = none → exec (.coderJobEnd die slot) s = .next s) ∧
    ∀ r, s.radio.running.get none (die * 32 + slot) = some r →
      exec (.coderJobEnd die slot) s = .next (s.finishJob (die * 32 + slot) r)) ∧
  (∀ (s : State) (die slot : Nat), die < 2 →
    let u := s.stageJobs die
    let job := (u.radio.staged.filter fun j => j.die = die)[slot]?
    (job = none → exec (.jobDeadlinePassed die slot) s = .next u) ∧
    ∀ j, job = some j →
      (u.eligible j = false → u.slack j.word < 0 → exec (.jobDeadlinePassed die slot) s = .next ((u.unstage j).endJob j 2 0 0)) ∧
      (u.eligible j = true ∨ 0 ≤ u.slack j.word → exec (.jobDeadlinePassed die slot) s = .next u)) ∧
  (∀ (s : State) (cell : Nat),
    let due := (s.cell cell).moving = true ∧ (s.cell cell).moveCk + s.reg .moveTailUs * 825 ≤ s.ck
    let ended (u : State) : State := u.modCell cell fun x => { x with move := none, moving := false, landed := 0 }
    (due → s.leaving cell = false → exec (.moveTailEnd cell) s = .next (ended s)) ∧
    (due → s.leaving cell = true → exec (.moveTailEnd cell) s =
      .next ((ended ((s.setReg .cellCfg (setBit (s.cellCfg cell) 31 false) cell).clearCell cell)).disableCell cell)) ∧
    (¬ due → exec (.moveTailEnd cell) s = .next s))

/-- DOWN_DOORBELL, DOWN_DESCRIPTOR and RHC_CFG complete. DOWN_DOORBELL to a channel below 8 with host access up first takes the
consumed indices it brings; on a disabled channel it is then ignored with 0x0101, behind DOWN_TAIL with 0x0102, too far
ahead with 0x0103, and otherwise the tail is taken; without host access only the host's own writes happen. DOWN_DESCRIPTOR
of an enabled channel with host access up, a mapped PASID and a descriptor waiting advances DOWN_HEAD; without a fault it
copies the bytes to the radio stack and delivers the result and the event; with one it is counted with its reason; otherwise
nothing changes. RHC_CFG by a session that may write it: enabling with sizes that are not allowed is ignored with 0x8010,
reserved bits with 0x8011, a change other than ENABLE of an enabled channel with 0x8012, enabling with a vector of a slice
with 0x8015; else the value is taken, and enabling clears every index. (R393, R394, R395, R404) -/
def Obligations.HostChannelCommandsComplete : Prop :=
  (∀ (s : State) (n : Nat) (t : W32) (k : Option (W32 × W32)) (ws : List HostWrite), n < 8 →
    let u := s.hostPut ws
    let v := match k with
      | some p => u.modChannel n fun c => { c with upConsumed := p.1, dataConsumed := p.2 }
      | none => u
    let c := v.channel n
    let cap := 2 ^ v.rhcDownLog2 n
    let back := (t - c.downTail).toInt < 0
    let far := cap < (t - c.downTail).toNat ∨ cap < (t - c.downHead).toNat
    (u.hif.access = false → exec (.downDoorbell n t k ws) s = .next u) ∧
    (u.hif.access = true →
      (v.rhcOn n = false → exec (.downDoorbell n t k ws) s = .next (v.ignoreRhc n 0x0101)) ∧
      (v.rhcOn n = true → back → exec (.downDoorbell n t k ws) s = .next (v.ignoreRhc n 0x0102)) ∧
      (v.rhcOn n = true → ¬ back → far → exec (.downDoorbell n t k ws) s = .next (v.ignoreRhc n 0x0103)) ∧
      (v.rhcOn n = true → ¬ back → ¬ far →
        exec (.downDoorbell n t k ws) s = .next (v.modChannel n fun c => { c with downTail := t })))) ∧
  (∀ (s : State) (n : Nat), n < 8 →
    let ready := s.rhcOn n = true ∧ s.hif.access = true ∧ s.reg .rhcPasid n < 2 ^ 20 ∧ (s.channel n).downHead ≠ (s.channel n).downTail
    (¬ ready → exec (.downDescriptor n) s = .next s) ∧
    (ready →
      let u := s.modChannel n fun c => { c with downHead := c.downHead + 1 }
      let w := leNat (s.hostRd (s.reg .rhcPasid n) (s.reg .downRingBase n +
        (s.channel n).downHead.toNat % 2 ^ s.rhcDownLog2 n * 64) 64)
      (∀ r, u.downReason n w = some r → exec (.downDescriptor n) s = .next (u.ignoreRhc n r)) ∧
      (u.downReason n w = none →
        let v := u.radioStackWrite (field w 415 384 * 4096) (u.hostRd (s.reg .rhcPasid n) (field w 511 448) (field w 447 416))
        let r := field w 367 352 * 2 ^ 112 + 0x20 * 2 ^ 80 + field w 383 376 * 2 ^ 72 +
          v.ns (v.cellTb (field w 383 376)) % 2 ^ 32 * 2 ^ 40
        let x := (v.qPush (0x1100 + field w 375 368) 0 (leBytes 16 r)).2
        exec (.downDescriptor n) s = .next
          (x.raiseEvent (field w 375 368) 5 (field w 383 376) (x.cell (field w 383 376)).slot)))) ∧
  (∀ (s : State) (m n : Nat) (v : W32), n < 8 → mayWrite s m .rhcCfg →
    let w := v.toNat
    let old := s.reg .rhcCfg n
    let opens := bit w 31 = true ∧ s.rhcOn n = false
    let sizes := 6 ≤ field w 15 12 ∧ 6 ≤ field w 11 8 ∧ 16 ≤ field w 7 3 ∧ field w 7 3 ≤ 30
    let reserved := field w 30 27 ≠ 0 ∨ field w 2 0 ≠ 0
    let changed := s.rhcOn n = true ∧ field w 30 0 ≠ field old 30 0
    let owned := ∃ k, k < 64 ∧ s.vecGranted k (field w 26 16) = true
    (opens → ¬ sizes → ignored (.rhcCfg m n v) s m .rhcCfg n 0x8010) ∧
    (¬ (opens ∧ ¬ sizes) →
      (reserved → ignored (.rhcCfg m n v) s m .rhcCfg n 0x8011) ∧
      (¬ reserved → changed → ignored (.rhcCfg m n v) s m .rhcCfg n 0x8012) ∧
      (¬ reserved → ¬ changed →
        (opens → owned → ignored (.rhcCfg m n v) s m .rhcCfg n 0x8015) ∧
        (opens → ¬ owned → taken (.rhcCfg m n v) s m .rhcCfg ((s.setReg .rhcCfg w n).modChannel n fun c =>
          { (default : Channel) with ignored := c.ignored, lastIgnored := c.lastIgnored })) ∧
        (¬ opens → taken (.rhcCfg m n v) s m .rhcCfg (s.setReg .rhcCfg w n)))))

namespace Sys2Proof.Claims

/-- The rows of the queue operations by `who`, with the operation each asks for. -/
def queueRows (q : Nat) (who : QueueUser) (n : Nat) (i : W32) : List (Instr × QOp) :=
  [(.queueRead q n who, .read n), (.queueRelease q i who, .release i), (.mark q who, .mark), (.rewind q who, .rewind),
   (.flush q who, .flush)]

/-- The indices, the mark and the words of queue `q` are in `t` as in `s`. -/
abbrev sameQueue (s t : State) (q : Nat) : Prop :=
  (t.queue q).read = (s.queue q).read ∧ (t.queue q).release = (s.queue q).release ∧ (t.queue q).write = (s.queue q).write ∧
  (t.queue q).tail = (s.queue q).tail ∧ (t.queue q).mark = (s.queue q).mark ∧ (t.queue q).markValid = (s.queue q).markValid ∧
  (t.queue q).words = (s.queue q).words

end Sys2Proof.Claims

/-- READ, RELEASE, MARK, REWIND and FLUSH of a queue complete. For every queue number and every sender. Of a number that names
no queue the operation does nothing. The host operates on fronthaul queues; a unit READs fronthaul ingress queues and the
coder job queues, and does the other operations on any queue but a radio queue; a core operates on its completion queue, on
fronthaul ingress queues and on the radio queues of the logical engines it serves, but for READs, which it makes by XFER,
and is noted as the queue's user; a session operates on the queue that its QUEUE_SELECT names, where its role may write
Q_OP, an operation ignored for the queue's state being also an ignored write with 0x8000 more; anyone else's operation does
nothing. On a fronthaul queue, by the host, with ENABLE set: READ of n words up to the depth advances READ by n, and RELEASE
with it unless RECOVERY is set; with RECOVERY set, RELEASE i between RELEASE and READ sets RELEASE and moves a valid MARK
that it passed, MARK saves READ, and REWIND with a valid MARK sets READ to it; FLUSH sets READ and RELEASE to TAIL, and
WRITE too in native mode, clears MARK_VALID and counts the words between READ and WRITE. What is not named of indices, mark
and words stays. (R297, R298, R299, R303, R304) -/
def Obligations.QueueOperationsComplete : Prop :=
  (∀ (s : State) (q n : Nat) (i : W32), qExists q = false → ∀ who, ∀ r ∈ queueRows q who n i, exec r.1 s = .next s) ∧
  (∀ (s : State) (q n : Nat) (i : W32), qExists q = true →
    (∀ r ∈ queueRows q .host n i, exec r.1 s = .next (if qFronthaul q then s.qOperate q r.2 .host else s)) ∧
    (∀ r ∈ queueRows q .unit n i, exec r.1 s = .next (if s.unitActs q r.2 then s.qOperate q r.2 .unit else s)) ∧
    (∀ c, ∀ r ∈ queueRows q (.core c) n i, exec r.1 s =
      .next (if s.coreActs c q r.2 then (s.usedBy q c).qOperate q r.2 (.core c) else s)) ∧
    (∀ m, ∀ r ∈ queueRows q (.session m) n i,
      (s.isOpen m = false ∨ s.sreg m .queueSelect ≠ q → exec r.1 s = .next s) ∧
      (s.isOpen m = true → s.sreg m .queueSelect = q →
        (∀ e, Reg.writeRight .qOp (s.role m) = some e → ignored r.1 s m .qOp 0 e) ∧
        (Reg.writeRight .qOp (s.role m) = none →
          (∀ e, (s.qSync q).qOpReason q r.2 = some e →
            taken r.1 s m .qOp ((s.qOperate q r.2 (.session m)).ignoreWrite m 0x4120 6 (0x8000 + e))) ∧
          ((s.qSync q).qOpReason q r.2 = none → taken r.1 s m .qOp (s.qOperate q r.2 (.session m))))))) ∧
  ∀ (s : State) (q : Nat), s.tidy → q < 0x800 → s.qOn q = true →
    let x := s.queue q
    (∀ n, n ≤ s.qDepth q → completes (.queueRead q n .host) s fun t =>
      (t.queue q).read = x.read + BitVec.ofNat 32 n ∧
      (t.queue q).release = (if s.qRecovery q then x.release else x.read + BitVec.ofNat 32 n) ∧ (t.queue q).write = x.write ∧
      (t.queue q).tail = x.tail ∧ (t.queue q).mark = x.mark ∧ (t.queue q).markValid = x.markValid ∧ (t.queue q).words = x.words) ∧
    (∀ i, s.qRecovery q = true → (i - x.release).toNat ≤ (x.read - x.release).toNat →
      completes (.queueRelease q i .host) s fun t => (t.queue q).release = i ∧ (t.queue q).read = x.read ∧
        (t.queue q).write = x.write ∧ (t.queue q).tail = x.tail ∧ (t.queue q).markValid = x.markValid ∧ (t.queue q).words = x.words ∧
        (t.queue q).mark = (if x.markValid && decide ((x.mark - x.release).toNat < (i - x.release).toNat) then i else x.mark)) ∧
    (s.qRecovery q = true → completes (.mark q .host) s fun t => (t.queue q).mark = x.read ∧ (t.queue q).markValid = true ∧
      (t.queue q).read = x.read ∧ (t.queue q).release = x.release ∧ (t.queue q).write = x.write ∧ (t.queue q).tail = x.tail ∧
      (t.queue q).words = x.words) ∧
    (s.qRecovery q = true → x.markValid = true → completes (.rewind q .host) s fun t => (t.queue q).read = x.mark ∧
      (t.queue q).mark = x.mark ∧ (t.queue q).markValid = true ∧ (t.queue q).release = x.release ∧ (t.queue q).write = x.write ∧
      (t.queue q).tail = x.tail ∧ (t.queue q).words = x.words) ∧
    completes (.flush q .host) s (fun t => (t.queue q).read = x.tail ∧ (t.queue q).release = x.tail ∧ (t.queue q).markValid = false ∧
      (t.queue q).tail = x.tail ∧ (t.queue q).write = (if s.qCompat q then x.write else x.tail) ∧ (t.queue q).mark = x.mark ∧
      (t.queue q).words = x.words ∧
      t.reg .qFlushedWords q = (s.reg .qFlushedWords q + (x.write - x.read).toNat) % 2 ^ Reg.width .qFlushedWords)

/-- A queue operation that is not legal in the present state has no effect and is counted. Of every queue and every sender: any
operation while ENABLE is 0 is ignored with 0x0A05; MARK, REWIND or RELEASE while RECOVERY is clear with 0x0A01; REWIND
while MARK_VALID is clear with 0x0A02; RELEASE of an index outside RELEASE to READ with 0x0A03; READ of more words than the
depth with 0x0A04; and no other is ignored. An ignored operation counts in Q_IGNORED, puts the reason into Q_LAST_IGNORED,
and does nothing else but what the hub does at every operation: a service queue's READ is taken from its control word, an
untagged head of an egress queue gets its tag, a radio queue's unit looks again. On a fronthaul queue, by the host, the
indices, the mark and the words stay, and the counts stand as said. (R304) -/
def Obligations.IllegalQueueOperationsAreIgnored : Prop :=
  (∀ (s : State) (q n : Nat) (i : W32),
    let x := s.queue q
    (s.qOn q = false → ∀ o, s.qOpReason q o = some 0x0A05) ∧
    (s.qOn q = true → s.qOpReason q .flush = none ∧ s.qOpReason q (.read n) = (if s.qDepth q < n then some 0x0A04 else none)) ∧
    (s.qOn q = true → s.qRecovery q = false →
      s.qOpReason q .mark = some 0x0A01 ∧ s.qOpReason q .rewind = some 0x0A01 ∧ s.qOpReason q (.release i) = some 0x0A01) ∧
    (s.qOn q = true → s.qRecovery q = true → s.qOpReason q .mark = none ∧
      s.qOpReason q .rewind = (if x.markValid then none else some 0x0A02) ∧
      s.qOpReason q (.release i) = (if (x.read - x.release).toNat < (i - x.release).toNat then some 0x0A03 else none))) ∧
  (∀ (s : State) (q e : Nat) (o : QOp) (who : QueueUser), s.tidy → (s.qSync q).qOpReason q o = some e →
    s.qOperate q o who = (((s.qSync q).qIgnore q e).tagHead q).afterRadioOp q) ∧
  ∀ (s : State) (q n e : Nat) (i : W32), s.tidy → q < 0x800 → e < 2 ^ 16 → ∀ r ∈ queueRows q .host n i, s.qOpReason q r.2 = some e →
    completes r.1 s fun t => t.reg .qIgnored q = (s.reg .qIgnored q + 1) % 2 ^ 32 ∧ t.reg .qLastIgnored q = e ∧ sameQueue s t q

/-- STALE_CHECK, QUEUE_SAMPLE, Q_CFG, QUEUE_SELECT, WFQ_COMMIT, POL_COMMIT and PORT_MODE complete. STALE_CHECK of an enabled,
non-empty queue that has not been read for Q_STALE_NS raises its STALE notice, once, and does nothing else otherwise.
QUEUE_SAMPLE of an enabled queue records depth, the delay of the item that READ lies in, maxima, sum and count. Q_CFG of the
selected queue is refused with the first reason that holds: RECOVERY changed by a role other than 4 (0x8001), a fronthaul
queue enabled with fewer than 2^4 words (0x8010), a reserved bit (0x8011), a field other than ENABLE and RECOVERY changed
while enabled or ENABLE of an event queue changed (0x8012), no room in the pool or a 33rd egress queue of a port (0x8016);
else it is taken, an enabled queue beginning with every index 0 and no pending notice; off the fronthaul dies the bits
COMPAT and EGRESS read 0. QUEUE_SELECT of an existing queue is held by the session, any other is refused with 0x8010.
WFQ_COMMIT and POL_COMMIT of the next epoch wait for the next packet boundary; of another epoch or while one waits they are
refused with 0x8013. PORT_MODE is refused with 0x8010 above 3 and with 0x8012 while a port of the die is enabled, else
taken. Without a session or the right, a write changes nothing else; a number that names no queue or die does nothing.
(R293, R301, R302, R306, R311, R312, R313) -/
def Obligations.QueueChecksAndSettingsComplete : Prop :=
  (∀ (s : State) (q : Nat), qExists q = false → exec (.staleCheck q) s = .next s ∧ exec (.queueSample q) s = .next s) ∧
  (∀ (s : State) (q : Nat), qExists q = true →
    let u := s.qSync q
    let due := u.qOn q = true ∧ u.reg .qStaleNs q ≠ 0 ∧ u.qDepth q ≠ 0 ∧ (u.queue q).staleOut = false ∧
      (u.reg .qStaleNs q : Int) ≤ since64 u.qns (u.queue q).since
    (due → exec (.staleCheck q) s = .next ((u.modQueue q fun x => { x with staleOut := true }).notice q 1)) ∧
    (¬ due → exec (.staleCheck q) s = .next u) ∧
    (u.qOn q = false → exec (.queueSample q) s = .next u) ∧
    (s.tidy → u.qOn q = true →
      let d := u.qDepth q
      let vis := match (u.queue q).part with
        | some x => x.visTime
        | none => (u.qWord q (u.queue q).read).visTime
      let w := if d = 0 then 0 else (u.qns + 2 ^ 64 - vis) % 2 ^ 32
      completes (.queueSample q) s fun t =>
        t.reg .qSampleDepth q = d ∧ t.reg .qSampleDelayNs q = w ∧ t.reg .qMaxDepth q = max d (u.reg .qMaxDepth q) % 2 ^ 32 ∧
        t.reg .qMaxDelayNs q = max w (u.reg .qMaxDelayNs q) % 2 ^ 32 ∧
        t.reg .qDelaySumNs q = (u.reg .qDelaySumNs q + w) % 2 ^ Reg.width .qDelaySumNs ∧
        t.reg .qSamples q = (u.reg .qSamples q + 1) % 2 ^ Reg.width .qSamples ∧ t = { u with regs := t.regs })) ∧
  (∀ (s : State) (m : Nat) (v : W32),
    let q := s.selected m .queue
    let old := s.reg .qCfg q
    let w := if qFronthaul q then v.toNat else setBit (setBit v.toNat 30 false) 28 false
    let was := bit old 31
    let on := bit w 31 && !was
    let need := s.poolUsed (qDie q) q + 2 ^ field w 27 24
    let reason := firstReason
      [(0x8001, decide (bit w 29 ≠ bit old 29) && decide (s.role m ≠ 4)),
       (0x8010, on && qFronthaul q && decide (field w 27 24 < 4)),
       (0x8011, decide (field w 23 0 ≠ 0)),
       (0x8012, (was && (decide (field w 28 24 ≠ field old 28 24) || decide (bit w 30 ≠ bit old 30))) ||
         ((on || (was && !bit w 31)) && qSession q)),
       (0x8016, on && ((qFronthaul q && decide (262144 < need)) ||
         (bit w 28 && decide (s.reg .qEgressPort q ≠ 0xFF) && decide (32 ≤ s.egressCount (s.reg .qEgressPort q) q))))]
    (s.isOpen m = false → exec (.qCfg m v) s = .next s) ∧
    (s.isOpen m = true → ∀ e, Reg.writeRight .qCfg (s.role m) = some e → ignored (.qCfg m v) s m .qCfg 0 e) ∧
    (mayWrite s m .qCfg → (∀ e, reason = some e → ignored (.qCfg m v) s m .qCfg 0 e) ∧
      (reason = none → s.tidy → q < 2 ^ 16 → completes (.qCfg m v) s fun t =>
        t.reg .qCfg q = w ∧ (t.queue q).words = (if on then [] else (s.queue q).words) ∧
        (on = true → t.queue q = default ∧ t.reg .qStatus q = 0) ∧
        (on = false → t.reg .qStatus q = s.reg .qStatus q % 2 ^ Reg.width .qStatus ∧ (t.queue q).read = (s.queue q).read ∧
          (bit w 29 = bit old 29 → sameQueue s t q) ∧
          (bit w 29 ≠ bit old 29 → (t.queue q).release = (s.queue q).read ∧
            (bit w 29 = true → (t.queue q).mark = (s.queue q).read) ∧ (bit w 29 = false → (t.queue q).markValid = false))) ∧
        (qFronthaul q = true → t.reg .poolFreeWords (qDie q) = (262144 - t.poolUsed (qDie q) 0x800) % 2 ^ 32)))) ∧
  (∀ (s : State) (m v : Nat),
    (s.isOpen m = false → exec (.queueSelect m v) s = .next s) ∧
    (s.isOpen m = true → (qExists (v % 2 ^ 16) = true →
        taken (.queueSelect m v) s m .queueSelect (s.setSreg m .queueSelect (v % 2 ^ 16))) ∧
      (qExists (v % 2 ^ 16) = false → ignored (.queueSelect m v) s m .queueSelect 0 0x8010))) ∧
  (∀ (s : State) (m d v : Nat), 2 ≤ d →
    exec (.wfqCommit m d v) s = .next s ∧ exec (.polCommit m d v) s = .next s ∧ exec (.portMode m d v) s = .next s) ∧
  (∀ (s : State) (m d v : Nat), d < 2 →
    (∀ r ∈ [(Instr.wfqCommit m d v, Reg.fhWfqCommit), (.polCommit m d v, .polCommit), (.portMode m d v, .portMode)],
      (s.isOpen m = false → exec r.1 s = .next s) ∧
      (s.isOpen m = true → ∀ e, r.2.writeRight (s.role m) = some e → ignored r.1 s m r.2 d e)) ∧
    (mayWrite s m .fhWfqCommit →
      (v % 2 ^ 32 = (s.reg .fhWfqEpoch d + 1) % 2 ^ 32 ∧ d ∉ s.fh.weightNext →
        taken (.wfqCommit m d v) s m .fhWfqCommit { s with fh := { s.fh with weightNext := s.fh.weightNext ++ [d] } }) ∧
      (¬ (v % 2 ^ 32 = (s.reg .fhWfqEpoch d + 1) % 2 ^ 32 ∧ d ∉ s.fh.weightNext) →
        ignored (.wfqCommit m d v) s m .fhWfqCommit d 0x8013)) ∧
    (mayWrite s m .polCommit →
      (v % 2 ^ 32 = (s.reg .polEpoch d + 1) % 2 ^ 32 ∧ d ∉ s.fh.profileNext →
        taken (.polCommit m d v) s m .polCommit { s with fh := { s.fh with profileNext := s.fh.profileNext ++ [d] } }) ∧
      (¬ (v % 2 ^ 32 = (s.reg .polEpoch d + 1) % 2 ^ 32 ∧ d ∉ s.fh.profileNext) →
        ignored (.polCommit m d v) s m .polCommit d 0x8013)) ∧
    (mayWrite s m .portMode →
      let busy := ∃ l, l < 8 ∧ s.reg .fhPortEnable (d * 8 + l) = 1
      (3 < v % 256 → ignored (.portMode m d v) s m .portMode d 0x8010) ∧
      (v % 256 ≤ 3 → busy → ignored (.portMode m d v) s m .portMode d 0x8012) ∧
      (v % 256 ≤ 3 → ¬ busy → taken (.portMode m d v) s m .portMode (s.setReg .portMode (v % 256) d))))

/-- FRAME_RECEIVED, FRAME_TRANSMITTED and FRONTHAUL_LINK_CHANGE complete. A frame's first act is its die's packet boundary, at
which waiting WFQ weights and policer profiles become current, the former current ones the shadow, and their epochs step.
FRAME_RECEIVED on a port that is up counts its FEC codewords, whose number is open (log entry 89), the frame, a bad FCS and
an oversize, then: a malformed frame counts in MALFORMED and goes nowhere; a good PTP frame is forwarded and taken by the
slave clocks of its domain and port, a bad one is dropped; any other goes where the lowest valid entry that matches says, to
a radio queue, to its consumer or to a slice under its policer, nowhere where that queue is an egress queue or the entry
names no action, and counts in UNCLASSIFIED where none matches. FRAME_TRANSMITTED puts the frame that WFQ chooses on the
wire (none to show where part of it was read already), with a forwarded PTP frame's residence added, moves the port's
virtual time to its tag, takes the frame off its queue, tags the next and counts it; with no frame to send it does no more
than the boundary and the tags. Both do nothing on a port that is not up. FRONTHAUL_LINK_CHANGE of a port that exists sets
its link and FEC lock bits, and does nothing for one that does not, nor may a link come up before port training (R407,
R526). (R207, R208, R287, R288, R289, R290, R305, R309, R313, R320, R407, R526) -/
def Obligations.FronthaulFramesComplete : Prop :=
  (∀ (s : State) (d : Nat), (d ∉ s.fh.weightNext → d ∉ s.fh.profileNext → s.packetBoundary d = s) ∧
    (s.tidy → d < 2 → d ∈ s.fh.weightNext → d ∉ (s.packetBoundary d).fh.weightNext ∧
      (s.packetBoundary d).reg .fhWfqEpoch d = (s.reg .fhWfqEpoch d + 1) % 2 ^ 32 ∧
      ∀ q ∈ dieQueues d, (s.packetBoundary d).fh.weights.get 1024 q = s.reg .qWeight q ∧
        (s.fh.weights.get 1024 q < 2 ^ Reg.width .qWeight → (s.packetBoundary d).reg .qWeight q = s.fh.weights.get 1024 q)) ∧
    (s.tidy → d < 2 → d ∈ s.fh.profileNext → d ∉ (s.packetBoundary d).fh.profileNext ∧
      (s.packetBoundary d).reg .polEpoch d = (s.reg .polEpoch d + 1) % 2 ^ 32 ∧
      ∀ n, n < 64 → ∀ p ∈ polRegs.zipIdx, (s.packetBoundary d).pol d n p.2 = s.polShadow d n p.1 p.2 ∧
        (s.pol d n p.2 < 2 ^ Reg.width p.1 → (s.packetBoundary d).polShadow d n p.1 p.2 = s.pol d n p.2))) ∧
  (∀ (s : State) (p : Nat) (f : Frame), s.fhUp p = false →
    exec (.frameReceived p f) s = .next s ∧ exec (.frameTransmitted p) s = .next s) ∧
  (∀ (s : State) (p : Nat) (f : Frame), s.fhUp p = true →
    let long := decide (s.reg .maxFrame p < f.bytes.length)
    let u := ((s.fhFec p !f.fcsOk).packetBoundary (p / 8)).bump .fhRxFrames p
    let u := (u.bumpIf (!f.fcsOk) .fcsErrors p).bumpIf long .oversize p
    let bad := !f.fcsOk || long
    (frameMalformed f = true → exec (.frameReceived p f) s = .next (u.bump .malformed p)) ∧
    (frameMalformed f = false → (∀ k d c m, f.body = .ptp k d c m →
        (bad = true → exec (.frameReceived p f) s = .next u) ∧
        (bad = false → exec (.frameReceived p f) s = .next ((u.ptpForward p f).ptpTake p k d c m))) ∧
      ((∀ k d c m, f.body ≠ .ptp k d c m) →
        (u.classify (p / 8) (p % 8) f = none → exec (.frameReceived p f) s = .next (u.bump .unclassified p)) ∧
        ∀ e, u.classify (p / 8) (p % 8) f = some e →
          let q := p / 8 * 1024 + field e 53 44
          (u.qEgress q = true → exec (.frameReceived p f) s = .next u) ∧
          (u.qEgress q = false →
            (field e 69 68 = 0 → exec (.frameReceived p f) s = .next u) ∧
            (field e 69 68 = 1 → exec (.frameReceived p f) s =
              .next (u.radioFrame (p / 8) p q (field e 67 60) (field e 59 54) f bad)) ∧
            (field e 69 68 = 2 → exec (.frameReceived p f) s =
              .next (u.putItem q p (routeOther (field e 67 60) (field e 59 54)) f.bytes f bad)) ∧
            (field e 69 68 = 3 → exec (.frameReceived p f) s =
              .next (u.serviceFrame (p / 8) p q (field e 43 38) f bad)))))) ∧
  (∀ (s : State) (p : Nat), s.fhUp p = true →
    let u := (dieQueues (p / 8)).foldl (fun s q => if s.qEgress q then s.tagHead q else s) (s.packetBoundary (p / 8))
    (u.nextEgress p = none → exec (.frameTransmitted p) s = .next u) ∧
    ∀ q f, u.nextEgress p = some (q, f) →
      let out := if (u.queue q).part = none then (u.frameAt q (u.queue q).read).map (u.ptpLeave (u.qWord q (u.queue q).read).tag)
        else none
      let w := { u with fh := { u.fh with vtime := u.fh.vtime.set 0 p f, sent := u.fh.sent.put p out } }
      exec (.frameTransmitted p) s = .next ((((w.modQueue q fun x => { x with finish := f }).qRead q
        (u.qHead q).length).tagHead q).bump .fhTxFrames p)) ∧
  (∀ (s : State) (p : Nat) (up lock : Bool), (s.fhExists p = false ∨ (up = true ∧ s.portsTrain = false) → exec (.fronthaulLinkChange p up lock) s = .next s) ∧
    (s.fhExists p = true → up = false ∨ s.portsTrain = true → exec (.fronthaulLinkChange p up lock) s = .next
      { s with fh := { s.fh with linkUp := setBit s.fh.linkUp p up, fecLock := setBit s.fh.fecLock p lock } }))

/-- A policer colours a frame by its buckets and takes from them only what they hold. For every mode, input colour, frame size
and bucket contents, the buckets after a frame hold no more than before; a green frame of an RFC 2698 mode takes its size
from both buckets, a yellow one from P alone; of an RFC 4115 mode a green frame takes it from C alone and a yellow one from
P alone; a red frame takes nothing; and nothing is taken from a bucket that holds less. Mode 0 makes every frame red, and a
red input colour in a colour-aware mode stays red. (R307, R308) -/
def Obligations.PolicerNeverOverdraws : Prop :=
  ∀ (mode pre b c p : Nat),
    let r := police mode pre b c p
    r.2.1 ≤ c ∧ r.2.2 ≤ p ∧
    (r.1 = .red → r.2.1 = c ∧ r.2.2 = p) ∧
    (r.1 = .green → b ≤ c ∧ r.2.1 + b = c ∧ ((mode = 1 ∨ mode = 2) → b ≤ p ∧ r.2.2 + b = p) ∧
      ((mode = 3 ∨ mode = 4) → r.2.2 = p)) ∧
    (r.1 = .yellow → b ≤ p ∧ r.2.2 + b = p ∧ r.2.1 = c) ∧
    (mode = 0 → r.1 = .red) ∧ ((mode = 2 ∨ mode = 4) → pre = 2 → r.1 = .red)

/-- CK_TICK, APPLY_TICK, HOLDOVER_ENTRY and DELAY_REQ complete, and what a PTP exchange measures. CK_TICK of a package out of
reset lets fabric commands, XFERs and service queues that waited look again, fabric ports send what is left with the credits
they owe, the loam manager's due drops come, waiting mesh tables switch, turn holders without a ready command yield, and the
host interface goes on; it then counts one CK cycle, adds INCR to the time count of each of the eight time bases modulo
2^96, counts the contexts that stall on an unbound PASID, and counts the cycle against the reference hold while the clock is
held; nothing else changes. In reset it does nothing. APPLY_TICK before a CK cycle whose number is a multiple of 4096
applies what is pending of each time base: a frequency adjustment sets FREQ_ADJ_PPB and INCR, a step adds its nanoseconds to
the count, and 1PPS out looks for its next second from the new time where the step is its time base's; and the compensations
written so far take effect; at any other cycle it does nothing. HOLDOVER_ENTRY of a locked time base without a measurement
for LOSS_MS enters holdover with the mean of its last adjustments pending, and does nothing otherwise. DELAY_REQ of a time
base with a PTP source and a chosen master, whose port is up, 62.5 ms or more after its last one sends the next message from
that port, counts it and notes when it left; it does nothing for another. Where the path to the slave takes d + x and the
path back d - x, a Delay_Resp of the time base's own request gives a mean path delay of d, and a later Sync measures the
offset x less ASYM_NS. (R316, R318, R320, R321, R324, R328, R329, R389, R490) -/
def Obligations.TicksComplete : Prop :=
  (∀ s : State, s.boot.inReset = true → exec .ckTick s = .next s) ∧
  (∀ s : State, s.tidy → s.boot.inReset = false →
    let v := (s.wakeFabric.wakeXfer.syncServices.linkTick).settleLoam.meshSettle.yieldTurns.hostTick
    completes .ckTick s fun t =>
      t.ck = s.wakeFabric.wakeXfer.syncServices.linkTick.ck + 1 ∧
      (∀ b, b < 8 → t.tb b = { v.tb b with count := ((v.tb b).count + v.reg .incr b) % 2 ^ 96 }) ∧
      (∀ r i, r ≠ .pasidStalls → t.reg r i = v.reg r i) ∧
      t.reg .pasidStalls = (v.reg .pasidStalls + (v.liveCtxs.filter v.pasidStalled).length) % 2 ^ Reg.width .pasidStalls ∧
      t.power.holdCk = v.power.holdCk + (if v.reg .clkState = 1 then 1 else 0) ∧
      t = { v with ck := t.ck, tbs := t.tbs, regs := t.regs, power := { v.power with holdCk := t.power.holdCk } }) ∧
  (∀ s : State, (s.ck + 1) % 4096 ≠ 0 → exec .applyTick s = .next s) ∧
  (∀ s : State, s.tidy → (s.ck + 1) % 4096 = 0 → completes .applyTick s fun t => (∀ b, b < 8 →
    (t.tb b).adjPending = none ∧ (t.tb b).stepPending = none ∧
    (∀ a, (s.tb b).adjPending = some a →
      t.reg .freqAdjPpb b = ofSigned 32 a % 2 ^ 32 ∧ t.reg .incr b = incrOf a % 2 ^ Reg.width .incr) ∧
    ((s.tb b).adjPending = none → t.reg .freqAdjPpb b = s.reg .freqAdjPpb b ∧ t.reg .incr b = s.reg .incr b) ∧
    (∀ d, (s.tb b).stepPending = some d → (t.tb b).count = ofSigned 96 ((s.tb b).count + d * 2 ^ 32)) ∧
    ((s.tb b).stepPending = none → (t.tb b).count = (s.tb b).count)) ∧
    t.pins.ppsNext = (if (s.tb (s.reg .ppsOutCfg % 8)).stepPending = none then s.pins.ppsNext else t.ns (s.reg .ppsOutCfg % 8)) ∧
    (∀ x ∈ compRegs, t.pins.comps.get 0 x.1 = s.reg x.2.1 x.2.2) ∧ t.mem = s.mem ∧ t.ctxs = s.ctxs ∧ t.ck = s.ck) ∧
  (∀ (s : State) (b : Nat),
    let due := b < 8 ∧ s.reg .lockState b = 2 ∧ (s.tb b).lastCk + s.reg .lossMs b * 825000 ≤ s.ck
    (¬ due → exec (.holdoverEntry b) s = .next s) ∧
    (due → exec (.holdoverEntry b) s = .next ((s.setLock b 3).modTb b fun x =>
      { x with good := 0, adjPending := if x.adjs = [] then x.adjPending else some (meanRne x.adjs) }))) ∧
  (∀ (s : State) (b : Nat),
    let port := ((s.tb b).master.map Prod.fst).getD 0
    let due := b < 8 ∧ (s.tb b).master ≠ none ∧ s.reg .servoSrc b = 1 ∧ s.fhUp port = true ∧
      ((s.tb b).delayReqs = 0 ∨ (s.tb b).delayReqCk + 51562500 ≤ s.ck)
    let f := s.delayReqFrame b port (((s.tb b).delayReqs + 1) % 2 ^ 16)
    let u := { s with fh := { s.fh with sent := s.fh.sent.put port (some f) } }
    (due → exec (.delayReq b) s = .next ((u.bump .fhTxFrames port).modTb b fun x =>
      { x with delayReqs := x.delayReqs + 1, delayReqCk := s.ck, delayReqAt := some (s.stampNow b) })) ∧
    (¬ due → exec (.delayReq b) s = .next s)) ∧
  ∀ (s : State) (b port : Nat) (d x c : Int) (m : PtpMsg),
    (∀ out : Int, (s.tb b).delayReqAt = some out → (s.tb b).toSlave = some (d + x) → m.time * 2 ^ 16 - out - c = d - x →
      m.seq = (s.tb b).delayReqs % 2 ^ 16 → m.target = (Config.ptpPort port).toNat →
      ((s.ptpSlave b port .delayResp c m).tb b).path2 = some (2 * d)) ∧
    ((s.tb b).path2 = some (2 * d) → s.stampNow b - c - m.time * 2 ^ 16 = d + x →
      s.ptpSlave b port (.sync false) c m =
        (s.modTb b fun y => { y with toSlave := some (d + x), syncAt := none }).measure b (wholeNs (2 * x) - s.comp (16 + b)))

/-- STEP_NS, FRAME_OFFSET_NS, SERVO_SRC and TRIG_CFG complete, and are ignored where their rules say so. STEP_NS of a time base
that no enabled cell, tilth entry or enabled TRIG output names adds to the pending step; FRAME_OFFSET_NS of one that no
enabled cell or tilth entry names takes the value; both are otherwise ignored with 0x8012. SERVO_SRC 0 makes a time base
free-running; 1 to 3 takes the source and leaves FREE for ACQUIRING; 4 does so and measures at once against the time base
followed, and is ignored with 0x8012 where following leads back; above 4 it is ignored with 0x8010. TRIG_CFG of an enabled
output changes ENABLE alone; of a disabled one it takes the value; one that enables it must obey the rules of its edges,
else it is ignored with 0x8010, and starts from the present time, counting a missed edge where its single edge has passed; a
value with a reserved bit is ignored with 0x8011 where its rules hold. A session that is not open does nothing, one without
the right is ignored with its reason, and an index above 7 names nothing. (R318, R319, R321, R322, R325, R326, R333, R444) -/
def Obligations.TimeSettingsComplete : Prop :=
  (∀ (s : State) (m b : Nat) (v : Int) (n : Nat) (w : W32), 8 ≤ b →
    exec (.stepNs m b v) s = .next s ∧ exec (.frameOffsetNs m b n) s = .next s ∧ exec (.servoSrc m b n) s = .next s ∧
    exec (.trigCfg m b w) s = .next s) ∧
  ∀ (s : State) (m b : Nat), b < 8 →
    let named := s.cellNames b || s.tilthNames b
    let trig := (List.range 8).any fun n => trigOn (s.reg .trigCfg n) && decide (trigTb (s.reg .trigCfg n) = b)
    (∀ (v : Int) (n : Nat) (w : W32),
      ∀ r ∈ [(Instr.stepNs m b v, Reg.stepNs), (.frameOffsetNs m b n, .frameOffsetNs), (.servoSrc m b n, .servoSrc),
        (.trigCfg m b w, .trigCfg)],
      (s.isOpen m = false → exec r.1 s = .next s) ∧
      (s.isOpen m = true → ∀ e, r.2.writeRight (s.role m) = some e → ignored r.1 s m r.2 b e)) ∧
    (∀ v : Int, mayWrite s m .stepNs →
      (named = false → trig = false → taken (.stepNs m b v) s m .stepNs
        (s.modTb b fun x => { x with stepPending := some (x.stepPending.getD 0 + toSigned 64 (ofSigned 64 v)) })) ∧
      (named = true ∨ trig = true → ignored (.stepNs m b v) s m .stepNs b 0x8012)) ∧
    (∀ v, mayWrite s m .frameOffsetNs →
      (named = false → taken (.frameOffsetNs m b v) s m .frameOffsetNs (s.setReg .frameOffsetNs (v % 2 ^ 64) b)) ∧
      (named = true → ignored (.frameOffsetNs m b v) s m .frameOffsetNs b 0x8012)) ∧
    (mayWrite s m .servoSrc → ∀ v,
      let u := s.setReg .servoSrc (v % 256) b
      let w := if u.reg .lockState b = 0 then u.setLock b 1 else u
      (v % 256 = 0 → taken (.servoSrc m b v) s m .servoSrc ((u.setLock b 0).modTb b fun x => { x with good := 0 })) ∧
      (1 ≤ v % 256 → v % 256 ≤ 3 → taken (.servoSrc m b v) s m .servoSrc w) ∧
      (v % 256 = 4 → s.follows b 9 (s.reg .servoArg b) = false →
        taken (.servoSrc m b v) s m .servoSrc (w.measure b (w.followTheta b))) ∧
      (v % 256 = 4 → s.follows b 9 (s.reg .servoArg b) = true → ignored (.servoSrc m b v) s m .servoSrc b 0x8012) ∧
      (4 < v % 256 → ignored (.servoSrc m b v) s m .servoSrc b 0x8010)) ∧
    (∀ v : W32, mayWrite s m .trigCfg →
      let enabled := trigOn (s.reg .trigCfg b) = true
      let obeys := trigOn v.toNat = true → s.trigRulesOk b v.toNat (s.reg .trigWidthNs b) = true
      let clean := field v.toNat 16 0 = 0
      (clean → enabled →
        taken (.trigCfg m b v) s m .trigCfg (s.setReg .trigCfg (setBit (s.reg .trigCfg b) 31 (trigOn v.toNat)) b)) ∧
      (clean → ¬ enabled → trigOn v.toNat = false → taken (.trigCfg m b v) s m .trigCfg (s.setReg .trigCfg v.toNat b)) ∧
      (clean → ¬ enabled → trigOn v.toNat = true → obeys →
        let now := s.ns (trigTb v.toNat)
        let u := s.setReg .trigCfg v.toNat b
        taken (.trigCfg m b v) s m .trigCfg
          (State.bumpIf { u with pins := { u.pins with
              trigNext := u.pins.trigNext.set 0 b now, trigDriven := setBit u.pins.trigDriven b true } }
            (decide (trigMode v.toNat = 0) && decide (u.reg .trigPeriodNs b = 0) && decide (0 < since64 now (u.reg .trigStart b)))
            .trigMissed b)) ∧
      (¬ enabled → ¬ obeys → ignored (.trigCfg m b v) s m .trigCfg b 0x8010) ∧
      (¬ clean → enabled ∨ obeys → ignored (.trigCfg m b v) s m .trigCfg b 0x8011))

/-- RADIO_FRAME_BOUNDARY, SLOT_BOUNDARY and SYMBOL_BOUNDARY complete. At the CK cycle that reaches a slot boundary of an enabled
cell in service, SLOT_BOUNDARY ends the slot under way, with its gains and report, and begins the slot its time base gives:
SFN, slot number and symbol 0; it raises the SLOT event on the cell's cores unless they wait for a move's data; at a slot
already begun, at another instant or for a silent cell it does nothing. At a symbol start SYMBOL_BOUNDARY sets the cell's
symbol, and raises a SYMBOL event where the cell asks for one and waits for no move; else it does nothing. At a frame
boundary RADIO_FRAME_BOUNDARY switches a ready tilth copy and a waiting radio stack, lets each cell of the time base pass
the boundary, and lets radio queues look again; at another instant, or of no time base, it does nothing. A cell that is not
lost, does not wait for its time base after a restart and is not moving is enabled where it asked to be and VBB is good, is
disabled, with its slot ended, where it asked for that, and stays otherwise. (R208, R211, R259, R271, R272, R273, R281,
R322, R465, R500) -/
def Obligations.RadioBoundariesComplete : Prop :=
  (∀ (s : State) (c : Nat),
    let b := s.cellTb c
    let slot := s.inFrame b / slotNs (s.cellScs c)
    let due := s.cellSilent c = false ∧ s.reached b (slotNs (s.cellScs c)) 0 = true ∧
      ¬ ((s.cell c).begun = true ∧ (s.cell c).sfn = s.sfnNow b ∧ (s.cell c).slot = slot)
    let u := s.endSlot c
    let w := u.modCell c fun x =>
      { x with sfn := u.sfnNow b, slot, symbol := 0, begun := true, overran := x.overran && decide (slot ≠ 0) }
    (¬ due → exec (.slotBoundary c) s = .next s) ∧
    (due → exec (.slotBoundary c) s = .next (if w.awaiting c then w else w.cellEvent c 2 slot)) ∧
    (due → s.tidy → completes (.slotBoundary c) s fun t => (t.cell c).begun = true ∧ (t.cell c).symbol = 0 ∧
      (t.cell c).sfn = s.sfnNow b ∧ (t.cell c).slot = slot ∧ ∀ d, d ≠ c → t.cell d = s.cell d)) ∧
  (∀ (s : State) (c : Nat),
    let here := (symbolStarts (s.cellScs c)).zipIdx.find? fun p => s.reached (s.cellTb c) 1000000 p.1
    (s.cellSilent c = true ∨ here = none → exec (.symbolBoundary c) s = .next s) ∧
    (s.cellSilent c = false → ∀ a l, here = some (a, l) →
      let u := s.modCell c fun x => { x with symbol := l % 14 }
      exec (.symbolBoundary c) s = .next (if u.symbolEv c && !u.awaiting c then u.cellEvent c 3 (l % 14) else u))) ∧
  (∀ (s : State) (b : Nat),
    (8 ≤ b ∨ s.reached b frameNs 0 = false → exec (.radioFrameBoundary b) s = .next s) ∧
    (b < 8 → s.reached b frameNs 0 = true → exec (.radioFrameBoundary b) s =
      .next (((List.range 256).foldl (fun u c => u.cellBoundary b c) ((s.tilthSwitch b).radioStackBoundary b)).radioCheckAll))) ∧
  ∀ (s : State) (b c : Nat),
    (s.cellTb c ≠ b → s.cellBoundary b c = s) ∧
    (s.cellTb c = b → (s.cell c).lost = false → c ∉ s.boot.cellsWait → (s.cell c).move = none →
      ((s.cell c).want = none → s.cellBoundary b c = s) ∧
      ((s.cell c).want = some true → s.cellBoundary b c = (if s.power.vbbOut then s else s.enableCell c)) ∧
      ((s.cell c).want = some false →
        s.cellBoundary b c = (s.endSlot c).disableCell c))

/-- TRIG_EDGE, TRIG_PULSE_END, CAP_EDGE, PPS_IN_EDGE, PPS_OUT_EDGE, PPS_OUT_PULSE_END, CAP_READ, PPS_IN_READ and CALIBRATION
complete. TRIG_EDGE of an output whose edge is reached in this CK cycle makes it active, with its polarity, until its width
has passed, and the edge lies at one of the two eighths of the cycle about its instant; one that an earlier cycle had
reached counts in TRIG_MISSED, and one whose cell is not enabled on its time base is passed over; before it is due, or with
no edge to come, nothing happens. TRIG_PULSE_END and PPS_OUT_PULSE_END make an active output inactive at its end, and do
nothing before. CAP_EDGE and PPS_IN_EDGE of a wanted edge 20 ns or more after the last append the record of eight time bases
at its eighth of the CK cycle, a free value, with the next SEQ, or with 16 records held count an overrun, and the servos on
that input measure; an edge too soon counts an overrun alone, an unwanted one does nothing. CAP_READ and PPS_IN_READ by an
open session remove the oldest record and answer with it, or answer with no bytes where none is held. PPS_OUT_EDGE of a
second reached in this CK cycle makes 1PPS out active at one of the two eighths about it, one that an earlier cycle had
reached or one that its lock state forbids is passed over, and before it is due nothing happens. CALIBRATION of a unit that
may be measured counts a run, of another does nothing. (R319, R325, R326, R327, R328, R329) -/
def Obligations.PinCommandsComplete : Prop :=
  (∀ (s : State) (n : Nat), 8 ≤ n ∨ s.trigDue n = none → exec (.trigEdge n) s = .next s) ∧
  (∀ (s : State) (n e due : Nat), n < 8 → s.trigDue n = some (e, due) →
    let w := s.reg .trigCfg n
    let late := since64 (s.ns (trigTb w)) due
    let u := { s with pins := { s.pins with trigNext := s.pins.trigNext.set 0 n ((e + 1) % 2 ^ 64) } }
    (late < 0 → exec (.trigEdge n) s = .next s) ∧
    (0 ≤ late → s.trigCellOn w = false → exec (.trigEdge n) s = .next u) ∧
    (0 ≤ late → s.passed (trigTb w) due = true → s.trigCellOn w = true →
      exec (.trigEdge n) s = .next (u.bump .trigMissed n)) ∧
    (0 ≤ late → s.passed (trigTb w) due = false → s.trigCellOn w = true →
      let stop := ((due + s.reg .trigWidthNs n) % 2 ^ 64, trigTb w)
      let v := u.placeEdge n (trigTb w) due
      exec (.trigEdge n) s = .next { v with pins := { v.pins with
        trig := setBit s.pins.trig n true, trigPol := setBit s.pins.trigPol n (bit w 30)
        trigEnd := s.pins.trigEnd.put n stop } })) ∧
  (∀ (s : State) (b due k : Nat), ∃ x, x ≤ 7 ∧ s.placeEdge k b due = { (s.draw Config.edgeLater).2 with pins :=
      { s.pins with edgeAt := s.pins.edgeAt.put k x } } ∧
    let ahead := (due * 2 ^ 32 + 2 ^ 97 + s.reg .incr b - (s.tb b).count) % 2 ^ 96 * 8
    (0 < s.reg .incr b → ahead < 8 * s.reg .incr b →
      x * s.reg .incr b ≤ ahead + s.reg .incr b ∧ ahead < (x + 1) * s.reg .incr b)) ∧
  (∀ (s : State) (n : Nat),
    let due := n < 8 ∧ bit s.pins.trig n = true ∧ 0 ≤ since64 (s.ns (s.pins.trigEnd.at n).2) (s.pins.trigEnd.at n).1
    (due → exec (.trigPulseEnd n) s = .next
      { s with pins := { s.pins with trig := setBit s.pins.trig n false, trigEnd := s.pins.trigEnd.erase n } }) ∧
    (¬ due → exec (.trigPulseEnd n) s = .next s)) ∧
  (∀ (s : State) (n : Nat) (f : Bool), 4 ≤ n → exec (.capEdge n f) s = .next s) ∧
  (∀ (s : State) (n : Nat) (f : Bool) (i : Instr), (n < 4 ∧ i = .capEdge n f) ∨ (n = 4 ∧ i = .ppsInEdge f) →
    let w := s.reg (capRegs n).1 (capRegs n).2.2
    let q := s.pins.caps.get [] n
    let last := s.pins.capLast.get 0 n
    let wanted := bit w 7 = true ∧ (w % 4 = 0 → f = false) ∧ (w % 4 = 1 → f = true)
    let k := Config.edgePhase s.free % 8
    let v := { s with free := s.free + 1 }
    let now := s.ck * 8 + k + 1
    let soon := last ≠ 0 ∧ (now - last) * 40 < 20 * 33 * 8
    let u := { v with pins := { s.pins with capLast := s.pins.capLast.set 0 n now } }
    (¬ wanted → exec i s = .next s) ∧
    (wanted → soon → exec i s = .next (v.bump (capRegs n).2.1 (capRegs n).2.2)) ∧
    (wanted → ¬ soon → 16 ≤ q.length → exec i s = .next ((u.bump (capRegs n).2.1 (capRegs n).2.2).capMeasure n k)) ∧
    (wanted → ¬ soon → q.length < 16 →
      let caps := s.pins.caps.set [] n (q ++ [u.capRecord n k f])
      let seq := s.pins.capSeq.set 0 n ((s.pins.capSeq.get 0 n + 1) % 2 ^ 32)
      exec i s = .next (State.capMeasure { u with pins := { u.pins with caps := caps, capSeq := seq } } n k))) ∧
  (∀ (s : State) (m n : Nat), (4 ≤ n ∨ s.isOpen m = false → exec (.capRead m n) s = .next s) ∧
    (s.isOpen m = false → exec (.ppsInRead m) s = .next s)) ∧
  (∀ (s : State) (m n : Nat) (i : Instr), (n < 4 ∧ i = .capRead m n) ∨ (n = 4 ∧ i = .ppsInRead m) → s.isOpen m = true →
    (s.pins.caps.get [] n = [] → exec i s = .next (s.answer m (s.opResult m 0 (Reg.ty .capRead) []))) ∧
    ∀ r q, s.pins.caps.get [] n = r :: q →
      let u := { s with pins := { s.pins with caps := s.pins.caps.set [] n q } }
      exec i s = .next (u.answer m (u.opResult m 0 (Reg.ty .capRead) r))) ∧
  (∀ s : State, let e : Nat := ceilDiv s.pins.ppsNext (10 ^ 9) * 10 ^ 9
    let due : Nat := ofSigned 64 ((e : Int) - s.comp 13)
    let b := s.reg .ppsOutCfg % 8
    let late := since64 (s.ns b) due
    let held := bit (s.reg .ppsOutCfg) 6 = true → s.reg .lockState b = 2 ∨ s.reg .lockState b = 3
    let stop := (due + s.reg .ppsOutWidthNs) % 2 ^ 64
    (bit (s.reg .ppsOutCfg) 7 = false ∨ late < 0 → exec .ppsOutEdge s = .next s) ∧
    (bit (s.reg .ppsOutCfg) 7 = true → 0 ≤ late →
      let v := ({ s with pins := { s.pins with ppsNext := e + 1 } } : State).placeEdge 8 b due
      (s.passed b due = false ∧ held → exec .ppsOutEdge s = .next
        { v with pins := { v.pins with ppsOut := true, ppsEnd := stop, ppsTb := b } }) ∧
      (¬ (s.passed b due = false ∧ held) → exec .ppsOutEdge s = .next { s with pins := { s.pins with ppsNext := e + 1 } }))) ∧
  (∀ s : State,
    let due := s.pins.ppsOut = true ∧ 0 ≤ since64 (s.ns s.pins.ppsTb) s.pins.ppsEnd
    (due → exec .ppsOutPulseEnd s = .next { s with pins := { s.pins with ppsOut := false } }) ∧
    (¬ due → exec .ppsOutPulseEnd s = .next s)) ∧
  ∀ (s : State) (u : CalUnit), (s.calReady u = true → exec (.calibration u) s = .next (s.bump .calRuns)) ∧
    (s.calReady u = false → exec (.calibration u) s = .next s)

namespace Sys2Proof.Claims

/-- The rows that serve an arrived request of a job, with its packet kind, the region right it needs, and what it does at the home. -/
def homeRows : List (Instr × Nat × (Nat → Bool) × (State → Nat → Packet → State)) :=
  [(.fabricRead, pkRead, regionRead, fun u i p => u.respond p pkReadData (u.homeRead i p.dpa p.len)),
   (.fabricWrite, pkWrite, regionWritable, fun u i p => (u.homeWrite i p.dpa p.payload).respond p pkWriteAck []),
   (.atomic, pkAtomic, regionAtomic, State.atomicAt)]

/-- The other rows that a packet kind brings. -/
def packetRows : List (Instr × Nat) :=
  [(.drain, pkDrain), (.bulkWrite, pkBulkWrite), (.bulkRead, pkBulkRead), (.readData, pkReadData), (.writeAck, pkWriteAck),
   (.atomicAck, pkAtomicAck), (.drainAck, pkDrainAck), (.refuse, pkRefuse), (.bulkData, pkBulkData), (.bulkAck, pkBulkAck),
   (.cellData, pkCellData), (.cellAck, pkCellAck)]

/-- The state once response `p` is taken: its SEQ is marked where it answers a request. -/
def heard (s : State) (p : Packet) : State :=
  match s.sentOf p with
  | some _ => (s.takeArrived p).mark p
  | none => s.takeArrived p

/-- Response `p` answers the request `o`, which is still wanted. -/
abbrev answers (s : State) (p : Packet) (o : Sent) : Prop := s.sentOf p = some o ∧ o.dropped = false

end Sys2Proof.Claims

/-- FLIT_RECEIVED, RETRAIN, FABRIC_PORT_DOWN and FABRIC_LINK_UP complete. On a fitted, enabled port that is up every flit counts
its FEC codewords (how many is open, log entry 89). One whose CRC or length is wrong counts in CRC_ERRORS and asks for a
NAK; a good one out of sequence asks for a NAK once and is not taken; a good one in sequence moves the sequence on, is taken
for its link fields and, for a data flit, for its packet bytes; on any other port a flit does nothing. An acknowledgement
frees the flits it covers; a NAK also sends the rest again, in order, unless it is the 8th in a row. RETRAIN of a port that
is up and not retraining, with 8 NAKs in a row or 5 us with flits outstanding and no acknowledgement, starts a retrain and
counts it. FABRIC_PORT_DOWN of a port that has retrained for 2 ms takes it down, drops what is unacknowledged, owed, half
sent and half received, and raises record 0x0401. FABRIC_LINK_UP of a fitted port, from port training on, sets PEER_ID; a
port that was up goes on after its retrain with its replay buffer, sent again, and its sequences; one that was down begins
afresh with FSEQ 1; then what is held leaves. Otherwise these do nothing. (R336, R337, R338, R340, R371, R407, R526) -/
def Obligations.FabricPortEventsComplete : Prop :=
  (∀ (s : State) (n : Nat) (f : Flit),
    let on := n < 16 ∧ (s.port n).up = true ∧ s.xpFitted n = true ∧ s.reg .fabPortEnable n ≠ 0
    let h := f.header.toNat
    let good : Prop := f.payload.length = 244 ∧ f.crc.toNat = crc32c (leBytes 8 h ++ f.payload)
    let want := if field h 15 14 = 0 then (s.port n).rxSeq else ((s.port n).rxSeq + 1) % 4096
    (¬ on → exec (.flitReceived n f) s = .next s) ∧
    (on → ¬ good → exec (.flitReceived n f) s = .next
      (((s.fecCount n true).bump .crcErrors n).modPort n fun x => { x with nakOut := true, discarding := true })) ∧
    (on → good → field h 63 52 ≠ want → exec (.flitReceived n f) s = .next
      ((s.fecCount n false).modPort n fun x => { x with nakOut := x.nakOut || !x.discarding, discarding := true })) ∧
    (on → good → field h 63 52 = want →
      let u := ((s.fecCount n false).modPort n fun x =>
        { x with rxSeq := want, discarding := x.discarding && decide (field h 15 14 = 0) }).linkFields n h
      exec (.flitReceived n f) s = .next (if field h 15 14 = 1 then u.flitData n h f.payload else u).flushFabric)) ∧
  (∀ (s : State) (n h : Nat), s.tidy → bit h 39 = true ∨ bit h 38 = true →
    let t := s.linkFields n h
    let k := ackedBy (field h 51 40) (s.port n).replay
    let left := (s.port n).replay.drop k
    let row := (if k = 0 then (s.port n).naks else 0) + 1
    (t.port n).replay = left ∧ (bit h 38 = false → (t.port n).tx = (s.port n).tx) ∧
    (bit h 38 = true → row < 8 → (t.port n).tx = (s.port n).tx ++ left ∧ (t.port n).naks = row)) ∧
  (∀ (s : State) (n : Nat),
    let x := s.port n
    let may := n < 16 ∧ x.up = true ∧ x.retraining = false ∧ (8 ≤ x.naks ∨ (x.replay ≠ [] ∧ x.ackCk + 4125 ≤ s.ck))
    (may → exec (.retrain n) s = .next ((s.setPort n { x with retraining := true, naks := 0, retrainCk := s.ck }).bump .retrains n)) ∧
    (¬ may → exec (.retrain n) s = .next s)) ∧
  (∀ (s : State) (n : Nat),
    let x := s.port n
    let late := x.up = true ∧ x.retraining = true ∧ x.retrainCk + 1650000 ≤ s.ck
    (¬ late → exec (.fabricPortDown n) s = .next s) ∧
    (late → exec (.fabricPortDown n) s = .next (State.fault (s.setPort n { x with
      up := false, retraining := false, replay := [], naks := 0, nakOut := false, discarding := false, used := [], owed := [],
      rx := [], fill := [], fillStarts := [], tx := [] }) 0x0401 3 7 n))) ∧
  ∀ (s : State) (n peer : Nat),
    let u := s.setReg .peerId peer n
    let x := s.port n
    let trains := s.xpFitted n = true ∧ s.portsTrain = true
    (¬ trains → exec (.fabricLinkUp n peer) s = .next s) ∧
    (trains → x.up = true → exec (.fabricLinkUp n peer) s = .next (u.setPort n
      { x with retraining := false, ackCk := s.ck, tx := if x.retraining then x.replay else x.tx }).flushFabric) ∧
    (trains → x.up = false → exec (.fabricLinkUp n peer) s = .next (u.setPort n
      { (default : Port) with up := true, txSeq := 1, fecOk := x.fecOk, fecBad := x.fecBad }).flushFabric)

/-- FABRIC_READ, FABRIC_WRITE, ATOMIC, DRAIN, BULK_WRITE and BULK_READ complete at the home. FABRIC_READ, FABRIC_WRITE and
ATOMIC take the first arrived request of their kind that meets no held byte and that no earlier request to one of its lines
holds up: one of an unknown job is refused with 1, one that the home does not serve with its reason, one that meets an
uncorrectable word is reported and not answered, and any other is served: a READ answered with the bytes and no memory
changed, a WRITE written and acknowledged with every other byte left, an ATOMIC applied under its ledger slot. DRAIN is
acknowledged at once. BULK_WRITE goes into the copy that its sender is writing, of which there always is one, with frames
taken as needed, counts as arrived and is acknowledged, and the copy closes once all of it has arrived and checks; with no
frame it is refused with 6. BULK_READ of the latest complete copy is answered with its bytes; with none it is refused with
1; an uncorrectable word is reported and makes the copy invalid. A refusal changes no memory. With no such request arrived a
command does nothing, and one that shares no line with another is never held up by it. (R152, R347, R354, R355, R356, R357,
R366, R368, R462) -/
def Obligations.HomeRequestsComplete : Prop :=
  (∀ s : State, (∀ r ∈ homeRows, s.arrivedOf r.2.1 (s.homeWaits r.2.2.1) = none → exec r.1 s = .next s) ∧
    ∀ r ∈ packetRows, s.arrivedOf r.2 = none → exec r.1 s = .next s) ∧
  (∀ (s : State) (p : Packet), ∀ r ∈ homeRows, p ∈ s.fab.arrived → p.kind = r.2.1 → s.homeWaits r.2.2.1 p = false →
    (∀ q ∈ s.fab.arrived, q.atHome = true → sameLine p q = true → q = p) → s.arrivedOf r.2.1 (s.homeWaits r.2.2.1) ≠ none) ∧
  (∀ (s : State) (p : Packet), ∀ r ∈ homeRows, s.arrivedOf r.2.1 (s.homeWaits r.2.2.1) = some p →
    let u := s.takeArrived p
    (s.jobIndex p.job = none → exec r.1 s = .next (u.refusePacket p 0x0001)) ∧
    ∀ i, s.jobIndex p.job = some i →
      (∀ e, s.serveReason i p r.2.2.1 = some e → exec r.1 s = .next (u.refusePacket p e)) ∧
      (s.serveReason i p r.2.2.1 = none →
        let held := runsHit ((List.range p.extent.2).map fun k => (s.homeDpa i (p.dpa + k), 1)) (s.heldRuns none)
        let bads := ((List.range p.extent.2).map fun k => s.homeDpa i (p.dpa + k) / 8 * 8).filter fun a => s.badIn a 8
        held = false ∧
        (s.homeBad i p = true → exec r.1 s = .next (u.badRecord 0x0103 2 (bads.headD 0) 0xFFFF p.job)) ∧
        (s.homeBad i p = false → exec r.1 s = .next (r.2.2.2 u i p)))) ∧
  (∀ (s : State) (p : Packet) (e : Nat) (bs : Bytes), (s.refusePacket p e).mem = s.mem ∧ (s.respond p pkReadData bs).mem = s.mem) ∧
  (∀ (s : State) (i : Nat) (p : Packet) (a : Nat),
    (∀ k, k < p.payload.length → s.homeDpa i (p.dpa + k) ≠ a) → ((s.homeWrite i p.dpa p.payload).respond p pkWriteAck []).rd a = s.rd a) ∧
  (∀ (s : State) (p : Packet), s.arrivedOf pkDrain = some p →
    exec .drain s = .next ((s.takeArrived p).respond p pkDrainAck [])) ∧
  (∀ (s : State) (p : Packet), s.arrivedOf pkBulkWrite = some p →
    let header := bit p.dpa 40
    let off := field p.dpa 33 0 * 1024
    let u := (s.takeArrived p).openCopy p.job p.src header (off / 1024)
    let copy := u.fab.buddies.find? fun b => b.job = p.job ∧ b.src = p.src ∧ !b.complete
    copy ≠ none ∧
    ∀ b, copy = some b →
      let at_ := if header then off else 4096 + off
      let frames := u.copyFrames b (ceilDiv (at_ + p.len) frameBytes - b.frames.length)
      (frames = none → exec .bulkWrite s = .next (u.refusePacket p 0x0006)) ∧
      ∀ b' v, frames = some (b', v) →
        let c := if header then { b' with gotHead := b'.gotHead ++ [off / 1024] }
          else { b' with length := max b'.length (off + p.len), got := b'.got ++ [off / 1024] }
        let w := (v.modBuddies fun l => l.map fun x => if x = b then c else x).copyWrite c at_ p.payload
        exec .bulkWrite s = .next ((w.closeCopy c).respond p pkBulkAck [])) ∧
  ∀ (s : State) (p : Packet), s.arrivedOf pkBulkRead = some p →
    let u := s.takeArrived p
    (s.latestCopy p.job (field p.dpa 39 34) = none → exec .bulkRead s = .next (u.refusePacket p 0x0001)) ∧
    ∀ b, s.latestCopy p.job (field p.dpa 39 34) = some b →
      let off := field p.dpa 33 0 * 1024 + if bit p.dpa 40 then 0 else 4096
      let words := (List.range p.len).filterMap fun i =>
        (b.frames[(off + i) / frameBytes]?).map fun f => (f * frameBytes + (off + i) % frameBytes) / 8 * 8
      ((∀ a ∈ words, s.badIn a 8 = false) → exec .bulkRead s = .next (u.respond p pkBulkData (s.copyRead b off p.len))) ∧
      ∀ a, (words.find? fun a => s.badIn a 8) = some a → exec .bulkRead s =
        .next ((u.badRecord 0x0103 2 a 0xFFFF p.job).modBuddies fun l => l.map fun x => if x = b then { x with complete := false } else x)

/-- READ_DATA, WRITE_ACK, ATOMIC_ACK, DRAIN_ACK, REFUSE, BULK_DATA, BULK_ACK, CELL_DATA and CELL_ACK complete. The first
response of its kind that has arrived marks the SEQ of the request it answers. READ_DATA lands its bytes for the command
that asked, ATOMIC_ACK its prior values by element; where the request is no longer wanted or none is known, what waited for
it goes on. WRITE_ACK and CELL_ACK do no more; BULK_ACK lets snapshots go on; BULK_DATA adds to the restore that asked and
does nothing else where none did; REFUSE ends a snapshot or restore as failed, counts against a cell's move, of a command's
request is reported with its reason while the command waits, and where it is not wanted lets what waited go on. DRAIN_ACK
takes the SEQ from what its destination waits for, and switches a reachable destination's route when nothing is left.
CELL_DATA named by this cell's move lands its bytes and is acknowledged, the first SLOT event following once everything has
landed; any other is refused with 5. With no such response arrived a command does nothing (HomeRequestsComplete). (R18,
R281, R347, R348, R355, R356, R357, R359, R364, R367, R368, R369) -/
def Obligations.ResponsesComplete : Prop :=
  (∀ (s : State) (p : Packet),
    let u := heard s p
    (s.arrivedOf pkReadData = some p →
      (∀ o c off, answers s p o → o.what = .load c off → exec .readData s = .next (u.landFor c o off p.payload)) ∧
      ((∀ o c off, answers s p o → o.what ≠ .load c off) → exec .readData s = .next u.settleAll.settleSnapshots)) ∧
    (s.arrivedOf pkAtomicAck = some p →
      (∀ o c off, answers s p o → o.what = .atomic c off → exec .atomicAck s = .next (u.landFor c o (off * 8) p.payload)) ∧
      ((∀ o c off, answers s p o → o.what ≠ .atomic c off) → exec .atomicAck s = .next u.settleAll.settleSnapshots)) ∧
    (s.arrivedOf pkWriteAck = some p → exec .writeAck s = .next u) ∧
    (s.arrivedOf pkCellAck = some p → exec .cellAck s = .next u) ∧
    (s.arrivedOf pkBulkAck = some p → exec .bulkAck s = .next u.settleSnapshots) ∧
    (s.arrivedOf pkBulkData = some p →
      (∀ o c off, answers s p o → o.what = .restore c off → exec .bulkData s = .next (u.bulkData c off p.payload)) ∧
      ((∀ o c off, answers s p o → o.what ≠ .restore c off) → exec .bulkData s = .next u)) ∧
    (s.arrivedOf pkRefuse = some p →
      (∀ o, answers s p o →
        (∀ c, o.what = .snapshot c → exec .refuse s = .next (u.endSnapshot c false)) ∧
        (∀ c off, o.what = .restore c off → exec .refuse s = .next (u.endRestore c false)) ∧
        (∀ c, o.what = .cell c → exec .refuse s = .next (u.modCell c fun x => { x with moveFails := x.moveFails + 1 })) ∧
        (∀ c off, o.what = .load c off ∨ o.what = .store c ∨ o.what = .atomic c off → exec .refuse s =
          .next { u with fab := { u.fab with refusals := u.fab.refusals ++ [⟨o.dest, o.job, o.seq, leAt p.payload 0 2⟩] } }) ∧
        (∀ d, o.what = .drain d → exec .refuse s = .next u)) ∧
      ((∀ o, ¬ answers s p o) → exec .refuse s = .next u.settleAll.settleSnapshots))) ∧
  (∀ (s : State) (p : Packet), s.arrivedOf pkDrainAck = some p →
    let u := heard s p
    let drop (x : RouteDrain) : RouteDrain := if x.dest = p.src then { x with waiting := x.waiting.filter (· ≠ p.seq) } else x
    let v := { u with fab := { u.fab with drains := u.fab.drains.map drop } }
    let found := v.fab.drains.find? fun x => x.dest = p.src
    (∀ x, found = some x → x.waiting = [] → x.unreachable = false → exec .drainAck s = .next (v.switchRoute p.src)) ∧
    ((∀ x, found = some x → x.waiting ≠ [] ∨ x.unreachable = true) → exec .drainAck s = .next v)) ∧
  ∀ (s : State) (p : Packet), s.arrivedOf pkCellData = some p →
    let c := field p.dpa 40 33
    let named := p.job = 0 ∧ ∃ f, (s.cell c).move = some (p.src, 1, f)
    let u := (s.takeArrived p).landCell c (field p.dpa 32 30) (field p.dpa 29 0) p.payload
    (named → exec .cellData s = .next ((if s.awaiting c && !u.awaiting c then u.firstSlot c else u).respond p pkCellAck [])) ∧
    (¬ named → exec .cellData s = .next ((s.takeArrived p).refusePacket p 0x0005))

/-- ROUTE_TABLE, ROUTE_COMMIT, ROUTE_DRAIN_TIMEOUT, Relevo WFQ_COMMIT, REQ_TIMEOUT, WIN_LOAD_DATA and WIN_COMMIT complete.
ROUTE_TABLE is the shadow while no change is under way, else ignored with 0x8013. ROUTE_COMMIT of the next epoch starts the
change: every destination whose entry differs drains, those with nothing to wait for switch at once; with the fabric off all
do and the epoch rises; of another epoch or during a change it is ignored with 0x8013. Relevo WFQ_COMMIT of the next epoch
exchanges the weights of every port and class with the entries, of another it is ignored with 0x8013. WIN_LOAD_DATA that
ends within the shadow is written at its offset, else ignored with 0x8010. WIN_COMMIT is ignored with the first reason that
its shadow or epoch gives, else its regions come in force and the former ones are the shadow. Each needs an open session
with the right, and octets of the stated length. ROUTE_DRAIN_TIMEOUT of a destination that has waited ROUTE_DRAIN_US makes
it unreachable and reports it; REQ_TIMEOUT of a request that has waited REQ_TIMEOUT_US is reported and counted and its time
begins again, and a snapshot or restore that still wants it fails; both do nothing otherwise. (R207, R339, R345, R347, R348,
R352, R363, R366, R372, R436, R444, R472) -/
def Obligations.RouteAndWindowCommandsComplete : Prop :=
  (∀ (s : State) (m : Nat) (v : Bytes), guardedOctets (.routeTable m v) s m .routeTable 0 v ∧
    (mayWrite s m .routeTable → Reg.sizeOk .routeTable v.length = true →
      (s.reg .routeStatus ≠ 1 → taken (.routeTable m v) s m .routeTable (s.setOct .routeTable v)) ∧
      (s.reg .routeStatus = 1 → ignored (.routeTable m v) s m .routeTable 0 0x8013))) ∧
  (∀ (s : State) (m v : Nat), guarded (.routeCommit m v) s m .routeCommit 0 ∧
    (mayWrite s m .routeCommit →
      let next := v % 2 ^ 32 = (s.reg .routeEpoch + 1) % 2 ^ 32 ∧ s.reg .routeStatus ≠ 1
      let ds := (List.range 64).filter fun d => decide (s.shadowRoutes.get 0 d ≠ s.fab.route.get 0 d)
      let drains := ds.map fun d => (⟨d, [], false, s.ck⟩ : RouteDrain)
      let u := ds.foldl (fun u d => State.sendDrains u d)
        { (s.setReg .routeStatus 1) with fab := { s.fab with routeNext := some s.shadowRoutes, drains := drains } }
      let w := (((u.fab.drains.filter fun x => x.waiting = []).map (·.dest)).foldl (fun u d => u.switchRoute d) u).finishRoute
      (¬ next → ignored (.routeCommit m v) s m .routeCommit 0 0x8013) ∧ (next → taken (.routeCommit m v) s m .routeCommit w) ∧
      (next → s.tidy → s.fabricOn = false → w.reg .routeEpoch = v % 2 ^ 32 ∧ w.reg .routeStatus = 0 ∧ w.fab.drains = [] ∧
        w.fab.routeNext = none ∧ ∀ d, d < 64 → w.fab.route.get 0 d = s.shadowRoutes.get 0 d))) ∧
  (∀ (s : State) (d : Nat),
    let found := s.fab.drains.find? fun x => x.dest = d
    let due (x : RouteDrain) : Prop := x.unreachable = false ∧ x.waiting ≠ [] ∧ x.startCk + s.reg .routeDrainUs * 825 ≤ s.ck
    let lost (y : RouteDrain) : RouteDrain := if y.dest = d then { y with unreachable := true } else y
    let u := { s with fab := { s.fab with drains := s.fab.drains.map lost } }
    (∀ x, found = some x → due x →
      exec (.routeDrainTimeout d) s = .next (u.raise { u.record 0x0403 0 0 0 with suspect := d }).settleUnreachable) ∧
    ((∀ x, found = some x → ¬ due x) → exec (.routeDrainTimeout d) s = .next s)) ∧
  (∀ (s : State) (m v : Nat), guarded (.relevoWfqCommit m v) s m .fabWfqCommit 0 ∧
    (mayWrite s m .fabWfqCommit →
      (v % 2 ^ 32 ≠ (s.reg .fabWfqEpoch + 1) % 2 ^ 32 → ignored (.relevoWfqCommit m v) s m .fabWfqCommit 0 0x8013) ∧
      (s.tidy → v % 2 ^ 32 = (s.reg .fabWfqEpoch + 1) % 2 ^ 32 →
        ∃ u : State, taken (.relevoWfqCommit m v) s m .fabWfqCommit u ∧ u.reg .fabWfqEpoch = v % 2 ^ 32 ∧
          u = { s with regs := u.regs, fab := { s.fab with weights := u.fab.weights } } ∧
          ∀ p, p < 16 → ∀ r k, (r, k) ∈ [(Reg.weightReq, 1), (Reg.weightRsp, 2), (Reg.weightBulk, 3)] →
            u.fab.weights.get r.dflt (p * 4 + k) = s.reg r p ∧
            u.reg r p = s.fab.weights.get r.dflt (p * 4 + k) % 2 ^ r.width))) ∧
  (∀ (s : State) (d j : Nat) (q : W64),
    let found := s.fab.out.find? fun o => o.dest = d ∧ o.job = j ∧ o.seq = q.toNat
    let due (o : Sent) : Prop := o.sentCk + s.reg .reqTimeoutUs * 825 ≤ s.ck
    ((∀ o, found = some o → ¬ due o) → exec (.reqTimeout d j q) s = .next s) ∧
    ∀ o, found = some o → due o →
      let u := (s.modOut fun x => if x = o then { x with sentCk := s.ck } else x).bump .unreachableReports
      let w := u.raise { u.record 0x0402 0 0 0 with suspect := d, job := j }
      (∀ i, o.dropped = false → o.what = .snapshot i → exec (.reqTimeout d j q) s = .next (w.endSnapshot i false)) ∧
      (∀ i k, o.dropped = false → o.what = .restore i k → exec (.reqTimeout d j q) s = .next (w.endRestore i false)) ∧
      (o.dropped = true ∨ (∀ i k, o.what ≠ .snapshot i ∧ o.what ≠ .restore i k) → exec (.reqTimeout d j q) s = .next w)) ∧
  (∀ (s : State) (m : Nat) (v : Bytes), guardedOctets (.winLoadData m v) s m .winLoadData 0 v ∧
    (mayWrite s m .winLoadData → Reg.sizeOk .winLoadData v.length = true →
      let i := s.selected m .job
      let o := s.reg .winLoadOffset i
      (o + v.length ≤ 16384 → taken (.winLoadData m v) s m .winLoadData
        ((s.modJob i fun j => { j with shadow := Tab.setRun 0 j.shadow o v }).setReg .winLoadOffset (o + v.length) i)) ∧
      (16384 < o + v.length → ignored (.winLoadData m v) s m .winLoadData 0 0x8010))) ∧
  ∀ (s : State) (m v : Nat), guarded (.winCommit m v) s m .winCommit 0 ∧
    (mayWrite s m .winCommit →
      let i := s.selected m .job
      let ws := s.shadowWindows i
      let old := (s.jobEntry i).windows
      let bad (r : Nat) : Bool := decide (regionSize r = 0) || decide (regionBase r % 4096 ≠ 0) ||
        (decide (63 < regionOwner r) && decide (regionOwner r < 0xFE))
      let reason := firstReason
        [(0x8010, decide (ws = []) || ws.any bad), (0x8011, ws.any fun r => decide (field r 35 0 ≠ 0)),
         (0x8013, decide (v % 2 ^ 32 ≠ (s.reg .winEpoch i + 1) % 2 ^ 32)), (0x8015, anyRegionsHit ws)]
      (∀ e, reason = some e → ignored (.winCommit m v) s m .winCommit 0 e) ∧
      (reason = none → taken (.winCommit m v) s m .winCommit ((((s.modJob i fun j =>
        { j with windows := ws, shadow := Tab.setRun 0 j.shadow 0 (old.flatMap (leBytes 16)) }).setReg .winEntries old.length i).bump
          .winEpoch i).checkAll)))

/-- JOB_CFG, JOB_TEARDOWN, CTX_JOB_ID, FABRIC_ENABLE, FABRIC_REVOKE, JOB_SNAPSHOT, BUDDY_ADOPT, RESTORE_FROM_BUDDY and
BUDDY_RELEASE complete. Each needs an open session with the right, and applies to the job entry or context that the session
selects. JOB_CFG of a free entry is held while it does not set ENABLE; one that sets it is ignored with the first reason
that its fields or the package give, or with 0x8016 where the ledger's frames cannot be had, and else derives the job key
and the entry runs; of an enabled entry only ENABLE may change, which erases it. JOB_TEARDOWN of a running job with a cause
4 to 8 ends it and leaves its state 3. CTX_JOB_ID 0, or a running job's with a member index within its ledger, is taken
while no command of the context is started. FABRIC_ENABLE with a package number turns the fabric on with a generation drawn
at random. FABRIC_REVOKE turns it off, ends every running job, and leaves nothing outstanding. JOB_SNAPSHOT of a running job
with a buddy and no snapshot under way starts one, its contexts stopping at their waits. BUDDY_ADOPT by a running job moves
another job's copies to it, in place of its own of the same source. RESTORE_FROM_BUDDY of a running job with no restore
under way asks for the copy's header. BUDDY_RELEASE frees every copy of a job and no other. What does not fit is ignored
with 0x8010, 0x8011 or 0x8012. (R346, R349, R350, R351, R358, R364, R365, R366, R367, R368, R436, R444) -/
def Obligations.JobCommandsComplete : Prop :=
  (∀ (s : State) (m : Nat) (v : BitVec 256),
    let i := s.selected m .job
    let w := v.toNat
    let old := s.jobBits i
    guardedOctets (.jobCfg m v) s m .jobCfg 0 (leBytes 32 w) ∧
    (mayWrite s m .jobCfg →
      (cfgEnable old = true →
        (field w 17 1 ≠ 0 → ignored (.jobCfg m v) s m .jobCfg 0 0x8011) ∧
        (field w 17 1 = 0 → setBit w 0 false ≠ setBit old 0 false → ignored (.jobCfg m v) s m .jobCfg 0 0x8012) ∧
        (field w 17 1 = 0 → setBit w 0 false = setBit old 0 false →
          (cfgEnable w = true → taken (.jobCfg m v) s m .jobCfg s) ∧
          (cfgEnable w = false → taken (.jobCfg m v) s m .jobCfg
            (((((s.eraseJob i).dropTraffic (cfgJob old)).setOct .jobCfg (leBytes 32 w) i).setReg .jobState 0 i).settleRegions.settleUnreachable)))) ∧
      (cfgEnable old = false → cfgEnable w = false →
        (field w 17 1 ≠ 0 → ignored (.jobCfg m v) s m .jobCfg 0 0x8011) ∧
        (field w 17 1 = 0 → taken (.jobCfg m v) s m .jobCfg (s.setOct .jobCfg (leBytes 32 w) i))) ∧
      (cfgEnable old = false → cfgEnable w = true →
        let ledger := s.takeLedger i (cfgJob w) (ceilDiv (cfgLedger w * 36864) frameBytes)
        (∀ e, s.jobReason w = some e → ignored (.jobCfg m v) s m .jobCfg 0 e) ∧
        (s.jobReason w = none → ledger = none → ignored (.jobCfg m v) s m .jobCfg 0 0x8016) ∧
        ∀ u : State, s.jobReason w = none → ledger = some u →
          let k := jobKey (u.prot.tenantKeys.get [] (cfgSlice w)) (cfgJob w) (cfgNonce w)
          taken (.jobCfg m v) s m .jobCfg ((((u.modJob i fun j => { j with key := k }).setOct .jobCfg (leBytes 32 w) i).setReg
            .jobState 1 i).dropStreams (cfgJob w))))) ∧
  (∀ (s : State) (m c : Nat), guarded (.jobTeardown m c) s m .jobTeardown 0 ∧
    (mayWrite s m .jobTeardown →
      let i := s.selected m .job
      let fits := 4 ≤ c % 256 ∧ c % 256 ≤ 8
      (¬ fits → ignored (.jobTeardown m c) s m .jobTeardown 0 0x8010) ∧
      (fits → s.reg .jobState i ≠ 1 → ignored (.jobTeardown m c) s m .jobTeardown 0 0x8012) ∧
      (fits → s.reg .jobState i = 1 → taken (.jobTeardown m c) s m .jobTeardown (s.endJobEntry i (c % 256)) ∧
        (s.tidy → i < 256 → (s.endJobEntry i (c % 256)).reg .jobState i = 3)))) ∧
  (∀ (s : State) (m : Nat) (v : W64), guarded (.ctxJobId m v) s m .ctxJobId 0 ∧
    (mayWrite s m .ctxJobId →
      let c := s.selected m .ctx
      let job := field v.toNat 63 48
      let tooHigh := ∃ j, s.jobIndex job = some j ∧ cfgLedger (s.jobBits j) ≤ field v.toNat 15 0
      let started := ∃ x, (s.ctx c).cmd = some x ∧ x.holds = true
      let unknown := v ≠ 0 ∧ (s.jobIndex job = none ∨ job = 0)
      (v ≠ 0 → tooHigh → ignored (.ctxJobId m v) s m .ctxJobId 0 0x8010) ∧
      (v = 0 ∨ ¬ tooHigh →
        (field v.toNat 47 16 ≠ 0 → ignored (.ctxJobId m v) s m .ctxJobId 0 0x8011) ∧
        (field v.toNat 47 16 = 0 → started ∨ unknown → ignored (.ctxJobId m v) s m .ctxJobId 0 0x8012) ∧
        (field v.toNat 47 16 = 0 → ¬ started → ¬ unknown →
          taken (.ctxJobId m v) s m .ctxJobId ((s.setReg .ctxJobId v.toNat c).checkNext c))))) ∧
  (∀ (s : State) (m : Nat), guarded (.fabricEnable m) s m .fabricCtrl 0 ∧ guarded (.fabricRevoke m) s m .fabricCtrl 0 ∧
    (mayWrite s m .fabricCtrl →
      (s.fabricOn = true → taken (.fabricEnable m) s m .fabricCtrl s) ∧
      (s.fabricOn = false → 63 < s.pkg → ignored (.fabricEnable m) s m .fabricCtrl 0 0x8012) ∧
      (s.fabricOn = false → s.pkg ≤ 63 →
        let u := (s.random 5).2
        taken (.fabricEnable m) s m .fabricCtrl
          ((State.dropStreams { u with fab := { u.fab with dgen := leNat (s.random 5).1 % 2 ^ 38 } } 0).setReg .fabricState 1).flushFabric) ∧
      (s.fabricOn = false → taken (.fabricRevoke m) s m .fabricCtrl s) ∧
      (s.tidy → s.fabricOn = true → ∃ u : State, taken (.fabricRevoke m) s m .fabricCtrl u ∧ u.reg .fabricState = 0 ∧ u.fab.held = [] ∧
        u.fab.arrived = [] ∧ u.fab.out = [] ∧ u.fab.drains = [] ∧ ∀ j, j < 256 → u.reg .jobState j ≠ 1))) ∧
  (∀ (s : State) (m k : Nat), guarded (.jobSnapshot m k) s m .jobSnapshot 0 ∧
    (mayWrite s m .jobSnapshot →
      let i := s.selected m .job
      let may := s.reg .snapStatus i ≠ 1 ∧ cfgBuddy (s.jobBits i) ≠ 0xFF ∧ s.reg .jobState i = 1
      let stop (u : State) (c : Nat) : State :=
        let u := u.modCtx c fun x => { x with snapped := true }
        match (u.ctx c).cmd with
        | some x => if x.op = some .wait ∨ x.op = some .waitMem then u.killCtx c 0x11 0 else u
        | none => u
      (¬ may → ignored (.jobSnapshot m k) s m .jobSnapshot 0 0x8012) ∧
      (may → taken (.jobSnapshot m k) s m .jobSnapshot ((((((s.jobCtxs i).foldl stop s).modJob i fun j =>
        { j with snapshot := some ⟨k % 2 ^ 32, false, false⟩ }).setReg .snapStatus 1 i)).settleSnapshot i)))) ∧
  (∀ (s : State) (m k : Nat), guarded (.buddyAdopt m k) s m .buddyAdopt 0 ∧
    (mayWrite s m .buddyAdopt →
      let i := s.selected m .job
      let old := k % 65536
      let job := cfgJob (s.jobBits i)
      let moved := s.fab.buddies.filter fun b => b.job = old
      let stale := s.fab.buddies.filter fun b => b.job = job ∧ moved.any fun x => x.src = b.src
      (s.reg .jobState i ≠ 1 → ignored (.buddyAdopt m k) s m .buddyAdopt 0 0x8012) ∧
      (s.reg .jobState i = 1 → old = job → taken (.buddyAdopt m k) s m .buddyAdopt s) ∧
      (s.reg .jobState i = 1 → old ≠ job → taken (.buddyAdopt m k) s m .buddyAdopt
        ((stale.foldl (fun u b => u.freeCopy b) s).modBuddies fun l => l.map fun b => if b.job = old then { b with job := job } else b)))) ∧
  (∀ (s : State) (m v : Nat), guarded (.restoreFromBuddy m v) s m .restoreFromBuddy 0 ∧
    (mayWrite s m .restoreFromBuddy →
      let i := s.selected m .job
      let b := v % 65536 % 256
      let src := v % 65536 / 256
      let may := s.reg .jobState i = 1 ∧ s.reg .jobRestoreStatus i ≠ 1
      let r : Restoring := { buddy := b, source := src, bytes := [], total := none, asked := true }
      (63 < b ∨ 63 < src → ignored (.restoreFromBuddy m v) s m .restoreFromBuddy 0 0x8010) ∧
      (b ≤ 63 → src ≤ 63 → ¬ may → ignored (.restoreFromBuddy m v) s m .restoreFromBuddy 0 0x8012) ∧
      (b ≤ 63 → src ≤ 63 → may → taken (.restoreFromBuddy m v) s m .restoreFromBuddy
        (((s.modJob i fun j => { j with restoring := some r }).setReg .jobRestoreStatus 1 i).askCopy i r 4096 true)))) ∧
  ∀ (s : State) (m j : Nat), guarded (.buddyRelease m j) s m .buddyRelease 0 ∧
    (mayWrite s m .buddyRelease → ∃ u : State, taken (.buddyRelease m j) s m .buddyRelease u ∧
      u = (s.fab.buddies.filter fun b => b.job = j % 65536).foldl (fun u b => u.freeCopy b) s ∧
      (∀ b ∈ u.fab.buddies, b.job ≠ j % 65536) ∧ ∀ b ∈ s.fab.buddies, b.job ≠ j % 65536 → b ∈ u.fab.buddies)

/-- HEARTBEAT, HB_ECHO, SELF_FENCE, REPORT_EPOCH_END, SCRUB, CE_SECOND, UNIT_OUT, LINK_RETRAIN and LINK_DOWN complete. HEARTBEAT
with HB_ENABLE logs the next sequence number and reports it on each port that has a REPORT_DEST; without it nothing happens.
HB_ECHO of a number sent on the session's own management port within HB_LOSS_MS renews that port, any other is ignored with
0x8010. SELF_FENCE with no port renewed for HB_LOSS_MS revokes the fabric credentials and counts, else does nothing.
REPORT_EPOCH_END reports the records of every epoch that is over, one frame per suspect, epoch and port and an event word
each, and keeps those of the present epoch. SCRUB of a clean word changes nothing, of a corrected one counts, and of an
uncorrectable one lists its words once, counts it and reports it where R462 names its place, and in hub firmware resets the
package. CE_SECOND reports a unit whose count passes the threshold and restarts the count. UNIT_OUT takes a unit that is in
service out, with what stands on it, and reports it; one that is out or not there changes nothing. LINK_RETRAIN notes when a
link that exists retrained; LINK_DOWN of a link that is up and retrained 100 us ago or more takes it out, reports it, takes
out what it cuts off and loads new mesh tables. (R20, R458, R459, R460, R461, R462, R463, R465, R468, R469, R470, R479) -/
def Obligations.HeartbeatsAndLossesComplete : Prop :=
  (∀ s : State, (s.reg .hbEnable ≠ 1 → exec .heartbeat s = .next s) ∧
    (s.reg .hbEnable = 1 →
      let seq := (s.faults.hbSeq + 1) % 2 ^ 32
      let f : FaultRec := { s.record 0x0000 0 0 0 with data := seq }
      let i := s.reg .faultLogIndex
      let ports := [0, 1].filter fun m => decide (s.oct .reportDest m ≠ zeros 18)
      let recent := s.faults.beats.filter fun b => decide (s.ck < b.2.2 + s.hbLossCk)
      let beats := recent ++ ports.map fun m => (seq, m, s.ck)
      let u := { s with faults := { s.faults with hbSeq := seq, log := s.faults.log.put i f, beats := beats } }
      exec .heartbeat s = .next (ports.foldl (fun u m => State.report u m [f.word]) (u.setReg .faultLogIndex ((i + 1) % 16384))))) ∧
  (∀ (s : State) (n v : Nat), guarded (.hbEcho n v) s n .hbEcho 0 ∧
    (mayWrite s n .hbEcho →
      let p := viaPort (s.sess n).via - 1
      let echo := (s.sess n).via ≠ .mailbox ∧ ∃ k, (v % 2 ^ 32, p, k) ∈ s.faults.beats ∧ s.ck ≤ k + s.hbLossCk
      (echo → taken (.hbEcho n v) s n .hbEcho { s with faults := { s.faults with renewed := s.faults.renewed.set 0 p (s.ck + 1) } }) ∧
      (¬ echo → ignored (.hbEcho n v) s n .hbEcho 0 0x8010))) ∧
  (∀ s : State,
    let due := s.reg .hbEnable = 1 ∧ s.fabricOn = true ∧ s.hbLost = true
    (due → exec .selfFence s = .next (s.bump .selfFences).revoke) ∧ (¬ due → exec .selfFence s = .next s)) ∧
  (∀ s : State,
    let past (f : FaultRec) : Bool := decide (f.epoch ≠ s.epochNow % 2 ^ 32)
    let out := s.faults.epoch.filter past
    let u := { s with faults := { s.faults with epoch := s.faults.epoch.filter fun f => !past f } }
    exec .reportEpochEnd s = .next ((reportKeys out).foldl (fun u k =>
      let fs := out.filter fun f => (f.suspect, f.epoch) = k
      fs.foldl (fun u f => u.event 1 0 0 0xFFFFFFFF f.bits (some f.time))
        ((State.report u 0 (fs.map FaultRec.word)).report 1 (fs.map FaultRec.word))) u)) ∧
  (∀ s : State, completes .reportEpochEnd s fun t => t.mem = s.mem ∧ t.ctxs = s.ctxs ∧
    t.faults.epoch = s.faults.epoch.filter fun f => f.epoch = s.epochNow % 2 ^ 32) ∧
  (∀ (s : State) (l : Loc),
    let unit := s.locUnit l
    let key := unit.1 * 256 + unit.2
    let at_ := match l with
      | .dpa a => (dpaWord a).1
      | _ => 0
    let new := (s.locWords l).filter fun w => !s.tier.badWords.contains w
    let u := ({ s with tier := { s.tier with badWords := s.tier.badWords ++ new } } : State).bump .ueTotal
    let v := if u.locCode l = 0 then u else u.raise { u.record (u.locCode l) 0 unit.1 unit.2 with address := at_ }
    exec (.scrub l .clean) s = .next s ∧
    exec (.scrub l .corrected) s = .next { s.bump .ceTotal with
      faults := { s.faults with corrected := s.faults.corrected.set 0 key (s.faults.corrected.get 0 key + 1) } } ∧
    exec (.scrub l .uncorrectable) s = .next (if l = .hubFirmware then v.packageReset 6 else v)) ∧
  (∀ (s : State) (u : UnitId) (n : Nat),
    let key := (UnitId.code u).1 * 256 + (UnitId.code u).2
    let k := n + s.faults.corrected.get 0 key
    let v := { s.bump .ceTotal 0 n with faults := { s.faults with corrected := s.faults.corrected.set 0 key 0 } }
    exec (.ceSecond u n) s = .next (if s.reg .ceReportThreshold < k then
      v.fault 0x0101 1 (UnitId.code u).1 (UnitId.code u).2 0xFFFF (k % 2 ^ 32) else v)) ∧
  (∀ (s : State) (n : Nat) (r : Bool),
    let cores := (List.range 48).map (48 * n + ·)
    let ports := (List.range 4).map (4 * n + ·)
    (n < 128 ∧ bit s.faults.meOut n = false → exec (.unitOut (.me n) r) s = .next
      (State.fault (State.enginesLeave { s with faults := { s.faults with meOut := setBit s.faults.meOut n true } } [n]) 0x0204 3 2 n)) ∧
    (¬ (n < 128 ∧ bit s.faults.meOut n = false) → exec (.unitOut (.me n) r) s = .next s) ∧
    (n < 16 ∧ bit s.faults.cdOut n = false → exec (.unitOut (.cd n) false) s = .next (State.fault (State.enginesLeave
      { s with faults := { s.faults with cdOut := setBit s.faults.cdOut n true } } ((List.range 8).map (8 * n + ·))) 0x0204 3 1 n)) ∧
    (¬ (n < 16 ∧ bit s.faults.cdOut n = false) → exec (.unitOut (.cd n) false) s = .next s) ∧
    (n < 16 ∧ bit s.faults.routerOut n = false → exec (.unitOut (.cd n) true) s = .next (s.routerLost n).meshLoss) ∧
    (¬ (n < 16 ∧ bit s.faults.routerOut n = false) → exec (.unitOut (.cd n) true) s = .next s) ∧
    (bit s.stackService n = true → exec (.unitOut (.stack n) r) s = .next (State.radioStackLost (State.fault
      { s with faults := { s.faults with stackOut := setBit s.faults.stackOut n true } } 0x0204 3 3 n) n)) ∧
    (bit s.stackService n = false → exec (.unitOut (.stack n) r) s = .next s) ∧
    (n < 2 ∧ (∃ c ∈ cores, bit s.faults.dspOut c = false) →
      exec (.unitOut (.bd n) r) s = .next ((s.coresLeave cores).fault 0x0204 3 4 n)) ∧
    (¬ (n < 2 ∧ ∃ c ∈ cores, bit s.faults.dspOut c = false) → exec (.unitOut (.bd n) r) s = .next s) ∧
    (n < 96 ∧ bit s.faults.dspOut n = false → exec (.unitOut (.dsp n) r) s = .next ((s.coresLeave [n]).fault 0x0204 3 5 n)) ∧
    (¬ (n < 96 ∧ bit s.faults.dspOut n = false) → exec (.unitOut (.dsp n) r) s = .next s) ∧
    (n < 4 ∧ (∃ p ∈ ports, bit s.xpService p = true) →
      exec (.unitOut (.xd n) r) s = .next ((ports.foldl (fun u p => u.xpLeaves p) s).fault 0x0204 3 6 n)) ∧
    (¬ (n < 4 ∧ ∃ p ∈ ports, bit s.xpService p = true) → exec (.unitOut (.xd n) r) s = .next s) ∧
    (n < 16 ∧ bit s.xpService n = true → exec (.unitOut (.xp n) r) s = .next ((s.xpLeaves n).fault 0x0204 3 7 n)) ∧
    (¬ (n < 16 ∧ bit s.xpService n = true) → exec (.unitOut (.xp n) r) s = .next s) ∧
    (n < 2 ∧ .fd n ∉ s.faults.cutOff → exec (.unitOut (.fd n) r) s = .next (State.fault ((List.range 8).foldl
      (fun u p => State.fhLeaves u (8 * n + p)) { s with faults := { s.faults with cutOff := s.faults.cutOff ++ [.fd n] } }) 0x0204 3 8 n)) ∧
    (¬ (n < 2 ∧ .fd n ∉ s.faults.cutOff) → exec (.unitOut (.fd n) r) s = .next s) ∧
    (n < 16 → exec (.unitOut (.fh n) r) s = .next ((s.fhLeaves n).fault 0x0204 3 9 n)) ∧
    (16 ≤ n → exec (.unitOut (.fh n) r) s = .next s) ∧
    (s.linkUp n = true → exec (.unitOut (.link n) r) s = .next (State.meshLoss (State.fault
      { s with faults := { s.faults with linksOut := s.faults.linksOut ++ [n] } } 0x0204 3 11 n))) ∧
    (s.linkUp n = false → exec (.unitOut (.link n) r) s = .next s) ∧
    exec (.unitOut .package r) s = .next (s.fault 0x0204 3 0 0) ∧ exec (.unitOut .hd r) s = .next (s.fault 0x0204 3 10 0) ∧
    exec (.unitOut (.timeBase n) r) s = .next (s.fault 0x0204 3 12 n)) ∧
  ∀ (s : State) (n : Nat),
    let due := s.linkUp n = true ∧ ∃ k, s.faults.linksRetrained.get 0 n = k + 1 ∧ k + 82500 ≤ s.ck
    (s.linkExists n = true → exec (.linkRetrain n) s =
      .next { s with faults := { s.faults with linksRetrained := s.faults.linksRetrained.set 0 n (s.ck + 1) } }) ∧
    (s.linkExists n = false → exec (.linkRetrain n) s = .next s) ∧
    (due → exec (.linkDown n) s = .next (State.meshLoss (State.fault
      { s with faults := { s.faults with linksOut := s.faults.linksOut ++ [n] } } 0x0301 3 11 n))) ∧
    (¬ due → exec (.linkDown n) s = .next s)

/-- SHADOW_START, SHADOW_MAX_AGE, SHADOW_COMPARE, SHADOW_COPY_DONE, ME_QUARANTINE and CD_OUT_MASK complete. SHADOW_COPY_DONE of
a context that is being copied copies its write set, ends the copy and checks its next descriptor; of another it does
nothing. SHADOW_START of the first copied shadow skips it when no engine qualifies, and otherwise starts it on a ready one
that qualifies, if any; with no copied shadow it does nothing. SHADOW_MAX_AGE skips a shadow that has not started in time,
if any. SHADOW_COMPARE of a shadow that runs counts a run, and only a result that differs is a mismatch. ME_QUARANTINE
returns the engines whose bits clear, with their mismatch counts 0, and takes those whose bits are added out; it is ignored
with 0x8016 where the tilth table could then not be bound. CD_OUT_MASK returns the dies whose bits clear and whose PLL and
router work, the router too of a die that its PLL took out, and takes those whose bits are added out, under the same rule.
Both need an open session with the right. (R20, R474, R475, R476, R477, R478, R479, R483, R489) -/
def Obligations.ShadowsAndQuarantineComplete : Prop :=
  (∀ (s : State) (c : Nat),
    let take (w : Shadow) : Shadow :=
      match Op.ofCode (Desc.opcode w.desc) with
      | some op => if w.ctx = c && !w.written then { w with written := true, writeSet := s.copyExts c (opWrites op w.desc) } else w
      | none => w
    let u := { s with faults := { s.faults with shadows := s.faults.shadows.map take } }
    ((s.ctx c).copying = false → exec (.shadowCopyDone c) s = .next s) ∧
    ((s.ctx c).copying = true →
      exec (.shadowCopyDone c) s = .next ((u.modCtx c fun x => { x with copying := false }).checkNext c))) ∧
  (∀ s : State,
    let found := s.faults.shadows.find? fun w => w.written && w.shadowEngine = none
    (found = none → exec .shadowStart s = .next s) ∧
    ∀ w, found = some w →
      let fit := (List.range 128).filter fun e => s.shadowFits w e
      let ready := fit.filter fun e => s.shadowReady w e
      (fit = [] → exec .shadowStart s = .next (s.skipShadow w)) ∧
      (fit ≠ [] → ready = [] → exec .shadowStart s = .next s) ∧
      (ready ≠ [] → ∃ e u, s.choose ready = (some e, u) ∧ e ∈ ready ∧ exec .shadowStart s = .next (u.startShadow w e))) ∧
  (∀ s : State,
    let found := s.faults.shadows.find? fun w => w.shadowEngine = none && decide (w.selectedCk + s.reg .shadowMaxAgeMs * 825000 ≤ s.ck)
    (found = none → exec .shadowMaxAge s = .next s) ∧ ∀ w, found = some w → exec .shadowMaxAge s = .next (s.skipShadow w)) ∧
  (∀ (s : State) (r : ShadowResult) (third : Option ShadowResult),
    let found := s.faults.shadows.find? fun w => w.shadowEngine = some r.engine
    (found = none → exec (.shadowCompare r third) s = .next s) ∧
    ∀ w, found = some w →
      let u := ((s.clearShadow w).dropShadow w).bump .shadowRuns
      (sameResult w.original r = true → exec (.shadowCompare r third) s = .next u) ∧
      (sameResult w.original r = false → exec (.shadowCompare r third) s = .next (u.mismatch w r third))) ∧
  (∀ (s : State) (m : Nat) (v : BitVec 128), guardedOctets (.meQuarantine m v) s m .meQuarantine 0 (leBytes 16 v.toNat) ∧
    (mayWrite s m .meQuarantine →
      let old := leNat (s.oct .meQuarantine)
      let added := (bitsOf 128 v.toNat).filter fun e => !bit old e
      let back := (bitsOf 128 old).filter fun e => !bit v.toNat e
      let t := s.setOct .meQuarantine (leBytes 16 v.toNat)
      let u := back.foldl (fun (u : State) e =>
        { u.setReg .meMismatches 0 e with faults := { u.faults with meOut := setBit u.faults.meOut e false } }) t
      (added ≠ [] → t.unbindable = true → ignored (.meQuarantine m v) s m .meQuarantine 0 0x8016) ∧
      (added = [] → taken (.meQuarantine m v) s m .meQuarantine u) ∧
      (added ≠ [] → t.unbindable = false → taken (.meQuarantine m v) s m .meQuarantine (u.quarantine added)) ∧
      (s.tidy → leNat (u.oct .meQuarantine) = v.toNat ∧
        ∀ e, e < 128 → bit old e = true → bit v.toNat e = false → bit u.faults.meOut e = false ∧ u.reg .meMismatches e = 0))) ∧
  ∀ (s : State) (m : Nat) (v : W16), guarded (.cdOutMask m v) s m .cdOutMask 0 ∧
    (mayWrite s m .cdOutMask →
      let old := s.reg .cdOutMask
      let added := (bitsOf 16 v.toNat).filter fun d => !bit old d
      let back := (bitsOf 16 old).filter fun d => !bit v.toNat d && bit (s.reg .diePllLock) d && (s.routerUp d || bit s.faults.routerPll d)
      let t := s.setReg .cdOutMask v.toNat
      let w := back.foldl (fun (u : State) d => u.dieReturns d) t
      let u := if back.any (fun d => bit s.faults.routerPll d) then w.meshSwitch else w
      (added ≠ [] → t.unbindable = true → ignored (.cdOutMask m v) s m .cdOutMask 0 0x8016) ∧
      (added = [] ∨ t.unbindable = false → taken (.cdOutMask m v) s m .cdOutMask
        (added.foldl (fun u d => (State.enginesLeave u ((List.range 8).map (8 * d + ·))).fault 0x0204 3 1 d) u)) ∧
      (s.tidy → u.reg .cdOutMask = v.toNat ∧ ∀ d ∈ back, bit u.faults.cdOut d = false ∧
        (bit s.faults.routerPll d = true → bit u.faults.routerOut d = false)))

/-- PASID_LOAD_DATA, CTX_PASID, CTX_PRIV_REQ, CTX_SHARED_REQ, FREEZE, THAW, SLICE_SAVE, SLICE_SAVE_DONE, SLICE_RESTORE and
SLICE_RESTORE_DONE complete. Each write needs an open session with the right. PASID_LOAD_DATA that ends within the shadow is
written at its offset, beyond it it is ignored with 0x8010, and with 0x8013 while a change of the map is pending or the
former map in use. CTX_PASID of a live context waits for its commit boundary, of another it is held; a value that is no
PASID is ignored with 0x8010. CTX_PRIV_REQ and CTX_SHARED_REQ of a placed context wait for its boundary, where they take
effect or, not fitting any more, are ignored with 0x8016; those that do not fit at once are ignored so at once, and of
another context they are held. FREEZE of an enabled, running slice freezes it, THAW of a frozen one sets it running;
SLICE_SAVE of an enabled, frozen slice, and SLICE_RESTORE of an enabled one, with a PASID bound to the slice and no transfer
running, start a transfer; all four are ignored with 0x8012 otherwise. SLICE_SAVE_DONE of a running save puts the slice
image into host memory and nothing else of memory changes; SLICE_RESTORE_DONE of a running restore ends it well when the
image can be restored, and as failed with no other change when it cannot; both end as failed without host access, and do
nothing where no transfer runs. (R207, R386, R387, R389, R396, R397, R398, R399, R400, R436, R444) -/
def Obligations.SliceCommandsComplete : Prop :=
  (∀ (s : State) (m : Nat) (v : Bytes), guardedOctets (.pasidLoadData m v) s m .pasidLoadData 0 v ∧
    (mayWrite s m .pasidLoadData → Reg.sizeOk .pasidLoadData v.length = true →
      let o := s.reg .pasidLoadOffset
      let free := s.hif.pasidNext = none ∧ s.formerPasid = false
      (16384 < o + v.length → ignored (.pasidLoadData m v) s m .pasidLoadData 0 0x8010) ∧
      (o + v.length ≤ 16384 → ¬ free → ignored (.pasidLoadData m v) s m .pasidLoadData 0 0x8013) ∧
      (o + v.length ≤ 16384 → free → taken (.pasidLoadData m v) s m .pasidLoadData
        ({ s with hif := { s.hif with pasidShadow := s.hif.pasidShadow.setRun 0 o v } }.setReg .pasidLoadOffset (o + v.length))))) ∧
  (∀ (s : State) (m v : Nat),
    let c := s.selected m .ctx
    let w := v % 2 ^ 32
    let a := (s.ctx c).alloc
    let placed := (s.ctx c).live = true ∧ a.engine ≠ none
    (guarded (.ctxPasid m v) s m .ctxPasid 0 ∧ guarded (.ctxPrivReq m v) s m .ctxPrivReq 0 ∧
      guarded (.ctxSharedReq m v) s m .ctxSharedReq 0) ∧
    (mayWrite s m .ctxPasid →
      let ok := w < 2 ^ 20 ∨ w = 0xFFFFFFFF
      (¬ ok → ignored (.ctxPasid m v) s m .ctxPasid 0 0x8010) ∧
      (ok → (s.ctx c).live = false → taken (.ctxPasid m v) s m .ctxPasid (s.setReg .ctxPasid w c)) ∧
      (ok → (s.ctx c).live = true → taken (.ctxPasid m v) s m .ctxPasid
        (((s.modWanted c fun k => { k with pasid := some w }).tryBoundary c).checkNext c))) ∧
    (mayWrite s m .ctxPrivReq →
      let size := alignUp granule w
      let fits := s.resizes c size a.sharedBytes = true
      (4194304 < w → ignored (.ctxPrivReq m v) s m .ctxPrivReq 0 0x8010) ∧
      (w ≤ 4194304 → ¬ placed → taken (.ctxPrivReq m v) s m .ctxPrivReq (s.setReg .ctxPrivReq w c)) ∧
      (w ≤ 4194304 → placed → ¬ fits → ignored (.ctxPrivReq m v) s m .ctxPrivReq 0 0x8016) ∧
      (w ≤ 4194304 → placed → fits → taken (.ctxPrivReq m v) s m .ctxPrivReq
        ((s.modWanted c fun k => { k with privReq := some (m, w) }).tryBoundary c)) ∧
      (∀ q, q = { (default : Wanted) with privReq := some (m, w) } →
        (fits → s.takeSizes c q = (s.setReg .ctxPrivReq w c).resize c size a.sharedBytes) ∧
        (¬ fits → s.takeSizes c q = s.ignoreWrite m Reg.ctxPrivReq.index Reg.ctxPrivReq.sub 0x8016))) ∧
    (mayWrite s m .ctxSharedReq →
      let size := alignUp sharedUnit w
      let fits := s.resizes c a.privBytes size = true
      (33554432 < w → ignored (.ctxSharedReq m v) s m .ctxSharedReq 0 0x8010) ∧
      (w ≤ 33554432 → ¬ placed → taken (.ctxSharedReq m v) s m .ctxSharedReq (s.setReg .ctxSharedReq w c)) ∧
      (w ≤ 33554432 → placed → ¬ fits → ignored (.ctxSharedReq m v) s m .ctxSharedReq 0 0x8016) ∧
      (w ≤ 33554432 → placed → fits → taken (.ctxSharedReq m v) s m .ctxSharedReq
        ((s.modWanted c fun k => { k with sharedReq := some (m, w) }).tryBoundary c)) ∧
      (∀ q, q = { (default : Wanted) with sharedReq := some (m, w) } →
        (fits → s.takeSizes c q = (s.setReg .ctxSharedReq w c).resize c a.privBytes size) ∧
        (¬ fits → s.takeSizes c q = s.ignoreWrite m Reg.ctxSharedReq.index Reg.ctxSharedReq.sub 0x8016)))) ∧
  (∀ (s : State) (m n : Nat), guarded (.freeze m n) s m .sliceCtrl n ∧ guarded (.thaw m n) s m .sliceCtrl n ∧
    (mayWrite s m .sliceCtrl →
      (s.sliceOn n = true ∧ s.sliceState n = 0 → taken (.freeze m n) s m .sliceCtrl (s.freezeSlice n)) ∧
      (¬ (s.sliceOn n = true ∧ s.sliceState n = 0) → ignored (.freeze m n) s m .sliceCtrl n 0x8012) ∧
      (s.sliceState n = 2 → taken (.thaw m n) s m .sliceCtrl (s.thawSlice n)) ∧
      (s.sliceState n ≠ 2 → ignored (.thaw m n) s m .sliceCtrl n 0x8012))) ∧
  (∀ (s : State) (m n a p : Nat) (b : Bool),
    let pasid := p % 2 ^ 32
    let may := s.sliceOn n = true ∧ pasid < 2 ^ 20 ∧ pasidIn s.hif.pasid n pasid = true ∧ s.transferring n = false
    guardedOctets (.sliceSave m n a p) s m .sliceSave n (leBytes 8 a ++ leBytes 4 p) ∧
    guardedOctets (.sliceRestore m n a p b) s m .sliceRestore n (leBytes 8 a ++ leBytes 4 p ++ leBytes 1 (if b then 1 else 0)) ∧
    (mayWrite s m .sliceSave →
      (may ∧ s.sliceState n = 2 → taken (.sliceSave m n a p) s m .sliceSave
        ({ s with hif := { s.hif with saves := s.hif.saves.put n ⟨a % 2 ^ 64, pasid, false⟩ } }.setReg .saveStatus 1 n)) ∧
      (¬ (may ∧ s.sliceState n = 2) → ignored (.sliceSave m n a p) s m .sliceSave n 0x8012)) ∧
    (mayWrite s m .sliceRestore →
      (may → taken (.sliceRestore m n a p b) s m .sliceRestore
        ({ s with hif := { s.hif with restores := s.hif.restores.put n ⟨a % 2 ^ 64, pasid, b⟩ } }.setReg .sliceRestoreStatus 1 n)) ∧
      (¬ may → ignored (.sliceRestore m n a p b) s m .sliceRestore n 0x8012))) ∧
  (∀ (s : State) (n : Nat),
    let running := n < 64 ∧ s.reg .saveStatus n = 1
    let x := s.hif.saves.at n
    (¬ running → exec (.sliceSaveDone n) s = .next s) ∧
    (running → s.hif.access = false → exec (.sliceSaveDone n) s = .next (s.endSave n 3)) ∧
    (running → s.hif.access = true → completes (.sliceSaveDone n) s fun t =>
      t = ((s.hostWr x.pasid x.iova (s.sliceImage n)).setReg .sliceImageBytes (s.sliceImage n).length n).endSave n 2 ∧
      t.mem = s.mem ∧ t.ctxs = s.ctxs)) ∧
  ∀ (s : State) (n : Nat),
    let running := n < 64 ∧ s.reg .sliceRestoreStatus n = 1
    let x := s.hif.restores.at n
    let img := s.hostRd x.pasid x.iova (leNat (s.hostRd x.pasid (x.iova + 0x38) 8))
    (¬ running → exec (.sliceRestoreDone n) s = .next s) ∧
    (running → s.hif.access = false ∨ s.restored n x img = none → exec (.sliceRestoreDone n) s = .next (s.endSliceRestore n 3)) ∧
    (running → s.hif.access = true → ∀ u, s.restored n x img = some u → exec (.sliceRestoreDone n) s = .next (u.endSliceRestore n 2))

/-- FUNCTION_LEVEL_RESET, HOST_REQUEST_FAILED, PCIE_LINK_UP and MB_REQ_LEN complete. FUNCTION_LEVEL_RESET kills the tenants'
commands without a record, freezes every running slice, empties the mailbox, the MSI-X table and the pending vectors, ends
every transfer as failed and host access, which after an FLR returns within 1 ms at a time that is open (log entry 90);
after a link down PCIE_LINK reads 0. PCIE_LINK_UP at a width and rate to which the link trains restores host access, sets
lanes and rate, and checks the next descriptors; at another it does nothing. HOST_REQUEST_FAILED of a live context's request
or streamed read tears it down with code 0x30 and cause 2; of a fetch that is under way it fails the fetch; of a loam map
read it is a LOAM_MAP_COMMIT ignored with 0x8018 and reported; of a running save or restore it ends it as failed; of a radio
channel it counts, reports and passes the descriptor over, or drops the last up record where that write failed; of what is
not there it does nothing. MB_REQ_LEN without host access, in reset or halted does nothing; while a request is being served
it is ignored and counted; of 0 or of more than 8192 bytes it is so too, but the bytes stand in the area; else the request
stands there and is busy until its end: with a failed identity it is answered with that, while the mailbox is down or where
the frame is malformed it is dropped, and otherwise it is served by its type. (R196, R201, R209, R374, R376, R377, R379,
R380, R401, R432, R434, R541) -/
def Obligations.HostLinkCommandsComplete : Prop :=
  (∀ (s : State) (k : FunctionReset), s.tidy → completes (.functionLevelReset k) s fun t =>
    t.hif.msix = [] ∧ t.hif.pba = [] ∧ t.hif.mbStatus = 0 ∧ t.hif.mbRequest = [] ∧ t.hif.mbResponse = [] ∧ t.hif.saves = [] ∧
    t.hif.restores = [] ∧ t.hif.access = false ∧
    (∀ e, t.hif.flrEnd = some e → k = .flr ∧ s.hif.access = true ∧ s.ck < e ∧ e ≤ s.ck + 825000) ∧
    (k = .flr → s.hif.access = true → t.hif.flrEnd ≠ none) ∧ (k = .linkDown → t.reg .pcieLink = 0)) ∧
  (∀ (s : State) (k : FunctionReset),
    let killed := (s.bump .flrCount).silentKills
    let u := ((List.range 64).filter fun n => killed.sliceOn n && decide (killed.sliceState n = 0)).foldl (fun u n => State.freezeSlice u n) killed
    let v := (u.hif.saves.map fun p => p.1).foldl (fun v n => State.endSave v n 3) u
    let w := (v.hif.restores.map fun p => p.1).foldl (fun w n => State.endSliceRestore w n 3) v
    let t := { w with hif := { w.hif with
      msix := [], pba := [], mbRequest := [], mbResponse := [], mbStatus := 0, access := false
      flrEnd := if k = .flr ∧ w.hif.access = true then some (w.ck + 1 + (Config.flrTime w.ck).toNat % 825000) else none } }
    exec (.functionLevelReset k) s = .next (if k = .linkDown then t.setReg .pcieLink 0 else t)) ∧
  (∀ (s : State) (lanes rate : Nat),
    let trains := lanes ∈ [1, 2, 4, 8, 16] ∧ 1 ≤ rate ∧ rate ≤ 7
    (¬ trains → exec (.pcieLinkUp lanes rate) s = .next s) ∧
    (trains → exec (.pcieLinkUp lanes rate) s = .next
      (State.setReg { s with hif := { s.hif with access := true, flrEnd := none } } .pcieLink (lanes * 256 + rate)).checkAll)) ∧
  (∀ (s : State) (c n p : Nat),
    (∀ r ∈ [HostRequest.contextRequest c, .streamedRead c],
      ((s.ctx c).live = true → exec (.hostRequestFailed r) s = .next ((s.bump .hostErrors).teardown c 0x30 0x02).settleAll) ∧
      ((s.ctx c).live = false → exec (.hostRequestFailed r) s = .next s)) ∧
    (∀ r ∈ [(HostRequest.demandFetch c n p, true), (.prefetch n p, false)],
      (∀ f, s.fetchOf n p r.2 = some f → exec (.hostRequestFailed r.1) s = .next (s.fetchFailed f)) ∧
      (s.fetchOf n p r.2 = none → exec (.hostRequestFailed r.1) s = .next s)) ∧
    (s.reg .saveStatus n = 1 → exec (.hostRequestFailed (.sliceSave n)) s = .next ((s.bump .hostErrors).endSave n 3)) ∧
    (s.reg .saveStatus n ≠ 1 → exec (.hostRequestFailed (.sliceSave n)) s = .next s) ∧
    (s.reg .sliceRestoreStatus n = 1 →
      exec (.hostRequestFailed (.sliceRestore n)) s = .next ((s.bump .hostErrors).endSliceRestore n 3)) ∧
    (s.reg .sliceRestoreStatus n ≠ 1 → exec (.hostRequestFailed (.sliceRestore n)) s = .next s)) ∧
  (∀ (s : State) (m n : Nat), s.tidy →
    guarded (.hostRequestFailed (.loamMap m n)) s m .loamMapCommit n ∧
    (mayWrite s m .loamMapCommit → exec (.hostRequestFailed (.loamMap m n)) s = .next
      (((s.ignoreWrite m (Reg.loamMapCommit.index + n) Reg.loamMapCommit.sub 0x8018).answerWrite m Reg.loamMapCommit.ty).mapReadFailed n))) ∧
  (∀ (s : State) (n : Nat),
    let u := ((s.bump .rhcErrors n).bump .hostErrors).fault 0x0603 0 0 0 0xFFFF n
    let c := u.channel n
    exec (.hostRequestFailed (.radioChannel n true)) s =
      .next (if c.downHead = c.downTail then u else u.modChannel n fun c => { c with downHead := c.downHead + 1 }) ∧
    exec (.hostRequestFailed (.radioChannel n false)) s = .next (u.dropUp n) ∧
    (c.upIndex = c.upConsumed → u.dropUp n = u) ∧
    (s.tidy → c.upIndex ≠ c.upConsumed → ((u.dropUp n).channel n).upIndex = c.upIndex - 1 ∧ (u.dropUp n).mem = s.mem)) ∧
  ∀ (s : State) (len : Nat) (frame : Bytes),
    let on := s.hif.access = true ∧ s.boot.inReset = false ∧ s.boot.halted = false
    let bad := len = 0 ∨ 8192 < len
    let busy := s.hif.mbStatus = 1
    let area := (frame ++ s.hif.mbRequest.drop frame.length).take 8192
    let f := (area ++ zeros (len - area.length)).take len
    let u := { s with hif := { s.hif with mbRequest := area, mbStatus := 1 } }
    (¬ on → exec (.mbReqLen len frame) s = .next s) ∧
    (on → busy → exec (.mbReqLen len frame) s = .next (s.bump .mbIgnored)) ∧
    (on → ¬ busy → bad → exec (.mbReqLen len frame) s =
      .next (State.bump { s with hif := { s.hif with mbRequest := area } } .mbIgnored)) ∧
    (on → ¬ busy → completes (.mbReqLen len frame) s fun t => t.hif.mbStatus ≠ 1) ∧
    (on → ¬ busy → ¬ bad → s.boot.idFail = true →
      exec (.mbReqLen len frame) s = .next (State.replyVia u .mailbox [] (frameHeader 0x0F 0xFF 1 0 ++ [1]))) ∧
    (on → ¬ busy → ¬ bad → s.boot.idFail = false → s.mailboxUp = false ∨ frameOk f = false →
      exec (.mbReqLen len frame) s = .next { u with hif := { u.hif with mbStatus := 0 } }) ∧
    (on → ¬ busy → ¬ bad → s.boot.idFail = false → s.mailboxUp = true → frameOk f = true →
      let payload := slice f 16 (leAt f 6 2)
      let tag := slice f (16 + leAt f 6 2) 32
      (leAt f 3 1 = 0x0A → exec (.mbReqLen len frame) s = .next (State.serveSessionless u (requestOps payload)).mailboxEnd) ∧
      (leAt f 3 1 ≠ 0x0A → s.sessionsUp .mailbox = false →
        exec (.mbReqLen len frame) s = .next { u with hif := { u.hif with mbStatus := 0 } }) ∧
      (s.sessionsUp .mailbox = true →
        (leAt f 3 1 = 0x01 → exec (.mbReqLen len frame) s = .next (State.openVia u .mailbox 0 (leAt f 5 1) payload).mailboxEnd) ∧
        (leAt f 3 1 = 0x03 → exec (.mbReqLen len frame) s = .next (State.proofVia u .mailbox (leAt f 4 1) tag).mailboxEnd) ∧
        (leAt f 3 1 = 0x05 → exec (.mbReqLen len frame) s = .next (State.mailboxRequest u f).mailboxEnd)))

/-- OPEN_SESSION, PROOF, CLOSE, SESSION_IDLE, LOCKOUT_END, NONCE_LAPSE, CHANGE_EXPIRED and MGMT_FRAME_DISCARDED complete. Where
sessions are served: OPEN_SESSION from an address whose family is on, of a role 0 to 4 with a nonce of 32 bytes that nothing
refuses, half opens the lowest free session with the client's role, nonce and address, the port's own address and a device
nonce, and leaves every other session; a refused one is answered at that address with the reason, a malformed one dropped.
Where the hub is held without identity, OPEN and PROOF through the mailbox are answered IDENTITY_FAIL. PROOF of a half open
session on its own transport with the right tag opens the session, with its two keys; with a wrong one it closes it and
counts a refusal against the role; of any other session it counts as failed. CLOSE of an open session is answered, and
closes it; SESSION_IDLE closes one idle for SESSION_IDLE_S. LOCKOUT_END unlocks a role 60 s after its last failure.
NONCE_LAPSE after 300 s removes the nonce and no other. CHANGE_EXPIRED more than 60 s after its start drops the pending
change and reports it. MGMT_FRAME_DISCARDED counts the frame on its port, and the eighth bad message in a row closes its
session; a raw packet on a port that is up is answered, served or discarded: an ARP request for the port's address is
answered, a payload of more than 1472 bytes dropped, and a REQUEST served only from the session's transport and address,
with its tag and next number. Otherwise none of them changes anything. (R381, R407, R412, R413, R414, R415, R419, R421,
R430, R431, R432, R450) -/
def Obligations.SessionLifeCompletes : Prop :=
  (∀ (s : State) (via : Transport) (src role n : Nat) (nc tag : Bytes), s.sessionsUp via = false →
    let held := via = .mailbox ∧ s.hif.access = true ∧ s.boot.inReset = false ∧ s.boot.idFail = true
    (∀ i ∈ [Instr.openSession via src role nc, .proof via n tag], (¬ held → exec i s = .next s) ∧
      (held → exec i s = .next (s.replyVia .mailbox [] (frameHeader 0x0F 0xFF 1 0 ++ [1])))) ∧
    exec (.mgmtFrameDiscarded via (.sessionAuth n)) s = .next s) ∧
  (∀ (s : State) (via : Transport) (src role : Nat) (nc : Bytes), s.sessionsUp via = true → s.familyOn via src = false →
    exec (.openSession via src role nc) s = .next s) ∧
  (∀ (s : State) (via : Transport) (src role : Nat) (nc : Bytes), s.sessionsUp via = true → s.familyOn via src = true →
    (4 < role ∨ nc.length ≠ 32 → exec (.openSession via src role nc) s = .next (s.dropFrame via)) ∧
    (role ≤ 4 → nc.length = 32 →
      (∀ e, s.openRefusal role = some e →
        exec (.openSession via src role nc) s = .next (s.replyVia via (beBytes 18 src) (frameHeader 0x02 0xFF 1 0 ++ leBytes 1 e))) ∧
      (s.openRefusal role = none → s.tidy → completes (.openSession via src role nc) s fun t =>
        let n := s.freeSession
        (t.sess n).phase = 1 ∧ (t.sess n).role = role ∧ (t.sess n).via = via ∧ (t.sess n).nc = nc ∧
        (t.sess n).source = src ∧ (t.sess n).home = s.homeOf via src ∧
        (t.sess n).nd = (s.random 32).1 ∧ ∀ k, k ≠ n → t.sess k = s.sess k))) ∧
  (∀ (s : State) (via : Transport) (n : Nat) (tag : Bytes), s.sessionsUp via = true →
    let half := (s.sess n).phase = 1 ∧ (s.sess n).via = via
    (¬ half → exec (.proof via n tag) s = .next (s.bump .sessionAuthFails)) ∧
    (half → tag ≠ s.handshake n "open" → exec (.proof via n tag) s = .next ((s.setSess n .closed).proofFailed (s.sess n).role)) ∧
    (half → tag = s.handshake n "open" → s.tidy → completes (.proof via n tag) s fun t => (t.sess n).phase = 2 ∧
      (t.sess n).keyIn ++ (t.sess n).keyOut = hkdf (s.prot.roleKeys.get [] (s.sess n).role) ((s.sess n).nc ++ (s.sess n).nd)
        (ascii "prehel-session" ++ leBytes 1 (s.sess n).role ++ leBytes 1 n) 64 ∧ ∀ k, k ≠ n → t.sess k = s.sess k)) ∧
  (∀ (s : State) (n : Nat), (s.isOpen n = false → exec (.close n) s = .next s) ∧
    (s.isOpen n = true →
      exec (.close n) s = .next (s.afterRequest ((s.answer n (s.opResult n 0 0 [] ++ [])).closeSession n)) ∧
      (s.tidy → s.mgmt.resetAsked = false → completes (.close n) s fun t => (t.sess n).phase = 0))) ∧
  (∀ (s : State) (n : Nat),
    let idle := (s.sess n).phase ≠ 0 ∧ (s.sess n).lastCk + s.reg .sessionIdleS * ckSecond ≤ s.ck
    (idle → exec (.sessionIdle n) s = .next (s.closeSession n)) ∧ (¬ idle → exec (.sessionIdle n) s = .next s)) ∧
  (∀ (s : State) (n : Nat), s.tidy → ((s.closeSession n).sess n).phase = 0 ∧ ∀ k, k ≠ n → (s.closeSession n).sess k = s.sess k) ∧
  (∀ (s : State) (r : Nat),
    let due := r ∈ s.mgmt.locked ∧ (s.mgmt.failed.get [] r).foldl max 0 + 60 * ckSecond ≤ s.ck
    (due → exec (.lockoutEnd r) s = .next { s with mgmt := { s.mgmt with
      failed := s.mgmt.failed.set [] r [], locked := s.mgmt.locked.filter fun q => q ≠ r } }) ∧
    (¬ due → exec (.lockoutEnd r) s = .next s)) ∧
  (∀ (s : State) (v : BitVec 128), completes (.nonceLapse v) s fun t =>
    (∀ p, p ∈ t.mgmt.nonces ↔ p ∈ s.mgmt.nonces ∧ ¬ (p.1 = v ∧ p.2 + 300 * ckSecond ≤ s.ck)) ∧
    t = { s with mgmt := { s.mgmt with nonces := t.mgmt.nonces } }) ∧
  (∀ (s : State) (v : BitVec 128),
    let found := s.mgmt.changes.find? fun c => decide (c.nonce = v) && decide (c.startCk + 60 * ckSecond < s.ck)
    (found = none → exec (.changeExpired v) s = .next s) ∧
    ∀ c, found = some c →
      exec (.changeExpired v) s = .next (((s.dropChange v).bump .endorseExpired).event 5 c.index c.sub c.selector v.toNat)) ∧
  (∀ (s : State) (via : Transport), ∀ w ∈ [DiscardReason.malformed, .sessionless, .datagram],
    let up := 6 ≤ s.reg .bootStage ∧ s.boot.inReset = false
    (up → via ≠ .mailbox → exec (.mgmtFrameDiscarded via w) s = .next (s.bump .mgmtRxDiscarded (viaPort via - 1))) ∧
    (¬ up ∨ via = .mailbox → exec (.mgmtFrameDiscarded via w) s = .next s)) ∧
  (∀ (s : State) (via : Transport) (f : Bytes),
    let up := 6 ≤ s.reg .bootStage ∧ s.boot.inReset = false ∧ via ≠ .mailbox
    let m := viaPort via - 1
    (up → exec (.mgmtFrameDiscarded via (.packet f)) s = .next (s.netPacket via f)) ∧
    (¬ up → exec (.mgmtFrameDiscarded via (.packet f)) s = .next s) ∧
    (beAt f 12 2 ∉ [0x0806, 0x0800, 0x86DD] → s.netPacket via f = s.dropFrame via) ∧
    (beAt f 12 2 = 0x0806 → beAt f 20 2 = 1 → s.ownV4 m ≠ [] → slice f 38 4 = s.ownV4 m → s.netPacket via f =
      s.sendOn (m + 1) [] (slice f 6 6 ++ s.ownMac m ++ beBytes 2 0x0806 ++ slice f 14 6 ++ beBytes 2 2 ++ s.ownMac m ++
        s.ownV4 m ++ slice f 22 10))) ∧
  (∀ (s : State) (via : Transport) (src : Nat) (f : Bytes), 1472 < f.length → s.netFrame via src f = s.dropFrame via) ∧
  (∀ (s : State) (via : Transport) (src : Nat) (f : Bytes), f.length ≤ 1472 → frameOk f = true → leAt f 3 1 = 0x05 →
    s.sessionsUp via = true →
    let n := leAt f 4 1
    let len := leAt f 6 2
    let x := s.sess n
    let good := x.phase = 2 ∧ x.via = via ∧ x.source = src ∧ slice f (16 + len) 32 = hmac256 x.keyIn (f.take (16 + len)) ∧
      leAt f 8 8 = x.seqIn + 1
    (good → s.netFrame via src f = s.serveRequest n (requestOps (slice f 16 len))) ∧
    (¬ good → s.netFrame via src f = s.authFailed n)) ∧
  ∀ (s : State) (via : Transport) (n : Nat), s.sessionsUp via = true →
    let u := s.bump .sessionAuthFails
    let w := u.modSess n fun x => { x with bad := x.bad + 1 }
    (s.isOpen n = false → exec (.mgmtFrameDiscarded via (.sessionAuth n)) s = .next u) ∧
    (s.isOpen n = true → s.tidy → exec (.mgmtFrameDiscarded via (.sessionAuth n)) s =
      .next (if 8 ≤ (s.sess n).bad + 1 then w.closeSession n else w))

/-- READ, WRITE, WRITE_ENDORSED, EVENT_READ, RECALL, ENDORSE_NONCE, ATTEST_NONCE and CLAIM complete. Of a session that is not
open every one of them does nothing, and CLAIM does nothing while the mailbox is down, but for the answer IDENTITY_FAIL of a
hub held without identity. By an open session: READ of a readable entry is answered with status 0 and its value, of an entry
that does not exist with status 1, and of a write-only one with status 3. WRITE of a length that fits, by a role that may
write, has the entry's effect and is answered with status 0; without the right it is ignored, counted with the reason and
answered with status 0; a wrong length is answered with status 2 and has no effect. WRITE_ENDORSED of an RWD entry by a
custodian's session has the endorsement's effect, by another session it is ignored with 0x8001; of a read-only entry it is
ignored with 0x8002 and of another writable one with 0x8003, and an endorsement that is not accepted counts in
ENDORSE_REFUSED in these cases too. EVENT_READ of 1 to 16 words is answered with the oldest words held, of another count
with status 2. RECALL is answered with the last response. ENDORSE_NONCE and ATTEST_NONCE are the read and the write of their
entries. CLAIM through the mailbox is answered without a session. (R411, R417, R418, R423, R434, R435, R436, R438, R441,
R443, R445) -/
def Obligations.SessionOperationsComplete : Prop :=
  (∀ (s : State) (m ix sub k : Nat) (v : Bytes) (e : Endorsement), s.isOpen m = false →
    ∀ i ∈ [Instr.read m ix sub, .write m ix sub v, .writeEndorsed m ix sub v e, .eventRead m k, .recall m, .endorseNonce m, .attestNonce m v],
      exec i s = .next s) ∧
  (∀ (s : State) (m ix sub : Nat), s.isOpen m = true →
    let done (u : State) (st ty : Nat) (v : Bytes) : State := s.afterRequest (u.answer m (u.opResult m st ty v ++ []))
    (Reg.find ix sub = none → exec (.read m ix sub) s = .next (done s 1 0 []) ∧
      ∀ v e, exec (.write m ix sub v) s = .next (done s 1 0 []) ∧ exec (.writeEndorsed m ix sub v e) s = .next (done s 1 0 [])) ∧
    (∀ r fam, Reg.find ix sub = some (r, fam) →
      (r.access = .wo → exec (.read m ix sub) s = .next (done s 3 r.ty [])) ∧
      (r.access ≠ .wo → exec (.read m ix sub) s =
        .next (done (s.readEntry m r (s.instOf m r fam)).2 0 r.ty (s.readEntry m r (s.instOf m r fam)).1)) ∧
      ∀ v, (r.lengthOk v = false → exec (.write m ix sub v) s = .next (done s 2 r.ty []) ∧
          ∀ e, exec (.writeEndorsed m ix sub v e) s = .next (done s 2 r.ty [])) ∧
        (r.lengthOk v = true →
          (∀ e, r.writeRight (s.role m) = some e → exec (.write m ix sub v) s = .next (done (s.ignoreWrite m ix sub e) 0 r.ty [])) ∧
          (r.writeRight (s.role m) = none → exec (.write m ix sub v) s = .next (done (s.putEntry m r fam v) 0 r.ty [])) ∧
          ∀ e : Endorsement,
            let refused := s.bumpIf (!s.endorsementOk m ix sub (r.nameOf (s.instOf m r fam)).2 v e) .endorseRefused
            (r.access = .rwd → s.role m = 2 ∨ s.role m = 3 →
              exec (.writeEndorsed m ix sub v e) s = .next (done (s.endorse m r (s.instOf m r fam) v e) 0 r.ty [])) ∧
            (r.access = .rwd → s.role m ≠ 2 → s.role m ≠ 3 →
              exec (.writeEndorsed m ix sub v e) s = .next (done (refused.ignoreWrite m ix sub 0x8001) 0 r.ty [])) ∧
            (r.access = .ro ∨ r.access = .const →
              exec (.writeEndorsed m ix sub v e) s = .next (done (refused.ignoreWrite m ix sub 0x8002) 0 r.ty [])) ∧
            (r.access = .rw ∨ r.access = .wo ∨ r.access = .rws →
              exec (.writeEndorsed m ix sub v e) s = .next (done (refused.ignoreWrite m ix sub 0x8003) 0 r.ty [])))) ∧
    (∀ k,
      let n := min k (s.qDepth (0x1300 + m))
      let v := (List.range n).flatMap fun j =>
        (s.qWord (0x1300 + m) ((s.queue (0x1300 + m)).read + BitVec.ofNat 32 j)).bytes
      (1 ≤ k → k ≤ 16 → exec (.eventRead m k) s = .next (done (if n = 0 then s else s.qRead (0x1300 + m) n) 0 0 v)) ∧
      (k = 0 ∨ 16 < k → exec (.eventRead m k) s = .next (done s 2 0 []))) ∧
    exec (.recall m) s = .next (s.afterRequest (s.answer m (s.sess m).lastResponse)) ∧
    exec (.endorseNonce m) s = exec (.read m 0x6004 1) s ∧
    (∀ v, exec (.attestNonce m v) s = exec (.write m 0x6002 1 v) s)) ∧
  ∀ (s : State) (v : Bytes), (s.mailboxUp = false → exec (.claim v) s = .next
      (if (s.hif.access && !s.boot.inReset && s.boot.idFail) = true then s.replyVia .mailbox [] (frameHeader 0x0F 0xFF 1 0 ++ [1])
        else s)) ∧
    (s.mailboxUp = true →
      let u := if Reg.lengthOk .claim v then s.take sessionless 0x6000 5 (s.claimRule v) else s
      let r := u.opResult sessionless (if Reg.lengthOk .claim v then 0 else 2) (Reg.ty .claim) [] ++ []
      exec (.claim v) s = .next (u.replyVia .mailbox [] (frameHeader 0x0B 0xFF r.length 0 ++ r)))

/-- CONFIG_SAVE, CONFIG_SAVE_DONE, FW_LOAD_DATA, FW_COMMIT, HANDOVER, HANDOVER_COMPLETE, HANDOVER_CONFIRM_TIMEOUT, FW_CONFIRM
and RECOVERY_HOLD_END complete. The writes among these do nothing without an open session, are ignored without the right,
and answered with status 2 where their length does not fit. With the right: CONFIG_SAVE 1 with no save under way or held
starts one, else it is ignored with 0x8017, and of another value with 0x8010. FW_LOAD_DATA that ends within the slot is
written to the inactive slot, erased first at offset 0, which is then not valid; past its end it is ignored with 0x8010,
during a handover with 0x8012. FW_COMMIT of the digest of what is there makes the slot's validity that of the image; during
a handover it is ignored with 0x8012, of another digest with 0x8014. HANDOVER 1 to a valid slot starts one; during a
handover or to a slot that is not valid it is ignored with 0x8012, of another value with 0x8010. FW_CONFIRM 1 of a completed
handover prefers the running image and saves; otherwise it is ignored with 0x8010 or 0x8012. CONFIG_SAVE_DONE of the save
under way with a good read-back writes the copy into its flash device and counts a save, with a bad one it reports 0x0602
and changes no flash; either raises the save's event, starts the save held meanwhile and lets a requested reset proceed.
HANDOVER_COMPLETE of a handover runs the copy of the other slot's image with its numerics firmware shown, or, when the copy
cannot be read or fails its checks, counts it in IMAGE_REJECTS and keeps the running one; of a handover back it runs the
copy that ran before. HANDOVER_CONFIRM_TIMEOUT hands back once HANDOVER_CONFIRM_MS have passed. RECOVERY_HOLD_END ends
RECOVERY of a queue that is in it, once the hold of RECOVERY_HOLD_MS has passed since stage 7, or its consumer has released
and none of its cells overran. In every other case these commands change nothing. (R298, R434, R436, R441, R453, R454, R455,
R531, R532, R533, R534) -/
def Obligations.SavesAndFirmwareComplete : Prop :=
  (∀ (s : State) (m v : Nat), guarded (.configSave m v) s m .configSave 0 ∧ guarded (.handover m v) s m .handover 0 ∧
    guarded (.fwConfirm m v) s m .fwConfirm 0) ∧
  (∀ (s : State) (m : Nat) (v : Bytes), guardedOctets (.fwLoadData m v) s m .fwLoadData 0 v ∧
    guardedOctets (.fwCommit m v) s m .fwCommit 0 v) ∧
  (∀ (s : State) (m v : Nat), mayWrite s m .configSave →
    (v % 256 ≠ 1 → ignored (.configSave m v) s m .configSave 0 0x8010) ∧
    (v % 256 = 1 →
      (s.reg .configStatus = 1 ∨ s.mgmt.saveHeld = true → ignored (.configSave m v) s m .configSave 0 0x8017) ∧
      (s.reg .configStatus ≠ 1 → s.mgmt.saveHeld = false → taken (.configSave m v) s m .configSave s.startSave))) ∧
  (∀ (s : State) (ok : Bool),
    (s.mgmt.saving = none → exec (.configSaveDone ok) s = .next s) ∧
    ∀ bs, s.mgmt.saving = some bs →
      let d := s.mgmt.saveTarget
      let u := { s with mgmt := { s.mgmt with saving := none } }
      let w := (u.flashWr d copyOff bs).setReg .configSeq (leAt bs 8 4)
      let good := ((((w.setReg .configSource d).setReg (copySeqReg d) (leAt bs 8 4)).setReg .configBytes bs.length).setReg
        .configStatus 2).bump .configSaves
      let bad := (u.setReg .configStatus 3).fault 0x0602 0 0 0
      let ended (x : State) (mark : Nat) : State :=
        (x.event 6 0 0 noSelector (x.reg .configSeq + d * 2 ^ 32 + mark)).releaseHeld.resetIfAsked
      exec (.configSaveDone ok) s = .next (if ok then ended good 0 else ended bad (2 ^ 33)) ∧
      (s.mgmt.saveHeld = false → s.mgmt.resetAsked = false → completes (.configSaveDone ok) s fun t =>
        t.boot.flash = (if ok then (u.flashWr d copyOff bs).boot.flash else s.boot.flash) ∧ t.mgmt.saving = none ∧
        t.mem = s.mem ∧ t.ctxs = s.ctxs)) ∧
  (∀ (s : State) (m : Nat) (v : Bytes), mayWrite s m .fwLoadData → Reg.sizeOk .fwLoadData v.length = true →
    let o := s.reg .fwLoadOffset
    let u := if o = 0 then s.flashErase s.inactiveSlot 0 slotBytes else s
    (slotBytes < o + v.length → ignored (.fwLoadData m v) s m .fwLoadData 0 0x8010) ∧
    (o + v.length ≤ slotBytes → s.reg .handoverStatus = 1 → ignored (.fwLoadData m v) s m .fwLoadData 0 0x8012) ∧
    (o + v.length ≤ slotBytes → s.reg .handoverStatus ≠ 1 → taken (.fwLoadData m v) s m .fwLoadData
      (((u.flashWr s.inactiveSlot o v).setReg .fwLoadOffset (o + v.length)).slotResult s.inactiveSlot false))) ∧
  (∀ (s : State) (m : Nat) (v : Bytes), mayWrite s m .fwCommit → Reg.sizeOk .fwCommit v.length = true →
    let d := s.inactiveSlot
    (s.reg .handoverStatus = 1 → ignored (.fwCommit m v) s m .fwCommit 0 0x8012) ∧
    (s.reg .handoverStatus ≠ 1 →
      (sha512 (s.slotImage d) = v → taken (.fwCommit m v) s m .fwCommit
        (((s.setOct .fwCommit v).bumpIf (!s.slotValid d) .imageRejects).slotResult d (s.slotValid d))) ∧
      (sha512 (s.slotImage d) ≠ v → ignored (.fwCommit m v) s m .fwCommit 0 0x8014))) ∧
  (∀ (s : State) (m v : Nat), mayWrite s m .handover →
    (v % 256 ≠ 1 → ignored (.handover m v) s m .handover 0 0x8010) ∧
    (v % 256 = 1 →
      let free := s.reg .handoverStatus ≠ 1 ∧ bit (s.reg .fwSlotStatus) s.inactiveSlot = true
      (¬ free → ignored (.handover m v) s m .handover 0 0x8012) ∧
      (free → taken (.handover m v) s m .handover
        { s.setReg .handoverStatus 1 with boot := { s.boot with reverting := false } }))) ∧
  (∀ (s : State) (ok : Bool),
    (s.reg .handoverStatus ≠ 1 → exec (.handoverComplete ok) s = .next s) ∧
    (s.reg .handoverStatus = 1 → s.boot.reverting = true →
      let w := ((s.runImage (s.boot.former.getD 0) s.boot.otherBank).setReg .handoverStatus 4).carryNumerics
      let u := { w with boot := { w.boot with former := none, otherBank := [], reverting := false } }
      exec (.handoverComplete ok) s =
        .next (u.slotResult u.inactiveSlot (bit (u.reg .fwSlotStatus) u.inactiveSlot)).resetIfAsked) ∧
    (s.reg .handoverStatus = 1 → s.boot.reverting = false →
      let img := s.slotImage s.inactiveSlot
      let old := s.reg .activeImage
      let w := { s with boot := { s.boot with former := some old, otherBank := s.boot.bank, handoverCk := s.ck } }
      let u := ((State.runImage w s.inactiveSlot img).setReg .handoverStatus 2).carryNumerics
      exec (.handoverComplete ok) s = .next (if (ok && imageValid img (s.reg .minFwVersion)) = true
        then (u.slotResult old (bit (u.reg .fwSlotStatus) old)).resetIfAsked
        else (((s.bump .imageRejects).setReg .handoverStatus 4).slotResult s.inactiveSlot false).resetIfAsked)) ∧
    (s.tidy → s.reg .handoverStatus = 1 → s.mgmt.resetAsked = false → s.boot.reverting = false →
      let good := ok && imageValid (s.slotImage s.inactiveSlot) (s.reg .minFwVersion)
      completes (.handoverComplete ok) s fun t =>
        t.reg .handoverStatus = (if good then 2 else 4) ∧ t.mem = s.mem ∧ t.ctxs = s.ctxs ∧
        (good = true → t.boot.bank = s.slotImage s.inactiveSlot ∧ t.boot.otherBank = s.boot.bank ∧ t.reg .activeImage = s.inactiveSlot % 2 ^ Reg.width .activeImage ∧
          t.boot.former = some (s.reg .activeImage)) ∧
        (good = false → t.reg .activeImage = s.reg .activeImage ∧ t.boot.bank = s.boot.bank))) ∧
  (∀ s : State,
    let due := s.reg .handoverStatus = 2 ∧ s.boot.handoverCk + s.reg .handoverConfirmMs * 825000 ≤ s.ck
    (due → exec .handoverConfirmTimeout s =
      .next { s.setReg .handoverStatus 1 with boot := { s.boot with reverting := true } }) ∧
    (¬ due → exec .handoverConfirmTimeout s = .next s)) ∧
  (∀ (s : State) (m v : Nat), mayWrite s m .fwConfirm →
    let u := (s.setReg .bootPrefer (s.reg .activeImage)).setReg .handoverStatus 3
    (v % 256 ≠ 1 → ignored (.fwConfirm m v) s m .fwConfirm 0 0x8010) ∧
    (v % 256 = 1 →
      (s.reg .handoverStatus ≠ 2 → ignored (.fwConfirm m v) s m .fwConfirm 0 0x8012) ∧
      (s.reg .handoverStatus = 2 →
        taken (.fwConfirm m v) s m .fwConfirm { u with boot := { s.boot with former := none } }.autoSave))) ∧
  ∀ (s : State) (q : Nat),
    let passed := s.reg .bootStage = 7 ∧ s.boot.readyCk + s.reg .recoveryHoldMs * 825000 ≤ s.ck
    let clean := (s.queue q).release ≠ 0 ∧ ∀ c ∈ s.queueCells q, (s.cell c).overran = false
    (s.qRecovery q = true → passed ∨ clean → exec (.recoveryHoldEnd q) s = .next (s.qSetRecovery q false)) ∧
    (¬ (s.qRecovery q = true ∧ (passed ∨ clean)) → exec (.recoveryHoldEnd q) s = .next s) ∧
    (s.tidy → q < 4096 → let x := s.queue q
      s.qRecovery q = true → (s.qSetRecovery q false).qRecovery q = false ∧
        ((s.qSetRecovery q false).queue q) = { x with release := x.read, markValid := false })

/-- RESET_N, HUB_WATCHDOG, THERMTRIP, SEQ_FAULT, RESET_REQUEST, POWER_ON, POWER_OFF, SUPPLIES_RESTORED and RESET_RELEASE
complete. A reset by RESET_N, HUB_WATCHDOG, THERMTRIP or SEQ_FAULT, in any state, sets RESET_CAUSE to 1, 7, 3 or 2, adds one
to START_COUNT, keeps flash, host memory and stacked memory, clears the scratchpads, drops every context, session and queue
and holds the dies in reset; the last two set their latch. RESET_REQUEST does nothing more than any write without an open
session or the right; of another value than 1 it is ignored with 0x8010; 1 by a role that may write is answered, and then
the reset with cause 8 takes effect as soon as no save runs or is held and no handover runs: in that command where none
does. POWER_ON and POWER_OFF leave no memory, and RESET_CAUSE, START_COUNT and the latches 0. SUPPLIES_RESTORED with a latch
set during a reset empties stacked memory and lets the release proceed, else it does nothing. RESET_RELEASE during a reset
without a latch, or after the supplies were removed, with TEST_MODE low starts stage 0, else it does nothing. (R434, R436,
R441, R505, R506, R515, R522, R523, R524, R548) -/
def Obligations.ResetsKeepWhatTheyMust : Prop :=
  (∀ (s : State) (i : Instr) (cause : Nat), (i, cause) ∈ [(Instr.resetN, 1), (.hubWatchdog, 7), (.thermtrip, 3)] ∨
      (cause = 2 ∧ ∃ r, i = .seqFault r) → completes i s fun t =>
    t.reg .resetCause = cause ∧ t.reg .startCount = (s.reg .startCount + 1) % 2 ^ Reg.width .startCount ∧
    t.boot.flash = s.boot.flash ∧ t.host = s.host ∧ (∀ a, a < padBase → t.rd a = s.rd a) ∧ (∀ a, padBase ≤ a → t.rd a = 0) ∧
    t.ctxs = [] ∧ t.mgmt.sessions = [] ∧ t.queues = [] ∧ t.boot.inReset = true ∧ t.pending = s.pending ∧
    (cause = 3 → t.boot.tripFault = true) ∧
    (∀ r, i = .seqFault r → t.boot.seqFault = some (s.boot.seqFault.getD r))) ∧
  (∀ (s : State) (m v : Nat),
    (s.isOpen m = false → exec (.resetRequest m v) s = .next s.resetIfAsked) ∧
    (s.isOpen m = true → ∀ e, Reg.writeRight .resetRequest (s.role m) = some e → exec (.resetRequest m v) s =
      .next ((s.ignoreWrite m (Reg.index .resetRequest) (Reg.sub .resetRequest) e).answerWrite m (Reg.ty .resetRequest)).resetIfAsked) ∧
    (mayWrite s m .resetRequest → v % 256 ≠ 1 → exec (.resetRequest m v) s = .next
      ((s.ignoreWrite m (Reg.index .resetRequest) (Reg.sub .resetRequest) 0x8010).answerWrite m (Reg.ty .resetRequest)).resetIfAsked) ∧
    (mayWrite s m .resetRequest → v % 256 = 1 →
      let u := ({ s with mgmt := { s.mgmt with resetAsked := true } }).answerWrite m (Reg.ty .resetRequest)
      let idle := s.reg .configStatus ≠ 1 ∧ s.mgmt.saveHeld = false ∧ s.reg .handoverStatus ≠ 1
      (idle → exec (.resetRequest m v) s = .next (u.packageReset 8)) ∧ (¬ idle → exec (.resetRequest m v) s = .next u) ∧
      (idle → completes (.resetRequest m v) s fun t => t.reg .resetCause = 8 ∧ t.boot.inReset = true ∧
        t.boot.flash = s.boot.flash ∧ t.ctxs = [] ∧ ∀ a, a < padBase → t.rd a = s.rd a))) ∧
  (∀ (s : State) (i : Instr), i = .powerOn ∨ i = .powerOff → completes i s fun t =>
    t.reg .resetCause = 0 ∧ t.reg .startCount = 0 ∧ t.boot.seqFault = none ∧ t.boot.tripFault = false ∧ t.mem = [] ∧
    t.boot.flash = s.boot.flash ∧ t.boot.inReset = true) ∧
  (∀ s : State,
    (s.latched = true → s.boot.inReset = true → completes .suppliesRestored s fun t =>
      t.mem = [] ∧ t.boot.removed = true ∧ t.tier = Tier.forBuild s.build ∧
      t = { s with mem := t.mem, tier := t.tier, boot := { s.boot with removed := true } }) ∧
    (s.latched = false ∨ s.boot.inReset = false → exec .suppliesRestored s = .next s)) ∧
  (∀ s : State,
    let free := s.boot.inReset = true ∧ s.boot.testMode = false ∧ (s.latched = false ∨ s.boot.removed = true)
    (free → exec .resetRelease s = .next { s with boot := { s.boot with inReset := false } }) ∧
    (¬ free → exec .resetRelease s = .next s))

/-- Each end of a start-up stage leads to the next, or stops the boot where a check fails. Out of reset: stage 0 takes the PCIe
link as it trained, leads to stage 1 with the seed of the first copy of helper data that was read and that the certificate
confirms, and with none the part stays without identity; stage 1 leads to stage 2 with the best configuration copy chosen;
stage 2 leads to stage 3 with an image whose signatures and version hold, the preferred one first, each one tried before
counted in IMAGE_REJECTS, its numerics firmware loaded, and with none halts; stage 3 starts the route tables and takes out
the dies without lock, stage 4 the stacks that did not train, stage 5 applies the records of the copy, and stage 6 starts
ports, programs and queues, reports and clears the latches, and notes the time; each leads to the next. In reset, after a
halt, without identity, and at stage 7 the command changes nothing. (R374, R405, R406, R407, R409, R410, R456, R486, R489,
R526, R527, R529) -/
def Obligations.BootStagesComplete : Prop :=
  (∀ (s : State) (i : BootInput), s.boot.inReset = true ∨ s.boot.idFail = true ∨ s.boot.halted = true ∨ 7 ≤ s.reg .bootStage →
    exec (.bootStage i) s = .next s) ∧
  ∀ (s : State) (i : BootInput), s.boot.inReset = false → s.boot.idFail = false → s.boot.halted = false →
    (s.reg .bootStage = 0 →
      let trains := linkTrains (i.pcie.toNat / 256) (i.pcie.toNat % 256)
      let u := { s.setReg .pcieLink (if trains then i.pcie.toNat else 0) with hif := { s.hif with access := trains } }
      let valid (read : Bool) (d : Nat) : Bool := read && seedCertified (State.seedBy u d)
      let start (d : Nat) : State :=
        (State.setReg { u with boot := { u.boot with seed := State.seedBy u d } } .pufSource d).setReg .bootStage 1
      exec (.bootStage i) s = .next (if valid i.pufA 0 = true then start 0 else if valid i.pufB 1 = true then start 1
        else { u with boot := { u.boot with idFail := true } })) ∧
    (s.reg .bootStage = 1 → exec (.bootStage i) s = .next s.bootCopy ∧
      (s.tidy → s.bootCopy.reg .bootStage = 2 ∧ ∀ d c, s.bestCopy = some (d, c) →
        s.bootCopy.boot.chosen = some d ∧ s.bootCopy.reg .configSource = d % 2 ^ Reg.width .configSource)) ∧
    (s.reg .bootStage = 2 →
      let first := s.chosenNumber Copy.plain .bootPrefer % 2
      let low := s.chosenNumber Copy.sealed .minFwVersion
      let ok (k : Nat) : Bool := imageValid (s.slotImage k) low
      let u := s.bump .imageRejects
      let w := u.bump .imageRejects
      exec (.bootStage i) s = .next
        (if ok first = true then ((s.showSlots first low).bootNumerics i.numfwOk).setReg .bootStage 3
          else if ok (1 - first) = true then ((u.showSlots (1 - first) low).bootNumerics i.numfwOk).setReg .bootStage 3
          else { w with boot := { w.boot with halted := true }, hif := { w.hif with mbStatus := 3 } }) ∧
      (s.tidy → completes (.bootStage i) s fun t =>
        (ok first = true → t.reg .bootStage = 3 ∧ t.reg .activeImage = first) ∧
        (ok first = false → ok (1 - first) = true → t.reg .bootStage = 3 ∧ t.reg .activeImage = 1 - first) ∧
        (ok first = false → ok (1 - first) = false → t.boot.halted = true ∧ t.reg .bootStage = 2))) ∧
    (s.reg .bootStage = 3 →
      exec (.bootStage i) s = .next ((s.startRoutes.bootDies i.diesLocked.toNat).setReg .bootStage 4)) ∧
    (s.reg .bootStage = 4 → exec (.bootStage i) s = .next ((s.bootStacks i.stacksTrained.toNat).setReg .bootStage 5)) ∧
    (s.reg .bootStage = 5 → exec (.bootStage i) s = .next (s.bootRecords.setReg .bootStage 6)) ∧
    (s.reg .bootStage = 6 →
      let u := s.bootPorts.setReg .bootStage 7
      exec (.bootStage i) s = .next ({ u with boot := { u.boot with readyCk := u.ck } }).reportLatches) ∧
    (s.tidy → ∀ k ∈ [3, 4, 5, 6], s.reg .bootStage = k → completes (.bootStage i) s fun t => t.reg .bootStage = k + 1 ∧
      (k = 6 → t.latched = false ∧ t.boot.readyCk = t.ck))

/-- The commands of the power controller, its sensors and rails, and POWER_CAP_W complete. CONTROL_PERIOD adds the estimate to
its means, takes the hottest reading, steps the bank within its size and the excursion, and sets the throttle's step: stage
4 while it is held, else the lowest one for the target, not falling in a handover, and counts the microsecond where a stage
is in force. A hottest die, or one without a valid sensor, taken to be at TJ_CRIT, at TJ_THROTTLE starts the thermal target
at P_est less 2 %, at TJ_CRIT holds stage 4 until it is 5 °C below. An excursion begins only with a bank above 0, an
estimate over the cap and a burst check that passes, and ends as soon as one of these fails or BURST_MAX_MS elapse.
TELEMETRY_UPDATE moves the static term toward the measurement by at most 50 W, starts the mean afresh, and reads the rails
in turn. PMB_ALERT reads its regulator, in a handover as an overcurrent as well; a read rail that answers shows its values,
and the third time in a row that one does not is reported and puts it out of range. THERMAL_UPDATE takes the coolant's
temperatures and flow and the hottest reading, steps the plate temperature where the model gives it a value, lets the
thermal target fall by 2 % of P_est or rise by 1 % of the cap, and ends the flow hold after 1 s of flow. FLOW_DEMAND_UPDATE
sets the rounded-up duty for the larger of ADMIT_POWER and the mean of the last second, within 10 and 100 %. FLOW_LOW after
1 s of low flow reports and forces stage 4. AVS_STEP, at most one per millisecond and rail, and TIMING_MARGIN_LOW, move a
core rail by 1 to 10 mV within 0.60 to 0.78 V. RAIL_OUT_OF_RANGE reports low, high and overcurrent; a core's rail takes its
die's router out, VBB loses every cell and holds the baseband cores, any other but that of rail 22 resets the package with
cause 4; overcurrent forces stage 4 until its clear. SENSOR_CALIBRATION marks and reports a sensor that differs, once.
POWER_CAP_W is taken with the bank clamped, above its range or MAX_PACKAGE_W ignored with 0x8010, and below an admitted
table with 0x8016. (R226, R507, R508, R509, R510, R512, R513, R515, R516, R517, R518, R533) -/
def Obligations.PowerCommandsComplete : Prop :=
  (∀ (s : State) (x : PowerSample),
    let est := s.estimate x.otherMw s.enginesNow
    let u := (s.sumPower est).sensed x.hottest
    let w := ({ u with power := { u.power with bank := u.bankStep est } }).burstStep est
    let k := if w.heldAt4 then 66 else w.chooseStep x.otherMw w.powerTarget
    let r := w.setStep (if w.reg .handoverStatus = 1 then max k w.throttleNow else k)
    exec (.controlPeriod x) s = .next (if r.reg .throttleStage = 0 then r else r.bump .throttledUs) ∧
    completes (.controlPeriod x) s fun t => t.power.est = est ∧ t.power.hottest = x.hottest ∧ t.mem = s.mem ∧ t.ctxs = s.ctxs ∧
      t.power.bank ≤ s.bankMax) ∧
  (∀ (s : State) (h : Int), s.tidy → let die := s.hottestDie h
    (s.blindDie = true → die = max h (s.regI .tjCrit)) ∧ (s.blindDie = false → die = h) ∧
    (s.power.thermal = none → s.regI .tjThrottle ≤ die → (s.sensed h).power.thermal = some (s.power.est - s.power.est / 50)) ∧
    (¬ (s.power.thermal = none ∧ s.regI .tjThrottle ≤ die) → (s.sensed h).power.thermal = s.power.thermal) ∧
    (s.regI .tjCrit ≤ die → (s.sensed h).power.crit = true) ∧
    (die < s.regI .tjCrit - 80 → (s.sensed h).power.crit = false) ∧
    (die < s.regI .tjCrit → s.regI .tjCrit - 80 ≤ die → (s.sensed h).power.crit = s.power.crit)) ∧
  (∀ (s : State) (est n : Nat), let cap := 1000 * s.reg .powerCapW
    (s.power.bursting = none → ((s.burstStep est).power.bursting = some 0 ↔
      s.power.bank ≠ 0 ∧ cap < est ∧ s.burstPasses.1 = true)) ∧
    (s.power.bursting = some n → ((s.burstStep est).power.bursting = some (n + 1) ↔
      s.power.bank ≠ 0 ∧ n + 1 < 1000 * s.reg .burstMaxMs ∧ s.burstPasses.1 = true ∧ cap < est)) ∧
    s.bankStep est = min s.bankMax (s.power.bank + cap - est)) ∧
  (∀ (s : State) (rs : List RailSample) (w : Nat),
    let p := s.power
    let mean := if p.n10 = 0 then p.est else p.sum10 / p.n10
    let off := p.offset + max (-50000) (min 50000 ((w : Int) - mean))
    exec (.telemetryUpdate rs w) s = .next (rs.foldl State.readRail
      (({ s with power := { p with offset := off, sum10 := 0, n10 := 0 } }).setReg .powerMeasW (w / 1000)))) ∧
  (∀ (s : State) (x : RailSample),
    (s.reg .handoverStatus = 1 → x.rail < 26 →
      exec (.pmbAlert x) s = .next ((s.railCondition x.rail (.overcurrent x.ma)).readRail x)) ∧
    (s.reg .handoverStatus ≠ 1 ∨ 26 ≤ x.rail → exec (.pmbAlert x) s = .next (s.readRail x)) ∧
    (s.railMapped x.rail = false ∨ 26 ≤ x.rail → s.readRail x = s) ∧
    (s.railMapped x.rail = true → x.rail < 26 →
      let f := s.power.fails.get 0 x.rail
      let u (k : Nat) : State := { s with power := { s.power with fails := s.power.fails.set 0 x.rail k } }
      (x.answered = true → s.readRail x =
        (((u 0).setReg .railMv x.mv x.rail).setReg .railMa x.ma x.rail).setReg .railStatus x.status x.rail) ∧
      (x.answered = false → f + 1 < 3 → s.readRail x = u (f + 1)) ∧
      (x.answered = false → f = 2 → s.readRail x =
        (((u 0).bump .pmbusErrors).fault 0x0705 0 (railUnit x.rail).1 (railUnit x.rail).2 0xFFFF x.rail).railOut x.rail))) ∧
  (∀ (s : State) (x : ThermalSample), s.tidy → -(2 ^ 15) ≤ x.coolantIn → x.coolantIn < 2 ^ 15 →
    completes (.thermalUpdate x) s fun t =>
      t.regI .coolantIn = x.coolantIn ∧ t.reg .flowMlpm = x.flowMlpm % 2 ^ Reg.width .flowMlpm ∧ t.power.hottest = x.hottest ∧
      t.mem = s.mem ∧ t.ctxs = s.ctxs ∧
      t.power.flowLowMs = (if x.flowMlpm < s.reg .flowMinMlpm then s.power.flowLowMs + 1 else 0) ∧
      (let u := ((s.setRegI .coolantIn x.coolantIn).setRegI .coolantOut x.coolantOut).setReg .flowMlpm x.flowMlpm
        let w := (s.power.est : Rat) / 1000
        ∀ p r, u.plateStep w s.power.plate = some p → u.rJpRat = some r →
          t.power.plate = p + (degrees x.hottest - w * r - p) / 16) ∧
      (∀ a, s.power.thermal = some a →
        let die := s.hottestDie x.hottest
        let cap := 1000 * s.reg .powerCapW
        let b := if s.regI .tjThrottle ≤ die then a - s.power.est / 50
          else if die < s.regI .tjThrottle - 32 then a + cap / 100 else a
        (b ≤ cap → t.power.thermal = some b) ∧ (cap < b → die < s.regI .tjThrottle → t.power.thermal = none)) ∧
      (s.power.flowOut = true → (t.power.flowOut = false ↔
        s.reg .flowMinMlpm < x.flowMlpm ∧ 1000 ≤ s.power.flowOkMs + 1))) ∧
  (∀ s : State, s.tidy →
    let p := s.power
    let means := ((if p.n100 = 0 then p.est else p.sum100 / p.n100) :: p.means).take 10
    let need := max (s.reg .admitPower) (means.sum / means.length)
    let d := 10 * s.reg .coolantHeatCapJkl * s.reg .dtCoolantMax * s.reg .flowFullMlpm
    completes .flowDemandUpdate s fun t => 10 ≤ t.reg .flowDemandPct ∧ t.reg .flowDemandPct ≤ 100 ∧
      (d ≠ 0 → t.reg .flowDemandPct = max 10 (min 100 (ceilDiv (60000 * need) d))) ∧ t.power.means = means ∧
      t.mem = s.mem ∧ t.ctxs = s.ctxs) ∧
  (∀ s : State,
    let u := { s with power := { s.power with flowOut := true, flowOkMs := 0 } }
    (s.power.flowLowMs < 1000 → exec .flowLow s = .next s) ∧
    (1000 ≤ s.power.flowLowMs → exec .flowLow s = .next ((u.fault 0x0713 0 0 0 0xFFFF (s.reg .flowMlpm)).setStep 66)) ∧
    (s.tidy → 1000 ≤ s.power.flowLowMs → completes .flowLow s fun t => t.power.flowOut = true ∧ t.reg .throttleStage = 4 ∧
      t.reg .schedGates = 3 ∧ t.mem = s.mem ∧ t.ctxs = s.ctxs)) ∧
  (∀ (s : State) (d : Nat) (up : Bool),
    (16 ≤ d → exec (.avsStep d up) s = .next s ∧ exec (.timingMarginLow d) s = .next s) ∧
    (d < 16 → s.tidy →
      let v := s.power.setPoint.get 0 d
      let moved (t : State) (u : Bool) : Prop :=
        -100 ≤ t.power.setPoint.get 0 d ∧ t.power.setPoint.get 0 d ≤ 80 ∧
        (u = true → t.power.setPoint.get 0 d ≤ max (v + 10) (-100) ∧ min v 80 ≤ t.power.setPoint.get 0 d) ∧
        (u = false → min (v - 10) 80 ≤ t.power.setPoint.get 0 d ∧ t.power.setPoint.get 0 d ≤ max v (-100)) ∧
        (∀ k, k ≠ d → t.power.setPoint.get 0 k = s.power.setPoint.get 0 k) ∧
        t = { s with free := s.free + 1, power := { s.power with setPoint := t.power.setPoint, stepped := t.power.stepped } }
      let last := s.power.stepped.get 0 d
      (last = 0 ∨ last - 1 + 825000 ≤ s.ck → completes (.avsStep d up) s fun t => moved t up) ∧
      (last ≠ 0 → s.ck < last - 1 + 825000 → exec (.avsStep d up) s = .next s) ∧
      completes (.timingMarginLow d) s fun t => moved t true)) ∧
  (∀ (s : State) (r mv : Nat) (c : RailCondition),
    (26 ≤ r → exec (.railOutOfRange r c) s = .next s) ∧
    (r < 26 →
      let data := r % 256 + mv % 65536 * 65536
      let sev := if r = 18 then 4 else 3
      exec (.railOutOfRange r (.low mv)) s =
        .next ((s.fault 0x0702 sev (railUnit r).1 (railUnit r).2 0xFFFF data).railOut r) ∧
      exec (.railOutOfRange r (.high mv)) s =
        .next ((s.fault 0x0703 sev (railUnit r).1 (railUnit r).2 0xFFFF data).railOut r) ∧
      exec (.railOutOfRange r .regulatorFault) s = .next (if r < 16 then s.railOut r else s) ∧
      (let u := s.fault 0x0704 0 (railUnit r).1 (railUnit r).2 0xFFFF (r % 256 + mv % 2 ^ 32 * 2 ^ 32)
        let over_ := u.power.overcurrent.filter (· ≠ r) ++ [r]
        exec (.railOutOfRange r (.overcurrent mv)) s =
          .next (({ u with power := { u.power with overcurrent := over_ } }).setStep 66)) ∧
      exec (.railOutOfRange r .overcurrentClear) s =
        .next { s with power := { s.power with overcurrent := s.power.overcurrent.filter (· ≠ r) } } ∧
      exec (.railOutOfRange r .backInTolerance) s =
        .next (if r = 18 then { s with power := { s.power with vbbOut := false } } else s)) ∧
    (r < 16 → s.railOut r = s.routerFault r) ∧ s.railOut 22 = s ∧
    (16 ≤ r → r < 26 → r ≠ 18 → r ≠ 22 → s.railOut r = s.packageReset 4) ∧
    (s.railOut 18).power.vbbOut = true) ∧
  (∀ (s : State) (d k : Nat), exec (.sensorCalibration d k false) s = .next s ∧
    (24 < d ∨ 3 < k → exec (.sensorCalibration d k true) s = .next s) ∧
    (d ≤ 24 → k ≤ 3 →
      let m := leNat (s.oct .sensorInvalidMask)
      (bit m (4 * d + k) = true → exec (.sensorCalibration d k true) s = .next s) ∧
      (bit m (4 * d + k) = false → exec (.sensorCalibration d k true) s =
        .next ((s.setOct .sensorInvalidMask (leBytes 13 (setBit m (4 * d + k) true))).fault 0x0715 0 0 0 0xFFFF (d + 256 * k))) ∧
      (s.tidy → completes (.sensorCalibration d k true) s fun t =>
        bit (leNat (t.oct .sensorInvalidMask)) (4 * d + k) = true))) ∧
  ∀ (s : State) (m v : Nat), guarded (.powerCapW m v) s m .powerCapW 0 ∧ (mayWrite s m .powerCapW →
    let w := v % 65536
    let low := s.tilth.copies.any fun c => decide (1000 * w < c.admitMw)
    let u := s.setReg .powerCapW w
    (s.reg .maxPackageW < w ∨ Reg.outOfRange .powerCapW w = true → ignored (.powerCapW m v) s m .powerCapW 0 0x8010) ∧
    (w ≤ s.reg .maxPackageW → Reg.outOfRange .powerCapW w = false →
      (low = true → ignored (.powerCapW m v) s m .powerCapW 0 0x8016) ∧
      (low = false → taken (.powerCapW m v) s m .powerCapW { u with power := { u.power with bank := min u.bankMax u.power.bank } })))

/-- The throttle takes the lowest step that meets the target, and comes down only with hysteresis to spare. For every state,
other power and target: the chosen step is at most 66; when some step from 0 to 66 is predicted at or below the target, a
rising choice meets the target and no lower step does; the step never falls below one that meets the target; and it falls
only to a step that the target less THROTTLE_HYST_W allows. A step set, from 0 to 66, shows its stage, idle lengths and
gates, reads back as the step in force, and asks every engine that runs a command of a class with an idle length for that
idle. The linear prediction and its 67 steps are the model's choice (log entry 60). (R91, R510, R511) -/
def Obligations.ThrottleIsTheLowestStep : Prop :=
  (∀ (s : State) (other target : Nat),
    let k := s.chooseStep other target
    let need := s.lowestStep other target
    k ≤ 66 ∧ need ≤ k ∧
    ((∃ j, j ≤ 66 ∧ s.predict other j ≤ target) → s.predict other need ≤ target) ∧
    (∀ j, j < need → target < s.predict other j) ∧
    (s.throttleNow ≤ need → k = need) ∧
    (need < s.throttleNow → k ≤ s.throttleNow ∧
      (k < s.throttleNow → s.lowestStep other (target - 1000 * s.reg .throttleHystW) ≤ k))) ∧
  ∀ (s : State) (k : Nat), s.tidy → k ≤ 66 →
    let t := s.setStep k
    let x := throttleOf k
    t.throttleNow = k ∧ t.reg .throttleStage = x.stage ∧ t.reg .beIdleAk = x.beIdle ∧ t.reg .lcIdleAk = x.lcIdle ∧
    t.reg .schedGates = x.gates ∧
    ∀ e, let n := match s.classRunning (s.engines.get default e) with
        | 1 => x.lcIdle
        | 2 => x.beIdle
        | _ => 0
      (t.engines.get default e).idleReq = if n = 0 then (s.engines.get default e).idleReq else some n

/-- REF_LOST, REF_RESTORED, ROOT_PLL_UNLOCK, DIE_PLL_UNLOCK, DIE_PLL_RELOCK, CROSSING_STALL and RCLK_CFG complete. REF_LOST of a
package not in holdover sets CLK_STATE 1, counts and reports; REF_RESTORED from holdover slews back, and from slewing locks;
in other states of the clock neither changes anything. ROOT_PLL_UNLOCK with the reference present reports and resets the
package with cause 5, and in holdover does nothing. DIE_PLL_UNLOCK of a locked, fitted die other than HD clears its lock
bit, reports, and takes it out, a compute die with its router, which returns with it; DIE_PLL_RELOCK sets the bit; of HD, of
no die of the build, and the unlock of one not locked change nothing. CROSSING_STALL of a unit of the build counts, reports
and takes the receiving unit out. RCLK_CFG of a port that exists is taken, out of range or of no port ignored with 0x8010,
with a reserved bit set ignored with 0x8011, and without a session or the right as every write. (R12, R19, R434, R441, R485,
R489, R490, R491, R497, R502, R503, R522) -/
def Obligations.ClockCommandsComplete : Prop :=
  (∀ s : State,
    (s.reg .clkState ≠ 1 → exec .refLost s = .next (((s.setReg .clkState 1).bump .refLosses).fault 0x0801 0 0 0)) ∧
    (s.reg .clkState = 1 → exec .refLost s = .next s) ∧
    (s.reg .clkState = 1 → exec (.refRestored false) s = .next ((s.setReg .clkState 2).fault 0x0802 0 0 0)) ∧
    (s.reg .clkState ≠ 1 → exec (.refRestored false) s = .next s) ∧
    (s.reg .clkState = 2 → exec (.refRestored true) s = .next (s.setReg .clkState 0)) ∧
    (s.reg .clkState ≠ 2 → exec (.refRestored true) s = .next s) ∧
    (s.reg .clkState ≠ 1 → exec .rootPllUnlock s = .next ((s.fault 0x0805 3 10 0).packageReset 5) ∧
      completes .rootPllUnlock s fun t => t.reg .resetCause = 5 ∧ t.boot.inReset = true) ∧
    (s.reg .clkState = 1 → exec .rootPllUnlock s = .next s)) ∧
  (∀ (s : State) (d : Nat),
    (d = 18 ∨ 24 < d ∨ s.fitted (dieUnit d) = false → exec (.diePllUnlock d) s = .next s ∧ exec (.diePllRelock d) s = .next s) ∧
    (d ≤ 24 → d ≠ 18 → s.fitted (dieUnit d) = true →
      (bit (s.reg .diePllLock) d = true →
        let u := (s.setReg .diePllLock (setBit (s.reg .diePllLock) d false)).fault 0x0803 3 (UnitId.code (dieUnit d)).1
          (UnitId.code (dieUnit d)).2 0xFFFF d
        let w := { u with faults := { u.faults with routerPll := setBit u.faults.routerPll d true } }
        exec (.diePllUnlock d) s = .next (if 16 ≤ d then u.leave (dieUnit d) else if bit u.faults.routerOut d = true then u
          else State.routerFault w d)) ∧
      (bit (s.reg .diePllLock) d = false → exec (.diePllUnlock d) s = .next s) ∧
      exec (.diePllRelock d) s = .next (s.setReg .diePllLock (setBit (s.reg .diePllLock) d true)) ∧
      (s.tidy → completes (.diePllRelock d) s fun t => bit (t.reg .diePllLock) d = true))) ∧
  (∀ (s : State) (u : UnitId), (s.fitted u = false → exec (.crossingStall u) s = .next s) ∧
    (s.fitted u = true → exec (.crossingStall u) s = .next (((s.bump .xingStalls).fault 0x0804 3 (UnitId.code u).1 (UnitId.code u).2 0xFFFF (unitDie u)).leave u))) ∧
  (∀ (s : State) (m : Nat) (v : W16), guarded (.rclkCfg m v) s m .rclkCfg 0 ∧ (mayWrite s m .rclkCfg →
    (Reg.outOfRange .rclkCfg v.toNat = true ∨ s.fhExists (v.toNat % 16) = false →
      ignored (.rclkCfg m v) s m .rclkCfg 0 0x8010) ∧
    (Reg.outOfRange .rclkCfg v.toNat = false → s.fhExists (v.toNat % 16) = true →
      (Reg.reservedSet .rclkCfg v.toNat = true → ignored (.rclkCfg m v) s m .rclkCfg 0 0x8011) ∧
      (Reg.reservedSet .rclkCfg v.toNat = false → taken (.rclkCfg m v) s m .rclkCfg (s.setReg .rclkCfg v.toNat)))))

/-- A dictionary write without the right changes nothing but the counts of ignored writes. By an open session with no reset
asked for: a WRITE of an RO or CONST entry is ignored with 0x8002, of an RWD entry with 0x8003, of an RWS entry by a role
other than 4 with 0x8001, and of an RW or WO entry that is not held per session by role 0 with 0x8001. DICT_IGNORED_TOTAL
and the session's count go up, both LAST_IGNORED take the reason, DICT_LAST_IGNORED_ENTRY names the entry, and no other
register, no protected entry, no memory, context, queue or other session changes but for the answer on the session's
transport. FW_LOAD_DATA, which R536 gives to the service role, is not stated here. (R436, R441, R443, R444) -/
def Obligations.WritesNeedTheRight : Prop :=
  ∀ (s : State) (m ix sub fam e : Nat) (r : Reg) (v : Bytes), s.tidy → s.isOpen m = true → (s.sess m).via ≠ .mailbox →
    s.mgmt.resetAsked = false → Reg.find ix sub = some (r, fam) → r.lengthOk v = true → ix < 2 ^ 16 → sub < 2 ^ 8 →
    ((r.access = .ro ∨ r.access = .const) ∧ e = 0x8002) ∨ (r.access = .rwd ∧ e = 0x8003) ∨
      (r.access = .rws ∧ s.role m ≠ 4 ∧ e = 0x8001) ∨
      ((r.access = .rw ∨ r.access = .wo) ∧ r.perSession = false ∧ r ≠ .fwLoadData ∧ s.role m = 0 ∧ e = 0x8001) →
    completes (.write m ix sub v) s fun t =>
      t.reg .dictIgnoredTotal = (s.reg .dictIgnoredTotal + 1) % 2 ^ Reg.width .dictIgnoredTotal ∧
      t.reg .dictLastIgnored = e ∧ t.reg .dictLastIgnoredEntry = ix * 2 ^ 16 + sub * 2 ^ 8 ∧
      t.sreg m .sessIgnoredCount = (s.sreg m .sessIgnoredCount + 1) % 2 ^ Reg.width .sessIgnoredCount ∧
      t.sreg m .sessLastIgnored = e ∧ t.reg .mgmtRxFrames (viaPort (s.sess m).via - 1) =
        (s.reg .mgmtRxFrames (viaPort (s.sess m).via - 1) + 1) % 2 ^ Reg.width .mgmtRxFrames ∧
      (∀ q ∈ Reg.all, ∀ i, q ≠ .dictIgnoredTotal → q ≠ .dictLastIgnored → q ≠ .dictLastIgnoredEntry → q ≠ .mgmtRxFrames →
        i < 2 ^ 16 → t.reg q i = s.reg q i) ∧
      (∀ k, k ≠ m → t.sess k = s.sess k) ∧
      t = { s with regs := t.regs, mgmt := { s.mgmt with sessions := t.mgmt.sessions, sent := t.mgmt.sent } }

/-- After reset every entry holds its default, nothing is listed, and the stores are tidy. In State.reset every dictionary
register of every instance holds the default of the build the model takes (log entry 1; where the manual gives no default,
0, log entry 2), every byte of memory reads 0 (log entry 2), no command waits, no context, session, queue or cell exists,
start-up stage 0 begins, and the stores list each key once. (R442, R522, R523, 14_management_dictionary.md, log entries 1
and 2) -/
def Obligations.ResetHoldsTheDefaults : Prop :=
  (∀ (r : Reg) (i : Nat), State.reset.reg r i = resetBuild.dflt r) ∧ (∀ a, State.reset.rd a = 0) ∧
  State.reset.pending = [] ∧ (∀ c, (State.reset.ctx c).live = false) ∧ (∀ n, State.reset.isOpen n = false) ∧
  (∀ q, State.reset.qOn q = false) ∧ (∀ c, (State.reset.cell c).enabled = false) ∧ State.reset.boot.inReset = false ∧
  State.reset.reg .bootStage = 0 ∧ State.reset.tidy

/-- Every step keeps the memories in canonical form and every store free of repeats. For every state whose memories stand in
canonical form and whose registers, contexts, engines, queues, sessions, cells and other stores list each key once, every
step that answers a next state gives such a state again. It is what makes each object read as it was last written. (R173,
R442, 95_what_each_step_holds.md) -/
def Obligations.StepsKeepTheStoresTidy : Prop :=
  ∀ s t : State, s.tidy → step s = .next t → t.tidy

/-- No command stops the model, none changes the queue or the build, and a step takes just the front command. In every state
every command answers a next state, with the same queue of waiting commands and the same build; so a step of any state
answers a next state, whose queue is the former one without its front. (R7, 05_commands_and_instruction_list.md,
95_what_each_step_holds.md, log entry 3) -/
def Obligations.EveryCommandCompletesAndLeavesTheQueue : Prop :=
  (∀ (i : Instr) (s : State), completes i s fun t => t.pending = s.pending ∧ t.build = s.build) ∧
  ∀ s : State, ∃ t, step s = .next t ∧ t.pending = s.pending.tail ∧ t.build = s.build

/-- Every code of a floating-point format that is not a NaN decodes to a value that encodes to that code. For FP32, FP16, BF16,
E5M2, E4M3, E3M2, E2M3 and E2M1 and every code of the format: a code that stands for a number or an infinity is written back
as itself, sign and subnormals included, with no saturation counted; and one that stands for a NaN is written as the
format's canonical NaN. (R23, R25, R28, R31) -/
def Obligations.FormatsRoundTrip : Prop :=
  ∀ (f : Fmt), f ∈ [fmtFP32, fmtFP16, fmtBF16, fmtE5M2, fmtE4M3, fmtE3M2, fmtE2M3, fmtE2M1] →
    ∀ c, c < 2 ^ (1 + f.ebits + f.mbits) →
      (f.decode c ≠ .nan → f.encode false (f.decode c) = (c, false)) ∧
      (f.decode c = .nan → f.encode false (f.decode c) = (f.nanCode, false))

/-- Every packet read back from its wire bytes is the packet that was sent. For every packet whose fields fit their widths and
whose payload has the length its header names, under the key of its job or domain: its bytes on the wire are header,
ciphertext and tag; the header reads back as every field of the packet; and the ciphertext with its tag opens under the same
key, IV and header to the payload. (R340, R341, R342, R350) -/
def Obligations.PacketsOpenAsTheyWereSealed : Prop :=
  ∀ (s : State) (p : Packet) (k : Bytes), s.packetKey p = some k → p.seq < 2 ^ 64 → p.dst < 2 ^ 8 → p.src < 2 ^ 8 → p.kind < 2 ^ 4 →
    p.job < 2 ^ 16 → p.len < 2 ^ 11 → p.dpa < 2 ^ 41 → p.dclass < 2 ^ 2 → p.dgen < 2 ^ 38 → p.payload.length = p.carried →
    let bs := s.wire p
    bs.length = p.wireLen ∧ headerOf bs = { p with payload := [] } ∧ slice bs 0 24 = p.header ∧
    gcmOpen k p.iv p.header (slice bs 24 p.carried) (slice bs (24 + p.carried) 16) = some p.payload

/-- A kaolin sum does not depend on the order of its products or records, flags included. For every window base and start: two
orders of the same products, or of the same partial records, leave the same element, its integer and all five flags; and so
the drained value and the record written are the same. (R40, R42, R43, R50, R51) -/
def Obligations.KaolinResultIsOrderFree : Prop :=
  (∀ (w : Int) (k : Kao) (a b : List Fl), a.Perm b → a.foldl (Kao.addFl w) k = b.foldl (Kao.addFl w) k) ∧
  ∀ (w : Int) (k : Kao) (a b : List Nat), a.Perm b → a.foldl (Kao.addRecord w) k = b.foldl (Kao.addRecord w) k

/-- How a product enters the kaolin accumulator. For every window base W and every product of sign s and magnitude m times 2^e:
nonzero bits of weight below 2^W are discarded, rounding toward zero, and set SAT_LO; when the magnitude after that exceeds
2^(W+191) − 2^W, that limit with the product's sign enters and SAT_HI is set; otherwise the product enters exactly. The
element's other flags stay. (R42) -/
def Obligations.KaolinProductEntry : Prop :=
  ∀ (w : Int) (k : Kao) (s : Bool) (m : Nat) (e : Int),
    let lost := (w - e).toNat
    let units := m * 2 ^ (e - w).toNat / 2 ^ lost
    let cut := m % 2 ^ lost
    let limit := 2 ^ 191 - 1
    let t := k.addFl w (.fin s m e)
    t.satLo = (k.satLo || decide (cut ≠ 0)) ∧ t.satHi = (k.satHi || decide (limit < units)) ∧
    t.v = k.v + (if s then -1 else 1) * (min units limit : Nat) ∧
    (cut = 0 → units ≤ limit → (t.v - k.v).natAbs * 2 ^ lost = m * 2 ^ (e - w).toNat) ∧
    t.pinf = k.pinf ∧ t.ninf = k.ninf ∧ t.nan = k.nan

/-- A NaN is written as the canonical NaN of its format, whatever NaN was read. A NaN written to FP32, BF16, FP16, E4M3 or E5M2
is 0x7FC00000, 0x7FC0, 0x7E00, 0x7F or 0x7E, and so is any NaN code read from any of the five formats: no payload is
propagated. (R31) -/
def Obligations.NanIsCanonical : Prop :=
  let all := [(fmtFP32, 0x7FC00000), (fmtBF16, 0x7FC0), (fmtFP16, 0x7E00), (fmtE4M3, 0x7F), (fmtE5M2, 0x7E)]
  ∀ f n, (f, n) ∈ all → (∀ sat, (f.encode sat .nan).1 = n) ∧
    ∀ g k, (g, k) ∈ all → ∀ c sat, g.decode c = .nan → (f.encode sat (g.decode c)).1 = n
end

