-- ==== Sys2Proof/Laws/Crypto.lean ====
section
/-! SUPPORT. Lengths of byte strings and digests. -/

namespace Sys2Proof.Machine

@[simp] theorem leBytes_length (n v : Nat) : (leBytes n v).length = n := by
  induction n generalizing v with
  | zero => rfl
  | succ n ih => simp [leBytes, ih]

@[simp] theorem beBytes_length (n v : Nat) : (beBytes n v).length = n := by simp [beBytes]

theorem sha512Round_length (h : List Nat) (kw : Nat) : (sha512Round h kw).length = h.length := by
  unfold sha512Round
  split <;> rfl

theorem sha512Rounds_length (ws h : List Nat) : (ws.foldl sha512Round h).length = h.length := by
  induction ws generalizing h with
  | nil => rfl
  | cons w ws ih => rw [List.foldl_cons, ih, sha512Round_length]

theorem sha512Block_length (h : List Nat) (b : Bytes) : (sha512Block h b).length = h.length := by
  simp [sha512Block, sha512Rounds_length]

theorem sha512Blocks_length (bs : List Bytes) (h : List Nat) : (bs.foldl sha512Block h).length = h.length := by
  induction bs generalizing h with
  | nil => rfl
  | cons b bs ih => rw [List.foldl_cons, ih, sha512Block_length]

theorem flatMap_beBytes_length (l : List Nat) : (l.flatMap (beBytes 8)).length = 8 * l.length := by
  induction l with
  | nil => rfl
  | cons a l ih => simp [ih]; omega

/-- A digest has 64 bytes. -/
@[simp] theorem sha512_length (m : Bytes) : (sha512 m).length = 64 := by
  unfold sha512
  rw [flatMap_beBytes_length, sha512Blocks_length]
  rfl

end Sys2Proof.Machine
end

