-- ==== Sys2Proof/Laws/Tab.lean ====
section
/-! SUPPORT. Laws of sparse tables: reading after a write, and the canonical form, which every table operation keeps. -/

namespace Sys2Proof.Machine

variable {α : Type}

-- Reading after a write --------------------

@[simp] theorem Tab.get_nil (d : α) (k : Nat) : Tab.get d [] k = d := rfl

theorem Tab.get_cons (d : α) (k' : Nat) (v : α) (t : Tab α) (k : Nat) :
    Tab.get d ((k', v) :: t) k = if k' = k then v else Tab.get d t k := rfl

@[simp] theorem Tab.get_insert_same (d : α) (t : Tab α) (k : Nat) (v : α) : (t.insert k v).get d k = v := by
  induction t with
  | nil => simp [Tab.insert, Tab.get]
  | cons p t ih =>
    obtain ⟨k', v'⟩ := p
    unfold Tab.insert
    split
    · simp [Tab.get]
    · split
      · simp [Tab.get]
      · simp [Tab.get, *]

theorem Tab.get_insert_other (d : α) (t : Tab α) {k j : Nat} (v : α) (h : k ≠ j) :
    (t.insert k v).get d j = t.get d j := by
  induction t with
  | nil => simp [Tab.insert, Tab.get, h]
  | cons p t ih =>
    obtain ⟨k', v'⟩ := p
    unfold Tab.insert
    split
    · simp [Tab.get, h]
    · split
      · subst_vars; simp [Tab.get, h]
      · simp [Tab.get, ih]

theorem Tab.get_erase_other (d : α) (t : Tab α) {k j : Nat} (h : k ≠ j) : (t.erase k).get d j = t.get d j := by
  induction t with
  | nil => rfl
  | cons p t ih =>
    obtain ⟨k', v'⟩ := p
    unfold Tab.erase
    split
    · subst_vars; simp [Tab.get, h]
    · simp [Tab.get, ih]

/-- A key below every listed one reads as the default. -/
theorem Tab.get_below (d : α) (t : Tab α) (k : Nat) (h : ∀ p ∈ t, k < p.1) : t.get d k = d := by
  induction t with
  | nil => rfl
  | cons p t ih =>
    obtain ⟨k', v'⟩ := p
    have h1 : k < k' := h (k', v') (by simp)
    have h2 : k' ≠ k := by omega
    simp only [Tab.get, h2, if_false]
    exact ih fun q hq => h q (by simp [hq])

theorem Tab.get_erase_same (d : α) (t : Tab α) (k : Nat) (h : t.rising) : (t.erase k).get d k = d := by
  induction t with
  | nil => rfl
  | cons p t ih =>
    obtain ⟨k', v'⟩ := p
    have hr := List.pairwise_cons.1 h
    unfold Tab.erase
    split
    · subst_vars; exact Tab.get_below d t _ hr.1
    next hk => simp only [Tab.get, hk, if_false]; exact ih hr.2

/-- Reading another key after a write. -/
theorem Tab.get_set_other [DecidableEq α] (d e : α) (t : Tab α) {k j : Nat} (v : α) (h : k ≠ j) :
    (t.set d k v).get e j = t.get e j := by
  unfold Tab.set
  split
  · exact Tab.get_erase_other e t h
  · exact Tab.get_insert_other e t v h

/-- Reading the key written, when the value is not the default: in every table. -/
theorem Tab.get_set_same [DecidableEq α] (d : α) (t : Tab α) (k : Nat) {v : α} (h : v ≠ d) : (t.set d k v).get d k = v := by
  simp [Tab.set, h]

/-- Reading the key written, in a table with rising keys. -/
theorem Tab.get_set_rising [DecidableEq α] (d : α) (t : Tab α) (k : Nat) (v : α) (h : t.rising) :
    (t.set d k v).get d k = v := by
  unfold Tab.set
  split
  · next hv => rw [Tab.get_erase_same d t k h, hv]
  · exact Tab.get_insert_same d t k v

-- The canonical form --------------------

theorem Tab.erase_subset (t : Tab α) (k : Nat) : ∀ p ∈ t.erase k, p ∈ t := by
  induction t with
  | nil => intro p h; exact h
  | cons q t ih =>
    obtain ⟨k', v'⟩ := q
    unfold Tab.erase
    split
    · intro p h; exact List.mem_cons_of_mem _ h
    · intro p h
      rcases List.mem_cons.1 h with h | h
      · simp [h]
      · exact List.mem_cons_of_mem _ (ih p h)

theorem Tab.rising_erase (t : Tab α) (k : Nat) (h : t.rising) : (t.erase k).rising := by
  induction t with
  | nil => exact h
  | cons q t ih =>
    obtain ⟨k', v'⟩ := q
    have hr := List.pairwise_cons.1 h
    unfold Tab.erase
    split
    · exact hr.2
    · exact List.pairwise_cons.2 ⟨fun p hp => hr.1 p (Tab.erase_subset t k p hp), ih hr.2⟩

theorem Tab.mem_insert (t : Tab α) (k : Nat) (v : α) : ∀ p ∈ t.insert k v, p = (k, v) ∨ p ∈ t := by
  induction t with
  | nil => intro p h; simp [Tab.insert] at h; simp [h]
  | cons q t ih =>
    obtain ⟨k', v'⟩ := q
    unfold Tab.insert
    split
    · intro p h; rcases List.mem_cons.1 h with h | h <;> simp [h]
    · split
      · intro p h
        rcases List.mem_cons.1 h with h | h
        · simp [h]
        · simp [h]
      · intro p h
        rcases List.mem_cons.1 h with h | h
        · simp [h]
        · rcases ih p h with h | h <;> simp [h]

theorem Tab.rising_insert (t : Tab α) (k : Nat) (v : α) (h : t.rising) : (t.insert k v).rising := by
  induction t with
  | nil => simp [Tab.insert, Tab.rising]
  | cons q t ih =>
    obtain ⟨k', v'⟩ := q
    have hr := List.pairwise_cons.1 h
    unfold Tab.insert
    split
    · next hk =>
      refine List.pairwise_cons.2 ⟨fun p hp => ?_, h⟩
      rcases List.mem_cons.1 hp with hp | hp
      · simp [hp, hk]
      · exact Nat.lt_trans hk (hr.1 p hp)
    · split
      · next hk => subst hk; exact List.pairwise_cons.2 ⟨hr.1, hr.2⟩
      · next h1 h2 =>
        refine List.pairwise_cons.2 ⟨fun p hp => ?_, ih hr.2⟩
        rcases Tab.mem_insert t k v p hp with hp | hp
        · simp only [hp]; omega
        · exact hr.1 p hp

theorem Tab.rising_set [DecidableEq α] (d : α) (t : Tab α) (k : Nat) (v : α) (h : t.rising) : (t.set d k v).rising := by
  unfold Tab.set
  split
  · exact Tab.rising_erase t k h
  · exact Tab.rising_insert t k v h

/-- The canonical form, said by its two halves. -/
theorem Tab.sortedFrom_iff [DecidableEq α] (d : α) (lo : Option Nat) (t : Tab α) :
    Tab.sortedFrom d lo t = true ↔ t.rising ∧ (∀ p ∈ t, p.2 ≠ d) ∧ ∀ n ∈ lo, ∀ p ∈ t, n < p.1 := by
  induction t generalizing lo with
  | nil => cases lo <;> simp [Tab.sortedFrom, Tab.rising]
  | cons q t ih =>
    obtain ⟨k', v'⟩ := q
    have step : Tab.sortedFrom d (some k') t = true ↔ Tab.rising t ∧ (∀ p ∈ t, p.2 ≠ d) ∧ ∀ p ∈ t, k' < p.1 := by
      rw [ih]; simp
    cases lo with
    | none =>
      simp only [Tab.sortedFrom, Bool.and_eq_true, decide_eq_true_eq, step, Tab.rising, List.pairwise_cons, List.mem_cons,
        forall_eq_or_imp]
      constructor
      · rintro ⟨h1, h2, h3, h4⟩; exact ⟨⟨h4, h2⟩, ⟨h1, h3⟩, by simp⟩
      · rintro ⟨⟨h4, h2⟩, ⟨h1, h3⟩, -⟩; exact ⟨h1, h2, h3, h4⟩
    | some n =>
      simp only [Tab.sortedFrom, Bool.and_eq_true, decide_eq_true_eq, step, Tab.rising, List.pairwise_cons, List.mem_cons,
        forall_eq_or_imp, Option.mem_def, Option.some.injEq, forall_eq']
      constructor
      · rintro ⟨⟨h0, h1⟩, h2, h3, h4⟩
        exact ⟨⟨h4, h2⟩, ⟨h1, h3⟩, h0, fun p hp => Nat.lt_trans h0 (h4 p hp)⟩
      · rintro ⟨⟨h4, h2⟩, ⟨h1, h3⟩, h0, -⟩; exact ⟨⟨h0, h1⟩, h2, h3, h4⟩

theorem Tab.wf_iff [DecidableEq α] (d : α) (t : Tab α) : t.wf d = true ↔ t.rising ∧ ∀ p ∈ t, p.2 ≠ d := by
  simp [Tab.wf, Tab.sortedFrom_iff]

theorem Tab.wf_set [DecidableEq α] (d : α) (t : Tab α) (k : Nat) (v : α) (h : t.wf d = true) : (t.set d k v).wf d = true := by
  rw [Tab.wf_iff] at *
  refine ⟨Tab.rising_set d t k v h.1, fun p hp => ?_⟩
  unfold Tab.set at hp
  split at hp
  · exact h.2 p (Tab.erase_subset t k p hp)
  · next hv =>
    rcases Tab.mem_insert t k v p hp with hp | hp
    · simp [hp, hv]
    · exact h.2 p hp

theorem Tab.wf_keep [DecidableEq α] (d : α) (t : Tab α) (q : Nat → α → Bool) (h : t.wf d = true) : (t.keep q).wf d = true := by
  rw [Tab.wf_iff] at *
  exact ⟨h.1.filter _, fun p hp => h.2 p (List.mem_of_mem_filter hp)⟩

theorem Tab.wf_setRun [DecidableEq α] (d : α) (vs : List α) : ∀ (t : Tab α) (k : Nat), t.wf d = true → (t.setRun d k vs).wf d = true := by
  induction vs with
  | nil => intro t k h; exact h
  | cons v vs ih => intro t k h; exact ih _ _ (Tab.wf_set d t k v h)

theorem Tab.wf_foldl_set [DecidableEq α] {β : Type} (d : α) (l : List β) (f : β → Nat) (g : β → α) :
    ∀ t : Tab α, t.wf d = true → (l.foldl (fun m p => m.set d (f p) (g p)) t).wf d = true := by
  induction l with
  | nil => intro t h; exact h
  | cons x l ih => intro t h; exact ih _ (Tab.wf_set d t _ _ h)

/-- A run of values written reads back outside the run as before. -/
theorem Tab.get_setRun_other [DecidableEq α] (d e : α) (vs : List α) : ∀ (t : Tab α) (k j : Nat), j < k ∨ k + vs.length ≤ j →
    (t.setRun d k vs).get e j = t.get e j := by
  induction vs with
  | nil => intro t k j _; rfl
  | cons v vs ih =>
    intro t k j h
    simp only [Tab.setRun, List.length_cons] at *
    rw [ih _ _ _ (by omega), Tab.get_set_other _ _ _ _ (by omega)]

theorem Tab.rising_setRun [DecidableEq α] (d : α) (vs : List α) : ∀ (t : Tab α) (k : Nat), t.rising → (t.setRun d k vs).rising := by
  induction vs with
  | nil => intro t k h; exact h
  | cons v vs ih => intro t k h; exact ih _ _ (Tab.rising_set d t k v h)

/-- A run of values written reads back. -/
theorem Tab.run_setRun [DecidableEq α] (d : α) (vs : List α) : ∀ (t : Tab α) (k : Nat), t.rising →
    (t.setRun d k vs).run d k vs.length = vs := by
  induction vs with
  | nil => intro t k _; rfl
  | cons v vs ih =>
    intro t k h
    simp only [Tab.setRun, List.length_cons, Tab.run]
    rw [ih _ _ (Tab.rising_set d t k v h), Tab.get_setRun_other _ _ _ _ _ _ (by omega), Tab.get_set_rising d t k v h]

end Sys2Proof.Machine
end

