-- ==== Sys2Proof/Laws/State.lean ====
section
/-! SUPPORT. What each named update of State leaves as it was, field by field, and reading an object after writing it. -/

namespace Sys2Proof.Machine

variable (s : State)

-- setReg --------------------

@[simp] theorem State.setReg_pending (r : Reg) (v i : Nat) : (s.setReg r v i).pending = s.pending := by unfold State.setReg; split <;> rfl
@[simp] theorem State.setReg_build (r : Reg) (v i : Nat) : (s.setReg r v i).build = s.build := by unfold State.setReg; split <;> rfl
@[simp] theorem State.setReg_ck (r : Reg) (v i : Nat) : (s.setReg r v i).ck = s.ck := by unfold State.setReg; split <;> rfl
@[simp] theorem State.setReg_octs (r : Reg) (v i : Nat) : (s.setReg r v i).octs = s.octs := by unfold State.setReg; split <;> rfl
@[simp] theorem State.setReg_host (r : Reg) (v i : Nat) : (s.setReg r v i).host = s.host := by unfold State.setReg; split <;> rfl
@[simp] theorem State.setReg_mem (r : Reg) (v i : Nat) : (s.setReg r v i).mem = s.mem := by unfold State.setReg; split <;> rfl
@[simp] theorem State.setReg_ctxs (r : Reg) (v i : Nat) : (s.setReg r v i).ctxs = s.ctxs := by unfold State.setReg; split <;> rfl
@[simp] theorem State.setReg_engines (r : Reg) (v i : Nat) : (s.setReg r v i).engines = s.engines := by unfold State.setReg; split <;> rfl
@[simp] theorem State.setReg_tier (r : Reg) (v i : Nat) : (s.setReg r v i).tier = s.tier := by unfold State.setReg; split <;> rfl
@[simp] theorem State.setReg_tilth (r : Reg) (v i : Nat) : (s.setReg r v i).tilth = s.tilth := by unfold State.setReg; split <;> rfl
@[simp] theorem State.setReg_hif (r : Reg) (v i : Nat) : (s.setReg r v i).hif = s.hif := by unfold State.setReg; split <;> rfl
@[simp] theorem State.setReg_queues (r : Reg) (v i : Nat) : (s.setReg r v i).queues = s.queues := by unfold State.setReg; split <;> rfl
@[simp] theorem State.setReg_fh (r : Reg) (v i : Nat) : (s.setReg r v i).fh = s.fh := by unfold State.setReg; split <;> rfl
@[simp] theorem State.setReg_tbs (r : Reg) (v i : Nat) : (s.setReg r v i).tbs = s.tbs := by unfold State.setReg; split <;> rfl
@[simp] theorem State.setReg_pins (r : Reg) (v i : Nat) : (s.setReg r v i).pins = s.pins := by unfold State.setReg; split <;> rfl
@[simp] theorem State.setReg_faults (r : Reg) (v i : Nat) : (s.setReg r v i).faults = s.faults := by unfold State.setReg; split <;> rfl
@[simp] theorem State.setReg_mgmt (r : Reg) (v i : Nat) : (s.setReg r v i).mgmt = s.mgmt := by unfold State.setReg; split <;> rfl
@[simp] theorem State.setReg_radio (r : Reg) (v i : Nat) : (s.setReg r v i).radio = s.radio := by unfold State.setReg; split <;> rfl
@[simp] theorem State.setReg_fab (r : Reg) (v i : Nat) : (s.setReg r v i).fab = s.fab := by unfold State.setReg; split <;> rfl
@[simp] theorem State.setReg_boot (r : Reg) (v i : Nat) : (s.setReg r v i).boot = s.boot := by unfold State.setReg; split <;> rfl
@[simp] theorem State.setReg_power (r : Reg) (v i : Nat) : (s.setReg r v i).power = s.power := by unfold State.setReg; split <;> rfl
@[simp] theorem State.setReg_free (r : Reg) (v i : Nat) : (s.setReg r v i).free = s.free := by unfold State.setReg; split <;> rfl

-- bump --------------------

@[simp] theorem State.bump_pending (r : Reg) (i n : Nat) : (s.bump r i n).pending = s.pending := by simp [State.bump]
@[simp] theorem State.bump_build (r : Reg) (i n : Nat) : (s.bump r i n).build = s.build := by simp [State.bump]
@[simp] theorem State.bump_ck (r : Reg) (i n : Nat) : (s.bump r i n).ck = s.ck := by simp [State.bump]
@[simp] theorem State.bump_octs (r : Reg) (i n : Nat) : (s.bump r i n).octs = s.octs := by simp [State.bump]
@[simp] theorem State.bump_host (r : Reg) (i n : Nat) : (s.bump r i n).host = s.host := by simp [State.bump]
@[simp] theorem State.bump_mem (r : Reg) (i n : Nat) : (s.bump r i n).mem = s.mem := by simp [State.bump]
@[simp] theorem State.bump_ctxs (r : Reg) (i n : Nat) : (s.bump r i n).ctxs = s.ctxs := by simp [State.bump]
@[simp] theorem State.bump_engines (r : Reg) (i n : Nat) : (s.bump r i n).engines = s.engines := by simp [State.bump]
@[simp] theorem State.bump_tier (r : Reg) (i n : Nat) : (s.bump r i n).tier = s.tier := by simp [State.bump]
@[simp] theorem State.bump_tilth (r : Reg) (i n : Nat) : (s.bump r i n).tilth = s.tilth := by simp [State.bump]
@[simp] theorem State.bump_hif (r : Reg) (i n : Nat) : (s.bump r i n).hif = s.hif := by simp [State.bump]
@[simp] theorem State.bump_queues (r : Reg) (i n : Nat) : (s.bump r i n).queues = s.queues := by simp [State.bump]
@[simp] theorem State.bump_fh (r : Reg) (i n : Nat) : (s.bump r i n).fh = s.fh := by simp [State.bump]
@[simp] theorem State.bump_tbs (r : Reg) (i n : Nat) : (s.bump r i n).tbs = s.tbs := by simp [State.bump]
@[simp] theorem State.bump_pins (r : Reg) (i n : Nat) : (s.bump r i n).pins = s.pins := by simp [State.bump]
@[simp] theorem State.bump_faults (r : Reg) (i n : Nat) : (s.bump r i n).faults = s.faults := by simp [State.bump]
@[simp] theorem State.bump_mgmt (r : Reg) (i n : Nat) : (s.bump r i n).mgmt = s.mgmt := by simp [State.bump]
@[simp] theorem State.bump_radio (r : Reg) (i n : Nat) : (s.bump r i n).radio = s.radio := by simp [State.bump]
@[simp] theorem State.bump_fab (r : Reg) (i n : Nat) : (s.bump r i n).fab = s.fab := by simp [State.bump]
@[simp] theorem State.bump_boot (r : Reg) (i n : Nat) : (s.bump r i n).boot = s.boot := by simp [State.bump]
@[simp] theorem State.bump_power (r : Reg) (i n : Nat) : (s.bump r i n).power = s.power := by simp [State.bump]
@[simp] theorem State.bump_free (r : Reg) (i n : Nat) : (s.bump r i n).free = s.free := by simp [State.bump]

-- bumpIf --------------------

@[simp] theorem State.bumpIf_pending (b : Bool) (r : Reg) (i n : Nat) : (s.bumpIf b r i n).pending = s.pending := by unfold State.bumpIf; split <;> simp
@[simp] theorem State.bumpIf_build (b : Bool) (r : Reg) (i n : Nat) : (s.bumpIf b r i n).build = s.build := by unfold State.bumpIf; split <;> simp
@[simp] theorem State.bumpIf_ck (b : Bool) (r : Reg) (i n : Nat) : (s.bumpIf b r i n).ck = s.ck := by unfold State.bumpIf; split <;> simp
@[simp] theorem State.bumpIf_octs (b : Bool) (r : Reg) (i n : Nat) : (s.bumpIf b r i n).octs = s.octs := by unfold State.bumpIf; split <;> simp
@[simp] theorem State.bumpIf_host (b : Bool) (r : Reg) (i n : Nat) : (s.bumpIf b r i n).host = s.host := by unfold State.bumpIf; split <;> simp
@[simp] theorem State.bumpIf_mem (b : Bool) (r : Reg) (i n : Nat) : (s.bumpIf b r i n).mem = s.mem := by unfold State.bumpIf; split <;> simp
@[simp] theorem State.bumpIf_ctxs (b : Bool) (r : Reg) (i n : Nat) : (s.bumpIf b r i n).ctxs = s.ctxs := by unfold State.bumpIf; split <;> simp
@[simp] theorem State.bumpIf_engines (b : Bool) (r : Reg) (i n : Nat) : (s.bumpIf b r i n).engines = s.engines := by unfold State.bumpIf; split <;> simp
@[simp] theorem State.bumpIf_tier (b : Bool) (r : Reg) (i n : Nat) : (s.bumpIf b r i n).tier = s.tier := by unfold State.bumpIf; split <;> simp
@[simp] theorem State.bumpIf_tilth (b : Bool) (r : Reg) (i n : Nat) : (s.bumpIf b r i n).tilth = s.tilth := by unfold State.bumpIf; split <;> simp
@[simp] theorem State.bumpIf_hif (b : Bool) (r : Reg) (i n : Nat) : (s.bumpIf b r i n).hif = s.hif := by unfold State.bumpIf; split <;> simp
@[simp] theorem State.bumpIf_queues (b : Bool) (r : Reg) (i n : Nat) : (s.bumpIf b r i n).queues = s.queues := by unfold State.bumpIf; split <;> simp
@[simp] theorem State.bumpIf_fh (b : Bool) (r : Reg) (i n : Nat) : (s.bumpIf b r i n).fh = s.fh := by unfold State.bumpIf; split <;> simp
@[simp] theorem State.bumpIf_tbs (b : Bool) (r : Reg) (i n : Nat) : (s.bumpIf b r i n).tbs = s.tbs := by unfold State.bumpIf; split <;> simp
@[simp] theorem State.bumpIf_pins (b : Bool) (r : Reg) (i n : Nat) : (s.bumpIf b r i n).pins = s.pins := by unfold State.bumpIf; split <;> simp
@[simp] theorem State.bumpIf_faults (b : Bool) (r : Reg) (i n : Nat) : (s.bumpIf b r i n).faults = s.faults := by unfold State.bumpIf; split <;> simp
@[simp] theorem State.bumpIf_mgmt (b : Bool) (r : Reg) (i n : Nat) : (s.bumpIf b r i n).mgmt = s.mgmt := by unfold State.bumpIf; split <;> simp
@[simp] theorem State.bumpIf_radio (b : Bool) (r : Reg) (i n : Nat) : (s.bumpIf b r i n).radio = s.radio := by unfold State.bumpIf; split <;> simp
@[simp] theorem State.bumpIf_fab (b : Bool) (r : Reg) (i n : Nat) : (s.bumpIf b r i n).fab = s.fab := by unfold State.bumpIf; split <;> simp
@[simp] theorem State.bumpIf_boot (b : Bool) (r : Reg) (i n : Nat) : (s.bumpIf b r i n).boot = s.boot := by unfold State.bumpIf; split <;> simp
@[simp] theorem State.bumpIf_power (b : Bool) (r : Reg) (i n : Nat) : (s.bumpIf b r i n).power = s.power := by unfold State.bumpIf; split <;> simp
@[simp] theorem State.bumpIf_free (b : Bool) (r : Reg) (i n : Nat) : (s.bumpIf b r i n).free = s.free := by unfold State.bumpIf; split <;> simp

-- setOct --------------------

@[simp] theorem State.setOct_pending (r : Reg) (v : Bytes) (i : Nat) : (s.setOct r v i).pending = s.pending := by unfold State.setOct; split <;> rfl
@[simp] theorem State.setOct_build (r : Reg) (v : Bytes) (i : Nat) : (s.setOct r v i).build = s.build := by unfold State.setOct; split <;> rfl
@[simp] theorem State.setOct_ck (r : Reg) (v : Bytes) (i : Nat) : (s.setOct r v i).ck = s.ck := by unfold State.setOct; split <;> rfl
@[simp] theorem State.setOct_regs (r : Reg) (v : Bytes) (i : Nat) : (s.setOct r v i).regs = s.regs := by unfold State.setOct; split <;> rfl
@[simp] theorem State.setOct_host (r : Reg) (v : Bytes) (i : Nat) : (s.setOct r v i).host = s.host := by unfold State.setOct; split <;> rfl
@[simp] theorem State.setOct_mem (r : Reg) (v : Bytes) (i : Nat) : (s.setOct r v i).mem = s.mem := by unfold State.setOct; split <;> rfl
@[simp] theorem State.setOct_ctxs (r : Reg) (v : Bytes) (i : Nat) : (s.setOct r v i).ctxs = s.ctxs := by unfold State.setOct; split <;> rfl
@[simp] theorem State.setOct_engines (r : Reg) (v : Bytes) (i : Nat) : (s.setOct r v i).engines = s.engines := by unfold State.setOct; split <;> rfl
@[simp] theorem State.setOct_tier (r : Reg) (v : Bytes) (i : Nat) : (s.setOct r v i).tier = s.tier := by unfold State.setOct; split <;> rfl
@[simp] theorem State.setOct_tilth (r : Reg) (v : Bytes) (i : Nat) : (s.setOct r v i).tilth = s.tilth := by unfold State.setOct; split <;> rfl
@[simp] theorem State.setOct_hif (r : Reg) (v : Bytes) (i : Nat) : (s.setOct r v i).hif = s.hif := by unfold State.setOct; split <;> rfl
@[simp] theorem State.setOct_queues (r : Reg) (v : Bytes) (i : Nat) : (s.setOct r v i).queues = s.queues := by unfold State.setOct; split <;> rfl
@[simp] theorem State.setOct_fh (r : Reg) (v : Bytes) (i : Nat) : (s.setOct r v i).fh = s.fh := by unfold State.setOct; split <;> rfl
@[simp] theorem State.setOct_tbs (r : Reg) (v : Bytes) (i : Nat) : (s.setOct r v i).tbs = s.tbs := by unfold State.setOct; split <;> rfl
@[simp] theorem State.setOct_pins (r : Reg) (v : Bytes) (i : Nat) : (s.setOct r v i).pins = s.pins := by unfold State.setOct; split <;> rfl
@[simp] theorem State.setOct_faults (r : Reg) (v : Bytes) (i : Nat) : (s.setOct r v i).faults = s.faults := by unfold State.setOct; split <;> rfl
@[simp] theorem State.setOct_mgmt (r : Reg) (v : Bytes) (i : Nat) : (s.setOct r v i).mgmt = s.mgmt := by unfold State.setOct; split <;> rfl
@[simp] theorem State.setOct_radio (r : Reg) (v : Bytes) (i : Nat) : (s.setOct r v i).radio = s.radio := by unfold State.setOct; split <;> rfl
@[simp] theorem State.setOct_fab (r : Reg) (v : Bytes) (i : Nat) : (s.setOct r v i).fab = s.fab := by unfold State.setOct; split <;> rfl
@[simp] theorem State.setOct_boot (r : Reg) (v : Bytes) (i : Nat) : (s.setOct r v i).boot = s.boot := by unfold State.setOct; split <;> rfl
@[simp] theorem State.setOct_power (r : Reg) (v : Bytes) (i : Nat) : (s.setOct r v i).power = s.power := by unfold State.setOct; split <;> rfl
@[simp] theorem State.setOct_free (r : Reg) (v : Bytes) (i : Nat) : (s.setOct r v i).free = s.free := by unfold State.setOct; split <;> rfl

-- wr --------------------

@[simp] theorem State.wr_pending (a : Nat) (b : Byte) : (s.wr a b).pending = s.pending := rfl
@[simp] theorem State.wr_build (a : Nat) (b : Byte) : (s.wr a b).build = s.build := rfl
@[simp] theorem State.wr_ck (a : Nat) (b : Byte) : (s.wr a b).ck = s.ck := rfl
@[simp] theorem State.wr_regs (a : Nat) (b : Byte) : (s.wr a b).regs = s.regs := rfl
@[simp] theorem State.wr_octs (a : Nat) (b : Byte) : (s.wr a b).octs = s.octs := rfl
@[simp] theorem State.wr_prot (a : Nat) (b : Byte) : (s.wr a b).prot = s.prot := rfl
@[simp] theorem State.wr_host (a : Nat) (b : Byte) : (s.wr a b).host = s.host := rfl
@[simp] theorem State.wr_ctxs (a : Nat) (b : Byte) : (s.wr a b).ctxs = s.ctxs := rfl
@[simp] theorem State.wr_engines (a : Nat) (b : Byte) : (s.wr a b).engines = s.engines := rfl
@[simp] theorem State.wr_tier (a : Nat) (b : Byte) : (s.wr a b).tier = s.tier := rfl
@[simp] theorem State.wr_tilth (a : Nat) (b : Byte) : (s.wr a b).tilth = s.tilth := rfl
@[simp] theorem State.wr_hif (a : Nat) (b : Byte) : (s.wr a b).hif = s.hif := rfl
@[simp] theorem State.wr_queues (a : Nat) (b : Byte) : (s.wr a b).queues = s.queues := rfl
@[simp] theorem State.wr_fh (a : Nat) (b : Byte) : (s.wr a b).fh = s.fh := rfl
@[simp] theorem State.wr_tbs (a : Nat) (b : Byte) : (s.wr a b).tbs = s.tbs := rfl
@[simp] theorem State.wr_pins (a : Nat) (b : Byte) : (s.wr a b).pins = s.pins := rfl
@[simp] theorem State.wr_faults (a : Nat) (b : Byte) : (s.wr a b).faults = s.faults := rfl
@[simp] theorem State.wr_mgmt (a : Nat) (b : Byte) : (s.wr a b).mgmt = s.mgmt := rfl
@[simp] theorem State.wr_radio (a : Nat) (b : Byte) : (s.wr a b).radio = s.radio := rfl
@[simp] theorem State.wr_fab (a : Nat) (b : Byte) : (s.wr a b).fab = s.fab := rfl
@[simp] theorem State.wr_boot (a : Nat) (b : Byte) : (s.wr a b).boot = s.boot := rfl
@[simp] theorem State.wr_power (a : Nat) (b : Byte) : (s.wr a b).power = s.power := rfl
@[simp] theorem State.wr_free (a : Nat) (b : Byte) : (s.wr a b).free = s.free := rfl

-- wrRun --------------------

@[simp] theorem State.wrRun_pending (a : Nat) (bs : Bytes) : (s.wrRun a bs).pending = s.pending := rfl
@[simp] theorem State.wrRun_build (a : Nat) (bs : Bytes) : (s.wrRun a bs).build = s.build := rfl
@[simp] theorem State.wrRun_ck (a : Nat) (bs : Bytes) : (s.wrRun a bs).ck = s.ck := rfl
@[simp] theorem State.wrRun_regs (a : Nat) (bs : Bytes) : (s.wrRun a bs).regs = s.regs := rfl
@[simp] theorem State.wrRun_octs (a : Nat) (bs : Bytes) : (s.wrRun a bs).octs = s.octs := rfl
@[simp] theorem State.wrRun_prot (a : Nat) (bs : Bytes) : (s.wrRun a bs).prot = s.prot := rfl
@[simp] theorem State.wrRun_host (a : Nat) (bs : Bytes) : (s.wrRun a bs).host = s.host := rfl
@[simp] theorem State.wrRun_ctxs (a : Nat) (bs : Bytes) : (s.wrRun a bs).ctxs = s.ctxs := rfl
@[simp] theorem State.wrRun_engines (a : Nat) (bs : Bytes) : (s.wrRun a bs).engines = s.engines := rfl
@[simp] theorem State.wrRun_tier (a : Nat) (bs : Bytes) : (s.wrRun a bs).tier = s.tier := rfl
@[simp] theorem State.wrRun_tilth (a : Nat) (bs : Bytes) : (s.wrRun a bs).tilth = s.tilth := rfl
@[simp] theorem State.wrRun_hif (a : Nat) (bs : Bytes) : (s.wrRun a bs).hif = s.hif := rfl
@[simp] theorem State.wrRun_queues (a : Nat) (bs : Bytes) : (s.wrRun a bs).queues = s.queues := rfl
@[simp] theorem State.wrRun_fh (a : Nat) (bs : Bytes) : (s.wrRun a bs).fh = s.fh := rfl
@[simp] theorem State.wrRun_tbs (a : Nat) (bs : Bytes) : (s.wrRun a bs).tbs = s.tbs := rfl
@[simp] theorem State.wrRun_pins (a : Nat) (bs : Bytes) : (s.wrRun a bs).pins = s.pins := rfl
@[simp] theorem State.wrRun_faults (a : Nat) (bs : Bytes) : (s.wrRun a bs).faults = s.faults := rfl
@[simp] theorem State.wrRun_mgmt (a : Nat) (bs : Bytes) : (s.wrRun a bs).mgmt = s.mgmt := rfl
@[simp] theorem State.wrRun_radio (a : Nat) (bs : Bytes) : (s.wrRun a bs).radio = s.radio := rfl
@[simp] theorem State.wrRun_fab (a : Nat) (bs : Bytes) : (s.wrRun a bs).fab = s.fab := rfl
@[simp] theorem State.wrRun_boot (a : Nat) (bs : Bytes) : (s.wrRun a bs).boot = s.boot := rfl
@[simp] theorem State.wrRun_power (a : Nat) (bs : Bytes) : (s.wrRun a bs).power = s.power := rfl
@[simp] theorem State.wrRun_free (a : Nat) (bs : Bytes) : (s.wrRun a bs).free = s.free := rfl

-- clear --------------------

@[simp] theorem State.clear_pending (a n : Nat) : (s.clear a n).pending = s.pending := rfl
@[simp] theorem State.clear_build (a n : Nat) : (s.clear a n).build = s.build := rfl
@[simp] theorem State.clear_ck (a n : Nat) : (s.clear a n).ck = s.ck := rfl
@[simp] theorem State.clear_regs (a n : Nat) : (s.clear a n).regs = s.regs := rfl
@[simp] theorem State.clear_octs (a n : Nat) : (s.clear a n).octs = s.octs := rfl
@[simp] theorem State.clear_prot (a n : Nat) : (s.clear a n).prot = s.prot := rfl
@[simp] theorem State.clear_host (a n : Nat) : (s.clear a n).host = s.host := rfl
@[simp] theorem State.clear_ctxs (a n : Nat) : (s.clear a n).ctxs = s.ctxs := rfl
@[simp] theorem State.clear_engines (a n : Nat) : (s.clear a n).engines = s.engines := rfl
@[simp] theorem State.clear_tier (a n : Nat) : (s.clear a n).tier = s.tier := rfl
@[simp] theorem State.clear_tilth (a n : Nat) : (s.clear a n).tilth = s.tilth := rfl
@[simp] theorem State.clear_hif (a n : Nat) : (s.clear a n).hif = s.hif := rfl
@[simp] theorem State.clear_queues (a n : Nat) : (s.clear a n).queues = s.queues := rfl
@[simp] theorem State.clear_fh (a n : Nat) : (s.clear a n).fh = s.fh := rfl
@[simp] theorem State.clear_tbs (a n : Nat) : (s.clear a n).tbs = s.tbs := rfl
@[simp] theorem State.clear_pins (a n : Nat) : (s.clear a n).pins = s.pins := rfl
@[simp] theorem State.clear_faults (a n : Nat) : (s.clear a n).faults = s.faults := rfl
@[simp] theorem State.clear_mgmt (a n : Nat) : (s.clear a n).mgmt = s.mgmt := rfl
@[simp] theorem State.clear_radio (a n : Nat) : (s.clear a n).radio = s.radio := rfl
@[simp] theorem State.clear_fab (a n : Nat) : (s.clear a n).fab = s.fab := rfl
@[simp] theorem State.clear_boot (a n : Nat) : (s.clear a n).boot = s.boot := rfl
@[simp] theorem State.clear_power (a n : Nat) : (s.clear a n).power = s.power := rfl
@[simp] theorem State.clear_free (a n : Nat) : (s.clear a n).free = s.free := rfl

-- copyRange --------------------

@[simp] theorem State.copyRange_pending (a b n : Nat) : (s.copyRange a b n).pending = s.pending := rfl
@[simp] theorem State.copyRange_build (a b n : Nat) : (s.copyRange a b n).build = s.build := rfl
@[simp] theorem State.copyRange_ck (a b n : Nat) : (s.copyRange a b n).ck = s.ck := rfl
@[simp] theorem State.copyRange_regs (a b n : Nat) : (s.copyRange a b n).regs = s.regs := rfl
@[simp] theorem State.copyRange_octs (a b n : Nat) : (s.copyRange a b n).octs = s.octs := rfl
@[simp] theorem State.copyRange_prot (a b n : Nat) : (s.copyRange a b n).prot = s.prot := rfl
@[simp] theorem State.copyRange_host (a b n : Nat) : (s.copyRange a b n).host = s.host := rfl
@[simp] theorem State.copyRange_ctxs (a b n : Nat) : (s.copyRange a b n).ctxs = s.ctxs := rfl
@[simp] theorem State.copyRange_engines (a b n : Nat) : (s.copyRange a b n).engines = s.engines := rfl
@[simp] theorem State.copyRange_tier (a b n : Nat) : (s.copyRange a b n).tier = s.tier := rfl
@[simp] theorem State.copyRange_tilth (a b n : Nat) : (s.copyRange a b n).tilth = s.tilth := rfl
@[simp] theorem State.copyRange_hif (a b n : Nat) : (s.copyRange a b n).hif = s.hif := rfl
@[simp] theorem State.copyRange_queues (a b n : Nat) : (s.copyRange a b n).queues = s.queues := rfl
@[simp] theorem State.copyRange_fh (a b n : Nat) : (s.copyRange a b n).fh = s.fh := rfl
@[simp] theorem State.copyRange_tbs (a b n : Nat) : (s.copyRange a b n).tbs = s.tbs := rfl
@[simp] theorem State.copyRange_pins (a b n : Nat) : (s.copyRange a b n).pins = s.pins := rfl
@[simp] theorem State.copyRange_faults (a b n : Nat) : (s.copyRange a b n).faults = s.faults := rfl
@[simp] theorem State.copyRange_mgmt (a b n : Nat) : (s.copyRange a b n).mgmt = s.mgmt := rfl
@[simp] theorem State.copyRange_radio (a b n : Nat) : (s.copyRange a b n).radio = s.radio := rfl
@[simp] theorem State.copyRange_fab (a b n : Nat) : (s.copyRange a b n).fab = s.fab := rfl
@[simp] theorem State.copyRange_boot (a b n : Nat) : (s.copyRange a b n).boot = s.boot := rfl
@[simp] theorem State.copyRange_power (a b n : Nat) : (s.copyRange a b n).power = s.power := rfl
@[simp] theorem State.copyRange_free (a b n : Nat) : (s.copyRange a b n).free = s.free := rfl

-- hostWr --------------------

@[simp] theorem State.hostWr_pending (p a : Nat) (bs : Bytes) : (s.hostWr p a bs).pending = s.pending := rfl
@[simp] theorem State.hostWr_build (p a : Nat) (bs : Bytes) : (s.hostWr p a bs).build = s.build := rfl
@[simp] theorem State.hostWr_ck (p a : Nat) (bs : Bytes) : (s.hostWr p a bs).ck = s.ck := rfl
@[simp] theorem State.hostWr_regs (p a : Nat) (bs : Bytes) : (s.hostWr p a bs).regs = s.regs := rfl
@[simp] theorem State.hostWr_octs (p a : Nat) (bs : Bytes) : (s.hostWr p a bs).octs = s.octs := rfl
@[simp] theorem State.hostWr_prot (p a : Nat) (bs : Bytes) : (s.hostWr p a bs).prot = s.prot := rfl
@[simp] theorem State.hostWr_mem (p a : Nat) (bs : Bytes) : (s.hostWr p a bs).mem = s.mem := rfl
@[simp] theorem State.hostWr_ctxs (p a : Nat) (bs : Bytes) : (s.hostWr p a bs).ctxs = s.ctxs := rfl
@[simp] theorem State.hostWr_engines (p a : Nat) (bs : Bytes) : (s.hostWr p a bs).engines = s.engines := rfl
@[simp] theorem State.hostWr_tier (p a : Nat) (bs : Bytes) : (s.hostWr p a bs).tier = s.tier := rfl
@[simp] theorem State.hostWr_tilth (p a : Nat) (bs : Bytes) : (s.hostWr p a bs).tilth = s.tilth := rfl
@[simp] theorem State.hostWr_hif (p a : Nat) (bs : Bytes) : (s.hostWr p a bs).hif = s.hif := rfl
@[simp] theorem State.hostWr_queues (p a : Nat) (bs : Bytes) : (s.hostWr p a bs).queues = s.queues := rfl
@[simp] theorem State.hostWr_fh (p a : Nat) (bs : Bytes) : (s.hostWr p a bs).fh = s.fh := rfl
@[simp] theorem State.hostWr_tbs (p a : Nat) (bs : Bytes) : (s.hostWr p a bs).tbs = s.tbs := rfl
@[simp] theorem State.hostWr_pins (p a : Nat) (bs : Bytes) : (s.hostWr p a bs).pins = s.pins := rfl
@[simp] theorem State.hostWr_faults (p a : Nat) (bs : Bytes) : (s.hostWr p a bs).faults = s.faults := rfl
@[simp] theorem State.hostWr_mgmt (p a : Nat) (bs : Bytes) : (s.hostWr p a bs).mgmt = s.mgmt := rfl
@[simp] theorem State.hostWr_radio (p a : Nat) (bs : Bytes) : (s.hostWr p a bs).radio = s.radio := rfl
@[simp] theorem State.hostWr_fab (p a : Nat) (bs : Bytes) : (s.hostWr p a bs).fab = s.fab := rfl
@[simp] theorem State.hostWr_boot (p a : Nat) (bs : Bytes) : (s.hostWr p a bs).boot = s.boot := rfl
@[simp] theorem State.hostWr_power (p a : Nat) (bs : Bytes) : (s.hostWr p a bs).power = s.power := rfl
@[simp] theorem State.hostWr_free (p a : Nat) (bs : Bytes) : (s.hostWr p a bs).free = s.free := rfl

-- setCtx --------------------

@[simp] theorem State.setCtx_pending (c : Nat) (x : Ctx) : (s.setCtx c x).pending = s.pending := rfl
@[simp] theorem State.setCtx_build (c : Nat) (x : Ctx) : (s.setCtx c x).build = s.build := rfl
@[simp] theorem State.setCtx_ck (c : Nat) (x : Ctx) : (s.setCtx c x).ck = s.ck := rfl
@[simp] theorem State.setCtx_regs (c : Nat) (x : Ctx) : (s.setCtx c x).regs = s.regs := rfl
@[simp] theorem State.setCtx_octs (c : Nat) (x : Ctx) : (s.setCtx c x).octs = s.octs := rfl
@[simp] theorem State.setCtx_prot (c : Nat) (x : Ctx) : (s.setCtx c x).prot = s.prot := rfl
@[simp] theorem State.setCtx_host (c : Nat) (x : Ctx) : (s.setCtx c x).host = s.host := rfl
@[simp] theorem State.setCtx_mem (c : Nat) (x : Ctx) : (s.setCtx c x).mem = s.mem := rfl
@[simp] theorem State.setCtx_engines (c : Nat) (x : Ctx) : (s.setCtx c x).engines = s.engines := rfl
@[simp] theorem State.setCtx_tier (c : Nat) (x : Ctx) : (s.setCtx c x).tier = s.tier := rfl
@[simp] theorem State.setCtx_tilth (c : Nat) (x : Ctx) : (s.setCtx c x).tilth = s.tilth := rfl
@[simp] theorem State.setCtx_hif (c : Nat) (x : Ctx) : (s.setCtx c x).hif = s.hif := rfl
@[simp] theorem State.setCtx_queues (c : Nat) (x : Ctx) : (s.setCtx c x).queues = s.queues := rfl
@[simp] theorem State.setCtx_fh (c : Nat) (x : Ctx) : (s.setCtx c x).fh = s.fh := rfl
@[simp] theorem State.setCtx_tbs (c : Nat) (x : Ctx) : (s.setCtx c x).tbs = s.tbs := rfl
@[simp] theorem State.setCtx_pins (c : Nat) (x : Ctx) : (s.setCtx c x).pins = s.pins := rfl
@[simp] theorem State.setCtx_faults (c : Nat) (x : Ctx) : (s.setCtx c x).faults = s.faults := rfl
@[simp] theorem State.setCtx_mgmt (c : Nat) (x : Ctx) : (s.setCtx c x).mgmt = s.mgmt := rfl
@[simp] theorem State.setCtx_radio (c : Nat) (x : Ctx) : (s.setCtx c x).radio = s.radio := rfl
@[simp] theorem State.setCtx_fab (c : Nat) (x : Ctx) : (s.setCtx c x).fab = s.fab := rfl
@[simp] theorem State.setCtx_boot (c : Nat) (x : Ctx) : (s.setCtx c x).boot = s.boot := rfl
@[simp] theorem State.setCtx_power (c : Nat) (x : Ctx) : (s.setCtx c x).power = s.power := rfl
@[simp] theorem State.setCtx_free (c : Nat) (x : Ctx) : (s.setCtx c x).free = s.free := rfl

-- modCtx --------------------

@[simp] theorem State.modCtx_pending (c : Nat) (f : Ctx → Ctx) : (s.modCtx c f).pending = s.pending := rfl
@[simp] theorem State.modCtx_build (c : Nat) (f : Ctx → Ctx) : (s.modCtx c f).build = s.build := rfl
@[simp] theorem State.modCtx_ck (c : Nat) (f : Ctx → Ctx) : (s.modCtx c f).ck = s.ck := rfl
@[simp] theorem State.modCtx_regs (c : Nat) (f : Ctx → Ctx) : (s.modCtx c f).regs = s.regs := rfl
@[simp] theorem State.modCtx_octs (c : Nat) (f : Ctx → Ctx) : (s.modCtx c f).octs = s.octs := rfl
@[simp] theorem State.modCtx_prot (c : Nat) (f : Ctx → Ctx) : (s.modCtx c f).prot = s.prot := rfl
@[simp] theorem State.modCtx_host (c : Nat) (f : Ctx → Ctx) : (s.modCtx c f).host = s.host := rfl
@[simp] theorem State.modCtx_mem (c : Nat) (f : Ctx → Ctx) : (s.modCtx c f).mem = s.mem := rfl
@[simp] theorem State.modCtx_engines (c : Nat) (f : Ctx → Ctx) : (s.modCtx c f).engines = s.engines := rfl
@[simp] theorem State.modCtx_tier (c : Nat) (f : Ctx → Ctx) : (s.modCtx c f).tier = s.tier := rfl
@[simp] theorem State.modCtx_tilth (c : Nat) (f : Ctx → Ctx) : (s.modCtx c f).tilth = s.tilth := rfl
@[simp] theorem State.modCtx_hif (c : Nat) (f : Ctx → Ctx) : (s.modCtx c f).hif = s.hif := rfl
@[simp] theorem State.modCtx_queues (c : Nat) (f : Ctx → Ctx) : (s.modCtx c f).queues = s.queues := rfl
@[simp] theorem State.modCtx_fh (c : Nat) (f : Ctx → Ctx) : (s.modCtx c f).fh = s.fh := rfl
@[simp] theorem State.modCtx_tbs (c : Nat) (f : Ctx → Ctx) : (s.modCtx c f).tbs = s.tbs := rfl
@[simp] theorem State.modCtx_pins (c : Nat) (f : Ctx → Ctx) : (s.modCtx c f).pins = s.pins := rfl
@[simp] theorem State.modCtx_faults (c : Nat) (f : Ctx → Ctx) : (s.modCtx c f).faults = s.faults := rfl
@[simp] theorem State.modCtx_mgmt (c : Nat) (f : Ctx → Ctx) : (s.modCtx c f).mgmt = s.mgmt := rfl
@[simp] theorem State.modCtx_radio (c : Nat) (f : Ctx → Ctx) : (s.modCtx c f).radio = s.radio := rfl
@[simp] theorem State.modCtx_fab (c : Nat) (f : Ctx → Ctx) : (s.modCtx c f).fab = s.fab := rfl
@[simp] theorem State.modCtx_boot (c : Nat) (f : Ctx → Ctx) : (s.modCtx c f).boot = s.boot := rfl
@[simp] theorem State.modCtx_power (c : Nat) (f : Ctx → Ctx) : (s.modCtx c f).power = s.power := rfl
@[simp] theorem State.modCtx_free (c : Nat) (f : Ctx → Ctx) : (s.modCtx c f).free = s.free := rfl

-- modPage --------------------

@[simp] theorem State.modPage_pending (c : Nat) (f : Page → Page) : (s.modPage c f).pending = s.pending := rfl
@[simp] theorem State.modPage_build (c : Nat) (f : Page → Page) : (s.modPage c f).build = s.build := rfl
@[simp] theorem State.modPage_ck (c : Nat) (f : Page → Page) : (s.modPage c f).ck = s.ck := rfl
@[simp] theorem State.modPage_regs (c : Nat) (f : Page → Page) : (s.modPage c f).regs = s.regs := rfl
@[simp] theorem State.modPage_octs (c : Nat) (f : Page → Page) : (s.modPage c f).octs = s.octs := rfl
@[simp] theorem State.modPage_prot (c : Nat) (f : Page → Page) : (s.modPage c f).prot = s.prot := rfl
@[simp] theorem State.modPage_host (c : Nat) (f : Page → Page) : (s.modPage c f).host = s.host := rfl
@[simp] theorem State.modPage_mem (c : Nat) (f : Page → Page) : (s.modPage c f).mem = s.mem := rfl
@[simp] theorem State.modPage_engines (c : Nat) (f : Page → Page) : (s.modPage c f).engines = s.engines := rfl
@[simp] theorem State.modPage_tier (c : Nat) (f : Page → Page) : (s.modPage c f).tier = s.tier := rfl
@[simp] theorem State.modPage_tilth (c : Nat) (f : Page → Page) : (s.modPage c f).tilth = s.tilth := rfl
@[simp] theorem State.modPage_hif (c : Nat) (f : Page → Page) : (s.modPage c f).hif = s.hif := rfl
@[simp] theorem State.modPage_queues (c : Nat) (f : Page → Page) : (s.modPage c f).queues = s.queues := rfl
@[simp] theorem State.modPage_fh (c : Nat) (f : Page → Page) : (s.modPage c f).fh = s.fh := rfl
@[simp] theorem State.modPage_tbs (c : Nat) (f : Page → Page) : (s.modPage c f).tbs = s.tbs := rfl
@[simp] theorem State.modPage_pins (c : Nat) (f : Page → Page) : (s.modPage c f).pins = s.pins := rfl
@[simp] theorem State.modPage_faults (c : Nat) (f : Page → Page) : (s.modPage c f).faults = s.faults := rfl
@[simp] theorem State.modPage_mgmt (c : Nat) (f : Page → Page) : (s.modPage c f).mgmt = s.mgmt := rfl
@[simp] theorem State.modPage_radio (c : Nat) (f : Page → Page) : (s.modPage c f).radio = s.radio := rfl
@[simp] theorem State.modPage_fab (c : Nat) (f : Page → Page) : (s.modPage c f).fab = s.fab := rfl
@[simp] theorem State.modPage_boot (c : Nat) (f : Page → Page) : (s.modPage c f).boot = s.boot := rfl
@[simp] theorem State.modPage_power (c : Nat) (f : Page → Page) : (s.modPage c f).power = s.power := rfl
@[simp] theorem State.modPage_free (c : Nat) (f : Page → Page) : (s.modPage c f).free = s.free := rfl

-- modAlloc --------------------

@[simp] theorem State.modAlloc_pending (c : Nat) (f : Alloc → Alloc) : (s.modAlloc c f).pending = s.pending := rfl
@[simp] theorem State.modAlloc_build (c : Nat) (f : Alloc → Alloc) : (s.modAlloc c f).build = s.build := rfl
@[simp] theorem State.modAlloc_ck (c : Nat) (f : Alloc → Alloc) : (s.modAlloc c f).ck = s.ck := rfl
@[simp] theorem State.modAlloc_regs (c : Nat) (f : Alloc → Alloc) : (s.modAlloc c f).regs = s.regs := rfl
@[simp] theorem State.modAlloc_octs (c : Nat) (f : Alloc → Alloc) : (s.modAlloc c f).octs = s.octs := rfl
@[simp] theorem State.modAlloc_prot (c : Nat) (f : Alloc → Alloc) : (s.modAlloc c f).prot = s.prot := rfl
@[simp] theorem State.modAlloc_host (c : Nat) (f : Alloc → Alloc) : (s.modAlloc c f).host = s.host := rfl
@[simp] theorem State.modAlloc_mem (c : Nat) (f : Alloc → Alloc) : (s.modAlloc c f).mem = s.mem := rfl
@[simp] theorem State.modAlloc_engines (c : Nat) (f : Alloc → Alloc) : (s.modAlloc c f).engines = s.engines := rfl
@[simp] theorem State.modAlloc_tier (c : Nat) (f : Alloc → Alloc) : (s.modAlloc c f).tier = s.tier := rfl
@[simp] theorem State.modAlloc_tilth (c : Nat) (f : Alloc → Alloc) : (s.modAlloc c f).tilth = s.tilth := rfl
@[simp] theorem State.modAlloc_hif (c : Nat) (f : Alloc → Alloc) : (s.modAlloc c f).hif = s.hif := rfl
@[simp] theorem State.modAlloc_queues (c : Nat) (f : Alloc → Alloc) : (s.modAlloc c f).queues = s.queues := rfl
@[simp] theorem State.modAlloc_fh (c : Nat) (f : Alloc → Alloc) : (s.modAlloc c f).fh = s.fh := rfl
@[simp] theorem State.modAlloc_tbs (c : Nat) (f : Alloc → Alloc) : (s.modAlloc c f).tbs = s.tbs := rfl
@[simp] theorem State.modAlloc_pins (c : Nat) (f : Alloc → Alloc) : (s.modAlloc c f).pins = s.pins := rfl
@[simp] theorem State.modAlloc_faults (c : Nat) (f : Alloc → Alloc) : (s.modAlloc c f).faults = s.faults := rfl
@[simp] theorem State.modAlloc_mgmt (c : Nat) (f : Alloc → Alloc) : (s.modAlloc c f).mgmt = s.mgmt := rfl
@[simp] theorem State.modAlloc_radio (c : Nat) (f : Alloc → Alloc) : (s.modAlloc c f).radio = s.radio := rfl
@[simp] theorem State.modAlloc_fab (c : Nat) (f : Alloc → Alloc) : (s.modAlloc c f).fab = s.fab := rfl
@[simp] theorem State.modAlloc_boot (c : Nat) (f : Alloc → Alloc) : (s.modAlloc c f).boot = s.boot := rfl
@[simp] theorem State.modAlloc_power (c : Nat) (f : Alloc → Alloc) : (s.modAlloc c f).power = s.power := rfl
@[simp] theorem State.modAlloc_free (c : Nat) (f : Alloc → Alloc) : (s.modAlloc c f).free = s.free := rfl

-- modWanted --------------------

@[simp] theorem State.modWanted_pending (c : Nat) (f : Wanted → Wanted) : (s.modWanted c f).pending = s.pending := rfl
@[simp] theorem State.modWanted_build (c : Nat) (f : Wanted → Wanted) : (s.modWanted c f).build = s.build := rfl
@[simp] theorem State.modWanted_ck (c : Nat) (f : Wanted → Wanted) : (s.modWanted c f).ck = s.ck := rfl
@[simp] theorem State.modWanted_regs (c : Nat) (f : Wanted → Wanted) : (s.modWanted c f).regs = s.regs := rfl
@[simp] theorem State.modWanted_octs (c : Nat) (f : Wanted → Wanted) : (s.modWanted c f).octs = s.octs := rfl
@[simp] theorem State.modWanted_prot (c : Nat) (f : Wanted → Wanted) : (s.modWanted c f).prot = s.prot := rfl
@[simp] theorem State.modWanted_host (c : Nat) (f : Wanted → Wanted) : (s.modWanted c f).host = s.host := rfl
@[simp] theorem State.modWanted_mem (c : Nat) (f : Wanted → Wanted) : (s.modWanted c f).mem = s.mem := rfl
@[simp] theorem State.modWanted_engines (c : Nat) (f : Wanted → Wanted) : (s.modWanted c f).engines = s.engines := rfl
@[simp] theorem State.modWanted_tier (c : Nat) (f : Wanted → Wanted) : (s.modWanted c f).tier = s.tier := rfl
@[simp] theorem State.modWanted_tilth (c : Nat) (f : Wanted → Wanted) : (s.modWanted c f).tilth = s.tilth := rfl
@[simp] theorem State.modWanted_hif (c : Nat) (f : Wanted → Wanted) : (s.modWanted c f).hif = s.hif := rfl
@[simp] theorem State.modWanted_queues (c : Nat) (f : Wanted → Wanted) : (s.modWanted c f).queues = s.queues := rfl
@[simp] theorem State.modWanted_fh (c : Nat) (f : Wanted → Wanted) : (s.modWanted c f).fh = s.fh := rfl
@[simp] theorem State.modWanted_tbs (c : Nat) (f : Wanted → Wanted) : (s.modWanted c f).tbs = s.tbs := rfl
@[simp] theorem State.modWanted_pins (c : Nat) (f : Wanted → Wanted) : (s.modWanted c f).pins = s.pins := rfl
@[simp] theorem State.modWanted_faults (c : Nat) (f : Wanted → Wanted) : (s.modWanted c f).faults = s.faults := rfl
@[simp] theorem State.modWanted_mgmt (c : Nat) (f : Wanted → Wanted) : (s.modWanted c f).mgmt = s.mgmt := rfl
@[simp] theorem State.modWanted_radio (c : Nat) (f : Wanted → Wanted) : (s.modWanted c f).radio = s.radio := rfl
@[simp] theorem State.modWanted_fab (c : Nat) (f : Wanted → Wanted) : (s.modWanted c f).fab = s.fab := rfl
@[simp] theorem State.modWanted_boot (c : Nat) (f : Wanted → Wanted) : (s.modWanted c f).boot = s.boot := rfl
@[simp] theorem State.modWanted_power (c : Nat) (f : Wanted → Wanted) : (s.modWanted c f).power = s.power := rfl
@[simp] theorem State.modWanted_free (c : Nat) (f : Wanted → Wanted) : (s.modWanted c f).free = s.free := rfl

-- modEngine --------------------

@[simp] theorem State.modEngine_pending (e : Nat) (f : Engine → Engine) : (s.modEngine e f).pending = s.pending := rfl
@[simp] theorem State.modEngine_build (e : Nat) (f : Engine → Engine) : (s.modEngine e f).build = s.build := rfl
@[simp] theorem State.modEngine_ck (e : Nat) (f : Engine → Engine) : (s.modEngine e f).ck = s.ck := rfl
@[simp] theorem State.modEngine_regs (e : Nat) (f : Engine → Engine) : (s.modEngine e f).regs = s.regs := rfl
@[simp] theorem State.modEngine_octs (e : Nat) (f : Engine → Engine) : (s.modEngine e f).octs = s.octs := rfl
@[simp] theorem State.modEngine_prot (e : Nat) (f : Engine → Engine) : (s.modEngine e f).prot = s.prot := rfl
@[simp] theorem State.modEngine_host (e : Nat) (f : Engine → Engine) : (s.modEngine e f).host = s.host := rfl
@[simp] theorem State.modEngine_mem (e : Nat) (f : Engine → Engine) : (s.modEngine e f).mem = s.mem := rfl
@[simp] theorem State.modEngine_ctxs (e : Nat) (f : Engine → Engine) : (s.modEngine e f).ctxs = s.ctxs := rfl
@[simp] theorem State.modEngine_tier (e : Nat) (f : Engine → Engine) : (s.modEngine e f).tier = s.tier := rfl
@[simp] theorem State.modEngine_tilth (e : Nat) (f : Engine → Engine) : (s.modEngine e f).tilth = s.tilth := rfl
@[simp] theorem State.modEngine_hif (e : Nat) (f : Engine → Engine) : (s.modEngine e f).hif = s.hif := rfl
@[simp] theorem State.modEngine_queues (e : Nat) (f : Engine → Engine) : (s.modEngine e f).queues = s.queues := rfl
@[simp] theorem State.modEngine_fh (e : Nat) (f : Engine → Engine) : (s.modEngine e f).fh = s.fh := rfl
@[simp] theorem State.modEngine_tbs (e : Nat) (f : Engine → Engine) : (s.modEngine e f).tbs = s.tbs := rfl
@[simp] theorem State.modEngine_pins (e : Nat) (f : Engine → Engine) : (s.modEngine e f).pins = s.pins := rfl
@[simp] theorem State.modEngine_faults (e : Nat) (f : Engine → Engine) : (s.modEngine e f).faults = s.faults := rfl
@[simp] theorem State.modEngine_mgmt (e : Nat) (f : Engine → Engine) : (s.modEngine e f).mgmt = s.mgmt := rfl
@[simp] theorem State.modEngine_radio (e : Nat) (f : Engine → Engine) : (s.modEngine e f).radio = s.radio := rfl
@[simp] theorem State.modEngine_fab (e : Nat) (f : Engine → Engine) : (s.modEngine e f).fab = s.fab := rfl
@[simp] theorem State.modEngine_boot (e : Nat) (f : Engine → Engine) : (s.modEngine e f).boot = s.boot := rfl
@[simp] theorem State.modEngine_power (e : Nat) (f : Engine → Engine) : (s.modEngine e f).power = s.power := rfl
@[simp] theorem State.modEngine_free (e : Nat) (f : Engine → Engine) : (s.modEngine e f).free = s.free := rfl

-- setSync --------------------

@[simp] theorem State.setSync_pending (n k v : Nat) : (s.setSync n k v).pending = s.pending := rfl
@[simp] theorem State.setSync_build (n k v : Nat) : (s.setSync n k v).build = s.build := rfl
@[simp] theorem State.setSync_ck (n k v : Nat) : (s.setSync n k v).ck = s.ck := rfl
@[simp] theorem State.setSync_regs (n k v : Nat) : (s.setSync n k v).regs = s.regs := rfl
@[simp] theorem State.setSync_octs (n k v : Nat) : (s.setSync n k v).octs = s.octs := rfl
@[simp] theorem State.setSync_prot (n k v : Nat) : (s.setSync n k v).prot = s.prot := rfl
@[simp] theorem State.setSync_host (n k v : Nat) : (s.setSync n k v).host = s.host := rfl
@[simp] theorem State.setSync_mem (n k v : Nat) : (s.setSync n k v).mem = s.mem := rfl
@[simp] theorem State.setSync_ctxs (n k v : Nat) : (s.setSync n k v).ctxs = s.ctxs := rfl
@[simp] theorem State.setSync_engines (n k v : Nat) : (s.setSync n k v).engines = s.engines := rfl
@[simp] theorem State.setSync_tier (n k v : Nat) : (s.setSync n k v).tier = s.tier := rfl
@[simp] theorem State.setSync_tilth (n k v : Nat) : (s.setSync n k v).tilth = s.tilth := rfl
@[simp] theorem State.setSync_queues (n k v : Nat) : (s.setSync n k v).queues = s.queues := rfl
@[simp] theorem State.setSync_fh (n k v : Nat) : (s.setSync n k v).fh = s.fh := rfl
@[simp] theorem State.setSync_tbs (n k v : Nat) : (s.setSync n k v).tbs = s.tbs := rfl
@[simp] theorem State.setSync_pins (n k v : Nat) : (s.setSync n k v).pins = s.pins := rfl
@[simp] theorem State.setSync_faults (n k v : Nat) : (s.setSync n k v).faults = s.faults := rfl
@[simp] theorem State.setSync_mgmt (n k v : Nat) : (s.setSync n k v).mgmt = s.mgmt := rfl
@[simp] theorem State.setSync_radio (n k v : Nat) : (s.setSync n k v).radio = s.radio := rfl
@[simp] theorem State.setSync_fab (n k v : Nat) : (s.setSync n k v).fab = s.fab := rfl
@[simp] theorem State.setSync_boot (n k v : Nat) : (s.setSync n k v).boot = s.boot := rfl
@[simp] theorem State.setSync_power (n k v : Nat) : (s.setSync n k v).power = s.power := rfl
@[simp] theorem State.setSync_free (n k v : Nat) : (s.setSync n k v).free = s.free := rfl

-- raiseVector --------------------

@[simp] theorem State.raiseVector_pending (v : Nat) : (s.raiseVector v).pending = s.pending := by unfold State.raiseVector; dsimp only; split <;> rfl
@[simp] theorem State.raiseVector_build (v : Nat) : (s.raiseVector v).build = s.build := by unfold State.raiseVector; dsimp only; split <;> rfl
@[simp] theorem State.raiseVector_ck (v : Nat) : (s.raiseVector v).ck = s.ck := by unfold State.raiseVector; dsimp only; split <;> rfl
@[simp] theorem State.raiseVector_regs (v : Nat) : (s.raiseVector v).regs = s.regs := by unfold State.raiseVector; dsimp only; split <;> rfl
@[simp] theorem State.raiseVector_octs (v : Nat) : (s.raiseVector v).octs = s.octs := by unfold State.raiseVector; dsimp only; split <;> rfl
@[simp] theorem State.raiseVector_prot (v : Nat) : (s.raiseVector v).prot = s.prot := by unfold State.raiseVector; dsimp only; split <;> rfl
@[simp] theorem State.raiseVector_host (v : Nat) : (s.raiseVector v).host = s.host := by unfold State.raiseVector; dsimp only; split <;> rfl
@[simp] theorem State.raiseVector_mem (v : Nat) : (s.raiseVector v).mem = s.mem := by unfold State.raiseVector; dsimp only; split <;> rfl
@[simp] theorem State.raiseVector_ctxs (v : Nat) : (s.raiseVector v).ctxs = s.ctxs := by unfold State.raiseVector; dsimp only; split <;> rfl
@[simp] theorem State.raiseVector_engines (v : Nat) : (s.raiseVector v).engines = s.engines := by unfold State.raiseVector; dsimp only; split <;> rfl
@[simp] theorem State.raiseVector_tier (v : Nat) : (s.raiseVector v).tier = s.tier := by unfold State.raiseVector; dsimp only; split <;> rfl
@[simp] theorem State.raiseVector_tilth (v : Nat) : (s.raiseVector v).tilth = s.tilth := by unfold State.raiseVector; dsimp only; split <;> rfl
@[simp] theorem State.raiseVector_queues (v : Nat) : (s.raiseVector v).queues = s.queues := by unfold State.raiseVector; dsimp only; split <;> rfl
@[simp] theorem State.raiseVector_fh (v : Nat) : (s.raiseVector v).fh = s.fh := by unfold State.raiseVector; dsimp only; split <;> rfl
@[simp] theorem State.raiseVector_tbs (v : Nat) : (s.raiseVector v).tbs = s.tbs := by unfold State.raiseVector; dsimp only; split <;> rfl
@[simp] theorem State.raiseVector_pins (v : Nat) : (s.raiseVector v).pins = s.pins := by unfold State.raiseVector; dsimp only; split <;> rfl
@[simp] theorem State.raiseVector_faults (v : Nat) : (s.raiseVector v).faults = s.faults := by unfold State.raiseVector; dsimp only; split <;> rfl
@[simp] theorem State.raiseVector_mgmt (v : Nat) : (s.raiseVector v).mgmt = s.mgmt := by unfold State.raiseVector; dsimp only; split <;> rfl
@[simp] theorem State.raiseVector_radio (v : Nat) : (s.raiseVector v).radio = s.radio := by unfold State.raiseVector; dsimp only; split <;> rfl
@[simp] theorem State.raiseVector_fab (v : Nat) : (s.raiseVector v).fab = s.fab := by unfold State.raiseVector; dsimp only; split <;> rfl
@[simp] theorem State.raiseVector_boot (v : Nat) : (s.raiseVector v).boot = s.boot := by unfold State.raiseVector; dsimp only; split <;> rfl
@[simp] theorem State.raiseVector_power (v : Nat) : (s.raiseVector v).power = s.power := by unfold State.raiseVector; dsimp only; split <;> rfl
@[simp] theorem State.raiseVector_free (v : Nat) : (s.raiseVector v).free = s.free := by unfold State.raiseVector; dsimp only; split <;> rfl

-- modTb --------------------

@[simp] theorem State.modTb_pending (n : Nat) (f : TimeBase → TimeBase) : (s.modTb n f).pending = s.pending := rfl
@[simp] theorem State.modTb_build (n : Nat) (f : TimeBase → TimeBase) : (s.modTb n f).build = s.build := rfl
@[simp] theorem State.modTb_ck (n : Nat) (f : TimeBase → TimeBase) : (s.modTb n f).ck = s.ck := rfl
@[simp] theorem State.modTb_regs (n : Nat) (f : TimeBase → TimeBase) : (s.modTb n f).regs = s.regs := rfl
@[simp] theorem State.modTb_octs (n : Nat) (f : TimeBase → TimeBase) : (s.modTb n f).octs = s.octs := rfl
@[simp] theorem State.modTb_prot (n : Nat) (f : TimeBase → TimeBase) : (s.modTb n f).prot = s.prot := rfl
@[simp] theorem State.modTb_host (n : Nat) (f : TimeBase → TimeBase) : (s.modTb n f).host = s.host := rfl
@[simp] theorem State.modTb_mem (n : Nat) (f : TimeBase → TimeBase) : (s.modTb n f).mem = s.mem := rfl
@[simp] theorem State.modTb_ctxs (n : Nat) (f : TimeBase → TimeBase) : (s.modTb n f).ctxs = s.ctxs := rfl
@[simp] theorem State.modTb_engines (n : Nat) (f : TimeBase → TimeBase) : (s.modTb n f).engines = s.engines := rfl
@[simp] theorem State.modTb_tier (n : Nat) (f : TimeBase → TimeBase) : (s.modTb n f).tier = s.tier := rfl
@[simp] theorem State.modTb_tilth (n : Nat) (f : TimeBase → TimeBase) : (s.modTb n f).tilth = s.tilth := rfl
@[simp] theorem State.modTb_hif (n : Nat) (f : TimeBase → TimeBase) : (s.modTb n f).hif = s.hif := rfl
@[simp] theorem State.modTb_queues (n : Nat) (f : TimeBase → TimeBase) : (s.modTb n f).queues = s.queues := rfl
@[simp] theorem State.modTb_fh (n : Nat) (f : TimeBase → TimeBase) : (s.modTb n f).fh = s.fh := rfl
@[simp] theorem State.modTb_pins (n : Nat) (f : TimeBase → TimeBase) : (s.modTb n f).pins = s.pins := rfl
@[simp] theorem State.modTb_faults (n : Nat) (f : TimeBase → TimeBase) : (s.modTb n f).faults = s.faults := rfl
@[simp] theorem State.modTb_mgmt (n : Nat) (f : TimeBase → TimeBase) : (s.modTb n f).mgmt = s.mgmt := rfl
@[simp] theorem State.modTb_radio (n : Nat) (f : TimeBase → TimeBase) : (s.modTb n f).radio = s.radio := rfl
@[simp] theorem State.modTb_fab (n : Nat) (f : TimeBase → TimeBase) : (s.modTb n f).fab = s.fab := rfl
@[simp] theorem State.modTb_boot (n : Nat) (f : TimeBase → TimeBase) : (s.modTb n f).boot = s.boot := rfl
@[simp] theorem State.modTb_power (n : Nat) (f : TimeBase → TimeBase) : (s.modTb n f).power = s.power := rfl
@[simp] theorem State.modTb_free (n : Nat) (f : TimeBase → TimeBase) : (s.modTb n f).free = s.free := rfl

-- modCell --------------------

@[simp] theorem State.modCell_pending (c : Nat) (f : Cell → Cell) : (s.modCell c f).pending = s.pending := rfl
@[simp] theorem State.modCell_build (c : Nat) (f : Cell → Cell) : (s.modCell c f).build = s.build := rfl
@[simp] theorem State.modCell_ck (c : Nat) (f : Cell → Cell) : (s.modCell c f).ck = s.ck := rfl
@[simp] theorem State.modCell_regs (c : Nat) (f : Cell → Cell) : (s.modCell c f).regs = s.regs := rfl
@[simp] theorem State.modCell_octs (c : Nat) (f : Cell → Cell) : (s.modCell c f).octs = s.octs := rfl
@[simp] theorem State.modCell_prot (c : Nat) (f : Cell → Cell) : (s.modCell c f).prot = s.prot := rfl
@[simp] theorem State.modCell_host (c : Nat) (f : Cell → Cell) : (s.modCell c f).host = s.host := rfl
@[simp] theorem State.modCell_mem (c : Nat) (f : Cell → Cell) : (s.modCell c f).mem = s.mem := rfl
@[simp] theorem State.modCell_ctxs (c : Nat) (f : Cell → Cell) : (s.modCell c f).ctxs = s.ctxs := rfl
@[simp] theorem State.modCell_engines (c : Nat) (f : Cell → Cell) : (s.modCell c f).engines = s.engines := rfl
@[simp] theorem State.modCell_tier (c : Nat) (f : Cell → Cell) : (s.modCell c f).tier = s.tier := rfl
@[simp] theorem State.modCell_tilth (c : Nat) (f : Cell → Cell) : (s.modCell c f).tilth = s.tilth := rfl
@[simp] theorem State.modCell_hif (c : Nat) (f : Cell → Cell) : (s.modCell c f).hif = s.hif := rfl
@[simp] theorem State.modCell_queues (c : Nat) (f : Cell → Cell) : (s.modCell c f).queues = s.queues := rfl
@[simp] theorem State.modCell_fh (c : Nat) (f : Cell → Cell) : (s.modCell c f).fh = s.fh := rfl
@[simp] theorem State.modCell_tbs (c : Nat) (f : Cell → Cell) : (s.modCell c f).tbs = s.tbs := rfl
@[simp] theorem State.modCell_pins (c : Nat) (f : Cell → Cell) : (s.modCell c f).pins = s.pins := rfl
@[simp] theorem State.modCell_faults (c : Nat) (f : Cell → Cell) : (s.modCell c f).faults = s.faults := rfl
@[simp] theorem State.modCell_mgmt (c : Nat) (f : Cell → Cell) : (s.modCell c f).mgmt = s.mgmt := rfl
@[simp] theorem State.modCell_fab (c : Nat) (f : Cell → Cell) : (s.modCell c f).fab = s.fab := rfl
@[simp] theorem State.modCell_boot (c : Nat) (f : Cell → Cell) : (s.modCell c f).boot = s.boot := rfl
@[simp] theorem State.modCell_power (c : Nat) (f : Cell → Cell) : (s.modCell c f).power = s.power := rfl
@[simp] theorem State.modCell_free (c : Nat) (f : Cell → Cell) : (s.modCell c f).free = s.free := rfl

-- modCore --------------------

@[simp] theorem State.modCore_pending (n : Nat) (f : DspCore → DspCore) : (s.modCore n f).pending = s.pending := rfl
@[simp] theorem State.modCore_build (n : Nat) (f : DspCore → DspCore) : (s.modCore n f).build = s.build := rfl
@[simp] theorem State.modCore_ck (n : Nat) (f : DspCore → DspCore) : (s.modCore n f).ck = s.ck := rfl
@[simp] theorem State.modCore_regs (n : Nat) (f : DspCore → DspCore) : (s.modCore n f).regs = s.regs := rfl
@[simp] theorem State.modCore_octs (n : Nat) (f : DspCore → DspCore) : (s.modCore n f).octs = s.octs := rfl
@[simp] theorem State.modCore_prot (n : Nat) (f : DspCore → DspCore) : (s.modCore n f).prot = s.prot := rfl
@[simp] theorem State.modCore_host (n : Nat) (f : DspCore → DspCore) : (s.modCore n f).host = s.host := rfl
@[simp] theorem State.modCore_mem (n : Nat) (f : DspCore → DspCore) : (s.modCore n f).mem = s.mem := rfl
@[simp] theorem State.modCore_ctxs (n : Nat) (f : DspCore → DspCore) : (s.modCore n f).ctxs = s.ctxs := rfl
@[simp] theorem State.modCore_engines (n : Nat) (f : DspCore → DspCore) : (s.modCore n f).engines = s.engines := rfl
@[simp] theorem State.modCore_tier (n : Nat) (f : DspCore → DspCore) : (s.modCore n f).tier = s.tier := rfl
@[simp] theorem State.modCore_tilth (n : Nat) (f : DspCore → DspCore) : (s.modCore n f).tilth = s.tilth := rfl
@[simp] theorem State.modCore_hif (n : Nat) (f : DspCore → DspCore) : (s.modCore n f).hif = s.hif := rfl
@[simp] theorem State.modCore_queues (n : Nat) (f : DspCore → DspCore) : (s.modCore n f).queues = s.queues := rfl
@[simp] theorem State.modCore_fh (n : Nat) (f : DspCore → DspCore) : (s.modCore n f).fh = s.fh := rfl
@[simp] theorem State.modCore_tbs (n : Nat) (f : DspCore → DspCore) : (s.modCore n f).tbs = s.tbs := rfl
@[simp] theorem State.modCore_pins (n : Nat) (f : DspCore → DspCore) : (s.modCore n f).pins = s.pins := rfl
@[simp] theorem State.modCore_faults (n : Nat) (f : DspCore → DspCore) : (s.modCore n f).faults = s.faults := rfl
@[simp] theorem State.modCore_mgmt (n : Nat) (f : DspCore → DspCore) : (s.modCore n f).mgmt = s.mgmt := rfl
@[simp] theorem State.modCore_fab (n : Nat) (f : DspCore → DspCore) : (s.modCore n f).fab = s.fab := rfl
@[simp] theorem State.modCore_boot (n : Nat) (f : DspCore → DspCore) : (s.modCore n f).boot = s.boot := rfl
@[simp] theorem State.modCore_power (n : Nat) (f : DspCore → DspCore) : (s.modCore n f).power = s.power := rfl
@[simp] theorem State.modCore_free (n : Nat) (f : DspCore → DspCore) : (s.modCore n f).free = s.free := rfl

-- setSess --------------------

@[simp] theorem State.setSess_pending (n : Nat) (x : Session) : (s.setSess n x).pending = s.pending := rfl
@[simp] theorem State.setSess_build (n : Nat) (x : Session) : (s.setSess n x).build = s.build := rfl
@[simp] theorem State.setSess_ck (n : Nat) (x : Session) : (s.setSess n x).ck = s.ck := rfl
@[simp] theorem State.setSess_regs (n : Nat) (x : Session) : (s.setSess n x).regs = s.regs := rfl
@[simp] theorem State.setSess_octs (n : Nat) (x : Session) : (s.setSess n x).octs = s.octs := rfl
@[simp] theorem State.setSess_prot (n : Nat) (x : Session) : (s.setSess n x).prot = s.prot := rfl
@[simp] theorem State.setSess_host (n : Nat) (x : Session) : (s.setSess n x).host = s.host := rfl
@[simp] theorem State.setSess_mem (n : Nat) (x : Session) : (s.setSess n x).mem = s.mem := rfl
@[simp] theorem State.setSess_ctxs (n : Nat) (x : Session) : (s.setSess n x).ctxs = s.ctxs := rfl
@[simp] theorem State.setSess_engines (n : Nat) (x : Session) : (s.setSess n x).engines = s.engines := rfl
@[simp] theorem State.setSess_tier (n : Nat) (x : Session) : (s.setSess n x).tier = s.tier := rfl
@[simp] theorem State.setSess_tilth (n : Nat) (x : Session) : (s.setSess n x).tilth = s.tilth := rfl
@[simp] theorem State.setSess_hif (n : Nat) (x : Session) : (s.setSess n x).hif = s.hif := rfl
@[simp] theorem State.setSess_queues (n : Nat) (x : Session) : (s.setSess n x).queues = s.queues := rfl
@[simp] theorem State.setSess_fh (n : Nat) (x : Session) : (s.setSess n x).fh = s.fh := rfl
@[simp] theorem State.setSess_tbs (n : Nat) (x : Session) : (s.setSess n x).tbs = s.tbs := rfl
@[simp] theorem State.setSess_pins (n : Nat) (x : Session) : (s.setSess n x).pins = s.pins := rfl
@[simp] theorem State.setSess_faults (n : Nat) (x : Session) : (s.setSess n x).faults = s.faults := rfl
@[simp] theorem State.setSess_radio (n : Nat) (x : Session) : (s.setSess n x).radio = s.radio := rfl
@[simp] theorem State.setSess_fab (n : Nat) (x : Session) : (s.setSess n x).fab = s.fab := rfl
@[simp] theorem State.setSess_boot (n : Nat) (x : Session) : (s.setSess n x).boot = s.boot := rfl
@[simp] theorem State.setSess_power (n : Nat) (x : Session) : (s.setSess n x).power = s.power := rfl
@[simp] theorem State.setSess_free (n : Nat) (x : Session) : (s.setSess n x).free = s.free := rfl

-- modSess --------------------

@[simp] theorem State.modSess_pending (n : Nat) (f : Session → Session) : (s.modSess n f).pending = s.pending := rfl
@[simp] theorem State.modSess_build (n : Nat) (f : Session → Session) : (s.modSess n f).build = s.build := rfl
@[simp] theorem State.modSess_ck (n : Nat) (f : Session → Session) : (s.modSess n f).ck = s.ck := rfl
@[simp] theorem State.modSess_regs (n : Nat) (f : Session → Session) : (s.modSess n f).regs = s.regs := rfl
@[simp] theorem State.modSess_octs (n : Nat) (f : Session → Session) : (s.modSess n f).octs = s.octs := rfl
@[simp] theorem State.modSess_prot (n : Nat) (f : Session → Session) : (s.modSess n f).prot = s.prot := rfl
@[simp] theorem State.modSess_host (n : Nat) (f : Session → Session) : (s.modSess n f).host = s.host := rfl
@[simp] theorem State.modSess_mem (n : Nat) (f : Session → Session) : (s.modSess n f).mem = s.mem := rfl
@[simp] theorem State.modSess_ctxs (n : Nat) (f : Session → Session) : (s.modSess n f).ctxs = s.ctxs := rfl
@[simp] theorem State.modSess_engines (n : Nat) (f : Session → Session) : (s.modSess n f).engines = s.engines := rfl
@[simp] theorem State.modSess_tier (n : Nat) (f : Session → Session) : (s.modSess n f).tier = s.tier := rfl
@[simp] theorem State.modSess_tilth (n : Nat) (f : Session → Session) : (s.modSess n f).tilth = s.tilth := rfl
@[simp] theorem State.modSess_hif (n : Nat) (f : Session → Session) : (s.modSess n f).hif = s.hif := rfl
@[simp] theorem State.modSess_queues (n : Nat) (f : Session → Session) : (s.modSess n f).queues = s.queues := rfl
@[simp] theorem State.modSess_fh (n : Nat) (f : Session → Session) : (s.modSess n f).fh = s.fh := rfl
@[simp] theorem State.modSess_tbs (n : Nat) (f : Session → Session) : (s.modSess n f).tbs = s.tbs := rfl
@[simp] theorem State.modSess_pins (n : Nat) (f : Session → Session) : (s.modSess n f).pins = s.pins := rfl
@[simp] theorem State.modSess_faults (n : Nat) (f : Session → Session) : (s.modSess n f).faults = s.faults := rfl
@[simp] theorem State.modSess_radio (n : Nat) (f : Session → Session) : (s.modSess n f).radio = s.radio := rfl
@[simp] theorem State.modSess_fab (n : Nat) (f : Session → Session) : (s.modSess n f).fab = s.fab := rfl
@[simp] theorem State.modSess_boot (n : Nat) (f : Session → Session) : (s.modSess n f).boot = s.boot := rfl
@[simp] theorem State.modSess_power (n : Nat) (f : Session → Session) : (s.modSess n f).power = s.power := rfl
@[simp] theorem State.modSess_free (n : Nat) (f : Session → Session) : (s.modSess n f).free = s.free := rfl

-- setSreg --------------------

@[simp] theorem State.setSreg_pending (n : Nat) (r : Reg) (v i : Nat) : (s.setSreg n r v i).pending = s.pending := rfl
@[simp] theorem State.setSreg_build (n : Nat) (r : Reg) (v i : Nat) : (s.setSreg n r v i).build = s.build := rfl
@[simp] theorem State.setSreg_ck (n : Nat) (r : Reg) (v i : Nat) : (s.setSreg n r v i).ck = s.ck := rfl
@[simp] theorem State.setSreg_regs (n : Nat) (r : Reg) (v i : Nat) : (s.setSreg n r v i).regs = s.regs := rfl
@[simp] theorem State.setSreg_octs (n : Nat) (r : Reg) (v i : Nat) : (s.setSreg n r v i).octs = s.octs := rfl
@[simp] theorem State.setSreg_prot (n : Nat) (r : Reg) (v i : Nat) : (s.setSreg n r v i).prot = s.prot := rfl
@[simp] theorem State.setSreg_host (n : Nat) (r : Reg) (v i : Nat) : (s.setSreg n r v i).host = s.host := rfl
@[simp] theorem State.setSreg_mem (n : Nat) (r : Reg) (v i : Nat) : (s.setSreg n r v i).mem = s.mem := rfl
@[simp] theorem State.setSreg_ctxs (n : Nat) (r : Reg) (v i : Nat) : (s.setSreg n r v i).ctxs = s.ctxs := rfl
@[simp] theorem State.setSreg_engines (n : Nat) (r : Reg) (v i : Nat) : (s.setSreg n r v i).engines = s.engines := rfl
@[simp] theorem State.setSreg_tier (n : Nat) (r : Reg) (v i : Nat) : (s.setSreg n r v i).tier = s.tier := rfl
@[simp] theorem State.setSreg_tilth (n : Nat) (r : Reg) (v i : Nat) : (s.setSreg n r v i).tilth = s.tilth := rfl
@[simp] theorem State.setSreg_hif (n : Nat) (r : Reg) (v i : Nat) : (s.setSreg n r v i).hif = s.hif := rfl
@[simp] theorem State.setSreg_queues (n : Nat) (r : Reg) (v i : Nat) : (s.setSreg n r v i).queues = s.queues := rfl
@[simp] theorem State.setSreg_fh (n : Nat) (r : Reg) (v i : Nat) : (s.setSreg n r v i).fh = s.fh := rfl
@[simp] theorem State.setSreg_tbs (n : Nat) (r : Reg) (v i : Nat) : (s.setSreg n r v i).tbs = s.tbs := rfl
@[simp] theorem State.setSreg_pins (n : Nat) (r : Reg) (v i : Nat) : (s.setSreg n r v i).pins = s.pins := rfl
@[simp] theorem State.setSreg_faults (n : Nat) (r : Reg) (v i : Nat) : (s.setSreg n r v i).faults = s.faults := rfl
@[simp] theorem State.setSreg_radio (n : Nat) (r : Reg) (v i : Nat) : (s.setSreg n r v i).radio = s.radio := rfl
@[simp] theorem State.setSreg_fab (n : Nat) (r : Reg) (v i : Nat) : (s.setSreg n r v i).fab = s.fab := rfl
@[simp] theorem State.setSreg_boot (n : Nat) (r : Reg) (v i : Nat) : (s.setSreg n r v i).boot = s.boot := rfl
@[simp] theorem State.setSreg_power (n : Nat) (r : Reg) (v i : Nat) : (s.setSreg n r v i).power = s.power := rfl
@[simp] theorem State.setSreg_free (n : Nat) (r : Reg) (v i : Nat) : (s.setSreg n r v i).free = s.free := rfl

-- setQueue --------------------

@[simp] theorem State.setQueue_pending (q : Nat) (x : Queue) : (s.setQueue q x).pending = s.pending := rfl
@[simp] theorem State.setQueue_build (q : Nat) (x : Queue) : (s.setQueue q x).build = s.build := rfl
@[simp] theorem State.setQueue_ck (q : Nat) (x : Queue) : (s.setQueue q x).ck = s.ck := rfl
@[simp] theorem State.setQueue_regs (q : Nat) (x : Queue) : (s.setQueue q x).regs = s.regs := rfl
@[simp] theorem State.setQueue_octs (q : Nat) (x : Queue) : (s.setQueue q x).octs = s.octs := rfl
@[simp] theorem State.setQueue_prot (q : Nat) (x : Queue) : (s.setQueue q x).prot = s.prot := rfl
@[simp] theorem State.setQueue_host (q : Nat) (x : Queue) : (s.setQueue q x).host = s.host := rfl
@[simp] theorem State.setQueue_mem (q : Nat) (x : Queue) : (s.setQueue q x).mem = s.mem := rfl
@[simp] theorem State.setQueue_ctxs (q : Nat) (x : Queue) : (s.setQueue q x).ctxs = s.ctxs := rfl
@[simp] theorem State.setQueue_engines (q : Nat) (x : Queue) : (s.setQueue q x).engines = s.engines := rfl
@[simp] theorem State.setQueue_tier (q : Nat) (x : Queue) : (s.setQueue q x).tier = s.tier := rfl
@[simp] theorem State.setQueue_tilth (q : Nat) (x : Queue) : (s.setQueue q x).tilth = s.tilth := rfl
@[simp] theorem State.setQueue_hif (q : Nat) (x : Queue) : (s.setQueue q x).hif = s.hif := rfl
@[simp] theorem State.setQueue_fh (q : Nat) (x : Queue) : (s.setQueue q x).fh = s.fh := rfl
@[simp] theorem State.setQueue_tbs (q : Nat) (x : Queue) : (s.setQueue q x).tbs = s.tbs := rfl
@[simp] theorem State.setQueue_pins (q : Nat) (x : Queue) : (s.setQueue q x).pins = s.pins := rfl
@[simp] theorem State.setQueue_faults (q : Nat) (x : Queue) : (s.setQueue q x).faults = s.faults := rfl
@[simp] theorem State.setQueue_mgmt (q : Nat) (x : Queue) : (s.setQueue q x).mgmt = s.mgmt := rfl
@[simp] theorem State.setQueue_radio (q : Nat) (x : Queue) : (s.setQueue q x).radio = s.radio := rfl
@[simp] theorem State.setQueue_fab (q : Nat) (x : Queue) : (s.setQueue q x).fab = s.fab := rfl
@[simp] theorem State.setQueue_boot (q : Nat) (x : Queue) : (s.setQueue q x).boot = s.boot := rfl
@[simp] theorem State.setQueue_power (q : Nat) (x : Queue) : (s.setQueue q x).power = s.power := rfl
@[simp] theorem State.setQueue_free (q : Nat) (x : Queue) : (s.setQueue q x).free = s.free := rfl

-- modQueue --------------------

@[simp] theorem State.modQueue_pending (q : Nat) (f : Queue → Queue) : (s.modQueue q f).pending = s.pending := rfl
@[simp] theorem State.modQueue_build (q : Nat) (f : Queue → Queue) : (s.modQueue q f).build = s.build := rfl
@[simp] theorem State.modQueue_ck (q : Nat) (f : Queue → Queue) : (s.modQueue q f).ck = s.ck := rfl
@[simp] theorem State.modQueue_regs (q : Nat) (f : Queue → Queue) : (s.modQueue q f).regs = s.regs := rfl
@[simp] theorem State.modQueue_octs (q : Nat) (f : Queue → Queue) : (s.modQueue q f).octs = s.octs := rfl
@[simp] theorem State.modQueue_prot (q : Nat) (f : Queue → Queue) : (s.modQueue q f).prot = s.prot := rfl
@[simp] theorem State.modQueue_host (q : Nat) (f : Queue → Queue) : (s.modQueue q f).host = s.host := rfl
@[simp] theorem State.modQueue_mem (q : Nat) (f : Queue → Queue) : (s.modQueue q f).mem = s.mem := rfl
@[simp] theorem State.modQueue_ctxs (q : Nat) (f : Queue → Queue) : (s.modQueue q f).ctxs = s.ctxs := rfl
@[simp] theorem State.modQueue_engines (q : Nat) (f : Queue → Queue) : (s.modQueue q f).engines = s.engines := rfl
@[simp] theorem State.modQueue_tier (q : Nat) (f : Queue → Queue) : (s.modQueue q f).tier = s.tier := rfl
@[simp] theorem State.modQueue_tilth (q : Nat) (f : Queue → Queue) : (s.modQueue q f).tilth = s.tilth := rfl
@[simp] theorem State.modQueue_hif (q : Nat) (f : Queue → Queue) : (s.modQueue q f).hif = s.hif := rfl
@[simp] theorem State.modQueue_fh (q : Nat) (f : Queue → Queue) : (s.modQueue q f).fh = s.fh := rfl
@[simp] theorem State.modQueue_tbs (q : Nat) (f : Queue → Queue) : (s.modQueue q f).tbs = s.tbs := rfl
@[simp] theorem State.modQueue_pins (q : Nat) (f : Queue → Queue) : (s.modQueue q f).pins = s.pins := rfl
@[simp] theorem State.modQueue_faults (q : Nat) (f : Queue → Queue) : (s.modQueue q f).faults = s.faults := rfl
@[simp] theorem State.modQueue_mgmt (q : Nat) (f : Queue → Queue) : (s.modQueue q f).mgmt = s.mgmt := rfl
@[simp] theorem State.modQueue_radio (q : Nat) (f : Queue → Queue) : (s.modQueue q f).radio = s.radio := rfl
@[simp] theorem State.modQueue_fab (q : Nat) (f : Queue → Queue) : (s.modQueue q f).fab = s.fab := rfl
@[simp] theorem State.modQueue_boot (q : Nat) (f : Queue → Queue) : (s.modQueue q f).boot = s.boot := rfl
@[simp] theorem State.modQueue_power (q : Nat) (f : Queue → Queue) : (s.modQueue q f).power = s.power := rfl
@[simp] theorem State.modQueue_free (q : Nat) (f : Queue → Queue) : (s.modQueue q f).free = s.free := rfl

-- sendOn --------------------

@[simp] theorem State.sendOn_pending (p : Nat) (d bs : Bytes) : (s.sendOn p d bs).pending = s.pending := rfl
@[simp] theorem State.sendOn_build (p : Nat) (d bs : Bytes) : (s.sendOn p d bs).build = s.build := rfl
@[simp] theorem State.sendOn_ck (p : Nat) (d bs : Bytes) : (s.sendOn p d bs).ck = s.ck := rfl
@[simp] theorem State.sendOn_regs (p : Nat) (d bs : Bytes) : (s.sendOn p d bs).regs = s.regs := rfl
@[simp] theorem State.sendOn_octs (p : Nat) (d bs : Bytes) : (s.sendOn p d bs).octs = s.octs := rfl
@[simp] theorem State.sendOn_prot (p : Nat) (d bs : Bytes) : (s.sendOn p d bs).prot = s.prot := rfl
@[simp] theorem State.sendOn_host (p : Nat) (d bs : Bytes) : (s.sendOn p d bs).host = s.host := rfl
@[simp] theorem State.sendOn_mem (p : Nat) (d bs : Bytes) : (s.sendOn p d bs).mem = s.mem := rfl
@[simp] theorem State.sendOn_ctxs (p : Nat) (d bs : Bytes) : (s.sendOn p d bs).ctxs = s.ctxs := rfl
@[simp] theorem State.sendOn_engines (p : Nat) (d bs : Bytes) : (s.sendOn p d bs).engines = s.engines := rfl
@[simp] theorem State.sendOn_tier (p : Nat) (d bs : Bytes) : (s.sendOn p d bs).tier = s.tier := rfl
@[simp] theorem State.sendOn_tilth (p : Nat) (d bs : Bytes) : (s.sendOn p d bs).tilth = s.tilth := rfl
@[simp] theorem State.sendOn_hif (p : Nat) (d bs : Bytes) : (s.sendOn p d bs).hif = s.hif := rfl
@[simp] theorem State.sendOn_queues (p : Nat) (d bs : Bytes) : (s.sendOn p d bs).queues = s.queues := rfl
@[simp] theorem State.sendOn_fh (p : Nat) (d bs : Bytes) : (s.sendOn p d bs).fh = s.fh := rfl
@[simp] theorem State.sendOn_tbs (p : Nat) (d bs : Bytes) : (s.sendOn p d bs).tbs = s.tbs := rfl
@[simp] theorem State.sendOn_pins (p : Nat) (d bs : Bytes) : (s.sendOn p d bs).pins = s.pins := rfl
@[simp] theorem State.sendOn_faults (p : Nat) (d bs : Bytes) : (s.sendOn p d bs).faults = s.faults := rfl
@[simp] theorem State.sendOn_radio (p : Nat) (d bs : Bytes) : (s.sendOn p d bs).radio = s.radio := rfl
@[simp] theorem State.sendOn_fab (p : Nat) (d bs : Bytes) : (s.sendOn p d bs).fab = s.fab := rfl
@[simp] theorem State.sendOn_boot (p : Nat) (d bs : Bytes) : (s.sendOn p d bs).boot = s.boot := rfl
@[simp] theorem State.sendOn_power (p : Nat) (d bs : Bytes) : (s.sendOn p d bs).power = s.power := rfl
@[simp] theorem State.sendOn_free (p : Nat) (d bs : Bytes) : (s.sendOn p d bs).free = s.free := rfl


-- Reading after a write --------------------

@[simp] theorem State.ctx_setCtx_other {c d : Nat} (x : Ctx) (h : c ≠ d) : (s.setCtx c x).ctx d = s.ctx d :=
  Tab.get_set_other _ _ _ _ h

theorem State.ctx_setCtx_same (c : Nat) {x : Ctx} (h : x ≠ default) : (s.setCtx c x).ctx c = x :=
  Tab.get_set_same _ _ _ h

theorem State.ctx_setCtx_rising (c : Nat) (x : Ctx) (h : s.ctxs.rising) : (s.setCtx c x).ctx c = x :=
  Tab.get_set_rising _ _ _ _ h

theorem State.core_modCore_rising (n : Nat) (f : DspCore → DspCore) (h : s.radio.cores.rising) :
    (s.modCore n f).core n = f (s.core n) := Tab.get_set_rising _ _ _ _ h

theorem State.core_modCore_other {n m : Nat} (f : DspCore → DspCore) (h : n ≠ m) : (s.modCore n f).core m = s.core m :=
  Tab.get_set_other _ _ _ _ h

theorem State.cell_modCell_rising (n : Nat) (f : Cell → Cell) (h : s.radio.cells.rising) :
    (s.modCell n f).cell n = f (s.cell n) := Tab.get_set_rising _ _ _ _ h

theorem State.tb_modTb_rising (n : Nat) (f : TimeBase → TimeBase) (h : s.tbs.rising) :
    (s.modTb n f).tb n = f (s.tb n) := Tab.get_set_rising _ _ _ _ h

theorem State.queue_setQueue_rising (q : Nat) (x : Queue) (h : s.queues.rising) : (s.setQueue q x).queue q = x :=
  Tab.get_set_rising _ _ _ _ h

@[simp] theorem State.queue_setQueue_other {q p : Nat} (x : Queue) (h : q ≠ p) : (s.setQueue q x).queue p = s.queue p :=
  Tab.get_set_other _ _ _ _ h

theorem State.engine_modEngine_rising (e : Nat) (f : Engine → Engine) (h : s.engines.rising) :
    (s.modEngine e f).engine e = f (s.engine e) := Tab.get_set_rising _ _ _ _ h

theorem State.rd_wr_other {a b : Nat} (v : Byte) (h : a ≠ b) : (s.wr a v).rd b = s.rd b := Tab.get_set_other _ _ _ _ h

theorem State.rd_wr_same (a : Nat) (v : Byte) (h : s.mem.rising) : (s.wr a v).rd a = v := Tab.get_set_rising _ _ _ _ h

theorem State.rd_wrRun_other {a b : Nat} (bs : Bytes) (h : b < a ∨ a + bs.length ≤ b) : (s.wrRun a bs).rd b = s.rd b :=
  Tab.get_setRun_other _ _ _ _ _ _ h

theorem State.rdRun_wrRun (a : Nat) (bs : Bytes) (h : s.mem.rising) : (s.wrRun a bs).rdRun a bs.length = bs :=
  Tab.run_setRun _ _ _ _ h

-- Dictionary registers --------------------

/-- A register of another key, or in the other file, reads as before. -/
theorem State.reg_setReg_other {r q : Reg} {i j : Nat} (v : Nat) (h : r.key i ≠ q.key j) :
    (s.setReg r v i).reg q j = s.reg q j := by
  unfold State.setReg State.reg
  cases r.access <;> cases q.access <;> simp [State.dfltOf, Tab.get_set_other _ _ _ _ h]

/-- A register reads as what was written, cut to its width, where that is not its default. -/
theorem State.reg_setReg_same (r : Reg) (v i : Nat) (h : v % 2 ^ r.width ≠ s.dfltOf r) :
    (s.setReg r v i).reg r i = v % 2 ^ r.width := by
  unfold State.setReg State.reg
  cases r.access <;> simp <;> exact Tab.get_set_same _ _ _ h

/-- The two register files list each key once. -/
def State.regsRising (s : State) : Prop := s.regs.rising ∧ s.prot.regs.rising

/-- A register reads as what was written, cut to its width, in files that list each key once. -/
theorem State.reg_setReg_rising (r : Reg) (v i : Nat) (h : s.regsRising) : (s.setReg r v i).reg r i = v % 2 ^ r.width := by
  unfold State.setReg State.reg
  cases r.access <;> simp <;> first | exact Tab.get_set_rising _ _ _ _ h.1 | exact Tab.get_set_rising _ _ _ _ h.2

theorem State.regsRising_setReg (r : Reg) (v i : Nat) (h : s.regsRising) : (s.setReg r v i).regsRising := by
  unfold State.setReg State.regsRising
  cases r.access <;> first | exact ⟨Tab.rising_set _ _ _ _ h.1, h.2⟩ | exact ⟨h.1, Tab.rising_set _ _ _ _ h.2⟩

-- The canonical form of the memories --------------------

theorem State.wf_wr (a : Nat) (b : Byte) (h : s.mem.wf 0 = true) : (s.wr a b).mem.wf 0 = true := Tab.wf_set _ _ _ _ h

theorem State.wf_wrRun (a : Nat) (bs : Bytes) (h : s.mem.wf 0 = true) : (s.wrRun a bs).mem.wf 0 = true :=
  Tab.wf_setRun _ _ _ _ h

theorem State.wf_clear (a n : Nat) (h : s.mem.wf 0 = true) : (s.clear a n).mem.wf 0 = true :=
  Tab.wf_keep _ _ (fun k _ => decide (k < a) || decide (a + n ≤ k)) h

theorem State.wf_copyRange (a b n : Nat) (h : s.mem.wf 0 = true) : (s.copyRange a b n).mem.wf 0 = true :=
  Tab.wf_foldl_set _ _ _ _ _ (s.wf_clear b n h)

theorem State.wf_hostWr (p a : Nat) (bs : Bytes) (h : s.host.wf 0 = true) : (s.hostWr p a bs).host.wf 0 = true :=
  Tab.wf_setRun _ _ _ _ h

end Sys2Proof.Machine
end

