-- ==== Sys2Proof/WellFormed.lean ====
section
/-! DEFINITION. Which commands name units that a ZC24 has (R2, R3, R216, R293, R382, R414). A command that is not well formed
can still be run; it finds no unit of that number and changes nothing of it. -/

namespace Sys2Proof

/-- A core that exists. -/
def Issue.wf (i : Issue) : Bool := decide (i.core < 96)

/-- A context or a logical radio engine that exists. -/
def Owner.wf : Owner → Bool
  | .context c => decide (c < 4096)
  | .radio l => decide (l < 128)

/-- A unit that exists on the largest build, by the kinds of R466. -/
def UnitId.wf : UnitId → Bool
  | .package => true
  | .cd n => decide (n < 16)
  | .me n => decide (n < 128)
  | .stack n => decide (n < 12)
  | .bd n => decide (n < 2)
  | .dsp n => decide (n < 96)
  | .xd n => decide (n < 4)
  | .xp n => decide (n < 16)
  | .fd n => decide (n < 2)
  | .fh n => decide (n < 16)
  | .hd => true
  | .link n => decide (n < 82)
  | .timeBase n => decide (n < 8)

/-- Every number a command carries names something that exists. -/
def Instr.wf (i : Instr) : Bool :=
  match i with
  | .doorbell slice queue _ _ => decide (slice < 64) && decide (queue < 4096)
  | .ringCfg slice queue _ _ _ => decide (slice < 64) && decide (queue < 4096)
  | .cplHead slice queue _ => decide (slice < 64) && decide (queue < 4096)
  | .contextPlaced ctx => decide (ctx < 4096)
  | .engineGrant ctx _ => decide (ctx < 4096)
  | .dmaSlotGrant ctx => decide (ctx < 4096)
  | .commit who => who.wf
  | .passBoundary engine _ => decide (engine < 128)
  | .lcPreemptKill engine _ => decide (engine < 128)
  | .killRequest who _ _ => who.wf
  | .killDone who _ => who.wf
  | .engineCheckFault engine => decide (engine < 128)
  | .matmul who => who.wf
  | .cmatmul who => who.wf
  | .fullSum who => who.wf
  | .map who => who.wf
  | .binary who => who.wf
  | .convert who => who.wf
  | .lineMax who => who.wf
  | .softmaxStep who => who.wf
  | .softmaxExact who => who.wf
  | .normalise who => who.wf
  | .normStats who => who.wf
  | .normApply who => who.wf
  | .copy ctx => decide (ctx < 4096)
  | .copy2d ctx => decide (ctx < 4096)
  | .fill ctx => decide (ctx < 4096)
  | .transpose ctx => decide (ctx < 4096)
  | .toPanels ctx => decide (ctx < 4096)
  | .gather ctx => decide (ctx < 4096)
  | .fillRandom ctx => decide (ctx < 4096)
  | .hostRead ctx => decide (ctx < 4096)
  | .hostWrite ctx => decide (ctx < 4096)
  | .loamAcquire ctx => decide (ctx < 4096)
  | .loamRelease ctx => decide (ctx < 4096)
  | .fload ctx => decide (ctx < 4096)
  | .fstore ctx => decide (ctx < 4096)
  | .fstoreShared ctx => decide (ctx < 4096)
  | .faddI64 ctx => decide (ctx < 4096)
  | .ffetchAddI64 ctx => decide (ctx < 4096)
  | .fswapI64 ctx => decide (ctx < 4096)
  | .fcasI64 ctx => decide (ctx < 4096)
  | .faddF32Fast ctx => decide (ctx < 4096)
  | .faddKrec ctx => decide (ctx < 4096)
  | .nop ctx => decide (ctx < 4096)
  | .wait ctx => decide (ctx < 4096)
  | .waitMem ctx => decide (ctx < 4096)
  | .fenceFabric ctx => decide (ctx < 4096)
  | .setSeed ctx => decide (ctx < 4096)
  | .readTime ctx => decide (ctx < 4096)
  | .spillDone ctx => decide (ctx < 4096)
  | .beReclaim ctx => decide (ctx < 4096)
  | .clearDone ctx => decide (ctx < 4096)
  | .fetchCompletion slice page _ _ => decide (slice < 64) && decide (page < 65536)
  | .prefetchStart slice => decide (slice < 64)
  | .ageTick => true
  | .loamMapCommit sess slice _ => decide (sess < 256) && decide (slice < 64)
  | .loamQuotaPages sess slice _ => decide (sess < 256) && decide (slice < 64)
  | .privQuotaFrames sess slice _ => decide (sess < 256) && decide (slice < 64)
  | .spQuotaBytes sess slice _ => decide (sess < 256) && decide (slice < 64)
  | .lcFloorBytes sess _ => decide (sess < 256)
  | .tilthLoadData sess _ => decide (sess < 256)
  | .tilthPrepared => true
  | .windowStart _ _ => true
  | .windowEnd _ _ => true
  | .radioStart logical _ => decide (logical < 128)
  | .setClass sess _ => decide (sess < 256)
  | .move sess _ => decide (sess < 256)
  | .handlerEntry core => decide (core < 96)
  | .bundle core _ => decide (core < 96)
  | .loopm site _ _ _ => site.wf
  | .loop site _ _ => site.wf
  | .acsSetup site _ _ _ _ => site.wf
  | .acsStep site => site.wf
  | .acsLoadpm site _ => site.wf
  | .acsStorepm site _ => site.wf
  | .acsBest site _ => site.wf
  | .acsTb site _ _ => site.wf
  | .engq site logical cell _ => site.wf && decide (logical < 128) && decide (cell < 256)
  | .code site _ => site.wf
  | .xfer site _ => site.wf
  | .ueRd site idx _ => site.wf && decide (idx < 262144)
  | .ueWr site idx _ => site.wf && decide (idx < 262144)
  | .ueSync site => site.wf
  | .ueAccessArrival core => decide (core < 96)
  | .halt site => site.wf
  | .ldpcDecode die => decide (die < 2)
  | .ldpcEncode die => decide (die < 2)
  | .polarDecode die => decide (die < 2)
  | .polarEncode die => decide (die < 2)
  | .fft die => decide (die < 2)
  | .inverseFft die => decide (die < 2)
  | .coderJobEnd die slot => decide (die < 2) && decide (slot < 64)
  | .progLoadData sess core _ => decide (sess < 256) && decide (core < 96)
  | .progCommit sess core _ => decide (sess < 256) && decide (core < 96)
  | .progSwap core => decide (core < 96)
  | .moveTailEnd cell => decide (cell < 256)
  | .frameReceived port _ => decide (port < 16)
  | .frameTransmitted port => decide (port < 16)
  | .queueRead q _ _ => decide (q < 65536)
  | .queueRelease q _ _ => decide (q < 65536)
  | .mark q _ => decide (q < 65536)
  | .rewind q _ => decide (q < 65536)
  | .flush q _ => decide (q < 65536)
  | .staleCheck q => decide (q < 65536)
  | .queueSample q => decide (q < 65536)
  | .qCfg sess _ => decide (sess < 256)
  | .queueSelect sess _ => decide (sess < 256)
  | .wfqCommit sess die _ => decide (sess < 256) && decide (die < 2)
  | .polCommit sess die _ => decide (sess < 256) && decide (die < 2)
  | .portMode sess die _ => decide (sess < 256) && decide (die < 2)
  | .ckTick => true
  | .applyTick => true
  | .stepNs sess tb _ => decide (sess < 256) && decide (tb < 8)
  | .frameOffsetNs sess tb _ => decide (sess < 256) && decide (tb < 8)
  | .servoSrc sess tb _ => decide (sess < 256) && decide (tb < 8)
  | .delayReq tb => decide (tb < 8)
  | .holdoverEntry tb => decide (tb < 8)
  | .radioFrameBoundary tb => decide (tb < 8)
  | .slotBoundary cell => decide (cell < 256)
  | .symbolBoundary cell => decide (cell < 256)
  | .trigCfg sess n _ => decide (sess < 256) && decide (n < 8)
  | .trigEdge n => decide (n < 8)
  | .trigPulseEnd n => decide (n < 8)
  | .capEdge n _ => decide (n < 4)
  | .ppsInEdge _ => true
  | .ppsOutEdge => true
  | .capRead sess n => decide (sess < 256) && decide (n < 4)
  | .ppsInRead sess => decide (sess < 256)
  | .calibration _ => true
  | .flitReceived port _ => decide (port < 16)
  | .retrain port => decide (port < 16)
  | .fabricPortDown port => decide (port < 16)
  | .fabricRead => true
  | .readData => true
  | .fabricWrite => true
  | .writeAck => true
  | .atomic => true
  | .atomicAck => true
  | .drain => true
  | .drainAck => true
  | .refuse => true
  | .bulkWrite => true
  | .bulkRead => true
  | .bulkData => true
  | .bulkAck => true
  | .cellData => true
  | .cellAck => true
  | .routeTable sess _ => decide (sess < 256)
  | .routeCommit sess _ => decide (sess < 256)
  | .routeDrainTimeout dest => decide (dest < 64)
  | .relevoWfqCommit sess _ => decide (sess < 256)
  | .reqTimeout dest job _ => decide (dest < 64) && decide (job < 65536)
  | .jobCfg sess _ => decide (sess < 256)
  | .jobTeardown sess _ => decide (sess < 256)
  | .ctxJobId sess _ => decide (sess < 256)
  | .winLoadData sess _ => decide (sess < 256)
  | .winCommit sess _ => decide (sess < 256)
  | .fabricEnable sess => decide (sess < 256)
  | .fabricRevoke sess => decide (sess < 256)
  | .jobSnapshot sess _ => decide (sess < 256)
  | .buddyAdopt sess _ => decide (sess < 256)
  | .restoreFromBuddy sess _ => decide (sess < 256)
  | .buddyRelease sess job => decide (sess < 256) && decide (job < 65536)
  | .heartbeat => true
  | .hbEcho sess _ => decide (sess < 256)
  | .selfFence => true
  | .reportEpochEnd => true
  | .scrub _ _ => true
  | .ceSecond unit _ => unit.wf
  | .linkRetrain link => decide (link < 82)
  | .linkDown link => decide (link < 82)
  | .unitOut unit _ => unit.wf
  | .shadowStart => true
  | .shadowMaxAge => true
  | .shadowCompare _ _ => true
  | .meQuarantine sess _ => decide (sess < 256)
  | .cdOutMask sess _ => decide (sess < 256)
  | .pasidLoadData sess _ => decide (sess < 256)
  | .ctxPasid sess _ => decide (sess < 256)
  | .ctxPrivReq sess _ => decide (sess < 256)
  | .ctxSharedReq sess _ => decide (sess < 256)
  | .freeze sess slice => decide (sess < 256) && decide (slice < 64)
  | .thaw sess slice => decide (sess < 256) && decide (slice < 64)
  | .sliceSave sess slice _ _ => decide (sess < 256) && decide (slice < 64)
  | .sliceSaveDone slice => decide (slice < 64)
  | .sliceRestore sess slice _ _ _ => decide (sess < 256) && decide (slice < 64)
  | .sliceRestoreDone slice => decide (slice < 64)
  | .functionLevelReset _ => true
  | .hostRequestFailed _ => true
  | .mbReqLen _ _ => true
  | .downDoorbell channel _ _ _ => decide (channel < 8)
  | .downDescriptor channel => decide (channel < 8)
  | .rhcCfg sess channel _ => decide (sess < 256) && decide (channel < 8)
  | .openSession _ _ role _ => decide (role < 5)
  | .proof _ sess _ => decide (sess < 256)
  | .read sess index subindex => decide (sess < 256) && decide (index < 65536) && decide (subindex < 256)
  | .write sess index subindex _ => decide (sess < 256) && decide (index < 65536) && decide (subindex < 256)
  | .writeEndorsed sess index subindex _ _ => decide (sess < 256) && decide (index < 65536) && decide (subindex < 256)
  | .eventRead sess _ => decide (sess < 256)
  | .recall sess => decide (sess < 256)
  | .close sess => decide (sess < 256)
  | .sessionIdle sess => decide (sess < 256)
  | .lockoutEnd role => decide (role < 5)
  | .endorseNonce sess => decide (sess < 256)
  | .nonceLapse _ => true
  | .changeExpired _ => true
  | .claim _ => true
  | .attestNonce sess _ => decide (sess < 256)
  | .configSave sess _ => decide (sess < 256)
  | .configSaveDone _ => true
  | .controlPeriod _ => true
  | .telemetryUpdate _ _ => true
  | .thermalUpdate _ => true
  | .flowDemandUpdate => true
  | .flowLow => true
  | .avsStep die _ => decide (die < 16)
  | .timingMarginLow die => decide (die < 16)
  | .pmbAlert _ => true
  | .railOutOfRange rail _ => decide (rail < 26)
  | .sensorCalibration die _ _ => decide (die < 25)
  | .thermtrip => true
  | .seqFault rail => decide (rail < 26)
  | .powerCapW sess _ => decide (sess < 256)
  | .refLost => true
  | .refRestored _ => true
  | .rootPllUnlock => true
  | .diePllUnlock die => decide (die < 25)
  | .crossingStall unit => unit.wf
  | .rclkCfg sess _ => decide (sess < 256)
  | .powerOn => true
  | .resetN => true
  | .hubWatchdog => true
  | .resetRequest sess _ => decide (sess < 256)
  | .bootStage _ => true
  | .recoveryHoldEnd q => decide (q < 65536)
  | .fwLoadData sess _ => decide (sess < 256)
  | .fwCommit sess _ => decide (sess < 256)
  | .handover sess _ => decide (sess < 256)
  | .fwConfirm sess _ => decide (sess < 256)
  | .handoverConfirmTimeout => true
  | .powerOff => true
  | .suppliesRestored => true
  | .resetRelease => true
  | .fabricLinkUp port peer => decide (port < 16) && decide (peer < 64)
  | .fronthaulLinkChange port _ _ => decide (port < 16)
  | .pcieLinkUp _ _ => true
  | .diePllRelock die => decide (die < 25)
  | .programRewriteDone core => decide (core < 96)
  | .shadowCopyDone ctx => decide (ctx < 4096)
  | .jobDeadlinePassed die slot => decide (die < 2) && decide (slot < 64)
  | .mgmtFrameDiscarded _ _ => true
  | .ppsOutPulseEnd => true
  | .handoverComplete _ => true

end Sys2Proof
end

