-- ==== Sys2Proof/Tests/Slice0.lean ====
section
/-! SUPPORT. Tests: the well-formedness checks, a step of every family on small states, and for each obligation with hypotheses a
state that meets them. Expected values are taken from the manual's rules, by hand. -/

set_option Elab.async false
set_option maxRecDepth 100000
set_option synthInstance.maxSize 2000

namespace Sys2Proof.Tests

open Sys2Proof Sys2Proof.Machine Sys2Proof.Claims

-- Small states --------------------

/-- The state a command gives. -/
def after (i : Instr) (s : State) : State := match exec i s with
  | .next t => t
  | _ => s

/-- A part at stage 7 with host access, and session 0 open for the service role on MGMT-A. -/
def up : State :=
  let s := { State.reset with
    boot := { State.reset.boot with inReset := false }
    hif := { State.reset.hif with access := true }
    mgmt := { State.reset.mgmt with sessions := [(0, { Session.closed with phase := 2, role := 4, via := .mgmtA })] } }
  s.setReg .bootStage 7

/-- Slice 0 enabled with contexts 0 to 3 and vectors 0 to 7; PASID 0 is bound to it, and contexts 0 and 1 have it. -/
def sliced : State :=
  let s := ((up.setReg .sliceMap (2 ^ 63 + 4 * 2 ^ 31 + 8 * 2 ^ 8) 0).setReg .ctxPasid 0 0).setReg .ctxPasid 0 1
  { s with hif := { s.hif with pasid := [2 ^ 31] } }

/-- Queue registers of a running queue with rings of 64 slots. -/
def page : Page := { (default : Page) with ringCfg := 2 ^ 31 + 6 * 2 ^ 8 + 6 * 2 ^ 4, state := 1 }

/-- Context 0 of slice 0 on engine 0, idle. -/
def ctx0 : State := sliced.setCtx 0 { (default : Ctx) with
  live := true, page, alloc := { (default : Alloc) with engine := some 0, privBytes := 65536, hood := some (2 ^ 21), hoodFrames := 1 } }

/-- A command of opcode `code` and other descriptor bits `d` in a phase. -/
def cmd (code d : Nat) (phase : Phase) (done : Bool) : Cmd := { (default : Cmd) with desc := d + code * 2 ^ 20, phase, done }

/-- Context 0 with that command. -/
def under (code d : Nat) (phase : Phase) (done : Bool) : State :=
  ctx0.setCtx 0 { ctx0.ctx 0 with cmd := some (cmd code d phase done) }

/-- The same on logical engine 0's radio queue, on engine 3. -/
def radioUnder (code d : Nat) (phase : Phase) : State :=
  { up with radio := { up.radio with cmds := [(0, some { cmd code d phase false with engine := 3 })] } }

-- Well-formedness: for every check a command that it refuses, beside one at the bound that it admits --------------------

theorem test_wf_1 : (∀ i ∈ ([
    .doorbell 64 0 0 [], .doorbell 0 4096 0 [], .ringCfg 64 0 0 0 0, .ringCfg 0 4096 0 0 0, .cplHead 64 0 0, .cplHead 0 4096 0,
    .contextPlaced 4096, .engineGrant 4096 0, .dmaSlotGrant 4096, .commit (.context 4096), .commit (.radio 128),
    .passBoundary 128 0, .lcPreemptKill 128 0, .killRequest (.context 4096) 0 0, .killDone (.context 4096) 0,
    .killDone (.radio 128) 0, .engineCheckFault 128, .matmul (.context 4096), .cmatmul (.context 4096), .fullSum (.context 4096),
    .map (.context 4096), .binary (.context 4096), .convert (.context 4096), .lineMax (.context 4096)] : List Instr), i.wf = false) ∧ ∀ i ∈ ([
    .doorbell 63 0 0 [], .doorbell 0 4095 0 [], .ringCfg 63 0 0 0 0, .ringCfg 0 4095 0 0 0, .cplHead 63 0 0, .cplHead 0 4095 0,
    .contextPlaced 4095, .engineGrant 4095 0, .dmaSlotGrant 4095, .commit (.context 4095), .commit (.radio 127),
    .passBoundary 127 0, .lcPreemptKill 127 0, .killRequest (.context 4095) 0 0, .killDone (.context 4095) 0,
    .killDone (.radio 127) 0, .engineCheckFault 127, .matmul (.context 4095), .cmatmul (.context 4095), .fullSum (.context 4095),
    .map (.context 4095), .binary (.context 4095), .convert (.context 4095), .lineMax (.context 4095)] : List Instr), i.wf = true := by decide +kernel

theorem test_wf_2 : (∀ i ∈ ([
    .softmaxStep (.context 4096), .softmaxExact (.context 4096), .normalise (.context 4096), .normStats (.context 4096),
    .normApply (.context 4096), .copy 4096, .copy2d 4096, .fill 4096, .transpose 4096, .toPanels 4096, .gather 4096,
    .fillRandom 4096, .hostRead 4096, .hostWrite 4096, .loamAcquire 4096, .loamRelease 4096, .fload 4096, .fstore 4096,
    .fstoreShared 4096, .faddI64 4096, .ffetchAddI64 4096, .fswapI64 4096, .fcasI64 4096, .faddF32Fast 4096] : List Instr), i.wf = false) ∧ ∀ i ∈ ([
    .softmaxStep (.context 4095), .softmaxExact (.context 4095), .normalise (.context 4095), .normStats (.context 4095),
    .normApply (.context 4095), .copy 4095, .copy2d 4095, .fill 4095, .transpose 4095, .toPanels 4095, .gather 4095,
    .fillRandom 4095, .hostRead 4095, .hostWrite 4095, .loamAcquire 4095, .loamRelease 4095, .fload 4095, .fstore 4095,
    .fstoreShared 4095, .faddI64 4095, .ffetchAddI64 4095, .fswapI64 4095, .fcasI64 4095, .faddF32Fast 4095] : List Instr), i.wf = true := by decide +kernel

theorem test_wf_3 : (∀ i ∈ ([
    .faddKrec 4096, .nop 4096, .wait 4096, .waitMem 4096, .fenceFabric 4096, .setSeed 4096, .readTime 4096, .spillDone 4096,
    .beReclaim 4096, .clearDone 4096, .fetchCompletion 64 0 [] .ok, .fetchCompletion 0 65536 [] .ok, .prefetchStart 64,
    .loamMapCommit 256 0 0, .loamMapCommit 0 64 0, .loamQuotaPages 256 0 0, .loamQuotaPages 0 64 0, .privQuotaFrames 256 0 0,
    .privQuotaFrames 0 64 0, .spQuotaBytes 256 0 0, .spQuotaBytes 0 64 0, .lcFloorBytes 256 0, .tilthLoadData 256 [],
    .radioStart 128 0] : List Instr), i.wf = false) ∧ ∀ i ∈ ([
    .faddKrec 4095, .nop 4095, .wait 4095, .waitMem 4095, .fenceFabric 4095, .setSeed 4095, .readTime 4095, .spillDone 4095,
    .beReclaim 4095, .clearDone 4095, .fetchCompletion 63 0 [] .ok, .fetchCompletion 0 65535 [] .ok, .prefetchStart 63,
    .loamMapCommit 255 0 0, .loamMapCommit 0 63 0, .loamQuotaPages 255 0 0, .loamQuotaPages 0 63 0, .privQuotaFrames 255 0 0,
    .privQuotaFrames 0 63 0, .spQuotaBytes 255 0 0, .spQuotaBytes 0 63 0, .lcFloorBytes 255 0, .tilthLoadData 255 [],
    .radioStart 127 0] : List Instr), i.wf = true := by decide +kernel

theorem test_wf_4 : (∀ i ∈ ([
    .setClass 256 0, .move 256 0, .handlerEntry 96, .bundle 96 ⟨none, none, none, none⟩, .loopm ⟨96, ⟨0, none, none, none⟩⟩ 0 0 0,
    .loop ⟨96, ⟨0, none, none, none⟩⟩ 0 0, .acsSetup ⟨96, ⟨0, none, none, none⟩⟩ .k7 [] 0 0, .acsStep ⟨96, ⟨0, none, none, none⟩⟩,
    .acsLoadpm ⟨96, ⟨0, none, none, none⟩⟩ 0, .acsStorepm ⟨96, ⟨0, none, none, none⟩⟩ 0, .acsBest ⟨96, ⟨0, none, none, none⟩⟩ 0,
    .acsTb ⟨96, ⟨0, none, none, none⟩⟩ 0 0, .engq ⟨0, ⟨0, none, none, none⟩⟩ 128 0 0, .engq ⟨0, ⟨0, none, none, none⟩⟩ 0 256 0,
    .engq ⟨96, ⟨0, none, none, none⟩⟩ 0 0 0, .code ⟨96, ⟨0, none, none, none⟩⟩ 0,
    .xfer ⟨96, ⟨0, none, none, none⟩⟩ (.coreToStack 0 0 0), .ueRd ⟨0, ⟨0, none, none, none⟩⟩ 262144 0,
    .ueRd ⟨96, ⟨0, none, none, none⟩⟩ 0 0, .ueWr ⟨0, ⟨0, none, none, none⟩⟩ 262144 0, .ueWr ⟨96, ⟨0, none, none, none⟩⟩ 0 0,
    .ueSync ⟨96, ⟨0, none, none, none⟩⟩, .ueAccessArrival 96, .halt ⟨96, ⟨0, none, none, none⟩⟩] : List Instr), i.wf = false) ∧ ∀ i ∈ ([
    .setClass 255 0, .move 255 0, .handlerEntry 95, .bundle 95 ⟨none, none, none, none⟩, .loopm ⟨95, ⟨0, none, none, none⟩⟩ 0 0 0,
    .loop ⟨95, ⟨0, none, none, none⟩⟩ 0 0, .acsSetup ⟨95, ⟨0, none, none, none⟩⟩ .k7 [] 0 0, .acsStep ⟨95, ⟨0, none, none, none⟩⟩,
    .acsLoadpm ⟨95, ⟨0, none, none, none⟩⟩ 0, .acsStorepm ⟨95, ⟨0, none, none, none⟩⟩ 0, .acsBest ⟨95, ⟨0, none, none, none⟩⟩ 0,
    .acsTb ⟨95, ⟨0, none, none, none⟩⟩ 0 0, .engq ⟨0, ⟨0, none, none, none⟩⟩ 127 0 0, .engq ⟨0, ⟨0, none, none, none⟩⟩ 0 255 0,
    .engq ⟨95, ⟨0, none, none, none⟩⟩ 0 0 0, .code ⟨95, ⟨0, none, none, none⟩⟩ 0,
    .xfer ⟨95, ⟨0, none, none, none⟩⟩ (.coreToStack 0 0 0), .ueRd ⟨0, ⟨0, none, none, none⟩⟩ 262143 0,
    .ueRd ⟨95, ⟨0, none, none, none⟩⟩ 0 0, .ueWr ⟨0, ⟨0, none, none, none⟩⟩ 262143 0, .ueWr ⟨95, ⟨0, none, none, none⟩⟩ 0 0,
    .ueSync ⟨95, ⟨0, none, none, none⟩⟩, .ueAccessArrival 95, .halt ⟨95, ⟨0, none, none, none⟩⟩] : List Instr), i.wf = true := by decide +kernel

theorem test_wf_5 : (∀ i ∈ ([
    .ldpcDecode 2, .ldpcEncode 2, .polarDecode 2, .polarEncode 2, .fft 2, .inverseFft 2, .coderJobEnd 2 0, .coderJobEnd 0 64,
    .progLoadData 256 0 [], .progLoadData 0 96 [], .progCommit 256 0 [], .progCommit 0 96 [], .progSwap 96, .moveTailEnd 256,
    .frameReceived 16 ⟨[], true, 0, 0, 0, false, .service⟩, .frameTransmitted 16, .queueRead 65536 0 .unit,
    .queueRelease 65536 0 .unit, .mark 65536 .unit, .rewind 65536 .unit, .flush 65536 .unit, .staleCheck 65536,
    .queueSample 65536, .qCfg 256 0] : List Instr), i.wf = false) ∧ ∀ i ∈ ([
    .ldpcDecode 1, .ldpcEncode 1, .polarDecode 1, .polarEncode 1, .fft 1, .inverseFft 1, .coderJobEnd 1 0, .coderJobEnd 0 63,
    .progLoadData 255 0 [], .progLoadData 0 95 [], .progCommit 255 0 [], .progCommit 0 95 [], .progSwap 95, .moveTailEnd 255,
    .frameReceived 15 ⟨[], true, 0, 0, 0, false, .service⟩, .frameTransmitted 15, .queueRead 65535 0 .unit,
    .queueRelease 65535 0 .unit, .mark 65535 .unit, .rewind 65535 .unit, .flush 65535 .unit, .staleCheck 65535,
    .queueSample 65535, .qCfg 255 0] : List Instr), i.wf = true := by decide +kernel

theorem test_wf_6 : (∀ i ∈ ([
    .queueSelect 256 0, .wfqCommit 256 0 0, .wfqCommit 0 2 0, .polCommit 256 0 0, .polCommit 0 2 0, .portMode 256 0 0,
    .portMode 0 2 0, .stepNs 256 0 0, .stepNs 0 8 0, .frameOffsetNs 256 0 0, .frameOffsetNs 0 8 0, .servoSrc 256 0 0,
    .servoSrc 0 8 0, .delayReq 8, .holdoverEntry 8, .radioFrameBoundary 8, .slotBoundary 256, .symbolBoundary 256,
    .trigCfg 256 0 0, .trigCfg 0 8 0, .trigEdge 8, .trigPulseEnd 8, .capEdge 4 false, .capRead 256 0] : List Instr), i.wf = false) ∧ ∀ i ∈ ([
    .queueSelect 255 0, .wfqCommit 255 0 0, .wfqCommit 0 1 0, .polCommit 255 0 0, .polCommit 0 1 0, .portMode 255 0 0,
    .portMode 0 1 0, .stepNs 255 0 0, .stepNs 0 7 0, .frameOffsetNs 255 0 0, .frameOffsetNs 0 7 0, .servoSrc 255 0 0,
    .servoSrc 0 7 0, .delayReq 7, .holdoverEntry 7, .radioFrameBoundary 7, .slotBoundary 255, .symbolBoundary 255,
    .trigCfg 255 0 0, .trigCfg 0 7 0, .trigEdge 7, .trigPulseEnd 7, .capEdge 3 false, .capRead 255 0] : List Instr), i.wf = true := by decide +kernel

theorem test_wf_7 : (∀ i ∈ ([
    .capRead 0 4, .ppsInRead 256, .flitReceived 16 ⟨0, [], 0⟩, .retrain 16, .fabricPortDown 16, .routeTable 256 [],
    .routeCommit 256 0, .routeDrainTimeout 64, .relevoWfqCommit 256 0, .reqTimeout 64 0 0, .reqTimeout 0 65536 0, .jobCfg 256 0,
    .jobTeardown 256 0, .ctxJobId 256 0, .winLoadData 256 [], .winCommit 256 0, .fabricEnable 256, .fabricRevoke 256,
    .jobSnapshot 256 0, .buddyAdopt 256 0, .restoreFromBuddy 256 0, .buddyRelease 256 0, .buddyRelease 0 65536, .hbEcho 256 0] : List Instr), i.wf = false) ∧ ∀ i ∈ ([
    .capRead 0 3, .ppsInRead 255, .flitReceived 15 ⟨0, [], 0⟩, .retrain 15, .fabricPortDown 15, .routeTable 255 [],
    .routeCommit 255 0, .routeDrainTimeout 63, .relevoWfqCommit 255 0, .reqTimeout 63 0 0, .reqTimeout 0 65535 0, .jobCfg 255 0,
    .jobTeardown 255 0, .ctxJobId 255 0, .winLoadData 255 [], .winCommit 255 0, .fabricEnable 255, .fabricRevoke 255,
    .jobSnapshot 255 0, .buddyAdopt 255 0, .restoreFromBuddy 255 0, .buddyRelease 255 0, .buddyRelease 0 65535, .hbEcho 255 0] : List Instr), i.wf = true := by decide +kernel

theorem test_wf_8 : (∀ i ∈ ([
    .ceSecond (.cd 16) 0, .linkRetrain 82, .linkDown 82, .unitOut (.cd 16) false, .meQuarantine 256 0, .cdOutMask 256 0,
    .pasidLoadData 256 [], .ctxPasid 256 0, .ctxPrivReq 256 0, .ctxSharedReq 256 0, .freeze 256 0, .freeze 0 64, .thaw 256 0,
    .thaw 0 64, .sliceSave 256 0 0 0, .sliceSave 0 64 0 0, .sliceSaveDone 64, .sliceRestore 256 0 0 0 false,
    .sliceRestore 0 64 0 0 false, .sliceRestoreDone 64, .downDoorbell 8 0 none [], .downDescriptor 8, .rhcCfg 256 0 0,
    .rhcCfg 0 8 0] : List Instr), i.wf = false) ∧ ∀ i ∈ ([
    .ceSecond (.cd 15) 0, .linkRetrain 81, .linkDown 81, .unitOut (.cd 15) false, .meQuarantine 255 0, .cdOutMask 255 0,
    .pasidLoadData 255 [], .ctxPasid 255 0, .ctxPrivReq 255 0, .ctxSharedReq 255 0, .freeze 255 0, .freeze 0 63, .thaw 255 0,
    .thaw 0 63, .sliceSave 255 0 0 0, .sliceSave 0 63 0 0, .sliceSaveDone 63, .sliceRestore 255 0 0 0 false,
    .sliceRestore 0 63 0 0 false, .sliceRestoreDone 63, .downDoorbell 7 0 none [], .downDescriptor 7, .rhcCfg 255 0 0,
    .rhcCfg 0 7 0] : List Instr), i.wf = true := by decide +kernel

theorem test_wf_9 : (∀ i ∈ ([
    .openSession .mailbox 0 5 [], .proof .mailbox 256 [], .read 256 0 0, .read 0 65536 0, .read 0 0 256, .write 256 0 0 [],
    .write 0 65536 0 [], .write 0 0 256 [], .writeEndorsed 256 0 0 [] ⟨0, 0, []⟩, .writeEndorsed 0 65536 0 [] ⟨0, 0, []⟩,
    .writeEndorsed 0 0 256 [] ⟨0, 0, []⟩, .eventRead 256 0, .recall 256, .close 256, .sessionIdle 256, .lockoutEnd 5,
    .endorseNonce 256, .attestNonce 256 [], .configSave 256 0, .avsStep 16 false, .timingMarginLow 16,
    .railOutOfRange 26 .overcurrentClear, .sensorCalibration 25 0 false, .seqFault 26] : List Instr), i.wf = false) ∧ ∀ i ∈ ([
    .openSession .mailbox 0 4 [], .proof .mailbox 255 [], .read 255 0 0, .read 0 65535 0, .read 0 0 255, .write 255 0 0 [],
    .write 0 65535 0 [], .write 0 0 255 [], .writeEndorsed 255 0 0 [] ⟨0, 0, []⟩, .writeEndorsed 0 65535 0 [] ⟨0, 0, []⟩,
    .writeEndorsed 0 0 255 [] ⟨0, 0, []⟩, .eventRead 255 0, .recall 255, .close 255, .sessionIdle 255, .lockoutEnd 4,
    .endorseNonce 255, .attestNonce 255 [], .configSave 255 0, .avsStep 15 false, .timingMarginLow 15,
    .railOutOfRange 25 .overcurrentClear, .sensorCalibration 24 0 false, .seqFault 25] : List Instr), i.wf = true := by decide +kernel

theorem test_wf_10 : (∀ i ∈ ([
    .powerCapW 256 0, .diePllUnlock 25, .crossingStall (.cd 16), .crossingStall (.me 128), .crossingStall (.stack 12),
    .crossingStall (.bd 2), .crossingStall (.dsp 96), .crossingStall (.xd 4), .crossingStall (.xp 16), .crossingStall (.fd 2),
    .crossingStall (.fh 16), .crossingStall (.link 82), .crossingStall (.timeBase 8), .rclkCfg 256 0, .resetRequest 256 0,
    .recoveryHoldEnd 65536, .fwLoadData 256 [], .fwCommit 256 [], .handover 256 0, .fwConfirm 256 0, .fabricLinkUp 16 0,
    .fabricLinkUp 0 64, .fronthaulLinkChange 16 false false, .diePllRelock 25] : List Instr), i.wf = false) ∧ ∀ i ∈ ([
    .powerCapW 255 0, .diePllUnlock 24, .crossingStall (.cd 15), .crossingStall (.me 127), .crossingStall (.stack 11),
    .crossingStall (.bd 1), .crossingStall (.dsp 95), .crossingStall (.xd 3), .crossingStall (.xp 15), .crossingStall (.fd 1),
    .crossingStall (.fh 15), .crossingStall (.link 81), .crossingStall (.timeBase 7), .rclkCfg 255 0, .resetRequest 255 0,
    .recoveryHoldEnd 65535, .fwLoadData 255 [], .fwCommit 255 [], .handover 255 0, .fwConfirm 255 0, .fabricLinkUp 15 0,
    .fabricLinkUp 0 63, .fronthaulLinkChange 15 false false, .diePllRelock 24] : List Instr), i.wf = true := by decide +kernel

theorem test_wf_11 : (∀ i ∈ ([
    .programRewriteDone 96, .shadowCopyDone 4096, .jobDeadlinePassed 2 0, .jobDeadlinePassed 0 64] : List Instr), i.wf = false) ∧ ∀ i ∈ ([
    .programRewriteDone 95, .shadowCopyDone 4095, .jobDeadlinePassed 1 0, .jobDeadlinePassed 0 63] : List Instr), i.wf = true := by decide +kernel

-- Known answers of the standards the manual names, and of its own tables --------------------

/-- CRC-32C of the digits 1 to 9 (RFC 3720's polynomial, R336). -/
theorem test_crc32c : crc32c (ascii "123456789") = 0xE3069283 := by decide +kernel

/-- SHA-512 of the empty string (FIPS 180-4). -/
theorem test_sha512 : beNat ((sha512 []).take 8) = 0xCF83E1357EEFB8BD := by decide +kernel

/-- AES-128-GCM of 16 zero bytes under a zero key and IV (test case 2 of the GCM specification). -/
theorem test_gcm : let r := gcmSeal (zeros 16) (zeros 12) [] (zeros 16)
    beNat r.1 = 0x0388DACE60B6A392F328C2B971B2FE78 ∧ beNat r.2 = 0xAB6E47D42CEC13BDF53A67B21257BDDF := by decide +kernel

/-- One and minus two in each format (R23 to R28), and the even neighbour of a tie. -/
theorem test_formats : fmtFP32.decode 0x3F800000 = .fin false (2 ^ 23) (-23) ∧ (fmtFP16.encode false (fmtFP32.decode 0xC0000000)).1 = 0xC000 ∧
    (fmtBF16.encode false (fmtFP32.decode 0x3F808000)).1 = 0x3F80 ∧ (fmtBF16.encode false (fmtFP32.decode 0x3F818000)).1 = 0x3F82 ∧
    (fmtE5M2.encode false (fmtFP32.decode 0x7F800000)).1 = 0x7C := by decide +kernel

-- Queue pages and the life of a command --------------------

theorem witness_IdleStepKeepsTheState : up.pending = [] ∧ step up = .next up := ⟨by decide +kernel, rfl⟩

theorem witness_QueuePageWritesTakeEffect_doorbell :
    (ctx0.hostPut []).queueCtx 0 0 = some 0 ∧ (ctx0.hostPut []).hif.access = true ∧ (ctx0.ctx 0).page.state = 1 ∧
    0 ≤ ((0 : W32) - (ctx0.ctx 0).page.tail).toInt ∧ ((0 : W32) - (ctx0.ctx 0).page.tail).toNat ≤ 2 ^ (ctx0.ctx 0).page.cmdLog2 ∧
    ((0 : W32) - (ctx0.ctx 0).page.head).toNat ≤ 2 ^ (ctx0.ctx 0).page.cmdLog2 := by decide +kernel

/-- The same on a frozen queue, at the greatest distance a doorbell may have. -/
def frozen : State := ctx0.modPage 0 fun p => { p with state := 2 }

theorem witness_QueuePageWritesTakeEffect_frozen :
    frozen.queueCtx 0 0 = some 0 ∧ (frozen.ctx 0).page.state = 2 ∧ ((64 : W32) - (frozen.ctx 0).page.tail).toNat ≤ 2 ^ (frozen.ctx 0).page.cmdLog2 ∧
    ((after (.doorbell 0 0 64 []) frozen).ctx 0).page.tail = 64 ∧ ((after (.doorbell 0 0 64 []) frozen).ctx 0).cmd = none := by decide +kernel

theorem witness_QueuePageWritesTakeEffect_ring :
    sliced.queueCtx 0 0 = some 0 ∧ sliced.hif.access = true ∧ (sliced.ctx 0).page.enabled = false ∧
    bit (ringMask 0x80000660) 31 = true ∧ sliced.ringOk 0 { (sliced.ctx 0).page with ringCfg := ringMask 0x80000660 } = true ∧
    ((after (.ringCfg 0 0 0x80000660 0 0) sliced).ctx 0).live = true := by decide +kernel

theorem witness_QueuePageWritesTakeEffect_hold :
    bit (ringMask 0x660) 31 = false ∧ ((after (.ringCfg 0 0 0x660 0x1000 0) sliced).ctx 0).page.cmdBase = 0x1000 := by decide +kernel

theorem witness_QueuePageWritesTakeEffect_cplHead :
    ctx0.queueCtx 0 0 = some 0 ∧ (ctx0.ctx 0).live = true ∧ ((after (.cplHead 0 0 5) ctx0).ctx 0).page.cplHead = 5 := by decide +kernel

theorem witness_IgnoredDoorbellsAreCounted_disabled :
    sliced.queueCtx 0 0 = some 0 ∧ sliced.hif.access = true ∧ (sliced.ctx 0).page.state = 0 ∧
    ((after (.doorbell 0 0 1 []) sliced).ctx 0).page.lastIgnored = 0x0101 := by decide +kernel

def torn : State := ctx0.modPage 0 fun p => { p with state := 3 }

theorem witness_IgnoredDoorbellsAreCounted_torn :
    (torn.ctx 0).page.state = 3 ∧ ((after (.doorbell 0 0 1 []) torn).ctx 0).page.lastIgnored = 0x0104 := by decide +kernel

theorem witness_IgnoredDoorbellsAreCounted_behind :
    ((0xFFFFFFFF : W32) - (ctx0.ctx 0).page.tail).toInt < 0 ∧
    ((after (.doorbell 0 0 0xFFFFFFFF []) ctx0).ctx 0).page.lastIgnored = 0x0102 ∧
    ((after (.doorbell 0 0 0xFFFFFFFF []) ctx0).ctx 0).page.ignored = 1 := by decide +kernel

theorem witness_IgnoredDoorbellsAreCounted_far :
    ¬ ((65 : W32) - (ctx0.ctx 0).page.tail).toInt < 0 ∧ 2 ^ (ctx0.ctx 0).page.cmdLog2 < ((65 : W32) - (ctx0.ctx 0).page.tail).toNat ∧
    ((after (.doorbell 0 0 65 []) ctx0).ctx 0).page.lastIgnored = 0x0103 ∧
    ((after (.doorbell 0 0 65 []) ctx0).ctx 0).page.lastIgnoredSeq = 65 := by decide +kernel

/-- Context 0 not yet placed, with its default request of 1 MiB. -/
def unplaced : State := (sliced.setReg .spQuotaBytes (2 ^ 24) 0).setCtx 0 { (default : Ctx) with live := true, page }

theorem witness_PlacementAndGrantsComplete_place :
    (unplaced.ctx 0).live = true ∧ (unplaced.ctx 0).alloc.engine = none ∧ (unplaced.ctx 0).page.state ≠ 3 ∧
    unplaced.quotaFits 0 = true ∧ unplaced.chooseEngine 0 (unplaced.ctx 0).alloc.home = some 0 := by decide +kernel

/-- A MAP of one element waits, ready, with its checks made. -/
def readyMap : State := ctx0.setCtx 0 { ctx0.ctx 0 with
  cmd := some { (default : Cmd) with desc := 0x100 * 2 ^ 20, phase := .waiting, checked := true, count := 8 } }

theorem witness_PlacementAndGrantsComplete_engine :
    let x : Cmd := { (default : Cmd) with desc := 0x100 * 2 ^ 20, phase := .waiting, checked := true, count := 8 }
    let r := readyMap.advanceRound 0 (readyMap.isLc 0) 4096
    readyMap.readyCmd 0 = some (x, .map) ∧ (readyMap.ctx 0).alloc.engine = some 0 ∧ readyMap.gated 0 = false ∧
    readyMap.engineFree 0 = true ∧ (readyMap.isLc 0 = true ∨ (readyMap.classOn 0 true).any readyMap.engineReady = false) ∧
    r.startRule 0 x.count = true ∧ r.hasTurn 0 (readyMap.isLc 0) 0 = true := by decide +kernel

theorem witness_PlacementAndGrantsComplete_dma :
    let s := under 0x200 0 .waiting false
    let x := cmd 0x200 0 .waiting false
    s.readyCmd 0 = some (x, .copy) ∧ (s.ctx 0).alloc.engine = some 0 ∧ s.gated 0 = false ∧ s.lateReason 0 .copy x.desc = none := by
  decide +kernel

theorem witness_CommitsComplete :
    let s := under 0x400 0 .started true
    ∃ x, (s.ctx 0).cmd = some x ∧ x.op = some .nop ∧ x.phase = .started ∧ x.done = true ∧
      s.tier.badWords = [] ∧ s.hubCondition 0 .nop x = true := ⟨_, rfl, by decide +kernel⟩

theorem witness_CommitsComplete_radio :
    let s := radioUnder 0x100 0 .started
    ∃ x, s.radioCmd 0 = some x ∧ x.op = some .map ∧ x.phase = .started ∧ s.tier.badWords = [] := ⟨_, rfl, by decide +kernel⟩

/-- A BE and an LC context on engine 0: context 0 runs a MAP of many AK cycles, context 1 (LC) waits with one. -/
def contended : State :=
  let s := (ctx0.setCtx 0 { ctx0.ctx 0 with
    cmd := some { (default : Cmd) with desc := 0x100 * 2 ^ 20, phase := .started, count := 100000 } })
  let s := s.setReg .ctxClass 0 1
  let s := s.setCtx 1 { ctx0.ctx 0 with cmd := some { (default : Cmd) with desc := 0x100 * 2 ^ 20, phase := .waiting } }
  s.modEngine 0 fun e => { e with running := some (.context 0) }

theorem witness_KillsAndPassesComplete_kill :
    let s := under 0x200 0 .started false
    ∃ x, (s.ctx 0).cmd = some x ∧ x.op = some .copy ∧ x.phase = .started ∧ Op.unit .copy ≠ .engine ∧
      ((after (.killRequest (.context 0) 0x10 0) s).ctx 0).cmd = some { x with phase := .killing, cause := 0x10 } :=
  ⟨_, rfl, by decide +kernel, by decide +kernel, by decide +kernel, by decide +kernel⟩

theorem witness_KillsAndPassesComplete_preempt :
    (contended.engine 0).running = some (.context 0) ∧ contended.isLc 0 = false ∧
    (contended.classOn 0 true).any contended.enginePending = true ∧ contended.reg .killSkipAk < 100000 + 0 - 5 ∧
    ((after (.lcPreemptKill 0 5) contended).ctx 0).cmd.map (·.phase) = some .killing := by decide +kernel

theorem witness_KillsAndPassesComplete_done :
    let s := (under 0x200 0 .killing false).modPage 0 fun p => { p with state := 2 }
    let x := cmd 0x200 0 .killing false
    (s.ctx 0).cmd = some x ∧ x.op = some .copy ∧ s.outstanding 0 = false ∧ (s.ctx 0).page.reportKills = false ∧ x.pages = [] ∧
    (s.ctx 0).wanted = default ∧ s.hif.pasidNext = none ∧ s.queueRuns 0 = false ∧ s.tier.fetches = [] ∧
    s.fab.jobs = [] ∧ ((after (.killDone (.context 0) 0) s).ctx 0).cmd.map (·.phase) = some .rerun := by decide +kernel

theorem witness_KillsAndPassesComplete_radio :
    let s := radioUnder 0x100 0 .killing
    ∃ x, s.radioCmd 0 = some x ∧ x.phase = .killing ∧
      (after (.killDone (.radio 0) 0) s).radioCmd 0 = some { x with phase := .rerun, done := false, counts := Counts.none, cause := 0 } :=
  ⟨_, rfl, by decide +kernel⟩

theorem witness_KillsAndPassesComplete_check :
    (contended.engine 0).running = some (.context 0) ∧ (contended.engine 0).idleReq = none ∧
    (after (.engineCheckFault 0) contended).reg .checkFaults 0 = 1 := by decide +kernel

/-- A MAP of 1024 × 1024 elements runs on engine 0, and an idle of 64 cycles is asked for. -/
def mapping : State :=
  let x := { cmd 0x100 (1024 * 2 ^ 496 + 1024 * 2 ^ 480) .started false with count := 20000 }
  let s := ctx0.setCtx 0 { ctx0.ctx 0 with cmd := some x }
  s.modEngine 0 fun e => { e with running := some (.context 0), idleReq := some 64 }

theorem witness_KillsAndPassesComplete_pass :
    passNumber .map (1024 * 2 ^ 496 + 1024 * 2 ^ 480 + 0x100 * 2 ^ 20) 2048 = some 1 ∧
    passNumber .map (1024 * 2 ^ 496 + 1024 * 2 ^ 480 + 0x100 * 2 ^ 20) 2047 = none ∧
    ((after (.passBoundary 0 2048) mapping).ctx 0).cmd.map (·.idleAk) = some 64 ∧
    ((after (.passBoundary 0 2047) mapping).ctx 0).cmd.map (·.idleAk) = some 0 := by decide +kernel

theorem witness_KillsAndPassesComplete_radioKill :
    let s := radioUnder 0x100 0 .started
    let s := { s with radio := { s.radio with cmds := s.radio.cmds.map fun p => (p.1, p.2.map fun x => { x with count := 8 }) } }
    ((after (.killRequest (.radio 0) 0x12 7) s).radioCmd 0).map (·.phase) = some .killing ∧
    ((after (.killRequest (.radio 0) 0x12 8) s).radioCmd 0).map (·.phase) = some .started := by decide +kernel

theorem witness_EngineCommandsComplete : underWay (under 0x100 0 .started false) 0 (cmd 0x100 0 .started false) .map ∧
    (Instr.map (.context 0), Op.map) ∈ engineRows (.context 0) := by decide +kernel

theorem witness_RadioEngineCommandsComplete : 
    radioUnderWay (radioUnder 0x102 0 .started) 0 { cmd 0x102 0 .started false with engine := 3 } .convert ∧
    (Instr.convert (.radio 0), Op.convert) ∈ engineRows (.radio 0) := by decide +kernel

theorem witness_DmaCommandsComplete : underWay (under 0x202 0 .started false) 0 (cmd 0x202 0 .started false) .fill ∧
    (Instr.fill 0, Op.fill) ∈ dmaRows 0 ∧ (usesHost .fill = true → (under 0x202 0 .started false).hif.access = true) := by decide +kernel

theorem witness_DmaCommandsComplete_loam :
    underWay (under 0x241 0 .started false) 0 (cmd 0x241 0 .started false) .loamRelease ∧
    let s := under 0x240 0 .started false
    let x := cmd 0x240 0 .started false
    underWay s 0 x .loamAcquire ∧ s.absentPages 0 ((s.sliceOf 0).getD 0) (loamPagesOf (opReads .loamAcquire x.desc)) = [] := by
  decide +kernel

theorem witness_DmaMovesTheBytesItNames :
    let d : Desc := 4 * 2 ^ 352 + 2 * 2 ^ 336
    1 < d.dmaRows ∧ 3 < d.dmaLength / d.elemBytes ∧ (dmaRun (fun _ _ => 0) .fill d 0 0).length = 2 := by decide +kernel

theorem witness_FabricCommandsComplete : underWay (under 0x300 0 .started false) 0 (cmd 0x300 0 .started false) .fload ∧
    (Instr.fload 0, Op.fload) ∈ fabricRows 0 := by decide +kernel

theorem witness_HubCommandsComplete : 
    underWay (under 0x402 (5 * 2 ^ 448) .started false) 0 (cmd 0x402 (5 * 2 ^ 448) .started false) .wait ∧
    (Instr.wait 0, Op.wait) ∈ hubRows 0 := by decide +kernel

-- Allocation and the loam pool --------------------


-- Allocation and the loam pool --------------------

/-- Contexts 0 and 1 on engine 0 with one granule each at the same place; granule 0 of context 0 is spilled, and context 0's command
waits. -/
def twoOnOne (cls : Nat) : State :=
  let a := { (default : Alloc) with engine := some 0, privBytes := granule, hood := some (2 ^ 21), hoodFrames := 1 }
  let s := sliced.setCtx 0 { (default : Ctx) with
    live := true
    page
    alloc := { a with spilled := [0] }
    cmd := some (cmd 0x100 0 .waiting false) }
  let s := s.setCtx 1 { (default : Ctx) with live := true, page, alloc := { a with hood := some (2 ^ 22) } }
  s.setReg .ctxClass cls 0

theorem witness_AllocationEventsComplete_spill : ((twoOnOne 0).ctx 0).live = true ∧ ((twoOnOne 0).ctx 0).waits = true ∧
    (twoOnOne 0).mayExchange 0 = true ∧ (twoOnOne 0).isLc 0 = true ∧ ((twoOnOne 0).ctx 0).alloc.engine = some 0 := by decide +kernel

theorem witness_AllocationEventsComplete_reclaim : (twoOnOne 1).mayExchange 0 = true ∧ (twoOnOne 1).isLc 0 = false ∧
    (twoOnOne 1).overlapIdle 0 = true ∧ ((twoOnOne 1).ctx 0).waits = true := by decide +kernel

theorem witness_AllocationEventsComplete_clear :
    let s := ctx0.modAlloc 0 fun a => { a with clearing := true }
    (s.ctx 0).live = true ∧ (s.ctx 0).alloc.clearing = true ∧ (s.ctx 0).alloc.engine = some 0 := by decide +kernel

/-- One resident page, page 3 of slice 0, in the pool frame `k`. -/
def paged (age : Nat) : State := { sliced with tier := { sliced.tier with
  pages := [(100, { (default : LoamPage) with slice := 0, page := 3, age })] } }

theorem witness_AllocationEventsComplete_age :
    ((after .ageTick (paged 254)).tier.pages.map (·.2.age)) = [255] ∧ ((after .ageTick (paged 255)).tier.pages.map (·.2.age)) = [255] := by
  decide +kernel

def fetching (e : Nat) : State := { sliced with tier := { sliced.tier with
  fetches := [{ slice := 0, page := 3, entry := e, frame := some 100, demand := [], again := false }] } }

theorem witness_LoamEventsComplete_fetch :
    let f : Fetch := { slice := 0, page := 3, entry := 0, frame := some 100, demand := [], again := false }
    ((fetching 0).tier.fetches.find? fun f => f.slice = 0 ∧ f.page = 3 ∧ f.frame ≠ none) = some f ∧ f.frame = some 100 ∧
    (fetching 0).hif.access = true ∧ (fetching 0).sourceBad 0 0 = false ∧
    (after (.fetchCompletion 0 3 [] .failed) (fetching 0)).tier.fetches = [] := by decide +kernel

/-- A prefetch of page 4 is queued, and the slice's one page, of order 9, lies outside the window. -/
def prefetching : State :=
  let e := 1 * 2 ^ 170 + 2 * 2 ^ 154 + 1 * 2 ^ 144
  let old := 1 * 2 ^ 170 + 9 * 2 ^ 154 + 1 * 2 ^ 144
  let s := { sliced with tier := { sliced.tier with
    pages := [(200000, { (default : LoamPage) with slice := 0, page := 3, entry := old, age := 7 })]
    prefetch := [(0, [4])]
    window := [(0, 2)]
    maps := [(0, { (default : LoamMap) with entries := [(3, old), (4, e)] })] } }
  s.setReg .loamQuotaPages 1 0

theorem witness_LoamEventsComplete_prefetch : prefetching.prefetchDue 0 = [4] ∧ prefetching.loamOver 0 = false ∧
    (prefetching.prefetchFrame 0 8).1 = some 200000 ∧ (after (.prefetchStart 0) prefetching).tier.fetches.length = 1 := by decide +kernel

theorem witness_LoamEventsComplete_commit : mayWrite sliced 0 .loamMapCommit ∧ sliced.hif.access = true ∧
    (∀ x ∈ sliced.hostMap 0, sliced.entryRange 0 x.2 = false ∧ entryReserved x.2 = false) ∧
    sliced.refChanges 0 (sliced.hostMap 0) = false ∧ sliced.mapBusy 0 = false ∧
    1 % 2 ^ 32 = (sliced.reg .loamMapEpoch 0 + 1) % 2 ^ 32 ∧
    (after (.loamMapCommit 0 0 1) sliced).mapStatus 0 = 1 ∧
    (after (.loamMapCommit 0 0 1) sliced).reg .loamMapEpoch 0 = 0 := by decide +kernel

/-- A pending map of one page. -/
def mapPending : State := { sliced with tier := { sliced.tier with maps := [(0, { (default : LoamMap) with next := some [(3, 9)] })] } }

theorem witness_LoamEventsComplete_pending : mapPending.sliceOf 0 = some 0 ∧ (mapPending.loamMap 0).next = some [(3, 9)] ∧
    Tab.rising mapPending.tier.maps ∧ (mapPending.takeMap 0).reg .loamMapEpoch 0 = 1 := by decide +kernel

theorem witness_QuotaWritesComplete_loam : mayWrite sliced 0 .loamQuotaPages ∧ sliced.sealed 0 = false ∧
    (after (.loamQuotaPages 0 0 0xFFFFFFFF) sliced).reg .loamQuotaPages 0 = 0xFFFFFFFF := by decide +kernel

theorem witness_QuotaWritesComplete_others : mayWrite sliced 0 .privQuotaFrames ∧ mayWrite sliced 0 .spQuotaBytes ∧
    (ctx0.setReg .spQuotaBytes 65536 0).spBytes 0 ≤ 65536 ∧ mayWrite sliced 0 .lcFloorBytes := by decide +kernel

theorem witness_QuotaWritesComplete_floor : (4194304 : Nat) % 65536 = 0 ∧
    (∀ e, e < 128 → ∀ c ∈ sliced.classOn e false, 4194304 ≤ (sliced.ctx c).alloc.privBase) ∧
    (after (.lcFloorBytes 0 4194304) sliced).reg .lcFloorBytes 0 = 4194304 := by decide +kernel

-- Windows, classes, moves and the tilth table --------------------

/-- An entry of `kind` on `unit` for cell 0: one occurrence from 0 of `len` ns. -/
def entry (kind unit len : Nat) : Nat := 2 ^ 127 + kind * 2 ^ 120 + unit * 2 ^ 113 + len * 2 ^ 48 + len * 2 ^ 24 + 2 ^ 16

/-- A current table that reserves engine 3 for logical engine 0, and core 0. -/
def windowed (len : Nat) : State := { up with tilth := { up.tilth with
  copies := [{ (default : TilthCopy) with entries := [entry 0 0 len, entry 1 0 len], binding := [(0, 4)], ready := true }] } }

theorem witness_TilthAndWindowCommandsComplete_load :
    mayWrite up 0 .tilthLoadData ∧ up.reg .tilthLoadOffset + 16 ≤ 65552 ∧ up.tilthStatus = 0 ∧
    (after (.tilthLoadData 0 (List.replicate 16 1)) up).reg .tilthLoadOffset = 16 := by decide +kernel

theorem witness_TilthAndWindowCommandsComplete_prepared : (windowed 1000).displaced = [] ∧ (windowed 1000).moving = [] := by decide +kernel

theorem witness_TilthAndWindowCommandsComplete_start :
    (windowed 1).currentEntries 0 0 = [entry 0 0 1] ∧ (windowed 1).tilth.windows = [] ∧
    (windowed 1).engineFor 0 (tilthUnit (entry 0 0 1)) = some 3 ∧
    bit ((after (.windowStart 0 0) (windowed 1)).reg .meState 3) 1 = true ∧
    ((after (.windowStart 1 0) (windowed 1)).core 0).window = 1 := by decide +kernel

/-- The same at the end of the occurrence: 1000 ns into the frame. -/
def ended : State :=
  let s := after (.windowStart 0 0) (windowed 1000)
  { s with tbs := [(0, { (default : TimeBase) with count := 1000 * 2 ^ 32 })] }

theorem witness_TilthAndWindowCommandsComplete_end :
    (ended.windowOf 0 0).map (·.key) = some (windowKey (entry 0 0 1000) 0 0) ∧ (ended.windowOf 0 0).map (·.stop) = some 1000 ∧
    (ended.windowOf 0 0).map (·.engine) = some (some 3) ∧ (ended.windowOf 0 0).map (ended.windowOver 0) = some true ∧
    ended.inFrame 0 = 1000 ∧ bit (ended.reg .meState 3) 1 = true ∧ bit ((after (.windowEnd 0 0) ended).reg .meState 3) 1 = false ∧
    (after (.windowEnd 0 0) ended).tilth.windows = [] := by decide +kernel

/-- A MAP of one element at the head of radio queue 0, tagged with cell 0. -/
def radioReady : State :=
  let s := windowed 1000
  { s with radio := { s.radio with cmds := [(0, some { cmd 0x100 0 .waiting false with count := 8, checked := true })] } }

theorem witness_TilthAndWindowCommandsComplete_radio :
    radioReady.ownWindow 0 (tagCell (radioReady.radioTag 0)) = some (3, 0, 1000) ∧
    radioReady.engineFree 3 = true ∧ 0 + countBound 8 ≤ 1000 ∧
    runsHit (((opReads .map (0x100 * 2 ^ 20)) ++ (opWrites .map (0x100 * 2 ^ 20))).flatMap (radioReady.radioView 3).runs)
      (radioReady.heldRuns (some (.radio 0))) = false ∧
    ((after (.radioStart 0 256) radioReady).engine 3).running = some (.radio 0) := by decide +kernel

theorem witness_ClassAndMoveComplete_class :
    let s := sliced.setReg .lcAllowed 1 0
    mayWrite s 0 .ctxClass ∧ s.selected 0 .ctx = 0 ∧ s.sliceOf 0 = some 0 ∧ s.reg .lcAllowed 0 = 1 ∧ (s.ctx 0).live = false ∧
    (after (.setClass 0 0) s).reg .ctxClass 0 = 0 ∧ (after (.setClass 0 1) s).reg .ctxClass 0 = 1 := by decide +kernel

theorem witness_ClassAndMoveComplete_move :
    mayWrite ctx0 0 .ctxMove ∧ ctx0.selected 0 .ctx = 0 ∧ (ctx0.ctx 0).live = true ∧ ctx0.criterion1 0 127 = true := by decide +kernel

/-- A shadow of two entries of one core that overlap. -/
def overlapping : State :=
  let s := up
  { s with tilth := { s.tilth with shadow := Tab.setRun 0 [] 0 (leBytes 16 2 ++ leBytes 16 (entry 1 0 1000) ++ leBytes 16 (entry 1 0 500)) } }

theorem witness_TilthCommitNamesTheFirstFault_overlap :
    overlapping.tilthFormatBad = false ∧ tilthOverlap overlapping.shadowEntries = true ∧
    tilthBindingBad overlapping.shadowEntries = false ∧ overlapping.tilth.copies.length = 0 := by decide +kernel

-- DSP cores, coders and host channels --------------------

/-- Core 0 runs a SLOT handler; cell 0 is enabled on its die and time base, with UE descriptors 0 to 9. -/
def issuing : State :=
  let s := (windowed 1000).modCore 0 fun c => { c with handler := some 2 }
  let s := { s with radio := { s.radio with cells := [(0, { (default : Cell) with enabled := true })] } }
  s.setReg .ueCount 10 0

/-- No operation in the other slots. -/
def alone : Slots := ⟨0, none, none, none⟩

theorem issuing_issues : coreIssues issuing 0 := ⟨by decide +kernel, by decide +kernel, fun _ => rfl⟩

theorem witness_CoreOperationsComplete : coreIssues issuing 0 ∧ ((issuing.core 0).settle.loops.length < 4) ∧
    (∀ l ∈ (issuing.core 0).settle.loops, l.s = 0) ∧
    ((after (.loopm ⟨0, alone⟩ 65535 16 64) issuing).core 0).loops = [⟨1, 64, 65550, 0, 65535, 16⟩] :=
  ⟨issuing_issues, by decide +kernel⟩

/-- Slot A's load of X memory stands beside a step of the ACS group, and lands. -/
theorem test_slots_beside :
    let s := issuing.modCore 0 fun c => c.write 4 [9, 0, 0, 0]
    let s := after (.acsStep ⟨0, { alone with a := some (0, .load 1 0 4 4 0) }⟩) s
    ((s.core 0).bk, (s.core 0).late.length) = (1, 1) := by decide +kernel

theorem witness_BestStateIsTheLargestMetric :
    (∀ k, k ≤ 63 → (fun k => if k = 5 ∨ k = 9 then 3 else 65535) k < 2 ^ 16) ∧
    bestState (fun k => if k = 5 ∨ k = 9 then 3 else 65535) 63 = 5 := by decide +kernel

theorem witness_CoreHubCommandsComplete_core : coreIssues issuing 0 ∧ issuing.cellServes 0 0 = true ∧ issuing.logicalServes 0 0 = true ∧
    issuing.qFree (radioQueue 0) ≠ 0 ∧ issuing.qFree 0x1000 ≠ 0 ∧ 0x3000 + 64 ≤ issuing.radioStackSize :=
  ⟨issuing_issues, by decide +kernel⟩

/-- A job word in core 0's memory: FFT of length 1024. -/
def fftWord : Nat := 0x10 * 2 ^ 248 + 1024 * 2 ^ 176

theorem witness_CoreHubCommandsComplete_code :
    jobReason (leNat (((issuing.modCore 0 fun c => c.write 64 (leBytes 32 fftWord)).core 0).settle.read 64 32)) = none := by decide +kernel

theorem witness_CoreHubCommandsComplete_ue :
    let s := after (.ueRd ⟨0, alone⟩ 9 128) issuing
    (s.radio.ueQueue.find? fun x => x.core = 0) = some ⟨0, 9, 128, none⟩ ∧ s.ueAllowed 0 9 false = true ∧ s.ueAllowed 0 10 false = false ∧
    s.tier.badWords = [] ∧ (after (.ueAccessArrival 0) s).radio.ueQueue = [] := by decide +kernel

theorem witness_CoreHubCommandsComplete_entry :
    let s := issuing.modCore 0 fun c => { c with handler := none, events := [(2, 3)] }
    (s.core 0).due = some 2 ∧ (s.core 0).handler = none ∧ (s.core 0).rewriting = false ∧ bit s.dspService 0 = true ∧
    s.power.vbbOut = false ∧ (s.core 0).pendingDigest = none ∧ ((after (.handlerEntry 0) s).core 0).gReg 4 = 3 := by decide +kernel

theorem witness_CoreProgramCommandsComplete_load :
    mayWrite up 0 .progLoadData ∧ up.reg .progLoadOffset 95 + 16 ≤ 65536 ∧ (up.core 95).pendingDigest = none ∧
    (after (.progLoadData 0 95 (List.replicate 16 7)) up).reg .progLoadOffset 95 = 16 := by decide +kernel

theorem witness_CoreProgramCommandsComplete_rewrite :
    let s := up.modCore 0 fun c => { c with rewriting := true }
    (s.core 0).rewriting = true ∧ ((after (.programRewriteDone 0) s).core 0).rewriting = false := by decide +kernel

theorem witness_CoreProgramCommandsComplete_swap :
    let s := (windowed 1000).modCore 0 fun c => { c with pendingDigest := some (zeros 64) }
    s.swapDue 0 = true ∧ (s.core 0).window = 0 ∧ ((after (.progSwap 0) s).core 0).active = 1 := by decide +kernel

/-- An FFT job and its deadline one ms ahead, staged on die 0. -/
def fftJob (deadline : Nat) : Job := ⟨fftWord + deadline * 2 ^ 208, 0, 0, 0⟩
def staged (deadline : Nat) : State := { issuing with radio := { issuing.radio with staged := [fftJob deadline] } }

theorem witness_CoderCommandsComplete_start :
    let u := (staged 1000000).stageJobs 0
    u.nextJob 0 0x10 = some (fftJob 1000000) ∧ jobOp (fftJob 1000000).word = 0x10 ∧ coderSlots 0x10 = (9, 16) ∧
    (((List.range 16).map fun i => 0 * 32 + 9 + i).find? fun k => u.radio.running.get none k = none) = some 9 ∧
    (worstBk (fftJob 1000000).word : Int) * 10 ≤ u.slack (fftJob 1000000).word * 11 ∧ u.tier.badWords = [] ∧ u.radio.ldpcWait = false := by
  decide +kernel

theorem witness_CoderCommandsComplete_end :
    let r : Running := ⟨fftJob 0, 0, 0, 0, [], [], 0⟩
    let s := { issuing with radio := { issuing.radio with running := [(9, some r)] } }
    s.radio.running.get none (0 * 32 + 9) = some r ∧ (after (.coderJobEnd 0 9) s).radio.running.get none 9 = none := by decide +kernel

/-- An LDPC decode that combines, of a cell on its way here, whose soft buffer has not arrived; its deadline has passed. -/
def lateJob : Job := ⟨1 * 2 ^ 248 + (2 ^ 32 - 5) * 2 ^ 208 + 8 * 2 ^ 202 + 24 * 2 ^ 192 + 2 ^ 151, 0, 0, 0⟩

theorem witness_CoderCommandsComplete_deadline :
    let s := { issuing with radio := { issuing.radio with
      staged := [lateJob]
      cells := [(0, { (default : Cell) with enabled := true, move := some (2, 1, 0), moving := true })] } }
    let u := s.stageJobs 0
    (u.radio.staged.filter fun j => j.die = 0)[0]? = some lateJob ∧ u.eligible lateJob = false ∧ u.slack lateJob.word < 0 := by decide +kernel

theorem witness_CoderCommandsComplete_tail :
    let s (k : Nat) := { issuing with
      ck := 10 ^ 9
      radio := { issuing.radio with cells := [(0, { (default : Cell) with enabled := true, move := some (2, k, 0), moving := true })] } }
    ((s 0).cell 0).moveCk + (s 0).reg .moveTailUs * 825 ≤ (s 0).ck ∧ (s 0).leaving 0 = true ∧ (s 1).leaving 0 = false ∧
    ((after (.moveTailEnd 0) (s 1)).cell 0).moving = false := by decide +kernel

/-- Radio host channel 0 enabled, PASID 0, rings of 64 entries; one descriptor waits that carries 64 bytes for core 0. -/
def channelled : State :=
  let s := issuing.setReg .rhcCfg (2 ^ 31 + 6 * 2 ^ 12 + 6 * 2 ^ 8 + 16 * 2 ^ 3) 0
  let s := s.hostWr 0 0 (leBytes 64 (64 * 2 ^ 208 * 2 ^ 208))
  let s := s.modChannel 0 fun c => { c with downTail := 1 }
  let s := s.setReg .rhcPasid 0 0
  s

theorem witness_HostChannelCommandsComplete_doorbell :
    let u := channelled.hostPut []
    u.hif.access = true ∧ u.rhcOn 0 = true ∧ 0 ≤ ((64 : W32) - (u.channel 0).downTail).toInt ∧
    ((64 : W32) - (u.channel 0).downTail).toNat ≤ 2 ^ u.rhcDownLog2 0 ∧ ((64 : W32) - (u.channel 0).downHead).toNat ≤ 2 ^ u.rhcDownLog2 0 ∧
    ((after (.downDoorbell 0 64 none []) channelled).channel 0).downTail = 64 := by decide +kernel

theorem witness_HostChannelCommandsComplete_descriptor :
    channelled.rhcOn 0 = true ∧ channelled.reg .rhcPasid 0 < 2 ^ 20 ∧ (channelled.channel 0).downHead ≠ (channelled.channel 0).downTail ∧
    channelled.downReason 0 (64 * 2 ^ 208 * 2 ^ 208) = none ∧ channelled.downReason 0 0 = some 0x0B01 ∧
    ((after (.downDescriptor 0) channelled).channel 0).downHead = 1 := by decide +kernel

theorem witness_HostChannelCommandsComplete_cfg :
    let v : W32 := 0x80006680
    mayWrite up 0 .rhcCfg ∧ v.toNat &&& 0x78000007 = 0 ∧ bit v.toNat 31 = true ∧ up.rhcOn 7 = false ∧ 6 ≤ field v.toNat 15 12 ∧
    6 ≤ field v.toNat 11 8 ∧ 16 ≤ field v.toNat 7 3 ∧ field v.toNat 7 3 ≤ 30 ∧ (∀ k, k < 64 → up.vecGranted k (field v.toNat 26 16) = false) ∧
    (after (.rhcCfg 0 7 v) up).rhcOn 7 = true := by decide +kernel

-- Queues and fronthaul --------------------

/-- Queue 5 enabled as an egress queue of port 0 with 16 words; three words are in it, and RECOVERY is `r`. -/
def queued (r : Nat) : State :=
  let s := up.setReg .qCfg (2 ^ 31 + r * 2 ^ 29 + 2 ^ 28 + 4 * 2 ^ 24) 5
  s.setQueue 5 { (default : Queue) with write := 3, tail := 3 }

theorem witness_QueueOperationsComplete : (queued 1).tidy ∧ (queued 1).qOn 5 = true ∧ (queued 1).qEgress 5 = true ∧
    (queued 1).qRecovery 5 = true ∧ (queued 0).qRecovery 5 = false ∧ (queued 1).qDepth 5 = 3 ∧
    ((after (.queueRead 5 3 .host) (queued 1)).queue 5).read = 3 ∧ ((after (.queueRead 5 3 .host) (queued 1)).queue 5).release = 0 ∧
    ((after (.queueRead 5 3 .host) (queued 0)).queue 5).release = 3 := by decide +kernel

theorem witness_QueueOperationsComplete_rewind :
    let s := after (.queueRead 5 2 .host) (after (.mark 5 .host) (queued 1))
    (s.queue 5).markValid = true ∧ (s.queue 5).read = 2 ∧ ((after (.rewind 5 .host) s).queue 5).read = 0 := by decide +kernel

theorem witness_IllegalQueueOperationsAreIgnored_off :
    let s := (queued 1).setReg .qCfg (2 ^ 28 + 4 * 2 ^ 24) 5
    s.tidy ∧ s.qEgress 5 = true ∧ s.qOn 5 = false ∧ (after (.flush 5 .host) s).reg .qLastIgnored 5 = 0x0A05 := by decide +kernel

theorem witness_IllegalQueueOperationsAreIgnored_recovery :
    (queued 0).tidy ∧ (queued 0).qOn 5 = true ∧ (queued 0).qRecovery 5 = false ∧ (after (.mark 5 .host) (queued 0)).reg .qLastIgnored 5 = 0x0A01 ∧
    ((queued 1).queue 5).markValid = false ∧ (after (.rewind 5 .host) (queued 1)).reg .qLastIgnored 5 = 0x0A02 := by decide +kernel

theorem witness_IllegalQueueOperationsAreIgnored_range :
    (((queued 1).queue 5).read - ((queued 1).queue 5).release).toNat < ((1 : W32) - ((queued 1).queue 5).release).toNat ∧
    (after (.queueRelease 5 1 .host) (queued 1)).reg .qLastIgnored 5 = 0x0A03 ∧ (queued 1).qDepth 5 < 4 ∧
    (after (.queueRead 5 4 .host) (queued 1)).reg .qLastIgnored 5 = 0x0A04 := by decide +kernel

theorem witness_QueueChecksAndSettingsComplete_stale :
    let s := ((queued 0).setReg .qStaleNs 1000 5).setReg .queueTb 0
    let s := { s with tbs := [(0, { (default : TimeBase) with count := 1000 * 2 ^ 32 })] }
    s.qOn 5 = true ∧ s.reg .qStaleNs 5 ≠ 0 ∧ s.qDepth 5 ≠ 0 ∧ (s.queue 5).staleOut = false ∧
    (s.reg .qStaleNs 5 : Int) ≤ since64 s.qns (s.queue 5).since := by decide +kernel

theorem witness_QueueChecksAndSettingsComplete_sample : (queued 0).tidy ∧ (queued 0).qOn 5 = true ∧ (queued 0).qDepth 5 < 2 ^ 32 ∧
    (after (.queueSample 5) (queued 0)).reg .qMaxDepth 5 = 3 := by decide +kernel

theorem witness_QueueChecksAndSettingsComplete_cfg :
    let s := up.setSreg 0 .queueSelect 5
    let v : W32 := 0x84000000
    s.tidy ∧ mayWrite s 0 .qCfg ∧ s.selected 0 .queue = 5 ∧ s.qOn 5 = false ∧ bit v.toNat 31 = true ∧ s.qRecovery 5 = false ∧
    bit v.toNat 29 = false ∧ bit v.toNat 28 = false ∧ 4 ≤ field v.toNat 27 24 ∧ field v.toNat 23 0 = 0 := by decide +kernel

theorem witness_QueueChecksAndSettingsComplete_pool : up.poolUsed (qDie 5) 5 + 2 ^ 4 ≤ 262144 := by decide +kernel

theorem witness_QueueChecksAndSettingsComplete_select : up.isOpen 0 = true ∧ qExists 0x143F = true ∧ qExists 0x1440 = false ∧
    (after (.queueSelect 0 0x143F) up).selected 0 .queue = 0x143F := by decide +kernel

theorem witness_QueueChecksAndSettingsComplete_commits :
    mayWrite up 0 .fhWfqCommit ∧ 1 = (up.reg .fhWfqEpoch 1 + 1) % 2 ^ 32 ∧ 1 ∉ up.fh.weightNext ∧
    mayWrite up 0 .polCommit ∧ 1 = (up.reg .polEpoch 1 + 1) % 2 ^ 32 ∧ 1 ∉ up.fh.profileNext ∧
    mayWrite up 0 .portMode ∧ (∀ l, l < 8 → up.reg .fhPortEnable (1 * 8 + l) ≠ 1) := by decide +kernel

/-- Port 0 is up. -/
def linked : State :=
  let s := queued 0
  let s := s.setReg .fhPortEnable 1 0
  { s with fh := { s.fh with linkUp := 1 } }

def service : Frame := ⟨List.replicate 64 0, true, 0, 0, 0, false, .service⟩
def twoTags : Frame := { service with vlans := 2 }

theorem witness_FronthaulFramesComplete_received : linked.fhUp 0 = true ∧ linked.fh.weightNext = [] ∧ linked.fh.profileNext = [] ∧
    service.fcsOk = true ∧ service.bytes.length ≤ linked.reg .maxFrame 0 ∧ frameMalformed service = false ∧
    frameMalformed twoTags = true ∧ linked.classify 0 0 service = none ∧ (after (.frameReceived 0 service) linked).reg .unclassified 0 = 1 ∧
    (after (.frameReceived 0 twoTags) linked).reg .malformed 0 = 1 := by decide +kernel

theorem witness_FronthaulFramesComplete_transmitted :
    let s := linked.setReg .qEgressPort 0 5
    let u := (dieQueues 0).foldl (fun s q => if s.qEgress q then s.tagHead q else s) s
    (u.nextEgress 0).map (·.1) = some 5 := by decide +kernel

theorem witness_FronthaulFramesComplete_link : linked.fhExists 0 = true ∧ bit (after (.fronthaulLinkChange 0 false true) linked).fh.linkUp 0 = false := by
  decide +kernel

theorem witness_PolicerNeverOverdraws : police 1 0 100 100 100 = (.green, 0, 0) ∧ police 1 0 100 99 100 = (.yellow, 99, 0) ∧
    police 2 2 100 200 200 = (.red, 200, 200) ∧ police 0 0 0 5 5 = (.red, 5, 5) := by decide +kernel

-- Time bases and pins --------------------

/-- Time base 0 at `ns` nanoseconds. -/
def at0 (ns : Nat) : State := { up with tbs := [(0, { (default : TimeBase) with count := ns * 2 ^ 32 })] }

theorem witness_TicksComplete_tick : (at0 5).tidy ∧ (at0 5).boot.inReset = false ∧
    ((after .ckTick (at0 5)).tb 0).count = 5 * 2 ^ 32 + (at0 5).reg .incr 0 := by decide +kernel

theorem witness_TicksComplete_apply :
    let s := { up with ck := 4095, tbs := [(0, { (default : TimeBase) with stepPending := some 7, adjPending := some 250 })] }
    s.tidy ∧ (s.ck + 1) % 4096 = 0 ∧ (s.tb 0).adjPending = some 250 ∧ (s.tb 0).stepPending = some 7 ∧
    ((after .applyTick s).tb 0).count = 7 * 2 ^ 32 ∧ (after .applyTick s).reg .freqAdjPpb 0 = 250 := by decide +kernel

theorem witness_TicksComplete_holdover :
    let s := { (at0 0).setReg .lockState 2 0 with ck := 10 ^ 12 }
    s.tidy ∧ s.reg .lockState 0 = 2 ∧ (s.tb 0).lastCk + s.reg .lossMs 0 * 825000 ≤ s.ck ∧
    (after (.holdoverEntry 0) s).reg .lockState 0 = 3 := by decide +kernel

theorem witness_TicksComplete_delay :
    let s := (linked.setReg .servoSrc 1 7).modTb 7 fun b => { b with master := some (0, 5) }
    s.reg .servoSrc 7 = 1 ∧ (s.tb 7).master = some (0, 5) ∧ s.fhUp 0 = true ∧ (s.tb 7).delayReqs = 0 ∧
    ((after (.delayReq 7) s).tb 7).delayReqs = 1 ∧ (after (.delayReq 7) s).reg .fhTxFrames 0 = 1 := by decide +kernel

/-- A Delay_Resp to the one Delay_Req that time base 0 has outstanding: it left at 100 ns, a Sync had taken 60 ns, the way back 40. -/
theorem witness_TicksComplete_path :
    let s := up.modTb 0 fun b => { b with delayReqAt := some (100 * 2 ^ 16), toSlave := some (50 * 2 ^ 16 + 10 * 2 ^ 16), delayReqs := 1 }
    let m : PtpMsg := { (default : PtpMsg) with source := 5, seq := 1, time := 140, target := (Config.ptpPort 0).toNat }
    (s.tb 0).delayReqAt = some (100 * 2 ^ 16) ∧ m.time * 2 ^ 16 - 100 * 2 ^ 16 - 0 = 50 * 2 ^ 16 - (10 * 2 ^ 16 : Int) ∧
    m.seq = (s.tb 0).delayReqs % 2 ^ 16 ∧ m.target = (Config.ptpPort 0).toNat :=
  ⟨by decide +kernel, by decide, by decide +kernel, rfl⟩

theorem witness_TimeSettingsComplete_step : mayWrite up 0 .stepNs ∧ Reg.outOfRange .stepNs (ofSigned 64 (-3)) = false ∧
    (up.cellNames 7 || up.tilthNames 7) = false ∧ ((after (.stepNs 0 7 (-3)) up).tb 7).stepPending = some (-3) := by decide +kernel

/-- An enabled cell names time base 0. -/
theorem witness_TimeSettingsComplete_named : (issuing.cellNames 0 || issuing.tilthNames 0) = true ∧ mayWrite issuing 0 .frameOffsetNs ∧
    ((after (.frameOffsetNs 0 0 1) issuing).reg .frameOffsetNs 0) = 0 := by decide +kernel

theorem witness_TimeSettingsComplete_source : mayWrite up 0 .servoSrc ∧ (after (.servoSrc 0 1 3) up).reg .lockState 1 = 1 ∧
    (after (.servoSrc 0 1 0) (after (.servoSrc 0 1 3) up)).reg .lockState 1 = 0 := by decide +kernel

/-- A TRIG output enabled in mode 0. -/
def trigWord : W32 := 2 ^ 31

theorem witness_TimeSettingsComplete_trig :
    let s := up.setReg .trigPeriodNs 1000 3
    let s := s.setReg .trigWidthNs 10 3
    mayWrite s 0 .trigCfg ∧ Reg.reservedSet .trigCfg trigWord.toNat = false ∧ trigOn (s.reg .trigCfg 3) = false ∧ trigOn trigWord.toNat = true ∧
    s.trigRulesOk 3 trigWord.toNat (s.reg .trigWidthNs 3) = true ∧ trigMode trigWord.toNat = 0 ∧
    trigOn ((after (.trigCfg 0 3 trigWord) s).reg .trigCfg 3) = true := by decide +kernel

/-- Cell 0 enabled, at the start of a frame and a slot of time base 0. -/
theorem witness_RadioBoundariesComplete_slot : issuing.tidy ∧ issuing.cellSilent 0 = false ∧
    issuing.reached (issuing.cellTb 0) (slotNs (issuing.cellScs 0)) 0 = true ∧ (issuing.cell 0).begun = false ∧
    ((after (.slotBoundary 0) issuing).cell 0).begun = true := by decide +kernel

theorem witness_RadioBoundariesComplete_symbol :
    ((symbolStarts (issuing.cellScs 0)).zipIdx.find? fun p => issuing.reached (issuing.cellTb 0) 1000000 p.1) = some (0, 0) ∧
    issuing.reached 0 frameNs 0 = true := by decide +kernel

theorem witness_RadioBoundariesComplete_away :
    let s := { issuing with tbs := (at0 400000).tbs }
    s.reached 0 frameNs 0 = false ∧ s.reached (s.cellTb 0) (slotNs (s.cellScs 0)) 0 = false ∧
    (∀ a ∈ symbolStarts (s.cellScs 0), s.reached (s.cellTb 0) 1000000 a = false) := by decide +kernel

/-- TRIG 3 with an edge every 1000 ns from time 0 on, of which the one at 1000 is next; the time base stands at `ns`. -/
def trigged (ns : Nat) : State :=
  let s := at0 ns
  let s := ((s.setReg .trigPeriodNs 1000 3).setReg .trigWidthNs 10 3).setReg .trigCfg trigWord.toNat 3
  { s with pins := { s.pins with trigNext := [(3, 1000)] } }

theorem witness_PinCommandsComplete_edge :
    (trigged 999).trigDue 3 = some (1000, 1000) ∧ since64 ((trigged 999).ns 0) 1000 < 0 ∧
    since64 ((trigged 1000).ns 0) 1000 = 0 ∧ since64 ((trigged 1001).ns 0) 1000 = 1 ∧ 1 < since64 ((trigged 1002).ns 0) 1000 ∧
    (trigged 1000).trigCellOn trigWord.toNat = true ∧ bit (after (.trigEdge 3) (trigged 1001)).pins.trig 3 = true ∧
    (after (.trigEdge 3) (trigged 1002)).reg .trigMissed 3 = 1 := by decide +kernel

theorem witness_PinCommandsComplete_pulseEnd :
    let s := { after (.trigEdge 3) (trigged 1000) with tbs := (at0 1010).tbs }
    bit s.pins.trig 3 = true ∧ 0 ≤ since64 (s.ns (s.pins.trigEnd.at 3).2) (s.pins.trigEnd.at 3).1 ∧
    bit (after (.trigPulseEnd 3) s).pins.trig 3 = false := by decide +kernel

theorem witness_PinCommandsComplete_passed : (trigged 1002).passed 0 1000 = true ∧ (trigged 1000).passed 0 1000 = false ∧
    0 < up.reg .incr 0 := by decide +kernel

/-- An edge less than 20 ns after the last, wherever in its cycle it lies. -/
theorem witness_PinCommandsComplete_soon (k : Nat) (h : k < 8) : (k + 1 - 1) * 40 < 20 * 33 * 8 := by omega

/-- Capture input 3 wants both edges, and has had none. -/
def capturing : State := up.setReg .capCfg (2 ^ 7 + 2) 3

theorem witness_PinCommandsComplete_capture :
    capturing.tidy ∧ bit (capturing.reg .capCfg 3) 7 = true ∧ capturing.reg .capCfg 3 % 4 = 2 ∧
    capturing.pins.capLast.get 0 3 = 0 ∧ (after (.capEdge 3 false) capturing).pins.capSeq.get 0 3 = 1 := by decide +kernel

theorem witness_PinCommandsComplete_read :
    let s := after (.capEdge 3 false) capturing
    s.isOpen 0 = true ∧ (s.pins.caps.get [] 3).length = 1 ∧ (after (.capRead 0 3) s).pins.caps.get [] 3 = [] := by decide +kernel

theorem witness_PinCommandsComplete_pps :
    let s := (at0 (10 ^ 9)).setReg .ppsOutCfg (2 ^ 7)
    let s := { s with pins := { s.pins with ppsNext := 10 ^ 9 } }
    let due := ofSigned 64 ((10 ^ 9 : Int) - s.comp 13)
    ceilDiv s.pins.ppsNext (10 ^ 9) * 10 ^ 9 = 10 ^ 9 ∧ bit (s.reg .ppsOutCfg) 7 = true ∧ 0 ≤ since64 (s.ns 0) due ∧
    since64 (s.ns 0) due ≤ 1 ∧ bit (s.reg .ppsOutCfg) 6 = false ∧ (after .ppsOutEdge s).pins.ppsOut = true := by decide +kernel

theorem witness_PinCommandsComplete_ppsEnd :
    let s := { at0 100 with pins := { up.pins with ppsOut := true, ppsEnd := 100 } }
    0 ≤ since64 (s.ns s.pins.ppsTb) s.pins.ppsEnd ∧ (after .ppsOutPulseEnd s).pins.ppsOut = false := by decide +kernel

theorem witness_PinCommandsComplete_calibration : up.calReady .ppsIn = true ∧ (after (.calibration .ppsIn) up).reg .calRuns = 1 := by decide +kernel

-- The fabric's ports, homes and responses --------------------

/-- Port 0 is up, with flit `n` accepted last. -/
def wired (n : Nat) : State :=
  let s := up.setReg .fabPortEnable 1 0
  { s with fab := { s.fab with ports := [(0, { (default : Port) with up := true, rxSeq := n })] } }

/-- A link-control flit of sequence `q`, and a data flit. -/
def control (q : Nat) : Flit :=
  let h := q * 2 ^ 52
  ⟨BitVec.ofNat 64 h, zeros 244, BitVec.ofNat 32 (crc32c (leBytes 8 h ++ zeros 244))⟩

theorem witness_FabricPortEventsComplete_flit :
    ((wired 7).port 0).up = true ∧ (wired 7).xpFitted 0 = true ∧ (wired 7).reg .fabPortEnable 0 ≠ 0 ∧
    (control 7).payload.length = 244 ∧ (control 7).crc.toNat = crc32c (leBytes 8 (control 7).header.toNat ++ (control 7).payload) ∧
    field (control 7).header.toNat 63 52 = ((wired 7).port 0).rxSeq ∧ field (control 8).header.toNat 63 52 ≠ ((wired 7).port 0).rxSeq ∧
    ((after (.flitReceived 0 (control 8)) (wired 7)).port 0).nakOut = true ∧
    (after (.flitReceived 0 { control 7 with crc := 0 }) (wired 7)).reg .crcErrors 0 = 1 := by decide +kernel

theorem witness_FabricPortEventsComplete_data :
    let f := makeFlit 1 0 0 false 0xFF (zeros 244)
    field f.header.toNat 15 14 = 1 ∧ field f.header.toNat 63 52 = (((wired 4095).port 0).rxSeq + 1) % 4096 ∧
    ((after (.flitReceived 0 f) (wired 4095)).port 0).rxSeq = 0 := by decide +kernel

/-- Port 0 with a flit unacknowledged since CK cycle 0, at cycle `n`. -/
def waiting (n : Nat) (retraining : Bool) : State :=
  let s := wired 7
  { s with
    ck := n
    fab := { s.fab with ports := [(0, { (default : Port) with up := true, retraining, replay := [control 1, control 2] })] } }

theorem witness_FabricPortEventsComplete_link :
    (waiting 4125 false).tidy ∧ (after (.retrain 0) (waiting 4125 false)).reg .retrains 0 = 1 ∧
    (after (.retrain 0) (waiting 4124 false)).reg .retrains 0 = 0 ∧
    ((after (.fabricPortDown 0) (waiting 1650000 true)).port 0).up = false ∧
    ((after (.fabricPortDown 0) (waiting 1649999 true)).port 0).up = true ∧ (wired 7).portsTrain = true ∧
    (after (.fabricLinkUp 0 63) (wired 7)).reg .peerId 0 = 63 := by decide +kernel

/-- A NAK of what follows sequence 1. -/
theorem witness_FabricPortEventsComplete_nak :
    let h := 2 ^ 40 + 2 ^ 38
    bit h 38 = true ∧ (((waiting 0 false).linkFields 0 h).port 0).replay = [control 2] ∧
    (((waiting 0 false).linkFields 0 h).port 0).tx = [control 2] := by decide +kernel

/-- Job 9 of slice 0 runs in entry 0 of package 0, with a region of 4 KiB at address 0 under rights `r` (R 4, W 2, A 1). -/
def homed (r : Nat) (ps : List Packet) : State :=
  let s := (wired 0).setReg .packageId 0
  let s := (s.setReg .fabricState 1).setReg .jobState 1 0
  let s := s.setOct .jobCfg (leBytes 32 (9 * 2 ^ 48 + 16 * 2 ^ 32 + 0xFF * 2 ^ 24 + 1 + 2 ^ 64)) 0
  { s with fab := { s.fab with
      jobs := [(0, { (default : JobEntry) with key := zeros 32, windows := [2 ^ 48 + r * 2 ^ 37] })]
      arrived := ps } }

/-- A packet of package 1 for job 9, at address `a` (a whole number of lines). -/
def packet (kind a len : Nat) (payload : Bytes) : Packet :=
  { (default : Packet) with seq := 5, dst := 0, src := 1, kind, job := 9, len, dpa := a, payload }

theorem witness_HomeRequestsComplete_read :
    let p := packet pkRead 4088 8 []
    let s := homed 4 [p]
    s.arrivedOf pkRead (s.homeWaits regionRead) = some p ∧ s.jobIndex p.job = some 0 ∧ s.serveReason 0 p regionRead = none ∧ s.homeBad 0 p = false ∧
    runsHit ((List.range p.extent.2).map fun k => (s.homeDpa 0 (p.dpa + k), 1)) (s.heldRuns none) = false ∧
    (after .fabricRead s).fab.arrived = [] := by decide +kernel

theorem witness_HomeRequestsComplete_write :
    let p := packet pkWrite 0 8 (List.replicate 8 3)
    let s := homed 2 [p]
    s.arrivedOf pkWrite (s.homeWaits regionWritable) = some p ∧ s.serveReason 0 p regionWritable = none ∧ s.homeBad 0 p = false ∧
    (after .fabricWrite s).rd (s.homeDpa 0 7) = 3 ∧ (after .fabricWrite s).rd (s.homeDpa 0 8) = 0 := by decide +kernel

theorem witness_HomeRequestsComplete_atomic :
    let p := packet pkAtomic 0 24 (zeros 24)
    (homed 1 [p]).arrivedOf pkAtomic ((homed 1 [p]).homeWaits regionAtomic) = some p ∧ (homed 1 [p]).serveReason 0 p regionAtomic = none := by decide +kernel

theorem witness_HomeRequestsComplete_refused :
    let p := packet pkWrite 0 8 (zeros 8)
    let q := packet pkRead 4096 8 []
    (homed 4 [p]).arrivedOf pkWrite ((homed 4 [p]).homeWaits regionWritable) = some p ∧ (homed 4 [p]).jobIndex 9 = some 0 ∧ (homed 4 [p]).serveReason 0 p regionWritable = some 2 ∧
    (homed 4 [q]).serveReason 0 q regionRead = some 1 ∧ (after .fabricWrite (homed 4 [p])).reg .homeRefusals = 1 := by decide +kernel

theorem witness_HomeRequestsComplete_drain :
    let p := packet pkDrain 0 0 []
    (homed 4 [p]).arrivedOf pkDrain = some p ∧ (after .drain (homed 4 [p])).fab.arrived = [] := by decide +kernel

/-- A copy of job 9 from package 1 under way in one frame. -/
def buddied (complete : Bool) (p : Packet) : State :=
  let s := homed 4 [p]
  { s with fab := { s.fab with
      buddies := [{ (default : BuddyCopy) with job := 9, src := 1, frames := [1000], length := 2048, complete }] } }

theorem witness_HomeRequestsComplete_bulk :
    let p := packet pkBulkWrite 2 8 (zeros 8)
    let s := buddied false p
    s.arrivedOf pkBulkWrite = some p ∧ bit p.dpa 40 = false ∧ field p.dpa 33 0 * 1024 ≠ 0 ∧
    (s.fab.buddies.find? fun b => b.job = p.job ∧ b.src = p.src ∧ !b.complete).isSome = true ∧
    ceilDiv (4096 + field p.dpa 33 0 * 1024 + p.len) frameBytes ≤ 1 ∧
    ((after .bulkWrite s).fab.buddies.map (·.length)) = [2056] := by decide +kernel

theorem witness_HomeRequestsComplete_bulkRead :
    let p := packet pkBulkRead (1 * 2 ^ 34) 8 []
    let s := buddied true p
    s.arrivedOf pkBulkRead = some p ∧ (s.latestCopy p.job (field p.dpa 39 34)).isSome = true ∧ s.tier.badWords = [] ∧
    (after .bulkRead s).fab.arrived = [] := by decide +kernel

/-- A request of `kind` and purpose `w` to package 1 is outstanding, and a response has arrived. -/
def asked (w : SentFor) (kind : Nat) (payload : Bytes) : State :=
  let s := homed 4 [packet kind 0 payload.length payload]
  { s with fab := { s.fab with out := [{ dest := 1, job := 9, seq := 5, kind := 0, dpa := 0, len := 8, what := w, dropped := false, sentCk := 0, room := 0 }] } }

def request (w : SentFor) : Sent := { dest := 1, job := 9, seq := 5, kind := 0, dpa := 0, len := 8, what := w, dropped := false, sentCk := 0, room := 0 }

theorem witness_ResponsesComplete_lands :
    answers (asked (.load 0 0) pkReadData (zeros 8)) (packet pkReadData 0 8 (zeros 8)) (request (.load 0 0)) ∧
    answers (asked (.atomic 0 0) pkAtomicAck (zeros 8)) (packet pkAtomicAck 0 8 (zeros 8)) (request (.atomic 0 0)) ∧
    answers (asked (.restore 0 0) pkBulkData (zeros 8)) (packet pkBulkData 0 8 (zeros 8)) (request (.restore 0 0)) := by decide +kernel

theorem witness_ResponsesComplete_acks :
    answers (asked (.store 0) pkWriteAck []) (packet pkWriteAck 0 0 []) (request (.store 0)) ∧
    answers (asked (.cell 0) pkCellAck []) (packet pkCellAck 0 0 []) (request (.cell 0)) ∧
    answers (asked (.snapshot 0) pkBulkAck []) (packet pkBulkAck 0 0 []) (request (.snapshot 0)) ∧
    (after .writeAck (asked (.store 0) pkWriteAck [])).fab.out = [] := by decide +kernel

theorem witness_ResponsesComplete_refused :
    answers (asked (.snapshot 0) pkRefuse (zeros 2)) (packet pkRefuse 0 2 (zeros 2)) (request (.snapshot 0)) ∧
    answers (asked (.cell 3) pkRefuse (zeros 2)) (packet pkRefuse 0 2 (zeros 2)) (request (.cell 3)) ∧
    ((after .refuse (asked (.cell 3) pkRefuse (zeros 2))).cell 3).moveFails = 1 ∧
    (after .refuse (asked (.store 0) pkRefuse [2, 0])).fab.refusals.length = 1 := by decide +kernel

theorem witness_ResponsesComplete_drained :
    let s := asked (.drain 1) pkDrainAck []
    let s := { s with fab := { s.fab with drains := [{ (default : RouteDrain) with dest := 1, waiting := [5] }] } }
    answers s (packet pkDrainAck 0 0 []) (request (.drain 1)) ∧ (after .drainAck s).fab.drains = [] := by decide +kernel

theorem witness_ResponsesComplete_cell :
    let p : Packet := { packet pkCellData (3 * 2 ^ 33) 8 (zeros 8) with job := 0 }
    let s := (homed 4 [p]).modCell 3 fun x => { x with move := some (1, 1, 0) }
    s.arrivedOf pkCellData = some p ∧ field p.dpa 40 33 = 3 ∧ (s.cell 3).move = some (p.src, 1, 0) ∧ p.job = 0 ∧
    ((homed 4 [p]).cell 3).move = none := by decide +kernel

-- Routes, windows and jobs --------------------

theorem witness_RouteAndWindowCommandsComplete_table : mayWrite up 0 .routeTable ∧ Reg.sizeOk .routeTable 128 = true ∧
    up.reg .routeStatus ≠ 1 ∧ (after (.routeTable 0 (List.replicate 128 1)) up).oct .routeTable = List.replicate 128 1 := by decide +kernel

theorem witness_RouteAndWindowCommandsComplete_commit :
    let s := up.setOct .routeTable (List.replicate 128 1)
    s.tidy ∧ mayWrite s 0 .routeCommit ∧ 1 = (s.reg .routeEpoch + 1) % 2 ^ 32 ∧ s.fabricOn = false ∧
    (after (.routeCommit 0 1) s).fab.route.get 0 63 = 257 := by decide +kernel

theorem witness_RouteAndWindowCommandsComplete_timeout :
    let x : RouteDrain := { (default : RouteDrain) with dest := 3, waiting := [5] }
    let s := { up with ck := 10 ^ 9, fab := { up.fab with drains := [x] } }
    (s.fab.drains.find? fun x => x.dest = 3) = some x ∧ x.startCk + s.reg .routeDrainUs * 825 ≤ s.ck ∧
    (after (.routeDrainTimeout 3) s).fab.drains = [] := by decide +kernel

theorem witness_RouteAndWindowCommandsComplete_weights :
    let s := up.setReg .weightReq 7 15
    s.tidy ∧ mayWrite s 0 .fabWfqCommit ∧ 1 = (s.reg .fabWfqEpoch + 1) % 2 ^ 32 ∧
    (after (.relevoWfqCommit 0 1) s).fab.weights.get (Reg.dflt .weightReq) (15 * 4 + 1) = 7 := by decide +kernel

theorem witness_RouteAndWindowCommandsComplete_request :
    let s := { asked (.store 0) pkWriteAck [] with ck := 10 ^ 12 }
    (s.fab.out.find? fun o => o.dest = 1 ∧ o.job = 9 ∧ o.seq = (5 : W64).toNat) = some (request (.store 0)) ∧
    (request (.store 0)).sentCk + s.reg .reqTimeoutUs * 825 ≤ s.ck ∧
    (∀ i k, (request (.store 0)).what ≠ .snapshot i ∧ (request (.store 0)).what ≠ .restore i k) := by
  refine ⟨by decide +kernel, by decide +kernel, fun i k => ⟨?_, ?_⟩⟩ <;> intro h <;> cases h

theorem witness_RouteAndWindowCommandsComplete_window :
    mayWrite up 0 .winLoadData ∧ up.selected 0 .job = 0 ∧ Reg.sizeOk .winLoadData 16 = true ∧ up.reg .winLoadOffset 0 + 16 ≤ 16384 ∧
    (after (.winLoadData 0 (List.replicate 16 0)) up).reg .winLoadOffset 0 = 16 := by decide +kernel

theorem witness_RouteAndWindowCommandsComplete_windows :
    let s := (homed 4 []).setReg .winEntries 2 0
    let s := s.modJob 0 fun j => { j with shadow := Tab.setRun 0 [] 0 (leBytes 16 (2 ^ 48 + 2 ^ 39) ++ leBytes 16 (2 ^ 91 + 2 ^ 48 + 0xFE * 2 ^ 40)) }
    let ws := s.shadowWindows 0
    mayWrite s 0 .winCommit ∧ 1 = (s.reg .winEpoch 0 + 1) % 2 ^ 32 ∧ ws ≠ [] ∧
    (∀ r ∈ ws, regionSize r ≠ 0 ∧ regionBase r % 4096 = 0 ∧ (regionOwner r ≤ 63 ∨ 0xFE ≤ regionOwner r) ∧ field r 35 0 = 0) ∧
    anyRegionsHit ws = false ∧ (after (.winCommit 0 1) s).reg .winEpoch 0 = 1 := by decide +kernel

/-- The tenant key of slice 0 is set. -/
def keyed : State :=
  let s := up.setReg .packageId 0
  { s with prot := { s.prot with tenantKeys := [(0, List.replicate 32 1)] } }

theorem witness_JobCommandsComplete_cfg :
    let v : BitVec 256 := 9 * 2 ^ 48 + 0xFF * 2 ^ 24 + 1 + 2 ^ 64
    keyed.tidy ∧ mayWrite keyed 0 .jobCfg ∧ keyed.selected 0 .job = 0 ∧ cfgEnable (keyed.jobBits 0) = false ∧ field v.toNat 17 1 = 0 ∧
    cfgEnable v.toNat = true ∧ keyed.jobReason v.toNat = none ∧ cfgLedger v.toNat = 0 := by decide +kernel

theorem witness_JobCommandsComplete_teardown :
    (homed 4 []).tidy ∧ mayWrite (homed 4 []) 0 .jobTeardown ∧ Reg.outOfRange .jobTeardown 8 = false ∧ (homed 4 []).reg .jobState 0 = 1 ∧
    (after (.jobTeardown 0 8) (homed 4 [])).reg .jobState 0 ≠ 1 := by decide +kernel

theorem witness_JobCommandsComplete_ctxJob :
    let v := 9 * 2 ^ 48 + 15
    mayWrite (homed 4 []) 0 .ctxJobId ∧ (homed 4 []).selected 0 .ctx = 0 ∧ ((homed 4 []).ctx 0).cmd = none ∧ field v 47 16 = 0 ∧
    field v 63 48 ≠ 0 ∧ (homed 4 []).jobIndex (field v 63 48) = some 0 ∧ field v 15 0 < cfgLedger ((homed 4 []).jobBits 0) := by decide +kernel

theorem witness_JobCommandsComplete_fabric :
    mayWrite keyed 0 .fabricCtrl ∧ keyed.fabricOn = false ∧ keyed.pkg ≤ 63 ∧ (homed 4 []).fabricOn = true ∧
    (after (.fabricRevoke 0) (homed 4 [])).reg .fabricState = 0 := by decide +kernel

theorem witness_JobCommandsComplete_snapshot :
    let s := (homed 4 []).setOct .jobCfg (leBytes 32 (9 * 2 ^ 48 + 2 * 2 ^ 24 + 1 + 2 ^ 64)) 0
    mayWrite s 0 .jobSnapshot ∧ s.reg .snapStatus 0 ≠ 1 ∧ cfgBuddy (s.jobBits 0) ≠ 0xFF ∧ s.reg .jobState 0 = 1 ∧ s.jobCtxs 0 = [] := by decide +kernel

theorem witness_JobCommandsComplete_adopt :
    let s := { homed 4 [] with fab := { (homed 4 []).fab with buddies := [{ (default : BuddyCopy) with job := 8, src := 1 }] } }
    mayWrite s 0 .buddyAdopt ∧ (∀ b ∈ s.fab.buddies, b.job ≠ cfgJob (s.jobBits 0)) ∧
    ((after (.buddyAdopt 0 8) s).fab.buddies.map (·.job)) = [9] ∧ mayWrite s 0 .buddyRelease ∧
    (after (.buddyRelease 0 8) s).fab.buddies = [] := by decide +kernel

theorem witness_JobCommandsComplete_restore :
    mayWrite (homed 4 []) 0 .restoreFromBuddy ∧ (63 * 256 + 63) % 256 ≤ 63 ∧ (homed 4 []).reg .jobRestoreStatus 0 ≠ 1 := by decide +kernel

-- Heartbeats, losses and shadows --------------------

theorem witness_HeartbeatsAndLossesComplete_beat :
    let s := up.setReg .hbEnable 1
    s.reg .hbEnable = 1 ∧ (after .heartbeat s).faults.hbSeq = 1 := by decide +kernel

theorem witness_HeartbeatsAndLossesComplete_echo :
    let s := { up with ck := 825000, faults := { up.faults with beats := [(3, 0, 0)] } }
    mayWrite s 0 .hbEcho ∧ (s.sess 0).via ≠ .mailbox ∧ viaPort (s.sess 0).via - 1 = 0 ∧ s.ck ≤ 0 + s.hbLossCk ∧
    (after (.hbEcho 0 3) s).faults.renewed.get 0 0 = 825001 := by decide +kernel

theorem witness_HeartbeatsAndLossesComplete_fence :
    let s := { (homed 4 []).setReg .hbEnable 1 with ck := 10 ^ 12 }
    s.reg .hbEnable = 1 ∧ s.fabricOn = true ∧ s.hbLost = true ∧ (after .selfFence s).reg .fabricState = 0 := by decide +kernel

theorem witness_HeartbeatsAndLossesComplete_scrub : up.tidy ∧ (after (.scrub (.dpa 0) .corrected) up).reg .ceTotal = 1 ∧
    up.tier.badWords.contains (8 / 8) = false ∧ (after (.scrub (.dpa 8) .uncorrectable) up).tier.badWords = [0, 1, 2, 3] := by decide +kernel

theorem witness_HeartbeatsAndLossesComplete_second :
    up.reg .ceReportThreshold < 10000 ∧ (after (.ceSecond (.me 0) 10000) up).reg .ceTotal = 10000 := by decide +kernel

theorem witness_HeartbeatsAndLossesComplete_units :
    bit up.faults.meOut 127 = false ∧ bit up.faults.cdOut 15 = false ∧ bit up.stackService 0 = true ∧
    bit (after (.unitOut (.me 127) false) up).faults.meOut 127 = true := by decide +kernel

theorem witness_HeartbeatsAndLossesComplete_links :
    let s := { up with ck := 82500, faults := { up.faults with linksRetrained := [(23, 2), (24, 1)] } }
    s.linkExists 22 = true ∧ s.faults.linksRetrained.get 0 22 = 0 ∧ s.faults.linksRetrained.get 0 24 = 1 ∧ s.linkUp 24 = true ∧
    s.linkExists 81 = true ∧ s.linkExists 82 = false ∧ (after (.linkDown 24) s).faults.linksOut = [24] ∧
    (after (.linkDown 22) s).faults.linksOut = [] ∧ (after (.linkDown 23) s).faults.linksOut = [] := by decide +kernel

/-- An 8-stack part has no link to a stack that is not fitted. -/
theorem test_links_of_a_build :
    let s := { up with build := .w8 }
    s.linkExists 31 = true ∧ s.linkExists 32 = false ∧ (after (.linkRetrain 32) s).faults.linksRetrained = [] := by decide +kernel

/-- A shadow of context 0's FILL of no bytes on engine 0: copied, and running on engine `e`. -/
def shadowed (e : Option Nat) (ck : Nat) : State := { up with
  ck := ck
  faults := { up.faults with shadows := [{ (default : Shadow) with written := true, engine := 0, shadowEngine := e, desc := 0x100 * 2 ^ 20 }] } }

theorem witness_KillsAndPassesComplete_shadow :
    let s := shadowed (some 8) 0
    (s.engine 8).running = none ∧ s.shadowOn 8 = s.faults.shadows.head? ∧
    (after (.engineCheckFault 8) s).reg .checkFaults 8 = 1 ∧ (after (.engineCheckFault 8) s).reg .meKills 8 = 1 := by decide +kernel

theorem witness_ShadowsAndQuarantineComplete_copy :
    let s := ctx0.modCtx 0 fun x => { x with copying := true }
    (s.ctx 0).copying = true ∧ ((after (.shadowCopyDone 0) s).ctx 0).copying = false := by decide +kernel

theorem witness_ShadowsAndQuarantineComplete_start :
    let s := shadowed none 0
    let w : Shadow := { (default : Shadow) with written := true, engine := 0, shadowEngine := none, desc := 0x100 * 2 ^ 20 }
    (s.faults.shadows.find? fun w => w.written && w.shadowEngine = none) = some w ∧ s.shadowFits w 8 = true ∧ s.shadowReady w 8 = true ∧
    s.shadowFits w 0 = false := by decide +kernel

/-- Every engine but those of die 0 is out: no engine qualifies. -/
theorem witness_ShadowsAndQuarantineComplete_none :
    let s := shadowed none 0
    let s := { s with faults := { s.faults with meOut := 2 ^ 128 - 256 } }
    (List.range 128).filter (fun e => s.shadowFits { (default : Shadow) with written := true, desc := 0x100 * 2 ^ 20 } e) = [] ∧
    (after .shadowStart s).faults.shadows = [] := by decide +kernel

theorem witness_ShadowsAndQuarantineComplete_age :
    let s := shadowed none (10 ^ 12)
    (s.faults.shadows.find? fun w => w.shadowEngine = none && decide (w.selectedCk + s.reg .shadowMaxAgeMs * 825000 ≤ s.ck)).isSome = true ∧
    (after .shadowMaxAge s).faults.shadows = [] := by decide +kernel

theorem witness_ShadowsAndQuarantineComplete_compare :
    let s := shadowed (some 8) 0
    let w := s.faults.shadows.headD default
    let r : ShadowResult := { w.original with engine := 8 }
    (s.faults.shadows.find? fun w => w.shadowEngine = some 8) = some w ∧ sameResult w.original r = true ∧
    sameResult w.original { r with sat := r.sat + 1 } = false ∧ (after (.shadowCompare r none) s).reg .shadowRuns = 1 := by decide +kernel

theorem witness_ShadowsAndQuarantineComplete_quarantine :
    let s := { up.setOct .meQuarantine (leBytes 16 4) with faults := { up.faults with meOut := 4 } }
    s.tidy ∧ mayWrite s 0 .meQuarantine ∧ ((bitsOf 128 0).filter fun e => !bit 4 e) = [] ∧ bit 4 2 = true ∧
    bit (after (.meQuarantine 0 0) s).faults.meOut 2 = false := by decide +kernel

theorem witness_ShadowsAndQuarantineComplete_added :
    (bitsOf 128 (1 : BitVec 128).toNat).filter (fun e => !bit (leNat (up.oct .meQuarantine)) e) = [0] ∧
    (up.setOct .meQuarantine (leBytes 16 1)).unbindable = false ∧
    (let s := { windowed 1000 with faults := { up.faults with meOut := 2 ^ 128 - 2 } }
     (s.setOct .meQuarantine (leBytes 16 1)).unbindable = true ∨ s.unbindable = false) := by decide +kernel

theorem witness_ShadowsAndQuarantineComplete_dies :
    let s := { (up.setReg .cdOutMask 1).setReg .diePllLock 1 with faults := { up.faults with cdOut := 1 } }
    s.tidy ∧ mayWrite s 0 .cdOutMask ∧ Reg.reservedSet .cdOutMask 0 = false ∧ bit (s.reg .cdOutMask) 0 = true ∧ bit (s.reg .diePllLock) 0 = true ∧
    bit (after (.cdOutMask 0 0) s).faults.cdOut 0 = false := by decide +kernel

-- Slices and the host link --------------------

theorem witness_SliceCommandsComplete_load : mayWrite up 0 .pasidLoadData ∧ Reg.sizeOk .pasidLoadData 16 = true ∧
    up.reg .pasidLoadOffset + 16 ≤ 16384 ∧ up.hif.pasidNext = none ∧
    (after (.pasidLoadData 0 (List.replicate 16 0)) up).reg .pasidLoadOffset = 16 := by decide +kernel

theorem witness_SliceCommandsComplete_context : sliced.selected 0 .ctx = 0 ∧ (sliced.ctx 0).live = false ∧ mayWrite sliced 0 .ctxPasid ∧
    mayWrite sliced 0 .ctxPrivReq ∧ Reg.outOfRange .ctxPrivReq 4194304 = false ∧ mayWrite sliced 0 .ctxSharedReq ∧
    Reg.outOfRange .ctxSharedReq 0 = false ∧ (after (.ctxPrivReq 0 4194304) sliced).reg .ctxPrivReq 0 = 4194304 := by decide +kernel

theorem witness_SliceCommandsComplete_freeze : mayWrite sliced 0 .sliceCtrl ∧ sliced.sliceOn 0 = true ∧ sliced.sliceState 0 = 0 ∧
    (after (.freeze 0 0) sliced).sliceState 0 = 2 ∧ (after (.thaw 0 0) (after (.freeze 0 0) sliced)).sliceState 0 = 0 := by decide +kernel

/-- PASID 0 belongs to slice 0, which is frozen. -/
def bound : State :=
  let s := after (.freeze 0 0) sliced
  { s with hif := { s.hif with pasid := [2 ^ 31] } }

theorem witness_SliceCommandsComplete_save : pasidIn bound.hif.pasid 0 0 = true ∧ bound.sliceOn 0 = true ∧ bound.sliceState 0 = 2 ∧
    bound.transferring 0 = false ∧ mayWrite bound 0 .sliceSave ∧ mayWrite bound 0 .sliceRestore ∧
    (after (.sliceSave 0 0 0 0) bound).reg .saveStatus 0 = 1 := by decide +kernel

theorem witness_SliceCommandsComplete_saved :
    let s := after (.sliceSave 0 0 0 0) bound
    s.reg .saveStatus 0 = 1 ∧ s.hif.access = true := by decide +kernel

theorem witness_SliceCommandsComplete_restored :
    let s := after (.sliceRestore 0 0 0 0 false) bound
    let x := s.hif.restores.at 0
    s.reg .sliceRestoreStatus 0 = 1 ∧ s.hif.access = true ∧
    s.restored 0 x (s.hostRd x.pasid x.iova (leNat (s.hostRd x.pasid (x.iova + 0x38) 8))) = none := by
  refine ⟨by decide +kernel, by decide +kernel, rfl⟩

theorem witness_HostLinkCommandsComplete : up.tidy ∧ (after (.functionLevelReset .d3hot) up).hif.access = false ∧
    (ctx0.ctx 0).live = true ∧
    (fetching 0).fetchOf 0 3 false = some { slice := 0, page := 3, entry := 0, frame := some 100, demand := [], again := false } := by decide +kernel

/-- A session-less request of one READ. -/
def plainFrame : Bytes := frameHeader 0x0A 0 4 0 ++ leBytes 4 0

theorem witness_HostLinkCommandsComplete_mailbox : up.hif.mbStatus ≠ 1 ∧ plainFrame.length = 20 ∧ up.boot.inReset = false ∧
    up.boot.halted = false ∧ up.boot.idFail = false ∧ up.mailboxUp = true ∧ frameOk plainFrame = true ∧ leAt plainFrame 3 1 = 0x0A ∧
    (after (.mbReqLen 0 []) up).reg .mbIgnored = 1 ∧ (after (.mbReqLen 8193 []) up).reg .mbIgnored = 1 := by decide +kernel

/-- Context 0 is placed on engine 0. -/
def placed0 : State := ctx0.modCtx 0 fun x => { x with alloc := { x.alloc with engine := some 0 } }

theorem witness_SliceCommandsComplete_sizes : (placed0.ctx 0).live = true ∧ (placed0.ctx 0).alloc.engine ≠ none ∧ mayWrite placed0 0 .ctxPrivReq ∧
    placed0.resizes 0 0 0 = true ∧ placed0.resizes 0 0 33554432 = false := by decide +kernel

theorem witness_HostLinkCommandsComplete_reset : up.hif.access = true ∧ (after (.functionLevelReset .flr) up).hif.flrEnd ≠ none ∧
    (after (.functionLevelReset .d3hot) up).hif.flrEnd = none ∧ (after (.pcieLinkUp 3 5) up).reg .pcieLink = up.reg .pcieLink := by decide +kernel

theorem witness_HostLinkCommandsComplete_records :
    let s := up.modChannel 2 fun c => { c with upIndex := 1 }
    s.tidy ∧ (s.channel 2).upIndex ≠ (s.channel 2).upConsumed ∧
    ((after (.hostRequestFailed (.radioChannel 2 false)) s).channel 2).upIndex = 0 := by decide +kernel

theorem witness_HostLinkCommandsComplete_busy :
    let s := { up with hif := { up.hif with mbStatus := 1 } }
    (after (.mbReqLen 20 plainFrame) s).reg .mbIgnored = 1 ∧ (after (.mbReqLen 0 [7]) up).hif.mbRequest = [7] ∧
    (after (.mbReqLen 20 plainFrame) up).hif.mbStatus ≠ 1 := by decide +kernel

-- Sessions --------------------

/-- A claimed part with a key for role 4. -/
def claimed : State := { up with prot := { up.prot with claimed := true, roleKeys := [(4, List.replicate 32 1)] } }

theorem witness_SessionLifeCompletes_open : claimed.tidy ∧ claimed.sessionsUp .mgmtA = true ∧ (List.replicate 32 (0 : Byte)).length = 32 ∧
    claimed.openRefusal 4 = none ∧ claimed.freeSession = 1 := by decide +kernel

/-- Session 1 is half open for role 4. -/
def halfOpen : State := claimed.setSess 1 { Session.closed with phase := 1, role := 4, via := .mgmtA, nc := zeros 32, nd := zeros 32 }

theorem witness_SessionLifeCompletes_proof : halfOpen.tidy ∧ halfOpen.sessionsUp .mgmtA = true ∧ (halfOpen.sess 1).phase = 1 ∧
    (halfOpen.sess 1).via = .mgmtA := by decide +kernel

theorem witness_SessionLifeCompletes_tags : (∃ tag, tag = halfOpen.handshake 1 "open") ∧
    halfOpen.handshake 1 "open" ++ [0] ≠ halfOpen.handshake 1 "open" := ⟨⟨_, rfl⟩, by simp⟩

theorem witness_SessionLifeCompletes_ends :
    let s := { up with ck := 10 ^ 15, mgmt := { up.mgmt with locked := [4], failed := [(4, [5])], nonces := [(7, 0)] } }
    s.tidy ∧ s.isOpen 0 = true ∧ s.mgmt.resetAsked = false ∧ (s.sess 0).lastCk + s.reg .sessionIdleS * ckSecond ≤ s.ck ∧
    4 ∈ s.mgmt.locked ∧ (∀ t ∈ s.mgmt.failed.get [] 4, t + 60 * ckSecond ≤ s.ck) ∧ 60 * ckSecond ≤ s.ck ∧
    (after (.sessionIdle 0) s).isOpen 0 = false ∧ (after (.lockoutEnd 4) s).mgmt.locked = [] ∧ (after (.nonceLapse 7) s).mgmt.nonces = [] := by
  decide +kernel

theorem witness_SessionLifeCompletes_expired :
    let c : Change := { (default : Change) with nonce := 9, startCk := 0 }
    let s := { up with ck := 60 * ckSecond + 1, mgmt := { up.mgmt with changes := [c] } }
    (s.mgmt.changes.find? fun c => decide (c.nonce = 9) && decide (c.startCk + 60 * ckSecond < s.ck)) = some c ∧
    (after (.changeExpired 9) s).reg .endorseExpired = 1 := by decide +kernel

theorem witness_SessionLifeCompletes_discarded :
    let s := up.setSess 0 { up.sess 0 with bad := 7 }
    6 ≤ s.reg .bootStage ∧ s.tidy ∧ s.reg .bootStage = 7 ∧ s.boot.inReset = false ∧ s.isOpen 0 = true ∧ (s.sess 0).bad = 7 ∧
    (after (.mgmtFrameDiscarded .mgmtA .malformed) s).reg .mgmtRxDiscarded 0 = 1 ∧
    (after (.mgmtFrameDiscarded .mgmtA (.sessionAuth 0)) s).isOpen 0 = false := by decide +kernel

/-- A hub held without identity answers the mailbox alone. -/
theorem witness_SessionLifeCompletes_held :
    let s := { (up.setReg .bootStage 0) with boot := { up.boot with idFail := true } }
    s.sessionsUp .mailbox = false ∧ s.hif.access = true ∧ s.boot.inReset = false ∧
    (after (.openSession .mailbox 0 4 (zeros 32)) s).hif.mbStatus = 2 := by decide +kernel

/-- MGMT-A has the address 10.0.0.1. -/
def addressed : State := up.setOct .ipv4Addr [10, 0, 0, 1, 24, 0, 0, 0] 0

/-- An ARP request for 10.0.0.1. -/
def arp : Bytes := List.replicate 12 0xFF ++ beBytes 2 0x0806 ++ [0, 1, 8, 0, 6, 4, 0, 1] ++ List.replicate 10 2 ++ zeros 6 ++ [10, 0, 0, 1]

theorem witness_SessionLifeCompletes_arp : 6 ≤ addressed.reg .bootStage ∧ beAt arp 12 2 = 0x0806 ∧ beAt arp 20 2 = 1 ∧
    addressed.ownV4 0 ≠ [] ∧ slice arp 38 4 = addressed.ownV4 0 ∧ addressed.familyOn .mgmtA (0xFFFF0A000002 * 2 ^ 16) = true ∧
    up.familyOn .mgmtA (0xFFFF0A000002 * 2 ^ 16) = false := by decide +kernel

/-- A REQUEST of an open session of MGMT-A with the tag that its key gives. -/
theorem witness_SessionLifeCompletes_request :
    let h := frameHeader 0x05 0 4 1 ++ leBytes 4 0
    let f := h ++ hmac256 [] h
    f.length ≤ 1472 ∧ frameOk f = true ∧ leAt f 3 1 = 0x05 ∧ (up.sess 0).phase = 2 ∧ (up.sess 0).via = .mgmtA ∧ up.sessionsUp .mgmtA = true ∧
    slice f (16 + leAt f 6 2) 32 = hmac256 (up.sess 0).keyIn (f.take (16 + leAt f 6 2)) ∧ leAt f 8 8 = (up.sess 0).seqIn + 1 := by decide +kernel

theorem witness_SessionOperationsComplete_entries : up.isOpen 0 = true ∧ Reg.find 0 0 = none ∧
    Reg.find 0x5000 0x05 = some (.routeTable, 0) ∧ Reg.access .routeTable ≠ .wo ∧ Reg.access .jobTeardown = .wo ∧
    Reg.lengthOk .routeTable (zeros 128) = true ∧ Reg.lengthOk .routeTable (zeros 127) = false ∧
    Reg.writeRight .routeTable 4 = none ∧ Reg.writeRight .routeTable 0 = some 0x8001 := by decide +kernel

theorem witness_SessionOperationsComplete_endorsed :
    let s := up.setSess 0 { up.sess 0 with role := 2 }
    Reg.access .domainKey = .rwd ∧ s.role 0 = 2 ∧ Reg.lengthOk .domainKey (zeros 80) = true := by decide +kernel

theorem witness_SessionOperationsComplete_claim : up.mailboxUp = true := by decide +kernel

-- Saves, firmware, resets and start-up --------------------

theorem witness_SavesAndFirmwareComplete_save : mayWrite up 0 .configSave ∧ up.reg .configStatus ≠ 1 ∧ up.mgmt.saveHeld = false := by decide +kernel

theorem witness_SavesAndFirmwareComplete_done :
    let s := { up with mgmt := { up.mgmt with saving := some [0] } }
    s.mgmt.saving = some [0] ∧ s.mgmt.saveHeld = false ∧ s.mgmt.resetAsked = false ∧ (after (.configSaveDone true) s).mgmt.saving = none := by
  decide +kernel

/-- The header of the inactive slot names an empty body. -/
def slotted : State := { up with boot := { up.boot with flash := Tab.setRun 0xFF [] (1 * 2 ^ 26) (zeros 64) } }

theorem witness_SavesAndFirmwareComplete_load : mayWrite slotted 0 .fwLoadData ∧ Reg.sizeOk .fwLoadData 16 = true ∧
    slotBytes - 16 + 16 ≤ slotBytes ∧ slotted.reg .handoverStatus ≠ 1 ∧ slotted.inactiveSlot = 1 := by decide +kernel

theorem witness_SavesAndFirmwareComplete_commit : mayWrite slotted 0 .fwCommit ∧
    Reg.sizeOk .fwCommit (sha512 (slotted.slotImage slotted.inactiveSlot)).length = true ∧
    sha512 (slotted.slotImage slotted.inactiveSlot) ≠ [] := by
  refine ⟨by decide +kernel, ?_, fun h => ?_⟩
  · rw [sha512_length]; rfl
  · have := sha512_length (slotted.slotImage slotted.inactiveSlot)
    rw [h] at this
    cases this

theorem witness_SavesAndFirmwareComplete_handover :
    let s := up.setReg .fwSlotStatus 3
    mayWrite s 0 .handover ∧ s.reg .handoverStatus ≠ 1 ∧ bit (s.reg .fwSlotStatus) s.inactiveSlot = true ∧
    (after (.handover 0 1) s).reg .handoverStatus = 1 := by decide +kernel

theorem witness_SavesAndFirmwareComplete_complete :
    let s := slotted.setReg .handoverStatus 1
    s.tidy ∧ s.mgmt.resetAsked = false ∧ s.boot.reverting = false ∧ s.reg .handoverStatus = 1 := by decide +kernel

theorem witness_SavesAndFirmwareComplete_back :
    let s := { up.setReg .handoverStatus 1 with boot := { up.boot with reverting := true, former := some 1 } }
    s.reg .handoverStatus = 1 ∧ s.boot.reverting = true := by decide +kernel

theorem witness_SavesAndFirmwareComplete_confirm :
    let s := { up.setReg .handoverStatus 2 with ck := 10 ^ 12 }
    s.reg .handoverStatus = 2 ∧ s.boot.handoverCk + s.reg .handoverConfirmMs * 825000 ≤ s.ck ∧ mayWrite s 0 .fwConfirm ∧
    (after .handoverConfirmTimeout s).boot.reverting = true := by decide +kernel

theorem witness_SavesAndFirmwareComplete_hold :
    (queued 1).qRecovery 5 = true ∧
    (let s := (queued 1).modQueue 5 fun x => { x with release := 1 }
     (s.queue 5).release ≠ 0 ∧ (after (.recoveryHoldEnd 5) s).qRecovery 5 = false) ∧
    (let s := { queued 1 with ck := 10 ^ 12 }
     s.reg .bootStage = 7 ∧ s.boot.readyCk + s.reg .recoveryHoldMs * 825000 ≤ s.ck) := by decide +kernel

theorem witness_ResetsKeepWhatTheyMust_reset : (after .resetN ctx0).reg .resetCause = 1 ∧ (after .resetN ctx0).reg .startCount = 1 ∧
    (after (.seqFault 3) ctx0).boot.seqFault = some 3 ∧ (after .thermtrip ctx0).boot.tripFault = true ∧ (after .hubWatchdog ctx0).ctxs = [] := by
  decide +kernel

theorem witness_ResetsKeepWhatTheyMust_request : mayWrite up 0 .resetRequest ∧ up.reg .configStatus ≠ 1 ∧ up.mgmt.saveHeld = false ∧
    up.reg .handoverStatus ≠ 1 ∧ (after (.resetRequest 0 1) up).boot.inReset = true := by decide +kernel

theorem witness_ResetsKeepWhatTheyMust_release :
    let s := after (.seqFault 3) up
    s.latched = true ∧ s.boot.inReset = true ∧ s.boot.removed = false ∧ (after .suppliesRestored s).boot.removed = true ∧
    (after .resetN up).latched = false ∧ (after .resetN up).boot.inReset = true ∧ (after .resetRelease (after .resetN up)).boot.inReset = false := by decide +kernel

theorem witness_ResetsKeepWhatTheyMust_test :
    let s := after .resetN { up with boot := { up.boot with testMode := true } }
    s.boot.inReset = true ∧ s.boot.testMode = true ∧ (after .resetRelease s).boot.inReset = true := by decide +kernel

/-- What the rest of the part answers at a stage's end: all good. -/
def goodBoot : BootInput := ⟨true, false, 0x1FFFFFF, 0xFFF, 0x1005, true⟩

/-- A part out of reset at boot stage `n`. -/
def stage (n : Nat) : State := { (State.reset.setReg .bootStage n) with boot := { State.reset.boot with inReset := false } }

theorem witness_BootStagesComplete_first : (stage 0).tidy ∧ (stage 0).boot.inReset = false ∧ (stage 0).boot.idFail = false ∧
    (stage 0).boot.halted = false ∧ (stage 0).reg .bootStage = 0 ∧ (goodBoot.pufA || goodBoot.pufB) = true := by decide +kernel

theorem witness_BootStagesComplete_later : (stage 1).reg .bootStage = 1 ∧ (stage 3).reg .bootStage = 3 ∧ (stage 4).reg .bootStage = 4 ∧
    (stage 5).reg .bootStage = 5 ∧ (stage 6).reg .bootStage = 6 ∧ (stage 6).tidy ∧ (stage 6).boot.halted = false := by decide +kernel

/-- Flash with no image: the signature of an image header is missing. -/
theorem witness_BootStagesComplete_halt : ((stage 2).flashRd 0 0 4).map BitVec.toNat = [255, 255, 255, 255] ∧
    ((stage 2).flashRd 1 0 4).map BitVec.toNat = [255, 255, 255, 255] := by decide +kernel

-- Power and clocks --------------------

theorem witness_PowerCommandsComplete_thermal : up.tidy ∧ -(2 ^ 15) ≤ (-32768 : Int) ∧ (32767 : Int) < 2 ^ 15 ∧
    (up.setRegI .coolantIn (-640)).regI .coolantIn = -640 := by decide +kernel

theorem witness_PowerCommandsComplete_avs :
    let s := { up with power := { up.power with stepped := [(15, 2)] } }
    s.tidy ∧ s.power.stepped.get 0 0 = 0 ∧ s.power.stepped.get 0 15 ≠ 0 ∧ s.ck < s.power.stepped.get 0 15 - 1 + 825000 ∧
    s.power.stepped.get 0 15 - 1 + 825000 ≤ 825001 ∧ s.power.setPoint.get 0 15 = 0 := by decide +kernel

theorem witness_PowerCommandsComplete_rails :
    let s := after (.railOutOfRange 25 (.overcurrent 9)) up
    up.reg .handoverStatus ≠ 1 ∧ 25 ∈ s.power.overcurrent ∧ s.reg .throttleStage = 4 ∧
    (after (.railOutOfRange 25 .overcurrentClear) s).power.overcurrent = [] := by decide +kernel

theorem witness_PowerCommandsComplete_cap : mayWrite up 0 .powerCapW ∧ Reg.outOfRange .powerCapW (up.reg .maxPackageW) = false ∧
    up.reg .maxPackageW < 2 ^ 16 ∧ (∀ c ∈ up.tilth.copies, c.admitMw ≤ 1000 * up.reg .maxPackageW) := by decide +kernel

theorem witness_PowerCommandsComplete_sensor :
    bit (leNat ((after (.sensorCalibration 24 3 true) up).oct .sensorInvalidMask)) 99 = true := by decide +kernel

theorem witness_PowerCommandsComplete_flow :
    let s := { up with power := { up.power with flowLowMs := 1000 } }
    s.tidy ∧ (after .flowLow s).power.flowOut = true ∧ (after .flowLow s).reg .throttleStage = 4 ∧ (after .flowLow up).reg .throttleStage = 0 := by
  decide +kernel

/-- Rail 22 fails to answer the third time in a row. -/
theorem witness_PowerCommandsComplete_silent :
    let s := { up.setOct .regMap (List.replicate 52 1) with power := { up.power with fails := [(22, 2)] } }
    let x : RailSample := { rail := 22, answered := false, mv := 0, ma := 0, status := 0 }
    s.railMapped 22 = true ∧ s.power.fails.get 0 x.rail = 2 ∧ (after (.pmbAlert x) s).reg .pmbusErrors = 1 := by decide +kernel

theorem witness_ThrottleIsTheLowestStep :
    up.predict 1000 0 ≤ 5000000 ∧ up.lowestStep 1000 5000000 = 0 ∧ up.chooseStep 1000 5000000 = 0 ∧
    up.throttleNow ≤ up.lowestStep 1000 5000000 ∧ (∀ j, j ≤ 66 → 0 < up.predict 1000 j) ∧ up.chooseStep 1000 0 = 66 ∧
    (up.setReg .throttleStage 4).throttleNow = 66 ∧ (up.setReg .throttleStage 4).lowestStep 1000 5000000 < 66 := by decide +kernel

theorem witness_ClockCommandsComplete_ref : up.tidy ∧ up.reg .clkState ≠ 1 ∧ (up.setReg .clkState 1).reg .clkState = 1 ∧
    (after (.refRestored false) (after .refLost up)).reg .clkState = 2 ∧
    (after (.refRestored true) (after (.refRestored false) (after .refLost up))).reg .clkState = 0 ∧
    (after .rootPllUnlock up).reg .resetCause = 5 ∧ (after .rootPllUnlock (after .refLost up)).reg .resetCause = 0 := by decide +kernel

theorem witness_ClockCommandsComplete_die :
    let s := up.setReg .diePllLock 0x1FFFFFF
    bit (s.reg .diePllLock) 24 = true ∧ bit (up.reg .diePllLock) 0 = false ∧ bit ((after (.diePllUnlock 24) s).reg .diePllLock) 24 = false ∧
    bit ((after (.diePllRelock 0) up).reg .diePllLock) 0 = true := by decide +kernel

theorem witness_ClockCommandsComplete_stall :
    let s := { up with build := .w8 }
    s.fitted (.stack 8) = false ∧ up.fitted (.stack 8) = true ∧ (after (.crossingStall (.stack 8)) s).reg .xingStalls = 0 ∧
    (after (.crossingStall (.stack 8)) up).reg .xingStalls = 1 := by decide +kernel

theorem witness_ClockCommandsComplete_rclk : mayWrite up 0 .rclkCfg ∧ Reg.outOfRange .rclkCfg 0 = false ∧ Reg.reservedSet .rclkCfg 0 = false ∧
    up.fhExists (0 % 16) = true := by decide +kernel

-- The dictionary, the stores and the arithmetic --------------------

theorem witness_WritesNeedTheRight : up.tidy ∧ up.isOpen 0 = true ∧ (up.sess 0).via ≠ .mailbox ∧ up.mgmt.resetAsked = false ∧
    Reg.find 0x5000 0x04 = some (.domainKey, 0) ∧ Reg.lengthOk .domainKey (zeros 80) = true ∧ Reg.access .domainKey = .rwd ∧
    Reg.access .routeTable = .rw ∧ Reg.perSession .routeTable = false ∧ (up.setSess 0 { up.sess 0 with role := 0 }).role 0 = 0 ∧
    Reg.access .routeEpoch = .ro ∧ (after (.write 0 0x5000 0x04 (zeros 80)) up).reg .dictLastIgnored = 0x8003 := by decide +kernel

theorem witness_WritesNeedTheRight_service : Reg.access .portMode = .rws ∧ (up.setSess 0 { up.sess 0 with role := 1 }).role 0 ≠ 4 ∧
    Reg.writeRight .portMode 1 = some 0x8001 ∧ Reg.writeRight .portMode 4 = none := by decide +kernel

theorem witness_StepsKeepTheStoresTidy : State.reset.tidy ∧ up.tidy ∧ ctx0.tidy ∧ (after .ageTick (paged 3)).tidy := by decide +kernel

theorem witness_StepsKeepTheStoresTidy_step : step up = .next up ∧ step { up with pending := [.ageTick] } = exec .ageTick up := ⟨rfl, rfl⟩

theorem witness_FormatsRoundTrip :
    fmtFP16.decode 0x0001 ≠ .nan ∧ fmtFP16.encode false (fmtFP16.decode 0x0001) = (0x0001, false) ∧
    fmtFP16.decode 0xFC01 = .nan ∧ fmtFP16.encode false (fmtFP16.decode 0xFC01) = (0x7E00, false) ∧
    fmtE2M1.encode false (fmtE2M1.decode 0x9) = (0x9, false) := by decide +kernel

theorem witness_PacketsOpenAsTheyWereSealed :
    let p := packet pkWrite 0 8 (zeros 8)
    (homed 4 []).packetKey p = some (zeros 32) ∧ p.payload.length = p.carried ∧ p.len < 2 ^ 11 := by decide +kernel

theorem witness_KaolinResultIsOrderFree : List.Perm [Fl.fin false 1 0, .fin true 3 5] [.fin true 3 5, .fin false 1 0] :=
  List.Perm.swap _ _ _

theorem witness_KaolinProductEntry :
    let k : Kao := Kao.zero
    (k.addFl (-10) (.fin false 3 (-11))).v = 1 ∧ (k.addFl (-10) (.fin false 3 (-11))).satLo = true ∧
    (k.addFl (-10) (.fin true 1 181)).v = 1 - 2 ^ 191 ∧ (k.addFl (-10) (.fin true 1 181)).satHi = true := by decide +kernel

theorem witness_NanIsCanonical : fmtE5M2.decode 0x7D = .nan ∧ (fmtFP32.encode true (fmtE5M2.decode 0xFD)).1 = 0x7FC00000 := by decide +kernel

end Sys2Proof.Tests
end

section
/-! O55: what no command changes. `State.fixed` is the pair that the obligation speaks of, the queue of waiting commands and the
build; here are the rules that carry it through the shapes the operations are written in: an update of other fields, a choice, a
fold, and the answers `Except`, `Option` and `Out`. -/

namespace Sys2Proof.Machine

/-- What every operation of the machine leaves as it is: the queue of waiting commands and the build. -/
def State.fixed (s : State) : List Instr × Build := (s.pending, s.build)

/-- An update of other fields, whatever it writes there. -/
@[simp] theorem State.fixed_with (s : State) {ck regs octs prot host mem ctxs engines tier tilth hif queues fh tbs pins mesh faults
    mgmt radio fab boot power free} :
    State.fixed ⟨s.pending, s.build, ck, regs, octs, prot, host, mem, ctxs, engines, tier, tilth, hif, queues, fh, tbs, pins, mesh,
      faults, mgmt, radio, fab, boot, power, free⟩ = s.fixed := rfl

@[simp] theorem State.fixed_ite {c : Prop} [Decidable c] {a b : State} (h : a.fixed = b.fixed) :
    (if c then a else b).fixed = b.fixed := by
  split
  · exact h
  · rfl

/-- A fold keeps what each of its steps keeps. -/
theorem foldl_keeps {α β γ : Type} {m : β → γ} {f : β → α → β} (h : ∀ q x, m (f q x) = m q) (l : List α) (q : β) :
    m (l.foldl f q) = m q := by
  induction l generalizing q with
  | nil => rfl
  | cons x l ih => rw [List.foldl_cons, ih, h]

@[simp] theorem State.fixed_foldl {α : Type} {f : State → α → State} (h : ∀ s x, (f s x).fixed = s.fixed) (l : List α)
    (s : State) : (l.foldl f s).fixed = s.fixed :=
  foldl_keeps h l s

/-- The state of a pair that is taken apart by a match. -/
theorem State.fixed_of_snd {α : Type} {p : α × State} {a : α} {t : State} (h : p = (a, t)) : t.fixed = p.2.fixed := by
  rw [h]

/-- A register's rule that answers a state answers one with the same queue and build. -/
def State.keepsOk (s : State) (x : Except Nat State) : Prop := ∀ t, x = .ok t → t.fixed = s.fixed

@[simp] theorem State.keepsOk_ok {s t : State} : s.keepsOk (.ok t) ↔ t.fixed = s.fixed := by
  simp [State.keepsOk]

@[simp] theorem State.keepsOk_error {s : State} {e : Nat} : s.keepsOk (.error e) := fun _ h => by cases h

theorem State.keepsOk_ite {c : Prop} [Decidable c] {s : State} {a b : Except Nat State} (ha : s.keepsOk a) (hb : s.keepsOk b) :
    s.keepsOk (if c then a else b) := by
  split
  · exact ha
  · exact hb

/-- An operation that answers a state answers one with the same queue and build. -/
def State.keepsSome (s : State) (x : Option State) : Prop := ∀ t, x = some t → t.fixed = s.fixed

@[simp] theorem State.keepsSome_some {s t : State} : s.keepsSome (some t) ↔ t.fixed = s.fixed := by
  simp [State.keepsSome]

@[simp] theorem State.keepsSome_none {s : State} : s.keepsSome none := fun _ h => by cases h

theorem State.keepsSome_of_fixed {s t : State} {x : Option State} (hx : t.keepsSome x) (h : t.fixed = s.fixed) : s.keepsSome x :=
  fun u hu => (hx u hu).trans h

@[simp] theorem State.fixed_getD {s t : State} {x : Option State} (h : t.fixed = s.fixed) (hx : s.keepsSome x) :
    (x.getD t).fixed = s.fixed := by
  cases x with
  | none => exact h
  | some u => exact hx u rfl

/-- A command completes in a next state with the same queue and build. -/
def State.answers (s : State) (o : Out) : Prop := ∃ t, o = .next t ∧ t.fixed = s.fixed

@[simp] theorem State.answers_next {s t : State} : s.answers (.next t) ↔ t.fixed = s.fixed := by
  simp [State.answers]

/-- `State.answers` in the words of the obligation. -/
theorem State.exists_of_answers {s : State} {o : Out} (h : s.answers o) :
    ∃ t, o = .next t ∧ t.pending = s.pending ∧ t.build = s.build := by
  obtain ⟨t, ho, ht⟩ := h
  obtain ⟨hp, hb⟩ := Prod.mk.inj ht
  exact ⟨t, ho, hp, hb⟩

end Sys2Proof.Machine
end

section
/-! O55: every operation keeps `State.fixed`, one lemma for each, in the order of the model's files. An operation that answers a
pair keeps it in the pair's state, one that may answer no state in the state it answers (`State.keepsOk`, `State.keepsSome`), and
one that takes an operation as an argument keeps it when that operation does. -/

namespace Sys2Proof.Machine

/-! ### Machine/Ops.lean -/

@[simp] theorem State.setReg_fixed (s : State) (r : Reg) (v : Nat) (i : Nat) : (s.setReg r v i).fixed = s.fixed := by
  unfold State.setReg
  split <;> simp

@[simp] theorem State.setRegI_fixed (s : State) (r : Reg) (v : Int) (i : Nat) :
    (s.setRegI r v i).fixed = s.fixed := by simp [State.setRegI]

@[simp] theorem State.bump_fixed (s : State) (r : Reg) (i : Nat) (n : Nat) : (s.bump r i n).fixed = s.fixed := by simp [State.bump]

@[simp] theorem State.bumpIf_fixed (s : State) (b : Bool) (r : Reg) (i : Nat) (n : Nat) :
    (s.bumpIf b r i n).fixed = s.fixed := by simp [State.bumpIf]

@[simp] theorem State.setOct_fixed (s : State) (r : Reg) (v : Bytes) (i : Nat) : (s.setOct r v i).fixed = s.fixed := by
  unfold State.setOct
  split <;> simp

@[simp] theorem State.draw_fixed {α : Type} (s : State) (f : Nat → α) : (s.draw f).2.fixed = s.fixed := by simp [State.draw]

@[simp] theorem State.choose_fixed (s : State) (l : List Nat) : (s.choose l).2.fixed = s.fixed := by simp [State.choose]

@[simp] theorem State.random_fixed (s : State) (n : Nat) : (s.random n).2.fixed = s.fixed := by simp [State.random]

@[simp] theorem State.wr_fixed (s : State) (a : Nat) (b : Byte) : (s.wr a b).fixed = s.fixed := by simp [State.wr]

@[simp] theorem State.wrRun_fixed (s : State) (a : Nat) (bs : Bytes) : (s.wrRun a bs).fixed = s.fixed := by simp [State.wrRun]

@[simp] theorem State.clear_fixed (s : State) (a n : Nat) : (s.clear a n).fixed = s.fixed := by simp [State.clear]

@[simp] theorem State.copyRange_fixed (s : State) (a to_ n : Nat) :
    (s.copyRange a to_ n).fixed = s.fixed := by simp [State.copyRange]

@[simp] theorem State.hostWr_fixed (s : State) (pasid iova : Nat) (bs : Bytes) :
    (s.hostWr pasid iova bs).fixed = s.fixed := by simp [State.hostWr]

@[simp] theorem State.setCtx_fixed (s : State) (c : Nat) (x : Ctx) : (s.setCtx c x).fixed = s.fixed := by simp [State.setCtx]

@[simp] theorem State.modCtx_fixed (s : State) (c : Nat) (f : Ctx → Ctx) : (s.modCtx c f).fixed = s.fixed := by simp [State.modCtx]

@[simp] theorem State.modPage_fixed (s : State) (c : Nat) (f : Page → Page) :
    (s.modPage c f).fixed = s.fixed := by simp [State.modPage]

@[simp] theorem State.modAlloc_fixed (s : State) (c : Nat) (f : Alloc → Alloc) :
    (s.modAlloc c f).fixed = s.fixed := by simp [State.modAlloc]

@[simp] theorem State.modWanted_fixed (s : State) (c : Nat) (f : Wanted → Wanted) :
    (s.modWanted c f).fixed = s.fixed := by simp [State.modWanted]

@[simp] theorem State.modEngine_fixed (s : State) (e : Nat) (f : Engine → Engine) :
    (s.modEngine e f).fixed = s.fixed := by simp [State.modEngine]

@[simp] theorem State.setSliceState_fixed (s : State) (n v : Nat) :
    (s.setSliceState n v).fixed = s.fixed := by simp [State.setSliceState]

@[simp] theorem State.setSync_fixed (s : State) (n k v : Nat) : (s.setSync n k v).fixed = s.fixed := by simp [State.setSync]

@[simp] theorem State.msixWrite_fixed (s : State) (i v : Nat) : (s.msixWrite i v).fixed = s.fixed := by
  dsimp only [State.msixWrite]
  repeat' split
  all_goals simp

@[simp] theorem State.bar2Write_fixed (s : State) (off : Nat) (value : W32) : (s.bar2Write off value).fixed = s.fixed := by
  dsimp only [State.bar2Write]
  repeat' split
  all_goals simp

@[simp] theorem State.hostStore_fixed (s : State) (w : HostWrite) : (s.hostStore w).fixed = s.fixed := by
  unfold State.hostStore
  split <;> simp

@[simp] theorem State.hostPut_fixed (s : State) (ws : List HostWrite) : (s.hostPut ws).fixed = s.fixed := by simp [State.hostPut]

@[simp] theorem State.raiseVector_fixed (s : State) (v : Nat) : (s.raiseVector v).fixed = s.fixed := by
  dsimp only [State.raiseVector]
  split <;> simp

@[simp] theorem State.modTb_fixed (s : State) (n : Nat) (f : TimeBase → TimeBase) :
    (s.modTb n f).fixed = s.fixed := by simp [State.modTb]

@[simp] theorem State.modCell_fixed (s : State) (c : Nat) (f : Cell → Cell) :
    (s.modCell c f).fixed = s.fixed := by simp [State.modCell]

@[simp] theorem State.modCore_fixed (s : State) (n : Nat) (f : DspCore → DspCore) :
    (s.modCore n f).fixed = s.fixed := by simp [State.modCore]

@[simp] theorem State.setSess_fixed (s : State) (n : Nat) (x : Session) : (s.setSess n x).fixed = s.fixed := by simp [State.setSess]

@[simp] theorem State.modSess_fixed (s : State) (n : Nat) (f : Session → Session) :
    (s.modSess n f).fixed = s.fixed := by simp [State.modSess]

@[simp] theorem State.setSreg_fixed (s : State) (n : Nat) (r : Reg) (v : Nat) (i : Nat) :
    (s.setSreg n r v i).fixed = s.fixed := by simp [State.setSreg]

/-! ### Machine/Queue.lean -/

@[simp] theorem State.setQueue_fixed (s : State) (q : Nat) (x : Queue) :
    (s.setQueue q x).fixed = s.fixed := by simp [State.setQueue]

@[simp] theorem State.modQueue_fixed (s : State) (q : Nat) (f : Queue → Queue) :
    (s.modQueue q f).fixed = s.fixed := by simp [State.modQueue]

@[simp] theorem State.usedBy_fixed (s : State) (q core : Nat) : (s.usedBy q core).fixed = s.fixed := by simp [State.usedBy]

@[simp] theorem State.sendOn_fixed (s : State) (port : Nat) (dest bs : Bytes) :
    (s.sendOn port dest bs).fixed = s.fixed := by simp [State.sendOn]

@[simp] theorem State.sessionFrame_fixed (s : State) (n type : Nat) (payload : Bytes) :
    (s.sessionFrame n type payload).2.fixed = s.fixed := by simp [State.sessionFrame]

@[simp] theorem State.raiseMailbox_fixed (s : State) : s.raiseMailbox.fixed = s.fixed := by simp [State.raiseMailbox]

@[simp] theorem State.noticeSession_fixed (s : State) (n depth : Nat) :
    (s.noticeSession n depth).fixed = s.fixed := by simp [State.noticeSession]

@[simp] theorem State.qIgnore_fixed (s : State) (q code : Nat) : (s.qIgnore q code).fixed = s.fixed := by simp [State.qIgnore]

@[simp] theorem State.regionWrite_fixed (s : State) (n off : Nat) (bs : Bytes) : (s.regionWrite n off bs).fixed = s.fixed := by
  induction bs generalizing s off with
  | nil => rfl
  | cons b bs ih =>
    dsimp only [State.regionWrite]
    rw [ih]
    split <;> simp

@[simp] theorem State.coreEvent_fixed (s : State) (core type : Nat) :
    (s.coreEvent core type).fixed = s.fixed := by simp [State.coreEvent]

@[simp] theorem State.noticeBare_fixed (s : State) (q bitNo : Nat) : (s.noticeBare q bitNo).fixed = s.fixed := by
  dsimp only [State.noticeBare]
  split <;> simp

@[simp] theorem State.levelRearm_fixed (s : State) (q : Nat) : (s.levelRearm q).fixed = s.fixed := by simp [State.levelRearm]

@[simp] theorem State.serviceStore_fixed (s : State) (q : Nat) (i : W32) (ws : List QWord) :
    (s.serviceStore q i ws).fixed = s.fixed := by simp [State.serviceStore]

@[simp] theorem State.qCommit_fixed (s : State) (q : Nat) (ws : List QWord) :
    (s.qCommit q ws).fixed = s.fixed := by simp [State.qCommit]

@[simp] theorem State.qSync_fixed (s : State) (q : Nat) : (s.qSync q).fixed = s.fixed := by simp [State.qSync]

@[simp] theorem State.syncServices_fixed (s : State) : s.syncServices.fixed = s.fixed := by simp [State.syncServices]

@[simp] theorem State.putRead_fixed (s : State) (q : Nat) : (s.putRead q).fixed = s.fixed := by simp [State.putRead]

@[simp] theorem State.qProduce_fixed (s : State) (q : Nat) (tag : Nat) (item : Bytes) (bad : Bool) :
    (s.qProduce q tag item bad).2.fixed = s.fixed := by
  dsimp only [State.qProduce]
  repeat' split
  all_goals simp

@[simp] theorem State.eventChain_fixed (fuel : Nat) (s : State) (n type index sub selector detail : Nat) (time : Option Nat) :
    (State.eventChain fuel s n type index sub selector detail time).fixed = s.fixed := by
  induction fuel generalizing s n type index sub selector detail time with
  | zero => rfl
  | succ fuel ih =>
    dsimp only [State.eventChain]
    repeat' split
    all_goals simp [ih]

@[simp] theorem State.eventTo_fixed (s : State) (n type index sub selector detail : Nat) (time : Option Nat) :
    (s.eventTo n type index sub selector detail time).fixed = s.fixed := by simp [State.eventTo]

@[simp] theorem State.event_fixed (s : State) (type index sub selector detail : Nat) (time : Option Nat) :
    (s.event type index sub selector detail time).fixed = s.fixed := by simp [State.event]

@[simp] theorem State.notice_fixed (s : State) (q bitNo : Nat) : (s.notice q bitNo).fixed = s.fixed := by
  dsimp only [State.notice]
  split <;> simp

@[simp] theorem State.level_fixed (s : State) (q : Nat) : (s.level q).fixed = s.fixed := by simp [State.level]

@[simp] theorem State.qPush_fixed (s : State) (q : Nat) (tag : Nat) (item : Bytes) (bad : Bool) :
    (s.qPush q tag item bad).2.fixed = s.fixed := by simp [State.qPush]

@[simp] theorem State.qRead_fixed (s : State) (q n : Nat) : (s.qRead q n).fixed = s.fixed := by simp [State.qRead]

@[simp] theorem State.qReleaseTo_fixed (s : State) (q : Nat) (i : W32) : (s.qReleaseTo q i).fixed = s.fixed := by
  dsimp only [State.qReleaseTo]
  repeat' split
  all_goals simp

@[simp] theorem State.qMarkNow_fixed (s : State) (q : Nat) : (s.qMarkNow q).fixed = s.fixed := by simp [State.qMarkNow]

@[simp] theorem State.qRewind_fixed (s : State) (q : Nat) : (s.qRewind q).fixed = s.fixed := by
  unfold State.qRewind
  split <;> simp

@[simp] theorem State.rewindQueues_fixed (s : State) (core : Nat) :
    (s.rewindQueues core).fixed = s.fixed := by simp [State.rewindQueues]

@[simp] theorem State.qFlush_fixed (s : State) (q : Nat) : (s.qFlush q).fixed = s.fixed := by simp [State.qFlush]

@[simp] theorem State.qSetRecovery_fixed (s : State) (q : Nat) (on : Bool) :
    (s.qSetRecovery q on).fixed = s.fixed := by simp [State.qSetRecovery]

@[simp] theorem State.qEnable_fixed (s : State) (q : Nat) : (s.qEnable q).fixed = s.fixed := by simp [State.qEnable]

@[simp] theorem State.foldReport_fixed (s : State) (f : FaultRec) : (s.foldReport f).fixed = s.fixed := by
  dsimp only [State.foldReport]
  repeat' split
  all_goals simp

@[simp] theorem State.raise_fixed (s : State) (f : FaultRec) : (s.raise f).fixed = s.fixed := by simp [State.raise]

@[simp] theorem State.fault_fixed (s : State) (code severity kind unit : Nat) (context : Nat) (data : Nat) :
    (s.fault code severity kind unit context data).fixed = s.fixed := by simp [State.fault]

/-! ### Machine/Identity.lean -/

@[simp] theorem State.flashWr_fixed (s : State) (d off : Nat) (bs : Bytes) :
    (s.flashWr d off bs).fixed = s.fixed := by simp [State.flashWr]

@[simp] theorem State.flashErase_fixed (s : State) (d off n : Nat) :
    (s.flashErase d off n).fixed = s.fixed := by simp [State.flashErase]

@[simp] theorem State.report_fixed (s : State) (m : Nat) (words : List Nat) :
    (s.report m words).fixed = s.fixed := by simp [State.report]

/-! ### Machine/Alloc.lean -/

@[simp] theorem State.pickStart_fixed (s : State) (k : Nat) (gs : List (Nat × Nat)) : (s.pickStart k gs).2.fixed = s.fixed := by
  dsimp only [State.pickStart]
  split <;> simp

@[simp] theorem State.setFrame_fixed (s : State) (f : Nat) (u : FrameUse) :
    (s.setFrame f u).fixed = s.fixed := by simp [State.setFrame]

@[simp] theorem State.badRecord_fixed (s : State) (code severity a : Nat) (context : Nat) (job : Nat) :
    (s.badRecord code severity a context job).fixed = s.fixed := by simp [State.badRecord]

@[simp] theorem State.dropBad_fixed (s : State) (w : Nat) : (s.dropBad w).fixed = s.fixed := by simp [State.dropBad]

@[simp] theorem State.healRange_fixed (s : State) (a n : Nat) : (s.healRange a n).fixed = s.fixed := by simp [State.healRange]

@[simp] theorem State.retireGranules_fixed (s : State) (a n : Nat) :
    (s.retireGranules a n).fixed = s.fixed := by simp [State.retireGranules]

@[simp] theorem State.freeUnits_fixed (s : State) (a unit k : Nat) : (s.freeUnits a unit k).fixed = s.fixed := by
  induction k with
  | zero => rfl
  | succ k ih =>
    dsimp only [State.freeUnits]
    repeat' split
    all_goals simp [ih]

@[simp] theorem State.freeFrame_fixed (s : State) (f : Nat) : (s.freeFrame f).fixed = s.fixed := by simp [State.freeFrame]

@[simp] theorem State.ctxPut_fixed (s : State) (c t off : Nat) (b : Byte) : (s.ctxPut c t off b).fixed = s.fixed := by
  dsimp only [State.ctxPut]
  repeat' split
  all_goals simp

@[simp] theorem State.ctxPutRun_fixed (s : State) (c t off : Nat) (bs : Bytes) : (s.ctxPutRun c t off bs).fixed = s.fixed := by
  induction bs generalizing s off with
  | nil => rfl
  | cons b bs ih => simp [State.ctxPutRun, ih]

/-! ### Machine/Mesh.lean -/

@[simp] theorem State.routeOf_fixed (s : State) (dist : Tab Nat) (r d : Nat) : (s.routeOf dist r d).2.fixed = s.fixed := by
  dsimp only [State.routeOf]
  split
  · rfl
  · split
    · rfl
    · split
      next h => simp [State.fixed_of_snd h]
      next h => simp [State.fixed_of_snd h]

@[simp] theorem State.routeTables_fixed (s : State) : s.routeTables.2.fixed = s.fixed := by
  dsimp only [State.routeTables]
  refine foldl_keeps (m := fun q : _ × State => q.2.fixed) (fun q d => ?_) _ _
  refine foldl_keeps (m := fun q : _ × State => q.2.fixed) (fun q r => ?_) _ _
  simp

@[simp] theorem State.startRoutes_fixed (s : State) : s.startRoutes.fixed = s.fixed := by simp [State.startRoutes]

@[simp] theorem State.meshSettle_fixed (s : State) : s.meshSettle.fixed = s.fixed := by
  unfold State.meshSettle
  split <;> simp

@[simp] theorem State.meshSwitch_fixed (s : State) : s.meshSwitch.fixed = s.fixed := by simp [State.meshSwitch]

/-! ### Machine/Dict.lean -/

@[simp] theorem State.ignoreWrite_fixed (s : State) (n idx sub reason : Nat) :
    (s.ignoreWrite n idx sub reason).fixed = s.fixed := by simp [State.ignoreWrite]

@[simp] theorem State.byRules_fixed (s : State) (r : Reg) (v : Nat) (op : State → Except Nat State) (h : s.keepsOk (op s)) :
    s.keepsOk (s.byRules r v op) := by
  dsimp only [State.byRules]
  repeat' split
  all_goals simp [h]

@[simp] theorem State.take_fixed (s : State) (n idx sub : Nat) (x : Except Nat State) (h : s.keepsOk x) :
    (s.take n idx sub x).fixed = s.fixed := by
  cases x with
  | ok t => exact h t rfl
  | error e => simp [State.take]

@[simp] theorem State.answer_fixed (s : State) (n : Nat) (payload : Bytes) : (s.answer n payload).fixed = s.fixed := by
  dsimp only [State.answer]
  repeat' split
  all_goals simp

@[simp] theorem State.answerWrite_fixed (s : State) (n ty : Nat) :
    (s.answerWrite n ty).fixed = s.fixed := by simp [State.answerWrite]

@[simp] theorem State.write_fixed (s : State) (n : Nat) (r : Reg) (fam v : Nat) (op : State → Except Nat State)
    (h : s.keepsOk (op s)) :
    (s.write n r fam v op).fixed = s.fixed := by
  dsimp only [State.write]
  repeat' split
  all_goals simp [h]

@[simp] theorem State.writeOctets_fixed (s : State) (n : Nat) (r : Reg) (fam : Nat) (v : Bytes) (op : State → Except Nat State)
    (h : s.keepsOk (op s)) : (s.writeOctets n r fam v op).fixed = s.fixed := by
  dsimp only [State.writeOctets]
  repeat' split
  all_goals simp [h]

/-! ### Machine/FabCore.lean -/

@[simp] theorem State.modJob_fixed (s : State) (i : Nat) (f : JobEntry → JobEntry) :
    (s.modJob i f).fixed = s.fixed := by simp [State.modJob]

@[simp] theorem State.setPort_fixed (s : State) (p : Nat) (x : Port) : (s.setPort p x).fixed = s.fixed := by simp [State.setPort]

@[simp] theorem State.tickPort_fixed (s : State) (n : Nat) : (s.tickPort n).fixed = s.fixed := by simp [State.tickPort]

@[simp] theorem State.linkTick_fixed (s : State) : s.linkTick.fixed = s.fixed := by simp [State.linkTick]

@[simp] theorem State.transmit_fixed (s : State) (n : Nat) (x : Port) (ps : List Packet) :
    (s.transmit n x ps).fixed = s.fixed := by simp [State.transmit]

@[simp] theorem State.flushPort_fixed (s : State) (n : Nat) : (s.flushPort n).fixed = s.fixed := by simp [State.flushPort]

@[simp] theorem State.flushFabric_fixed (s : State) : s.flushFabric.fixed = s.fixed := by simp [State.flushFabric]

@[simp] theorem State.hand_fixed (s : State) (p : Packet) : (s.hand p).fixed = s.fixed := by
  unfold State.hand
  split <;> simp

@[simp] theorem State.request_fixed (s : State) (what : SentFor) (dest job kind dpa len : Nat) (payload : Bytes) (dclass : Nat) :
    (s.request what dest job kind dpa len payload dclass).fixed = s.fixed := by simp [State.request]

@[simp] theorem State.respond_fixed (s : State) (r : Packet) (kind : Nat) (payload : Bytes) :
    (s.respond r kind payload).fixed = s.fixed := by simp [State.respond]

@[simp] theorem State.refusePacket_fixed (s : State) (r : Packet) (reason : Nat) :
    (s.refusePacket r reason).fixed = s.fixed := by simp [State.refusePacket]

@[simp] theorem State.mark_fixed (s : State) (p : Packet) : (s.mark p).fixed = s.fixed := by simp [State.mark]

/-! ### Machine/Loam.lean -/

@[simp] theorem State.touchPages_fixed (s : State) (n : Nat) (ps : List Nat) :
    (s.touchPages n ps).fixed = s.fixed := by simp [State.touchPages]

@[simp] theorem State.askFetch_fixed (s : State) (n p e : Nat) (cs : List Nat) (again : Bool) :
    (s.askFetch n p e cs again).fixed = s.fixed := by simp [State.askFetch]

@[simp] theorem State.dropPage_fixed (s : State) (f : Nat) : (s.dropPage f).fixed = s.fixed := by
  dsimp only [State.dropPage]
  repeat' split
  all_goals simp

@[simp] theorem State.freePoolFrame_fixed (s : State) (n : Nat) : (s.freePoolFrame n).2.fixed = s.fixed := by
  dsimp only [State.freePoolFrame]
  split <;> simp

@[simp] theorem State.takeFrame_fixed (s : State) (n k : Nat) : (s.takeFrame n k).2.fixed = s.fixed := by
  induction k generalizing s with
  | zero => rfl
  | succ k ih =>
    dsimp only [State.takeFrame]
    split
    next h => simp [State.fixed_of_snd h]
    next h =>
      have ht := State.fixed_of_snd h
      repeat' split
      all_goals simp [ih, ht]

@[simp] theorem State.prefetchFrame_fixed (s : State) (n k : Nat) : (s.prefetchFrame n k).2.fixed = s.fixed := by
  induction k generalizing s with
  | zero => rfl
  | succ k ih =>
    dsimp only [State.prefetchFrame]
    split
    next h => simp [State.fixed_of_snd h]
    next h =>
      have ht := State.fixed_of_snd h
      repeat' split
      all_goals simp [ih, ht]

@[simp] theorem State.giveFrame_fixed (s : State) (i k : Nat) : (s.giveFrame i k).fixed = s.fixed := by simp [State.giveFrame]

@[simp] theorem State.frameFor_fixed (s : State) (drops : Bool) (f : Fetch) : (s.frameFor drops f).2.fixed = s.fixed := by
  dsimp only [State.frameFor]
  repeat' split
  all_goals simp

@[simp] theorem State.fillFetches_fixed (s : State) (drops : Bool) (k i : Nat) : (s.fillFetches drops k i).fixed = s.fixed := by
  induction k generalizing s i with
  | zero => rfl
  | succ k ih =>
    dsimp only [State.fillFetches]
    split
    · rfl
    · split
      · exact ih s _
      · split
        next h => simp [ih, State.fixed_of_snd h]
        next h => simp [ih, State.fixed_of_snd h]

@[simp] theorem State.refillFetches_fixed (s : State) (drops : Bool) :
    (s.refillFetches drops).fixed = s.fixed := by simp [State.refillFetches]

@[simp] theorem State.demandFetch_fixed (s : State) (n p e : Nat) (cs : List Nat) (again : Bool) :
    (s.demandFetch n p e cs again).fixed = s.fixed := by simp [State.demandFetch]

@[simp] theorem State.sweepStale_fixed (s : State) (n : Nat) : (s.sweepStale n).fixed = s.fixed := by simp [State.sweepStale]

@[simp] theorem State.sweepOver_fixed (s : State) (n k : Nat) : (s.sweepOver n k).fixed = s.fixed := by
  induction k generalizing s with
  | zero => rfl
  | succ k ih =>
    dsimp only [State.sweepOver]
    repeat' split
    all_goals simp [ih]

@[simp] theorem State.sweepLoam_fixed (s : State) (n : Nat) : (s.sweepLoam n).fixed = s.fixed := by simp [State.sweepLoam]

@[simp] theorem State.stopPrefetch_fixed (s : State) : s.stopPrefetch.fixed = s.fixed := by simp [State.stopPrefetch]

@[simp] theorem State.switchMap_fixed (s : State) (n : Nat) : (s.switchMap n).fixed = s.fixed := by
  unfold State.switchMap
  split <;> simp

@[simp] theorem State.takeMap_fixed (s : State) (c : Nat) : (s.takeMap c).fixed = s.fixed := by
  unfold State.takeMap
  split <;> simp

@[simp] theorem State.settleLoam_fixed (s : State) : s.settleLoam.fixed = s.fixed := by simp [State.settleLoam]

@[simp] theorem State.dropWaitingFetches_fixed (s : State) (c : Nat) :
    (s.dropWaitingFetches c).fixed = s.fixed := by simp [State.dropWaitingFetches]

@[simp] theorem State.acquirePages_fixed (s : State) (c n : Nat) (ps : List Nat) : (s.acquirePages c n ps).fixed = s.fixed := by
  dsimp only [State.acquirePages]
  rw [State.touchPages_fixed, State.fixed_foldl]
  intro s p
  rw [State.fixed_with, State.modCtx_fixed]

@[simp] theorem State.releasePages_fixed (s : State) (c n : Nat) (ps : List Nat) :
    (s.releasePages c n ps).fixed = s.fixed := by simp [State.releasePages]

@[simp] theorem State.queuePrefetch_fixed (s : State) (c n : Nat) (ps : List Nat) : (s.queuePrefetch c n ps).fixed = s.fixed := by
  dsimp only [State.queuePrefetch]
  split <;> simp

/-! ### Machine/Context.lean -/

@[simp] theorem State.writeRecord_fixed (s : State) (c bits : Nat) :
    (s.writeRecord c bits).fixed = s.fixed := by simp [State.writeRecord]

@[simp] theorem State.raiseQueue_fixed (s : State) (c : Nat) : (s.raiseQueue c).fixed = s.fixed := by
  unfold State.raiseQueue
  split <;> simp

@[simp] theorem State.copyResident_fixed (s : State) (c h e : Nat) :
    (s.copyResident c h e).fixed = s.fixed := by simp [State.copyResident]

@[simp] theorem State.writeImage_fixed (s : State) (c : Nat) : (s.writeImage c).fixed = s.fixed := by
  dsimp only [State.writeImage]
  repeat' split
  all_goals simp

@[simp] theorem State.clearStore_fixed (s : State) (e : Nat) : (s.clearStore e).fixed = s.fixed := by simp [State.clearStore]

@[simp] theorem State.freePriv_fixed (s : State) (c : Nat) (from_ : Nat) : (s.freePriv c from_).fixed = s.fixed := by
  dsimp only [State.freePriv]
  split <;> simp

@[simp] theorem State.freeShared_fixed (s : State) (c : Nat) (from_ : Nat) : (s.freeShared c from_).fixed = s.fixed := by
  dsimp only [State.freeShared]
  split <;> simp

@[simp] theorem State.freeHood_fixed (s : State) (c : Nat) : (s.freeHood c).fixed = s.fixed := by
  dsimp only [State.freeHood]
  split <;> simp

@[simp] theorem State.refreshFloors_fixed (s : State) : s.refreshFloors.fixed = s.fixed := by simp [State.refreshFloors]

@[simp] theorem State.growRegion_fixed (s : State) (n k : Nat) : (s.growRegion n k).fixed = s.fixed := by
  induction k generalizing s with
  | zero => rfl
  | succ k ih =>
    dsimp only [State.growRegion]
    split
    · split
      next h => simp [ih, State.fixed_of_snd h]
      next h => simp [State.fixed_of_snd h]
    · rfl

@[simp] theorem State.growRegions_fixed (s : State) : s.growRegions.fixed = s.fixed := by simp [State.growRegions]

@[simp] theorem State.trimRegion_fixed (s : State) (n k : Nat) : (s.trimRegion n k).fixed = s.fixed := by
  induction k generalizing s with
  | zero => rfl
  | succ k ih =>
    dsimp only [State.trimRegion]
    repeat' split
    all_goals simp [ih]

@[simp] theorem State.trimRegions_fixed (s : State) : s.trimRegions.fixed = s.fixed := by simp [State.trimRegions]

@[simp] theorem State.settleRegions_fixed (s : State) : s.settleRegions.fixed = s.fixed := by simp [State.settleRegions]

@[simp] theorem State.trimHood_fixed (s : State) (c n : Nat) : (s.trimHood c n).fixed = s.fixed := by
  dsimp only [State.trimHood]
  split <;> simp

@[simp] theorem State.newHood_fixed (s : State) (c die n : Nat) : s.keepsSome (s.newHood c die n) := by
  dsimp only [State.newHood]
  split
  next h =>
    have ht := State.fixed_of_snd h
    split <;> simp [ht]
  next => simp

@[simp] theorem State.settleHood_fixed (s : State) (c die n : Nat) : s.keepsSome (s.settleHood c die n) := by
  dsimp only [State.settleHood]
  repeat' split
  all_goals simp

@[simp] theorem State.placeSpot_fixed (s : State) (c e g sh : Nat) : (s.placeSpot c e g sh).fixed = s.fixed := by
  dsimp only [State.placeSpot]
  split
  next h =>
    have ht := State.settleHood_fixed _ _ _ _ _ h
    repeat' split
    all_goals simp [ht]
  next => rfl

@[simp] theorem State.placeAt_fixed (s : State) (c e sh : Nat) : (s.placeAt c e sh).fixed = s.fixed := by
  unfold State.placeAt
  split <;> simp

@[simp] theorem State.placeOn_fixed (s : State) (c e : Nat) : (s.placeOn c e).fixed = s.fixed := by simp [State.placeOn]

@[simp] theorem State.freePads_fixed (s : State) (c : Nat) : (s.freePads c).fixed = s.fixed := by
  unfold State.freePads
  split <;> simp

@[simp] theorem State.unplace_fixed (s : State) (c : Nat) : (s.unplace c).fixed = s.fixed := by
  unfold State.unplace
  split <;> simp

@[simp] theorem State.clearCopies_fixed (s : State) (c : Nat) (gs : List Nat) : (s.clearCopies c gs).fixed = s.fixed := by
  unfold State.clearCopies
  split <;> simp

@[simp] theorem State.resize_fixed (s : State) (c priv shared : Nat) : (s.resize c priv shared).fixed = s.fixed := by
  dsimp only [State.resize]
  split
  next t _ h =>
    have ht := State.settleHood_fixed _ _ _ _ _ h
    rw [State.refreshFloors_fixed, ← ht]
    exact State.fixed_getD (by simp) (State.keepsSome_of_fixed (State.settleHood_fixed _ _ _ _) (by simp))
  next => rfl

@[simp] theorem State.cutAllocations_fixed (s : State) (cs : List Nat) (excess : Nat) :
    (s.cutAllocations cs excess).fixed = s.fixed := by
  induction cs generalizing s excess with
  | nil => rfl
  | cons c cs ih =>
    dsimp only [State.cutAllocations]
    split <;> simp [ih]

@[simp] theorem State.takeReq_fixed (s : State) (c : Nat) (r : Reg) (ask : Option (Nat × Nat)) (sizes : Nat → Nat × Nat) :
    (s.takeReq c r ask sizes).fixed = s.fixed := by
  unfold State.takeReq
  split <;> simp

@[simp] theorem State.takeSizes_fixed (s : State) (c : Nat) (w : Wanted) :
    (s.takeSizes c w).fixed = s.fixed := by simp [State.takeSizes]

@[simp] theorem State.replaceIf_fixed (s : State) (c : Nat) : (s.replaceIf c).fixed = s.fixed := by
  dsimp only [State.replaceIf]
  repeat' split
  all_goals simp

@[simp] theorem State.atBoundary_fixed (s : State) (c : Nat) : (s.atBoundary c).fixed = s.fixed := by
  dsimp only [State.atBoundary]
  repeat' split
  all_goals simp

@[simp] theorem State.tryBoundary_fixed (s : State) (c : Nat) : (s.tryBoundary c).fixed = s.fixed := by
  unfold State.tryBoundary
  split <;> simp

@[simp] theorem State.engineBusy_fixed (s : State) (e ctx mode owner : Nat) :
    (s.engineBusy e ctx mode owner).fixed = s.fixed := by simp [State.engineBusy]

@[simp] theorem State.engineIdle_fixed (s : State) (e : Nat) : (s.engineIdle e).fixed = s.fixed := by simp [State.engineIdle]

@[simp] theorem State.freeEngine_fixed (s : State) (who : Owner) : (s.freeEngine who).fixed = s.fixed := by simp [State.freeEngine]

@[simp] theorem State.leaveRounds_fixed (s : State) (c : Nat) : (s.leaveRounds c).fixed = s.fixed := by simp [State.leaveRounds]

@[simp] theorem State.countRemoved_fixed (s : State) (c : Nat) : (s.countRemoved c).fixed = s.fixed := by
  dsimp only [State.countRemoved]
  repeat' split
  all_goals simp

@[simp] theorem State.dropRequests_fixed (s : State) (c : Nat) : (s.dropRequests c).fixed = s.fixed := by simp [State.dropRequests]

@[simp] theorem State.endCommand_fixed (s : State) (c : Nat) : (s.endCommand c).fixed = s.fixed := by
  dsimp only [State.endCommand]
  split <;> simp

@[simp] theorem State.teardown_fixed (s : State) (c code cause : Nat) :
    (s.teardown c code cause).fixed = s.fixed := by simp [State.teardown]

@[simp] theorem State.ctxFault_fixed (s : State) (c : Nat) : (s.ctxFault c).fixed = s.fixed := by simp [State.ctxFault]

@[simp] theorem State.removeCtx_fixed (s : State) (c : Nat) : (s.removeCtx c).fixed = s.fixed := by
  dsimp only [State.removeCtx]
  repeat' split
  all_goals simp

/-! ### Machine/Accept.lean -/

@[simp] theorem State.countIgnored_fixed (s : State) (reason : Nat) :
    (s.countIgnored reason).fixed = s.fixed := by simp [State.countIgnored]

@[simp] theorem State.ignoreHead_fixed (s : State) (c reason : Nat) :
    (s.ignoreHead c reason).fixed = s.fixed := by simp [State.ignoreHead]

@[simp] theorem State.ignoreDoorbell_fixed (s : State) (c reason : Nat) (t : W32) :
    (s.ignoreDoorbell c reason t).fixed = s.fixed := by simp [State.ignoreDoorbell]

@[simp] theorem State.pump_fixed (s : State) (c : Nat) (l : List (Nat × Nat)) : (s.pump c l).fixed = s.fixed := by
  induction l generalizing s with
  | nil => rfl
  | cons p l ih =>
    dsimp only [State.pump]
    repeat' split
    all_goals simp [ih]

@[simp] theorem State.pumpFabric_fixed (s : State) (c : Nat) : (s.pumpFabric c).fixed = s.fixed := by
  dsimp only [State.pumpFabric]
  repeat' split
  all_goals simp

@[simp] theorem State.fetchPages_fixed (s : State) (c : Nat) (d : Desc) : (s.fetchPages c d).fixed = s.fixed := by
  unfold State.fetchPages
  split <;> simp

@[simp] theorem State.beginWait_fixed (s : State) (c : Nat) : (s.beginWait c).fixed = s.fixed := by
  dsimp only [State.beginWait]
  repeat' split
  all_goals simp

@[simp] theorem State.shadowSelect_fixed (s : State) (op : Op) (d : Desc) : (s.shadowSelect op d).2.fixed = s.fixed := by
  dsimp only [State.shadowSelect]
  repeat' split
  all_goals simp

@[simp] theorem State.acceptCmd_fixed (s : State) (c : Nat) (op : Op) (d : Desc) :
    (s.acceptCmd c op d).fixed = s.fixed := by simp [State.acceptCmd]

@[simp] theorem State.checkLoop_fixed (s : State) (c k : Nat) : (s.checkLoop c k).fixed = s.fixed := by
  induction k generalizing s with
  | zero => rfl
  | succ k ih =>
    dsimp only [State.checkLoop]
    repeat' split
    all_goals simp [ih]

@[simp] theorem State.checkNext_fixed (s : State) (c : Nat) : (s.checkNext c).fixed = s.fixed := by simp [State.checkNext]

@[simp] theorem State.ignoreWaiting_fixed (s : State) (c reason : Nat) :
    (s.ignoreWaiting c reason).fixed = s.fixed := by simp [State.ignoreWaiting]

@[simp] theorem State.wakeFabric_fixed (s : State) : s.wakeFabric.fixed = s.fixed := by simp [State.wakeFabric]

@[simp] theorem State.checkAll_fixed (s : State) : s.checkAll.fixed = s.fixed := by simp [State.checkAll]

/-! ### Machine/Snapshot.lean -/

@[simp] theorem State.modOut_fixed (s : State) (f : Sent → Sent) : (s.modOut f).fixed = s.fixed := by simp [State.modOut]

@[simp] theorem State.sendBulk_fixed (s : State) (i : Nat) (header : Bool) (bs : Bytes) :
    (s.sendBulk i header bs).fixed = s.fixed := by simp [State.sendBulk]

@[simp] theorem State.sendSnapshot_fixed (s : State) (i id : Nat) :
    (s.sendSnapshot i id).fixed = s.fixed := by simp [State.sendSnapshot]

@[simp] theorem State.endSnapshot_fixed (s : State) (i : Nat) (ok : Bool) : (s.endSnapshot i ok).fixed = s.fixed := by
  unfold State.endSnapshot
  split <;> simp

@[simp] theorem State.settleSnapshot_fixed (s : State) (i : Nat) : (s.settleSnapshot i).fixed = s.fixed := by
  unfold State.settleSnapshot
  split <;> simp

@[simp] theorem State.settleSnapshots_fixed (s : State) : s.settleSnapshots.fixed = s.fixed := by simp [State.settleSnapshots]

/-! ### Machine/Run.lean -/

@[simp] theorem State.setRound_fixed (s : State) (e : Nat) (lc : Bool) (r : Round) :
    (s.setRound e lc r).fixed = s.fixed := by simp [State.setRound]

@[simp] theorem State.passTurns_fixed (s : State) (e : Nat) (ended cs : List Nat) : (s.passTurns e ended cs).2.fixed = s.fixed := by
  induction cs generalizing s with
  | nil => rfl
  | cons c cs ih =>
    dsimp only [State.passTurns]
    repeat' split
    all_goals simp [ih]

@[simp] theorem State.advanceRound_fixed (s : State) (e : Nat) (lc : Bool) (k : Nat) : (s.advanceRound e lc k).fixed = s.fixed := by
  induction k generalizing s with
  | zero => rfl
  | succ k ih =>
    dsimp only [State.advanceRound]
    split
    · rfl
    · split
      · repeat' split
        all_goals simp [ih]
      · split
        next h => simp [State.fixed_of_snd h]
        next h => simp [ih, State.fixed_of_snd h]

@[simp] theorem State.yieldTurn_fixed (s : State) (e : Nat) (lc : Bool) : (s.yieldTurn e lc).fixed = s.fixed := by
  dsimp only [State.yieldTurn]
  split <;> simp

@[simp] theorem State.yieldTurns_fixed (s : State) : s.yieldTurns.fixed = s.fixed := by simp [State.yieldTurns]

@[simp] theorem State.charge_fixed (s : State) (c e n : Nat) : (s.charge c e n).fixed = s.fixed := by simp [State.charge]

@[simp] theorem State.shadowCopy_fixed (s : State) (c : Nat) (x : Cmd) (op : Op) (e : Nat) :
    (s.shadowCopy c x op e).fixed = s.fixed := by
  unfold State.shadowCopy
  split <;> simp

@[simp] theorem State.startCmd_fixed (s : State) (c : Nat) (x : Cmd) (op : Op) (unit : Nat) :
    (s.startCmd c x op unit).fixed = s.fixed := by simp [State.startCmd]

@[simp] theorem State.loadParams_fixed (s : State) (e : Nat) (rd : TierRead) (op : Op) (d : Desc) :
    (s.loadParams e rd op d).fixed = s.fixed := by simp [State.loadParams]

@[simp] theorem State.beginPass_fixed (s : State) (e : Nat) (rd : TierRead) (op : Op) (d : Desc) (p : Nat) :
    (s.beginPass e rd op d p).fixed = s.fixed := by simp [State.beginPass]

@[simp] theorem State.grantEngine_fixed (s : State) (c ak : Nat) : (s.grantEngine c ak).fixed = s.fixed := by
  dsimp only [State.grantEngine]
  repeat' split
  all_goals simp

@[simp] theorem State.grantDma_fixed (s : State) (c : Nat) : (s.grantDma c).fixed = s.fixed := by
  dsimp only [State.grantDma]
  repeat' split
  all_goals simp

@[simp] theorem State.modCmd_fixed (s : State) (c : Nat) (f : Cmd → Cmd) : (s.modCmd c f).fixed = s.fixed := by simp [State.modCmd]

@[simp] theorem State.clearBanks_fixed (s : State) (e : Nat) : (s.clearBanks e).fixed = s.fixed := by simp [State.clearBanks]

@[simp] theorem State.runEngine_fixed (s : State) (c : Nat) (op : Op) : (s.runEngine c op).fixed = s.fixed := by
  unfold State.runEngine
  split <;> simp

@[simp] theorem State.reportStream_fixed (s : State) (c : Nat) (x : Cmd) :
    (s.reportStream c x).fixed = s.fixed := by simp [State.reportStream]

@[simp] theorem State.runDma_fixed (s : State) (c : Nat) (op : Op) : (s.runDma c op).fixed = s.fixed := by
  dsimp only [State.runDma]
  repeat' split
  all_goals simp

@[simp] theorem State.runAcquire_fixed (s : State) (c : Nat) : (s.runAcquire c).fixed = s.fixed := by
  unfold State.runAcquire
  split <;> simp

@[simp] theorem State.runFabric_fixed (s : State) (c : Nat) (op : Op) : (s.runFabric c op).fixed = s.fixed := by
  dsimp only [State.runFabric]
  repeat' split
  all_goals simp

@[simp] theorem State.runHub_fixed (s : State) (c : Nat) (op : Op) : (s.runHub c op).fixed = s.fixed := by
  unfold State.runHub
  split <;> simp

@[simp] theorem State.sendStores_fixed (s : State) (c : Nat) (x : Cmd) :
    (s.sendStores c x).fixed = s.fixed := by simp [State.sendStores]

@[simp] theorem State.fenceAtomics_fixed (s : State) (c : Nat) (x : Cmd) :
    (s.fenceAtomics c x).fixed = s.fixed := by simp [State.fenceAtomics]

@[simp] theorem State.commitOwn_fixed (s : State) (c : Nat) (x : Cmd) (op : Op) : (s.commitOwn c x op).fixed = s.fixed := by
  unfold State.commitOwn
  split <;> simp

@[simp] theorem State.releaseEngine_fixed (s : State) (c : Nat) (x : Cmd) (op : Op) :
    (s.releaseEngine c x op).fixed = s.fixed := by simp [State.releaseEngine]

@[simp] theorem State.countCommit_fixed (s : State) (x : Cmd) (op : Op) :
    (s.countCommit x op).fixed = s.fixed := by simp [State.countCommit]

@[simp] theorem State.shadowWritten_fixed (s : State) (c : Nat) (x : Cmd) : (s.shadowWritten c x).fixed = s.fixed := by
  unfold State.shadowWritten
  split <;> simp

@[simp] theorem State.switchPasid_fixed (s : State) : s.switchPasid.fixed = s.fixed := by
  unfold State.switchPasid
  split <;> simp

@[simp] theorem State.dropUnbound_fixed (s : State) : s.dropUnbound.fixed = s.fixed := by
  refine State.fixed_foldl (fun s c => ?_) _ _
  repeat' split
  all_goals simp

@[simp] theorem State.pasidBoundary_fixed (s : State) : s.pasidBoundary.fixed = s.fixed := by
  unfold State.pasidBoundary
  split <;> simp

@[simp] theorem State.badLoam_fixed (s : State) (c : Nat) (x : Cmd) (op : Op) : (s.badLoam c x op).fixed = s.fixed := by
  refine State.fixed_foldl (fun s p => ?_) _ _
  dsimp only
  split <;> simp

@[simp] theorem State.freezeQueues_fixed (s : State) (cs : List Nat) :
    (s.freezeQueues cs).fixed = s.fixed := by simp [State.freezeQueues]

@[simp] theorem State.freezeImages_fixed (s : State) (cs : List Nat) :
    (s.freezeImages cs).fixed = s.fixed := by simp [State.freezeImages]

@[simp] theorem State.settleFreeze_fixed (s : State) (n : Nat) : (s.settleFreeze n).fixed = s.fixed := by simp [State.settleFreeze]

@[simp] theorem State.settleAll_fixed (s : State) : s.settleAll.fixed = s.fixed := by simp [State.settleAll]

@[simp] theorem State.commitCtx_fixed (s : State) (c : Nat) (x : Cmd) (op : Op) :
    (s.commitCtx c x op).fixed = s.fixed := by simp [State.commitCtx]

@[simp] theorem State.commitOf_fixed (s : State) (c : Nat) : (s.commitOf c).fixed = s.fixed := by
  dsimp only [State.commitOf]
  repeat' split
  all_goals simp

@[simp] theorem State.killCtx_fixed (s : State) (c cause ak : Nat) : (s.killCtx c cause ak).fixed = s.fixed := by
  dsimp only [State.killCtx]
  repeat' split
  all_goals simp

@[simp] theorem State.killDoneCtx_fixed (s : State) (c ak : Nat) : (s.killDoneCtx c ak).fixed = s.fixed := by
  dsimp only [State.killDoneCtx]
  repeat' split
  all_goals simp

@[simp] theorem State.clearShadow_fixed (s : State) (w : Shadow) : (s.clearShadow w).fixed = s.fixed := by
  unfold State.clearShadow
  split <;> simp

@[simp] theorem State.stopShadow_fixed (s : State) (e : Nat) : (s.stopShadow e).fixed = s.fixed := by
  unfold State.stopShadow
  split <;> simp

@[simp] theorem State.preempt_fixed (s : State) (e ak : Nat) : (s.preempt e ak).fixed = s.fixed := by
  dsimp only [State.preempt]
  repeat' split
  all_goals simp

@[simp] theorem State.insertIdle_fixed (s : State) (e left : Nat) (add : Nat → State → State)
    (h : ∀ n s, (add n s).fixed = s.fixed) :
    (s.insertIdle e left add).fixed = s.fixed := by
  dsimp only [State.insertIdle]
  split <;> simp [h]

@[simp] theorem State.addIdle_fixed (c n : Nat) (s : State) : (s.addIdle c n).fixed = s.fixed := by simp [State.addIdle]

@[simp] theorem State.addShadowIdle_fixed (w : Shadow) (n : Nat) (s : State) :
    (s.addShadowIdle w n).fixed = s.fixed := by simp [State.addShadowIdle]

@[simp] theorem State.passBoundary_fixed (s : State) (e ak : Nat) : (s.passBoundary e ak).fixed = s.fixed := by
  dsimp only [State.passBoundary]
  repeat' split
  all_goals simp

/-! ### Machine/Radio.lean -/

@[simp] theorem State.raiseEvent_fixed (s : State) (core type cell slot : Nat) :
    (s.raiseEvent core type cell slot).fixed = s.fixed := by simp [State.raiseEvent]

@[simp] theorem State.setRadioCmd_fixed (s : State) (l : Nat) (x : Option Cmd) :
    (s.setRadioCmd l x).fixed = s.fixed := by simp [State.setRadioCmd]

@[simp] theorem State.modRadioCmd_fixed (s : State) (l : Nat) (f : Cmd → Cmd) :
    (s.modRadioCmd l f).fixed = s.fixed := by simp [State.modRadioCmd]

@[simp] theorem State.countRadioIgnored_fixed (s : State) (reason : Nat) :
    (s.countRadioIgnored reason).fixed = s.fixed := by simp [State.countRadioIgnored]

@[simp] theorem State.radioCheckLoop_fixed (s : State) (l k : Nat) : (s.radioCheckLoop l k).fixed = s.fixed := by
  induction k generalizing s with
  | zero => rfl
  | succ k ih =>
    dsimp only [State.radioCheckLoop]
    repeat' split
    all_goals simp [ih]

@[simp] theorem State.radioCheck_fixed (s : State) (l : Nat) : (s.radioCheck l).fixed = s.fixed := by simp [State.radioCheck]

@[simp] theorem State.radioCheckAll_fixed (s : State) : s.radioCheckAll.fixed = s.fixed := by simp [State.radioCheckAll]

@[simp] theorem State.radioStart_fixed (s : State) (l ak : Nat) : (s.radioStart l ak).fixed = s.fixed := by
  dsimp only [State.radioStart]
  repeat' split
  all_goals simp

@[simp] theorem State.runRadio_fixed (s : State) (l : Nat) (op : Op) : (s.runRadio l op).fixed = s.fixed := by
  unfold State.runRadio
  split <;> simp

@[simp] theorem State.runOwned_fixed (s : State) (who : Owner) (op : Op) : (s.runOwned who op).fixed = s.fixed := by
  unfold State.runOwned
  split <;> simp

@[simp] theorem State.endRadio_fixed (s : State) (l : Nat) (x : Cmd) (code cause : Nat) :
    (s.endRadio l x code cause).fixed = s.fixed := by simp [State.endRadio]

@[simp] theorem State.commitRadio_fixed (s : State) (l : Nat) : (s.commitRadio l).fixed = s.fixed := by
  dsimp only [State.commitRadio]
  repeat' split
  all_goals simp

@[simp] theorem State.killRadio_fixed (s : State) (l cause ak : Nat) : (s.killRadio l cause ak).fixed = s.fixed := by
  unfold State.killRadio
  split <;> simp

@[simp] theorem State.killDoneRadio_fixed (s : State) (l : Nat) : (s.killDoneRadio l).fixed = s.fixed := by
  unfold State.killDoneRadio
  split <;> simp

@[simp] theorem State.radioLateAt_fixed (s : State) (l cell : Nat) : (s.radioLateAt l cell).fixed = s.fixed := by
  unfold State.radioLateAt
  split <;> simp

@[simp] theorem State.commitOwned_fixed (s : State) (who : Owner) : (s.commitOwned who).fixed = s.fixed := by
  unfold State.commitOwned
  split <;> simp

@[simp] theorem State.killOwned_fixed (s : State) (who : Owner) (cause ak : Nat) : (s.killOwned who cause ak).fixed = s.fixed := by
  unfold State.killOwned
  split <;> simp

@[simp] theorem State.killDoneOwned_fixed (s : State) (who : Owner) (ak : Nat) : (s.killDoneOwned who ak).fixed = s.fixed := by
  unfold State.killDoneOwned
  split <;> simp

/-! ### Machine/Schedule.lean -/

@[simp] theorem State.doorbell_fixed (s : State) (c : Nat) (t : W32) : (s.doorbell c t).fixed = s.fixed := by
  dsimp only [State.doorbell]
  repeat' split
  all_goals simp

@[simp] theorem State.createCtx_fixed (s : State) (n c : Nat) (p : Page) :
    (s.createCtx n c p).fixed = s.fixed := by simp [State.createCtx]

@[simp] theorem State.ringCfg_fixed (s : State) (n c v cmdBase cplBase : Nat) :
    (s.ringCfg n c v cmdBase cplBase).fixed = s.fixed := by
  unfold State.ringCfg
  split <;> simp

@[simp] theorem State.place_fixed (s : State) (c : Nat) : (s.place c).fixed = s.fixed := by
  dsimp only [State.place]
  repeat' split
  all_goals simp

@[simp] theorem State.checkFault_fixed (s : State) (e : Nat) : (s.checkFault e).fixed = s.fixed := by
  dsimp only [State.checkFault]
  repeat' split
  all_goals simp

/-! ### Machine/LoamCmd.lean -/

@[simp] theorem State.spillFor_fixed (s : State) (e c o : Nat) : (s.spillFor e c o).fixed = s.fixed := by
  dsimp only [State.spillFor]
  split <;> simp

@[simp] theorem State.exchange_fixed (s : State) (c : Nat) : (s.exchange c).fixed = s.fixed := by
  dsimp only [State.exchange]
  split <;> simp

@[simp] theorem State.clearAlloc_fixed (s : State) (c : Nat) : (s.clearAlloc c).fixed = s.fixed := by
  dsimp only [State.clearAlloc]
  split <;> simp

@[simp] theorem State.fillHost_fixed (s : State) (frame e : Nat) : (s.fillHost frame e).fixed = s.fixed := by simp [State.fillHost]

@[simp] theorem State.fillOwn_fixed (s : State) (n frame e : Nat) : (s.fillOwn n frame e).fixed = s.fixed := by
  refine foldl_keeps (m := fun q : State × _ => q.1.fixed) (fun q r => ?_) _ _
  simp

@[simp] theorem State.fillFrame_fixed (s : State) (n frame e : Nat) : (s.fillFrame n frame e).fixed = s.fixed := by
  unfold State.fillFrame
  split <;> simp

@[simp] theorem State.installPage_fixed (s : State) (f : Fetch) (frame : Nat) :
    (s.installPage f frame).fixed = s.fixed := by simp [State.installPage]

@[simp] theorem State.dropFetch_fixed (s : State) (f : Fetch) : (s.dropFetch f).fixed = s.fixed := by simp [State.dropFetch]

@[simp] theorem State.endAcquirers_fixed (s : State) (cs : List Nat) (cause : Nat) :
    (s.endAcquirers cs cause).fixed = s.fixed := by simp [State.endAcquirers]

@[simp] theorem State.fetchFailed_fixed (s : State) (f : Fetch) : (s.fetchFailed f).fixed = s.fixed := by
  unfold State.fetchFailed
  split <;> simp

@[simp] theorem State.setPrefetch_fixed (s : State) (n : Nat) (ps : List Nat) :
    (s.setPrefetch n ps).fixed = s.fixed := by simp [State.setPrefetch]

@[simp] theorem State.prefetchStart_fixed (s : State) (n : Nat) : (s.prefetchStart n).fixed = s.fixed := by
  unfold State.prefetchStart
  split <;> simp

@[simp] theorem State.pendMap_fixed (s : State) (n : Nat) (new : Tab Nat) :
    (s.pendMap n new).fixed = s.fixed := by simp [State.pendMap]

@[simp] theorem State.mapReadFailed_fixed (s : State) (n : Nat) :
    (s.mapReadFailed n).fixed = s.fixed := by simp [State.mapReadFailed]

@[simp] theorem State.loamCommit_fixed (n v : Nat) (s : State) : s.keepsOk (s.loamCommit n v) := by
  dsimp only [State.loamCommit]
  repeat' split
  all_goals simp

@[simp] theorem State.loamMapWrite_fixed (s : State) (sess n v : Nat) : (s.loamMapWrite sess n v).fixed = s.fixed := by
  dsimp only [State.loamMapWrite]
  split <;> simp

@[simp] theorem State.loamQuota_fixed (n v : Nat) (s : State) : s.keepsOk (s.loamQuota n v) := by
  dsimp only [State.loamQuota]
  split <;> simp

@[simp] theorem State.privQuota_fixed (n v : Nat) (s : State) : s.keepsOk (s.privQuota n v) := by simp [State.privQuota]

@[simp] theorem State.spQuota_fixed (n v : Nat) (s : State) : s.keepsOk (s.spQuota n v) := by
  dsimp only [State.spQuota]
  split <;> simp

@[simp] theorem State.lcFloor_fixed (v : Nat) (s : State) : s.keepsOk (s.lcFloor v) := by simp [State.lcFloor]

/-! ### Machine/TilthCmd.lean -/

@[simp] theorem State.tilthOffset_fixed (v : Nat) (s : State) : s.keepsOk (s.tilthOffset v) := by
  dsimp only [State.tilthOffset]
  repeat' split
  all_goals simp

@[simp] theorem State.tilthLoad_fixed (data : Bytes) (s : State) : s.keepsOk (s.tilthLoad data) := by
  dsimp only [State.tilthLoad]
  repeat' split
  all_goals simp

@[simp] theorem State.askMoves_fixed (s : State) (cs : List Nat) (plan : Option (List Move)) :
    (s.askMoves cs plan).fixed = s.fixed := by simp [State.askMoves]

@[simp] theorem State.openRegions_fixed (s : State) (was : Nat → Bool) : (s.openRegions was).fixed = s.fixed := by
  dsimp only [State.openRegions]
  rw [State.fixed_foldl fun s d => by split <;> simp, State.fixed_foldl fun s e => by split <;> simp]

@[simp] theorem State.closeRegions_fixed (s : State) : s.closeRegions.fixed = s.fixed := by
  dsimp only [State.closeRegions]
  rw [State.fixed_foldl fun s d => by split <;> simp, State.fixed_foldl fun s e => by split <;> simp]

@[simp] theorem State.resizeRegion_fixed (s : State) (e : Nat) : (s.resizeRegion e).fixed = s.fixed := by simp [State.resizeRegion]

@[simp] theorem State.resizeRegions_fixed (s : State) (mine : Nat → Bool) :
    (s.resizeRegions mine).fixed = s.fixed := by simp [State.resizeRegions]

@[simp] theorem State.resizeUnbound_fixed (s : State) : s.resizeUnbound.fixed = s.fixed := by simp [State.resizeUnbound]

@[simp] theorem State.withCopy_fixed (s : State) (c : TilthCopy) : (s.withCopy c).fixed = s.fixed := by simp [State.withCopy]

@[simp] theorem State.tilthCommit_fixed (v : Bytes) (s : State) : s.keepsOk (s.tilthCommit v) := by
  unfold State.tilthCommit
  split <;> simp

@[simp] theorem State.rebindTilth_fixed (s : State) (es : List Nat) :
    (s.rebindTilth es).fixed = s.fixed := by simp [State.rebindTilth]

@[simp] theorem State.retireCopies_fixed (s : State) (k : Nat) : (s.retireCopies k).fixed = s.fixed := by
  induction k generalizing s with
  | zero => rfl
  | succ k ih =>
    dsimp only [State.retireCopies]
    repeat' split
    all_goals simp [ih]

@[simp] theorem State.rebindCore_fixed (s : State) (k : Nat) : (s.rebindCore k).fixed = s.fixed := by
  unfold State.rebindCore
  split <;> simp

@[simp] theorem State.tilthSwitch_fixed (s : State) (t : Nat) : (s.tilthSwitch t).fixed = s.fixed := by simp [State.tilthSwitch]

@[simp] theorem State.setInWindow_fixed (s : State) (e : Nat) (b : Bool) :
    (s.setInWindow e b).fixed = s.fixed := by simp [State.setInWindow]

@[simp] theorem State.coreWindow_fixed (s : State) (core cell t stop : Nat) :
    (s.coreWindow core cell t stop).fixed = s.fixed := by simp [State.coreWindow]

@[simp] theorem State.windowEnds_fixed (s : State) (w : Window) : (s.windowEnds w).fixed = s.fixed := by
  dsimp only [State.windowEnds]
  repeat' split
  all_goals simp

@[simp] theorem State.windowStarts_fixed (s : State) (e i k : Nat) : (s.windowStarts e i k).fixed = s.fixed := by
  dsimp only [State.windowStarts]
  split <;> simp

@[simp] theorem State.classWrite_fixed (c v : Nat) (s : State) : s.keepsOk (s.classWrite c v) := by
  dsimp only [State.classWrite]
  repeat' split
  all_goals simp

@[simp] theorem State.moveWrite_fixed (c e : Nat) (s : State) : s.keepsOk (s.moveWrite c e) := by
  dsimp only [State.moveWrite]
  repeat' split
  all_goals simp

/-! ### Machine/Dsp.lean -/

@[simp] theorem State.endSync_fixed (s : State) (core : Nat) : (s.endSync core).fixed = s.fixed := by simp [State.endSync]

@[simp] theorem State.leaveHandler_fixed (s : State) (core : Nat) :
    (s.leaveHandler core).fixed = s.fixed := by simp [State.leaveHandler]

@[simp] theorem State.abandon_fixed (s : State) (core : Nat) : (s.abandon core).fixed = s.fixed := by simp [State.abandon]

@[simp] theorem State.codeFault_fixed (s : State) (core : Nat) : (s.codeFault core).fixed = s.fixed := by simp [State.codeFault]

@[simp] theorem State.dataFault_fixed (s : State) (core a : Nat) : (s.dataFault core a).fixed = s.fixed := by simp [State.dataFault]

@[simp] theorem State.issue_fixed (s : State) (core : Nat) (f : State → State) (h : ∀ s, (f s).fixed = s.fixed) :
    (s.issue core f).fixed = s.fixed := by
  dsimp only [State.issue]
  repeat' split
  all_goals simp [h]

@[simp] theorem State.issueWith_fixed (s : State) (site : Issue) (reads : List (Nat × Nat)) (now later : State → State)
    (hn : ∀ s, (now s).fixed = s.fixed) (hl : ∀ s, (later s).fixed = s.fixed) :
    (s.issueWith site reads now later).fixed = s.fixed := by
  refine State.issue_fixed s _ _ fun s => ?_
  dsimp only
  split
  · simp
  · split <;> simp [hn, hl]

@[simp] theorem State.swapProg_fixed (s : State) (core : Nat) : (s.swapProg core).fixed = s.fixed := by
  unfold State.swapProg
  split <;> simp

@[simp] theorem State.entryFaults_fixed (s : State) (core t count : Nat) : (s.entryFaults core t count).fixed = s.fixed := by
  dsimp only [State.entryFaults]
  repeat' split
  all_goals simp

@[simp] theorem State.enterHandler_fixed (s : State) (core : Nat) : (s.enterHandler core).fixed = s.fixed := by
  dsimp only [State.enterHandler]
  split <;> simp

@[simp] theorem State.progOffset_fixed (core v : Nat) (s : State) : s.keepsOk (s.progOffset core v) := by
  dsimp only [State.progOffset]
  repeat' split
  all_goals simp

@[simp] theorem State.progLoad_fixed (core : Nat) (data : Bytes) (s : State) : s.keepsOk (s.progLoad core data) := by
  dsimp only [State.progLoad]
  repeat' split
  all_goals simp

@[simp] theorem State.progCommit_fixed (core : Nat) (digest : Bytes) (s : State) : s.keepsOk (s.progCommit core digest) := by
  dsimp only [State.progCommit]
  repeat' split
  all_goals simp

/-! ### Machine/Coder.lean -/

@[simp] theorem State.radioStackWrite_fixed (s : State) (o : Nat) (bs : Bytes) : (s.radioStackWrite o bs).fixed = s.fixed :=
  State.fixed_foldl (fun s p => by split <;> simp) _ _

@[simp] theorem State.postUe_fixed (s : State) (core idx addr : Nat) (write : Bool) :
    (s.postUe core idx addr write).fixed = s.fixed := by simp [State.postUe]

@[simp] theorem State.setUe_fixed (s : State) (i v : Nat) : (s.setUe i v).fixed = s.fixed := by simp [State.setUe]

@[simp] theorem State.ueOver_fixed (s : State) (a : UeAccess) : (s.ueOver a).fixed = s.fixed := by
  dsimp only [State.ueOver]
  split <;> simp

@[simp] theorem State.applyUe_fixed (s : State) (a : UeAccess) : (s.applyUe a).fixed = s.fixed := by
  dsimp only [State.applyUe]
  repeat' split
  all_goals simp

@[simp] theorem State.engq_fixed (s : State) (core logical cell : Nat) (bs : Bytes) :
    (s.engq core logical cell bs).fixed = s.fixed := by simp [State.engq]

@[simp] theorem State.ignoreJob_fixed (s : State) (reason : Nat) : (s.ignoreJob reason).fixed = s.fixed := by simp [State.ignoreJob]

@[simp] theorem State.submitJob_fixed (s : State) (core : Nat) (bs : Bytes) : (s.submitJob core bs).fixed = s.fixed := by
  unfold State.submitJob
  split <;> simp

@[simp] theorem State.stageLoop_fixed (s : State) (die k : Nat) : (s.stageLoop die k).fixed = s.fixed := by
  induction k generalizing s with
  | zero => rfl
  | succ k ih =>
    dsimp only [State.stageLoop]
    split <;> simp [ih]

@[simp] theorem State.stageJobs_fixed (s : State) (die : Nat) : (s.stageJobs die).fixed = s.fixed := by simp [State.stageJobs]

@[simp] theorem State.endJob_fixed (s : State) (j : Job) (status iter exp : Nat) :
    (s.endJob j status iter exp).fixed = s.fixed := by simp [State.endJob]

@[simp] theorem State.unstage_fixed (s : State) (j : Job) : (s.unstage j).fixed = s.fixed := by simp [State.unstage]

@[simp] theorem State.ldpcSwitch_fixed (s : State) : s.ldpcSwitch.fixed = s.fixed := by simp [State.ldpcSwitch]

@[simp] theorem State.takeJob_fixed (s : State) (die op : Nat) : (s.takeJob die op).fixed = s.fixed := by
  dsimp only [State.takeJob]
  repeat' split
  all_goals simp

@[simp] theorem State.sendPart_fixed (s : State) (cell peer part off : Nat) (bs : Bytes) :
    (s.sendPart cell peer part off bs).fixed = s.fixed := by simp [State.sendPart]

@[simp] theorem State.sendSoft_fixed (s : State) (cell peer u : Nat) :
    (s.sendSoft cell peer u).fixed = s.fixed := by simp [State.sendSoft]

@[simp] theorem State.sendCellState_fixed (s : State) (cell peer : Nat) :
    (s.sendCellState cell peer).fixed = s.fixed := by simp [State.sendCellState]

@[simp] theorem State.finishJob_fixed (s : State) (k : Nat) (r : Running) : (s.finishJob k r).fixed = s.fixed := by
  dsimp only [State.finishJob]
  repeat' split
  all_goals simp

@[simp] theorem State.clearCell_fixed (s : State) (cell : Nat) : (s.clearCell cell).fixed = s.fixed := by simp [State.clearCell]

@[simp] theorem State.refreshCu_fixed (s : State) : s.refreshCu.fixed = s.fixed := by simp [State.refreshCu]

@[simp] theorem State.enableCell_fixed (s : State) (cell : Nat) : (s.enableCell cell).fixed = s.fixed := by simp [State.enableCell]

@[simp] theorem State.disableCell_fixed (s : State) (cell : Nat) :
    (s.disableCell cell).fixed = s.fixed := by simp [State.disableCell]

/-! ### Machine/Image.lean -/

@[simp] theorem State.restoreCtx_fixed (s : State) (n c : Nat) (img : Bytes) (job : Nat) (pasid : Option Nat) :
    s.keepsSome (s.restoreCtx n c img job pasid) := by
  unfold State.restoreCtx
  extract_lets x alloc s1 s2 s3 k e die ps
  have h2 : s2.fixed = s.fixed := by rw [State.setReg_fixed, State.setReg_fixed, State.setCtx_fixed]
  have h3 : s3.fixed = s.fixed := by
    dsimp only [s3]
    cases pasid with
    | none => exact h2
    | some p => exact (State.setReg_fixed _ _ _ _).trans h2
  cases die with
  | none => exact State.keepsSome_none
  | some d =>
    dsimp -zeta only
    cases h : s3.settleHood c d k with
    | none => exact State.keepsSome_none
    | some t =>
      have ht : t.fixed = s.fixed := (State.settleHood_fixed _ _ _ _ _ h).trans h3
      dsimp -zeta only
      extract_lets u v w y
      have hv : v.fixed = s.fixed := by
        dsimp only [v, u]
        split <;> simp [ht]
      have hw : w.fixed = s.fixed := by
        dsimp only [w]
        cases e with
        | none => exact hv
        | some e =>
          dsimp only
          split
          · exact (State.placeOn_fixed _ _ _).trans hv
          · exact hv
      rw [State.keepsSome_some]
      refine (State.fixed_foldl (fun s p => State.demandFetch_fixed s _ _ _ _ _) _ _).trans ?_
      exact (State.acquirePages_fixed _ _ _ _).trans hw

/-! ### Machine/Channel.lean -/

@[simp] theorem State.modChannel_fixed (s : State) (n : Nat) (f : Channel → Channel) :
    (s.modChannel n f).fixed = s.fixed := by simp [State.modChannel]

@[simp] theorem State.ringWrite_fixed (s : State) (pasid base log2 at_ : Nat) (bs : Bytes) :
    (s.ringWrite pasid base log2 at_ bs).fixed = s.fixed := by simp [State.ringWrite]

@[simp] theorem State.upRecord_fixed (s : State) (n type source cell inline : Nat) (payload : Bytes) :
    (s.upRecord n type source cell inline payload).fixed = s.fixed := by simp [State.upRecord]

@[simp] theorem State.ignoreRhc_fixed (s : State) (n reason : Nat) :
    (s.ignoreRhc n reason).fixed = s.fixed := by simp [State.ignoreRhc]

@[simp] theorem State.downDoorbell_fixed (s : State) (n : Nat) (t : W32) : (s.downDoorbell n t).fixed = s.fixed := by
  unfold State.downDoorbell
  split <;> simp

@[simp] theorem State.downDescriptor_fixed (s : State) (n : Nat) : (s.downDescriptor n).fixed = s.fixed := by
  dsimp only [State.downDescriptor]
  repeat' split
  all_goals simp

@[simp] theorem State.rhcCfg_fixed (n v : Nat) (s : State) : s.keepsOk (s.rhcCfg n v) := by
  dsimp only [State.rhcCfg]
  repeat' split
  all_goals simp

@[simp] theorem State.ingest_fixed (s : State) (cell ant : Nat) (l : List Int) (x : Section) :
    (s.ingest cell ant l x).fixed = s.fixed := by simp [State.ingest]

@[simp] theorem State.ingestItem_fixed (s : State) (cell ant : Nat) (f : Frame) : (s.ingestItem cell ant f).fixed = s.fixed := by
  dsimp only [State.ingestItem]
  split
  · exact State.fixed_foldl (fun s x => by split <;> simp) _ _
  · rfl

@[simp] theorem State.consume_fixed (s : State) (q : Nat) (by_ : QueueUser) (x : HeldItem) :
    (s.consume q by_ x).fixed = s.fixed := by
  dsimp only [State.consume]
  repeat' split
  all_goals simp

@[simp] theorem State.takeItems_fixed (s : State) (q n : Nat) (by_ : QueueUser) : (s.takeItems q n by_).fixed = s.fixed := by
  unfold State.takeItems
  split <;> simp

@[simp] theorem State.tagHead_fixed (s : State) (q : Nat) : (s.tagHead q).fixed = s.fixed := by simp [State.tagHead]

@[simp] theorem State.pushFrame_fixed (s : State) (q tag : Nat) (item : Bytes) (f : Frame) (bad : Bool) :
    (s.pushFrame q tag item f bad).fixed = s.fixed := by simp [State.pushFrame]

@[simp] theorem State.putItem_fixed (s : State) (q port tag : Nat) (item : Bytes) (f : Frame) (bad : Bool) :
    (s.putItem q port tag item f bad).fixed = s.fixed := by
  dsimp only [State.putItem]
  repeat' split
  all_goals simp

@[simp] theorem State.xferWaits_fixed (s : State) (core : Nat) (o : XferOp) :
    (s.xferWaits core o).fixed = s.fixed := by simp [State.xferWaits]

@[simp] theorem State.xfer_fixed (s : State) (core : Nat) (o : XferOp) : (s.xfer core o).fixed = s.fixed := by
  dsimp only [State.xfer]
  repeat' split
  all_goals simp

@[simp] theorem State.xferNow_fixed (s : State) (core : Nat) (o : XferOp) : (s.xferNow core o).fixed = s.fixed := by
  unfold State.xferNow
  split <;> simp

@[simp] theorem State.wakeXfer_fixed (s : State) : s.wakeXfer.fixed = s.fixed := by simp [State.wakeXfer]

/-! ### Machine/Servo.lean -/

@[simp] theorem State.setLock_fixed (s : State) (t v : Nat) : (s.setLock t v).fixed = s.fixed := by simp [State.setLock]

@[simp] theorem State.relock_fixed (s : State) (t : Nat) (theta : Int) :
    (s.relock t theta).fixed = s.fixed := by simp [State.relock]

@[simp] theorem State.servo_fixed (s : State) (t : Nat) (theta : Int) : (s.servo t theta).fixed = s.fixed := by simp [State.servo]

@[simp] theorem State.measureFrom_fixed (s : State) (k t : Nat) (theta : Int) : (s.measureFrom k t theta).fixed = s.fixed := by
  induction k generalizing s t theta with
  | zero => rfl
  | succ k ih =>
    dsimp only [State.measureFrom]
    rw [State.fixed_foldl fun s u => by simp [ih], State.servo_fixed]

@[simp] theorem State.measure_fixed (s : State) (t : Nat) (theta : Int) :
    (s.measure t theta).fixed = s.fixed := by simp [State.measure]

@[simp] theorem State.ptpAnnounce_fixed (s : State) (t port : Nat) (m : PtpMsg) :
    (s.ptpAnnounce t port m).fixed = s.fixed := by simp [State.ptpAnnounce]

@[simp] theorem State.ptpOffset_fixed (s : State) (t : Nat) (x : Int) : (s.ptpOffset t x).fixed = s.fixed := by
  dsimp only [State.ptpOffset]
  split <;> simp

@[simp] theorem State.ptpSlave_fixed (s : State) (t port : Nat) (kind : PtpKind) (c : Int) (m : PtpMsg) :
    (s.ptpSlave t port kind c m).fixed = s.fixed := by
  dsimp only [State.ptpSlave]
  repeat' split
  all_goals simp

@[simp] theorem State.ptpTake_fixed (s : State) (port : Nat) (kind : PtpKind) (domain : Nat) (correction : W64) (m : PtpMsg) :
    (s.ptpTake port kind domain correction m).fixed = s.fixed := by
  refine State.fixed_foldl (fun s t => ?_) _ _
  repeat' split
  all_goals simp

@[simp] theorem State.endSlot_fixed (s : State) (cell : Nat) : (s.endSlot cell).fixed = s.fixed := by
  dsimp only [State.endSlot]
  repeat' split
  all_goals simp

/-! ### Machine/Fronthaul.lean -/

@[simp] theorem State.switchWfq_fixed (s : State) (die : Nat) : (s.switchWfq die).fixed = s.fixed := by
  dsimp only [State.switchWfq]
  split
  · rfl
  · rw [State.bump_fixed, State.fixed_with]
    exact State.fixed_foldl (fun s q => by split <;> simp) _ _

@[simp] theorem State.swapPol_fixed (s : State) (die slice : Nat) (r : Reg) (k : Nat) :
    (s.swapPol die slice r k).fixed = s.fixed := by
  unfold State.swapPol
  split <;> simp

@[simp] theorem State.switchPol_fixed (s : State) (die : Nat) : (s.switchPol die).fixed = s.fixed := by
  unfold State.switchPol
  split <;> simp

@[simp] theorem State.packetBoundary_fixed (s : State) (die : Nat) :
    (s.packetBoundary die).fixed = s.fixed := by simp [State.packetBoundary]

@[simp] theorem State.colour_fixed (s : State) (die slice : Nat) (f : Frame) :
    (s.colour die slice f).2.fixed = s.fixed := by simp [State.colour]

@[simp] theorem State.serviceFrame_fixed (s : State) (die port q slice : Nat) (f : Frame) (bad : Bool) :
    (s.serviceFrame die port q slice f bad).fixed = s.fixed := by
  dsimp only [State.serviceFrame]
  repeat' split
  all_goals simp

@[simp] theorem State.sectionCheck_fixed (s : State) (die cell : Nat) (x : Section) :
    (s.sectionCheck die cell x).2.fixed = s.fixed := by
  dsimp only [State.sectionCheck]
  repeat' split
  all_goals simp

@[simp] theorem State.sectionsCheck_fixed (s : State) (die cell : Nat) (l : List Section) :
    (s.sectionsCheck die cell l).2.fixed = s.fixed := by
  induction l generalizing s with
  | nil => rfl
  | cons x l ih => simp [State.sectionsCheck, ih]

@[simp] theorem State.radioFrame_fixed (s : State) (die port q cell ant : Nat) (f : Frame) (bad : Bool) :
    (s.radioFrame die port q cell ant f bad).fixed = s.fixed := by
  unfold State.radioFrame
  split <;> simp

@[simp] theorem State.ptpForward_fixed (s : State) (port : Nat) (f : Frame) :
    (s.ptpForward port f).fixed = s.fixed := by simp [State.ptpForward]

@[simp] theorem State.route_fixed (s : State) (port : Nat) (f : Frame) (bad : Bool) : (s.route port f bad).fixed = s.fixed := by
  dsimp only [State.route]
  repeat' split
  all_goals simp

@[simp] theorem State.fhFec_fixed (s : State) (port : Nat) (bad : Bool) : (s.fhFec port bad).fixed = s.fixed := by
  dsimp only [State.fhFec]
  split <;> simp

@[simp] theorem State.frameIn_fixed (s : State) (port : Nat) (f : Frame) : (s.frameIn port f).fixed = s.fixed := by
  dsimp only [State.frameIn]
  repeat' split
  all_goals simp

@[simp] theorem State.frameOut_fixed (s : State) (port : Nat) : (s.frameOut port).fixed = s.fixed := by
  dsimp only [State.frameOut]
  repeat' split
  all_goals simp

@[simp] theorem State.afterRadioOp_fixed (s : State) (q : Nat) : (s.afterRadioOp q).fixed = s.fixed := by simp [State.afterRadioOp]

@[simp] theorem State.qOperate_fixed (s : State) (q : Nat) (o : QOp) (by_ : QueueUser) : (s.qOperate q o by_).fixed = s.fixed := by
  unfold State.qOperate
  split <;> simp

@[simp] theorem State.qOpWrite_fixed (q : Nat) (o : QOp) (n : Nat) (s : State) : (s.qOpWrite q o n).fixed = s.fixed := by
  unfold State.qOpWrite
  split <;> simp

@[simp] theorem State.qBy_fixed (s : State) (q : Nat) (o : QOp) (by_ : QueueUser) : (s.qBy q o by_).fixed = s.fixed := by
  dsimp only [State.qBy]
  repeat' split
  all_goals simp

@[simp] theorem State.staleCheck_fixed (s : State) (q : Nat) : (s.staleCheck q).fixed = s.fixed := by simp [State.staleCheck]

@[simp] theorem State.sample_fixed (s : State) (q : Nat) : (s.sample q).fixed = s.fixed := by simp [State.sample]

@[simp] theorem State.refreshPool_fixed (s : State) (die : Nat) : (s.refreshPool die).fixed = s.fixed := by simp [State.refreshPool]

@[simp] theorem State.qCfgWrite_fixed (q v role : Nat) (s : State) : s.keepsOk (s.qCfgWrite q v role) := by
  dsimp only [State.qCfgWrite]
  repeat' split
  all_goals simp

@[simp] theorem State.queueSelectWrite_fixed (sess v : Nat) (s : State) : s.keepsOk (s.queueSelectWrite sess v) := by
  unfold State.queueSelectWrite
  split <;> simp

@[simp] theorem State.wfqCommit_fixed (die v : Nat) (s : State) : s.keepsOk (s.wfqCommit die v) := by
  unfold State.wfqCommit
  split <;> simp

@[simp] theorem State.polCommit_fixed (die v : Nat) (s : State) : s.keepsOk (s.polCommit die v) := by
  unfold State.polCommit
  split <;> simp

@[simp] theorem State.portModeWrite_fixed (die v : Nat) (s : State) : s.keepsOk (s.portModeWrite die v) := by
  dsimp only [State.portModeWrite]
  repeat' split
  all_goals simp

/-! ### Machine/Time.lean -/

@[simp] theorem State.hostTick_fixed (s : State) : s.hostTick.fixed = s.fixed := by
  unfold State.hostTick
  extract_lets new t faults u
  have hu : u.fixed = s.fixed := (State.settleSnapshots_fixed _).trans (State.fixed_with s)
  repeat' split
  · exact hu
  · rw [State.checkAll_fixed, State.fixed_with, hu]
  · exact hu

@[simp] theorem State.applyTb_fixed (s : State) (t : Nat) : (s.applyTb t).fixed = s.fixed := by
  dsimp only [State.applyTb]
  repeat' split
  all_goals simp

@[simp] theorem State.stepWrite_fixed (t v : Nat) (s : State) : s.keepsOk (s.stepWrite t v) := by
  unfold State.stepWrite
  split <;> simp

@[simp] theorem State.frameOffsetWrite_fixed (t v : Nat) (s : State) : s.keepsOk (s.frameOffsetWrite t v) := by
  unfold State.frameOffsetWrite
  split <;> simp

@[simp] theorem State.servoSrcWrite_fixed (t v : Nat) (s : State) : s.keepsOk (s.servoSrcWrite t v) := by
  dsimp only [State.servoSrcWrite]
  repeat' split
  all_goals simp

@[simp] theorem State.sendDelayReq_fixed (s : State) (t : Nat) : (s.sendDelayReq t).fixed = s.fixed := by
  dsimp only [State.sendDelayReq]
  split <;> simp

@[simp] theorem State.cellEvent_fixed (s : State) (cell type at_ : Nat) :
    (s.cellEvent cell type at_).fixed = s.fixed := by simp [State.cellEvent]

@[simp] theorem State.slotBoundary_fixed (s : State) (cell : Nat) :
    (s.slotBoundary cell).fixed = s.fixed := by simp [State.slotBoundary]

@[simp] theorem State.symbolBoundary_fixed (s : State) (cell : Nat) : (s.symbolBoundary cell).fixed = s.fixed := by
  dsimp only [State.symbolBoundary]
  repeat' split
  all_goals simp

@[simp] theorem State.switchRadioStack_fixed (s : State) : s.switchRadioStack.fixed = s.fixed := by
  unfold State.switchRadioStack
  split
  · rfl
  extract_lets m0 b0 m b tier s1 s2
  have h2 : s2.fixed = s.fixed := by
    refine (State.fixed_foldl (fun s c => ?_) _ _).trans (State.fixed_with s)
    dsimp only
    split <;> exact State.fixed_getD rfl (State.newHood_fixed _ _ _ _)
  split
  · rfl
  · exact (State.fixed_foldl (fun s n => State.clear_fixed s _ _) _ _).trans h2

@[simp] theorem State.radioStackBoundary_fixed (s : State) (t : Nat) :
    (s.radioStackBoundary t).fixed = s.fixed := by simp [State.radioStackBoundary]

@[simp] theorem State.cellBoundary_fixed (s : State) (t cell : Nat) : (s.cellBoundary t cell).fixed = s.fixed := by
  unfold State.cellBoundary
  extract_lets x a b e boot c
  split
  · rfl
  have ha : a.fixed = s.fixed := by
    dsimp only [a]
    split <;> simp
  have hb : b.fixed = s.fixed := by
    dsimp only [b]
    repeat' split
    all_goals simp [ha]
  have hc : c.fixed = s.fixed := by
    dsimp only [c, e]
    split <;> simp [hb]
  repeat' split
  all_goals simp [hc]

@[simp] theorem State.frameBoundary_fixed (s : State) (t : Nat) :
    (s.frameBoundary t).fixed = s.fixed := by simp [State.frameBoundary]

@[simp] theorem State.placeEdge_fixed (s : State) (k t due : Nat) : (s.placeEdge k t due).fixed = s.fixed := by
  unfold State.placeEdge
  exact State.fixed_with _

@[simp] theorem State.trigEdge_fixed (s : State) (n : Nat) : (s.trigEdge n).fixed = s.fixed := by
  dsimp only [State.trigEdge]
  repeat' split
  all_goals simp

@[simp] theorem State.trigCfgWrite_fixed (n v : Nat) (s : State) : s.keepsOk (s.trigCfgWrite n v) := by
  dsimp only [State.trigCfgWrite]
  repeat' split
  all_goals simp

@[simp] theorem State.capMeasure_fixed (s : State) (n k : Nat) : (s.capMeasure n k).fixed = s.fixed := by
  unfold State.capMeasure
  split <;> simp

@[simp] theorem State.capEdge_fixed (s : State) (n : Nat) (falling : Bool) : (s.capEdge n falling).fixed = s.fixed := by
  dsimp only [State.capEdge]
  repeat' split
  all_goals simp

@[simp] theorem State.capTake_fixed (s : State) (n : Nat) : (s.capTake n).2.fixed = s.fixed := by
  unfold State.capTake
  split <;> simp

@[simp] theorem State.capReadBy_fixed (s : State) (sess n : Nat) : (s.capReadBy sess n).fixed = s.fixed := by simp [State.capReadBy]

@[simp] theorem State.ppsOutWrite_fixed (v : Nat) (s : State) : s.keepsOk (s.ppsOutWrite v) := by simp [State.ppsOutWrite]

/-! ### Machine/Home.lean -/

@[simp] theorem State.modPort_fixed (s : State) (p : Nat) (f : Port → Port) :
    (s.modPort p f).fixed = s.fixed := by simp [State.modPort]

@[simp] theorem State.retrainPort_fixed (s : State) (p : Nat) : (s.retrainPort p).fixed = s.fixed := by simp [State.retrainPort]

@[simp] theorem State.linkFields_fixed (s : State) (p h : Nat) : (s.linkFields p h).fixed = s.fixed := by simp [State.linkFields]

@[simp] theorem State.fecCount_fixed (s : State) (p : Nat) (bad : Bool) : (s.fecCount p bad).fixed = s.fixed := by
  dsimp only [State.fecCount]
  split <;> simp

@[simp] theorem State.dropPacket_fixed (s : State) (port case_ : Nat) (r : Reg) (p : Packet) :
    (s.dropPacket port case_ r p).fixed = s.fixed := by simp [State.dropPacket]

@[simp] theorem State.takePacket_fixed (s : State) (port : Nat) (bs : Bytes) : (s.takePacket port bs).fixed = s.fixed := by
  dsimp only [State.takePacket]
  repeat' split
  all_goals simp

@[simp] theorem State.parsePackets_fixed (s : State) (port n : Nat) (bs : Bytes) : (s.parsePackets port n bs).fixed = s.fixed := by
  induction n generalizing s bs with
  | zero => simp [State.parsePackets]
  | succ n ih =>
    dsimp only [State.parsePackets]
    repeat' split
    all_goals simp [ih]

@[simp] theorem State.flitData_fixed (s : State) (port h : Nat) (bs : Bytes) :
    (s.flitData port h bs).fixed = s.fixed := by simp [State.flitData]

@[simp] theorem State.flitIn_fixed (s : State) (port : Nat) (f : Flit) : (s.flitIn port f).fixed = s.fixed := by
  dsimp only [State.flitIn]
  repeat' split
  all_goals simp

@[simp] theorem State.portDown_fixed (s : State) (port : Nat) : (s.portDown port).fixed = s.fixed := by simp [State.portDown]

@[simp] theorem State.takeArrived_fixed (s : State) (p : Packet) : (s.takeArrived p).fixed = s.fixed := by simp [State.takeArrived]

@[simp] theorem State.serve_fixed (s : State) (kind : Nat) (right : Nat → Bool) (f : State → Nat → Packet → State)
    (h : ∀ s i p, (f s i p).fixed = s.fixed) : (s.serve kind right f).fixed = s.fixed := by
  dsimp only [State.serve]
  repeat' split
  all_goals simp [h]

@[simp] theorem State.homeWrite_fixed (s : State) (i a : Nat) (bs : Bytes) :
    (s.homeWrite i a bs).fixed = s.fixed := by simp [State.homeWrite]

@[simp] theorem State.atomicLoop_fixed (s : State) (i member : Nat) (p : Packet) (n k : Nat) (bs : Bytes) :
    (s.atomicLoop i member p n k bs).2.fixed = s.fixed := by
  induction n generalizing s k bs with
  | zero => rfl
  | succ n ih =>
    dsimp only [State.atomicLoop]
    rw [ih]
    split <;> simp

@[simp] theorem State.atomicAt_fixed (s : State) (i : Nat) (p : Packet) :
    (s.atomicAt i p).fixed = s.fixed := by simp [State.atomicAt]

theorem State.takeResponse_fixed {s t : State} {kind : Nat} {p : Packet} {o : Option Sent}
    (h : s.takeResponse kind = some (p, o, t)) :
    t.fixed = s.fixed := by
  unfold State.takeResponse at h
  dsimp only at h
  repeat' split at h
  all_goals
    cases h
  all_goals simp

@[simp] theorem State.afterResponse_fixed (s : State) (c : Nat) :
    (s.afterResponse c).fixed = s.fixed := by simp [State.afterResponse]

@[simp] theorem State.landFor_fixed (s : State) (c : Nat) (o : Sent) (off : Nat) (bs : Bytes) :
    (s.landFor c o off bs).fixed = s.fixed := by simp [State.landFor]

@[simp] theorem State.finishRoute_fixed (s : State) : s.finishRoute.fixed = s.fixed := by
  unfold State.finishRoute
  split <;> simp

@[simp] theorem State.switchRoute_fixed (s : State) (d : Nat) : (s.switchRoute d).fixed = s.fixed := by simp [State.switchRoute]

@[simp] theorem State.settleUnreachable_fixed (s : State) :
    s.settleUnreachable.fixed = s.fixed := by simp [State.settleUnreachable]

@[simp] theorem State.modBuddies_fixed (s : State) (f : List BuddyCopy → List BuddyCopy) :
    (s.modBuddies f).fixed = s.fixed := by simp [State.modBuddies]

@[simp] theorem State.buddyFrame_fixed (s : State) : s.buddyFrame.2.fixed = s.fixed := by simp [State.buddyFrame]

@[simp] theorem State.freeCopy_fixed (s : State) (b : BuddyCopy) : (s.freeCopy b).fixed = s.fixed := by simp [State.freeCopy]

@[simp] theorem State.openCopy_fixed (s : State) (job src : Nat) (header : Bool) (k : Nat) :
    (s.openCopy job src header k).fixed = s.fixed := by
  dsimp only [State.openCopy]
  repeat' split
  all_goals simp

theorem State.copyFrames_fixed {s t : State} {b b' : BuddyCopy} {n : Nat} (h : s.copyFrames b n = some (b', t)) :
    t.fixed = s.fixed := by
  induction n generalizing s b with
  | zero => cases h; rfl
  | succ n ih =>
    dsimp only [State.copyFrames] at h
    split at h
    next h' => simpa [State.fixed_of_snd h'] using ih h
    next => cases h

@[simp] theorem State.copyWrite_fixed (s : State) (b : BuddyCopy) (off : Nat) (bs : Bytes) :
    (s.copyWrite b off bs).fixed = s.fixed :=
  State.fixed_foldl (fun s x => by split <;> simp) _ _

@[simp] theorem State.closeCopy_fixed (s : State) (b : BuddyCopy) : (s.closeCopy b).fixed = s.fixed := by simp [State.closeCopy]

@[simp] theorem State.bulkWrite_fixed (s : State) (p : Packet) : (s.bulkWrite p).fixed = s.fixed := by
  unfold State.bulkWrite
  extract_lets header off t at_
  have ht : t.fixed = s.fixed := State.openCopy_fixed _ _ _ _ _
  have hr : ∀ {t u : State} {b b' n}, t.copyFrames b n = some (b', u) → u.fixed = t.fixed := State.copyFrames_fixed
  -- The copier becomes a variable and the rest a lemma about it: the kernel would else evaluate the copier to compare the matches.
  clear_value t
  generalize State.copyFrames = R at hr ⊢
  as_aux_lemma =>
    split
    · simp [ht]
    · dsimp only
      split
      · simp [ht]
      next h => simp [hr h, ht]

@[simp] theorem State.bulkRead_fixed (s : State) (p : Packet) : (s.bulkRead p).fixed = s.fixed := by
  dsimp only [State.bulkRead]
  repeat' split
  all_goals simp

@[simp] theorem State.endRestore_fixed (s : State) (i : Nat) (ok : Bool) :
    (s.endRestore i ok).fixed = s.fixed := by simp [State.endRestore]

@[simp] theorem State.restoreImages_fixed (s : State) (n job : Nat) (l : List Bytes) : s.keepsSome (s.restoreImages n job l) := by
  have hr : ∀ s n c img job pasid, State.keepsSome s (s.restoreCtx n c img job pasid) := State.restoreCtx_fixed
  -- The restore of one image becomes a variable and the induction a lemma about it, so that the kernel never evaluates it.
  delta State.restoreImages State.restoreImages._f
  generalize State.restoreCtx = R at hr ⊢
  as_aux_lemma =>
    induction l generalizing s with
    | nil => exact State.keepsSome_some.2 rfl
    | cons img rest ih =>
      dsimp only
      split
      · exact State.keepsSome_none
      · split
        next h => exact State.keepsSome_of_fixed (ih _) (hr _ _ _ _ _ _ _ h)
        next => exact State.keepsSome_none

@[simp] theorem State.fillRegions_fixed (s : State) (i : Nat) (l : List Nat) (bs : Bytes) :
    (s.fillRegions i l bs).fixed = s.fixed := by
  induction l generalizing s bs with
  | nil => rfl
  | cons r rs ih => simp [State.fillRegions, ih]

@[simp] theorem State.finishRestore_fixed (s : State) (i : Nat) (r : Restoring) (total : Nat) :
    (s.finishRestore i r total).fixed = s.fixed := by
  dsimp only [State.finishRestore]
  split
  · simp
  · split
    next h => simp [State.restoreImages_fixed _ _ _ _ _ h]
    next => simp

@[simp] theorem State.askCopy_fixed (s : State) (i : Nat) (r : Restoring) (total : Nat) (header : Bool) :
    (s.askCopy i r total header).fixed = s.fixed := by simp [State.askCopy]

@[simp] theorem State.bulkData_fixed (s : State) (i off : Nat) (bs : Bytes) : (s.bulkData i off bs).fixed = s.fixed := by
  dsimp only [State.bulkData]
  repeat' split
  all_goals simp

@[simp] theorem State.installUe_fixed (s : State) (cell off n : Nat) : (s.installUe cell off n).fixed = s.fixed := by
  refine State.fixed_foldl (fun s k => ?_) _ _
  dsimp only
  split <;> simp

@[simp] theorem State.installGain_fixed (s : State) (cell off : Nat) (bs : Bytes) :
    (s.installGain cell off bs).fixed = s.fixed := by simp [State.installGain]

@[simp] theorem State.landCell_fixed (s : State) (cell part off : Nat) (bs : Bytes) :
    (s.landCell cell part off bs).fixed = s.fixed := by
  unfold State.landCell
  split <;> simp

@[simp] theorem State.firstSlot_fixed (s : State) (cell : Nat) : (s.firstSlot cell).fixed = s.fixed := by simp [State.firstSlot]

@[simp] theorem State.cellData_fixed (s : State) (p : Packet) : (s.cellData p).fixed = s.fixed := by simp [State.cellData]

/-! ### Machine/Relevo.lean -/

@[simp] theorem State.routeTableWrite_fixed (data : Bytes) (s : State) : s.keepsOk (s.routeTableWrite data) := by
  unfold State.routeTableWrite
  split <;> simp

@[simp] theorem State.sendDrains_fixed (s : State) (d : Nat) : (s.sendDrains d).fixed = s.fixed := by simp [State.sendDrains]

@[simp] theorem State.routeCommit_fixed (v : Nat) (s : State) : s.keepsOk (s.routeCommit v) := by
  unfold State.routeCommit
  split <;> simp

@[simp] theorem State.fabWfq_fixed (v : Nat) (s : State) : s.keepsOk (s.fabWfq v) := by
  dsimp only [State.fabWfq]
  split
  · simp
  · rw [State.keepsOk_ok, State.bump_fixed]
    exact State.fixed_foldl (fun s p => State.fixed_foldl (fun s x => by simp) _ _) _ _

@[simp] theorem State.eraseJob_fixed (s : State) (i : Nat) : (s.eraseJob i).fixed = s.fixed := by simp [State.eraseJob]

@[simp] theorem State.takeLedger_fixed (s : State) (i job k : Nat) : s.keepsSome (s.takeLedger i job k) := by
  induction k generalizing s with
  | zero => simp [State.takeLedger]
  | succ k ih =>
    dsimp only [State.takeLedger]
    split
    next h => exact State.keepsSome_of_fixed (ih _) (by simp [State.fixed_of_snd h])
    next => simp

@[simp] theorem State.dropStreams_fixed (s : State) (job : Nat) : (s.dropStreams job).fixed = s.fixed := by simp [State.dropStreams]

@[simp] theorem State.dropTraffic_fixed (s : State) (job : Nat) : (s.dropTraffic job).fixed = s.fixed := by simp [State.dropTraffic]

@[simp] theorem State.jobCfgWrite_fixed (i : Nat) (data : Bytes) (s : State) : s.keepsOk (s.jobCfgWrite i data) := by
  unfold State.jobCfgWrite
  extract_lets w old
  split
  · repeat' split
    all_goals simp
  · split
    · split <;> simp
    · cases s.jobReason w with
      | some r => simp
      | none =>
        cases h : s.takeLedger i (cfgJob w) (ceilDiv (cfgLedger w * 36864) frameBytes) with
        | none => simp
        | some t => simp [State.takeLedger_fixed _ _ _ _ _ h]

@[simp] theorem State.endJobEntry_fixed (s : State) (i cause : Nat) :
    (s.endJobEntry i cause).fixed = s.fixed := by simp [State.endJobEntry]

@[simp] theorem State.jobTeardownWrite_fixed (i cause : Nat) (s : State) : s.keepsOk (s.jobTeardownWrite i cause) := by
  unfold State.jobTeardownWrite
  split <;> simp

@[simp] theorem State.ctxJobWrite_fixed (c v : Nat) (s : State) : s.keepsOk (s.ctxJobWrite c v) := by
  dsimp only [State.ctxJobWrite]
  repeat' split
  all_goals simp

@[simp] theorem State.winLoad_fixed (i : Nat) (data : Bytes) (s : State) : s.keepsOk (s.winLoad i data) := by
  dsimp only [State.winLoad]
  split <;> simp

@[simp] theorem State.winCommit_fixed (i v : Nat) (s : State) : s.keepsOk (s.winCommit i v) := by
  dsimp only [State.winCommit]
  split <;> simp

@[simp] theorem State.fabricEnable_fixed (s : State) : s.keepsOk s.fabricEnable := by
  dsimp only [State.fabricEnable]
  repeat' split
  all_goals simp

@[simp] theorem State.revoke_fixed (s : State) : s.revoke.fixed = s.fixed := by simp [State.revoke]

@[simp] theorem State.fabricCtrl_fixed (v : Nat) (s : State) : s.keepsOk (s.fabricCtrl v) := by
  unfold State.fabricCtrl
  split <;> simp

@[simp] theorem State.snapshotWrite_fixed (i id : Nat) (s : State) : s.keepsOk (s.snapshotWrite i id) := by
  dsimp only [State.snapshotWrite]
  split
  · simp
  · rw [State.keepsOk_ok, State.settleSnapshot_fixed, State.setReg_fixed, State.modJob_fixed, State.fixed_foldl]
    intro s c
    repeat' split
    all_goals simp

@[simp] theorem State.adoptWrite_fixed (i old : Nat) (s : State) : s.keepsOk (s.adoptWrite i old) := by
  dsimp only [State.adoptWrite]
  repeat' split
  all_goals simp

@[simp] theorem State.restoreWrite_fixed (i v : Nat) (s : State) : s.keepsOk (s.restoreWrite i v) := by
  dsimp only [State.restoreWrite]
  repeat' split
  all_goals simp

@[simp] theorem State.releaseWrite_fixed (job : Nat) (s : State) : s.keepsOk (s.releaseWrite job) := by simp [State.releaseWrite]

/-! ### Machine/Restart.lean -/

@[simp] theorem State.cleared_fixed (s : State) : s.cleared.fixed = s.fixed := by simp [State.cleared]

@[simp] theorem State.packageReset_fixed (s : State) (cause : Nat) :
    (s.packageReset cause).fixed = s.fixed := by simp [State.packageReset]

/-! ### Machine/Faults.lean -/

@[simp] theorem State.heartbeat_fixed (s : State) : s.heartbeat.fixed = s.fixed := by simp [State.heartbeat]

@[simp] theorem State.hbEchoWrite_fixed (m v : Nat) (s : State) : s.keepsOk (s.hbEchoWrite m v) := by
  unfold State.hbEchoWrite
  split <;> simp

@[simp] theorem State.hbEchoBy_fixed (sess v : Nat) (s : State) : s.keepsOk (s.hbEchoBy sess v) := by
  unfold State.hbEchoBy
  split <;> simp

@[simp] theorem State.hbEnableWrite_fixed (v : Nat) (s : State) : s.keepsOk (s.hbEnableWrite v) := by
  unfold State.hbEnableWrite
  split <;> simp

@[simp] theorem State.hbTimes_fixed (r : Reg) (v loss period : Nat) (s : State) : s.keepsOk (s.hbTimes r v loss period) := by
  unfold State.hbTimes
  split <;> simp

@[simp] theorem State.epochEnd_fixed (s : State) : s.epochEnd.fixed = s.fixed := by simp [State.epochEnd]

@[simp] theorem State.scrub_fixed (s : State) (l : Loc) (r : ScrubResult) : (s.scrub l r).fixed = s.fixed := by
  dsimp only [State.scrub]
  split <;> simp

@[simp] theorem State.ceSecond_fixed (s : State) (u : UnitId) (corrected : Nat) : (s.ceSecond u corrected).fixed = s.fixed := by
  dsimp only [State.ceSecond]
  split <;> simp

@[simp] theorem State.killOn_fixed (s : State) (es : List Nat) : (s.killOn es).fixed = s.fixed := by
  refine State.fixed_foldl (fun s c => ?_) _ _
  repeat' split
  all_goals simp

@[simp] theorem State.radioOn_fixed (s : State) (es : List Nat) : (s.radioOn es).fixed = s.fixed := by
  refine State.fixed_foldl (fun s e => ?_) _ _
  dsimp only
  split <;> simp

@[simp] theorem State.enginesLeave_fixed (s : State) (es : List Nat) :
    (s.enginesLeave es).fixed = s.fixed := by simp [State.enginesLeave]

@[simp] theorem State.radioStackLost_fixed (s : State) (n : Nat) : (s.radioStackLost n).fixed = s.fixed := by
  unfold State.radioStackLost
  split <;> simp

@[simp] theorem State.stackLeaves_fixed (s : State) (n : Nat) : (s.stackLeaves n).fixed = s.fixed := by simp [State.stackLeaves]

@[simp] theorem State.coresLeave_fixed (s : State) (l : List Nat) : (s.coresLeave l).fixed = s.fixed := by
  refine State.fixed_foldl (fun s n => ?_) _ _
  dsimp only
  split <;> simp

@[simp] theorem State.xpLeaves_fixed (s : State) (p : Nat) : (s.xpLeaves p).fixed = s.fixed := by simp [State.xpLeaves]

@[simp] theorem State.fhLeaves_fixed (s : State) (p : Nat) : (s.fhLeaves p).fixed = s.fixed := by simp [State.fhLeaves]

@[simp] theorem State.dieLeaves_fixed (s : State) (n : Nat) : (s.dieLeaves n).fixed = s.fixed := by simp [State.dieLeaves]

@[simp] theorem State.routerLost_fixed (s : State) (n : Nat) : (s.routerLost n).fixed = s.fixed := by
  dsimp only [State.routerLost]
  repeat' split
  all_goals simp

@[simp] theorem State.unitLeaves_fixed (s : State) (u : UnitId) : (s.unitLeaves u).fixed = s.fixed := by
  unfold State.unitLeaves
  split <;> simp

@[simp] theorem State.cutUnits_fixed (s : State) (k : Nat) : (s.cutUnits k).fixed = s.fixed := by
  induction k generalizing s with
  | zero => rfl
  | succ k ih =>
    dsimp only [State.cutUnits]
    split
    · rfl
    · rw [ih]
      refine State.fixed_foldl (fun s u => ?_) _ _
      cases u <;> dsimp only <;> split <;> simp

@[simp] theorem State.meshLoss_fixed (s : State) : s.meshLoss.fixed = s.fixed := by simp [State.meshLoss]

@[simp] theorem State.routerFault_fixed (s : State) (n : Nat) : (s.routerFault n).fixed = s.fixed := by simp [State.routerFault]

@[simp] theorem State.leave_fixed (s : State) (u : UnitId) : (s.leave u).fixed = s.fixed := by
  unfold State.leave
  split <;> simp

@[simp] theorem State.quarantine_fixed (s : State) (es : List Nat) : (s.quarantine es).fixed = s.fixed := by simp [State.quarantine]

@[simp] theorem State.quarantineWrite_fixed (v : Nat) (s : State) : s.keepsOk (s.quarantineWrite v) := by
  dsimp only [State.quarantineWrite]
  split
  · simp
  · rw [State.keepsOk_ok, State.fixed_ite, State.quarantine_fixed, State.fixed_foldl, State.setOct_fixed]
    · intro t e
      rw [State.fixed_with, State.setReg_fixed]
    · simp

@[simp] theorem State.dieReturns_fixed (s : State) (d : Nat) : (s.dieReturns d).fixed = s.fixed := by simp [State.dieReturns]

@[simp] theorem State.cdOutWrite_fixed (v : Nat) (s : State) : s.keepsOk (s.cdOutWrite v) := by
  dsimp only [State.cdOutWrite]
  split <;> simp

@[simp] theorem State.dropShadow_fixed (s : State) (w : Shadow) : (s.dropShadow w).fixed = s.fixed := by simp [State.dropShadow]

@[simp] theorem State.skipShadow_fixed (s : State) (w : Shadow) : (s.skipShadow w).fixed = s.fixed := by simp [State.skipShadow]

@[simp] theorem State.startShadow_fixed (s : State) (w : Shadow) (e : Nat) : (s.startShadow w e).fixed = s.fixed := by
  dsimp only [State.startShadow]
  split
  next h _ => simp [State.fixed_of_snd h]
  next => rfl

@[simp] theorem State.shadowCopied_fixed (s : State) (c : Nat) : (s.shadowCopied c).fixed = s.fixed := by simp [State.shadowCopied]

@[simp] theorem State.chargeMismatch_fixed (s : State) (e : Nat) :
    (s.chargeMismatch e).fixed = s.fixed := by simp [State.chargeMismatch]

@[simp] theorem State.mismatch_fixed (s : State) (w : Shadow) (r : ShadowResult) (third : Option ShadowResult) :
    (s.mismatch w r third).fixed = s.fixed := by simp [State.mismatch]

/-! ### Machine/Slices.lean -/

@[simp] theorem State.pasidOffset_fixed (v : Nat) (s : State) : s.keepsOk (s.pasidOffset v) := by
  unfold State.pasidOffset
  split <;> simp

@[simp] theorem State.pasidLoad_fixed (data : Bytes) (s : State) : s.keepsOk (s.pasidLoad data) := by
  dsimp only [State.pasidLoad]
  repeat' split
  all_goals simp

@[simp] theorem State.pasidCommit_fixed (v : Nat) (s : State) : s.keepsOk (s.pasidCommit v) := by
  dsimp only [State.pasidCommit]
  repeat' split
  all_goals simp

@[simp] theorem State.ctxPasidWrite_fixed (c v : Nat) (s : State) : s.keepsOk (s.ctxPasidWrite c v) := by
  dsimp only [State.ctxPasidWrite]
  repeat' split
  all_goals simp

@[simp] theorem State.privReq_fixed (sess c v : Nat) (s : State) : s.keepsOk (s.privReq sess c v) := by
  dsimp only [State.privReq]
  repeat' split
  all_goals simp

@[simp] theorem State.sharedReq_fixed (sess c v : Nat) (s : State) : s.keepsOk (s.sharedReq sess c v) := by
  dsimp only [State.sharedReq]
  repeat' split
  all_goals simp

@[simp] theorem State.freezeSlice_fixed (s : State) (n : Nat) : (s.freezeSlice n).fixed = s.fixed := by
  dsimp only [State.freezeSlice]
  rw [State.yieldTurns_fixed, State.settleFreeze_fixed, State.fixed_foldl, State.setSliceState_fixed]
  intro s c
  repeat' split
  all_goals simp

@[simp] theorem State.thawSlice_fixed (s : State) (n : Nat) : (s.thawSlice n).fixed = s.fixed := by simp [State.thawSlice]

@[simp] theorem State.sliceCtrl_fixed (n v : Nat) (s : State) : s.keepsOk (s.sliceCtrl n v) := by
  dsimp only [State.sliceCtrl]
  repeat' split
  all_goals simp

@[simp] theorem State.sliceSave_fixed (n : Nat) (v : Bytes) (s : State) : s.keepsOk (s.sliceSave n v) := by
  dsimp only [State.sliceSave]
  split <;> simp

@[simp] theorem State.endSave_fixed (s : State) (n status : Nat) : (s.endSave n status).fixed = s.fixed := by simp [State.endSave]

@[simp] theorem State.sliceRestore_fixed (n : Nat) (v : Bytes) (s : State) : s.keepsOk (s.sliceRestore n v) := by
  dsimp only [State.sliceRestore]
  repeat' split
  all_goals simp

@[simp] theorem State.imageRegs_fixed (s : State) (n : Nat) (img : Bytes) :
    (s.imageRegs n img).fixed = s.fixed := by simp [State.imageRegs]

@[simp] theorem State.putRegion_fixed (s : State) (frames : List Nat) (bs : Bytes) :
    (s.putRegion frames bs).fixed = s.fixed := by simp [State.putRegion]

@[simp] theorem State.restoreAll_fixed (n pasid : Nat) (img : Bytes) (s : State) (l : List Bytes) :
    s.keepsSome (State.restoreAll n pasid img s l) := by
  induction l generalizing s with
  | nil => simp [State.restoreAll]
  | cons i is ih =>
    dsimp only [State.restoreAll]
    split
    next h => exact State.keepsSome_of_fixed (ih _) (State.restoreCtx_fixed _ _ _ _ _ _ _ h)
    next => simp

@[simp] theorem State.restored_fixed (s : State) (n : Nat) (t : Transfer) (img : Bytes) : s.keepsSome (s.restored n t img) := by
  dsimp only [State.restored]
  split
  · simp
  · split
    · simp
    · split
      · simp
      next h =>
        split
        · simp
        next h' =>
          have h1 := State.loamCommit_fixed _ _ _ _ h
          have h2 := State.restoreAll_fixed _ _ _ _ _ _ h'
          simp at h1 h2
          simp [h1, h2]

@[simp] theorem State.endSliceRestore_fixed (s : State) (n status : Nat) :
    (s.endSliceRestore n status).fixed = s.fixed := by simp [State.endSliceRestore]

@[simp] theorem State.dropContexts_fixed (s : State) (cs : List Nat) :
    (s.dropContexts cs).fixed = s.fixed := by simp [State.dropContexts]

@[simp] theorem State.emptySlice_fixed (s : State) (n : Nat) : (s.emptySlice n).fixed = s.fixed := by simp [State.emptySlice]

@[simp] theorem State.clearSync_fixed (s : State) (n : Nat) : (s.clearSync n).fixed = s.fixed := by simp [State.clearSync]

@[simp] theorem State.sliceMapWrite_fixed (n v : Nat) (s : State) : s.keepsOk (s.sliceMapWrite n v) := by
  dsimp only [State.sliceMapWrite]
  repeat' split
  all_goals simp

@[simp] theorem State.moveHome_fixed (s : State) (n : Nat) : (s.moveHome n).fixed = s.fixed := by simp [State.moveHome]

@[simp] theorem State.sealWrite_fixed (n : Nat) (v : Bytes) (s : State) : s.keepsOk (s.sealWrite n v) := by
  dsimp only [State.sealWrite]
  repeat' split
  all_goals simp

@[simp] theorem State.silentKills_fixed (s : State) : s.silentKills.fixed = s.fixed :=
  State.fixed_foldl (fun s c => by split <;> simp) _ _

@[simp] theorem State.requestFailed_fixed (s : State) (c : Nat) :
    (s.requestFailed c).fixed = s.fixed := by simp [State.requestFailed]

@[simp] theorem State.dropUp_fixed (s : State) (n : Nat) : (s.dropUp n).fixed = s.fixed := by simp [State.dropUp]

/-! ### Machine/Reset.lean -/

@[simp] theorem State.powerOff_fixed (s : State) : s.powerOff.fixed = s.fixed := by simp [State.powerOff]

@[simp] theorem State.resetWrite_fixed (v : Nat) (s : State) : s.keepsOk (s.resetWrite v) := by
  unfold State.resetWrite
  split <;> simp

@[simp] theorem State.resetIfAsked_fixed (s : State) : s.resetIfAsked.fixed = s.fixed := by simp [State.resetIfAsked]

/-! ### Machine/Power.lean -/

@[simp] theorem State.requestIdle_fixed (s : State) (t : Throttle) :
    (s.requestIdle t).fixed = s.fixed := by simp [State.requestIdle]

@[simp] theorem State.setStep_fixed (s : State) (k : Nat) : (s.setStep k).fixed = s.fixed := by simp [State.setStep]

@[simp] theorem State.burstPasses_fixed (s : State) : s.burstPasses.2.fixed = s.fixed := by
  unfold State.burstPasses
  split <;> simp

@[simp] theorem State.sensed_fixed (s : State) (hottest : Int) : (s.sensed hottest).fixed = s.fixed := by simp [State.sensed]

@[simp] theorem State.burstStep_fixed (s : State) (est : Nat) : (s.burstStep est).fixed = s.fixed := by
  unfold State.burstStep
  split <;> simp

@[simp] theorem State.sumPower_fixed (s : State) (est : Nat) : (s.sumPower est).fixed = s.fixed := by
  dsimp only [State.sumPower]
  split <;> simp

@[simp] theorem State.controlPeriod_fixed (s : State) (m : PowerSample) : (s.controlPeriod m).fixed = s.fixed := by
  dsimp only [State.controlPeriod]
  rw [State.bumpIf_fixed, State.setStep_fixed, State.burstStep_fixed, State.fixed_with, State.sensed_fixed, State.sumPower_fixed]

@[simp] theorem State.powerCap_fixed (v : Nat) (s : State) : s.keepsOk (s.powerCap v) := by
  dsimp only [State.powerCap]
  repeat' split
  all_goals simp

@[simp] theorem State.burstWrite_fixed (v : Nat) (s : State) : s.keepsOk (s.burstWrite v) := by
  unfold State.burstWrite
  split <;> simp

@[simp] theorem State.thermalUpdate_fixed (s : State) (m : ThermalSample) : (s.thermalUpdate m).fixed = s.fixed := by
  unfold State.thermalUpdate
  extract_lets a hot b w next p1 c d flowing ms p2 e cap die p3 f
  have hb : b.fixed = s.fixed := by
    dsimp only [b, a]
    split <;> simp
  have hc : c.fixed = s.fixed := by
    dsimp only [c]
    cases next <;> exact hb
  have he : e.fixed = s.fixed := (State.fixed_with _).trans ((State.setRegI_fixed _ _ _ _).trans hc)
  have hf : f.fixed = s.fixed := by
    dsimp only [f]
    cases e.power.thermal <;> exact he
  rw [State.sensed_fixed, hf]

@[simp] theorem State.flowDemand_fixed (s : State) : s.flowDemand.fixed = s.fixed := by simp [State.flowDemand]

@[simp] theorem State.railOut_fixed (s : State) (r : Nat) : (s.railOut r).fixed = s.fixed := by
  unfold State.railOut
  split <;> simp

@[simp] theorem State.railCondition_fixed (s : State) (r : Nat) (c : RailCondition) : (s.railCondition r c).fixed = s.fixed := by
  dsimp only [State.railCondition]
  repeat' split
  all_goals simp

@[simp] theorem State.readRail_fixed (s : State) (x : RailSample) : (s.readRail x).fixed = s.fixed := by
  dsimp only [State.readRail]
  repeat' split
  all_goals simp

@[simp] theorem State.telemetry_fixed (s : State) (rails : List RailSample) (mw : Nat) :
    (s.telemetry rails mw).fixed = s.fixed := by simp [State.telemetry]

@[simp] theorem State.vcoreStep_fixed (s : State) (die : Nat) (up : Bool) :
    (s.vcoreStep die up).fixed = s.fixed := by simp [State.vcoreStep]

@[simp] theorem State.dieLost_fixed (s : State) (d : Nat) : (s.dieLost d).fixed = s.fixed := by simp [State.dieLost]

@[simp] theorem State.dieUnlock_fixed (s : State) (d : Nat) : (s.dieUnlock d).fixed = s.fixed := by simp [State.dieUnlock]

@[simp] theorem State.rclkWrite_fixed (v : Nat) (s : State) : s.keepsOk (s.rclkWrite v) := by
  unfold State.rclkWrite
  split <;> simp

/-! ### Machine/Firmware.lean -/

@[simp] theorem State.runImage_fixed (s : State) (d : Nat) (img : Bytes) :
    (s.runImage d img).fixed = s.fixed := by simp [State.runImage]

@[simp] theorem State.slotResult_fixed (s : State) (d : Nat) (ok : Bool) :
    (s.slotResult d ok).fixed = s.fixed := by simp [State.slotResult]

@[simp] theorem State.fwOffset_fixed (v : Nat) (s : State) : s.keepsOk (s.fwOffset v) := by
  dsimp only [State.fwOffset]
  repeat' split
  all_goals simp

@[simp] theorem State.fwLoad_fixed (data : Bytes) (s : State) : s.keepsOk (s.fwLoad data) := by
  dsimp only [State.fwLoad]
  repeat' split
  all_goals simp

@[simp] theorem State.fwCommit_fixed (digest : Bytes) (s : State) : s.keepsOk (s.fwCommit digest) := by
  dsimp only [State.fwCommit]
  repeat' split
  all_goals simp

@[simp] theorem State.handoverWrite_fixed (v : Nat) (s : State) : s.keepsOk (s.handoverWrite v) := by
  dsimp only [State.handoverWrite]
  repeat' split
  all_goals simp

@[simp] theorem State.carryNumerics_fixed (s : State) : s.carryNumerics.fixed = s.fixed := by simp [State.carryNumerics]

@[simp] theorem State.handoverDone_fixed (s : State) (ok : Bool) : (s.handoverDone ok).fixed = s.fixed := by
  unfold State.handoverDone
  extract_lets img a boot b old boot2 c d
  have ha : a.fixed = s.fixed := by
    simp only [a, State.carryNumerics_fixed, State.setReg_fixed, State.runImage_fixed]
  have hd : d.fixed = s.fixed := by
    simp only [d, State.carryNumerics_fixed, State.setReg_fixed, State.runImage_fixed]
    exact State.fixed_with s
  split
  · rfl
  · split
    · rw [State.resetIfAsked_fixed, State.slotResult_fixed]
      exact ha
    · split
      · simp
      · rw [State.resetIfAsked_fixed, State.slotResult_fixed, hd]

/-! ### Machine/Copies.lean -/

@[simp] theorem State.startSave_fixed (s : State) : s.startSave.fixed = s.fixed := by
  dsimp only [State.startSave]
  repeat' split
  all_goals simp

@[simp] theorem State.autoSave_fixed (s : State) : s.autoSave.fixed = s.fixed := by
  unfold State.autoSave
  split <;> simp

@[simp] theorem State.configSave_fixed (v : Nat) (s : State) : s.keepsOk (s.configSave v) := by
  dsimp only [State.configSave]
  repeat' split
  all_goals simp

@[simp] theorem State.releaseHeld_fixed (s : State) : s.releaseHeld.fixed = s.fixed := by simp [State.releaseHeld]

@[simp] theorem State.saveDone_fixed (s : State) (ok : Bool) : (s.saveDone ok).fixed = s.fixed := by
  dsimp only [State.saveDone]
  split
  · rfl
  · rw [State.resetIfAsked_fixed, State.releaseHeld_fixed, State.event_fixed]
    split <;> simp

/-! ### Machine/Entries.lean -/

@[simp] theorem State.keepsOk_refuseIf {s : State} {b : Bool} {e : Nat} {x : Except Nat State} :
    s.keepsOk (refuseIf b e x) ↔ (b = false → s.keepsOk x) := by
  cases b <;> simp [refuseIf]

@[simp] theorem State.keepsOk_keep {s t : State} {sess : Nat} {r : Reg} {i v : Nat} :
    s.keepsOk (t.keep sess r i v) ↔ t.fixed = s.fixed := by
  dsimp only [State.keep]
  split <;> simp

@[simp] theorem State.radioStackEntry_fixed (s : State) (r : Reg) (v : Nat) : (s.radioStackEntry r v).fixed = s.fixed := by
  dsimp only [State.radioStackEntry]
  split <;> simp

@[simp] theorem State.radioPadEntry_fixed (s : State) (r : Reg) (v : Nat) :
    (s.radioPadEntry r v).fixed = s.fixed := by simp [State.radioPadEntry]

@[simp] theorem State.tierRule_fixed (sess : Nat) (r : Reg) (i v : Nat) (s : State) :
    s.keepsOk (s.tierRule sess r i v) := by
  simp [State.tierRule, apply_ite s.keepsOk]

@[simp] theorem State.schedRule_fixed (sess : Nat) (r : Reg) (i v : Nat) (s : State) :
    s.keepsOk (s.schedRule sess r i v) := by
  simp [State.schedRule, apply_ite s.keepsOk]

@[simp] theorem State.ldpcLoad_fixed (data : Bytes) (s : State) : s.keepsOk (s.ldpcLoad data) := by simp [State.ldpcLoad]

@[simp] theorem State.ldpcCommit_fixed (v : Nat) (s : State) : s.keepsOk (s.ldpcCommit v) := by
  dsimp only [State.ldpcCommit]
  repeat' split
  all_goals simp

@[simp] theorem State.cellCfgWrite_fixed (c v : Nat) (s : State) : s.keepsOk (s.cellCfgWrite c v) := by
  dsimp only [State.cellCfgWrite]
  repeat' split
  all_goals simp

@[simp] theorem State.ueRange_fixed (r : Reg) (c v base count : Nat) (s : State) : s.keepsOk (s.ueRange r c v base count) := by
  dsimp only [State.ueRange]
  repeat' split
  all_goals simp

@[simp] theorem State.cellMoveWrite_fixed (c : Nat) (data : Bytes) (s : State) : s.keepsOk (s.cellMoveWrite c data) := by
  dsimp only [State.cellMoveWrite]
  repeat' split
  all_goals simp

@[simp] theorem State.radioRule_fixed (sess : Nat) (r : Reg) (i v : Nat) (s : State) :
    s.keepsOk (s.radioRule sess r i v) := by
  simp [State.radioRule, apply_ite s.keepsOk]

@[simp] theorem State.classEntryWrite_fixed (i : Nat) (data : Bytes) (s : State) : s.keepsOk (s.classEntryWrite i data) := by
  dsimp only [State.classEntryWrite]
  repeat' split
  all_goals simp

@[simp] theorem State.qLevelWrite_fixed (s : State) (q v : Nat) : (s.qLevelWrite q v).fixed = s.fixed := by simp [State.qLevelWrite]

@[simp] theorem State.queueRule_fixed (sess role : Nat) (r : Reg) (i v : Nat) (s : State) :
    s.keepsOk (s.queueRule sess role r i v) := by
  simp [State.queueRule, apply_ite s.keepsOk]

@[simp] theorem State.fronthaulRule_fixed (sess : Nat) (r : Reg) (i v : Nat) (s : State) :
    s.keepsOk (s.fronthaulRule sess r i v) := by
  simp [State.fronthaulRule, apply_ite s.keepsOk]

@[simp] theorem State.timeRule_fixed (sess : Nat) (r : Reg) (i v : Nat) (s : State) :
    s.keepsOk (s.timeRule sess r i v) := by
  simp [State.timeRule, apply_ite s.keepsOk]

@[simp] theorem State.relevoRule_fixed (sess : Nat) (r : Reg) (i v : Nat) (s : State) :
    s.keepsOk (s.relevoRule sess r i v) := by
  simp [State.relevoRule, apply_ite s.keepsOk]

@[simp] theorem State.sliceMapRule_fixed (i v : Nat) (s : State) : s.keepsOk (s.sliceMapRule i v) := by
  dsimp only [State.sliceMapRule]
  split
  next => simp
  next h => simp [State.sliceMapWrite_fixed _ _ _ _ h]

@[simp] theorem State.hostRule_fixed (sess : Nat) (r : Reg) (i v : Nat) (s : State) :
    s.keepsOk (s.hostRule sess r i v) := by
  simp [State.hostRule, apply_ite s.keepsOk]

@[simp] theorem State.setSecret_fixed (s : State) (r : Reg) (i : Nat) (k : Bytes) : (s.setSecret r i k).fixed = s.fixed := by
  dsimp only [State.setSecret]
  repeat' split
  all_goals simp

@[simp] theorem State.secretWrite_fixed (r : Reg) (i : Nat) (v : Bytes) (s : State) : s.keepsOk (s.secretWrite r i v) := by
  unfold State.secretWrite
  split <;> simp

@[simp] theorem State.releasePart_fixed (s : State) : s.keepsOk s.releasePart := by
  unfold State.releasePart
  split <;> simp

@[simp] theorem State.anchorWrite_fixed (r : Reg) (v : Bytes) (s : State) : s.keepsOk (s.anchorWrite r v) := by
  unfold State.anchorWrite
  split <;> simp

@[simp] theorem State.securityRule_fixed (sess : Nat) (r : Reg) (i v : Nat) (s : State) :
    s.keepsOk (s.securityRule sess r i v) := by
  simp [State.securityRule, apply_ite s.keepsOk]

@[simp] theorem State.fwConfirm_fixed (v : Nat) (s : State) : s.keepsOk (s.fwConfirm v) := by
  dsimp only [State.fwConfirm]
  repeat' split
  all_goals simp

@[simp] theorem State.serviceRule_fixed (sess : Nat) (r : Reg) (i v : Nat) (s : State) :
    s.keepsOk (s.serviceRule sess r i v) := by
  simp [State.serviceRule, apply_ite s.keepsOk]

@[simp] theorem State.octetRule_fixed (r : Reg) (i : Nat) (v : Bytes) (s : State) :
    s.keepsOk (s.octetRule r i v) := by
  simp [State.octetRule, apply_ite s.keepsOk]

@[simp] theorem State.numberRule_fixed (sess role : Nat) (r : Reg) (i v : Nat) (s : State) :
    s.keepsOk (s.numberRule sess role r i v) := by
  dsimp only [State.numberRule]
  repeat' split
  all_goals simp

@[simp] theorem State.entryRule_fixed (sess role : Nat) (r : Reg) (i : Nat) (v : Bytes) (s : State) :
    s.keepsOk (s.entryRule sess role r i v) := by
  unfold State.entryRule
  split <;> simp

@[simp] theorem State.issueNonce_fixed (s : State) : s.issueNonce.2.fixed = s.fixed := by simp [State.issueNonce]

@[simp] theorem State.readEntry_fixed (s : State) (sess : Nat) (r : Reg) (i : Nat) : (s.readEntry sess r i).2.fixed = s.fixed := by
  dsimp only [State.readEntry]
  repeat' split
  all_goals simp

/-! ### Machine/Sessions.lean -/

@[simp] theorem State.makeReport_fixed (s : State) (n : Nat) (nonce : Bytes) :
    (s.makeReport n nonce).fixed = s.fixed := by simp [State.makeReport]

@[simp] theorem State.claimRule_fixed (data : Bytes) (s : State) : s.keepsOk (s.claimRule data) := by
  unfold State.claimRule
  extract_lets keys a b prot
  apply_rules [State.keepsOk_ite, State.keepsOk_error]
  rw [State.keepsOk_ok, State.autoSave_fixed, State.fixed_with]
  refine (State.fixed_foldl (fun s k => State.setSecret_fixed s _ _ _) _ _).trans ?_
  rw [State.setOct_fixed, State.setOct_fixed]

@[simp] theorem State.noteApplied_fixed (s : State) (r : Reg) (i : Nat) (c : Change) : (s.noteApplied r i c).fixed = s.fixed := by
  unfold State.noteApplied
  split <;> simp

@[simp] theorem State.dropChange_fixed (s : State) (nonce : BitVec 128) :
    (s.dropChange nonce).fixed = s.fixed := by simp [State.dropChange]

@[simp] theorem State.applyChange_fixed (s : State) (n : Nat) (c : Change) (r : Reg) (i : Nat) :
    (s.applyChange n c r i).fixed = s.fixed := by
  dsimp only [State.applyChange]
  split
  next h => simp [State.entryRule_fixed _ _ _ _ _ _ _ h]
  next => simp

@[simp] theorem State.openChange_fixed (s : State) (c : Change) : (s.openChange c).fixed = s.fixed := by simp [State.openChange]

@[simp] theorem State.endorse_fixed (s : State) (n : Nat) (r : Reg) (i : Nat) (v : Bytes) (e : Endorsement) :
    (s.endorse n r i v e).fixed = s.fixed := by
  dsimp only [State.endorse]
  repeat' split
  all_goals simp

@[simp] theorem State.putEntry_fixed (s : State) (n : Nat) (r : Reg) (fam : Nat) (v : Bytes) :
    (s.putEntry n r fam v).fixed = s.fixed := by
  dsimp only [State.putEntry]
  repeat' split
  all_goals simp

@[simp] theorem State.opRead_fixed (s : State) (n ix sub : Nat) : (s.opRead n ix sub).2.fixed = s.fixed := by
  dsimp only [State.opRead]
  repeat' split
  all_goals simp

@[simp] theorem State.opWrite_fixed (s : State) (n ix sub : Nat) (v : Bytes) : (s.opWrite n ix sub v).2.fixed = s.fixed := by
  dsimp only [State.opWrite]
  repeat' split
  all_goals simp

@[simp] theorem State.opEndorsed_fixed (s : State) (n ix sub : Nat) (v : Bytes) (e : Endorsement) :
    (s.opEndorsed n ix sub v e).2.fixed = s.fixed := by
  dsimp only [State.opEndorsed]
  repeat' split
  all_goals simp

@[simp] theorem State.opEvents_fixed (s : State) (n words : Nat) : (s.opEvents n words).2.fixed = s.fixed := by
  unfold State.opEvents
  split <;> simp

@[simp] theorem State.doOp_fixed (s : State) (n : Nat) (o : ReqOp) : (s.doOp n o).2.fixed = s.fixed := by
  unfold State.doOp
  split <;> simp

@[simp] theorem State.doSessionless_fixed (s : State) (o : ReqOp) : (s.doSessionless o).2.fixed = s.fixed := by
  dsimp only [State.doSessionless]
  repeat' split
  all_goals simp

theorem State.runOps_fixed {run : State → ReqOp → OpAnswer × State} (h : ∀ s o, (run s o).2.fixed = s.fixed) (n : Nat)
    (stopped : Bool)
    (ops : List ReqOp) (s : State) : (runOps run n stopped ops s).2.fixed = s.fixed := by
  induction ops generalizing stopped s with
  | nil => rfl
  | cons o os ih =>
    dsimp only [runOps]
    rw [ih]
    split
    · rfl
    · exact h s o

@[simp] theorem State.closeSession_fixed (s : State) (n : Nat) : (s.closeSession n).fixed = s.fixed := by simp [State.closeSession]

@[simp] theorem State.afterRequest_fixed (before s : State) : (State.afterRequest before s).fixed = s.fixed := by
  unfold State.afterRequest
  rw [State.resetIfAsked_fixed, State.fixed_foldl]
  intro s n
  split <;> simp

@[simp] theorem State.serveRequest_fixed (s : State) (n : Nat) (ops : List ReqOp) : (s.serveRequest n ops).fixed = s.fixed := by
  dsimp only [State.serveRequest]
  split
  · rfl
  · rw [State.afterRequest_fixed, State.fixed_ite, State.answer_fixed, State.runOps_fixed fun s o => State.doOp_fixed s n o]
    simp

@[simp] theorem State.replyVia_fixed (s : State) (via : Transport) (dest f : Bytes) : (s.replyVia via dest f).fixed = s.fixed := by
  unfold State.replyVia
  split <;> simp

@[simp] theorem State.identityFail_fixed (s : State) : s.identityFail.fixed = s.fixed := by simp [State.identityFail]

@[simp] theorem State.serveSessionless_fixed (s : State) (ops : List ReqOp) : (s.serveSessionless ops).fixed = s.fixed := by
  dsimp only [State.serveSessionless]
  rw [State.replyVia_fixed, State.runOps_fixed State.doSessionless_fixed]

@[simp] theorem State.dropFrame_fixed (s : State) (via : Transport) : (s.dropFrame via).fixed = s.fixed := by
  unfold State.dropFrame
  split <;> simp

@[simp] theorem State.openVia_fixed (s : State) (via : Transport) (source role : Nat) (nc : Bytes) :
    (s.openVia via source role nc).fixed = s.fixed := by
  dsimp only [State.openVia]
  repeat' split
  all_goals simp

@[simp] theorem State.elseFail_fixed (s : State) (via : Transport) : (s.elseFail via).fixed = s.fixed := by simp [State.elseFail]

@[simp] theorem State.proofFailed_fixed (s : State) (role : Nat) : (s.proofFailed role).fixed = s.fixed := by
  dsimp only [State.proofFailed]
  split <;> simp

@[simp] theorem State.acceptSession_fixed (s : State) (n : Nat) :
    (s.acceptSession n).fixed = s.fixed := by simp [State.acceptSession]

@[simp] theorem State.proofVia_fixed (s : State) (via : Transport) (n : Nat) (tag : Bytes) :
    (s.proofVia via n tag).fixed = s.fixed := by simp [State.proofVia]

@[simp] theorem State.authFailed_fixed (s : State) (n : Nat) : (s.authFailed n).fixed = s.fixed := by simp [State.authFailed]

@[simp] theorem State.mailboxRequest_fixed (s : State) (f : Bytes) :
    (s.mailboxRequest f).fixed = s.fixed := by simp [State.mailboxRequest]

@[simp] theorem State.mailboxFrame_fixed (s : State) (f : Bytes) : (s.mailboxFrame f).fixed = s.fixed := by
  unfold State.mailboxFrame
  split <;> simp

@[simp] theorem State.mailboxRun_fixed (s : State) (f : Bytes) : (s.mailboxRun f).fixed = s.fixed := by
  dsimp only [State.mailboxRun]
  repeat' split
  all_goals simp

@[simp] theorem State.mailboxEnd_fixed (s : State) : s.mailboxEnd.fixed = s.fixed := by
  unfold State.mailboxEnd
  split <;> simp

@[simp] theorem State.mailboxWrite_fixed (s : State) (len : Nat) (frame : Bytes) : (s.mailboxWrite len frame).fixed = s.fixed := by
  unfold State.mailboxWrite
  split <;> simp

/-! ### Machine/Boot.lean -/

@[simp] theorem State.bootIdentity_fixed (s : State) (i : BootInput) : (s.bootIdentity i).fixed = s.fixed := by
  dsimp only [State.bootIdentity]
  repeat' split
  all_goals simp

@[simp] theorem State.bootCopy_fixed (s : State) : s.bootCopy.fixed = s.fixed := by
  dsimp only [State.bootCopy]
  split <;> simp

@[simp] theorem State.bootNumerics_fixed (s : State) (ok : Bool) : (s.bootNumerics ok).fixed = s.fixed := by
  dsimp only [State.bootNumerics]
  repeat' split
  all_goals simp

@[simp] theorem State.showSlots_fixed (s : State) (d minVersion : Nat) :
    (s.showSlots d minVersion).fixed = s.fixed := by simp [State.showSlots]

@[simp] theorem State.bootImage_fixed (s : State) (numerics : Bool) : (s.bootImage numerics).fixed = s.fixed := by
  dsimp only [State.bootImage]
  repeat' split
  all_goals simp

@[simp] theorem State.bootDies_fixed (s : State) (locked : Nat) : (s.bootDies locked).fixed = s.fixed := by simp [State.bootDies]

@[simp] theorem State.bootStacks_fixed (s : State) (trained : Nat) :
    (s.bootStacks trained).fixed = s.fixed := by simp [State.bootStacks]

@[simp] theorem State.syncTier_fixed (s : State) : s.syncTier.fixed = s.fixed := by simp [State.syncTier]

@[simp] theorem State.secretRecord_fixed (s : State) (x : CopyRec) : s.keepsSome (s.secretRecord x) := by
  dsimp only [State.secretRecord]
  repeat' split
  all_goals simp

@[simp] theorem State.entryRecord_fixed (s : State) (isSealed enable : Bool) (x : CopyRec) :
    s.keepsSome (s.entryRecord isSealed enable x) := by
  dsimp only [State.entryRecord]
  split
  next t ht =>
    cases isSealed with
    | false => cases ht
    | true => simp [State.secretRecord_fixed _ _ _ ht]
  · split
    · simp
    · split
      · simp
      · split
        next h => simp [State.entryRule_fixed _ _ _ _ _ _ _ h]
        · simp

@[simp] theorem State.tilthRecord_fixed (s : State) (v : Bytes) : s.keepsSome (s.tilthRecord v) := by
  dsimp only [State.tilthRecord]
  split
  next h => simp [State.tilthCommit_fixed _ _ _ h]
  next => simp

@[simp] theorem State.pasidRecord_fixed (s : State) (v : Bytes) : s.keepsSome (s.pasidRecord v) := by
  dsimp only [State.pasidRecord]
  split
  · simp
  · split
    next h => simp [State.pasidCommit_fixed _ _ _ h]
    next => simp

@[simp] theorem State.wfqRecord_fixed (s : State) (die : Nat) (v : Bytes) : s.keepsSome (s.wfqRecord die v) := by
  dsimp only [State.wfqRecord]
  split <;> simp

@[simp] theorem State.polRecord_fixed (s : State) (die : Nat) (v : Bytes) : s.keepsSome (s.polRecord die v) := by
  dsimp only [State.polRecord]
  split <;> simp

@[simp] theorem State.fabWfqRecord_fixed (s : State) (v : Bytes) : s.keepsSome (s.fabWfqRecord v) := by
  dsimp only [State.fabWfqRecord]
  split <;> simp

@[simp] theorem State.ldpcRecord_fixed (s : State) (v : Bytes) : s.keepsSome (s.ldpcRecord v) := by
  unfold State.ldpcRecord
  split <;> simp

@[simp] theorem State.tableRecord_fixed (s : State) (isSealed : Bool) (x : CopyRec) : s.keepsSome (s.tableRecord isSealed x) := by
  dsimp only [State.tableRecord]
  repeat' split
  all_goals simp

theorem State.bootPass_fixed {run : State → Bool → CopyRec → Option State} (h : ∀ (s : State) b x, s.keepsSome (run s b x))
    (l : List (Bool × CopyRec)) (s : State) : (bootPass run l s).2.fixed = s.fixed := by
  induction l generalizing s with
  | nil => rfl
  | cons x xs ih =>
    dsimp only [bootPass]
    split
    next h' => simp [ih, h _ _ _ _ h']
    next => simp [ih]

@[simp] theorem State.applyCopy_fixed (s : State) (c : Copy) : (s.applyCopy c).fixed = s.fixed := by
  dsimp only [State.applyCopy]
  rw [State.bootPass_fixed fun s b x => State.entryRecord_fixed s b true x, State.bootPass_fixed State.tableRecord_fixed,
    State.bootPass_fixed fun s b x => State.entryRecord_fixed s b false x]

@[simp] theorem State.bootRecords_fixed (s : State) : s.bootRecords.fixed = s.fixed := by
  unfold State.bootRecords
  split <;> simp

@[simp] theorem State.bootPrograms_fixed (s : State) : s.bootPrograms.fixed = s.fixed := by simp [State.bootPrograms]

@[simp] theorem State.recoverQueue_fixed (s : State) (q : Nat) : (s.recoverQueue q).fixed = s.fixed := by
  dsimp only [State.recoverQueue]
  split
  next h => exact State.qCfgWrite_fixed _ _ _ _ _ h
  next => rfl

@[simp] theorem State.bootPorts_fixed (s : State) : s.bootPorts.fixed = s.fixed := by simp [State.bootPorts]

@[simp] theorem State.reportLatches_fixed (s : State) : s.reportLatches.fixed = s.fixed := by
  unfold State.reportLatches
  split <;> simp

@[simp] theorem State.bootStageEnds_fixed (s : State) (i : BootInput) : (s.bootStageEnds i).fixed = s.fixed := by
  unfold State.bootStageEnds
  split <;> simp

/-! ### Machine/Network.lean -/

@[simp] theorem State.sendBack_fixed (s : State) (m : Nat) (got : Bytes) (type : Nat) (body : Bytes) :
    (s.sendBack m got type body).fixed = s.fixed := by simp [State.sendBack]

@[simp] theorem State.arpReply_fixed (s : State) (m : Nat) (f : Bytes) :
    (s.arpReply m f).fixed = s.fixed := by simp [State.arpReply]

@[simp] theorem State.echoV4_fixed (s : State) (m : Nat) (f x : Bytes) : (s.echoV4 m f x).fixed = s.fixed := by simp [State.echoV4]

@[simp] theorem State.sendV6_fixed (s : State) (m : Nat) (f y : Bytes) : (s.sendV6 m f y).fixed = s.fixed := by simp [State.sendV6]

@[simp] theorem State.neighbour_fixed (s : State) (m : Nat) (f : Bytes) :
    (s.neighbour m f).fixed = s.fixed := by simp [State.neighbour]

@[simp] theorem State.netRequest_fixed (s : State) (via : Transport) (source : Nat) (f : Bytes) :
    (s.netRequest via source f).fixed = s.fixed := by simp [State.netRequest]

@[simp] theorem State.netFrame_fixed (s : State) (via : Transport) (source : Nat) (f : Bytes) :
    (s.netFrame via source f).fixed = s.fixed := by
  dsimp only [State.netFrame]
  repeat' split
  all_goals simp

@[simp] theorem State.datagram_fixed (s : State) (via : Transport) (srcAddr dstAddr u : Bytes) :
    (s.datagram via srcAddr dstAddr u).fixed = s.fixed := by simp [State.datagram]

@[simp] theorem State.netPacket_fixed (s : State) (via : Transport) (f : Bytes) : (s.netPacket via f).fixed = s.fixed := by
  dsimp only [State.netPacket]
  repeat' split
  all_goals simp

end Sys2Proof.Machine
end

section
/-! O55: every command completes. The commands that choose between answers come first, each with its lemma. -/

namespace Sys2Proof.Machine

@[simp] theorem execDoorbell_answers (slice queue : Nat) (tail : W32) (writes : List HostWrite) (s : State) :
    s.answers (execDoorbell slice queue tail writes s) := by
  dsimp only [execDoorbell]
  split <;> simp

@[simp] theorem execRingCfg_answers (slice queue : Nat) (value : W32) (cmdBase cplBase : W64) (s : State) :
    s.answers (execRingCfg slice queue value cmdBase cplBase s) := by
  unfold execRingCfg
  split <;> simp

@[simp] theorem execCplHead_answers (slice queue : Nat) (value : W32) (s : State) :
    s.answers (execCplHead slice queue value s) := by
  unfold execCplHead
  split <;> simp

@[simp] theorem execFetchCompletion_answers (slice page : Nat) (peer : Bytes) (result : FetchResult) (s : State) :
    s.answers (execFetchCompletion slice page peer result s) := by
  dsimp only [execFetchCompletion]
  repeat' split
  all_goals simp

@[simp] theorem execWindowStart_answers (entry occurrence : Nat) (s : State) :
    s.answers (execWindowStart entry occurrence s) := by
  dsimp only [execWindowStart]
  rw [State.answers_next]
  refine State.fixed_getD rfl fun t h => ?_
  obtain ⟨e, -, he⟩ := List.exists_of_findSome?_eq_some h
  repeat' split at he
  all_goals
    cases he
  all_goals simp

@[simp] theorem execWindowEnd_answers (entry occurrence : Nat) (s : State) : s.answers (execWindowEnd entry occurrence s) := by
  unfold execWindowEnd
  split <;> simp

@[simp] theorem execBundle_answers (core : Nat) (b : Bundle) (s : State) : s.answers (execBundle core b s) := by
  dsimp only [execBundle]
  rw [State.answers_next]
  refine State.issue_fixed s _ _ fun s => ?_
  split <;> simp

@[simp] theorem execProgramRewriteDone_answers (core : Nat) (s : State) :
    s.answers (execProgramRewriteDone core s) := by
  dsimp only [execProgramRewriteDone]
  split <;> simp

@[simp] theorem execUeAccessArrival_answers (core : Nat) (s : State) : s.answers (execUeAccessArrival core s) := by
  unfold execUeAccessArrival
  split <;> simp

@[simp] theorem execJobDeadlinePassed_answers (die slot : Nat) (s : State) :
    s.answers (execJobDeadlinePassed die slot s) := by
  dsimp only [execJobDeadlinePassed]
  split <;> simp

@[simp] theorem execCoderJobEnd_answers (die slot : Nat) (s : State) : s.answers (execCoderJobEnd die slot s) := by
  unfold execCoderJobEnd
  split <;> simp

@[simp] theorem execMoveTailEnd_answers (cell : Nat) (s : State) : s.answers (execMoveTailEnd cell s) := by
  dsimp only [execMoveTailEnd]
  repeat' split
  all_goals simp

@[simp] theorem execDownDoorbell_answers (channel : Nat) (tail : W32) (consumed : Option (W32 × W32)) (writes : List HostWrite)
    (s : State) :
    s.answers (execDownDoorbell channel tail consumed writes s) := by
  dsimp only [execDownDoorbell]
  repeat' split
  all_goals simp

@[simp] theorem execFronthaulLinkChange_answers (port : Nat) (up fecLock : Bool) (s : State) :
    s.answers (execFronthaulLinkChange port up fecLock s) := by
  unfold execFronthaulLinkChange
  split <;> simp

@[simp] theorem execCkTick_answers (s : State) : s.answers (execCkTick s) := by
  unfold execCkTick
  split <;> simp

@[simp] theorem execApplyTick_answers (s : State) : s.answers (execApplyTick s) := by
  unfold execApplyTick
  split <;> simp

@[simp] theorem execHoldoverEntry_answers (tb : Nat) (s : State) : s.answers (execHoldoverEntry tb s) := by
  unfold execHoldoverEntry
  split <;> simp

@[simp] theorem execTrigPulseEnd_answers (n : Nat) (s : State) :
    s.answers (execTrigPulseEnd n s) := by
  dsimp only [execTrigPulseEnd]
  split <;> simp

@[simp] theorem execPpsOutEdge_answers (s : State) : s.answers (execPpsOutEdge s) := by
  dsimp only [execPpsOutEdge]
  repeat' split
  all_goals simp

@[simp] theorem execPpsOutPulseEnd_answers (s : State) : s.answers (execPpsOutPulseEnd s) := by
  unfold execPpsOutPulseEnd
  split <;> simp

@[simp] theorem execFabricLinkUp_answers (port peer : Nat) (s : State) : s.answers (execFabricLinkUp port peer s) := by
  unfold execFabricLinkUp
  split <;> simp

@[simp] theorem execReadData_answers (s : State) : s.answers (execReadData s) := by
  dsimp only [execReadData]
  split
  next h =>
    have ht := State.takeResponse_fixed h
    split <;> simp [ht]
  next h => simp [State.takeResponse_fixed h]
  next => simp

@[simp] theorem execWriteAck_answers (s : State) : s.answers (execWriteAck s) := by
  dsimp only [execWriteAck]
  split
  next h => simp [State.takeResponse_fixed h]
  next => simp

@[simp] theorem execAtomicAck_answers (s : State) : s.answers (execAtomicAck s) := by
  dsimp only [execAtomicAck]
  split
  next h =>
    have ht := State.takeResponse_fixed h
    split <;> simp [ht]
  next h => simp [State.takeResponse_fixed h]
  next => simp

@[simp] theorem execDrain_answers (s : State) : s.answers (execDrain s) := by
  unfold execDrain
  split <;> simp

@[simp] theorem execDrainAck_answers (s : State) : s.answers (execDrainAck s) := by
  dsimp only [execDrainAck]
  split
  next h =>
    have ht := State.takeResponse_fixed h
    split
    · rw [State.answers_next]
      split <;> simp [ht]
    · simp [ht]
  next => simp

@[simp] theorem execBulkWrite_answers (s : State) : s.answers (execBulkWrite s) := by
  unfold execBulkWrite
  split <;> simp

@[simp] theorem execBulkRead_answers (s : State) : s.answers (execBulkRead s) := by
  unfold execBulkRead
  split <;> simp

@[simp] theorem execBulkAck_answers (s : State) : s.answers (execBulkAck s) := by
  dsimp only [execBulkAck]
  split
  next h => simp [State.takeResponse_fixed h]
  next => simp

@[simp] theorem execBulkData_answers (s : State) : s.answers (execBulkData s) := by
  dsimp only [execBulkData]
  split
  next h =>
    have ht := State.takeResponse_fixed h
    split <;> simp [ht]
  next h => simp [State.takeResponse_fixed h]
  next => simp

@[simp] theorem execRefuse_answers (s : State) : s.answers (execRefuse s) := by
  dsimp only [execRefuse]
  split
  next h =>
    have ht := State.takeResponse_fixed h
    split <;> simp [ht]
  next h => simp [State.takeResponse_fixed h]
  next => simp

@[simp] theorem execCellData_answers (s : State) : s.answers (execCellData s) := by
  unfold execCellData
  split <;> simp

@[simp] theorem execCellAck_answers (s : State) : s.answers (execCellAck s) := by
  dsimp only [execCellAck]
  split
  next h => simp [State.takeResponse_fixed h]
  next => simp

@[simp] theorem execRouteDrainTimeout_answers (dest : Nat) (s : State) : s.answers (execRouteDrainTimeout dest s) := by
  dsimp only [execRouteDrainTimeout]
  repeat' split
  all_goals simp

@[simp] theorem execReqTimeout_answers (dest job : Nat) (seq : W64) (s : State) : s.answers (execReqTimeout dest job seq s) := by
  dsimp only [execReqTimeout]
  repeat' split
  all_goals simp

@[simp] theorem execUnitOut_answers (unit : UnitId) (router : Bool) (s : State) : s.answers (execUnitOut unit router s) := by
  unfold execUnitOut
  split <;> simp

@[simp] theorem execLinkRetrain_answers (link : Nat) (s : State) : s.answers (execLinkRetrain link s) := by
  unfold execLinkRetrain
  split <;> simp

@[simp] theorem execShadowStart_answers (s : State) : s.answers (execShadowStart s) := by
  dsimp only [execShadowStart]
  split
  · simp
  · split
    · simp
    · split
      next h => simp [State.fixed_of_snd h]
      next => simp

@[simp] theorem execShadowMaxAge_answers (s : State) : s.answers (execShadowMaxAge s) := by
  unfold execShadowMaxAge
  split <;> simp

@[simp] theorem execShadowCompare_answers (shadow : ShadowResult) (third : Option ShadowResult) (s : State) :
    s.answers (execShadowCompare shadow third s) := by
  unfold execShadowCompare
  split <;> simp

@[simp] theorem execSliceSaveDone_answers (slice : Nat) (s : State) : s.answers (execSliceSaveDone slice s) := by
  dsimp only [execSliceSaveDone]
  repeat' split
  all_goals simp

@[simp] theorem execSliceRestoreDone_answers (slice : Nat) (s : State) : s.answers (execSliceRestoreDone slice s) := by
  dsimp only [execSliceRestoreDone]
  split
  · simp
  · split
    · simp
    · split
      next h => simp [State.restored_fixed _ _ _ _ _ h]
      next => simp

@[simp] theorem execPcieLinkUp_answers (lanes rate : Nat) (s : State) : s.answers (execPcieLinkUp lanes rate s) := by
  unfold execPcieLinkUp
  split <;> simp

@[simp] theorem execHostRequestFailed_answers (what : HostRequest) (s : State) : s.answers (execHostRequestFailed what s) := by
  dsimp only [execHostRequestFailed]
  repeat' split
  all_goals simp

@[simp] theorem execSuppliesRestored_answers (s : State) : s.answers (execSuppliesRestored s) := by
  unfold execSuppliesRestored
  split <;> simp

@[simp] theorem execResetRelease_answers (s : State) : s.answers (execResetRelease s) := by
  unfold execResetRelease
  split <;> simp

@[simp] theorem execFlowLow_answers (s : State) : s.answers (execFlowLow s) := by
  unfold execFlowLow
  split <;> simp

@[simp] theorem execSensorCalibration_answers (die sensor : Nat) (differs : Bool) (s : State) :
    s.answers (execSensorCalibration die sensor differs s) := by
  dsimp only [execSensorCalibration]
  split <;> simp

@[simp] theorem execRefRestored_answers (locked : Bool) (s : State) : s.answers (execRefRestored locked s) := by
  unfold execRefRestored
  split <;> simp

@[simp] theorem execHandoverConfirmTimeout_answers (s : State) : s.answers (execHandoverConfirmTimeout s) := by
  unfold execHandoverConfirmTimeout
  split <;> simp

@[simp] theorem execRecoveryHoldEnd_answers (q : Nat) (s : State) :
    s.answers (execRecoveryHoldEnd q s) := by
  dsimp only [execRecoveryHoldEnd]
  split <;> simp

@[simp] theorem execChangeExpired_answers (nonce : BitVec 128) (s : State) : s.answers (execChangeExpired nonce s) := by
  unfold execChangeExpired
  split <;> simp

@[simp] theorem execLockoutEnd_answers (role : Nat) (s : State) :
    s.answers (execLockoutEnd role s) := by
  dsimp only [execLockoutEnd]
  split <;> simp

@[simp] theorem execMgmtFrameDiscarded_answers (via : Transport) (why : DiscardReason) (s : State) :
    s.answers (execMgmtFrameDiscarded via why s) := by
  unfold execMgmtFrameDiscarded
  split <;> simp

/-- No command stops. One whose answer is a single operation's result is unfolded to it here; the others have their lemmas above. -/
theorem exec_answers (i : Instr) (s : State) : s.answers (exec i s) := by
  cases i <;> dsimp only [exec,
    execContextPlaced, execEngineGrant, execDmaSlotGrant, execCommit, execPassBoundary, execLcPreemptKill, execKillRequest,
    execKillDone, execEngineCheckFault, execSpillDone, execBeReclaim, execClearDone, execPrefetchStart, execAgeTick,
    execLoamMapCommit, execLoamQuotaPages, execPrivQuotaFrames, execSpQuotaBytes, execLcFloorBytes, execTilthLoadData,
    execTilthPrepared, execRadioStart, execSetClass, execMove, execLoopm, execLoop, execAcsSetup, execAcsStep, execAcsLoadpm,
    execAcsStorepm, execAcsBest, execAcsTb, execProgSwap, execHandlerEntry, execHalt, execProgLoadData, execProgCommit, execUeRd,
    execUeWr, execUeSync, execEngq, execCode, execLdpcDecode, execLdpcEncode, execPolarDecode, execPolarEncode, execFft,
    execInverseFft, execDownDescriptor, execRhcCfg, execXfer, execFrameReceived, execFrameTransmitted, execQueueRead,
    execQueueRelease, execMark, execRewind, execFlush, execStaleCheck, execQueueSample, execQCfg, execQueueSelect, execWfqCommit,
    execPolCommit, execPortMode, execStepNs, execFrameOffsetNs, execServoSrc, execDelayReq, execSlotBoundary, execSymbolBoundary,
    execRadioFrameBoundary, execTrigEdge, execTrigCfg, execCapEdge, execPpsInEdge, execCapRead, execPpsInRead, execCalibration,
    execFlitReceived, execRetrain, execFabricPortDown, execFabricRead, execFabricWrite, execAtomic, execRouteTable,
    execRouteCommit, execRelevoWfqCommit, execJobCfg, execJobTeardown, execCtxJobId, execWinLoadData, execWinCommit,
    execFabricEnable, execFabricRevoke, execJobSnapshot, execBuddyAdopt, execRestoreFromBuddy, execBuddyRelease, execHeartbeat,
    execHbEcho, execSelfFence, execReportEpochEnd, execScrub, execCeSecond, execLinkDown, execMeQuarantine, execCdOutMask,
    execShadowCopyDone, execPasidLoadData, execCtxPasid, execCtxPrivReq, execCtxSharedReq, execFreeze, execThaw, execSliceSave,
    execSliceRestore, execFunctionLevelReset, execResetN, execHubWatchdog, execSeqFault, execThermtrip, execPowerOff, execPowerOn,
    execResetRequest, execControlPeriod, execPowerCapW, execThermalUpdate, execFlowDemandUpdate, execRailOutOfRange,
    execTelemetryUpdate, execPmbAlert, execAvsStep, execTimingMarginLow, execRefLost, execRootPllUnlock, execDiePllUnlock,
    execDiePllRelock, execCrossingStall, execRclkCfg, execFwLoadData, execFwCommit, execHandover, execHandoverComplete,
    execConfigSave, execConfigSaveDone, execFwConfirm, execNonceLapse, execRead, execWrite, execWriteEndorsed, execEventRead,
    execRecall, execClose, execEndorseNonce, execAttestNonce, execClaim, execOpenSession, execProof, execSessionIdle,
    execMbReqLen, execBootStage, execCopy, execCopy2d, execFill, execTranspose, execToPanels, execGather, execFillRandom,
    execHostRead, execHostWrite, execLoamAcquire, execLoamRelease, execMatmul, execCmatmul, execFullSum, execMap, execBinary,
    execConvert, execLineMax, execSoftmaxStep, execSoftmaxExact, execNormalise, execNormStats, execNormApply, execFload,
    execFstore, execFstoreShared, execFaddI64, execFfetchAddI64, execFswapI64, execFcasI64, execFaddF32Fast, execFaddKrec,
    execNop, execWait, execWaitMem, execFenceFabric, execSetSeed, execReadTime] <;> simp

end Sys2Proof.Machine
end

section
/-! O55: one step. -/

namespace Sys2Proof.Machine

theorem step_of_pending_nil {s : State} (h : s.pending = []) : step s = .next s := by
  rw [step, h]

/-- A step takes the front command away before the command runs. -/
theorem step_of_pending_cons {s : State} {i : Instr} {rest : List Instr} (h : s.pending = i :: rest) :
    step s = exec i { s with pending := rest } := by
  rw [step, h]

theorem step_takes_the_front (s : State) : ∃ t, step s = .next t ∧ t.pending = s.pending.tail ∧ t.build = s.build := by
  cases h : s.pending with
  | nil => exact ⟨s, step_of_pending_nil h, h, rfl⟩
  | cons i rest =>
    rw [step_of_pending_cons h]
    exact State.exists_of_answers (exec_answers i _)

/-- Settles O55, by one lemma for each operation that its result has the queue and the build of the state it was given. That no
command stops is the model's own reading (log entries 3 and 5): every arm of `exec` answers a next state. -/
theorem everyCommandCompletesAndLeavesTheQueue : Obligations.EveryCommandCompletesAndLeavesTheQueue :=
  ⟨fun i s => State.exists_of_answers (exec_answers i s), step_takes_the_front⟩

end Sys2Proof.Machine
end

section
/-! O37: what a response does. `State.takeResponse` is said once, in the words of the claim (`heard`, `answers`); each command that
a response brings then has one rule for each of its outcomes. -/

open Sys2Proof.Claims

namespace Sys2Proof.Machine

variable {s : State} {p : Packet} {o : Sent}

/-- The request that a response answers, where it is still wanted. -/
def State.wanted (s : State) (p : Packet) : Option Sent := (s.sentOf p).filter fun o => !o.dropped

theorem wanted_eq_some_iff : s.wanted p = some o ↔ answers s p o := by
  simp [State.wanted, Option.filter_eq_some_iff]

theorem wanted_eq_none_iff : s.wanted p = none ↔ ∀ o, ¬ answers s p o := by
  simp only [Option.eq_none_iff_forall_ne_some, ne_eq, wanted_eq_some_iff]

/-- The first response of its kind is taken: its SEQ is marked, and its request goes to the command while it is wanted. -/
theorem takeResponse_of_arrived {kind : Nat} (h : s.arrivedOf kind = some p) :
    s.takeResponse kind = some (p, s.wanted p, heard s p) := by
  simp only [State.takeResponse, heard, State.wanted, h]
  cases s.sentOf p with
  | none => rfl
  | some o => cases hd : o.dropped <;> simp [Option.filter, hd]

/-! ### READ_DATA, WRITE_ACK and ATOMIC_ACK (R355 to R357) -/

theorem exec_readData_of_load {c off : Nat} (h : s.arrivedOf pkReadData = some p) (ho : answers s p o)
    (hw : o.what = .load c off) : exec .readData s = .next ((heard s p).landFor c o off p.payload) := by
  simp only [exec, execReadData, takeResponse_of_arrived h, wanted_eq_some_iff.2 ho, hw]

theorem exec_readData_of_unwanted (h : s.arrivedOf pkReadData = some p)
    (hn : ∀ o c off, answers s p o → o.what ≠ .load c off) :
    exec .readData s = .next (heard s p).settleAll.settleSnapshots := by
  simp only [exec, execReadData, takeResponse_of_arrived h]
  cases hw : s.wanted p with
  | none => rfl
  | some o =>
    dsimp only
    split
    next c off ho => exact absurd ho (hn o c off (wanted_eq_some_iff.1 hw))
    next => rfl

theorem exec_atomicAck_of_atomic {c off : Nat} (h : s.arrivedOf pkAtomicAck = some p) (ho : answers s p o)
    (hw : o.what = .atomic c off) : exec .atomicAck s = .next ((heard s p).landFor c o (off * 8) p.payload) := by
  simp only [exec, execAtomicAck, takeResponse_of_arrived h, wanted_eq_some_iff.2 ho, hw]

theorem exec_atomicAck_of_unwanted (h : s.arrivedOf pkAtomicAck = some p)
    (hn : ∀ o c off, answers s p o → o.what ≠ .atomic c off) :
    exec .atomicAck s = .next (heard s p).settleAll.settleSnapshots := by
  simp only [exec, execAtomicAck, takeResponse_of_arrived h]
  cases hw : s.wanted p with
  | none => rfl
  | some o =>
    dsimp only
    split
    next c off ho => exact absurd ho (hn o c off (wanted_eq_some_iff.1 hw))
    next => rfl

theorem exec_writeAck (h : s.arrivedOf pkWriteAck = some p) : exec .writeAck s = .next (heard s p) := by
  simp only [exec, execWriteAck, takeResponse_of_arrived h]

/-! ### BULK_DATA, BULK_ACK and CELL_ACK (R366 to R369) -/

theorem exec_bulkData_of_restore {c off : Nat} (h : s.arrivedOf pkBulkData = some p) (ho : answers s p o)
    (hw : o.what = .restore c off) : exec .bulkData s = .next ((heard s p).bulkData c off p.payload) := by
  simp only [exec, execBulkData, takeResponse_of_arrived h, wanted_eq_some_iff.2 ho, hw]

theorem exec_bulkData_of_unwanted (h : s.arrivedOf pkBulkData = some p)
    (hn : ∀ o c off, answers s p o → o.what ≠ .restore c off) : exec .bulkData s = .next (heard s p) := by
  simp only [exec, execBulkData, takeResponse_of_arrived h]
  cases hw : s.wanted p with
  | none => rfl
  | some o =>
    dsimp only
    split
    next c off ho => exact absurd ho (hn o c off (wanted_eq_some_iff.1 hw))
    next => rfl

theorem exec_bulkAck (h : s.arrivedOf pkBulkAck = some p) : exec .bulkAck s = .next (heard s p).settleSnapshots := by
  simp only [exec, execBulkAck, takeResponse_of_arrived h]

theorem exec_cellAck (h : s.arrivedOf pkCellAck = some p) : exec .cellAck s = .next (heard s p) := by
  simp only [exec, execCellAck, takeResponse_of_arrived h]

/-! ### REFUSE (R354, R366, R367, R369) -/

/-- What the refusal `p` of the request `o` does, by what the request was for. -/
def State.refused (s : State) (p : Packet) (o : Sent) : SentFor → State
  | .snapshot c => s.endSnapshot c false
  | .restore c _ => s.endRestore c false
  | .cell c => s.modCell c fun x => { x with moveFails := x.moveFails + 1 }
  | .drain _ => s
  | .load _ _ | .store _ | .atomic _ _ =>
    { s with fab := { s.fab with refusals := s.fab.refusals ++ [⟨o.dest, o.job, o.seq, leAt p.payload 0 2⟩] } }

theorem exec_refuse_of_answers (h : s.arrivedOf pkRefuse = some p) (ho : answers s p o) {w : SentFor} (hw : o.what = w) :
    exec .refuse s = .next ((heard s p).refused p o w) := by
  simp only [exec, execRefuse, takeResponse_of_arrived h, wanted_eq_some_iff.2 ho, hw]
  cases w <;> rfl

theorem exec_refuse_of_unwanted (h : s.arrivedOf pkRefuse = some p) (hn : ∀ o, ¬ answers s p o) :
    exec .refuse s = .next (heard s p).settleAll.settleSnapshots := by
  simp only [exec, execRefuse, takeResponse_of_arrived h, wanted_eq_none_iff.2 hn]

/-! ### DRAIN_ACK (R347, R348) -/

/-- A drain of the destination that answers no longer waits for the SEQ of the acknowledgement `p`. -/
def RouteDrain.without (p : Packet) (x : RouteDrain) : RouteDrain :=
  if x.dest = p.src then { x with waiting := x.waiting.filter (· ≠ p.seq) } else x

/-- The state once the acknowledgement `p` of a drain is taken, before any route switches. -/
def State.drainHeard (s : State) (p : Packet) : State :=
  { heard s p with fab := { (heard s p).fab with drains := (heard s p).fab.drains.map (RouteDrain.without p) } }

theorem exec_drainAck_of_drained (h : s.arrivedOf pkDrainAck = some p) {x : RouteDrain}
    (hx : ((s.drainHeard p).fab.drains.find? fun x => x.dest = p.src) = some x) (hw : x.waiting = []) (hu : x.unreachable = false) :
    exec .drainAck s = .next ((s.drainHeard p).switchRoute p.src) := by
  simp only [exec, execDrainAck, takeResponse_of_arrived h]
  split
  next y hy =>
    have hyx : y = x := Option.some.inj (hy.symm.trans hx)
    exact congrArg Host.Outcome.next (if_pos (by simp [hyx, hw, hu]))
  next hy => exact nomatch hy.symm.trans hx

theorem exec_drainAck_of_waiting (h : s.arrivedOf pkDrainAck = some p)
    (hn : ∀ x, ((s.drainHeard p).fab.drains.find? fun x => x.dest = p.src) = some x → x.waiting ≠ [] ∨ x.unreachable = true) :
    exec .drainAck s = .next (s.drainHeard p) := by
  simp only [exec, execDrainAck, takeResponse_of_arrived h]
  split
  next y hy =>
    have hy' : y.waiting ≠ [] ∨ y.unreachable = true := hn y hy
    exact congrArg Host.Outcome.next (if_neg (by simpa [or_iff_not_imp_left] using hy'))
  next => rfl

/-! ### CELL_DATA (R281, R369) -/

/-- CELL_DATA `p` comes from the package that the cell it names moves from. -/
def State.cellNamed (s : State) (p : Packet) : Prop := p.job = 0 ∧ ∃ f, (s.cell (field p.dpa 40 33)).move = some (p.src, 1, f)

theorem cellData_of_named (h : s.cellNamed p) : s.cellData p =
    let c := field p.dpa 40 33
    let u := s.landCell c (field p.dpa 32 30) (field p.dpa 29 0) p.payload
    (if s.awaiting c && !u.awaiting c then u.firstSlot c else u).respond p pkCellAck [] := by
  obtain ⟨hj, f, hf⟩ := h
  simp [State.cellData, hj, hf]

theorem cellData_of_not_named (h : ¬ s.cellNamed p) : s.cellData p = s.refusePacket p 0x0005 := by
  have hj (h0 : p.job = 0) (f : Nat) : (s.cell (field p.dpa 40 33)).move ≠ some (p.src, 1, f) := fun hf => h ⟨h0, f, hf⟩
  unfold State.cellData
  refine if_pos ?_
  split
  next peer f hm =>
    by_cases hp : peer = p.src
    · subst hp
      have hjob : p.job ≠ 0 := fun h0 => hj h0 f hm
      simp [hjob]
    · simp [hp]
  next => rfl

theorem exec_cellData (h : s.arrivedOf pkCellData = some p) : exec .cellData s = .next ((s.takeArrived p).cellData p) := by
  simp only [exec, execCellData, h]

/-- Settles O37: what each response brings, by the rules above. That READ_DATA marks its SEQ like the others is the
model's reading (log entry 45), and so is that a refused load, store or atomic is reported while its command waits (log entry 46). -/
theorem responsesComplete : Obligations.ResponsesComplete :=
  ⟨fun _ _ =>
    ⟨fun h => ⟨fun _ _ _ ho hw => exec_readData_of_load h ho hw, exec_readData_of_unwanted h⟩,
     fun h => ⟨fun _ _ _ ho hw => exec_atomicAck_of_atomic h ho hw, exec_atomicAck_of_unwanted h⟩,
     exec_writeAck, exec_cellAck, exec_bulkAck,
     fun h => ⟨fun _ _ _ ho hw => exec_bulkData_of_restore h ho hw, exec_bulkData_of_unwanted h⟩,
     fun h =>
      ⟨fun _ ho =>
        ⟨fun _ hw => exec_refuse_of_answers h ho hw, fun _ _ hw => exec_refuse_of_answers h ho hw,
         fun _ hw => exec_refuse_of_answers h ho hw,
         fun _ _ hw => hw.elim (exec_refuse_of_answers h ho) fun hw => hw.elim (exec_refuse_of_answers h ho) (exec_refuse_of_answers h ho),
         fun _ hw => exec_refuse_of_answers h ho hw⟩,
       exec_refuse_of_unwanted h⟩⟩,
   fun _ _ h => ⟨fun _ hx hw hu => exec_drainAck_of_drained h hx hw hu, exec_drainAck_of_waiting h⟩,
   fun _ _ h =>
    ⟨fun hn => (exec_cellData h).trans (congrArg Host.Outcome.next (cellData_of_named hn)),
     fun hn => (exec_cellData h).trans (congrArg Host.Outcome.next (cellData_of_not_named hn))⟩⟩

end Sys2Proof.Machine
end

section
/-! What a WRITE of a session does (R436, R441 to R444), in the words of the claims: `guarded` and `guardedOctets` hold of every
command that is a write of its entry, and a write that the session may make is taken or ignored as the entry's rules say. -/

open Sys2Proof.Claims

namespace Sys2Proof.Machine

variable {s u : State} {i : Instr} {n fam v e : Nat} {r : Reg} {bs : Bytes} {op : State → Except Nat State}

theorem guarded_of_write (hi : exec i s = .next (s.write n r fam v op)) : guarded i s n r fam := by
  refine ⟨fun hc => ?_, fun ho e he => ?_⟩
  · simp [hi, State.write, hc]
  · simp [hi, ignored, State.write, ho, he]

theorem guardedOctets_of_writeOctets (hi : exec i s = .next (s.writeOctets n r fam bs op)) : guardedOctets i s n r fam bs := by
  refine ⟨fun hc => ?_, fun ho hk => ?_, fun ho hk e he => ?_⟩
  · simp [hi, State.writeOctets, hc]
  · simp [hi, State.writeOctets, ho, hk]
  · simp [hi, ignored, State.writeOctets, ho, hk, he]

theorem taken_of_write (hi : exec i s = .next (s.write n r fam v op)) (hw : mayWrite s n r)
    (hop : s.byRules r (v % 2 ^ r.width) op = .ok u) : taken i s n r u := by
  obtain ⟨ho, hr⟩ := hw
  simp [hi, taken, State.write, ho, hr, hop, State.take]

theorem ignored_of_write (hi : exec i s = .next (s.write n r fam v op)) (hw : mayWrite s n r)
    (hop : s.byRules r (v % 2 ^ r.width) op = .error e) : ignored i s n r fam e := by
  obtain ⟨ho, hr⟩ := hw
  simp [hi, ignored, State.write, ho, hr, hop, State.take]

theorem taken_of_writeOctets (hi : exec i s = .next (s.writeOctets n r fam bs op)) (hw : mayWrite s n r)
    (hk : r.sizeOk bs.length = true) (hop : op s = .ok u) : taken i s n r u := by
  obtain ⟨ho, hr⟩ := hw
  simp [hi, taken, State.writeOctets, ho, hk, hr, hop, State.take]

theorem ignored_of_writeOctets (hi : exec i s = .next (s.writeOctets n r fam bs op)) (hw : mayWrite s n r)
    (hk : r.sizeOk bs.length = true) (hop : op s = .error e) : ignored i s n r fam e := by
  obtain ⟨ho, hr⟩ := hw
  simp [hi, ignored, State.writeOctets, ho, hk, hr, hop, State.take]

/-! ### The entry's own rules (R444) -/

theorem byRules_of_outOfRange (h : r.outOfRange v = true) : s.byRules r v op = .error 0x8010 := by
  simp [State.byRules, h]

/-- A value in range, with no reserved bit set, is what the entry's operation makes of it. -/
theorem byRules_of_allowed (h : r.outOfRange v = false) (hz : r.reservedSet v = false) : s.byRules r v op = op s := by
  simp [State.byRules, h, hz]

/-- A reserved bit is a reason of its own, unless the operation has a lower one. -/
theorem byRules_of_reservedSet (h : r.outOfRange v = false) (hz : r.reservedSet v = true) (hop : op s = .ok u) :
    s.byRules r v op = .error 0x8011 := by
  simp [State.byRules, h, hz, hop]

/-- An operation's reason of at most 0x8011 is recorded whether or not a reserved bit is set as well. -/
theorem byRules_of_error (h : r.outOfRange v = false) (he : e ≤ 0x8011) (hop : op s = .error e) : s.byRules r v op = .error e := by
  cases hz : r.reservedSet v <;> simp [State.byRules, h, hz, hop, he]

end Sys2Proof.Machine
end

section
/-! Bits, bytes and folds: a bit of a word after a write of one bit, little-endian bytes read back, and what one element of a fold
brings about. -/

namespace Sys2Proof.Machine

/-! ### Bits -/

/-- One bit written: the bits above, the bit, and the bits below. -/
theorem setBit_eq (w i : Nat) (b : Bool) : setBit w i b = 2 ^ i * (2 * (w / 2 ^ (i + 1)) + b.toNat) + w % 2 ^ i := by
  have hlow : w = 2 ^ i * (w / 2 ^ i) + w % 2 ^ i := (Nat.div_add_mod w (2 ^ i)).symm
  have hbit : w / 2 ^ i = 2 * (w / 2 ^ (i + 1)) + w / 2 ^ i % 2 := by
    rw [Nat.pow_succ, ← Nat.div_div_eq_div_mul]
    exact (Nat.div_add_mod _ 2).symm
  have hone : (if b then 1 else 0) % 2 ^ (i + 1 - i) = b.toNat := by cases b <;> simp
  rw [setBit, setField, hone, field, Nat.shiftRight_eq_div_pow, Nat.add_sub_cancel_left, pow_one]
  generalize w / 2 ^ i % 2 = x at *
  generalize w / 2 ^ (i + 1) = y at *
  generalize w % 2 ^ i = z at *
  generalize w / 2 ^ i = q at *
  subst hbit
  rw [hlow]
  have : 2 ^ i * (2 * y + x) = 2 ^ i * (2 * y) + x * 2 ^ i := by ring
  have : 2 ^ i * (2 * y + b.toNat) = 2 ^ i * (2 * y) + b.toNat * 2 ^ i := by ring
  omega

/-- A bit of a word after a write of one bit. -/
@[simp] theorem bit_setBit (w i j : Nat) (b : Bool) : bit (setBit w i b) j = if i = j then b else bit w j := by
  unfold bit
  rw [setBit_eq, Nat.testBit_two_pow_mul_add _ (Nat.mod_lt _ (Nat.two_pow_pos i))]
  rcases Nat.lt_trichotomy j i with h | rfl | h
  · simp [h, h.ne', Nat.testBit_mod_two_pow]
  · cases b <;> simp
  · obtain ⟨k, rfl⟩ := Nat.exists_eq_add_of_lt h
    have habove : (2 * (w / 2 ^ (i + 1)) + b.toNat) / 2 = w / 2 ^ (i + 1) := by have := b.toNat_lt; omega
    have hk : i + k + 1 - i = k + 1 := by omega
    rw [if_neg (by omega), if_neg (by omega), hk, Nat.testBit_succ, habove, Nat.testBit_div_two_pow]
    congr 1
    omega

theorem bit_mod_two_pow (w n i : Nat) : bit (w % 2 ^ n) i = (decide (i < n) && bit w i) := Nat.testBit_mod_two_pow ..

theorem leNat_leBytes (n v : Nat) : leNat (leBytes n v) = v % 2 ^ (8 * n) := by
  induction n generalizing v with
  | zero => simp [leBytes, leNat, Nat.mod_one]
  | succ n ih =>
    rw [leBytes, leNat, ih, Nat.mul_succ, Nat.add_comm (8 * n), Nat.pow_add, Nat.mod_mul]
    simp

/-! ### Folds -/

/-- A fold reaches what its step for one element of the list makes and every step keeps, under an invariant. -/
theorem foldl_reaches {α β : Type} {I P : β → Prop} {f : β → α → β} {l : List α} {x : α} (hx : x ∈ l)
    (hI : ∀ b y, I b → I (f b y)) (hmake : ∀ b, I b → P (f b x)) (hP : ∀ b y, I b → P b → P (f b y)) {b : β} (hb : I b) :
    P (l.foldl f b) := by
  induction l generalizing b with
  | nil => exact nomatch hx
  | cons y l ih =>
    rw [List.foldl_cons]
    rcases List.mem_cons.1 hx with rfl | hx
    · have hfirst : I (f b x) ∧ P (f b x) := ⟨hI b x hb, hmake b hb⟩
      exact (List.foldlRecOn (motive := fun b => I b ∧ P b) l f hfirst fun b hb y _ => ⟨hI b y hb.1, hP b y hb.1 hb.2⟩).2
    · exact ih hx (hI b y hb)

end Sys2Proof.Machine
end

section
/-! Registers and octets read back, and what loading the route tables leaves as it was. -/

namespace Sys2Proof.Machine

variable {s t : State}

/-- Octets read back, in files that list each key once. -/
theorem oct_setOct_rising (r : Reg) (v : Bytes) (i : Nat) (h : s.octs.rising) (hp : s.prot.octs.rising) :
    (s.setOct r v i).oct r i = v := by
  unfold State.setOct State.oct
  cases r.access
  case rwd => exact Tab.get_set_rising _ _ _ _ hp
  all_goals exact Tab.get_set_rising _ _ _ _ h

theorem regsRising_of_tidy (h : s.tidy) : s.regsRising := by
  obtain ⟨-, hregs, -, ⟨hprot, -⟩, -⟩ := h
  exact ⟨hregs, hprot⟩

theorem oct_setOct_of_tidy (r : Reg) (v : Bytes) (i : Nat) (h : s.tidy) : (s.setOct r v i).oct r i = v := by
  obtain ⟨-, -, hocts, ⟨-, hprot, -⟩, -⟩ := h
  exact oct_setOct_rising r v i hocts hprot

theorem regsRising_setOct (r : Reg) (v : Bytes) (i : Nat) (h : s.regsRising) : (s.setOct r v i).regsRising := by
  unfold State.setOct
  split <;> exact h

/-! ### The route tables (R14, R20) -/

/-- Everything but the count of free values taken. -/
def State.butFree (s : State) : State := { s with free := 0 }

theorem State.choose_butFree (s : State) (l : List Nat) : (s.choose l).2.butFree = s.butFree := rfl

theorem State.routeOf_butFree (s : State) (dist : Tab Nat) (r d : Nat) : (s.routeOf dist r d).2.butFree = s.butFree := by
  unfold State.routeOf
  split
  · rfl
  · split
    · rfl
    · split
      next h => exact (congrArg (fun q : Option Nat × State => q.2.butFree) h).symm
      next h => exact (congrArg (fun q : Option Nat × State => q.2.butFree) h).symm

/-- The tables take free values, and change nothing else. -/
theorem State.routeTables_butFree (s : State) : s.routeTables.2.butFree = s.butFree := by
  unfold State.routeTables
  refine foldl_keeps (m := fun q : Tab Nat × State => q.2.butFree) (fun q d => ?_) _ _
  refine foldl_keeps (m := fun q : Tab Nat × State => q.2.butFree) (fun q r => ?_) _ _
  exact q.2.routeOf_butFree ..

theorem faults_of_butFree {s t : State} (h : t.butFree = s.butFree) : t.faults = s.faults := by
  have hf := congrArg State.faults h
  exact hf

theorem reg_of_butFree {s t : State} (h : t.butFree = s.butFree) (r : Reg) (i : Nat) : t.reg r i = s.reg r i := by
  have hr := congrArg (fun u : State => u.reg r i) h
  exact hr

/-- Tables that wait for their switch change the mesh alone, and the switch counts in MESH_ROUTE_EPOCH. -/
theorem State.meshSettle_faults (s : State) : s.meshSettle.faults = s.faults := by
  unfold State.meshSettle
  split
  · split <;> simp
  · rfl

theorem State.meshSettle_reg (s : State) {r : Reg} {i : Nat} (h : Reg.key .meshRouteEpoch 0 ≠ r.key i) :
    s.meshSettle.reg r i = s.reg r i := by
  unfold State.meshSettle
  split
  · split
    · rfl
    · exact State.reg_setReg_other _ _ h
  · rfl

theorem State.meshSwitch_faults (s : State) : s.meshSwitch.faults = s.faults := by
  have h := s.routeTables_butFree
  unfold State.meshSwitch
  generalize s.routeTables = q at h ⊢
  have hq := faults_of_butFree h
  exact (State.meshSettle_faults _).trans hq

theorem State.meshSwitch_reg (s : State) {r : Reg} {i : Nat} (hk : Reg.key .meshRouteEpoch 0 ≠ r.key i) :
    s.meshSwitch.reg r i = s.reg r i := by
  have h := s.routeTables_butFree
  unfold State.meshSwitch
  generalize s.routeTables = q at h ⊢
  have hq := reg_of_butFree h r i
  exact (State.meshSettle_reg _ hk).trans hq

end Sys2Proof.Machine
end

section
/-! O51: the clock commands (R12, R19, R488 to R491, R497, R502, R503). -/

open Sys2Proof.Claims

namespace Sys2Proof.Machine

variable {s : State}

/-! ### The reference and the root PLL -/

theorem exec_refLost (h : s.reg .clkState ≠ 1) :
    exec .refLost s = .next (((s.setReg .clkState 1).bump .refLosses).fault 0x0801 0 0 0) :=
  congrArg Host.Outcome.next (if_neg h)

theorem exec_refLost_of_holdover (h : s.reg .clkState = 1) : exec .refLost s = .next s :=
  congrArg Host.Outcome.next (if_pos h)

theorem exec_refRestored_of_holdover (h : s.reg .clkState = 1) :
    exec (.refRestored false) s = .next ((s.setReg .clkState 2).fault 0x0802 0 0 0) := by
  simp only [exec, execRefRestored, h]

theorem exec_refRestored_of_slewing (h : s.reg .clkState = 2) :
    exec (.refRestored true) s = .next (s.setReg .clkState 0) := by
  simp only [exec, execRefRestored, h]

/-- The reference comes back in holdover alone, and the PLL locks from slewing alone. -/
theorem exec_refRestored_of_other {locked : Bool} (h : s.reg .clkState ≠ if locked then 2 else 1) :
    exec (.refRestored locked) s = .next s := by
  simp only [exec, execRefRestored]
  split
  next hc => exact absurd hc h
  next hc => exact absurd hc h
  next => rfl

theorem exec_rootPllUnlock (h : s.reg .clkState ≠ 1) :
    exec .rootPllUnlock s = .next ((s.fault 0x0805 3 10 0).packageReset 5) :=
  congrArg Host.Outcome.next (if_neg h)

theorem exec_rootPllUnlock_of_holdover (h : s.reg .clkState = 1) : exec .rootPllUnlock s = .next s :=
  congrArg Host.Outcome.next (if_pos h)

/-- A reset empties the register files. -/
theorem cleared_regsRising (s : State) : s.cleared.regsRising :=
  ⟨List.Pairwise.nil, List.Pairwise.nil⟩

theorem packageReset_resetCause (s : State) (cause : Nat) : (s.packageReset cause).reg .resetCause = cause % 256 := by
  unfold State.packageReset
  rw [State.reg_setReg_other _ _ (by decide), State.reg_setReg_rising _ _ _ _ (cleared_regsRising s)]
  rfl

theorem packageReset_inReset (s : State) (cause : Nat) : (s.packageReset cause).boot.inReset = true := by
  simp [State.packageReset, State.cleared]

/-! ### The local PLLs -/

/-- The die has no local PLL: it is HD, or no die of the build. -/
def State.noPll (s : State) (d : Nat) : Prop := d = 18 ∨ 24 < d ∨ s.fitted (dieUnit d) = false

theorem noPll_false {d : Nat} (hd : d ≤ 24) (hne : d ≠ 18) (hf : s.fitted (dieUnit d) = true) : ¬ s.noPll d := by
  rintro (h | h | h)
  · exact hne h
  · exact Nat.not_lt.2 hd h
  · exact Bool.noConfusion (hf.symm.trans h)

theorem exec_diePllUnlock_of_absent {d : Nat} (h : s.noPll d) : exec (.diePllUnlock d) s = .next s := by
  refine congrArg Host.Outcome.next (if_pos ?_)
  rcases h with h | h | h <;> simp [h]

theorem exec_diePllUnlock_of_unlocked {d : Nat} (h : bit (s.reg .diePllLock) d = false) : exec (.diePllUnlock d) s = .next s :=
  congrArg Host.Outcome.next (if_pos (by simp [h]))

theorem exec_diePllUnlock {d : Nat} (h : ¬ s.noPll d) (hl : bit (s.reg .diePllLock) d = true) :
    exec (.diePllUnlock d) s = .next (((s.setReg .diePllLock (setBit (s.reg .diePllLock) d false)).fault 0x0803 3
      (UnitId.code (dieUnit d)).1 (UnitId.code (dieUnit d)).2 0xFFFF d).dieLost d) :=
  congrArg Host.Outcome.next (if_neg (by simpa [State.noPll, hl] using h))

theorem exec_diePllRelock_of_absent {d : Nat} (h : s.noPll d) : exec (.diePllRelock d) s = .next s :=
  congrArg Host.Outcome.next (if_pos (by simpa [State.noPll] using h))

theorem exec_diePllRelock {d : Nat} (h : ¬ s.noPll d) :
    exec (.diePllRelock d) s = .next (s.setReg .diePllLock (setBit (s.reg .diePllLock) d true)) :=
  congrArg Host.Outcome.next (if_neg (by simpa [State.noPll] using h))

/-- A lock bit set reads as set. -/
theorem diePllLock_setBit {d : Nat} (hd : d ≤ 24) (h : s.tidy) :
    bit ((s.setReg .diePllLock (setBit (s.reg .diePllLock) d true)).reg .diePllLock) d = true := by
  rw [State.reg_setReg_rising _ _ _ _ (regsRising_of_tidy h)]
  simp only [bit_mod_two_pow, bit_setBit, if_true, Bool.and_true, decide_eq_true_eq]
  exact Nat.lt_of_le_of_lt hd (by decide)

/-! ### Crossings and the recovered clock -/

theorem exec_crossingStall {u : UnitId} (h : s.fitted u = true) : exec (.crossingStall u) s =
    .next (((s.bump .xingStalls).fault 0x0804 3 (UnitId.code u).1 (UnitId.code u).2 0xFFFF (unitDie u)).leave u) :=
  congrArg Host.Outcome.next (if_pos h)

theorem exec_crossingStall_of_absent {u : UnitId} (h : s.fitted u = false) : exec (.crossingStall u) s = .next s :=
  congrArg Host.Outcome.next (if_neg (by simp [h]))

theorem exec_rclkCfg (s : State) (m : Nat) (v : W16) :
    exec (.rclkCfg m v) s = .next (s.write m .rclkCfg 0 v.toNat (State.rclkWrite v.toNat)) := rfl

theorem rclkWrite_of_port {v : Nat} (h : s.fhExists (v % 16) = true) : State.rclkWrite v s = .ok (s.setReg .rclkCfg v) := by
  simp [State.rclkWrite, h]

theorem rclkWrite_of_no_port {v : Nat} (h : s.fhExists (v % 16) = false) : State.rclkWrite v s = .error 0x8010 := by
  simp [State.rclkWrite, h]

/-- Settles O51, by the rules above. How a die that loses lock goes out and comes back, its router with it, and that RCLK_CFG of no
port is ignored with 0x8010 are the model's reading (log entries 62 and 95); that a stall is a command of its own is its choice (log
entry 4). -/
theorem clockCommandsComplete : Obligations.ClockCommandsComplete := by
  refine ⟨fun s => ⟨exec_refLost, exec_refLost_of_holdover, exec_refRestored_of_holdover,
    exec_refRestored_of_other (locked := false), exec_refRestored_of_slewing,
    exec_refRestored_of_other (locked := true), fun h => ?_, exec_rootPllUnlock_of_holdover⟩,
    fun s d => ?_, fun s u => ⟨exec_crossingStall_of_absent, exec_crossingStall⟩, fun s m v => ?_⟩
  · exact ⟨exec_rootPllUnlock h, _, exec_rootPllUnlock h, packageReset_resetCause _ 5, packageReset_inReset _ 5⟩
  · refine ⟨fun h => ⟨exec_diePllUnlock_of_absent h, exec_diePllRelock_of_absent h⟩, fun hd hne hf => ?_⟩
    have hpll : ¬ s.noPll d := noPll_false hd hne hf
    exact ⟨exec_diePllUnlock hpll, exec_diePllUnlock_of_unlocked, exec_diePllRelock hpll,
      fun ht => ⟨_, exec_diePllRelock hpll, diePllLock_setBit hd ht⟩⟩
  · have hv : v.toNat % 2 ^ Reg.width .rclkCfg = v.toNat := Nat.mod_eq_of_lt v.isLt
    have hi := exec_rclkCfg s m v
    refine ⟨guarded_of_write hi, fun hw => ⟨fun h => ignored_of_write hi hw ?_, fun hr hp => ⟨fun hz => ignored_of_write hi hw ?_,
      fun hz => taken_of_write hi hw ?_⟩⟩⟩ <;> rw [hv]
    · cases hr : Reg.outOfRange .rclkCfg v.toNat with
      | true => exact byRules_of_outOfRange hr
      | false => exact byRules_of_error hr (by decide) (rclkWrite_of_no_port (h.resolve_left (by simp [hr])))
    · exact byRules_of_reservedSet hr hz (rclkWrite_of_port hp)
    · exact (byRules_of_allowed hr hz).trans (rclkWrite_of_port hp)

end Sys2Proof.Machine
end

section
/-! O41: shadow recompute (R474 to R477), and engines and dies that leave and return by ME_QUARANTINE and CD_OUT_MASK (R478, R479,
R483, R489). -/

open Sys2Proof.Claims

namespace Sys2Proof.Machine

variable {s : State} {r : ShadowResult} {third : Option ShadowResult}

/-! ### Shadows -/

theorem exec_shadowCopyDone_of_idle {c : Nat} (h : (s.ctx c).copying = false) : exec (.shadowCopyDone c) s = .next s :=
  congrArg Host.Outcome.next (if_pos (by simp [h]))

/-- The waiting shadows of context `c` once its write set is copied. -/
def State.shadowsCopied (s : State) (c : Nat) : List Shadow := s.faults.shadows.map fun w =>
  match Op.ofCode (Desc.opcode w.desc) with
  | some op => if w.ctx = c && !w.written then { w with written := true, writeSet := s.copyExts c (opWrites op w.desc) } else w
  | none => w

theorem exec_shadowCopyDone {c : Nat} (h : (s.ctx c).copying = true) : exec (.shadowCopyDone c) s =
    .next ((({ s with faults := { s.faults with shadows := s.shadowsCopied c } } : State).modCtx c fun x =>
      { x with copying := false }).checkNext c) :=
  congrArg Host.Outcome.next (if_neg (by simp [h]))

/-- The first shadow that waits to start. -/
def State.shadowWaits (s : State) : Option Shadow := s.faults.shadows.find? fun w => w.written && w.shadowEngine = none

/-- The engines on which a shadow may run. -/
def State.shadowFit (s : State) (w : Shadow) : List Nat := (List.range 128).filter fun e => s.shadowFits w e

/-- Those of them on which it may start now. -/
def State.shadowReadyFit (s : State) (w : Shadow) : List Nat := (s.shadowFit w).filter fun e => s.shadowReady w e

/-- A choice of a list that is not empty is one of its members. -/
theorem choose_of_ne_nil {l : List Nat} (h : l ≠ []) : ∃ e u, s.choose l = (some e, u) ∧ e ∈ l := by
  have hlt : Config.pick s.free % l.length < l.length := Nat.mod_lt _ (List.length_pos_iff.2 h)
  exact ⟨_, _, Prod.ext (List.getElem?_eq_getElem hlt) rfl, List.getElem_mem hlt⟩

theorem exec_shadowStart_of_none (h : s.shadowWaits = none) : exec .shadowStart s = .next s := by
  unfold State.shadowWaits at h
  simp only [exec, execShadowStart, h]

theorem exec_shadowStart_of_no_engine {w : Shadow} (h : s.shadowWaits = some w) (hf : s.shadowFit w = []) :
    exec .shadowStart s = .next (s.skipShadow w) := by
  unfold State.shadowWaits at h
  unfold State.shadowFit at hf
  simp only [exec, execShadowStart, h, hf, if_true]

theorem exec_shadowStart_of_none_ready {w : Shadow} (h : s.shadowWaits = some w) (hf : s.shadowFit w ≠ [])
    (hr : s.shadowReadyFit w = []) : exec .shadowStart s = .next s := by
  unfold State.shadowWaits at h
  unfold State.shadowReadyFit State.shadowFit at *
  simp only [exec, execShadowStart, h, hf, hr, if_false]
  rfl

theorem exec_shadowStart_of_ready {w : Shadow} (h : s.shadowWaits = some w) (hr : s.shadowReadyFit w ≠ []) :
    ∃ e u, s.choose (s.shadowReadyFit w) = (some e, u) ∧ e ∈ s.shadowReadyFit w ∧
      exec .shadowStart s = .next (u.startShadow w e) := by
  obtain ⟨e, u, hc, he⟩ := choose_of_ne_nil (s := s) hr
  have hf : s.shadowFit w ≠ [] := fun hf => hr (by rw [State.shadowReadyFit, hf, List.filter_nil])
  refine ⟨e, u, hc, he, ?_⟩
  unfold State.shadowWaits at h
  unfold State.shadowReadyFit State.shadowFit at *
  simp only [exec, execShadowStart, h, hf, hc, if_false]

/-- The first shadow that has not started within SHADOW_MAX_AGE_MS. -/
def State.shadowLate (s : State) : Option Shadow := s.faults.shadows.find? fun w =>
  w.shadowEngine = none && decide (w.selectedCk + s.reg .shadowMaxAgeMs * 825000 ≤ s.ck)

theorem exec_shadowMaxAge_of_none (h : s.shadowLate = none) : exec .shadowMaxAge s = .next s := by
  unfold State.shadowLate at h
  simp only [exec, execShadowMaxAge, h]

theorem exec_shadowMaxAge_of_late {w : Shadow} (h : s.shadowLate = some w) : exec .shadowMaxAge s = .next (s.skipShadow w) := by
  unfold State.shadowLate at h
  simp only [exec, execShadowMaxAge, h]

theorem exec_shadowCompare_of_none (h : s.shadowOn r.engine = none) :
    exec (.shadowCompare r third) s = .next s := by
  unfold State.shadowOn at h
  simp only [exec, execShadowCompare, h]

theorem exec_shadowCompare_of_same {w : Shadow} (h : s.shadowOn r.engine = some w)
    (hr : sameResult w.original r = true) :
    exec (.shadowCompare r third) s = .next (((s.clearShadow w).dropShadow w).bump .shadowRuns) := by
  unfold State.shadowOn at h
  simp only [exec, execShadowCompare, h, hr, if_true]

theorem exec_shadowCompare_of_different {w : Shadow} (h : s.shadowOn r.engine = some w)
    (hr : sameResult w.original r = false) :
    exec (.shadowCompare r third) s = .next ((((s.clearShadow w).dropShadow w).bump .shadowRuns).mismatch w r third) := by
  unfold State.shadowOn at h
  simp only [exec, execShadowCompare, h, hr, Bool.false_eq_true, if_false]

/-! ### ME_QUARANTINE -/

/-- An engine returns to service, with its mismatch count 0. -/
def State.engineReturns (s : State) (e : Nat) : State :=
  { s.setReg .meMismatches 0 e with faults := { s.faults with meOut := setBit s.faults.meOut e false } }

theorem engineReturns_oct (s : State) (e : Nat) : (s.engineReturns e).oct .meQuarantine = s.oct .meQuarantine := rfl

theorem engineReturns_regsRising (e : Nat) (h : s.regsRising) : (s.engineReturns e).regsRising :=
  State.regsRising_setReg s _ _ _ h

/-- Of an engine that has returned: it is not out, and has no mismatches. -/
def State.meBack (s : State) (e : Nat) : Prop := bit s.faults.meOut e = false ∧ s.reg .meMismatches e = 0

theorem engineReturns_meBack_same (e : Nat) (h : s.regsRising) : (s.engineReturns e).meBack e :=
  ⟨by simp [State.engineReturns], State.reg_setReg_rising s .meMismatches 0 e h⟩

theorem engineReturns_meBack {e : Nat} (d : Nat) (h : s.regsRising) (hb : s.meBack e) : (s.engineReturns d).meBack e := by
  by_cases hd : d = e
  · subst hd
    exact engineReturns_meBack_same d h
  · obtain ⟨hout, hcount⟩ := hb
    have hk : Reg.key .meMismatches d ≠ Reg.key .meMismatches e := fun hk => hd (Nat.add_left_cancel hk)
    exact ⟨by simp [State.engineReturns, hd, hout], (State.reg_setReg_other s 0 hk).trans hcount⟩

/-- Every engine of a list that returns is back. -/
theorem foldl_engineReturns_meBack {l : List Nat} {e : Nat} (he : e ∈ l) (h : s.regsRising) :
    (l.foldl State.engineReturns s).meBack e :=
  foldl_reaches (I := State.regsRising) he (fun _ y hu => engineReturns_regsRising y hu)
    (fun _ hu => engineReturns_meBack_same e hu) (fun _ y hu hb => engineReturns_meBack y hu hb) h

theorem foldl_engineReturns_oct (l : List Nat) (s : State) :
    (l.foldl State.engineReturns s).oct .meQuarantine = s.oct .meQuarantine :=
  foldl_keeps (m := fun u : State => u.oct .meQuarantine) engineReturns_oct l s

theorem mem_bitsOf {n w i : Nat} : i ∈ bitsOf n w ↔ i < n ∧ bit w i = true := by simp [bitsOf, bit]

/-- The engines whose bits the value `v` adds to ME_QUARANTINE. -/
def State.enginesAdded (s : State) (v : Nat) : List Nat := (bitsOf 128 v).filter fun e => !bit (leNat (s.oct .meQuarantine)) e

/-- The engines whose bits it clears. -/
def State.enginesBack (s : State) (v : Nat) : List Nat := (bitsOf 128 (leNat (s.oct .meQuarantine))).filter fun e => !bit v e

/-- ME_QUARANTINE holds `v`, and the engines whose bits it clears are back. -/
def State.enginesBacked (s : State) (v : Nat) : State :=
  (s.enginesBack v).foldl State.engineReturns (s.setOct .meQuarantine (leBytes 16 v))

theorem quarantineWrite_eq (v : Nat) (s : State) : State.quarantineWrite v s =
    if s.enginesAdded v ≠ [] ∧ (s.setOct .meQuarantine (leBytes 16 v)).unbindable = true then .error 0x8016
    else .ok (if s.enginesAdded v = [] then s.enginesBacked v else (s.enginesBacked v).quarantine (s.enginesAdded v)) := rfl

theorem quarantineWrite_of_unbindable {v : Nat} (ha : s.enginesAdded v ≠ [])
    (hu : (s.setOct .meQuarantine (leBytes 16 v)).unbindable = true) : State.quarantineWrite v s = .error 0x8016 := by
  simp [quarantineWrite_eq, ha, hu]

theorem quarantineWrite_of_none_added {v : Nat} (ha : s.enginesAdded v = []) :
    State.quarantineWrite v s = .ok (s.enginesBacked v) := by
  simp [quarantineWrite_eq, ha]

theorem quarantineWrite_of_added {v : Nat} (ha : s.enginesAdded v ≠ [])
    (hu : (s.setOct .meQuarantine (leBytes 16 v)).unbindable = false) :
    State.quarantineWrite v s = .ok ((s.enginesBacked v).quarantine (s.enginesAdded v)) := by
  simp [quarantineWrite_eq, ha, hu]

theorem enginesBacked_meQuarantine {v : Nat} (hv : v < 2 ^ 128) (h : s.tidy) :
    leNat ((s.enginesBacked v).oct .meQuarantine) = v := by
  rw [State.enginesBacked, foldl_engineReturns_oct, oct_setOct_of_tidy _ _ _ h, leNat_leBytes, Nat.mod_eq_of_lt hv]

theorem enginesBacked_meBack {v e : Nat} (h : s.tidy) (he : e < 128) (hold : bit (leNat (s.oct .meQuarantine)) e = true)
    (hnew : bit v e = false) : (s.enginesBacked v).meBack e := by
  have hback : e ∈ s.enginesBack v := by simp [State.enginesBack, mem_bitsOf, he, hold, hnew]
  exact foldl_engineReturns_meBack hback (regsRising_setOct _ _ _ (regsRising_of_tidy h))

theorem sizeOk_meQuarantine (v : Nat) : Reg.sizeOk .meQuarantine (leBytes 16 v).length = true := by
  rw [leBytes_length]
  rfl

theorem exec_meQuarantine (s : State) (m : Nat) (v : BitVec 128) : exec (.meQuarantine m v) s =
    .next (s.writeOctets m .meQuarantine 0 (leBytes 16 v.toNat) (State.quarantineWrite v.toNat)) := rfl

/-! ### CD_OUT_MASK -/

theorem dieReturns_reg (s : State) (d : Nat) (r : Reg) (i : Nat) : (s.dieReturns d).reg r i = s.reg r i := rfl

theorem foldl_dieReturns_reg (l : List Nat) (s : State) (r : Reg) (i : Nat) : (l.foldl State.dieReturns s).reg r i = s.reg r i :=
  foldl_keeps (m := fun u : State => u.reg r i) (fun u d => dieReturns_reg u d r i) l s

theorem dieReturns_cdOut (s : State) (d e : Nat) :
    bit (s.dieReturns d).faults.cdOut e = if d = e then false else bit s.faults.cdOut e := bit_setBit ..

theorem dieReturns_routerOut (s : State) (d e : Nat) : bit (s.dieReturns d).faults.routerOut e =
    if d = e ∧ bit s.faults.routerPll d = true then false else bit s.faults.routerOut e := by
  cases h : bit s.faults.routerPll d <;> simp [State.dieReturns, h]

theorem dieReturns_routerPll (s : State) (d e : Nat) :
    bit (s.dieReturns d).faults.routerPll e = if d = e then false else bit s.faults.routerPll e := bit_setBit ..

/-- Every die of a list that returns is in service again. -/
theorem foldl_dieReturns_cdOut {l : List Nat} {d : Nat} (hd : d ∈ l) (s : State) :
    bit (l.foldl State.dieReturns s).faults.cdOut d = false :=
  foldl_reaches (I := fun _ => True) (P := fun u : State => bit u.faults.cdOut d = false) hd (fun _ _ _ => trivial)
    (fun u _ => by simp [dieReturns_cdOut]) (fun u y _ hu => by simp [dieReturns_cdOut, hu]) trivial

/-- A router that its die's PLL took out is in service again once the die returns: until then the PLL's mark stands. -/
theorem foldl_dieReturns_routerOut {l : List Nat} {d : Nat} (hd : d ∈ l) (h : bit s.faults.routerPll d = true) :
    bit (l.foldl State.dieReturns s).faults.routerOut d = false := by
  refine foldl_reaches (I := fun u : State => bit u.faults.routerPll d = true ∨ bit u.faults.routerOut d = false)
    (P := fun u : State => bit u.faults.routerOut d = false) hd (fun u y hu => ?_) (fun u hu => ?_) (fun u y _ hu => ?_) (.inl h)
  · rw [dieReturns_routerPll, dieReturns_routerOut]
    by_cases hy : y = d
    · subst hy
      rcases hu with hu | hu <;> simp [hu]
    · simpa [hy] using hu
  · rw [dieReturns_routerOut]
    rcases hu with hu | hu <;> simp [hu]
  · rw [dieReturns_routerOut, hu, ite_self]

/-- The dies whose bits the value `v` adds to CD_OUT_MASK. -/
def State.diesAdded (s : State) (v : Nat) : List Nat := (bitsOf 16 v).filter fun d => !bit (s.reg .cdOutMask) d

/-- The dies whose bits it clears and that can return: the PLL is locked, and the router works or went out with the PLL's lock. -/
def State.diesBack (s : State) (v : Nat) : List Nat := (bitsOf 16 (s.reg .cdOutMask)).filter fun d =>
  !bit v d && bit (s.reg .diePllLock) d && (s.routerUp d || bit s.faults.routerPll d)

/-- CD_OUT_MASK holds `v`, and the dies that return are back; the mesh is switched where a router is among them. -/
def State.diesBacked (s : State) (v : Nat) : State :=
  let w := (s.diesBack v).foldl State.dieReturns (s.setReg .cdOutMask v)
  if (s.diesBack v).any (bit s.faults.routerPll) then w.meshSwitch else w

theorem cdOutWrite_eq (v : Nat) (s : State) : State.cdOutWrite v s =
    if s.diesAdded v ≠ [] ∧ (s.setReg .cdOutMask v).unbindable = true then .error 0x8016
    else .ok ((s.diesAdded v).foldl (fun u d => (State.enginesLeave u ((List.range 8).map (8 * d + ·))).fault 0x0204 3 1 d)
      (s.diesBacked v)) := rfl

theorem diesBacked_faults (s : State) (v : Nat) :
    (s.diesBacked v).faults = ((s.diesBack v).foldl State.dieReturns (s.setReg .cdOutMask v)).faults := by
  unfold State.diesBacked
  split
  · exact State.meshSwitch_faults _
  · rfl

theorem diesBacked_cdOutMask {v : Nat} (hv : v < 2 ^ 16) (h : s.tidy) : (s.diesBacked v).reg .cdOutMask = v := by
  have hmesh : (s.diesBacked v).reg .cdOutMask =
      ((s.diesBack v).foldl State.dieReturns (s.setReg .cdOutMask v)).reg .cdOutMask := by
    unfold State.diesBacked
    split
    · exact State.meshSwitch_reg _ (by decide)
    · rfl
  rw [hmesh, foldl_dieReturns_reg, State.reg_setReg_rising _ _ _ _ (regsRising_of_tidy h)]
  exact Nat.mod_eq_of_lt hv

theorem diesBacked_cdOut {v d : Nat} (hd : d ∈ s.diesBack v) : bit (s.diesBacked v).faults.cdOut d = false := by
  rw [diesBacked_faults]
  exact foldl_dieReturns_cdOut hd _

theorem diesBacked_routerOut {v d : Nat} (hd : d ∈ s.diesBack v) (hp : bit s.faults.routerPll d = true) :
    bit (s.diesBacked v).faults.routerOut d = false := by
  rw [diesBacked_faults]
  exact foldl_dieReturns_routerOut hd (by rwa [State.setReg_faults])

theorem exec_cdOutMask (s : State) (m : Nat) (v : W16) :
    exec (.cdOutMask m v) s = .next (s.write m .cdOutMask 0 v.toNat (State.cdOutWrite v.toNat)) := rfl

/-- Every value of CD_OUT_MASK is in range and has no reserved bit. -/
theorem byRules_cdOutMask (v : W16) : s.byRules .cdOutMask (v.toNat % 2 ^ Reg.width .cdOutMask) (State.cdOutWrite v.toNat) =
    State.cdOutWrite v.toNat s :=
  byRules_of_allowed rfl (by simp [Reg.reservedSet, Reg.cdOutMask])

theorem byRules_cdOutMask_of_unbindable {v : W16} (ha : s.diesAdded v.toNat ≠ [])
    (hu : (s.setReg .cdOutMask v.toNat).unbindable = true) :
    s.byRules .cdOutMask (v.toNat % 2 ^ Reg.width .cdOutMask) (State.cdOutWrite v.toNat) = .error 0x8016 := by
  rw [byRules_cdOutMask, cdOutWrite_eq, if_pos ⟨ha, hu⟩]

theorem byRules_cdOutMask_of_bindable {v : W16} (h : s.diesAdded v.toNat = [] ∨ (s.setReg .cdOutMask v.toNat).unbindable = false) :
    s.byRules .cdOutMask (v.toNat % 2 ^ Reg.width .cdOutMask) (State.cdOutWrite v.toNat) =
      .ok ((s.diesAdded v.toNat).foldl (fun u d => (State.enginesLeave u ((List.range 8).map (8 * d + ·))).fault 0x0204 3 1 d)
        (s.diesBacked v.toNat)) := by
  have hn : ¬ (s.diesAdded v.toNat ≠ [] ∧ (s.setReg .cdOutMask v.toNat).unbindable = true) := by
    rintro ⟨ha, hu⟩
    exact h.elim ha fun h => Bool.noConfusion (h.symm.trans hu)
  rw [byRules_cdOutMask, cdOutWrite_eq, if_neg hn]

/-- Settles O41, by the rules above. That a die lost by its router stays out (log entry 78) while one lost by its PLL returns with its
router (log entry 95), that a mask of which one added bit cannot be bound is refused whole (log entry 59), and the free choice of a
ready engine (log entry 12) are the model's choices. -/
theorem shadowsAndQuarantineComplete : Obligations.ShadowsAndQuarantineComplete := by
  refine ⟨fun s c => ⟨exec_shadowCopyDone_of_idle, exec_shadowCopyDone⟩, fun s => ⟨exec_shadowStart_of_none, fun w hw =>
      ⟨exec_shadowStart_of_no_engine hw, exec_shadowStart_of_none_ready hw, exec_shadowStart_of_ready hw⟩⟩,
    fun s => ⟨exec_shadowMaxAge_of_none, fun w => exec_shadowMaxAge_of_late⟩,
    fun s r third => ⟨exec_shadowCompare_of_none, fun w hw => ⟨exec_shadowCompare_of_same hw, exec_shadowCompare_of_different hw⟩⟩,
    fun s m v => ?_, fun s m v => ?_⟩
  · have hi := exec_meQuarantine s m v
    have hk := sizeOk_meQuarantine v.toNat
    exact ⟨guardedOctets_of_writeOctets hi, fun hw =>
      ⟨fun ha hu => ignored_of_writeOctets hi hw hk (quarantineWrite_of_unbindable ha hu),
       fun ha => taken_of_writeOctets hi hw hk (quarantineWrite_of_none_added ha),
       fun ha hu => taken_of_writeOctets hi hw hk (quarantineWrite_of_added ha hu),
       fun ht => ⟨enginesBacked_meQuarantine v.isLt ht, fun e he hold hnew => enginesBacked_meBack ht he hold hnew⟩⟩⟩
  · have hi := exec_cdOutMask s m v
    exact ⟨guarded_of_write hi, fun hw =>
      ⟨fun ha hu => ignored_of_write hi hw (byRules_cdOutMask_of_unbindable ha hu),
       fun h => taken_of_write hi hw (byRules_cdOutMask_of_bindable h),
       fun ht => ⟨diesBacked_cdOutMask v.isLt ht, fun d hd => ⟨diesBacked_cdOut hd, diesBacked_routerOut hd⟩⟩⟩⟩

end Sys2Proof.Machine
end

section
/-! O56 and O60: the floating-point formats. A code is its sign bit, exponent field and mantissa; the magnitude that `Fmt.decode`
gives an exponent field and mantissa is exact in the format, so R28 keeps it and its code is written back (R23, R25, R28, R31). -/

namespace Sys2Proof.Machine

/-! ### The length of a magnitude -/

theorem bitLen_le_of_lt {m n : Nat} (h : m < 2 ^ n) : bitLen m ≤ n := by
  unfold bitLen
  split
  · exact Nat.zero_le n
  · next h0 => exact (Nat.log2_lt h0).2 h

/-- A mantissa with its leading 1 at bit `n`. -/
theorem bitLen_two_pow_add {m n : Nat} (h : m < 2 ^ n) : bitLen (2 ^ n + m) = n + 1 := by
  have hpos : 0 < 2 ^ n := Nat.two_pow_pos n
  have h0 : 2 ^ n + m ≠ 0 := by omega
  have hlog : Nat.log2 (2 ^ n + m) = n := (Nat.log2_eq_iff h0).2 ⟨by omega, by rw [Nat.pow_succ]; omega⟩
  simp [bitLen, hlog]

/-! ### The magnitude that an exponent field and a mantissa stand for -/

/-- The integer mantissa of R23: with the leading 1 unless the exponent field is 0. -/
def Fmt.mant (f : Fmt) (x m : Nat) : Nat := if x = 0 then m else 2 ^ f.mbits + m

/-- The exponent of its last bit: that of the subnormals for the exponent fields 0 and 1. -/
def Fmt.quantum (f : Fmt) (x : Nat) : Int := f.qmin + ((x - 1 : Nat) : Int)

variable {f : Fmt} {s : Bool} {x m c : Nat}

/-- A magnitude of the format is on its own rounding grid. -/
theorem Fmt.roundMag_mant (hm : m < 2 ^ f.mbits) :
    f.roundMag (f.mant x m) (f.quantum x) false = (f.mant x m, f.quantum x) := by
  have hq : max (ilog2 (f.mant x m) (f.quantum x) - (f.mbits : Int)) f.qmin = f.quantum x := by
    unfold ilog2 Fmt.mant Fmt.quantum
    split
    · have hlen := bitLen_le_of_lt hm
      omega
    · rw [bitLen_two_pow_add hm]
      omega
  unfold Fmt.roundMag
  simp [hq]

/-- The code of a magnitude is its exponent field above its mantissa. -/
theorem Fmt.codeMag_mant (hm : m < 2 ^ f.mbits) (hmax : x * 2 ^ f.mbits + m ≤ f.maxCode) :
    f.codeMag (f.mant x m) (f.quantum x) = some (x * 2 ^ f.mbits + m) := by
  have hk : (f.quantum x - f.qmin).toNat = x - 1 := by unfold Fmt.quantum; omega
  unfold Fmt.codeMag
  rw [hk]
  by_cases hx : x = 0
  · subst hx
    have hle : m ≤ f.maxCode := by simpa using hmax
    by_cases h0 : m = 0
    · simp [Fmt.mant, h0]
    · simp [Fmt.mant, h0, hm, hle]
  · have hsucc : x - 1 + 1 = x := by omega
    simp [Fmt.mant, hx, hsucc, hmax]

theorem Fmt.encodeMag_mant (outSat : Bool) (hm : m < 2 ^ f.mbits) (hmax : x * 2 ^ f.mbits + m ≤ f.maxCode) :
    f.encodeMag outSat s (f.mant x m) (f.quantum x) false = (f.signBit s + (x * 2 ^ f.mbits + m), false) := by
  have hcode := Fmt.codeMag_mant hm hmax
  unfold Fmt.encodeMag
  by_cases h0 : f.mant x m = 0
  · have hc : x * 2 ^ f.mbits + m = 0 := by
      rw [Fmt.codeMag, if_pos h0] at hcode
      exact (Option.some.inj hcode).symm
    simp [h0, hc]
  · simp [h0, Fmt.roundMag_mant hm, hcode]

/-! ### The fields of a code -/

/-- The exponent field of a code. -/
def Fmt.expField (f : Fmt) (c : Nat) : Nat := (c >>> f.mbits) % 2 ^ f.ebits

/-- The mantissa field of a code. -/
def Fmt.mantField (f : Fmt) (c : Nat) : Nat := c % 2 ^ f.mbits

/-- The sign of a code. -/
def Fmt.signOf (f : Fmt) (c : Nat) : Bool := c.testBit (f.ebits + f.mbits)

theorem Fmt.mantField_lt : f.mantField c < 2 ^ f.mbits := Nat.mod_lt _ (Nat.two_pow_pos _)

theorem Fmt.expField_lt : f.expField c < 2 ^ f.ebits := Nat.mod_lt _ (Nat.two_pow_pos _)

/-- The bits below the sign are the exponent field and the mantissa. -/
theorem Fmt.fields_eq_mod (f : Fmt) (c : Nat) :
    f.expField c * 2 ^ f.mbits + f.mantField c = c % 2 ^ (f.ebits + f.mbits) := by
  rw [Fmt.expField, Fmt.mantField, Nat.shiftRight_eq_div_pow, Nat.add_comm f.ebits, Nat.pow_add, Nat.mod_mul]
  ring

/-- A code is put together again from its fields. -/
theorem Fmt.fields_eq (hc : c < 2 ^ (1 + f.ebits + f.mbits)) :
    f.signBit (f.signOf c) + (f.expField c * 2 ^ f.mbits + f.mantField c) = c := by
  have hdiv : c / 2 ^ (f.ebits + f.mbits) < 2 := by
    rw [Nat.div_lt_iff_lt_mul (Nat.two_pow_pos _), ← Nat.pow_succ']
    rwa [show (f.ebits + f.mbits).succ = 1 + f.ebits + f.mbits by omega]
  have hsplit := Nat.div_add_mod c (2 ^ (f.ebits + f.mbits))
  rw [Fmt.fields_eq_mod, Fmt.signBit, Fmt.signOf, Nat.testBit_eq_decide_div_mod_eq]
  obtain h | h := Nat.le_one_iff_eq_zero_or_eq_one.1 (Nat.lt_succ_iff.1 hdiv)
  · rw [h] at hsplit ⊢
    simpa using hsplit
  · rw [h] at hsplit ⊢
    simpa using hsplit

/-- A code of the top exponent field that is an infinity or a NaN. -/
def Fmt.isSpecial (f : Fmt) (c : Nat) : Prop :=
  f.expField c = 2 ^ f.ebits - 1 ∧ (f.spec = .ieee ∨ f.spec = .nanOnly ∧ f.mantField c = 2 ^ f.mbits - 1)

theorem Fmt.decode_of_not_special (h : ¬ f.isSpecial c) :
    f.decode c = .fin (f.signOf c) (f.mant (f.expField c) (f.mantField c)) (f.quantum (f.expField c)) := by
  have hi : ¬ (f.spec = .ieee ∧ f.expField c = 2 ^ f.ebits - 1) := fun ⟨hs, hx⟩ => h ⟨hx, .inl hs⟩
  have hn : ¬ (f.spec = .nanOnly ∧ f.expField c = 2 ^ f.ebits - 1 ∧ f.mantField c = 2 ^ f.mbits - 1) :=
    fun ⟨hs, hx, hm⟩ => h ⟨hx, .inr ⟨hs, hm⟩⟩
  refine (if_neg hi).trans ((if_neg hn).trans ?_)
  change (if f.expField c = 0 then Fl.fin (f.signOf c) (f.mantField c) f.qmin else
    .fin (f.signOf c) (2 ^ f.mbits + f.mantField c) ((f.expField c : Int) - f.bias - f.mbits)) = _
  unfold Fmt.mant Fmt.quantum
  split
  · next h0 => simp [h0]
  · next h0 =>
    rw [Fl.fin.injEq]
    refine ⟨rfl, rfl, ?_⟩
    unfold Fmt.qmin
    omega

/-- A code of the top exponent field that is not a number is a NaN, or an infinity whose mantissa is 0. -/
theorem Fmt.decode_of_special (h : f.isSpecial c) :
    f.decode c = .nan ∨ f.spec = .ieee ∧ f.mantField c = 0 ∧ f.decode c = .inf (f.signOf c) := by
  obtain ⟨hx, hs | ⟨hs, hm⟩⟩ := h
  · by_cases hm : f.mantField c = 0
    · exact .inr ⟨hs, hm, (if_pos ⟨hs, hx⟩).trans (if_pos hm)⟩
    · exact .inl ((if_pos ⟨hs, hx⟩).trans (if_neg hm))
  · have hi : ¬ (f.spec = .ieee ∧ f.expField c = 2 ^ f.ebits - 1) := fun ⟨hs', _⟩ => by simp [hs] at hs'
    exact .inl ((if_neg hi).trans (if_pos ⟨hs, hx, hm⟩))

/-- The magnitude of a code that is a number is at most the largest finite one. -/
theorem Fmt.fields_le_maxCode (h : ¬ f.isSpecial c) : f.expField c * 2 ^ f.mbits + f.mantField c ≤ f.maxCode := by
  have hx := f.expField_lt (c := c)
  have hm := f.mantField_lt (c := c)
  have below {t : Nat} (ht : f.expField c + 1 ≤ t) : f.expField c * 2 ^ f.mbits + 2 ^ f.mbits ≤ t * 2 ^ f.mbits := by
    rw [← Nat.succ_mul]
    exact Nat.mul_le_mul_right _ ht
  unfold Fmt.isSpecial at h
  unfold Fmt.maxCode Fmt.topExp
  cases hs : f.spec with
  | ieee =>
    have hlt : f.expField c ≤ 2 ^ f.ebits - 2 := by simp [hs] at h; omega
    have := Nat.mul_le_mul_right (2 ^ f.mbits) hlt
    dsimp only
    omega
  | nanOnly =>
    dsimp only
    by_cases htop : f.expField c = 2 ^ f.ebits - 1
    · have hne : f.mantField c ≠ 2 ^ f.mbits - 1 := by simpa [hs, htop] using h
      rw [htop]
      omega
    · have := below (t := 2 ^ f.ebits - 1) (by omega)
      omega
  | none =>
    have := Nat.mul_le_mul_right (2 ^ f.mbits) (show f.expField c ≤ 2 ^ f.ebits - 1 by omega)
    dsimp only
    omega

/-! ### Codes written back -/

@[simp] theorem Fmt.encode_nan (f : Fmt) (outSat : Bool) : f.encode outSat .nan = (f.nanCode, false) := rfl

/-- An infinity that was one already is written as one, and is not counted. -/
theorem Fmt.encode_inf (outSat : Bool) (h : f.spec = .ieee) :
    f.encode outSat (.inf s) = (f.signBit s + (2 ^ f.ebits - 1) * 2 ^ f.mbits, false) := by
  simp [Fmt.encode, Fmt.overflow, h]

/-- In every format, a code that is not a NaN is written back as itself. -/
theorem Fmt.encode_decode (outSat : Bool) (hc : c < 2 ^ (1 + f.ebits + f.mbits)) (hn : f.decode c ≠ .nan) :
    f.encode outSat (f.decode c) = (c, false) := by
  have hfields := Fmt.fields_eq hc
  by_cases hsp : f.isSpecial c
  · obtain h | ⟨hs, hm, h⟩ := Fmt.decode_of_special hsp
    · exact absurd h hn
    · rw [hm, hsp.1, Nat.add_zero] at hfields
      rw [h, Fmt.encode_inf outSat hs, hfields]
  · rw [Fmt.decode_of_not_special hsp, Fmt.encode, Fmt.encodeMag_mant outSat Fmt.mantField_lt (Fmt.fields_le_maxCode hsp), hfields]

/-- Settles O56, of every format and with saturation on or off. -/
theorem formatsRoundTrip : Obligations.FormatsRoundTrip := by
  intro f _ c hc
  exact ⟨Fmt.encode_decode false hc, fun h => by rw [h, Fmt.encode_nan]⟩

/-- The canonical NaNs of R31. -/
theorem nanCode_eq {n : Nat}
    (h : (f, n) ∈ [(fmtFP32, 0x7FC00000), (fmtBF16, 0x7FC0), (fmtFP16, 0x7E00), (fmtE4M3, 0x7F), (fmtE5M2, 0x7E)]) :
    f.nanCode = n := by
  simp only [List.mem_cons, Prod.mk.injEq, List.not_mem_nil, or_false] at h
  obtain ⟨rfl, rfl⟩ | ⟨rfl, rfl⟩ | ⟨rfl, rfl⟩ | ⟨rfl, rfl⟩ | ⟨rfl, rfl⟩ := h <;> rfl

/-- Settles O60: `Fl.nan` carries no payload, so what is written is the format's own NaN code. -/
theorem nanIsCanonical : Obligations.NanIsCanonical := by
  intro f n hf
  exact ⟨fun sat => nanCode_eq hf, fun g k _ c sat hnan => by rw [hnan, Fmt.encode_nan, nanCode_eq hf]⟩

end Sys2Proof.Machine
end

section
/-! O58 and O59: the kaolin accumulator (R40 to R51). What a product or a record brings is what it leaves in a cleared element, and
the sum merges it in: the integers add and the flags join, so the order does not matter. -/

namespace Sys2Proof.Machine

variable {w : Int} {k : Kao} {s : Bool} {m : Nat} {e : Int}

/-! ### The order of a sum -/

/-- Two elements merged: the integers add and each flag is set where it is set in one of them. -/
def Kao.merge (k d : Kao) : Kao :=
  ⟨k.v + d.v, k.satHi || d.satHi, k.satLo || d.satLo, k.pinf || d.pinf, k.ninf || d.ninf, k.nan || d.nan⟩

theorem Kao.merge_right_comm (k a b : Kao) : (k.merge a).merge b = (k.merge b).merge a := by
  simp only [Kao.merge, Bool.or_right_comm, Int.add_right_comm]

/-- A value is merged in as it stands in a cleared element. -/
theorem Kao.addFl_eq_merge (w : Int) (k : Kao) (v : Fl) : k.addFl w v = k.merge (Kao.zero.addFl w v) := by
  cases v with
  | nan => simp [Kao.addFl, Kao.merge, Kao.zero]
  | inf s => cases s <;> simp [Kao.addFl, Kao.merge, Kao.zero]
  | fin s m e => simp [Kao.addFl, Kao.merge, Kao.zero]

/-- So is a record. -/
theorem Kao.addRecord_eq_merge (w : Int) (k : Kao) (r : Nat) : k.addRecord w r = k.merge (Kao.zero.addRecord w r) := by
  simp [Kao.addRecord, Kao.merge, Kao.zero, Bool.or_assoc]

/-- What is merged in element by element may be taken in any order. -/
theorem Kao.foldl_perm {α : Type} {f : Kao → α → Kao} {d : α → Kao} (hf : ∀ k x, f k x = k.merge (d x)) {a b : List α}
    (h : a.Perm b) (k : Kao) : a.foldl f k = b.foldl f k :=
  h.foldl_eq' (fun x _ y _ z => by simp only [hf, Kao.merge_right_comm]) k

/-- Settles O58, of products and of records. -/
theorem kaolinResultIsOrderFree : Obligations.KaolinResultIsOrderFree :=
  ⟨fun w k _ _ h => Kao.foldl_perm (Kao.addFl_eq_merge w) h k, fun w k _ _ h => Kao.foldl_perm (Kao.addRecord_eq_merge w) h k⟩

/-! ### How a finite value enters (R42) -/

/-- The units of 2^W that remain of a magnitude. -/
def kaoUnits (w : Int) (m : Nat) (e : Int) : Nat := m * 2 ^ (e - w).toNat / 2 ^ (w - e).toNat

/-- What is discarded of it, in units of 2^e. -/
def kaoCut (w : Int) (m : Nat) (e : Int) : Nat := m % 2 ^ (w - e).toNat

/-- A value at or above the window's base enters whole; of one below it the low bits are cut. -/
theorem kaoEnterFin_eq (w : Int) (s : Bool) (m : Nat) (e : Int) : kaoEnterFin w s m e =
    ((if s then -1 else 1) * ((min (kaoUnits w m e) (2 ^ 191 - 1) : Nat) : Int), decide (2 ^ 191 - 1 < kaoUnits w m e),
      decide (kaoCut w m e ≠ 0)) := by
  have hshift : (if 0 ≤ e - w then (m * 2 ^ (e - w).toNat, false)
      else (m >>> (-(e - w)).toNat, decide (m % 2 ^ (-(e - w)).toNat ≠ 0))) = (kaoUnits w m e, decide (kaoCut w m e ≠ 0)) := by
    unfold kaoUnits kaoCut
    split
    · have hlost : (w - e).toNat = 0 := by omega
      simp [hlost, Nat.mod_one]
    · have hk : (e - w).toNat = 0 := by omega
      simp [hk, Nat.shiftRight_eq_div_pow]
  have hlim : kaoLimit = ((2 ^ 191 - 1 : Nat) : Int) := rfl
  simp only [kaoEnterFin, hshift, hlim, Nat.cast_lt]
  generalize kaoUnits w m e = u
  generalize 2 ^ 191 - 1 = limit
  by_cases hu : limit < u
  · rw [Nat.min_eq_right hu.le]
    cases s <;> simp [hu]
  · rw [Nat.min_eq_left (Nat.le_of_not_lt hu)]
    cases s <;> simp [hu]

/-- Where nothing is cut, the units stand for the whole magnitude. -/
theorem kaoUnits_exact (h : kaoCut w m e = 0) : kaoUnits w m e * 2 ^ (w - e).toNat = m * 2 ^ (e - w).toNat :=
  Nat.div_mul_cancel ((Nat.dvd_of_mod_eq_zero h).mul_right _)

/-- Settles O59. -/
theorem kaolinProductEntry : Obligations.KaolinProductEntry := by
  intro w k s m e
  have hv : (k.addFl w (.fin s m e)).v =
      k.v + (if s then -1 else 1) * ((min (kaoUnits w m e) (2 ^ 191 - 1) : Nat) : Int) := by
    rw [Kao.addFl, kaoEnterFin_eq]
  refine ⟨by rw [Kao.addFl, kaoEnterFin_eq]; rfl, by rw [Kao.addFl, kaoEnterFin_eq]; rfl, hv, fun hcut hle => ?_, rfl, rfl, rfl⟩
  have habs : ((k.addFl w (.fin s m e)).v - k.v).natAbs = kaoUnits w m e := by
    rw [hv, Nat.min_eq_left (show kaoUnits w m e ≤ 2 ^ 191 - 1 from hle)]
    cases s <;> simp
  exact habs ▸ kaoUnits_exact hcut
end Sys2Proof.Machine
end

section
/-! O12: the fabric commands (R51, R152, R355 to R357). `State.runFabric` is said once for each kind of command: FLOAD and the
atomics that fetch write local memory, the stores fill their staging, the other atomics do neither; the command is then run. -/

open Sys2Proof.Claims

namespace Sys2Proof.Machine

variable {s u : State} {c : Nat} {x : Cmd} {op : Op} {i : Instr}

/-! ### The command of a context -/

theorem runningAs_of_underWay (h : underWay s c x op) : s.runningAs c op = some x := by
  obtain ⟨hcmd, hphase, hdone, hop⟩ := h
  simp [State.runningAs, hcmd, hphase, hdone, hop]

theorem runningAs_of_none_underWay (h : ∀ x, ¬ underWay s c x op) : s.runningAs c op = none := by
  unfold State.runningAs
  split
  · next x hcmd =>
    refine if_neg fun ⟨hphase, hdone, hop⟩ => h x ⟨hcmd, hphase, by simpa using hdone, hop⟩
  · rfl

theorem modCmd_cmd (f : Cmd → Cmd) (h : (s.ctx c).cmd = some x) : ((s.modCmd c f).ctx c).cmd = some (f x) := by
  have hne : ({ s.ctx c with cmd := (s.ctx c).cmd.map f } : Ctx) ≠ default := fun hd => by
    have hnone : (s.ctx c).cmd.map f = none := congrArg Ctx.cmd hd
    rw [h] at hnone
    cases hnone
  unfold State.modCmd State.modCtx
  rw [State.ctx_setCtx_same s c hne, h, Option.map_some]

theorem modCmd_ctx_other (f : Cmd → Cmd) {e : Nat} (h : e ≠ c) : (s.modCmd c f).ctx e = s.ctx e :=
  State.ctx_setCtx_other s _ h.symm

/-! ### Local memory -/

theorem ctxPut_frame (s : State) (c t off : Nat) (b : Byte) :
    s.ctxPut c t off b = { s with mem := (s.ctxPut c t off b).mem, host := (s.ctxPut c t off b).host } := by
  unfold State.ctxPut
  split
  · split <;> rfl
  · split <;> rfl
  · split
    · split <;> rfl
    · rfl
  · rfl
  · rfl

/-- A run of bytes written to a context's tiers changes memory and host memory alone. -/
theorem ctxPutRun_frame (s : State) (c t off : Nat) (bs : Bytes) :
    s.ctxPutRun c t off bs = { s with mem := (s.ctxPutRun c t off bs).mem, host := (s.ctxPutRun c t off bs).host } := by
  induction bs generalizing s off with
  | nil => rfl
  | cons b bs ih =>
    rw [State.ctxPutRun, ih, ctxPut_frame]

/-! ### What a fabric command writes and stages -/

/-- The local address and the bytes that a fabric command writes there: of FLOAD what it read, of a fetching atomic the prior
values. -/
def fabricLands (op : Op) (x : Cmd) : Option (Nat × Bytes) :=
  if op = .fload then some (Desc.fabLocal x.desc, x.landed.run 0 0 (Desc.fabLength x.desc))
  else if op = .ffetchAddI64 ∨ op = .fswapI64 ∨ op = .fcasI64 then
    some (Desc.fabResultLocal x.desc, x.landed.run 0 0 (Desc.fabLength x.desc * 8))
  else none

/-- The bytes that the command holds afterwards: of a store its source. -/
def fabricStages (s : State) (c : Nat) (op : Op) (x : Cmd) : Tab Byte :=
  if op = .fstore ∨ op = .fstoreShared then
    Tab.setRun 0 [] 0 (readRun (s.ctxByte c) (tierOf (Desc.fabLocal x.desc)) (tierOff (Desc.fabLocal x.desc))
      (Desc.fabLength x.desc))
  else x.landed

/-- A fabric command has been run from `s` to `t`: the words of the claim. -/
def fabricRan (s : State) (c : Nat) (op : Op) (x : Cmd) (t : State) : Prop :=
  (t.ctx c).cmd = some { x with done := true, landed := fabricStages s c op x } ∧
  (∀ a b, fabricLands op x = some (a, b) → t.mem = (s.ctxPutRun c (tierOf a) (tierOff a) b).mem ∧
    t.host = (s.ctxPutRun c (tierOf a) (tierOff a) b).host) ∧
  (fabricLands op x = none → t.mem = s.mem ∧ t.host = s.host) ∧
  (∀ e, e ≠ c → t.ctx e = s.ctx e) ∧ t = { s with ctxs := t.ctxs, mem := t.mem, host := t.host }

/-- The last step of each fabric command, on a state `u` that holds what it writes and stages. -/
theorem fabricRan_done (hcmd : (u.ctx c).cmd = some { x with landed := fabricStages s c op x })
    (hlands : ∀ a b, fabricLands op x = some (a, b) → u.mem = (s.ctxPutRun c (tierOf a) (tierOff a) b).mem ∧
      u.host = (s.ctxPutRun c (tierOf a) (tierOff a) b).host)
    (hnone : fabricLands op x = none → u.mem = s.mem ∧ u.host = s.host) (hother : ∀ e, e ≠ c → u.ctx e = s.ctx e)
    (hframe : u = { s with ctxs := u.ctxs, mem := u.mem, host := u.host }) :
    fabricRan s c op x (u.modCmd c fun k => { k with done := true }) := by
  refine ⟨modCmd_cmd _ hcmd, hlands, hnone, fun e he => (modCmd_ctx_other _ he).trans (hother e he), ?_⟩
  rw [hframe]
  rfl

/-- FLOAD and the fetching atomics. -/
theorem runFabric_of_lands {a : Nat} {b : Bytes} (hx : underWay s c x op) (hl : fabricLands op x = some (a, b)) :
    fabricRan s c op x (s.runFabric c op) := by
  have hr := runningAs_of_underWay hx
  have hrun : fabricStages s c op x = x.landed ∧ s.runFabric c op =
      (s.ctxPutRun c (tierOf a) (tierOff a) b).modCmd c fun k => { k with done := true } := by
    unfold fabricLands at hl
    split at hl
    · next hop =>
      subst hop
      cases hl
      simp [fabricStages, State.runFabric, hr]
    · split at hl
      · next hop =>
        obtain rfl | rfl | rfl := hop <;> cases hl <;> simp [fabricStages, State.runFabric, hr, Op.fetches]
      · cases hl
  obtain ⟨hs, hrun⟩ := hrun
  have hframe := ctxPutRun_frame s c (tierOf a) (tierOff a) b
  have hctxs : (s.ctxPutRun c (tierOf a) (tierOff a) b).ctxs = s.ctxs := by rw [hframe]
  have hctx (e : Nat) : (s.ctxPutRun c (tierOf a) (tierOff a) b).ctx e = s.ctx e := congrArg (Tab.at · e) hctxs
  rw [hrun]
  refine fabricRan_done (by rw [hctx, hs]; exact hx.1) (fun a' b' h => ?_) (fun h => ?_) (fun e _ => hctx e) ?_
  · cases hl.symm.trans h
    exact ⟨rfl, rfl⟩
  · cases hl.symm.trans h
  · rw [hctxs]
    exact hframe

/-- The stores, where no other command holds a byte of their source. -/
theorem runFabric_of_store (hx : underWay s c x op) (hop : op = .fstore ∨ op = .fstoreShared)
    (hheld : s.readsHeld c op x.desc ≠ true) : fabricRan s c op x (s.runFabric c op) := by
  have hrun : s.runFabric c op =
      (s.modCmd c fun k => { k with landed := fabricStages s c op x }).modCmd c fun k => { k with done := true } := by
    rw [State.runFabric, runningAs_of_underWay hx]
    obtain rfl | rfl := hop <;> simp [hheld, fabricStages]
  have hl : fabricLands op x = none := by obtain rfl | rfl := hop <;> rfl
  rw [hrun]
  refine fabricRan_done (modCmd_cmd _ hx.1) (fun a b h => ?_) (fun _ => ⟨rfl, rfl⟩) (fun e he => modCmd_ctx_other _ he) rfl
  cases hl.symm.trans h

/-- A store waits while another command holds a byte of its source. -/
theorem runFabric_of_held (hx : underWay s c x op) (hop : op = .fstore ∨ op = .fstoreShared)
    (hheld : s.readsHeld c op x.desc = true) : s.runFabric c op = s := by
  rw [State.runFabric, runningAs_of_underWay hx]
  exact if_pos ⟨hop, hheld⟩

/-- The atomics that fetch nothing. -/
theorem runFabric_of_add (hx : underWay s c x op) (hop : op = .faddI64 ∨ op = .faddF32Fast ∨ op = .faddKrec) :
    fabricRan s c op x (s.runFabric c op) := by
  have hr := runningAs_of_underWay hx
  have hrun : fabricLands op x = none ∧ fabricStages s c op x = x.landed ∧
      s.runFabric c op = s.modCmd c fun k => { k with done := true } := by
    obtain rfl | rfl | rfl := hop <;> simp [fabricLands, fabricStages, State.runFabric, hr, Op.fetches]
  obtain ⟨hl, hs, hrun⟩ := hrun
  rw [hrun]
  refine fabricRan_done (by rw [hs]; exact hx.1) (fun a b h => ?_) (fun _ => ⟨rfl, rfl⟩) (fun _ _ => rfl) rfl
  cases hl.symm.trans h

theorem runFabric_of_none (h : ∀ x, ¬ underWay s c x op) : s.runFabric c op = s := by
  rw [State.runFabric, runningAs_of_none_underWay h]

/-! ### The rows -/

theorem exec_of_fabricRows (h : (i, op) ∈ fabricRows c) (s : State) : exec i s = .next (s.runFabric c op) := by
  simp only [fabricRows, List.mem_cons, Prod.mk.injEq, List.not_mem_nil, or_false] at h
  obtain ⟨rfl, rfl⟩ | ⟨rfl, rfl⟩ | ⟨rfl, rfl⟩ | ⟨rfl, rfl⟩ | ⟨rfl, rfl⟩ | ⟨rfl, rfl⟩ | ⟨rfl, rfl⟩ | ⟨rfl, rfl⟩ | ⟨rfl, rfl⟩ := h
  all_goals rfl

/-- A fabric command is a store, writes local memory, or is an atomic that fetches nothing. -/
theorem fabricRows_kinds (h : (i, op) ∈ fabricRows c) (x : Cmd) :
    (op = .fstore ∨ op = .fstoreShared) ∨ (∃ a b, fabricLands op x = some (a, b)) ∨
      op = .faddI64 ∨ op = .faddF32Fast ∨ op = .faddKrec := by
  simp only [fabricRows, List.mem_cons, Prod.mk.injEq, List.not_mem_nil, or_false] at h
  obtain ⟨-, rfl⟩ | ⟨-, rfl⟩ | ⟨-, rfl⟩ | ⟨-, rfl⟩ | ⟨-, rfl⟩ | ⟨-, rfl⟩ | ⟨-, rfl⟩ | ⟨-, rfl⟩ | ⟨-, rfl⟩ := h
  all_goals simp [fabricLands]

theorem fabricRan_runFabric (h : (i, op) ∈ fabricRows c) (hx : underWay s c x op)
    (hheld : ¬ ((op = .fstore ∨ op = .fstoreShared) ∧ s.readsHeld c op x.desc = true)) :
    fabricRan s c op x (s.runFabric c op) := by
  obtain hop | ⟨a, b, hl⟩ | hop := fabricRows_kinds h x
  · exact runFabric_of_store hx hop fun hr => hheld ⟨hop, hr⟩
  · exact runFabric_of_lands hx hl
  · exact runFabric_of_add hx hop

/-- Settles O12, by one rule for each kind of fabric command. -/
theorem fabricCommandsComplete : Obligations.FabricCommandsComplete := by
  intro s c i op hrow
  have hexec := exec_of_fabricRows hrow s
  refine ⟨fun x hx => ⟨fun hheld => ⟨_, hexec, fabricRan_runFabric hrow hx hheld⟩, fun hop hheld => ?_⟩, fun hnone => ?_⟩
  · rw [hexec, runFabric_of_held hx hop hheld]
  · rw [hexec, runFabric_of_none hnone]

end Sys2Proof.Machine
end

section
/-! O50: the throttle (R91, R510, R511). A choice of step is a search among 67; a step set is four registers and the engines' idle
requests. -/

namespace Sys2Proof.Machine

variable {s : State} {other target k : Nat}

/-! ### The lowest step that meets a target -/

/-- The search finds the lowest step that meets the target, or no step does. -/
theorem lowestStep_cases (s : State) (other target : Nat) :
    (s.lowestStep other target ≤ 66 ∧ s.predict other (s.lowestStep other target) ≤ target ∧
      ∀ j, j < s.lowestStep other target → target < s.predict other j) ∨
    (s.lowestStep other target = 66 ∧ ∀ j, j ≤ 66 → target < s.predict other j) := by
  unfold State.lowestStep
  cases h : (List.range 67).find? fun k => s.predict other k ≤ target with
  | some n =>
    obtain ⟨hmeets, hn, hbelow⟩ := List.find?_range_eq_some.1 h
    refine .inl ⟨Nat.le_of_lt_succ (List.mem_range.1 hn), by simpa using hmeets, fun j hj => by simpa using hbelow j hj⟩
  | none =>
    rw [List.find?_range_eq_none] at h
    exact .inr ⟨rfl, fun j hj => by simpa using h j (Nat.lt_succ_of_le hj)⟩

theorem lowestStep_le (s : State) (other target : Nat) : s.lowestStep other target ≤ 66 := by
  obtain ⟨hle, -⟩ | ⟨heq, -⟩ := lowestStep_cases s other target
  · exact hle
  · exact heq.le

theorem predict_lowestStep_le {j : Nat} (hj : j ≤ 66) (h : s.predict other j ≤ target) :
    s.predict other (s.lowestStep other target) ≤ target := by
  obtain ⟨-, hmeets, -⟩ | ⟨-, hnone⟩ := lowestStep_cases s other target
  · exact hmeets
  · exact absurd h (Nat.not_le.2 (hnone j hj))

theorem lt_predict_of_lt_lowestStep {j : Nat} (hj : j < s.lowestStep other target) : target < s.predict other j := by
  obtain ⟨-, -, hbelow⟩ | ⟨heq, hnone⟩ := lowestStep_cases s other target
  · exact hbelow j hj
  · exact hnone j (Nat.le_of_lt (heq ▸ hj))

theorem chooseStep_of_rising (h : s.throttleNow ≤ s.lowestStep other target) :
    s.chooseStep other target = s.lowestStep other target := if_pos h

theorem chooseStep_of_falling (h : s.lowestStep other target < s.throttleNow) : s.chooseStep other target =
    max (s.lowestStep other target) (min s.throttleNow (s.lowestStep other (target - 1000 * s.reg .throttleHystW))) :=
  if_neg (Nat.not_le.2 h)

/-! ### What a step shows -/

/-- The four registers that show a step. -/
def State.showThrottle (s : State) (x : Throttle) : State :=
  (((s.setReg .throttleStage x.stage).setReg .beIdleAk x.beIdle).setReg .lcIdleAk x.lcIdle).setReg .schedGates x.gates

theorem setStep_eq (s : State) (k : Nat) : s.setStep k = (s.showThrottle (throttleOf k)).requestIdle (throttleOf k) := rfl

theorem requestIdle_reg (s : State) (x : Throttle) (r : Reg) (i : Nat) : (s.requestIdle x).reg r i = s.reg r i := rfl

/-- Every register but the four reads as before. -/
theorem showThrottle_reg_other (s : State) (x : Throttle) {r : Reg} {i : Nat} (h1 : Reg.key .throttleStage 0 ≠ r.key i)
    (h2 : Reg.key .beIdleAk 0 ≠ r.key i) (h3 : Reg.key .lcIdleAk 0 ≠ r.key i) (h4 : Reg.key .schedGates 0 ≠ r.key i) :
    (s.showThrottle x).reg r i = s.reg r i := by
  unfold State.showThrottle
  rw [State.reg_setReg_other _ _ h4, State.reg_setReg_other _ _ h3, State.reg_setReg_other _ _ h2,
    State.reg_setReg_other _ _ h1]

theorem showThrottle_reg (x : Throttle) (h : s.regsRising) :
    (s.showThrottle x).reg .throttleStage = x.stage % 2 ^ 8 ∧ (s.showThrottle x).reg .beIdleAk = x.beIdle % 2 ^ 16 ∧
    (s.showThrottle x).reg .lcIdleAk = x.lcIdle % 2 ^ 16 ∧ (s.showThrottle x).reg .schedGates = x.gates % 2 ^ 8 := by
  have h1 := State.regsRising_setReg s .throttleStage x.stage 0 h
  have h2 := State.regsRising_setReg _ .beIdleAk x.beIdle 0 h1
  have h3 := State.regsRising_setReg _ .lcIdleAk x.lcIdle 0 h2
  unfold State.showThrottle
  refine ⟨?_, ?_, ?_, State.reg_setReg_rising _ _ _ _ h3⟩
  · rw [State.reg_setReg_other _ _ (by decide), State.reg_setReg_other _ _ (by decide), State.reg_setReg_other _ _ (by decide)]
    exact State.reg_setReg_rising _ _ _ _ h
  · rw [State.reg_setReg_other _ _ (by decide), State.reg_setReg_other _ _ (by decide)]
    exact State.reg_setReg_rising _ _ _ _ h1
  · rw [State.reg_setReg_other _ _ (by decide)]
    exact State.reg_setReg_rising _ _ _ _ h2

/-- The fields of a step fit their registers. -/
theorem throttleOf_fits (hk : k ≤ 66) : (throttleOf k).stage < 2 ^ 8 ∧ (throttleOf k).beIdle < 2 ^ 16 ∧
    (throttleOf k).lcIdle < 2 ^ 16 ∧ (throttleOf k).gates < 2 ^ 8 := by
  unfold throttleOf
  split_ifs <;> simp <;> omega

theorem setStep_reg (hk : k ≤ 66) (h : s.tidy) :
    (s.setStep k).reg .throttleStage = (throttleOf k).stage ∧ (s.setStep k).reg .beIdleAk = (throttleOf k).beIdle ∧
    (s.setStep k).reg .lcIdleAk = (throttleOf k).lcIdle ∧ (s.setStep k).reg .schedGates = (throttleOf k).gates := by
  obtain ⟨f1, f2, f3, f4⟩ := throttleOf_fits hk
  have hr := showThrottle_reg (throttleOf k) (regsRising_of_tidy h)
  rw [Nat.mod_eq_of_lt f1, Nat.mod_eq_of_lt f2, Nat.mod_eq_of_lt f3, Nat.mod_eq_of_lt f4] at hr
  exact hr

/-- The stage and the idle lengths tell the step: within stages 1 and 3 by the multiple of 64. -/
theorem setStep_throttleNow (hk : k ≤ 66) (h : s.tidy) : (s.setStep k).throttleNow = k := by
  obtain ⟨hstage, hbe, hlc, -⟩ := setStep_reg hk h
  unfold State.throttleNow
  rw [hstage, hbe, hlc]
  unfold throttleOf
  split_ifs <;> simp <;> omega

/-! ### Idle requests -/

/-- Reading an entry after all have changed: a change that keeps the default, in a table with rising keys. -/
theorem Tab.get_mapAll {α : Type} [Inhabited α] [DecidableEq α] {t : Tab α} {f : Nat → α → α} (h : t.rising) (k : Nat)
    (hf : f k default = default) : (t.mapAll f).get default k = f k (t.get default k) := by
  induction t with
  | nil => exact hf.symm
  | cons p t ih =>
    obtain ⟨j, v⟩ := p
    obtain ⟨hbelow, hrest⟩ := List.pairwise_cons.1 h
    have htail : Tab.mapAll ((j, v) :: t) f = if f j v ≠ default then (j, f j v) :: Tab.mapAll t f else Tab.mapAll t f := by
      simp [Tab.mapAll, List.filter_cons]
    rw [htail, Tab.get_cons]
    by_cases hj : j = k
    · subst hj
      rw [if_pos rfl]
      split
      · rw [Tab.get_cons, if_pos rfl]
      · next hd =>
        rw [ih hrest, Tab.get_below default t j hbelow, hf]
        exact (not_not.1 hd).symm
    · rw [if_neg hj, ← ih hrest]
      split
      · rw [Tab.get_cons, if_neg hj]
      · rfl

/-- The idle that a step asks of an engine: by the class whose command runs there. -/
def Throttle.idleFor (x : Throttle) (s : State) (e : Engine) : Nat :=
  match s.classRunning e with
  | 1 => x.lcIdle
  | 2 => x.beIdle
  | _ => 0

/-- An engine once that idle is asked of it. -/
def Throttle.asks (x : Throttle) (s : State) (e : Engine) : Engine :=
  if x.idleFor s e = 0 then e else { e with idleReq := some (x.idleFor s e) }

theorem requestIdle_engines (s : State) (x : Throttle) : (s.requestIdle x).engines = s.engines.mapAll fun _ e => x.asks s e := rfl

theorem asks_default (s : State) (x : Throttle) : x.asks s default = default := rfl

theorem asks_idleReq (s : State) (x : Throttle) (e : Engine) :
    (x.asks s e).idleReq = if x.idleFor s e = 0 then e.idleReq else some (x.idleFor s e) := by
  unfold Throttle.asks
  split <;> rfl

/-- The registers that show a step tell nothing of a context's class. -/
theorem showThrottle_isLc (s : State) (x : Throttle) (c : Nat) : (s.showThrottle x).isLc c = s.isLc c := by
  have hkey : Reg.key .schedGates 0 < Reg.key .ctxClass c ∧ Reg.key .throttleStage 0 < Reg.key .ctxClass c ∧
      Reg.key .beIdleAk 0 < Reg.key .ctxClass c ∧ Reg.key .lcIdleAk 0 < Reg.key .ctxClass c := by
    have hbase : Reg.key .ctxClass c = Reg.key .ctxClass 0 + c := rfl
    rw [hbase]
    exact ⟨Nat.lt_add_right c (by decide), Nat.lt_add_right c (by decide), Nat.lt_add_right c (by decide),
      Nat.lt_add_right c (by decide)⟩
  obtain ⟨h4, h1, h2, h3⟩ := hkey
  unfold State.isLc
  rw [showThrottle_reg_other s x h1.ne h2.ne h3.ne h4.ne]

theorem showThrottle_idleFor (s : State) (x y : Throttle) (e : Engine) : y.idleFor (s.showThrottle x) e = y.idleFor s e := by
  simp only [Throttle.idleFor, State.classRunning, showThrottle_isLc]

theorem setStep_idleReq (k e : Nat) (h : s.engines.rising) : ((s.setStep k).engines.get default e).idleReq =
    if (throttleOf k).idleFor s (s.engines.get default e) = 0 then (s.engines.get default e).idleReq
    else some ((throttleOf k).idleFor s (s.engines.get default e)) := by
  have hengines : (s.showThrottle (throttleOf k)).engines = s.engines := by simp [State.showThrottle]
  rw [setStep_eq, requestIdle_engines, hengines, Tab.get_mapAll h e (asks_default _ _), asks_idleReq, showThrottle_idleFor]

/-- Settles O50: the search for the lowest step, the four registers of a step, and the idle asked of every engine. The linear
prediction and its 67 steps are the model's choice (log entry 60). -/
theorem throttleIsTheLowestStep : Obligations.ThrottleIsTheLowestStep := by
  refine ⟨fun s other target => ?_, fun s k ht hk => ?_⟩
  · have hneed := lowestStep_le s other target
    have hdown := lowestStep_le s other (target - 1000 * s.reg .throttleHystW)
    refine ⟨?_, ?_, fun ⟨j, hj, hm⟩ => predict_lowestStep_le hj hm, fun j => lt_predict_of_lt_lowestStep, chooseStep_of_rising,
      fun hlt => ?_⟩
    · rcases Nat.lt_or_ge (s.lowestStep other target) s.throttleNow with hlt | hge
      · rw [chooseStep_of_falling hlt]
        omega
      · rw [chooseStep_of_rising hge]
        exact hneed
    · rcases Nat.lt_or_ge (s.lowestStep other target) s.throttleNow with hlt | hge
      · rw [chooseStep_of_falling hlt]
        omega
      · rw [chooseStep_of_rising hge]
    · rw [chooseStep_of_falling hlt]
      omega
  · obtain ⟨hstage, hbe, hlc, hgates⟩ := setStep_reg hk ht
    have hnow := setStep_throttleNow hk ht
    obtain ⟨-, -, -, -, -, hengines, -⟩ := ht
    exact ⟨hnow, hstage, hbe, hlc, hgates, fun e => setStep_idleReq k e hengines⟩

end Sys2Proof.Machine
end

section
/-! O8 and O9: the matrix and vector commands (R73, R76, R153, R279). A context's command and a radio queue's alike write bytes at
addresses that stay where they are while they are written; the two owners differ in the addresses alone. -/

open Sys2Proof.Claims

namespace Sys2Proof.Machine

variable {s : State} {i : Instr} {op : Op} {x : Cmd} {c l : Nat}

/-! ### Bytes written in order -/

/-- Writes a byte at the address that its offset has, if it has one. -/
def State.writeAt (addr : Nat → Option Nat) (s : State) (w : Nat × Byte) : State :=
  match addr w.1 with
  | some a => s.wr a w.2
  | none => s

variable {addr : Nat → Option Nat}

theorem writeAt_frame (s : State) (w : Nat × Byte) : s.writeAt addr w = { s with mem := (s.writeAt addr w).mem } := by
  unfold State.writeAt
  split <;> rfl

theorem writeAt_engines (s : State) (g : Tab Engine) (w : Nat × Byte) :
    ({ s with engines := g } : State).writeAt addr w = { s.writeAt addr w with engines := g } := by
  unfold State.writeAt
  split <;> rfl

theorem writeAt_rd (s : State) {w : Nat × Byte} {a : Nat} (h : addr w.1 ≠ some a) : (s.writeAt addr w).rd a = s.rd a := by
  unfold State.writeAt
  split
  · next b hb => exact State.rd_wr_other s w.2 fun hab => h (hb.trans (congrArg some hab))
  · rfl

theorem foldl_writeAt_frame (ws : List (Nat × Byte)) (s : State) :
    ws.foldl (State.writeAt addr) s = { s with mem := (ws.foldl (State.writeAt addr) s).mem } := by
  induction ws generalizing s with
  | nil => rfl
  | cons w ws ih => rw [List.foldl_cons, ih, writeAt_frame]

/-- What is written does not depend on the engines. -/
theorem foldl_writeAt_engines (ws : List (Nat × Byte)) (s : State) (g : Tab Engine) :
    ws.foldl (State.writeAt addr) { s with engines := g } = { ws.foldl (State.writeAt addr) s with engines := g } := by
  induction ws generalizing s with
  | nil => rfl
  | cons w ws ih => rw [List.foldl_cons, List.foldl_cons, writeAt_engines, ih]

/-- Every byte at no address written stays. -/
theorem foldl_writeAt_rd {ws : List (Nat × Byte)} {a : Nat} (h : ∀ w ∈ ws, addr w.1 ≠ some a) (s : State) :
    (ws.foldl (State.writeAt addr) s).rd a = s.rd a := by
  induction ws generalizing s with
  | nil => rfl
  | cons w ws ih =>
    obtain ⟨hw, hws⟩ := List.forall_mem_cons.1 h
    rw [List.foldl_cons, ih hws, writeAt_rd s hw]

/-- Bytes written by a step that is `writeAt` in every state in which the addresses are those of the start. -/
theorem foldl_eq_writeAt {f : State → Nat × Byte → State} {P : State → Prop} (hf : ∀ u w, P u → f u w = u.writeAt addr w)
    (hP : ∀ u w, P u → P (u.writeAt addr w)) (ws : List (Nat × Byte)) {u : State} (h : P u) :
    ws.foldl f u = ws.foldl (State.writeAt addr) u := by
  induction ws generalizing u with
  | nil => rfl
  | cons w ws ih => rw [List.foldl_cons, List.foldl_cons, hf u w h, ih (hP u w h)]

/-- A context's tier 0 bytes lie where its allocation says. -/
theorem foldl_ctxPut_eq (ws : List (Nat × Byte)) {u : State} (h : u.ctxs = s.ctxs) :
    ws.foldl (fun u w => u.ctxPut c 0 w.1 w.2) u = ws.foldl (State.writeAt (s.privByte c)) u := by
  refine foldl_eq_writeAt (P := fun u => u.ctxs = s.ctxs) (fun u w hu => ?_) (fun u w hu => ?_) ws h
  · have haddr : u.privByte c = s.privByte c := by
      unfold State.privByte State.isSpilled State.ctx
      rw [hu]
    rw [← haddr]
    rfl
  · rw [writeAt_frame]
    exact hu

/-- A radio command's bytes lie where its engine's regions are. -/
theorem foldl_radioPut_eq (e : Nat) (ws : List (Nat × Byte)) {u : State} (h : u.tier = s.tier) :
    ws.foldl (fun u w => u.wr ((u.radioView e).dpa 0 w.1) w.2) u =
      ws.foldl (State.writeAt fun off => some ((s.radioView e).dpa 0 off)) u := by
  refine foldl_eq_writeAt (P := fun u => u.tier = s.tier) (fun u w hu => ?_) (fun u w hu => ?_) ws h
  · unfold State.radioView
    rw [hu]
    rfl
  · rw [writeAt_frame]
    exact hu

/-! ### A command runs -/

theorem exec_of_engineRows {who : Owner} (h : (i, op) ∈ engineRows who) (s : State) : exec i s = .next (s.runOwned who op) := by
  simp only [engineRows, List.mem_cons, Prod.mk.injEq, List.not_mem_nil, or_false] at h
  obtain ⟨rfl, rfl⟩ | ⟨rfl, rfl⟩ | ⟨rfl, rfl⟩ | ⟨rfl, rfl⟩ | ⟨rfl, rfl⟩ | ⟨rfl, rfl⟩ | ⟨rfl, rfl⟩ | ⟨rfl, rfl⟩ | ⟨rfl, rfl⟩ |
    ⟨rfl, rfl⟩ | ⟨rfl, rfl⟩ | ⟨rfl, rfl⟩ := h
  all_goals rfl

/-- What context `c`'s command `x` writes and counts. -/
def State.ctxOut (s : State) (c : Nat) (op : Op) (x : Cmd) : EngOut := s.engineOut x.engine (s.ctxByte c) op x.desc

theorem runEngine_of_underWay (hx : underWay s c x op) : s.runEngine c op =
    (((s.ctxOut c op x).writes.foldl (State.writeAt (s.privByte c)) (s.clearBanks x.engine)).modCmd c fun k =>
      { k with done := true, counts := (s.ctxOut c op x).counts }) := by
  rw [State.runEngine, runningAs_of_underWay hx]
  exact congrArg (fun u : State => u.modCmd c fun k => { k with done := true, counts := (s.ctxOut c op x).counts })
    (foldl_ctxPut_eq (u := s.clearBanks x.engine) _ rfl)

theorem runEngine_of_none (h : ∀ x, ¬ underWay s c x op) : s.runEngine c op = s := by
  rw [State.runEngine, runningAs_of_none_underWay h]

/-- What the command `x` of logical engine `l` writes and counts. -/
def State.radioOut (s : State) (op : Op) (x : Cmd) : EngOut := s.engineOut x.engine (s.radioByte x.engine) op x.desc

theorem runRadio_of_underWay (hx : radioUnderWay s l x op) : s.runRadio l op =
    (((s.radioOut op x).writes.foldl (State.writeAt fun off => some ((s.radioView x.engine).dpa 0 off))
      (s.clearBanks x.engine)).modRadioCmd l fun k => { k with done := true, counts := (s.radioOut op x).counts }) := by
  obtain ⟨hcmd, hphase, hdone, hop⟩ := hx
  simp only [State.runRadio, hcmd, hphase, hdone, hop, Bool.not_false, and_self, if_true]
  exact congrArg (fun u : State => u.modRadioCmd l fun k => { k with done := true, counts := (s.radioOut op x).counts })
    (foldl_radioPut_eq (u := s.clearBanks x.engine) _ _ rfl)

theorem runRadio_of_none (h : ∀ x, ¬ radioUnderWay s l x op) : s.runRadio l op = s := by
  unfold State.runRadio
  split
  · next x hcmd => exact if_neg fun ⟨hphase, hdone, hop⟩ => h x ⟨hcmd, hphase, by simpa using hdone, hop⟩
  · rfl

theorem modRadioCmd_same (f : Cmd → Cmd) (h : s.radioCmd l = some x) : (s.modRadioCmd l f).radioCmd l = some (f x) := by
  unfold State.modRadioCmd
  rw [h]
  exact Tab.get_set_same none s.radio.cmds l (Option.some_ne_none (f x))

theorem setRadioCmd_other (s : State) (y : Option Cmd) {k : Nat} (h : k ≠ l) : (s.setRadioCmd l y).radioCmd k = s.radioCmd k :=
  Tab.get_set_other none none s.radio.cmds y h.symm

/-- Settles O8: the bytes go where the context's allocation says, and the rest is the command's own record and its engine's banks. -/
theorem engineCommandsComplete : Obligations.EngineCommandsComplete := by
  intro s c i op hrow
  have hexec := exec_of_engineRows hrow s
  refine ⟨fun x hx => ⟨s.runEngine c op, hexec, ?_⟩, fun hnone =>
    hexec.trans (congrArg Host.Outcome.next (runEngine_of_none hnone))⟩
  have hrun := runEngine_of_underWay hx
  obtain ⟨hcmd, -⟩ := hx
  rw [hrun, State.clearBanks, State.modEngine, foldl_writeAt_engines, foldl_writeAt_frame, foldl_ctxPut_eq (s := s) _ rfl]
  exact ⟨modCmd_cmd _ hcmd, rfl, fun a ha => foldl_writeAt_rd ha s, fun d hd => modCmd_ctx_other _ hd, rfl, rfl⟩

/-- Settles O9: the same with the addresses of the engine's radio region. -/
theorem radioEngineCommandsComplete : Obligations.RadioEngineCommandsComplete := by
  intro s l i op hrow
  have hexec := exec_of_engineRows hrow s
  refine ⟨fun x hx => ⟨s.runRadio l op, hexec, ?_⟩, fun hnone =>
    hexec.trans (congrArg Host.Outcome.next (runRadio_of_none hnone))⟩
  have hrun := runRadio_of_underWay hx
  obtain ⟨hcmd, -⟩ := hx
  rw [hrun, State.clearBanks, State.modEngine, foldl_writeAt_engines, foldl_writeAt_frame]
  exact ⟨modRadioCmd_same _ hcmd, rfl, fun a ha => foldl_writeAt_rd (fun w hw h => ha w hw (Option.some.inj h)) s,
    fun k hk => setRadioCmd_other _ _ hk, rfl, rfl⟩

end Sys2Proof.Machine
end

section
/-! O7: kills and pass boundaries (R63, R72, R81, R86 to R91, R155, R234, R235, R479). Each operation is said once for each of its
cases; a kill and a withdrawal share what they do to a context's command and its requests. -/

open Sys2Proof.Claims

namespace Sys2Proof.Machine

variable {s : State} {c d l e p cause ak left : Nat} {x : Cmd} {op : Op} {w : Shadow}

/-! ### A command changed, its responses discarded -/

theorem modCmd_ctx (f : Cmd → Cmd) (h : (s.ctx c).cmd = some x) :
    s.modCmd c f = s.setCtx c { s.ctx c with cmd := some (f x) } := by
  rw [← Option.map_some, ← h]
  rfl

/-- A request for context `c`'s command: a load's or an atomic's. -/
def SentFor.isOf (a : SentFor) (c : Nat) : Prop := ∃ off, a = .load c off ∨ a = .atomic c off

theorem dropped_of_mem_dropRequests {o : Sent} (ho : o ∈ (s.dropRequests c).fab.out) (hof : o.what.isOf c) :
    o.dropped = true := by
  obtain ⟨q, -, rfl⟩ := List.mem_map.1 ho
  obtain ⟨off, hof⟩ := hof
  revert hof
  cases hq : q.what <;> grind

theorem mem_dropRequests_of_not_isOf {o : Sent} (ho : o ∈ s.fab.out) (hof : ¬ o.what.isOf c) :
    o ∈ (s.dropRequests c).fab.out := by
  refine List.mem_map.2 ⟨o, ho, ?_⟩
  unfold SentFor.isOf at hof
  cases h : o.what <;> grind

/-- A command changed by `f`, the responses to its requests discarded from now on: a kill, or a withdrawal. -/
def State.cutCmd (s : State) (c : Nat) (f : Cmd → Cmd) : State := (s.modCmd c f).dropRequests c

theorem cutCmd_cmd (f : Cmd → Cmd) (h : (s.ctx c).cmd = some x) : ((s.cutCmd c f).ctx c).cmd = some (f x) := modCmd_cmd f h

theorem cutCmd_page (f : Cmd → Cmd) (h : (s.ctx c).cmd = some x) : ((s.cutCmd c f).ctx c).page = (s.ctx c).page := by
  have hne : ({ s.ctx c with cmd := some (f x) } : Ctx) ≠ default := fun hd => Option.some_ne_none (f x) (congrArg Ctx.cmd hd)
  have hctx := State.ctx_setCtx_same s c hne
  rw [← modCmd_ctx f h] at hctx
  have hpage := congrArg Ctx.page hctx
  exact hpage

theorem cutCmd_ctx_other (f : Cmd → Cmd) (h : d ≠ c) : (s.cutCmd c f).ctx d = s.ctx d := modCmd_ctx_other f h

theorem cutCmd_frame (s : State) (c : Nat) (f : Cmd → Cmd) : s.cutCmd c f =
    { s with ctxs := (s.cutCmd c f).ctxs, fab := { s.fab with out := (s.cutCmd c f).fab.out } } := rfl

/-! ### Kill requests -/

theorem exec_killRequest {who : Owner} {t : State} (hlow : 0x10 ≤ cause) (hhigh : cause ≤ 0x13)
    (ht : s.killOwned who cause ak = t) : exec (.killRequest who cause ak) s = .next t :=
  congrArg Host.Outcome.next ((if_pos ⟨hlow, hhigh⟩).trans ht)

theorem killCtx_of_started (hcmd : (s.ctx c).cmd = some x) (hop : x.op = some op) (hphase : x.phase = .started)
    (hlate : op.unit = .engine → ak < x.count + x.idleAk) :
    s.killCtx c cause ak = s.cutCmd c fun k => { k with phase := .killing, cause } := by
  have hearly : ¬ (op.unit = .engine ∧ x.count + x.idleAk ≤ ak) := fun ⟨hu, hle⟩ => Nat.not_le.2 (hlate hu) hle
  simp [State.killCtx, hcmd, hop, hphase, hearly, State.cutCmd]

theorem killCtx_of_committing (hcmd : (s.ctx c).cmd = some x) (hop : x.op = some op) (hphase : x.phase = .started)
    (hunit : op.unit = .engine) (hlate : x.count + x.idleAk ≤ ak) : s.killCtx c cause ak = s := by
  simp [State.killCtx, hcmd, hop, hphase, hunit, hlate]

theorem killCtx_of_not_started (hcmd : (s.ctx c).cmd = some x) (hop : x.op = some op) (hphase : x.phase = .waiting ∨ x.phase = .rerun) :
    s.killCtx c cause ak = if x.requests = [] then s else s.cutCmd c fun k => { k with requests := [], landed := [] } := by
  obtain hphase | hphase := hphase <;> simp [State.killCtx, hcmd, hop, hphase, State.cutCmd]

theorem killCtx_of_killing (hcmd : (s.ctx c).cmd = some x) (hop : x.op = some op) (hphase : x.phase = .killing) :
    s.killCtx c cause ak = s.setCtx c { s.ctx c with cmd := some { x with cause := max x.cause cause } } := by
  rw [← modCmd_ctx (fun k => { k with cause := max k.cause cause }) hcmd]
  simp [State.killCtx, hcmd, hop, hphase]

theorem killRadio_of_check (hcmd : s.radioCmd l = some x) (hphase : x.phase = .started) (hlate : ak < x.count) :
    s.killRadio l 0x12 ak = s.setRadioCmd l (some { x with phase := .killing, cause := 0x12 }) := by
  simp [State.killRadio, hcmd, hphase, hlate, State.modRadioCmd]

theorem killRadio_of_other (hcmd : s.radioCmd l = some x) (h : cause ≠ 0x12 ∨ x.phase ≠ .started ∨ x.count ≤ ak) :
    s.killRadio l cause ak = s := by
  simp only [State.killRadio, hcmd]
  exact if_pos (by simpa [or_assoc] using h)

/-! ### Pre-emption (R234) -/

theorem preempt_of_context (hrun : (s.engine e).running = some (.context c)) (hcmd : (s.ctx c).cmd = some x) (hbe : s.isLc c = false)
    (hdue : (s.classOn e true).any s.enginePending = true) (hleft : s.reg .killSkipAk < x.count + x.idleAk - ak) :
    s.preempt e ak = s.killCtx c 0x10 ak := by
  simp [State.preempt, hrun, hcmd, hbe, hdue, hleft]

theorem preempt_of_context_spared (hrun : (s.engine e).running = some (.context c)) (hcmd : (s.ctx c).cmd = some x)
    (h : s.isLc c = true ∨ (s.classOn e true).any s.enginePending = false ∨ x.count + x.idleAk - ak ≤ s.reg .killSkipAk) :
    s.preempt e ak = s := by
  simp only [State.preempt, hrun, hcmd]
  refine if_neg ?_
  obtain h | h | h := h <;> simp [h]

theorem preempt_of_shadow (hrun : (s.engine e).running = none) (hw : s.shadowOn e = some w)
    (hop : Op.ofCode (Desc.opcode w.desc) = some op) (hdue : (s.classOn e true).any s.enginePending = true)
    (hleft : s.reg .killSkipAk < opCount op w.desc + w.idleAk - ak) :
    s.preempt e ak = (s.bump .preemptKills).stopShadow e := by
  simp [State.preempt, hrun, hw, hop, hdue, hleft]

/-! ### Kills that are done (R155, R479) -/

theorem engineIdle_radio (s : State) (e : Nat) : (s.engineIdle e).radio = s.radio := by
  unfold State.engineIdle
  rw [State.setReg_radio]
  rfl

theorem freeEngine_radio (s : State) (who : Owner) : (s.freeEngine who).radio = s.radio :=
  foldl_keeps (m := State.radio) engineIdle_radio _ s

theorem killDoneRadio_of_killing (hcmd : s.radioCmd l = some x) (hphase : x.phase = .killing) : s.killDoneRadio l =
    (((s.bump .kills).bump .meKills x.engine).freeEngine (.radio l)).setRadioCmd l
      (some { x with phase := .rerun, done := false, counts := Counts.none, cause := 0 }) := by
  have hstill : (((s.bump .kills).bump .meKills x.engine).freeEngine (.radio l)).radioCmd l = some x := by
    unfold State.radioCmd at *
    rw [freeEngine_radio, State.bump_radio, State.bump_radio, hcmd]
  simp [State.killDoneRadio, hcmd, hphase, State.modRadioCmd, hstill]

/-! ### Check faults (R89, R479) -/

theorem exec_engineCheckFault_of_context (hrun : (s.engine e).running = some (.context c)) : exec (.engineCheckFault e) s =
    .next (((s.bump .checkFaults e).fault 0x0201 1 2 e c).killCtx c 0x12 0) := by
  simp only [exec, execEngineCheckFault, State.checkFault, hrun]
  rfl

theorem exec_engineCheckFault_of_radio (hrun : (s.engine e).running = some (.radio l)) : exec (.engineCheckFault e) s =
    .next (((s.bump .checkFaults e).fault 0x0201 1 2 e (tagCell (s.radioTag l))).killRadio l 0x12 0) := by
  simp only [exec, execEngineCheckFault, State.checkFault, hrun]
  rfl

theorem exec_engineCheckFault_of_shadow (hrun : (s.engine e).running = none) (hw : s.shadowOn e = some w) :
    exec (.engineCheckFault e) s = .next (((s.bump .checkFaults e).fault 0x0201 1 2 e w.ctx).stopShadow e) := by
  simp only [exec, execEngineCheckFault, State.checkFault, hrun, hw]

theorem exec_engineCheckFault_of_idle (hrun : (s.engine e).running = none) (hw : s.shadowOn e = none) :
    exec (.engineCheckFault e) s = .next s := by
  simp only [exec, execEngineCheckFault, State.checkFault, hrun, hw]

/-! ### Passes (R63, R72, R81, R91) -/

theorem engine_modEngine_same {f : Engine → Engine} (h : f (s.engine e) ≠ default) : (s.modEngine e f).engine e = f (s.engine e) :=
  Tab.get_set_same _ _ _ h

/-- A pass begins on an engine that runs a command, and what idle is asked of it stays. -/
theorem beginPass_idleReq {rd : TierRead} {d : Desc} (hrun : (s.engine e).running ≠ none) :
    ((s.beginPass e rd op d p).engine e).idleReq = (s.engine e).idleReq := by
  unfold State.beginPass
  split
  all_goals
    rw [engine_modEngine_same fun hd => hrun (congrArg Engine.running hd)]

theorem insertIdle_of_none {add : Nat → State → State} (h : (s.engine e).idleReq = none) : s.insertIdle e left add = s := by
  simp only [State.insertIdle, h]

section Context
variable (hrun : (s.engine e).running = some (.context c)) (hcmd : (s.ctx c).cmd = some x) (hop : x.op = some op)
include hrun hcmd hop

theorem passBoundary_of_context (hphase : x.phase = .started) (hp : passNumber op x.desc (ak - x.idleAk) = some p) :
    s.passBoundary e ak = (s.beginPass e (s.ctxByte c) op x.desc p).insertIdle e (x.count + x.idleAk - ak) (State.addIdle c) := by
  simp only [State.passBoundary, hrun, hcmd, hop, hp, hphase, if_true]

theorem passBoundary_of_context_within (hp : passNumber op x.desc (ak - x.idleAk) = none) : s.passBoundary e ak = s := by
  simp only [State.passBoundary, hrun, hcmd, hop, hp]

end Context

section Radio
variable (hrun : (s.engine e).running = some (.radio l)) (hcmd : s.radio.cmds.at l = some x) (hop : x.op = some op)
include hrun hcmd hop

theorem passBoundary_of_radio (hphase : x.phase = .started) (hp : passNumber op x.desc ak = some p) :
    s.passBoundary e ak = s.beginPass e (s.radioByte e) op x.desc p := by
  simp only [State.passBoundary, hrun, hcmd, hop, hp, hphase, if_true]

theorem passBoundary_of_radio_within (hp : passNumber op x.desc ak = none) : s.passBoundary e ak = s := by
  simp only [State.passBoundary, hrun, hcmd, hop, hp]

end Radio

section Shadow
variable (hrun : (s.engine e).running = none) (hw : s.shadowOn e = some w) (hop : Op.ofCode (Desc.opcode w.desc) = some op)
include hrun hw hop

theorem passBoundary_of_shadow (hp : passNumber op w.desc (ak - w.idleAk) = some p) : s.passBoundary e ak =
    (s.beginPass e (s.shadowByte w e) op w.desc p).insertIdle e (opCount op w.desc + w.idleAk - ak) (State.addShadowIdle w) := by
  simp only [State.passBoundary, hrun, hw, hop, hp]

theorem passBoundary_of_shadow_within (hp : passNumber op w.desc (ak - w.idleAk) = none) : s.passBoundary e ak = s := by
  simp only [State.passBoundary, hrun, hw, hop, hp]

end Shadow

/-- Settles O7, by the rules above. That a kill's record has no counts is the model's reading (log entry 29), and so are the CONTEXT of
a radio command's record 0x0201 and that a command's start is no pass boundary (log entry 72). -/
theorem killsAndPassesComplete : Obligations.KillsAndPassesComplete := by
  refine ⟨fun s c cause ak x op hcmd hop hlow hhigh => ?request, fun s l cause ak x hcmd hlow hhigh => ?radioRequest,
    fun s e c ak x op hrun hcmd hop hphase => ?preempt, fun s e ak w op hrun hw hop hdue hleft =>
      congrArg Host.Outcome.next (preempt_of_shadow hrun hw hop hdue hleft),
    fun s c ak x op hcmd hop hphase hout => ?done, fun s l ak x hcmd hphase =>
      congrArg (fun t : State => Host.Outcome.next t.yieldTurns) (killDoneRadio_of_killing hcmd hphase),
    fun s e => ⟨fun c => exec_engineCheckFault_of_context, fun l => exec_engineCheckFault_of_radio,
      fun hrun => ⟨fun w => exec_engineCheckFault_of_shadow hrun, exec_engineCheckFault_of_idle hrun⟩⟩,
    fun s e c ak x op hrun hcmd hop hphase => ⟨fun p hp => ?pass, fun hp =>
      congrArg Host.Outcome.next (passBoundary_of_context_within hrun hcmd hop hp)⟩,
    fun s e l ak x op hrun hcmd hop hphase =>
      ⟨fun p hp => congrArg Host.Outcome.next (passBoundary_of_radio hrun hcmd hop hphase hp),
        fun hp => congrArg Host.Outcome.next (passBoundary_of_radio_within hrun hcmd hop hp)⟩,
    fun s e ak w op hrun hw hop => ⟨fun p hp => congrArg Host.Outcome.next (passBoundary_of_shadow hrun hw hop hp),
      fun hp => congrArg Host.Outcome.next (passBoundary_of_shadow_within hrun hw hop hp)⟩⟩
  case request =>
    refine ⟨fun hphase hlate => ⟨_, exec_killRequest hlow hhigh (killCtx_of_started hcmd hop hphase hlate), cutCmd_cmd _ hcmd,
        cutCmd_page _ hcmd, fun d => cutCmd_ctx_other _, cutCmd_frame s c _,
        fun o ho off hof => dropped_of_mem_dropRequests ho ⟨off, hof⟩,
        fun o ho hof => mem_dropRequests_of_not_isOf ho fun ⟨off, h⟩ => h.elim (hof off).1 (hof off).2⟩,
      fun hphase hunit hlate => exec_killRequest hlow hhigh (killCtx_of_committing hcmd hop hphase hunit hlate),
      fun hphase => ?_, fun hphase => exec_killRequest hlow hhigh (killCtx_of_killing hcmd hop hphase)⟩
    have hkill := killCtx_of_not_started (cause := cause) (ak := ak) hcmd hop hphase
    exact ⟨fun hnone => exec_killRequest hlow hhigh (hkill.trans (if_pos hnone)),
      fun hsome => ⟨_, exec_killRequest hlow hhigh (hkill.trans (if_neg hsome)), cutCmd_cmd _ hcmd, cutCmd_page _ hcmd,
        fun d => cutCmd_ctx_other _, cutCmd_frame s c _, fun o ho off hof => dropped_of_mem_dropRequests ho ⟨off, hof⟩⟩⟩
  case radioRequest =>
    refine ⟨fun hcause hphase hlate => ?_, fun h => exec_killRequest hlow hhigh (killRadio_of_other hcmd h)⟩
    subst hcause
    exact exec_killRequest hlow hhigh (killRadio_of_check hcmd hphase hlate)
  case preempt =>
    refine ⟨fun hbe hdue hleft => ?_, fun h => congrArg Host.Outcome.next (preempt_of_context_spared hrun hcmd h)⟩
    have hkill := (preempt_of_context hrun hcmd hbe hdue hleft).trans
      (killCtx_of_started hcmd hop hphase fun _ => Nat.lt_of_sub_pos (Nat.zero_lt_of_lt hleft))
    exact ⟨_, congrArg Host.Outcome.next hkill, cutCmd_cmd _ hcmd, fun d => cutCmd_ctx_other _, cutCmd_frame s c _⟩
  case done =>
    refine congrArg (fun t : State => Host.Outcome.next t.settleSnapshots.yieldTurns) ?_
    unfold State.killDoneCtx
    rw [hcmd]
    simp only [hop]
    exact if_neg (by simp [hphase, hout])
  case pass =>
    have hpass := passBoundary_of_context hrun hcmd hop hphase hp
    refine ⟨congrArg Host.Outcome.next hpass, fun hidle => congrArg Host.Outcome.next (hpass.trans (insertIdle_of_none ?_))⟩
    rw [beginPass_idleReq (by simp [hrun]), hidle]

end Sys2Proof.Machine
end

section
/-! O17 fails in its last clause: RADIO_START may write memory. The READ with which it takes its command from the radio queue
evaluates LEVEL (R300), a LEVEL notice to session `n` is an event word in queue 0x1300 + `n` (R445), and from number 256 on that queue
is a service receive queue, whose words and control words lie in stacked memory (R297). The statement is about every state, and so
also about one in which session 256 is open; the machine itself opens sessions 0 to 15 alone (R414). -/

open Sys2Proof.Claims

namespace Sys2Proof.Machine

/-- A KIND 0 entry of logical engine 0, cell 0 and time base 0: the first 1000 ns of the frame. -/
def firstWindow : Nat := 2 ^ 127 + 1000 * 2 ^ 48 + 1000 * 2 ^ 24 + 2 ^ 16

/-- A MAP of no elements that its radio queue has handed over, and that has not started. -/
def waitingMap : Cmd := { (default : Cmd) with desc := 0x100 * 2 ^ 20, count := 8, phase := .waiting, checked := true }

theorem waitingMap_phase : waitingMap.phase = .waiting := rfl

/-- Engine 3 is bound to logical engine 0, whose window is current and whose queue holds the words of `waitingMap` and of a further
command. Its LEVEL is 1 and its notices go to session 256, which is open; service queue 0 is enabled, in the stacked memory's first frame. -/
def noticesService : State :=
  let s := { State.reset with
    tilth := { State.reset.tilth with
      copies := [{ (default : TilthCopy) with entries := [firstWindow], binding := [(0, 4)], ready := true }] }
    radio := { State.reset.radio with cmds := [(0, some waitingMap)] }
    queues := [(radioQueue 0, { (default : Queue) with write := 2, tail := 2 })]
    mgmt := { State.reset.mgmt with sessions := [(256, { Session.closed with phase := 2 })] }
    tier := { State.reset.tier with regions := [(0, [0])] } }
  (((s.setReg .qCfg (2 ^ 31) (radioQueue 0)).setReg .qLevel 1 (radioQueue 0)).setReg .qNoticeTarget (3 * 2 ^ 28 + 256)
    (radioQueue 0)).setReg .qCfg (2 ^ 31) 0x1400

theorem noticesService_radioCmd : noticesService.radioCmd 0 = some waitingMap := by decide +kernel

theorem noticesService_ownWindow :
    noticesService.ownWindow 0 (tagCell (noticesService.radioTag 0)) = some (3, 0, 1000) := by decide +kernel

/-- The READ writes the first control word of service queue 0, at address 0. -/
theorem noticesService_qRead :
    noticesService.rd 0 = 0 ∧ (noticesService.qRead (radioQueue 0) 1).rd 0 = 1 := by decide +kernel

theorem beginPass_mem (s : State) (e : Nat) (rd : TierRead) (op : Op) (d : Desc) (p : Nat) : (s.beginPass e rd op d p).mem = s.mem := by
  unfold State.beginPass
  split <;> rfl

theorem loadParams_mem (s : State) (e : Nat) (rd : TierRead) (op : Op) (d : Desc) : (s.loadParams e rd op d).mem = s.mem := rfl

theorem setRadioCmd_mem (s : State) (l : Nat) (y : Option Cmd) : (s.setRadioCmd l y).mem = s.mem := rfl

theorem engineBusy_mem (s : State) (e ctx mode owner : Nat) : (s.engineBusy e ctx mode owner).mem = s.mem :=
  State.setReg_mem _ _ _ _

/-- Refutes O17: RADIO_START of `waitingMap` on `noticesService` meets every condition of the last clause, which says both what the
next state is and that its memory is as before; address 0 holds 0 before it, and 1 after the READ. -/
theorem not_tilthAndWindowCommandsComplete : ¬ Obligations.TilthAndWindowCommandsComplete := by
  rintro ⟨-, -, -, -, -, hstart⟩
  obtain ⟨-, -, -, hgood⟩ := hstart noticesService 0 3 0 0 1000 waitingMap .map noticesService_radioCmd (by decide)
    noticesService_ownWindow
  obtain ⟨t, -, ht, hmem, -⟩ := hgood ⟨.inl waitingMap_phase, by decide +kernel, by decide, by decide +kernel⟩ (by decide) (by decide +kernel)
  have hread : t.mem = (noticesService.qRead (radioQueue 0) 1).mem := by
    rw [ht, engineBusy_mem, beginPass_mem, State.modEngine_mem, loadParams_mem, setRadioCmd_mem, if_pos waitingMap_phase]
  obtain ⟨hbefore, hafter⟩ := noticesService_qRead
  have hsame : (noticesService.qRead (radioQueue 0) 1).rd 0 = noticesService.rd 0 :=
    congrArg (fun m : Tab Byte => m.get 0 0) (hread.symm.trans hmem)
  rw [hafter, hbefore] at hsame
  exact absurd hsame (by decide)

end Sys2Proof.Machine
end

section
/-! O14: spills, reclaims, clearing and ageing (R96, R178, R184, R185, R197, R209, R239, R243, R461). What an exchange leaves of the
context that becomes resident owner is said of its two folds; clearing is a fold over the runs of bytes that it clears. -/

open Sys2Proof.Claims

namespace Sys2Proof.Machine

variable {s : State} {c d e o x hood : Nat} {a : Alloc}

/-! ### One context's allocation changed -/

theorem modAlloc_ctx_same (f : Alloc → Alloc) (h : (s.ctx c).live = true) :
    (s.modAlloc c f).ctx c = { s.ctx c with alloc := f (s.ctx c).alloc } := by
  refine State.ctx_setCtx_same s c fun hd => ?_
  have hdead : (s.ctx c).live = false := congrArg Ctx.live hd
  simp [h] at hdead

theorem modAlloc_ctx_other (s : State) (f : Alloc → Alloc) (h : d ≠ c) : (s.modAlloc c f).ctx d = s.ctx d :=
  State.ctx_setCtx_other s _ h.symm

/-! ### Resident owners exchanged (R184, R185) -/

theorem copyRange_ctx (s : State) (x y n d : Nat) : (s.copyRange x y n).ctx d = s.ctx d := rfl

theorem bump_ctx (s : State) (r : Reg) (i n d : Nat) : (s.bump r i n).ctx d = s.ctx d :=
  congrArg (Tab.at · d) (State.bump_ctxs s r i n)

/-- A spill changes the context that is displaced, and no other. -/
theorem spillFor_ctx_other (s : State) (h : d ≠ o) : (s.spillFor e c o).ctx d = s.ctx d := by
  simp only [State.spillFor]
  split
  · rfl
  · rfl
  · rw [bump_ctx, bump_ctx, modAlloc_ctx_other _ _ h]
    exact foldl_keeps (m := fun t : State => t.ctx d) (fun t j => copyRange_ctx t _ _ _ d) _ s

theorem foldl_spillFor_ctx {os : List Nat} (h : ∀ o ∈ os, d ≠ o) (s : State) :
    (os.foldl (fun s o => s.spillFor e c o) s).ctx d = s.ctx d :=
  List.foldlRecOn (motive := fun t : State => t.ctx d = s.ctx d) os _ rfl fun t ht o ho =>
    (spillFor_ctx_other t (h o ho)).trans ht

/-- The bytes exchanged for context `c` on engine `e`: the others' spilled, its own restored from its hood area at `hood`. -/
def State.exchangeBytes (s : State) (c e hood : Nat) : State :=
  (s.ctx c).alloc.spilled.foldl
    (fun s' g => s'.copyRange (hood + imageGranule g) (privDpa e + (s.ctx c).alloc.privBase + g * granule) granule)
    (((s.placedOn e).filter (· ≠ c)).foldl (fun s o => s.spillFor e c o) s)

theorem exchangeBytes_ctx (s : State) (c e hood : Nat) : (s.exchangeBytes c e hood).ctx c = s.ctx c :=
  (foldl_keeps (m := fun t : State => t.ctx c) (fun t _ => copyRange_ctx t _ _ _ c) _ _).trans
    (foldl_spillFor_ctx (fun _ ho => Ne.symm (by simpa using (List.mem_filter.1 ho).2)) s)

theorem exchange_of_resident (he : (s.ctx c).alloc.engine = some e) (hh : (s.ctx c).alloc.hood = some hood) :
    s.exchange c = (s.exchangeBytes c e hood).modAlloc c fun a => { a with spilled := [] } := by
  simp only [State.exchange, he, hh, State.exchangeBytes]

/-- The new resident owner has every granule of its own in the scratchpad, and is otherwise as before. -/
theorem exchange_ctx_same (hlive : (s.ctx c).live = true) (he : (s.ctx c).alloc.engine = some e)
    (hh : (s.ctx c).alloc.hood = some hood) :
    (s.exchange c).ctx c = { s.ctx c with alloc := { (s.ctx c).alloc with spilled := [] } } := by
  have hctx := exchangeBytes_ctx s c e hood
  rw [exchange_of_resident he hh, modAlloc_ctx_same _ ((congrArg Ctx.live hctx).trans hlive), hctx]

theorem exec_spillDone (s : State) (c : Nat) : exec (.spillDone c) s =
    .next (if s.isLc c = true ∧ (s.ctx c).waits = true ∧ s.mayExchange c = true then (s.exchange c).yieldTurns else s) := by
  simp only [exec, execSpillDone, Bool.and_eq_true, and_assoc]

theorem exec_beReclaim (s : State) (c : Nat) : exec (.beReclaim c) s =
    .next (if s.isLc c = false ∧ s.overlapIdle c = true ∧ (s.ctx c).waits = true ∧ s.mayExchange c = true
      then (s.exchange c).yieldTurns else s) := by
  simp only [exec, execBeReclaim, Bool.and_eq_true, Bool.not_eq_true', and_assoc, and_left_comm]

/-! ### Bytes cleared (R178, R461) -/

/-- A table of which the entries of some keys are kept. -/
theorem Tab.get_keep_keys {α : Type} (d : α) (t : Tab α) (p : Nat → Bool) (k : Nat) :
    (t.keep fun k _ => p k).get d k = if p k then t.get d k else d := by
  induction t with
  | nil => simp [Tab.keep]
  | cons q t ih =>
    obtain ⟨j, v⟩ := q
    have hcons : Tab.keep ((j, v) :: t) (fun k _ => p k) =
        if p j then (j, v) :: Tab.keep t (fun k _ => p k) else Tab.keep t (fun k _ => p k) := List.filter_cons
    rw [hcons, Tab.get_cons]
    by_cases hj : j = k
    · subst hj
      split
      · rw [Tab.get_cons, if_pos rfl, if_pos rfl]
      · next hp => rw [ih, if_neg hp]
    · rw [if_neg hj, ← ih]
      split
      · rw [Tab.get_cons, if_neg hj]
      · rfl

/-- Byte `x` lies in the run `r` of bytes, which is its start and its length. -/
def inRun (r : Nat × Nat) (x : Nat) : Prop := r.1 ≤ x ∧ x < r.1 + r.2

/-- Clears a run of bytes and its uncorrectable words. -/
def State.wipe (s : State) (r : Nat × Nat) : State := (s.clear r.1 r.2).healRange r.1 r.2

theorem wipe_ctx (s : State) (r : Nat × Nat) (d : Nat) : (s.wipe r).ctx d = s.ctx d := rfl

theorem wipe_rd_of_inRun (s : State) {r : Nat × Nat} (h : inRun r x) : (s.wipe r).rd x = 0 := by
  obtain ⟨hlo, hhi⟩ := h
  refine (Tab.get_keep_keys 0 s.mem (fun k => decide (k < r.1) || decide (r.1 + r.2 ≤ k)) x).trans (if_neg ?_)
  simp [hlo, hhi]

theorem wipe_rd_of_not_inRun (s : State) {r : Nat × Nat} (h : ¬ inRun r x) : (s.wipe r).rd x = s.rd x := by
  unfold inRun at h
  refine (Tab.get_keep_keys 0 s.mem (fun k => decide (k < r.1) || decide (r.1 + r.2 ≤ k)) x).trans (if_pos ?_)
  simp only [Bool.or_eq_true, decide_eq_true_eq]
  omega

theorem foldl_wipe_rd_of_not_inRun {rs : List (Nat × Nat)} (h : ∀ r ∈ rs, ¬ inRun r x) (s : State) :
    (rs.foldl State.wipe s).rd x = s.rd x :=
  List.foldlRecOn (motive := fun t : State => t.rd x = s.rd x) rs _ rfl fun t ht r hr =>
    (wipe_rd_of_not_inRun t (h r hr)).trans ht

theorem foldl_wipe_rd_of_inRun {rs : List (Nat × Nat)} {r : Nat × Nat} (hr : r ∈ rs) (h : inRun r x) (s : State) :
    (rs.foldl State.wipe s).rd x = 0 := by
  refine foldl_reaches (I := fun _ => True) (P := fun t : State => t.rd x = 0) hr (fun _ _ _ => trivial)
    (fun t _ => wipe_rd_of_inRun t h) (fun t q _ ht => ?_) trivial
  by_cases hq : inRun q x
  · exact wipe_rd_of_inRun t hq
  · exact (wipe_rd_of_not_inRun t hq).trans ht

theorem foldl_wipe_frame (rs : List (Nat × Nat)) (s : State) : rs.foldl State.wipe s =
    { s with mem := (rs.foldl State.wipe s).mem
             tier := { s.tier with badWords := (rs.foldl State.wipe s).tier.badWords } } := by
  induction rs generalizing s with
  | nil => rfl
  | cons r rs ih => rw [List.foldl_cons, ih]; rfl

/-! ### An allocation cleared (R178) -/

/-- The runs of scratchpad bytes that clearing an allocation on engine `e` clears: its resident granules, and its shared bytes. -/
def Alloc.scratchRuns (a : Alloc) (e : Nat) : List (Nat × Nat) :=
  ((List.range (a.privBytes / granule)).filter fun g => !a.spilled.contains g).map
    (fun g => (privDpa e + a.privBase + g * granule, granule)) ++ [(sharedDpa (e / 8) + a.sharedBase, a.sharedBytes)]

/-- Byte `x` of the scratchpads is of a granule of the allocation that is not spilled, or one of its shared bytes. -/
def Alloc.holdsScratch (a : Alloc) (e x : Nat) : Prop :=
  (∃ k, k < a.privBytes / granule * granule ∧ k / granule ∉ a.spilled ∧ x = privDpa e + a.privBase + k) ∨
  ∃ k, k < a.sharedBytes ∧ x = sharedDpa (e / 8) + a.sharedBase + k

/-- A byte of granule `g` above base `b`, said by the byte's offset. -/
theorem inRun_granule_iff {b g : Nat} : inRun (b + g * granule, granule) x ↔ ∃ k, k / granule = g ∧ x = b + k := by
  simp only [inRun, granule]
  constructor
  · rintro ⟨hlo, hhi⟩
    exact ⟨x - b, by omega, by omega⟩
  · rintro ⟨k, rfl, rfl⟩
    omega

theorem inRun_iff_offset {b n : Nat} : inRun (b, n) x ↔ ∃ k, k < n ∧ x = b + k := by
  constructor
  · rintro ⟨hlo, hhi⟩
    exact ⟨x - b, by omega, by omega⟩
  · rintro ⟨k, hk, rfl⟩
    exact ⟨by omega, by omega⟩

theorem holdsScratch_iff : a.holdsScratch e x ↔ ∃ r ∈ a.scratchRuns e, inRun r x := by
  have hbelow (k : Nat) : k < a.privBytes / granule * granule ↔ k / granule < a.privBytes / granule :=
    (Nat.div_lt_iff_lt_mul (by decide)).symm
  have hruns : (∃ r ∈ a.scratchRuns e, inRun r x) ↔ (∃ g, (g < a.privBytes / granule ∧ g ∉ a.spilled) ∧
      inRun (privDpa e + a.privBase + g * granule, granule) x) ∨ inRun (sharedDpa (e / 8) + a.sharedBase, a.sharedBytes) x := by
    simp [Alloc.scratchRuns, or_and_right, exists_or]
  rw [hruns, inRun_iff_offset, Alloc.holdsScratch]
  refine or_congr_left ?_
  simp only [inRun_granule_iff, hbelow]
  constructor
  · rintro ⟨k, hk, hnot, hx⟩
    exact ⟨k / granule, ⟨hk, hnot⟩, k, rfl, hx⟩
  · rintro ⟨g, ⟨hg, hnot⟩, k, rfl, hx⟩
    exact ⟨k, hg, hnot, hx⟩

/-- Clearing wipes the allocation's runs, clears its engine's parameter store, and ends. -/
theorem clearAlloc_of_engine (he : (s.ctx c).alloc.engine = some e) : s.clearAlloc c =
    ((((s.ctx c).alloc.scratchRuns e).foldl State.wipe s).clearStore e).modAlloc c fun a => { a with clearing := false } := by
  simp only [State.clearAlloc, he, Alloc.scratchRuns, List.foldl_append, List.foldl_map, List.foldl_cons, List.foldl_nil]
  rfl

theorem exec_clearDone_of_clearing (h : (s.ctx c).alloc.clearing = true) : exec (.clearDone c) s = .next (s.clearAlloc c) :=
  congrArg Host.Outcome.next (if_pos h)

theorem exec_clearDone_of_idle (h : (s.ctx c).alloc.clearing = false ∨ (s.ctx c).alloc.engine = none) :
    exec (.clearDone c) s = .next s := by
  simp only [exec, execClearDone]
  obtain h | h := h
  · simp [h]
  · simp [State.clearAlloc, h]

theorem wiped_ctx (rs : List (Nat × Nat)) (s : State) (e d : Nat) : ((rs.foldl State.wipe s).clearStore e).ctx d = s.ctx d :=
  foldl_keeps (m := fun t : State => t.ctx d) (fun t r => wipe_ctx t r d) rs s

/-- Clearing changes contexts, memory, the engine's parameter store and bad words, and nothing else. -/
theorem clearAlloc_frame (he : (s.ctx c).alloc.engine = some e) : s.clearAlloc c =
    { s with ctxs := (s.clearAlloc c).ctxs, mem := (s.clearAlloc c).mem, engines := (s.clearStore e).engines
             tier := { s.tier with badWords := (s.clearAlloc c).tier.badWords } } := by
  rw [clearAlloc_of_engine he, foldl_wipe_frame]
  rfl

theorem clearAlloc_ctx_same (hlive : (s.ctx c).live = true) (he : (s.ctx c).alloc.engine = some e) :
    (s.clearAlloc c).ctx c = { s.ctx c with alloc := { (s.ctx c).alloc with clearing := false } } := by
  have hctx := wiped_ctx ((s.ctx c).alloc.scratchRuns e) s e c
  rw [clearAlloc_of_engine he, modAlloc_ctx_same _ ((congrArg Ctx.live hctx).trans hlive), hctx]

theorem clearAlloc_ctx_other (he : (s.ctx c).alloc.engine = some e) (h : d ≠ c) : (s.clearAlloc c).ctx d = s.ctx d := by
  rw [clearAlloc_of_engine he, modAlloc_ctx_other _ _ h, wiped_ctx]

theorem clearAlloc_rd (he : (s.ctx c).alloc.engine = some e) :
    (s.clearAlloc c).rd x = (((s.ctx c).alloc.scratchRuns e).foldl State.wipe s).rd x := by
  rw [clearAlloc_of_engine he]
  rfl

theorem clearAlloc_rd_of_holds (he : (s.ctx c).alloc.engine = some e) (h : (s.ctx c).alloc.holdsScratch e x) :
    (s.clearAlloc c).rd x = 0 := by
  obtain ⟨r, hr, hx⟩ := holdsScratch_iff.1 h
  rw [clearAlloc_rd he, foldl_wipe_rd_of_inRun hr hx]

theorem clearAlloc_rd_of_not_holds (he : (s.ctx c).alloc.engine = some e) (h : ¬ (s.ctx c).alloc.holdsScratch e x) :
    (s.clearAlloc c).rd x = s.rd x := by
  rw [clearAlloc_rd he, foldl_wipe_rd_of_not_inRun fun r hr hx => h (holdsScratch_iff.2 ⟨r, hr, hx⟩)]

/-! ### Ageing (R197) -/

/-- A resident page once AGE_TICK has come: older where no reference to it is held. -/
def State.agedPage (s : State) (p : LoamPage) : LoamPage :=
  { p with age := if s.pageCount p.slice p.page p.entry = 0 then min 255 (p.age + 1) else p.age }

theorem exec_ageTick (s : State) : exec .ageTick s =
    .next { s with tier := { s.tier with pages := s.tier.pages.map fun q => (q.1, s.agedPage q.2) } } := by
  have holder (q : Nat × LoamPage) : (if s.pageCount q.2.slice q.2.page q.2.entry = 0 then
      (q.1, { q.2 with age := min 255 (q.2.age + 1) }) else q) = (q.1, s.agedPage q.2) := by
    unfold State.agedPage
    split <;> rfl
  simp only [exec, execAgeTick, holder]

/-- Settles O14, by the rules above. That SPILL_DONE and BE_RECLAIM exchange the bytes at once, and that CLEAR_DONE ends the clearing of a
new allocation, is the model's reading (log entry 31). -/
theorem allocationEventsComplete : Obligations.AllocationEventsComplete := by
  refine ⟨fun s c => ⟨fun hlc hdue => ?spill, fun hnot => ?noSpill, fun hbe hidle hdue => ?reclaim, fun hnot => ?noReclaim,
      fun e h hlive he hh => ?owner⟩,
    fun s c e hlive hclearing he => ⟨s.clearAlloc c, exec_clearDone_of_clearing hclearing,
      congrArg Ctx.alloc (clearAlloc_ctx_same hlive he), fun d => clearAlloc_ctx_other he,
      fun x => ⟨clearAlloc_rd_of_holds he, clearAlloc_rd_of_not_holds he⟩, clearAlloc_frame he⟩,
    fun s c => exec_clearDone_of_idle,
    fun s => ⟨_, exec_ageTick s, rfl, List.length_map _, fun k x hx => List.mem_map.2 ⟨(k, x), hx, rfl⟩⟩⟩
  case spill => rw [exec_spillDone, if_pos ⟨hlc, hdue⟩]
  case noSpill => rw [exec_spillDone, if_neg hnot]
  case reclaim => rw [exec_beReclaim, if_pos ⟨hbe, hidle, hdue⟩]
  case noReclaim => rw [exec_beReclaim, if_neg hnot]
  case owner =>
    rw [exchange_ctx_same hlive he hh]
    exact ⟨rfl, rfl⟩

end Sys2Proof.Machine
end

section
/-! O13: the hub commands (R143, R166, R167, R317, R359). `State.runHub` marks the command as run where its condition holds, and the
condition is that of the claim for each of the six. -/

open Sys2Proof.Claims

namespace Sys2Proof.Machine

variable {s : State} {c : Nat} {x : Cmd} {op : Op} {i : Instr}

theorem exec_of_hubRows (h : (i, op) ∈ hubRows c) (s : State) : exec i s = .next (s.runHub c op) := by
  simp only [hubRows, List.mem_cons, Prod.mk.injEq, List.not_mem_nil, or_false] at h
  obtain ⟨rfl, rfl⟩ | ⟨rfl, rfl⟩ | ⟨rfl, rfl⟩ | ⟨rfl, rfl⟩ | ⟨rfl, rfl⟩ | ⟨rfl, rfl⟩ := h
  all_goals rfl

theorem hubRows_ops (h : (i, op) ∈ hubRows c) :
    op = .nop ∨ op = .wait ∨ op = .waitMem ∨ op = .fenceFabric ∨ op = .setSeed ∨ op = .readTime := by
  simp only [hubRows, List.mem_cons, Prod.mk.injEq, List.not_mem_nil, or_false] at h
  obtain ⟨-, h⟩ | ⟨-, h⟩ | ⟨-, h⟩ | ⟨-, h⟩ | ⟨-, h⟩ | ⟨-, h⟩ := h
  all_goals simp [h]

/-- The condition of a hub command, in the words of the claim. -/
theorem hubCondition_iff : s.hubCondition c op x = true ↔
    (op = .wait → Desc.waitValue x.desc ≤ s.sync ((s.sliceOf c).getD 0) (Desc.waitCounter x.desc)) ∧
    (op = .waitMem → s.readsHeld c op x.desc = false ∧
      Desc.waitMemValue x.desc ≤ leNat (readRun (s.ctxByte c) 2 (tierOff (Desc.waitMemAddr x.desc)) 8)) ∧
    (op = .fenceFabric → ∀ r ∈ x.requests, ∀ q ∈ (s.fab.streams.at r.dest).unmarked, r.seq < q) := by
  unfold State.hubCondition
  split
  · simp
  · simp
  · simp
  · next hw hm hf => exact iff_of_true rfl ⟨fun h => (hw h).elim, fun h => (hm h).elim, fun h => (hf h).elim⟩

theorem runHub_of_condition (hx : underWay s c x op) (h : s.hubCondition c op x = true) :
    s.runHub c op = s.setCtx c { s.ctx c with cmd := some { x with done := true } } := by
  rw [State.runHub, runningAs_of_underWay hx]
  exact (if_pos h).trans (modCmd_ctx _ hx.1)

theorem runHub_of_not_condition (hx : underWay s c x op) (h : ¬ s.hubCondition c op x = true) : s.runHub c op = s := by
  rw [State.runHub, runningAs_of_underWay hx]
  exact if_neg h

theorem runHub_of_none (h : ∀ x, ¬ underWay s c x op) : s.runHub c op = s := by
  rw [State.runHub, runningAs_of_none_underWay h]

/-- Only SET_SEED and READ_TIME change something of their own at their commit. -/
theorem commitOwn_of_hub (h : op = .nop ∨ op = .wait ∨ op = .waitMem ∨ op = .fenceFabric) : s.commitOwn c x op = s := by
  obtain rfl | rfl | rfl | rfl := h <;> rfl

/-- Settles O13, by the condition of each hub command and what it changes at its commit. -/
theorem hubCommandsComplete : Obligations.HubCommandsComplete := by
  intro s c i op hrow
  have hexec := exec_of_hubRows hrow s
  refine ⟨fun x hx => ⟨fun hready => ?ready, fun hnot => ?waits, ?seed, ?time, fun hseed htime => ?rest⟩, fun hnone => ?none⟩
  case ready => rw [hexec, runHub_of_condition hx (hubCondition_iff.2 hready)]
  case waits => rw [hexec, runHub_of_not_condition hx (mt hubCondition_iff.1 hnot)]
  case seed =>
    rintro rfl
    rfl
  case time =>
    rintro rfl
    rfl
  case rest =>
    have hops := hubRows_ops hrow
    exact commitOwn_of_hub (by tauto)
  case none => rw [hexec, runHub_of_none hnone]

end Sys2Proof.Machine
end

section
/-! O10: the DMA commands (R141, R144, R152, R153, R195, R363). A run of bytes goes to addresses that `ctxDpa` names and that stay where
they are while it is written, or to host memory. -/

open Sys2Proof.Claims

namespace Sys2Proof.Machine

variable {s : State} {c a : Nat} {x : Cmd} {op : Op} {i : Instr}

/-! ### Where the bytes of a run go -/

theorem ctxDpa_of_frame {u : State} {m h : Tab Byte} (hu : u = { s with mem := m, host := h }) (c t off : Nat) :
    ctxDpa u c t off = ctxDpa s c t off := by
  subst hu
  rfl

theorem ctxPut_rd {t off : Nat} {b : Byte} (h : ctxDpa s c t off ≠ some a) : (s.ctxPut c t off b).rd a = s.rd a := by
  have hother {y : Nat} (hy : ctxDpa s c t off = some y) : (s.wr y b).rd a = s.rd a :=
    State.rd_wr_other s b fun hya => h (hy.trans (congrArg some hya))
  unfold State.ctxPut
  split
  · split
    · next hy => exact hother hy
    · rfl
  · split
    · next hy => exact hother hy
    · rfl
  · split
    · next hn =>
      split
      · next hy => exact hother (by simp [ctxDpa, hn, hy])
      · rfl
    · rfl
  · rfl
  · rfl

theorem ctxPut_host (s : State) (c : Nat) {t : Nat} (off : Nat) (b : Byte) (h : t ≠ 4) : (s.ctxPut c t off b).host = s.host := by
  unfold State.ctxPut
  split
  · split <;> rfl
  · split <;> rfl
  · split
    · split <;> rfl
    · rfl
  · exact absurd rfl h
  · rfl

theorem ctxPutRun_rd {t : Nat} (bs : Bytes) {off : Nat} (h : ∀ k, k < bs.length → ctxDpa s c t (off + k) ≠ some a) :
    (s.ctxPutRun c t off bs).rd a = s.rd a := by
  induction bs generalizing s off with
  | nil => rfl
  | cons b bs ih =>
    have hfirst : ctxDpa s c t off ≠ some a := h 0 (Nat.succ_pos _)
    rw [State.ctxPutRun, ih fun k hk => ?_, ctxPut_rd hfirst]
    rw [ctxDpa_of_frame (ctxPut_frame s c t off b), Nat.add_assoc, Nat.add_comm 1 k]
    exact h (k + 1) (Nat.succ_lt_succ hk)

theorem ctxPutRun_host (c : Nat) {t : Nat} (bs : Bytes) (h : t ≠ 4) (s : State) (off : Nat) :
    (s.ctxPutRun c t off bs).host = s.host := by
  induction bs generalizing s off with
  | nil => rfl
  | cons b bs ih => rw [State.ctxPutRun, ih, ctxPut_host s c off b h]

/-- Writes the runs of a DMA command in order. -/
def State.putRuns (s : State) (c : Nat) (rs : List TierRun) : State := rs.foldl (fun u r => u.ctxPutRun c r.tier r.off r.bytes) s

theorem putRuns_frame (s : State) (c : Nat) (rs : List TierRun) :
    s.putRuns c rs = { s with mem := (s.putRuns c rs).mem, host := (s.putRuns c rs).host } := by
  induction rs generalizing s with
  | nil => rfl
  | cons r rs ih =>
    have hcons : s.putRuns c (r :: rs) = (s.ctxPutRun c r.tier r.off r.bytes).putRuns c rs := rfl
    rw [hcons, ih, ctxPutRun_frame]

/-- Every byte of the package at no address written stays. -/
theorem putRuns_rd {rs : List TierRun} (h : ∀ r ∈ rs, ∀ k, k < r.bytes.length → ctxDpa s c r.tier (r.off + k) ≠ some a) :
    (s.putRuns c rs).rd a = s.rd a := by
  induction rs generalizing s with
  | nil => rfl
  | cons r rs ih =>
    obtain ⟨hr, hrs⟩ := List.forall_mem_cons.1 h
    have hcons : s.putRuns c (r :: rs) = (s.ctxPutRun c r.tier r.off r.bytes).putRuns c rs := rfl
    rw [hcons, ih fun q hq k hk => ?_, ctxPutRun_rd _ hr]
    rw [ctxDpa_of_frame (ctxPutRun_frame s c r.tier r.off r.bytes)]
    exact hrs q hq k hk

theorem putRuns_host (c : Nat) {rs : List TierRun} (h : ∀ r ∈ rs, r.tier ≠ 4) (s : State) : (s.putRuns c rs).host = s.host := by
  induction rs generalizing s with
  | nil => rfl
  | cons r rs ih =>
    obtain ⟨hr, hrs⟩ := List.forall_mem_cons.1 h
    exact (ih hrs _).trans (ctxPutRun_host c _ hr s _)

/-! ### A command runs -/

theorem exec_of_dmaRows (h : (i, op) ∈ dmaRows c) (s : State) : exec i s = .next (s.runDma c op) := by
  simp only [dmaRows, List.mem_cons, Prod.mk.injEq, List.not_mem_nil, or_false] at h
  obtain ⟨rfl, rfl⟩ | ⟨rfl, rfl⟩ | ⟨rfl, rfl⟩ | ⟨rfl, rfl⟩ | ⟨rfl, rfl⟩ | ⟨rfl, rfl⟩ | ⟨rfl, rfl⟩ | ⟨rfl, rfl⟩ | ⟨rfl, rfl⟩ |
    ⟨rfl, rfl⟩ := h
  all_goals rfl

/-- The command waits: it uses the host, to which there is no access, or another command holds a byte that it reads. -/
abbrev State.dmaWaits (s : State) (c : Nat) (op : Op) (x : Cmd) : Prop :=
  (usesHost op = true ∧ s.hif.access = false) ∨ s.readsHeld c op x.desc = true

theorem runDma_of_waits (hx : underWay s c x op) (h : s.dmaWaits c op x) : s.runDma c op = s := by
  rw [State.runDma, runningAs_of_underWay hx]
  exact if_pos (by simpa using h)

theorem runDma_of_lost (hx : underWay s c x op) (h : ¬ s.dmaWaits c op x) (hlost : s.streamLost c op x.desc x.streams = true) :
    s.runDma c op = s.reportStream c x := by
  rw [State.runDma, runningAs_of_underWay hx]
  exact (if_neg (by simpa using h)).trans (if_pos hlost)

theorem runDma_of_goes (hx : underWay s c x op) (h : ¬ s.dmaWaits c op x) (hlost : s.streamLost c op x.desc x.streams = false) :
    s.runDma c op = (s.putRuns c (dmaRun (s.ctxByte c) op x.desc (s.ctx c).seed x.step)).modCmd c fun k => { k with done := true } := by
  rw [State.runDma, runningAs_of_underWay hx]
  exact (if_neg (by simpa using h)).trans (if_neg (by simp [hlost]))

theorem runDma_of_none (h : ∀ x, ¬ underWay s c x op) : s.runDma c op = s := by
  rw [State.runDma, runningAs_of_none_underWay h]

theorem runAcquire_of_none (h : ∀ x, ¬ underWay s c x .loamAcquire) : s.runAcquire c = s := by
  rw [State.runAcquire, runningAs_of_none_underWay h]

theorem runAcquire_of_present (hx : underWay s c x .loamAcquire)
    (h : s.absentPages c ((s.sliceOf c).getD 0) (loamPagesOf (opReads .loamAcquire x.desc)) = []) :
    s.runAcquire c = s.setCtx c { s.ctx c with cmd := some { x with done := true } } := by
  rw [State.runAcquire, runningAs_of_underWay hx]
  exact (if_pos h).trans (modCmd_ctx _ hx.1)

theorem runAcquire_of_absent (hx : underWay s c x .loamAcquire)
    (h : s.absentPages c ((s.sliceOf c).getD 0) (loamPagesOf (opReads .loamAcquire x.desc)) ≠ []) :
    s.runAcquire c = s.fetchPages c x.desc := by
  rw [State.runAcquire, runningAs_of_underWay hx]
  exact if_neg h

/-- Settles O10, by where the runs of bytes go and what a DMA command waits for. -/
theorem dmaCommandsComplete : Obligations.DmaCommandsComplete := by
  refine ⟨fun s c i op hrow => ⟨fun x hx => ⟨fun hgo hlost => ?goes, fun hw => ?waits, fun hgo hlost => ?lost, ?release⟩,
      fun hnone => ?none⟩,
    fun s c => ⟨fun x hx => ⟨fun h => congrArg Host.Outcome.next (runAcquire_of_present hx h),
      fun h => congrArg Host.Outcome.next (runAcquire_of_absent hx h)⟩,
      fun hnone => congrArg Host.Outcome.next (runAcquire_of_none hnone)⟩⟩
  case goes =>
    have hframe := putRuns_frame s c (dmaRun (s.ctxByte c) op x.desc (s.ctx c).seed x.step)
    have hctx : ((s.putRuns c (dmaRun (s.ctxByte c) op x.desc (s.ctx c).seed x.step)).ctx c).cmd = some x := by
      rw [hframe]
      exact hx.1
    refine ⟨_, (exec_of_dmaRows hrow s).trans (congrArg Host.Outcome.next (runDma_of_goes hx hgo hlost)), modCmd_cmd _ hctx, rfl,
      rfl, fun a ha => putRuns_rd ha, fun ht => putRuns_host c ht s, fun d hd => (modCmd_ctx_other _ hd).trans ?_, ?_⟩
    · rw [hframe]
      rfl
    · rw [hframe]
      rfl
  case waits => rw [exec_of_dmaRows hrow, runDma_of_waits hx hw]
  case lost => rw [exec_of_dmaRows hrow, runDma_of_lost hx hgo hlost]
  case release =>
    rintro rfl
    rfl
  case none => rw [exec_of_dmaRows hrow, runDma_of_none hnone]

end Sys2Proof.Machine
end

section
/-! O11: the runs of bytes of each DMA command that moves bytes (R141, R144, R146, R147, R554). `dmaRun` lists them by row, and those of
the layout commands by lane and step. -/

namespace Sys2Proof.Machine

variable {rd : TierRead} {d : Desc} {seed step : Nat} {op : Op}

/-! ### Lists by row, and by lane and step -/

theorem getElem?_map_range {α : Type} (f : Nat → α) {n r : Nat} (h : r < n) : ((List.range n).map f)[r]? = some (f r) := by
  simp [h]

theorem length_grid {α : Type} (f : Nat → Nat → α) (m n : Nat) :
    ((List.range m).flatMap fun l => (List.range n).map (f l)).length = m * n := by
  simp [List.length_flatMap]

/-- Element (l, k) of a list by lane and step. -/
theorem getElem?_grid {α : Type} (f : Nat → Nat → α) {m n l k : Nat} (hl : l < m) (hk : k < n) :
    ((List.range m).flatMap fun l => (List.range n).map (f l))[l * n + k]? = some (f l k) := by
  induction m with
  | zero => cases hl
  | succ m ih =>
    have hlen := length_grid f m n
    rw [List.range_succ, List.flatMap_append]
    rcases Nat.lt_or_eq_of_le (Nat.lt_succ_iff.1 hl) with hlt | rfl
    · have hrow : l * n + n ≤ m * n := by
        calc l * n + n = (l + 1) * n := by ring
          _ ≤ m * n := Nat.mul_le_mul_right n hlt
      rw [List.getElem?_append_left (by omega), ih hlt]
    · rw [List.getElem?_append_right (by omega), hlen, Nat.add_sub_cancel_left, List.flatMap_singleton, getElem?_map_range _ hk]

/-! ### The runs of each command -/

theorem dmaRun_of_rows (h : op ∈ [Op.copy2d, .hostRead, .hostWrite]) : dmaRun rd op d seed step =
    (List.range d.dmaRows).map fun r => ⟨tierOf d.dmaDst, tierOff d.dmaDst + r * d.dmaDstPitch,
      readRun rd (tierOf d.dmaSrc) (tierOff d.dmaSrc + r * d.dmaSrcPitch) d.dmaLength⟩ := by
  simp only [List.mem_cons, List.not_mem_nil, or_false] at h
  obtain rfl | rfl | rfl := h
  all_goals exact List.map_map

theorem dmaRun_gather : dmaRun rd .gather d seed step =
    (List.range d.dmaRows).map fun r => ⟨tierOf d.dmaDst, tierOff d.dmaDst + r * d.dmaDstPitch,
      readRun rd (tierOf d.dmaSrc) (tierOff d.dmaSrc +
        leNat (readRun rd (scrTier d.dmaIdxAddr) (scrOff d.dmaIdxAddr + 4 * r) 4) * d.dmaSrcPitch) d.dmaLength⟩ := by
  refine List.ext_getElem? fun r => ?_
  rcases Nat.lt_or_ge r d.dmaRows with hr | hr <;> simp [dmaRun, gatherExts, gatherIdx, hr]

/-- The run of lane `l` and step `k` of a layout command, its source at row `r` and column `c`. -/
def layoutRun (rd : TierRead) (d : Desc) (l k r c : Nat) : TierRun :=
  ⟨tierOf d.dmaDst, tierOff d.dmaDst + l / 128 * d.dmaDstPitch + k * 128 * d.elemBytes + l % 128 * d.elemBytes,
    readRun rd (tierOf d.dmaSrc) (tierOff d.dmaSrc + r * d.dmaSrcPitch + c * d.elemBytes) d.elemBytes⟩

theorem dmaRun_transpose : dmaRun rd .transpose d seed step = (List.range d.dmaRows).flatMap fun l =>
    (List.range (d.dmaLength / d.elemBytes)).map fun k => layoutRun rd d l k l k := rfl

theorem dmaRun_toPanels : dmaRun rd .toPanels d seed step = (List.range (d.dmaLength / d.elemBytes)).flatMap fun l =>
    (List.range d.dmaRows).map fun k => layoutRun rd d l k k l := rfl

theorem length_dmaRun_of_rows (h : op ∈ [Op.copy2d, .hostRead, .hostWrite, .fill, .fillRandom, .gather]) :
    (dmaRun rd op d seed step).length = d.dmaRows := by
  simp only [List.mem_cons, List.not_mem_nil, or_false] at h
  obtain rfl | rfl | rfl | rfl | rfl | rfl := h
  all_goals simp [dmaRun, rowMoves, gatherExts, gatherIdx]

theorem length_dmaRun_of_layout (h : op ∈ [Op.transpose, .toPanels]) :
    (dmaRun rd op d seed step).length = d.dmaRows * (d.dmaLength / d.elemBytes) := by
  simp only [List.mem_cons, List.not_mem_nil, or_false] at h
  obtain rfl | rfl := h
  · rw [dmaRun_transpose, length_grid fun l k => layoutRun rd d l k l k]
  · rw [dmaRun_toPanels, length_grid fun l k => layoutRun rd d l k k l, Nat.mul_comm]

/-- Settles O11, by the list of runs of each command. That a linear COPY moves ROWS × LENGTH bytes in one run is the model's choice
(log entry 82). -/
theorem dmaMovesTheBytesItNames : Obligations.DmaMovesTheBytesItNames := by
  intro rd d seed step
  refine ⟨rfl, fun op => length_dmaRun_of_rows, fun op => length_dmaRun_of_layout, fun op hop r hr => ?rows,
    fun r => getElem?_map_range _, fun r => getElem?_map_range _, fun r hr => ?gather,
    fun l k hl hk => getElem?_grid (fun l k => layoutRun rd d l k l k) hl hk,
    fun l k hl hk => getElem?_grid (fun l k => layoutRun rd d l k k l) hl hk⟩
  case rows => exact (congrArg (·[r]?) (dmaRun_of_rows hop)).trans (getElem?_map_range _ hr)
  case gather => exact (congrArg (·[r]?) dmaRun_gather).trans (getElem?_map_range _ hr)

end Sys2Proof.Machine
end

section
/-! O6: commits (R154, R279, R462). With no uncorrectable word in the package nothing stands between a command that has run and its
commit but a hub command's condition and LOAM_ACQUIRE's pages. -/

namespace Sys2Proof.Machine

variable {s : State} {c l : Nat} {x : Cmd} {op : Op}

/-! ### A package without uncorrectable words -/

theorem badIn_of_none (h : s.tier.badWords = []) (a n : Nat) : s.badIn a n = false := by simp [State.badIn, h]

theorem isBad_of_none (h : s.tier.badWords = []) (w : Nat) : s.isBad w = false := by simp [State.isBad, h]

theorem badLoam_of_none (h : s.tier.badWords = []) (c : Nat) (x : Cmd) (op : Op) : s.badLoam c x op = s := by
  refine List.foldl_fixed' (fun p => ?_) _
  simp only [badIn_of_none h]
  split <;> rfl

theorem badReads_of_none (h : s.tier.badWords = []) (c : Nat) (x : Cmd) (op : Op) : s.badReads c x op = [] := by
  simp [State.badReads, h]

theorem radioBad_of_none (h : s.tier.badWords = []) (x : Cmd) (op : Op) : s.radioBad x op = [] := by
  simp [State.radioBad, h]

/-! ### What COMMIT does -/

theorem exec_commit_context (s : State) (c : Nat) : exec (.commit (.context c)) s =
    .next (s.commitOf c).settleSnapshots.wakeFabric.yieldTurns := rfl

theorem commitOf_of_ran (hcmd : (s.ctx c).cmd = some x) (hop : x.op = some op) (hphase : x.phase = .started) (hdone : x.done = true)
    (hgood : s.tier.badWords = []) (hhub : op.unit = .hub → s.hubCondition c op x = true)
    (hpages : op = .loamAcquire → s.absentPages c ((s.sliceOf c).getD 0) (loamPagesOf (opReads op x.desc)) = []) :
    s.commitOf c = s.commitCtx c x op := by
  have hhub' : ¬ (op.unit = .hub ∧ s.hubCondition c op x = false) := fun ⟨hu, hc⟩ => by simp [hhub hu] at hc
  have hpages' : ¬ (op = .loamAcquire ∧ s.absentPages c ((s.sliceOf c).getD 0) (loamPagesOf (opReads op x.desc)) ≠ []) :=
    fun ⟨ho, ha⟩ => ha (hpages ho)
  simp [State.commitOf, hcmd, hop, hphase, hdone, isBad_of_none hgood, hhub', badLoam_of_none hgood, hpages', badReads_of_none hgood]

theorem commitOf_of_not_ran (hcmd : (s.ctx c).cmd = some x) (hop : x.op = some op)
    (h : x.phase ≠ .started ∨ x.done = false ∨ (op.unit = .hub ∧ s.hubCondition c op x = false ∧ s.isBad (badCtx c) = false)) :
    s.commitOf c = s := by
  have hbranch (h : ¬ (x.phase = .started ∧ x.done = true)) : s.commitOf c = s := by simp [State.commitOf, hcmd, hop, h]
  obtain hphase | hdone | ⟨hunit, hcond, hgood⟩ := h
  · exact hbranch fun ⟨hp, _⟩ => hphase hp
  · exact hbranch (by simp [hdone])
  · by_cases hran : x.phase = .started ∧ x.done = true
    · simp [State.commitOf, hcmd, hop, hran, hgood, hunit, hcond]
    · exact hbranch hran

theorem commitRadio_of_ran (hcmd : s.radioCmd l = some x) (hop : x.op = some op) (hphase : x.phase = .started) (hdone : x.done = true)
    (hgood : s.tier.badWords = []) : s.commitRadio l =
      let u := { s with radio := { s.radio with steps := s.radio.steps.set 0 l ((s.radio.steps.get 0 l + 1) % 2 ^ 64) } }
      let u := ((u.bump .commits).bumpIf (decide (0 < x.counts.satHi + x.counts.satLo)) .kaolinFlagged x.engine).bumpIf
        (!op.isMatrix) .vecCommands
      let u := ((u.bump .satElements 0 x.counts.sat).bump .invalidElements 0 x.counts.inv).bump .execCycles x.engine x.count
      (u.endRadio l x (commitCode x.counts) 0).pasidBoundary := by
  simp [State.commitRadio, hcmd, hop, hphase, hdone, radioBad_of_none hgood]

/-- Settles O6. That the engine is free from COMMIT on, and that uncorrectable words are judged there, is the model's reading (log
entries 71 and 31). -/
theorem commitsComplete : Obligations.CommitsComplete := by
  refine ⟨fun s c x op hcmd hop hphase hdone hgood hhub hpages => ?commits, fun s c x op hcmd hop h => ?waits,
    fun s l x op hcmd hop hphase hdone hgood => ?radio⟩
  case commits =>
    rw [exec_commit_context, commitOf_of_ran hcmd hop hphase hdone hgood hhub hpages, State.commitCtx]
    cases hsignal : Desc.signalEn x.desc
    all_goals
      simp only [hsignal]
      rfl
  case waits => rw [exec_commit_context, commitOf_of_not_ran hcmd hop h]
  case radio =>
    exact congrArg (fun t : State => Host.Outcome.next t.wakeFabric.yieldTurns) (commitRadio_of_ran hcmd hop hphase hdone hgood)

end Sys2Proof.Machine
end

section
/-! O3 and O4: the host's queue pages (R129, R130, R131, R133, R385). The host's own writes reach host memory and parts of the host
interface that no queue page depends on; a write to a page is then one of the cases of its register's rule. -/

open Sys2Proof.Claims

namespace Sys2Proof.Machine

variable {s u : State} {n q c reason : Nat} {t v : W32} {a b : W64} {ws : List HostWrite}

/-! ### The host's own writes -/

/-- The state but for host memory and what the host writes of its interface. -/
def State.butHost (s : State) : State := { s with host := [], hif := { (default : HostIf) with access := s.hif.access } }

theorem msixWrite_butHost (s : State) (i v : Nat) : (s.msixWrite i v).butHost = s.butHost := by
  simp only [State.msixWrite]
  split <;> split <;> rfl

theorem bar2Write_butHost (s : State) (off : Nat) (v : W32) : (s.bar2Write off v).butHost = s.butHost := by
  simp only [State.bar2Write]
  split
  · rfl
  · split
    · split <;> rfl
    · split
      · split
        · rfl
        · split <;> rfl
      · split
        · exact msixWrite_butHost _ _ _
        · rfl

theorem hostStore_butHost (s : State) (w : HostWrite) : (s.hostStore w).butHost = s.butHost := by
  cases w with
  | memory pasid iova bytes => rfl
  | bar2 off value => exact bar2Write_butHost s off value

theorem hostPut_butHost (s : State) (ws : List HostWrite) : (s.hostPut ws).butHost = s.butHost :=
  foldl_keeps (m := State.butHost) hostStore_butHost ws s

theorem hostPut_mem (s : State) (ws : List HostWrite) : (s.hostPut ws).mem = s.mem :=
  (congrArg State.mem (hostPut_butHost s ws) :)

theorem hostPut_access (s : State) (ws : List HostWrite) : (s.hostPut ws).hif.access = s.hif.access :=
  (congrArg (fun u : State => u.hif.access) (hostPut_butHost s ws) :)

theorem hostPut_queueCtx (s : State) (ws : List HostWrite) (n q : Nat) : (s.hostPut ws).queueCtx n q = s.queueCtx n q :=
  (congrArg (fun u : State => u.queueCtx n q) (hostPut_butHost s ws) :)

/-! ### Each register's write, and where it has no effect -/

theorem exec_doorbell_of_bound (hq : (s.hostPut ws).queueCtx n q = some c) (ha : (s.hostPut ws).hif.access = true) :
    exec (.doorbell n q t ws) s = .next ((s.hostPut ws).doorbell c t) := by
  simp only [exec, execDoorbell, hq, ha, if_true]

theorem exec_doorbell_of_unbound (h : s.hif.access = false ∨ s.queueCtx n q = none) :
    exec (.doorbell n q t ws) s = .next (s.hostPut ws) := by
  simp only [exec, execDoorbell]
  split
  · next c hq =>
    rw [hostPut_queueCtx] at hq
    have ha : s.hif.access = false := h.resolve_right (by simp [hq])
    rw [hostPut_access, ha]
    rfl
  · rfl

theorem exec_ringCfg_of_bound (hq : s.queueCtx n q = some c) (ha : s.hif.access = true) :
    exec (.ringCfg n q v a b) s = .next (s.ringCfg n c (ringMask v) a.toNat b.toNat).settleAll := by
  simp only [exec, execRingCfg, hq, ha, if_true]

theorem exec_ringCfg_of_unbound (h : s.hif.access = false ∨ s.queueCtx n q = none) : exec (.ringCfg n q v a b) s = .next s := by
  simp only [exec, execRingCfg]
  split
  · next c hq =>
    have ha : s.hif.access = false := h.resolve_right (by simp [hq])
    rw [ha]
    rfl
  · rfl

theorem exec_cplHead_of_bound (hq : s.queueCtx n q = some c) (ha : s.hif.access = true) :
    exec (.cplHead n q v) s = .next (s.modPage c fun p => { p with cplHead := v }) := by
  simp only [exec, execCplHead, hq, ha, if_true]

theorem exec_cplHead_of_unbound (h : s.hif.access = false ∨ s.queueCtx n q = none) : exec (.cplHead n q v) s = .next s := by
  simp only [exec, execCplHead]
  split
  · next c hq =>
    have ha : s.hif.access = false := h.resolve_right (by simp [hq])
    rw [ha]
    rfl
  · rfl

/-! ### Doorbells (R131) -/

/-- A value behind TAIL. -/
abbrev State.doorbellBack (u : State) (c : Nat) (t : W32) : Prop := (t - (u.ctx c).page.tail).toInt < 0

/-- A value more than one ring ahead of TAIL or HEAD. -/
abbrev State.doorbellFar (u : State) (c : Nat) (t : W32) : Prop :=
  2 ^ (u.ctx c).page.cmdLog2 < (t - (u.ctx c).page.tail).toNat ∨ 2 ^ (u.ctx c).page.cmdLog2 < (t - (u.ctx c).page.head).toNat

theorem doorbell_of_disabled (h : (u.ctx c).page.state = 0) : u.doorbell c t = u.ignoreDoorbell c 0x0101 t := if_pos h

theorem doorbell_of_torn (h : (u.ctx c).page.state = 3) : u.doorbell c t = u.ignoreDoorbell c 0x0104 t := by
  simp [State.doorbell, h]

section Live
variable (hs : (u.ctx c).page.state = 1 ∨ (u.ctx c).page.state = 2)
include hs

theorem doorbell_of_live : u.doorbell c t =
    if u.doorbellBack c t then u.ignoreDoorbell c 0x0102 t
    else if u.doorbellFar c t then u.ignoreDoorbell c 0x0103 t
    else (tailTo u c t).checkNext c := by
  have hdisabled : (u.ctx c).page.state ≠ 0 := by omega
  have htorn : (u.ctx c).page.state ≠ 3 := by omega
  exact (if_neg hdisabled).trans (if_neg htorn)

theorem doorbell_of_back (h : u.doorbellBack c t) : u.doorbell c t = u.ignoreDoorbell c 0x0102 t := by
  rw [doorbell_of_live hs, if_pos h]

theorem doorbell_of_far (hb : ¬ u.doorbellBack c t) (h : u.doorbellFar c t) : u.doorbell c t = u.ignoreDoorbell c 0x0103 t := by
  rw [doorbell_of_live hs, if_neg hb, if_pos h]

theorem doorbell_of_taken (hb : ¬ u.doorbellBack c t) (hf : ¬ u.doorbellFar c t) :
    u.doorbell c t = (tailTo u c t).checkNext c := by
  rw [doorbell_of_live hs, if_neg hb, if_neg hf]

end Live

/-- A queue that is not running fetches nothing. -/
theorem checkNext_of_not_running (h : (u.ctx c).page.state ≠ 1) : u.checkNext c = u := by
  have hfetch : u.mayFetch c = false := by simp [State.mayFetch, State.queueRuns, h]
  simp [State.checkNext, State.checkLoop, hfetch]

theorem modCtx_ctx_same {f : Ctx → Ctx} (h : f (u.ctx c) ≠ default) : (u.modCtx c f).ctx c = f (u.ctx c) :=
  State.ctx_setCtx_same u c h

theorem modPage_ctx_same {f : Page → Page} (h : f (u.ctx c).page ≠ default) :
    (u.modPage c f).ctx c = { u.ctx c with page := f (u.ctx c).page } :=
  modCtx_ctx_same fun hd => h (congrArg Ctx.page hd)

theorem tailTo_state (h : (u.ctx c).page.state ≠ 0) : ((tailTo u c t).ctx c).page.state = (u.ctx c).page.state := by
  rw [tailTo, modCtx_ctx_same fun hd => h (congrArg (fun x : Ctx => x.page.state) hd :)]

theorem checkNext_tailTo_of_frozen (h : (u.ctx c).page.state = 2) : (tailTo u c t).checkNext c = tailTo u c t :=
  checkNext_of_not_running (by rw [tailTo_state (by simp [h]), h]; decide)

/-! ### Ignored doorbells (R131, R162, R169) -/

theorem ignoreDoorbell_ctx (u : State) (h : reason ≠ 0) : (u.ignoreDoorbell c reason t).ctx c = { u.ctx c with
    page := { (u.ctx c).page with ignored := (u.ctx c).page.ignored + 1, lastIgnored := reason, lastIgnoredSeq := t } } := by
  have hctx : (u.countIgnored reason).ctx c = u.ctx c := by simp [State.countIgnored, State.ctx]
  rw [State.ignoreDoorbell, modPage_ctx_same fun hd => h (congrArg Page.lastIgnored hd), hctx]

theorem countIgnored_lastIgnored (u : State) (h : reason % 2 ^ 16 = reason) (h0 : reason ≠ 0) :
    (u.countIgnored reason).reg .lastIgnored = reason := by
  have hdflt : (u.bump .ignoredTotal).dfltOf .lastIgnored = 0 := by cases hb : u.build <;> simp [State.dfltOf, hb] <;> rfl
  rw [State.countIgnored, State.reg_setReg_same _ _ _ _ ?_]
  · exact h
  · rw [hdflt]
    exact h.symm ▸ h0

theorem ignoreDoorbell_mem (u : State) : (u.ignoreDoorbell c reason t).mem = u.mem :=
  (State.setReg_mem _ _ _ _).trans (State.bump_mem _ _ _ _)

theorem ignoreDoorbell_host (u : State) : (u.ignoreDoorbell c reason t).host = u.host :=
  (State.setReg_host _ _ _ _).trans (State.bump_host _ _ _ _)

/-- A doorbell ignored for a reason, in the words of the claim. -/
theorem completes_of_ignored (hq : (s.hostPut ws).queueCtx n q = some c) (ha : (s.hostPut ws).hif.access = true)
    (h0 : reason ≠ 0) (h16 : reason % 2 ^ 16 = reason)
    (hring : (s.hostPut ws).doorbell c t = (s.hostPut ws).ignoreDoorbell c reason t) :
    completes (.doorbell n q t ws) s fun v =>
      (v.ctx c).page = { ((s.hostPut ws).ctx c).page with
        ignored := ((s.hostPut ws).ctx c).page.ignored + 1, lastIgnored := reason, lastIgnoredSeq := t } ∧
      (v.ctx c).cmd = ((s.hostPut ws).ctx c).cmd ∧ v.mem = s.mem ∧ v.host = (s.hostPut ws).host ∧ v.reg .lastIgnored = reason := by
  have hctx := ignoreDoorbell_ctx (t := t) (c := c) (s.hostPut ws) h0
  exact ⟨_, (exec_doorbell_of_bound hq ha).trans (congrArg Host.Outcome.next hring), congrArg Ctx.page hctx,
    (congrArg Ctx.cmd hctx :), (ignoreDoorbell_mem _).trans (hostPut_mem s ws), ignoreDoorbell_host _,
    countIgnored_lastIgnored (s.hostPut ws) h16 h0⟩

/-- Settles O4, by the cases of a doorbell in their order, which is the model's reading (log entry 28). -/
theorem ignoredDoorbellsAreCounted : Obligations.IgnoredDoorbellsAreCounted := by
  intro s n q c t ws u p back far ignored hq ha
  have htaken (hs : p.state = 1 ∨ p.state = 2) (hb : ¬ back) (hf : ¬ far) :
      exec (.doorbell n q t ws) s = .next ((tailTo u c t).checkNext c) :=
    (exec_doorbell_of_bound hq ha).trans (congrArg Host.Outcome.next (doorbell_of_taken hs hb hf))
  refine ⟨fun hs => completes_of_ignored hq ha (by decide) (by decide) (doorbell_of_disabled hs),
    fun hs => completes_of_ignored hq ha (by decide) (by decide) (doorbell_of_torn hs),
    fun hs hb => completes_of_ignored hq ha (by decide) (by decide) (doorbell_of_back hs hb),
    fun hs hb hf => completes_of_ignored hq ha (by decide) (by decide) (doorbell_of_far hs hb hf),
    htaken, fun hs hb hf => ?_, fun rest => rfl⟩
  rw [htaken (.inr hs) hb hf, checkNext_tailTo_of_frozen hs]

/-! ### RING_CFG (R130, R385) -/

/-- The page of context `c` with the ring base registers written. -/
abbrev State.basedPage (s : State) (c : Nat) (a b : W64) : Page := { (s.ctx c).page with cmdBase := a.toNat, cplBase := b.toNat }

theorem ringCfg_of_enabled (he : (s.ctx c).page.enabled = true) (w : Nat) : s.ringCfg n c w a.toNat b.toNat =
    if bit w 31 then s.modPage c fun _ => s.basedPage c a b
    else ((s.countRemoved c).removeCtx c).modPage c fun _ =>
      { s.basedPage c a b with ringCfg := setBit (s.basedPage c a b).ringCfg 31 false, state := 0 } := if_pos he

theorem ringCfg_of_disabled (he : (s.ctx c).page.enabled = false) (w : Nat) : s.ringCfg n c w a.toNat b.toNat =
    if bit w 31 then
      if s.ringOk n { s.basedPage c a b with ringCfg := w } then s.createCtx n c { s.basedPage c a b with ringCfg := w }
      else s.modPage c fun _ => { s.basedPage c a b with ringCfg := setBit w 31 false }
    else s.modPage c fun _ => { s.basedPage c a b with ringCfg := w } :=
  if_neg (ne_true_of_eq_false he)

/-- Settles O3, by the rule of each register of the page. The ring bases as operands and a removed queue's kill at once are the
model's forms (log entries 28 and 72), and so is the drop of reserved bits (log entry 82). -/
theorem queuePageWritesTakeEffect : Obligations.QueuePageWritesTakeEffect := by
  refine ⟨?doorbell, ?ring, fun s n q c v hq ha => exec_cplHead_of_bound hq ha,
    fun s n q v a b h => ⟨exec_ringCfg_of_unbound h, exec_cplHead_of_unbound h⟩,
    fun s n q t ws h => exec_doorbell_of_unbound h, fun s n q off hq => ?unbound⟩
  case doorbell =>
    intro s n q c t ws u p hq ha hs hback htail hhead
    have htaken : exec (.doorbell n q t ws) s = .next ((tailTo u c t).checkNext c) :=
      (exec_doorbell_of_bound hq ha).trans (congrArg Host.Outcome.next
        (doorbell_of_taken hs (Int.not_lt.2 hback) (not_or.2 ⟨Nat.not_lt.2 htail, Nat.not_lt.2 hhead⟩)))
    exact ⟨htaken, fun hfrozen => by rw [htaken, checkNext_tailTo_of_frozen hfrozen]⟩
  case ring =>
    intro s n q c v a b hq ha o p r goes
    have hgoes {u : State} (h : s.ringCfg n c (ringMask v) a.toNat b.toNat = u) : goes u :=
      (exec_ringCfg_of_bound hq ha).trans (congrArg (fun w : State => Host.Outcome.next w.settleAll) h)
    refine ⟨fun he hon hok => hgoes ?_, fun he hon hok => hgoes ?_, fun he hoff => hgoes ?_, fun he hon => hgoes ?_,
      fun he hoff => hgoes ?_⟩
    · rw [ringCfg_of_disabled he, if_pos hon, if_pos hok]
      rfl
    · rw [ringCfg_of_disabled he, if_pos hon, if_neg (ne_true_of_eq_false hok)]
    · rw [ringCfg_of_disabled he, if_neg (ne_true_of_eq_false hoff)]
    · rw [ringCfg_of_enabled he, if_pos hon]
    · rw [ringCfg_of_enabled he, if_neg (ne_true_of_eq_false hoff)]
  case unbound => simp only [State.pageRead, hq]

end Sys2Proof.Machine
end

section
/-! O36: requests at their home (R152, R347, R354 to R357, R366, R368, R462). Which request is taken is a search through what has arrived;
`State.serve` is said once for the three kinds that a job's regions serve, and BULK_WRITE and BULK_READ by the copy that they find. -/

open Sys2Proof.Claims

namespace Sys2Proof.Machine

variable {s : State} {p : Packet} {kind i a : Nat} {waits right : Nat → Bool} {b : BuddyCopy}

/-! ### The request that is taken -/

theorem firstOf_not_waits {waits : Packet → Bool} {before ps : List Packet} (h : firstOf kind waits before ps = some p) :
    waits p = false := by
  induction ps generalizing before with
  | nil => cases h
  | cons q ps ih =>
    unfold firstOf at h
    split at h
    · next hq =>
      cases h
      simpa using hq.2.1
    · exact ih h

/-- A request that does not wait and that shares no line with another is taken, if none before it is. -/
theorem firstOf_isSome {waits : Packet → Bool} {before ps : List Packet} (hp : p ∈ ps) (hnew : p ∉ before) (hkind : p.kind = kind)
    (hwaits : waits p = false) (halone : ∀ q ∈ before ++ ps, q.atHome = true → sameLine p q = true → q = p) :
    firstOf kind waits before ps ≠ none := by
  induction ps generalizing before with
  | nil => cases hp
  | cons q ps ih =>
    unfold firstOf
    split
    · exact Option.some_ne_none q
    · next hq =>
      have hne : p ≠ q := by
        rintro rfl
        refine hq ⟨hkind, by simp [hwaits], ?_⟩
        have hclear : (before.any fun r => r.atHome && sameLine p r) = false := by
          rw [List.any_eq_false]
          intro r hr hline
          obtain ⟨hhome, hline⟩ := Bool.and_eq_true_iff.1 hline
          exact hnew (halone r (List.mem_append_left _ hr) hhome hline ▸ hr)
        simp [hclear]
      refine ih ((List.mem_cons.1 hp).resolve_left hne) ?_ fun r hr => halone r (by simpa using hr)
      simp [hnew, hne]

theorem arrivedOf_ne_none {waits : Packet → Bool} (hp : p ∈ s.fab.arrived) (hkind : p.kind = kind) (hwaits : waits p = false)
    (halone : ∀ q ∈ s.fab.arrived, q.atHome = true → sameLine p q = true → q = p) : s.arrivedOf kind waits ≠ none :=
  firstOf_isSome hp List.not_mem_nil hkind hwaits halone

/-! ### The rows -/

theorem exec_of_homeRows {r : Instr × Nat × (Nat → Bool) × (State → Nat → Packet → State)} (h : r ∈ homeRows) (s : State) :
    exec r.1 s = .next (s.serve r.2.1 r.2.2.1 r.2.2.2) := by
  simp only [homeRows, List.mem_cons, List.not_mem_nil, or_false] at h
  obtain rfl | rfl | rfl := h
  all_goals rfl

theorem exec_of_packetRows_none {r : Instr × Nat} (h : r ∈ packetRows) (hnone : s.arrivedOf r.2 = none) : exec r.1 s = .next s := by
  simp only [packetRows, List.mem_cons, List.not_mem_nil, or_false] at h
  obtain rfl | rfl | rfl | rfl | rfl | rfl | rfl | rfl | rfl | rfl | rfl | rfl := h
  all_goals
    simp [exec, execDrain, execBulkWrite, execBulkRead, execReadData, execWriteAck, execAtomicAck, execDrainAck, execRefuse,
      execBulkData, execBulkAck, execCellData, execCellAck, State.takeResponse, hnone]

/-! ### Serving a request (R354, R462) -/

section Serve
variable {f : State → Nat → Packet → State}

theorem serve_of_none (h : s.arrivedOf kind (s.homeWaits right) = none) : s.serve kind right f = s := by
  simp only [State.serve, h]

variable (h : s.arrivedOf kind (s.homeWaits right) = some p)
include h

theorem serve_of_no_job (hj : s.jobIndex p.job = none) : s.serve kind right f = (s.takeArrived p).refusePacket p 0x0001 := by
  simp only [State.serve, h, hj]

theorem serve_of_refused {e : Nat} (hj : s.jobIndex p.job = some i) (he : s.serveReason i p right = some e) :
    s.serve kind right f = (s.takeArrived p).refusePacket p e := by
  simp only [State.serve, h, hj, he]

theorem serve_of_bad (hj : s.jobIndex p.job = some i) (he : s.serveReason i p right = none) (hb : s.homeBad i p = true) :
    s.serve kind right f =
      let bads := ((List.range p.extent.2).map fun k => s.homeDpa i (p.dpa + k) / 8 * 8).filter fun a => s.badIn a 8
      (s.takeArrived p).badRecord 0x0103 2 (bads.headD 0) 0xFFFF p.job := by
  simp only [State.serve, h, hj, he, hb, if_true]

theorem serve_of_good (hj : s.jobIndex p.job = some i) (he : s.serveReason i p right = none) (hb : s.homeBad i p = false) :
    s.serve kind right f = f (s.takeArrived p) i p := by
  simp [State.serve, h, hj, he, hb]

/-- A request that is served meets no byte that a command holds. -/
theorem not_held_of_served (hj : s.jobIndex p.job = some i) (he : s.serveReason i p right = none) :
    runsHit ((List.range p.extent.2).map fun k => (s.homeDpa i (p.dpa + k), 1)) (s.heldRuns none) = false := by
  have hwaits := firstOf_not_waits h
  simpa [State.homeWaits, hj, he] using hwaits

end Serve

/-! ### Packets that are sent leave memory -/

theorem transmit_mem (s : State) (n : Nat) (x : Port) (ps : List Packet) : (s.transmit n x ps).mem = s.mem := by
  unfold State.transmit
  split
  · rfl
  · exact State.bump_mem _ _ _ _

theorem flushPort_mem (s : State) (n : Nat) : (s.flushPort n).mem = s.mem := by
  unfold State.flushPort
  split
  · rfl
  · exact transmit_mem _ _ _ _

theorem hand_mem (s : State) (p : Packet) : (s.hand p).mem = s.mem := by
  unfold State.hand
  split
  · rfl
  · unfold State.flushFabric
    split
    · rfl
    · exact foldl_keeps (m := State.mem) flushPort_mem _ _

theorem respond_mem (s : State) (p : Packet) (kind : Nat) (bs : Bytes) : (s.respond p kind bs).mem = s.mem := hand_mem s _

theorem refusePacket_mem (s : State) (p : Packet) (e : Nat) : (s.refusePacket p e).mem = s.mem :=
  (respond_mem _ _ _ _).trans (State.bump_mem _ _ _ _)

/-- A WRITE leaves every byte that the home finds at none of its addresses. -/
theorem homeWrite_rd {y : Nat} (bs : Bytes) (h : ∀ k, k < bs.length → s.homeDpa i (a + k) ≠ y) : (s.homeWrite i a bs).rd y = s.rd y := by
  refine (List.foldlRecOn (motive := fun t : State => (∃ m, t = { s with mem := m }) ∧ t.rd y = s.rd y) bs.zipIdx _ ⟨⟨s.mem, rfl⟩, rfl⟩
    fun t ht w hw => ?_).2
  obtain ⟨⟨m, rfl⟩, hrd⟩ := ht
  exact ⟨⟨_, rfl⟩, (State.rd_wr_other _ _ (h w.2 (List.snd_lt_of_mem_zipIdx hw))).trans hrd⟩

/-! ### Copies of a buddy (R366, R368) -/

/-- The copy that a (JOB, source) pair is writing. -/
abbrev State.openCopyOf (u : State) (p : Packet) : Option BuddyCopy :=
  u.fab.buddies.find? fun b => b.job = p.job ∧ b.src = p.src ∧ !b.complete

/-- Once a piece has arrived there is a copy that it goes into. -/
theorem openCopy_open (s : State) (p : Packet) (header : Bool) (k : Nat) :
    (s.openCopy p.job p.src header k).openCopyOf p ≠ none := by
  have hopen {u : State} {b : BuddyCopy} (hb : b ∈ u.fab.buddies) (hjob : b.job = p.job) (hsrc : b.src = p.src)
      (hc : b.complete = false) : u.openCopyOf p ≠ none := fun hnone =>
    absurd (List.find?_eq_none.1 hnone b hb) (by simp [hjob, hsrc, hc])
  unfold State.openCopy
  simp only
  split
  · next hw =>
    obtain ⟨b, hfind, -⟩ := Option.map_eq_some_iff.1 hw
    have hmem := List.mem_filter.1 (List.mem_of_find?_eq_some hfind)
    have hc := List.find?_some hfind
    simp only [decide_eq_true_eq, Bool.not_eq_true'] at hmem hc
    obtain ⟨hb, hjob, hsrc⟩ := hmem
    exact hopen hb hjob hsrc hc
  · exact hopen (List.mem_append_right _ (List.mem_singleton_self _)) rfl rfl rfl

theorem exec_bulkWrite (h : s.arrivedOf pkBulkWrite = some p) : exec .bulkWrite s = .next ((s.takeArrived p).bulkWrite p) := by
  simp only [exec, execBulkWrite, h]

theorem exec_bulkRead (h : s.arrivedOf pkBulkRead = some p) : exec .bulkRead s = .next ((s.takeArrived p).bulkRead p) := by
  simp only [exec, execBulkRead, h]

theorem exec_drain (h : s.arrivedOf pkDrain = some p) : exec .drain s = .next ((s.takeArrived p).respond p pkDrainAck []) := by
  simp only [exec, execDrain, h]

/-- Where a copy keeps byte `off` of its header or of its body, in the words of the claim. -/
theorem copyAt_eq_add (header : Bool) (off : Nat) : copyAt header off = off + if header then 0 else 4096 := by
  cases header
  · exact Nat.add_comm 4096 off
  · rfl

/-- The uncorrectable words that a BULK_READ of copy `b` reads, as DPAs: its words from byte `off` on. -/
abbrev BuddyCopy.words (b : BuddyCopy) (off n : Nat) : List Nat := (List.range n).filterMap fun i =>
  (b.frames[(off + i) / frameBytes]?).map fun f => (f * frameBytes + (off + i) % frameBytes) / 8 * 8

/-- Where a BULK_READ begins in its copy. -/
abbrev Packet.bulkOff (p : Packet) : Nat := field p.dpa 33 0 * 1024 + if bit p.dpa 40 then 0 else 4096

/-- The copy once the piece at byte `off` of its header or of its body has arrived. -/
abbrev BuddyCopy.withPiece (b : BuddyCopy) (header : Bool) (off len : Nat) : BuddyCopy :=
  if header then { b with gotHead := b.gotHead ++ [off / 1024] }
  else { b with length := max b.length (off + len), got := b.got ++ [off / 1024] }

/-- `State.bulkWrite` once its copy is open, with the taking of frames as an argument: the number of frames is then never computed in
the proofs below. -/
def State.bulkInto (u : State) (framed : BuddyCopy → Nat → Option (BuddyCopy × State)) (p : Packet) (header : Bool) (off : Nat) : State :=
  match u.fab.buddies.find? fun b => b.job = p.job ∧ b.src = p.src ∧ !b.complete with
  | none => u.refusePacket p 0x0006
  | some b =>
    let at_ := copyAt header off
    let need := ceilDiv (at_ + p.len) frameBytes - b.frames.length
    match framed b need with
    | none => u.refusePacket p 0x0006
    | some (b', v) =>
      let b' := if header then { b' with gotHead := b'.gotHead ++ [off / 1024] }
        else { b' with length := max b'.length (off + p.len), got := b'.got ++ [off / 1024] }
      let w := (v.modBuddies fun l => l.map fun x => if x = b then b' else x).copyWrite b' at_ p.payload
      (w.closeCopy b').respond p pkBulkAck []

theorem bulkWrite_eq (s : State) (p : Packet) : s.bulkWrite p =
    let off := field p.dpa 33 0 * 1024
    let u := s.openCopy p.job p.src (bit p.dpa 40) (off / 1024)
    u.bulkInto u.copyFrames p (bit p.dpa 40) off := rfl

section BulkWrite
variable {u : State} {framed : BuddyCopy → Nat → Option (BuddyCopy × State)} {header : Bool} {off : Nat}
  (hb : u.openCopyOf p = some b)
include hb

theorem bulkInto_of_no_frame (hf : framed b (ceilDiv (copyAt header off + p.len) frameBytes - b.frames.length) = none) :
    u.bulkInto framed p header off = u.refusePacket p 0x0006 := by
  simp only [State.bulkInto, hb, hf]

theorem bulkInto_of_frames {b' : BuddyCopy} {v : State}
    (hf : framed b (ceilDiv (copyAt header off + p.len) frameBytes - b.frames.length) = some (b', v)) :
    u.bulkInto framed p header off =
      let c := b'.withPiece header off p.len
      let w := (v.modBuddies fun l => l.map fun x => if x = b then c else x).copyWrite c (copyAt header off) p.payload
      (w.closeCopy c).respond p pkBulkAck [] := by
  simp only [State.bulkInto, hb, hf]

end BulkWrite

theorem bulkRead_of_none (h : s.latestCopy p.job (field p.dpa 39 34) = none) : s.bulkRead p = s.refusePacket p 0x0001 := by
  simp only [State.bulkRead, h]

theorem bulkRead_of_good (h : s.latestCopy p.job (field p.dpa 39 34) = some b)
    (hgood : ∀ a ∈ b.words p.bulkOff p.len, s.badIn a 8 = false) :
    s.bulkRead p = s.respond p pkBulkData (s.copyRead b p.bulkOff p.len) := by
  have hnone : (b.words p.bulkOff p.len).find? (fun a => s.badIn a 8) = none :=
    List.find?_eq_none.2 fun a ha => by simp [hgood a ha]
  simp only [State.bulkRead, h, copyAt_eq_add, hnone]

theorem bulkRead_of_bad (h : s.latestCopy p.job (field p.dpa 39 34) = some b)
    (hbad : (b.words p.bulkOff p.len).find? (fun a => s.badIn a 8) = some a) :
    s.bulkRead p = (s.badRecord 0x0103 2 a 0xFFFF p.job).modBuddies fun l =>
      l.map fun x => if x = b then { x with complete := false } else x := by
  simp only [State.bulkRead, h, copyAt_eq_add, hbad]

/-- Settles O36, by the rules above. The layout of a BULK address and the refusal with 1 of a copy that is not there are the model's
choices (log entries 47 and 46). -/
theorem homeRequestsComplete : Obligations.HomeRequestsComplete := by
  refine ⟨fun s => ⟨fun r hr hnone => ?homeNone, fun r hr => exec_of_packetRows_none hr⟩,
    fun s p r _ hp hkind hwaits halone => arrivedOf_ne_none hp hkind hwaits halone, ?served,
    fun s p e bs => ⟨refusePacket_mem s p e, respond_mem s p pkReadData bs⟩, fun s i p a h => ?written, fun s p => exec_drain,
    ?bulkWrite, ?bulkRead⟩
  case homeNone => rw [exec_of_homeRows hr, serve_of_none hnone]
  case served =>
    intro s p r hr h u
    have hexec := exec_of_homeRows hr s
    refine ⟨fun hj => ?_, fun i hj => ⟨fun e he => ?_, fun he => ⟨not_held_of_served h hj he, fun hb => ?_, fun hb => ?_⟩⟩⟩
    · rw [hexec, serve_of_no_job h hj]
    · rw [hexec, serve_of_refused h hj he]
    · rw [hexec, serve_of_bad h hj he hb]
    · rw [hexec, serve_of_good h hj he hb]
  case written =>
    have hmem := respond_mem (s.homeWrite i p.dpa p.payload) p pkWriteAck []
    exact (congrArg (fun m : Tab Byte => m.get 0 a) hmem).trans (homeWrite_rd _ h)
  case bulkWrite =>
    intro s p h header off u copy
    have hexec := (exec_bulkWrite h).trans (congrArg Host.Outcome.next (bulkWrite_eq (s.takeArrived p) p))
    refine ⟨openCopy_open (s.takeArrived p) p header (off / 1024), fun b hb => ⟨fun hf => ?_, fun b' v hf => ?_⟩⟩
    · exact hexec.trans (congrArg Host.Outcome.next (bulkInto_of_no_frame hb hf))
    · exact hexec.trans (congrArg Host.Outcome.next (bulkInto_of_frames hb hf))
  case bulkRead =>
    intro s p h u
    have hexec := exec_bulkRead h
    exact ⟨fun hnone => hexec.trans (congrArg Host.Outcome.next (bulkRead_of_none hnone)), fun b hb =>
      ⟨fun hgood => hexec.trans (congrArg Host.Outcome.next (bulkRead_of_good hb hgood)),
        fun a hbad => hexec.trans (congrArg Host.Outcome.next (bulkRead_of_bad hb hbad))⟩⟩

end Sys2Proof.Machine
end

section
/-! O5 fails where it says that a start changes no other context's command. Each grant lets turn holders give up their turns, which caps
their D (R239), and a write of a table's default value erases the first entry of its key (`Tab.set`). In a state that lists a context
twice, at first as one that does not exist, this lays the second entry open. The statement is about every state, and does not ask that
each key is listed once (`State.tidy`). -/

namespace Sys2Proof.Machine

/-- A NOP that waits, its checks made. -/
def waitingNop : Cmd := { (default : Cmd) with desc := 0x400 * 2 ^ 20, phase := .waiting, checked := true }

/-- Context 0 of slice 0, on engine 0, its queue running with rings of 64 slots and `waitingNop` next. -/
def nopContext : Ctx := { (default : Ctx) with
  live := true
  page := { (default : Page) with ringCfg := 2 ^ 31 + 6 * 2 ^ 8 + 6 * 2 ^ 4, state := 1 }
  alloc := { (default : Alloc) with engine := some 0 }
  cmd := some waitingNop }

/-- Context 5 is listed twice, first as one that does not exist and then with a command, and holds the LC turn of engine 0. -/
def listedTwice : State :=
  let s := { State.reset with
    hif := { State.reset.hif with pasid := [2 ^ 31] }
    engines := [(0, { (default : Engine) with lc := { (default : Round) with holder := some 5 } })]
    ctxs := [(0, nopContext), (5, default), (5, { (default : Ctx) with cmd := some waitingNop })] }
  (s.setReg .sliceMap (2 ^ 63 + 8 * 2 ^ 31 + 8 * 2 ^ 8) 0).setReg .ctxPasid 0 0

theorem listedTwice_ready : listedTwice.readyCmd 0 = some (waitingNop, .nop) ∧ (listedTwice.ctx 0).alloc.engine = some 0 ∧
    listedTwice.gated 0 = false := by decide +kernel

/-- The grant of the NOP turns context 5's command from none into `waitingNop`. -/
theorem listedTwice_granted : (listedTwice.ctx 5).cmd = none ∧
    ((listedTwice.grantDma 0).yieldTurns.ctx 5).cmd = some waitingNop := by decide +kernel

/-- Refutes O5: DMA_SLOT_GRANT of context 0 on `listedTwice` meets every condition of the last clause, and changes context 5's command. -/
theorem not_placementAndGrantsComplete : ¬ Obligations.PlacementAndGrantsComplete := by
  rintro ⟨-, -, -, hdma⟩
  obtain ⟨hready, hengine, hgate⟩ := listedTwice_ready
  obtain ⟨-, hstart⟩ := hdma listedTwice 0 0 waitingNop .nop hready hengine (by decide) hgate
  obtain ⟨t, hexec, -, -, hother, -⟩ := hstart (.inl rfl)
  cases hexec
  obtain ⟨hbefore, hafter⟩ := listedTwice_granted
  have hsame := hother 5 (by decide)
  rw [hbefore, hafter] at hsame
  cases hsame

end Sys2Proof.Machine
end

section
/-! O54: the canonical form of the stores. `State.Canon` says of a state what `State.tidy` says, with a name for each store, so that
the proof for an updated state is the former proof updated in the same places. -/

namespace Sys2Proof.Machine

/-- The memory manager's tables list each key once. -/
structure Tier.Canon (t : Tier) : Prop where
  frames : t.frames.rising
  regions : t.regions.rising
  pages : t.pages.rising
  prefetch : t.prefetch.rising
  window : t.window.rising
  maps : t.maps.rising
  floors : t.floors.rising
  radioSp : t.radioSp.rising
  radioShared : t.radioShared.rising

/-- The host interface's tables list each key once. -/
structure HostIf.Canon (h : HostIf) : Prop where
  msix : h.msix.rising
  sync : h.sync.rising
  pasidShadow : h.pasidShadow.rising
  saves : h.saves.rising
  restores : h.restores.rising
  channels : h.channels.rising

/-- The fronthaul's tables list each key once. -/
structure Fronthaul.Canon (f : Fronthaul) : Prop where
  vtime : f.vtime.rising
  fec : f.fec.rising
  sent : f.sent.rising
  buckets : f.buckets.rising
  profiles : f.profiles.rising
  profileShadow : f.profileShadow.rising
  weights : f.weights.rising

/-- The pins' tables list each key once. -/
structure Pins.Canon (p : Pins) : Prop where
  edgeAt : p.edgeAt.rising
  trigNext : p.trigNext.rising
  trigEnd : p.trigEnd.rising
  caps : p.caps.rising
  capSeq : p.capSeq.rising
  capLast : p.capLast.rising
  comps : p.comps.rising

/-- The fault unit's tables list each key once. -/
structure Faults.Canon (f : Faults) : Prop where
  log : f.log.rising
  reportSeq : f.reportSeq.rising
  renewed : f.renewed.rising
  corrected : f.corrected.rising
  linksRetrained : f.linksRetrained.rising

/-- The protected part's tables list each key once. -/
structure Prot.Canon (p : Prot) : Prop where
  regs : p.regs.rising
  octs : p.octs.rising
  roleKeys : p.roleKeys.rising
  tenantKeys : p.tenantKeys.rising
  lastNonce : p.lastNonce.rising

/-- The session tables list each key once. -/
structure Mgmt.Canon (m : Mgmt) : Prop where
  sessions : m.sessions.rising
  failed : m.failed.rising

/-- The radio side's tables list each key once. -/
structure Radio.Canon (r : Radio) : Prop where
  cores : r.cores.rising
  ue : r.ue.rising
  cells : r.cells.rising
  cmds : r.cmds.rising
  cmdTag : r.cmdTag.rising
  steps : r.steps.rising
  running : r.running.rising

/-- The fabric's tables list each key once. -/
structure Fabric.Canon (f : Fabric) : Prop where
  route : f.route.rising
  streams : f.streams.rising
  ports : f.ports.rising
  jobs : f.jobs.rising
  weights : f.weights.rising

/-- The power controller's tables list each key once. -/
structure Power.Canon (p : Power) : Prop where
  setPoint : p.setPoint.rising
  stepped : p.stepped.rising
  fails : p.fails.rising

/-- The mesh route tables, in force and waiting, list each key once. -/
structure Mesh.Canon (m : Mesh) : Prop where
  routes : m.routes.rising
  next : ∀ t ∈ m.next, t.rising

/-- What `State.tidy` says, store by store. -/
structure State.Canon (s : State) : Prop where
  mem : s.mem.wf 0 = true
  host : s.host.wf 0 = true
  regs : s.regs.rising
  octs : s.octs.rising
  prot : s.prot.Canon
  ctxs : s.ctxs.rising
  engines : s.engines.rising
  tier : s.tier.Canon
  hif : s.hif.Canon
  queues : s.queues.rising
  fh : s.fh.Canon
  tbs : s.tbs.rising
  pins : s.pins.Canon
  faults : s.faults.Canon
  mgmt : s.mgmt.Canon
  radio : s.radio.Canon
  fab : s.fab.Canon
  power : s.power.Canon
  mesh : s.mesh.Canon

theorem Tier.tidy_iff_canon {t : Tier} : t.tidy ↔ t.Canon :=
  ⟨fun ⟨a, b, c, d, e, f, g, i, j⟩ => ⟨a, b, c, d, e, f, g, i, j⟩,
    fun h => ⟨h.frames, h.regions, h.pages, h.prefetch, h.window, h.maps, h.floors, h.radioSp, h.radioShared⟩⟩

theorem HostIf.tidy_iff_canon {h : HostIf} : h.tidy ↔ h.Canon :=
  ⟨fun ⟨a, b, c, d, e, f⟩ => ⟨a, b, c, d, e, f⟩,
    fun h => ⟨h.msix, h.sync, h.pasidShadow, h.saves, h.restores, h.channels⟩⟩

theorem Fronthaul.tidy_iff_canon {f : Fronthaul} : f.tidy ↔ f.Canon :=
  ⟨fun ⟨a, b, c, d, e, f, g⟩ => ⟨a, b, c, d, e, f, g⟩,
    fun h => ⟨h.vtime, h.fec, h.sent, h.buckets, h.profiles, h.profileShadow, h.weights⟩⟩

theorem Pins.tidy_iff_canon {p : Pins} : p.tidy ↔ p.Canon :=
  ⟨fun ⟨a, b, c, d, e, f, g⟩ => ⟨a, b, c, d, e, f, g⟩,
    fun h => ⟨h.edgeAt, h.trigNext, h.trigEnd, h.caps, h.capSeq, h.capLast, h.comps⟩⟩

theorem Faults.tidy_iff_canon {f : Faults} : f.tidy ↔ f.Canon :=
  ⟨fun ⟨a, b, c, d, e⟩ => ⟨a, b, c, d, e⟩,
    fun h => ⟨h.log, h.reportSeq, h.renewed, h.corrected, h.linksRetrained⟩⟩

theorem Prot.tidy_iff_canon {p : Prot} : p.tidy ↔ p.Canon :=
  ⟨fun ⟨a, b, c, d, e⟩ => ⟨a, b, c, d, e⟩,
    fun h => ⟨h.regs, h.octs, h.roleKeys, h.tenantKeys, h.lastNonce⟩⟩

theorem Radio.tidy_iff_canon {r : Radio} : r.tidy ↔ r.Canon :=
  ⟨fun ⟨a, b, c, d, e, f, g⟩ => ⟨a, b, c, d, e, f, g⟩,
    fun h => ⟨h.cores, h.ue, h.cells, h.cmds, h.cmdTag, h.steps, h.running⟩⟩

theorem Fabric.tidy_iff_canon {f : Fabric} : f.tidy ↔ f.Canon :=
  ⟨fun ⟨a, b, c, d, e⟩ => ⟨a, b, c, d, e⟩,
    fun h => ⟨h.route, h.streams, h.ports, h.jobs, h.weights⟩⟩

theorem Power.tidy_iff_canon {p : Power} : p.tidy ↔ p.Canon :=
  ⟨fun ⟨a, b, c⟩ => ⟨a, b, c⟩,
    fun h => ⟨h.setPoint, h.stepped, h.fails⟩⟩

theorem Mesh.tidy_iff_canon {m : Mesh} : m.tidy ↔ m.Canon :=
  ⟨fun ⟨a, b⟩ => ⟨a, b⟩,
    fun h => ⟨h.routes, h.next⟩⟩

theorem State.tidy_iff_canon {s : State} : s.tidy ↔ s.Canon := by
  constructor
  · rintro ⟨hm, regs, octs, prot, ctxs, engines, tier, hif, queues, fh, tbs, pins, faults, sessions, failed, radio,
      fab, power, mesh⟩
    obtain ⟨mem, host⟩ := Bool.and_eq_true_iff.mp hm
    exact ⟨mem, host, regs, octs, Prot.tidy_iff_canon.mp prot, ctxs, engines, Tier.tidy_iff_canon.mp tier,
      HostIf.tidy_iff_canon.mp hif, queues, Fronthaul.tidy_iff_canon.mp fh, tbs, Pins.tidy_iff_canon.mp pins,
      Faults.tidy_iff_canon.mp faults, ⟨sessions, failed⟩, Radio.tidy_iff_canon.mp radio,
      Fabric.tidy_iff_canon.mp fab, Power.tidy_iff_canon.mp power, Mesh.tidy_iff_canon.mp mesh⟩
  · intro h
    exact ⟨Bool.and_eq_true_iff.mpr ⟨h.mem, h.host⟩, h.regs, h.octs, Prot.tidy_iff_canon.mpr h.prot, h.ctxs,
      h.engines, Tier.tidy_iff_canon.mpr h.tier, HostIf.tidy_iff_canon.mpr h.hif, h.queues,
      Fronthaul.tidy_iff_canon.mpr h.fh, h.tbs, Pins.tidy_iff_canon.mpr h.pins, Faults.tidy_iff_canon.mpr h.faults,
      h.mgmt.sessions, h.mgmt.failed, Radio.tidy_iff_canon.mpr h.radio, Fabric.tidy_iff_canon.mpr h.fab,
      Power.tidy_iff_canon.mpr h.power, Mesh.tidy_iff_canon.mpr h.mesh⟩

/-! ### Tables -/

section
variable {α β : Type} {t : Tab α}

theorem Tab.rising_put [Inhabited α] [DecidableEq α] {k : Nat} {v : α} (h : t.rising) : (t.put k v).rising :=
  Tab.rising_set _ _ _ _ h

theorem Tab.rising_modify [Inhabited α] [DecidableEq α] {k : Nat} {f : α → α} (h : t.rising) : (t.modify k f).rising :=
  Tab.rising_put h

theorem Tab.rising_keep {p : Nat → α → Bool} (h : t.rising) : (t.keep p).rising := h.filter _

/-- New values under the same keys. -/
theorem Tab.rising_map {f : Nat × α → Nat × β} (hf : ∀ x, (f x).1 = x.1) (h : t.rising) : Tab.rising (t.map f) :=
  List.pairwise_map.mpr (h.imp fun {a b} hab => by rwa [hf a, hf b])

theorem Tab.rising_mapAll [Inhabited α] [DecidableEq α] {f : Nat → α → α} (h : t.rising) : (t.mapAll f).rising :=
  List.Pairwise.filter _ (Tab.rising_map (f := fun p => (p.1, f p.1 p.2)) (fun _ => rfl) h)

/-- A fold keeps the order of keys when each of its steps does. -/
theorem Tab.rising_foldl {f : Tab α → β → Tab α} (hf : ∀ t x, t.rising → (f t x).rising) (l : List β) (h : t.rising) :
    (l.foldl f t).rising :=
  List.foldlRecOn (motive := Tab.rising) l f h fun t ht x _ => hf t x ht

end

/-! ### Updates of one part of the state -/

section
variable {s : State}

theorem State.Canon.setTier {x : Tier} (h : s.Canon) (hx : s.tier.Canon → x.Canon) : ({ s with tier := x } : State).Canon :=
  { h with tier := hx h.tier }

theorem State.Canon.setHif {x : HostIf} (h : s.Canon) (hx : s.hif.Canon → x.Canon) : ({ s with hif := x } : State).Canon :=
  { h with hif := hx h.hif }

theorem State.Canon.setFh {x : Fronthaul} (h : s.Canon) (hx : s.fh.Canon → x.Canon) : ({ s with fh := x } : State).Canon :=
  { h with fh := hx h.fh }

theorem State.Canon.setPins {x : Pins} (h : s.Canon) (hx : s.pins.Canon → x.Canon) : ({ s with pins := x } : State).Canon :=
  { h with pins := hx h.pins }

theorem State.Canon.setFaults {x : Faults} (h : s.Canon) (hx : s.faults.Canon → x.Canon) : ({ s with faults := x } : State).Canon :=
  { h with faults := hx h.faults }

theorem State.Canon.setProt {x : Prot} (h : s.Canon) (hx : s.prot.Canon → x.Canon) : ({ s with prot := x } : State).Canon :=
  { h with prot := hx h.prot }

theorem State.Canon.setMgmt {x : Mgmt} (h : s.Canon) (hx : s.mgmt.Canon → x.Canon) : ({ s with mgmt := x } : State).Canon :=
  { h with mgmt := hx h.mgmt }

theorem State.Canon.setRadio {x : Radio} (h : s.Canon) (hx : s.radio.Canon → x.Canon) : ({ s with radio := x } : State).Canon :=
  { h with radio := hx h.radio }

theorem State.Canon.setFab {x : Fabric} (h : s.Canon) (hx : s.fab.Canon → x.Canon) : ({ s with fab := x } : State).Canon :=
  { h with fab := hx h.fab }

theorem State.Canon.setPower {x : Power} (h : s.Canon) (hx : s.power.Canon → x.Canon) : ({ s with power := x } : State).Canon :=
  { h with power := hx h.power }

theorem State.Canon.setBoot {x : Boot} (h : s.Canon) : ({ s with boot := x } : State).Canon := { h with }

theorem State.Canon.setFree {n : Nat} (h : s.Canon) : ({ s with free := n } : State).Canon := { h with }

end

/-! ### Choices, folds and answers -/

section
variable {s t : State}

theorem State.Canon.ite {c : Prop} [Decidable c] (hs : s.Canon) (ht : t.Canon) : (if c then s else t).Canon := by
  split
  · exact hs
  · exact ht

theorem State.Canon.foldl {α : Type} {f : State → α → State} (hf : ∀ s x, s.Canon → (f s x).Canon) (l : List α)
    (h : s.Canon) :
    (l.foldl f s).Canon :=
  List.foldlRecOn (motive := State.Canon) l f h fun t ht x _ => hf t x ht

/-- The state of a pair that is taken apart by a match. -/
theorem State.Canon.of_snd {α : Type} {p : α × State} {a : α} (h : p.2.Canon) (e : p = (a, s)) : s.Canon := by
  rwa [e] at h

/-- A rule that may turn a write away answers, where it does not, a state in canonical form. -/
def CanonOk (x : Except Nat State) : Prop := ∀ t, x = .ok t → t.Canon

theorem CanonOk.ok (h : s.Canon) : CanonOk (.ok s) := fun _ e => by
  cases e
  exact h

theorem CanonOk.error {e : Nat} : CanonOk (.error e) := fun _ h => by cases h

theorem CanonOk.ite {c : Prop} [Decidable c] {x y : Except Nat State} (hx : CanonOk x) (hy : CanonOk y) :
    CanonOk (if c then x else y) := by
  split
  · exact hx
  · exact hy

/-- An operation that may answer no state answers, where it does, one in canonical form. -/
def CanonSome (x : Option State) : Prop := ∀ t, x = some t → t.Canon

theorem CanonSome.some (h : s.Canon) : CanonSome (.some s) := fun _ e => by
  cases e
  exact h

theorem CanonSome.none : CanonSome .none := fun _ h => by cases h

theorem CanonSome.ite {c : Prop} [Decidable c] {x y : Option State} (hx : CanonSome x) (hy : CanonSome y) :
    CanonSome (if c then x else y) := by
  split
  · exact hx
  · exact hy

theorem CanonSome.getD {x : Option State} (hx : CanonSome x) (h : s.Canon) : (x.getD s).Canon := by
  cases x with
  | none => exact h
  | some t => exact hx t rfl

/-- The next state of a command is in canonical form. -/
def CanonNext (o : Out) : Prop := ∀ t, o = .next t → t.Canon

theorem CanonNext.next (h : s.Canon) : CanonNext (.next s) := fun _ e => by
  cases e
  exact h

theorem CanonNext.ite {c : Prop} [Decidable c] {x y : Out} (hx : CanonNext x) (hy : CanonNext y) :
    CanonNext (if c then x else y) := by
  split
  · exact hx
  · exact hy

end

end Sys2Proof.Machine
end

section
/-! O54: every operation keeps the stores canonical, one lemma for each, in the order of the model's files. The name is the operation's
under `State.Canon`; `execFoo_canon` is the lemma of a command. -/

namespace Sys2Proof.Machine

section
variable {s : State}

/-! ### Machine/State.lean -/

theorem State.Canon.reset : State.reset.Canon :=
  ⟨rfl, rfl, .nil, .nil, ⟨.nil, .nil, .nil, .nil, .nil⟩, .nil, .nil, ⟨.nil, .nil, .nil, .nil, .nil, .nil, .nil, .nil, .nil⟩,
    ⟨.nil, .nil, .nil, .nil, .nil, .nil⟩, .nil, ⟨.nil, .nil, .nil, .nil, .nil, .nil, .nil⟩, .nil,
    ⟨.nil, .nil, .nil, .nil, .nil, .nil, .nil⟩, ⟨.nil, .nil, .nil, .nil, .nil⟩, ⟨.nil, .nil⟩,
    ⟨.nil, .nil, .nil, .nil, .nil, .nil, .nil⟩, ⟨.nil, .nil, .nil, .nil, .nil⟩, ⟨.nil, .nil, .nil⟩, ⟨.nil, nofun⟩⟩

/-! ### Machine/Ops.lean -/

theorem State.Canon.setReg {r : Reg} {v i : Nat} (h : s.Canon) : (s.setReg r v i).Canon := by
  unfold State.setReg
  split
  · exact { h with prot := { h.prot with regs := Tab.rising_set _ _ _ _ h.prot.regs } }
  · exact { h with regs := Tab.rising_set _ _ _ _ h.regs }

theorem State.Canon.setRegI {r : Reg} {v : Int} {i : Nat} (h : s.Canon) : (s.setRegI r v i).Canon :=
  h.setReg

theorem State.Canon.bump {r : Reg} {i n : Nat} (h : s.Canon) : (s.bump r i n).Canon :=
  h.setReg

theorem State.Canon.bumpIf {b : Bool} {r : Reg} {i n : Nat} (h : s.Canon) : (s.bumpIf b r i n).Canon :=
  .ite h.bump h

theorem State.Canon.setOct {r : Reg} {v : Bytes} {i : Nat} (h : s.Canon) : (s.setOct r v i).Canon := by
  unfold State.setOct
  split
  · exact { h with prot := { h.prot with octs := Tab.rising_set _ _ _ _ h.prot.octs } }
  · exact { h with octs := Tab.rising_set _ _ _ _ h.octs }

theorem State.Canon.draw {α : Type} {f : Nat → α} (h : s.Canon) : (s.draw f).2.Canon :=
  { h with }

theorem State.Canon.choose {l : List Nat} (h : s.Canon) : (s.choose l).2.Canon :=
  { h with }

theorem State.Canon.random {n : Nat} (h : s.Canon) : (s.random n).2.Canon :=
  { h with }

theorem State.Canon.wr {a : Nat} {b : Byte} (h : s.Canon) : (s.wr a b).Canon :=
  { h with mem := Tab.wf_set _ _ _ _ h.mem }

theorem State.Canon.wrRun {a : Nat} {bs : Bytes} (h : s.Canon) : (s.wrRun a bs).Canon :=
  { h with mem := Tab.wf_setRun _ _ _ _ h.mem }

theorem State.Canon.clear {a n : Nat} (h : s.Canon) : (s.clear a n).Canon :=
  { h with mem := Tab.wf_keep 0 s.mem (fun k _ => decide (k < a) || decide (a + n ≤ k)) h.mem }

theorem State.Canon.copyRange {a to_ n : Nat} (h : s.Canon) : (s.copyRange a to_ n).Canon := by
  have hc : (s.clear to_ n).Canon := h.clear
  exact { hc with mem := Tab.wf_foldl_set _ _ _ _ _ hc.mem }

theorem State.Canon.hostWr {pasid iova : Nat} {bs : Bytes} (h : s.Canon) : (s.hostWr pasid iova bs).Canon :=
  { h with host := Tab.wf_setRun _ _ _ _ h.host }

theorem State.Canon.setCtx {c : Nat} {x : Ctx} (h : s.Canon) : (s.setCtx c x).Canon :=
  { h with ctxs := Tab.rising_put h.ctxs }

theorem State.Canon.modCtx {c : Nat} {f : Ctx → Ctx} (h : s.Canon) : (s.modCtx c f).Canon :=
  h.setCtx

theorem State.Canon.modPage {c : Nat} {f : Page → Page} (h : s.Canon) : (s.modPage c f).Canon :=
  h.modCtx

theorem State.Canon.modAlloc {c : Nat} {f : Alloc → Alloc} (h : s.Canon) : (s.modAlloc c f).Canon :=
  h.modCtx

theorem State.Canon.modWanted {c : Nat} {f : Wanted → Wanted} (h : s.Canon) : (s.modWanted c f).Canon :=
  h.modCtx

theorem State.Canon.modEngine {e : Nat} {f : Engine → Engine} (h : s.Canon) : (s.modEngine e f).Canon :=
  { h with engines := Tab.rising_modify h.engines }

theorem State.Canon.setSliceState {n v : Nat} (h : s.Canon) : (s.setSliceState n v).Canon :=
  h.setReg

theorem State.Canon.setSync {n k v : Nat} (h : s.Canon) : (s.setSync n k v).Canon :=
  { h with hif := { h.hif with sync := Tab.rising_set _ _ _ _ h.hif.sync } }

theorem State.Canon.msixWrite {i v : Nat} (h : s.Canon) : (s.msixWrite i v).Canon :=
  .ite { h with hif := { h.hif with msix := Tab.rising_set _ _ _ _ h.hif.msix } }
    { h with hif := { h.hif with msix := Tab.rising_set _ _ _ _ h.hif.msix } }

theorem State.Canon.bar2Write {off : Nat} {value : W32} (h : s.Canon) : (s.bar2Write off value).Canon :=
  .ite h (.ite (.ite h { h with hif := { h.hif with } }) (.ite (.ite { h with hif :=
    { h.hif with channels := Tab.rising_put h.hif.channels } } (.ite { h with hif :=
    { h.hif with channels := Tab.rising_put h.hif.channels } } h)) (.ite h.msixWrite h)))

theorem State.Canon.hostStore {w : HostWrite} (h : s.Canon) : (s.hostStore w).Canon := by
  unfold State.hostStore
  split
  · exact h.hostWr
  · exact h.bar2Write

theorem State.Canon.hostPut {ws : List HostWrite} (h : s.Canon) : (s.hostPut ws).Canon :=
  h.foldl (fun _ _ h => h.hostStore) _

theorem State.Canon.raiseVector {v : Nat} (h : s.Canon) : (s.raiseVector v).Canon :=
  .ite { h with hif := { h.hif with } } { h with hif := { h.hif with } }

theorem State.Canon.modTb {n : Nat} {f : TimeBase → TimeBase} (h : s.Canon) : (s.modTb n f).Canon :=
  { h with tbs := Tab.rising_modify h.tbs }

theorem State.Canon.modCell {c : Nat} {f : Cell → Cell} (h : s.Canon) : (s.modCell c f).Canon :=
  { h with radio := { h.radio with cells := Tab.rising_modify h.radio.cells } }

theorem State.Canon.modCore {n : Nat} {f : DspCore → DspCore} (h : s.Canon) : (s.modCore n f).Canon :=
  { h with radio := { h.radio with cores := Tab.rising_modify h.radio.cores } }

theorem State.Canon.setSess {n : Nat} {x : Session} (h : s.Canon) : (s.setSess n x).Canon :=
  { h with mgmt := { h.mgmt with sessions := Tab.rising_set _ _ _ _ h.mgmt.sessions } }

theorem State.Canon.modSess {n : Nat} {f : Session → Session} (h : s.Canon) : (s.modSess n f).Canon :=
  h.setSess

theorem State.Canon.setSreg {n : Nat} {r : Reg} {v i : Nat} (h : s.Canon) : (s.setSreg n r v i).Canon :=
  h.modSess

/-! ### Machine/Queue.lean -/

theorem State.Canon.setQueue {q : Nat} {x : Queue} (h : s.Canon) : (s.setQueue q x).Canon :=
  { h with queues := Tab.rising_put h.queues }

theorem State.Canon.modQueue {q : Nat} {f : Queue → Queue} (h : s.Canon) : (s.modQueue q f).Canon :=
  h.setQueue

theorem State.Canon.usedBy {q core : Nat} (h : s.Canon) : (s.usedBy q core).Canon :=
  h.modQueue

theorem State.Canon.sendOn {port : Nat} {dest bs : Bytes} (h : s.Canon) : (s.sendOn port dest bs).Canon :=
  { h with mgmt := { h.mgmt with } }

theorem State.Canon.sessionFrame {n type : Nat} {payload : Bytes} (h : s.Canon) : (s.sessionFrame n type payload).2.Canon :=
  h.setSess

theorem State.Canon.raiseMailbox (h : s.Canon) : s.raiseMailbox.Canon :=
  .ite h h.raiseVector

theorem State.Canon.noticeSession {n depth : Nat} (h : s.Canon) : (s.noticeSession n depth).Canon := by
  unfold State.noticeSession
  refine .ite h (.ite h.raiseMailbox ?_)
  split
  next e => exact (h.sessionFrame.of_snd e).sendOn

theorem State.Canon.qIgnore {q code : Nat} (h : s.Canon) : (s.qIgnore q code).Canon :=
  h.bump.setReg

theorem State.Canon.regionWrite {n off : Nat} {bs : Bytes} (h : s.Canon) : (s.regionWrite n off bs).Canon := by
  induction bs generalizing s off with
  | nil => exact h
  | cons b bs ih =>
    dsimp only [State.regionWrite]
    refine ih ?_
    split
    · exact h.wr
    · exact h

theorem State.Canon.coreEvent {core type : Nat} (h : s.Canon) : (s.coreEvent core type).Canon :=
  h.modCore

theorem State.Canon.noticeBare {q bitNo : Nat} (h : s.Canon) : (s.noticeBare q bitNo).Canon := by
  dsimp only [State.noticeBare]
  split
  · exact h.setReg.coreEvent
  · exact .ite h.setReg.raiseVector h.setReg.bump
  · exact .ite h.setReg.noticeSession h.setReg
  · exact h.setReg

theorem State.Canon.levelRearm {q : Nat} (h : s.Canon) : (s.levelRearm q).Canon := by
  unfold State.levelRearm
  exact h.modQueue

theorem State.Canon.serviceStore {q : Nat} {i : W32} {ws : List QWord} (h : s.Canon) : (s.serviceStore q i ws).Canon :=
  (h.foldl (fun _ _ ht => ht.regionWrite) _).regionWrite

theorem State.Canon.qCommit {q : Nat} {ws : List QWord} (h : s.Canon) : (s.qCommit q ws).Canon :=
  .setQueue (.ite h.serviceStore h)

theorem State.Canon.qSync {q : Nat} (h : s.Canon) : (s.qSync q).Canon :=
  .ite (.ite h h.modQueue.levelRearm) h

theorem State.Canon.syncServices (h : s.Canon) : s.syncServices.Canon :=
  h.foldl (fun _ _ h => .ite h.qSync h) _

theorem State.Canon.putRead {q : Nat} (h : s.Canon) : (s.putRead q).Canon :=
  .ite h.regionWrite h

theorem State.Canon.qProduce {q tag : Nat} {item : Bytes} {bad : Bool} (h : s.Canon) : (s.qProduce q tag item bad).2.Canon := by
  dsimp only [State.qProduce]
  split
  · exact h.qSync.qIgnore
  · split
    · dsimp only
      exact h.qSync.bump
    · dsimp only
      exact h.qSync.qCommit

theorem State.Canon.eventChain {fuel n type index sub selector detail : Nat} {time : Option Nat} (h : s.Canon) :
    (State.eventChain fuel s n type index sub selector detail time).Canon := by
  induction fuel generalizing s n type index sub selector detail time with
  | zero => exact h
  | succ fuel ih =>
    dsimp only [State.eventChain]
    refine .ite h (.ite h.qProduce.modSess.setSreg (.ite h.qProduce.modSess.levelRearm ?_))
    split
    · exact ih h.qProduce.modSess.modQueue.noticeBare
    · exact h.qProduce.modSess.modQueue.noticeBare

theorem State.Canon.eventTo {n type index sub selector detail : Nat} {time : Option Nat} (h : s.Canon) :
    (s.eventTo n type index sub selector detail time).Canon :=
  h.eventChain

theorem State.Canon.event {type index sub selector detail : Nat} {time : Option Nat} (h : s.Canon) :
    (s.event type index sub selector detail time).Canon :=
  h.foldl (fun _ _ h => h.eventTo) _

theorem State.Canon.notice {q bitNo : Nat} (h : s.Canon) : (s.notice q bitNo).Canon := by
  dsimp only [State.notice]
  split
  · exact h.noticeBare.eventTo
  · exact h.noticeBare

theorem State.Canon.level {q : Nat} (h : s.Canon) : (s.level q).Canon :=
  .ite h.modQueue.notice h.levelRearm

theorem State.Canon.qPush {q tag : Nat} {item : Bytes} {bad : Bool} (h : s.Canon) : (s.qPush q tag item bad).2.Canon := by
  unfold State.qPush
  split
  next e => exact .ite ((h.qProduce.of_snd e).level) (h.qProduce.of_snd e)

theorem State.Canon.qRead {q n : Nat} (h : s.Canon) : (s.qRead q n).Canon :=
  .ite h.qIgnore (.ite h.qIgnore h.modQueue.putRead.level)

theorem State.Canon.qReleaseTo {q : Nat} {i : W32} (h : s.Canon) : (s.qReleaseTo q i).Canon :=
  .ite h.qIgnore (.ite h.qIgnore (.ite h.qIgnore (.ite h.setQueue h.setQueue)))

theorem State.Canon.qMarkNow {q : Nat} (h : s.Canon) : (s.qMarkNow q).Canon :=
  .ite h.qIgnore (.ite h.qIgnore h.modQueue)

theorem State.Canon.qRewind {q : Nat} (h : s.Canon) : (s.qRewind q).Canon :=
  .ite h.qIgnore (.ite h.qIgnore (.ite h.qIgnore h.modQueue.putRead.level))

theorem State.Canon.rewindQueues {core : Nat} (h : s.Canon) : (s.rewindQueues core).Canon :=
  h.foldl (fun _ _ h => h.qRewind) _

theorem State.Canon.qFlush {q : Nat} (h : s.Canon) : (s.qFlush q).Canon :=
  .ite h.qIgnore h.bump.setQueue.putRead

theorem State.Canon.qSetRecovery {q : Nat} {on : Bool} (h : s.Canon) : (s.qSetRecovery q on).Canon :=
  .ite h h.setReg.modQueue

theorem State.Canon.qEnable {q : Nat} (h : s.Canon) : (s.qEnable q).Canon :=
  .ite h.setQueue.regionWrite h.setQueue

theorem State.Canon.foldReport {f : FaultRec} (h : s.Canon) : (s.foldReport f).Canon :=
  .ite (.bump { h with faults := { h.faults with } }) (.ite { h with faults := { h.faults with } } h.bump)

theorem State.Canon.raise {f : FaultRec} (h : s.Canon) : (s.raise f).Canon :=
  .foldReport (.setReg { h with faults := { h.faults with log := Tab.rising_put h.faults.log } })

theorem State.Canon.fault {code severity kind unit context data : Nat} (h : s.Canon) :
    (s.fault code severity kind unit context data).Canon :=
  h.raise

/-! ### Machine/Identity.lean -/

theorem State.Canon.flashWr {d off : Nat} {bs : Bytes} (h : s.Canon) : (s.flashWr d off bs).Canon :=
  { h with }

theorem State.Canon.flashErase {d off n : Nat} (h : s.Canon) : (s.flashErase d off n).Canon :=
  { h with }

theorem State.Canon.report {m : Nat} {words : List Nat} (h : s.Canon) : (s.report m words).Canon :=
  .ite h h.bump.sendOn

/-! ### Machine/Alloc.lean -/

theorem State.Canon.pickStart {k : Nat} {gs : List (Nat × Nat)} (h : s.Canon) : (s.pickStart k gs).2.Canon := by
  dsimp only [State.pickStart]
  split
  · exact h
  · exact { h with }

theorem State.Canon.setFrame {f : Nat} {u : FrameUse} (h : s.Canon) : (s.setFrame f u).Canon :=
  { h with tier := { h.tier with frames := Tab.rising_put h.tier.frames } }

theorem State.Canon.badRecord {code severity a context job : Nat} (h : s.Canon) :
    (s.badRecord code severity a context job).Canon := by
  unfold State.badRecord
  split
  · exact h.bump.raise

theorem State.Canon.dropBad {w : Nat} (h : s.Canon) : (s.dropBad w).Canon :=
  { h with tier := { h.tier with } }

theorem State.Canon.healRange {a n : Nat} (h : s.Canon) : (s.healRange a n).Canon :=
  { h with tier := { h.tier with } }

theorem State.Canon.retireGranules {a n : Nat} (h : s.Canon) : (s.retireGranules a n).Canon :=
  { h with tier := { h.tier with } }

theorem State.Canon.freeUnits {a unit k : Nat} (h : s.Canon) : (s.freeUnits a unit k).Canon := by
  induction k with
  | zero => exact h
  | succ k ih =>
    dsimp only [State.freeUnits]
    exact .ite (.ite ih.draw.clear.retireGranules.bump ih.draw.clear.healRange) ih.clear

theorem State.Canon.freeFrame {f : Nat} (h : s.Canon) : (s.freeFrame f).Canon := by
  unfold State.freeFrame
  refine .ite ?_ h.clear.setFrame
  split
  next e => exact .ite ((((h.draw.of_snd e).clear).setFrame).bump) ((((h.draw.of_snd e).clear).healRange).setFrame)

theorem State.Canon.ctxPut {c t off : Nat} {b : Byte} (h : s.Canon) : (s.ctxPut c t off b).Canon := by
  unfold State.ctxPut
  split
  · split
    · exact h.wr
    · exact h
  · split
    · exact h.wr
    · exact h
  · split
    · split
      · exact h.wr
      · exact h
    · exact h
  · exact { h with host := Tab.wf_set _ _ _ _ h.host }
  · exact h

theorem State.Canon.ctxPutRun {c t off : Nat} {bs : Bytes} (h : s.Canon) : (s.ctxPutRun c t off bs).Canon := by
  induction bs generalizing s off with
  | nil => exact h
  | cons b bs ih => exact ih h.ctxPut

/-! ### Machine/Mesh.lean -/

theorem State.Canon.routeOf {dist : Tab Nat} {r d : Nat} (h : s.Canon) : (s.routeOf dist r d).2.Canon := by
  unfold State.routeOf
  split
  · exact h
  · split
    · exact h
    · split
      next e => exact h.choose.of_snd e
      next e => exact h.choose.of_snd e

/-- The tables that the hub works out, and the state that its choices leave. -/
theorem State.Canon.routeTables (h : s.Canon) : s.routeTables.1.rising ∧ s.routeTables.2.Canon := by
  refine List.foldlRecOn (motive := fun q : Tab Nat × State => q.1.rising ∧ q.2.Canon) _ _ ⟨.nil, h⟩ fun q hq d _ => ?_
  exact List.foldlRecOn (motive := fun q : Tab Nat × State => q.1.rising ∧ q.2.Canon) _ _ hq fun q ⟨ht, hs⟩ r _ =>
    ⟨Tab.rising_set _ _ _ _ ht, hs.routeOf⟩

theorem State.Canon.startRoutes (h : s.Canon) : s.startRoutes.Canon :=
  { h.routeTables.2 with mesh := ⟨h.routeTables.1, nofun⟩ }

theorem State.Canon.meshSettle (h : s.Canon) : s.meshSettle.Canon := by
  unfold State.meshSettle
  split
  next t e => exact .ite h (.bump { h with mesh := ⟨h.mesh.next t e, nofun⟩ })
  · exact h

theorem State.Canon.meshSwitch (h : s.Canon) : s.meshSwitch.Canon := by
  obtain ⟨ht, hs⟩ := h.routeTables
  unfold State.meshSwitch
  exact .meshSettle { hs with mesh := ⟨hs.mesh.routes, fun _ e => by cases e; exact ht⟩ }

/-! ### Machine/Dict.lean -/

theorem State.Canon.ignoreWrite {n idx sub reason : Nat} (h : s.Canon) : (s.ignoreWrite n idx sub reason).Canon :=
  .ite (.setSreg (.setSreg (.setReg (.setReg (.bump (.ite h.bump.setReg h)))))) (.setReg (.setReg (.bump (.ite h.bump.setReg h))))

theorem State.Canon.byRules {r : Reg} {v : Nat} {op : State → Except Nat State} (hop : CanonOk (op s)) :
    CanonOk (s.byRules r v op) := by
  unfold State.byRules
  refine .ite .error (.ite ?_ hop)
  split
  · exact .error
  · exact .error

theorem State.Canon.take {n idx sub : Nat} {x : Except Nat State} (h : s.Canon) (hx : CanonOk x) : (s.take n idx sub x).Canon :=
    by
  cases x with
  | ok t => exact hx t rfl
  | error e => exact h.ignoreWrite

theorem State.Canon.answer {n : Nat} {payload : Bytes} (h : s.Canon) : (s.answer n payload).Canon := by
  dsimp only [State.answer]
  refine .ite h ?_
  split
  · exact .raiseMailbox (.setHif h.modSess.sessionFrame fun k => { k with })
  · exact h.modSess.sessionFrame.sendOn.bump

theorem State.Canon.answerWrite {n ty : Nat} (h : s.Canon) : (s.answerWrite n ty).Canon :=
  h.answer

theorem State.Canon.write {n : Nat} {r : Reg} {fam v : Nat} {op : State → Except Nat State} (h : s.Canon) (hop : CanonOk (op s)) :
    (s.write n r fam v op).Canon := by
  unfold State.write
  refine .ite h ?_
  split
  · exact h.ignoreWrite.answerWrite
  · exact (h.take (State.Canon.byRules hop)).answerWrite

theorem State.Canon.writeOctets {n : Nat} {r : Reg} {fam : Nat} {v : Bytes} {op : State → Except Nat State} (h : s.Canon)
    (hop : CanonOk (op s)) : (s.writeOctets n r fam v op).Canon := by
  unfold State.writeOctets
  refine .ite h (.ite h.answer ?_)
  split
  · exact h.ignoreWrite.answerWrite
  · exact (h.take hop).answerWrite

/-! ### Machine/FabCore.lean -/

theorem State.Canon.modJob {i : Nat} {f : JobEntry → JobEntry} (h : s.Canon) : (s.modJob i f).Canon :=
  { h with fab := { h.fab with jobs := Tab.rising_modify h.fab.jobs } }

theorem State.Canon.setPort {p : Nat} {x : Port} (h : s.Canon) : (s.setPort p x).Canon :=
  { h with fab := { h.fab with ports := Tab.rising_put h.fab.ports } }

theorem State.Canon.tickPort {n : Nat} (h : s.Canon) : (s.tickPort n).Canon :=
  .ite h h.setPort

theorem State.Canon.linkTick (h : s.Canon) : s.linkTick.Canon :=
  .ite (h.foldl (fun _ _ h => h.tickPort) _) ((h.foldl (fun _ _ h => h.tickPort) _).bump)

theorem State.Canon.transmit {n : Nat} {x : Port} {ps : List Packet} (h : s.Canon) : (s.transmit n x ps).Canon :=
  .ite h.setPort (.bump (.setPort { h with fab := { h.fab with } }))

theorem State.Canon.flushPort {n : Nat} (h : s.Canon) : (s.flushPort n).Canon := by
  unfold State.flushPort
  refine .ite h ?_
  split
  · exact .transmit { h with fab := { h.fab with } }

theorem State.Canon.flushFabric (h : s.Canon) : s.flushFabric.Canon :=
  .ite h (h.foldl (fun _ _ h => h.flushPort) _)

theorem State.Canon.hand {p : Packet} (h : s.Canon) : (s.hand p).Canon :=
  .ite { h with fab := { h.fab with } } (.flushFabric { h with fab := { h.fab with } })

theorem State.Canon.request {what : SentFor} {dest job kind dpa len : Nat} {payload : Bytes} {dclass : Nat} (h : s.Canon) :
    (s.request what dest job kind dpa len payload dclass).Canon := by
  unfold State.request
  refine .hand { h with fab := { h.fab with streams := ?_ } }
  dsimp only
  exact Tab.rising_put h.fab.streams

theorem State.Canon.respond {r : Packet} {kind : Nat} {payload : Bytes} (h : s.Canon) : (s.respond r kind payload).Canon :=
  h.hand

theorem State.Canon.refusePacket {r : Packet} {reason : Nat} (h : s.Canon) : (s.refusePacket r reason).Canon :=
  h.bump.respond

theorem State.Canon.mark {p : Packet} (h : s.Canon) : (s.mark p).Canon :=
  .flushFabric { h with fab := { h.fab with streams := Tab.rising_put h.fab.streams } }

/-! ### Machine/Loam.lean -/

theorem State.Canon.touchPages {n : Nat} {ps : List Nat} (h : s.Canon) : (s.touchPages n ps).Canon :=
  { h with tier := { h.tier with pages := Tab.rising_map (fun _ => by split <;> rfl) h.tier.pages } }

theorem State.Canon.askFetch {n p e : Nat} {cs : List Nat} {again : Bool} (h : s.Canon) : (s.askFetch n p e cs again).Canon :=
  { h with tier := { h.tier with } }

theorem State.Canon.dropPage {f : Nat} (h : s.Canon) : (s.dropPage f).Canon :=
  .ite (.ite (.bump (.setFrame { h with tier := { h.tier with pages := Tab.rising_erase _ _ h.tier.pages } }))
    { h with tier := { h.tier with pages := Tab.rising_erase _ _ h.tier.pages } })
    (.askFetch (.ite (.bump (.setFrame { h with tier := { h.tier with pages := Tab.rising_erase _ _ h.tier.pages } }))
    { h with tier := { h.tier with pages := Tab.rising_erase _ _ h.tier.pages } }))

theorem State.Canon.freePoolFrame {n : Nat} (h : s.Canon) : (s.freePoolFrame n).2.Canon := by
  dsimp only [State.freePoolFrame]
  split
  · exact h.pickStart
  · exact h

theorem State.Canon.takeFrame {n k : Nat} (h : s.Canon) : (s.takeFrame n k).2.Canon := by
  induction k generalizing s with
  | zero => exact h
  | succ k ih =>
    dsimp only [State.takeFrame]
    split
    next e => exact h.freePoolFrame.of_snd e
    next e =>
      split
      · split
        · exact ih (h.freePoolFrame.of_snd e).dropPage.bump
        · dsimp only
          exact (h.freePoolFrame.of_snd e).dropPage.bump
      · exact h.freePoolFrame.of_snd e

theorem State.Canon.prefetchFrame {n k : Nat} (h : s.Canon) : (s.prefetchFrame n k).2.Canon := by
  induction k generalizing s with
  | zero => exact h
  | succ k ih =>
    dsimp only [State.prefetchFrame]
    split
    next e => exact h.freePoolFrame.of_snd e
    next e =>
      split
      · split
        · exact ih (h.freePoolFrame.of_snd e).dropPage.bump
        · dsimp only
          exact (h.freePoolFrame.of_snd e).dropPage.bump
      · exact h.freePoolFrame.of_snd e

theorem State.Canon.giveFrame {i k : Nat} (h : s.Canon) : (s.giveFrame i k).Canon :=
  { h with tier := { h.tier with } }

theorem State.Canon.frameFor {drops : Bool} {f : Fetch} (h : s.Canon) : (s.frameFor drops f).2.Canon := by
  unfold State.frameFor
  split
  · exact h.freePoolFrame
  · split
    · exact h.prefetchFrame
    · exact h.takeFrame

theorem State.Canon.fillFetches {drops : Bool} {k i : Nat} (h : s.Canon) : (s.fillFetches drops k i).Canon := by
  induction k generalizing s i with
  | zero => exact h
  | succ k ih =>
    dsimp only [State.fillFetches]
    split
    · exact h
    · refine .ite (ih h) ?_
      split
      next e1 => exact ih (h.frameFor.of_snd e1).giveFrame
      next e1 => exact ih (h.frameFor.of_snd e1)

theorem State.Canon.refillFetches {drops : Bool} (h : s.Canon) : (s.refillFetches drops).Canon :=
  h.fillFetches

theorem State.Canon.demandFetch {n p e : Nat} {cs : List Nat} {again : Bool} (h : s.Canon) :
    (s.demandFetch n p e cs again).Canon :=
  h.askFetch.refillFetches

theorem State.Canon.sweepStale {n : Nat} (h : s.Canon) : (s.sweepStale n).Canon :=
  h.foldl (fun _ _ h => h.dropPage) _

theorem State.Canon.sweepOver {n k : Nat} (h : s.Canon) : (s.sweepOver n k).Canon := by
  induction k generalizing s with
  | zero => exact h
  | succ k ih =>
    dsimp only [State.sweepOver]
    refine .ite ?_ h
    split
    · exact ih h.dropPage
    · exact h

theorem State.Canon.sweepLoam {n : Nat} (h : s.Canon) : (s.sweepLoam n).Canon :=
  { h with tier := { h.tier with } }

theorem State.Canon.stopPrefetch (h : s.Canon) : s.stopPrefetch.Canon :=
  { h with tier := { h.tier with prefetch := Tab.rising_foldl (fun _ _ ht => Tab.rising_set _ _ _ _ ht) _ h.tier.prefetch } }

theorem State.Canon.switchMap {n : Nat} (h : s.Canon) : (s.switchMap n).Canon := by
  unfold State.switchMap
  split
  · exact h
  · exact .sweepLoam (.bump (.foldl (fun _ _ h => h.modCtx) _ { h with tier := { h.tier with maps := Tab.rising_put h.tier.maps }
      }))

theorem State.Canon.takeMap {c : Nat} (h : s.Canon) : (s.takeMap c).Canon := by
  unfold State.takeMap
  refine .modCtx ?_
  split
  · exact h.switchMap
  · exact h

theorem State.Canon.settleLoam (h : s.Canon) : s.settleLoam.Canon :=
  .ite h (.stopPrefetch (.refillFetches (.foldl (fun _ _ ht => ht.sweepStale.sweepOver) _ { h with tier := { h.tier with } })))

theorem State.Canon.dropWaitingFetches {c : Nat} (h : s.Canon) : (s.dropWaitingFetches c).Canon :=
  { h with tier := { h.tier with } }

theorem State.Canon.acquirePages {c n : Nat} {ps : List Nat} (h : s.Canon) : (s.acquirePages c n ps).Canon := by
  unfold State.acquirePages
  refine .touchPages (h.foldl (fun t p ht => ?_) _)
  refine { ht with ctxs := ?_, tier := { ht.tier with } }
  dsimp only
  exact ht.modCtx.ctxs

theorem State.Canon.releasePages {c n : Nat} {ps : List Nat} (h : s.Canon) : (s.releasePages c n ps).Canon :=
  ((h.foldl (fun _ _ h => h.modCtx) _).touchPages).sweepLoam

theorem State.Canon.queuePrefetch {c n : Nat} {ps : List Nat} (h : s.Canon) : (s.queuePrefetch c n ps).Canon := by
  unfold State.queuePrefetch
  refine .ite { h with tier := { h.tier with prefetch := ?_ } } { h with tier := { h.tier with prefetch := ?_, window := ?_ } }
  · dsimp only
    exact Tab.rising_set _ _ _ _ h.tier.prefetch
  · dsimp only
    exact Tab.rising_set _ _ _ _ h.tier.prefetch
  · dsimp only
    exact Tab.rising_set _ _ _ _ h.tier.window

/-! ### Machine/Context.lean -/

theorem State.Canon.writeRecord {c bits : Nat} (h : s.Canon) : (s.writeRecord c bits).Canon :=
  .ite h h.hostWr.modPage

theorem State.Canon.raiseQueue {c : Nat} (h : s.Canon) : (s.raiseQueue c).Canon := by
  unfold State.raiseQueue
  split
  · exact .ite h.raiseVector h.bump
  · exact h

theorem State.Canon.copyResident {c h e : Nat} (hs : s.Canon) : (s.copyResident c h e).Canon :=
  (hs.foldl (fun _ _ ht => ht.copyRange) _).copyRange

theorem State.Canon.writeImage {c : Nat} (h : s.Canon) : (s.writeImage c).Canon := by
  dsimp only [State.writeImage]
  split
  · refine .wrRun (.wrRun (.wrRun (.foldl (fun _ _ ht => ht.clear) _ ?_)))
    split
    · exact h.copyResident
    · exact h
  · exact h

theorem State.Canon.clearStore {e : Nat} (h : s.Canon) : (s.clearStore e).Canon :=
  h.modEngine

theorem State.Canon.freePriv {c from_ : Nat} (h : s.Canon) : (s.freePriv c from_).Canon := by
  dsimp only [State.freePriv]
  split
  · exact h.foldl (fun _ _ ht => ht.freeUnits) _
  · exact h

theorem State.Canon.freeShared {c from_ : Nat} (h : s.Canon) : (s.freeShared c from_).Canon := by
  dsimp only [State.freeShared]
  split
  · exact h.freeUnits
  · exact h

theorem State.Canon.freeHood {c : Nat} (h : s.Canon) : (s.freeHood c).Canon := by
  dsimp only [State.freeHood]
  split
  · exact (h.foldl (fun _ _ h => h.freeFrame) _).modAlloc
  · exact h

theorem State.Canon.refreshFloors (h : s.Canon) : s.refreshFloors.Canon :=
  { h with tier := { h.tier with floors := h.tier.floors.filter _ } }

theorem State.Canon.growRegion {n k : Nat} (h : s.Canon) : (s.growRegion n k).Canon := by
  induction k generalizing s with
  | zero => exact h
  | succ k ih =>
    dsimp only [State.growRegion]
    refine .ite ?_ h
    split
    next e => exact ih (.setTier (h.pickStart.of_snd e).clear.setFrame fun k => { k with
        regions := Tab.rising_set [] _ n _ k.regions })
    next e => exact h.pickStart.of_snd e

theorem State.Canon.growRegions (h : s.Canon) : s.growRegions.Canon :=
  h.foldl (fun _ _ ht => ht.growRegion) _

theorem State.Canon.trimRegion {n k : Nat} (h : s.Canon) : (s.trimRegion n k).Canon := by
  induction k generalizing s with
  | zero => exact h
  | succ k ih =>
    dsimp only [State.trimRegion]
    split
    · exact .ite (ih (.freeFrame { h with tier := { h.tier with regions := Tab.rising_set _ _ _ _ h.tier.regions } })) h
    · exact h

theorem State.Canon.trimRegions (h : s.Canon) : s.trimRegions.Canon :=
  h.foldl (fun _ _ ht => ht.trimRegion) _

theorem State.Canon.settleRegions (h : s.Canon) : s.settleRegions.Canon :=
  h.trimRegions.growRegions

theorem State.Canon.trimHood {c n : Nat} (h : s.Canon) : (s.trimHood c n).Canon := by
  dsimp only [State.trimHood]
  split
  · exact (h.foldl (fun _ _ h => h.freeFrame) _).modAlloc
  · exact h

theorem State.Canon.newHood {c die n : Nat} (h : s.Canon) : CanonSome (s.newHood c die n) := by
  unfold State.newHood
  split
  next e =>
    refine .some (.modAlloc ?_)
    split
    · exact (((h.pickStart.of_snd e).foldl (fun _ _ h => h.clear.setFrame) _).copyRange).freeHood
    · exact (h.pickStart.of_snd e).foldl (fun _ _ h => h.clear.setFrame) _
  · exact .none

theorem State.Canon.settleHood {c die n : Nat} (h : s.Canon) : CanonSome (s.settleHood c die n) :=
  .ite (.some h) (.ite (.some h.trimHood) h.newHood)

theorem State.Canon.placeSpot {c e g sh : Nat} (h : s.Canon) : (s.placeSpot c e g sh).Canon := by
  unfold State.placeSpot
  split
  extract_lets again
  split
  next t ht =>
    extract_lets spilled u v
    have hv : v.Canon := ((h.settleHood t ht).modAlloc).modCtx
    split
    · exact .ite (.copyRange (hv.foldl (fun _ _ hw => hw.copyRange) _)) hv
    · exact hv
  · exact h

theorem State.Canon.placeAt {c e sh : Nat} (h : s.Canon) : (s.placeAt c e sh).Canon := by
  unfold State.placeAt
  split
  · exact h.placeSpot
  · exact h

theorem State.Canon.placeOn {c e : Nat} (h : s.Canon) : (s.placeOn c e).Canon := by
  unfold State.placeOn
  split
  next e1 => exact ((h.pickStart.of_snd e1).placeAt).growRegions

theorem State.Canon.freePads {c : Nat} (h : s.Canon) : (s.freePads c).Canon := by
  unfold State.freePads
  split
  · exact h.freePriv.freeShared.clearStore
  · exact h.freePriv.freeShared

theorem State.Canon.unplace {c : Nat} (h : s.Canon) : (s.unplace c).Canon := by
  unfold State.unplace
  split
  · exact h
  · exact h.writeImage.freePads.modAlloc.refreshFloors

theorem State.Canon.clearCopies {c : Nat} {gs : List Nat} (h : s.Canon) : (s.clearCopies c gs).Canon := by
  unfold State.clearCopies
  split
  · exact h.foldl (fun _ _ h => h.clear) _
  · exact h

theorem State.Canon.resize {c priv shared : Nat} (h : s.Canon) : (s.resize c priv shared).Canon := by
  unfold State.resize
  extract_lets a
  split
  next t _ ht =>
    extract_lets u v fresh w x y
    have hu : u.Canon := by
      have ht := h.settleHood t ht
      exact .ite ht.freePriv.clearStore.clearCopies ht
    have hv : v.Canon := .ite hu.freeShared hu
    have hw : w.Canon := (hv.foldl (fun _ _ h => h.clear) _).clearCopies
    have hy : y.Canon := .modAlloc (.ite hw.clear hw)
    exact (hy.settleHood.getD hy).refreshFloors
  · exact h

theorem State.Canon.cutAllocations {cs : List Nat} {excess : Nat} (h : s.Canon) : (s.cutAllocations cs excess).Canon := by
  induction cs generalizing s excess with
  | nil => exact h
  | cons c cs ih =>
    dsimp only [State.cutAllocations]
    exact .ite (ih h) (ih (.ite (.ite h h.modWanted) (.modWanted (.ite h h.modWanted))))

theorem State.Canon.takeReq {c : Nat} {r : Reg} {ask : Option (Nat × Nat)} {sizes : Nat → Nat × Nat} (h : s.Canon) :
    (s.takeReq c r ask sizes).Canon := by
  unfold State.takeReq
  split
  · exact h
  · exact .ite h.setReg.resize h.ignoreWrite

theorem State.Canon.takeSizes {c : Nat} {w : Wanted} (h : s.Canon) : (s.takeSizes c w).Canon :=
  .ite h.takeReq.takeReq h.takeReq.takeReq.resize

theorem State.Canon.replaceIf {c : Nat} (h : s.Canon) : (s.replaceIf c).Canon := by
  dsimp only [State.replaceIf]
  refine .ite h.refreshFloors ?_
  split
  · refine .ite h.unplace.placeOn ?_
    split
    · exact h.unplace.placeOn
    · exact h.unplace
  · exact h.unplace

theorem State.Canon.atBoundary {c : Nat} (h : s.Canon) : (s.atBoundary c).Canon := by
  unfold State.atBoundary
  extract_lets w t u v x
  have ht : t.Canon := h.modCtx
  have hu : u.Canon := by
    dsimp only [u]
    split
    · exact ht.setReg.replaceIf
    · exact ht
  have hv : v.Canon := by
    dsimp only [v]
    split
    · exact hu.setReg
    · exact hu
  have hx : x.Canon := hv.takeSizes
  split
  · exact .ite hx.unplace.placeSpot.growRegions hx.unplace.modWanted
  · exact .ite hx.unplace.placeOn hx.unplace
  · exact hx

theorem State.Canon.tryBoundary {c : Nat} (h : s.Canon) : (s.tryBoundary c).Canon := by
  unfold State.tryBoundary
  split
  · exact h.atBoundary
  · exact .ite h.modWanted.atBoundary.modWanted h

theorem State.Canon.engineBusy {e ctx mode owner : Nat} (h : s.Canon) : (s.engineBusy e ctx mode owner).Canon := by
  unfold State.engineBusy
  exact h.setReg

theorem State.Canon.engineIdle {e : Nat} (h : s.Canon) : (s.engineIdle e).Canon := by
  unfold State.engineIdle
  exact h.modEngine.setReg

theorem State.Canon.freeEngine {who : Owner} (h : s.Canon) : (s.freeEngine who).Canon :=
  h.foldl (fun _ _ h => h.engineIdle) _

theorem State.Canon.leaveRounds {c : Nat} (h : s.Canon) : (s.leaveRounds c).Canon := by
  unfold State.leaveRounds
  refine { h with engines := ?_ }
  dsimp only
  exact Tab.rising_mapAll h.engines

theorem State.Canon.countRemoved {c : Nat} (h : s.Canon) : (s.countRemoved c).Canon := by
  unfold State.countRemoved
  split
  · refine .ite ?_ h
    dsimp only
    split
    · exact .ite (.setFree h.bump.bump.bump) h.bump
    · exact h.bump
  · exact h

theorem State.Canon.dropRequests {c : Nat} (h : s.Canon) : (s.dropRequests c).Canon :=
  { h with fab := { h.fab with } }

theorem State.Canon.endCommand {c : Nat} (h : s.Canon) : (s.endCommand c).Canon := by
  dsimp only [State.endCommand]
  split
  · exact .ite (.setFaults h.freeEngine.dropRequests.dropWaitingFetches.modCtx fun k => { k with })
      (.sweepLoam (.touchPages (.setFaults h.freeEngine.dropRequests.dropWaitingFetches.modCtx fun k => { k with })))
  · exact .setFaults h.freeEngine.dropRequests.dropWaitingFetches.modCtx fun k => { k with }

theorem State.Canon.teardown {c code cause : Nat} (h : s.Canon) : (s.teardown c code cause).Canon :=
  .ite h (.settleRegions (.tryBoundary (.setReg (.leaveRounds (.modPage (.endCommand (.bumpIf (.ite h.writeRecord h))))))))

theorem State.Canon.ctxFault {c : Nat} (h : s.Canon) : (s.ctxFault c).Canon :=
  h.bump.fault.teardown

theorem State.Canon.removeCtx {c : Nat} (h : s.Canon) : (s.removeCtx c).Canon := by
  unfold State.removeCtx
  refine .ite h (.settleRegions (.refreshFloors (.setCtx (.dropBad (.setReg (.leaveRounds (.freeHood (.freePads ?_))))))))
  split
  · exact h.endCommand.releasePages
  · exact h.endCommand

/-! ### Machine/Accept.lean -/

theorem State.Canon.countIgnored {reason : Nat} (h : s.Canon) : (s.countIgnored reason).Canon :=
  h.bump.setReg

theorem State.Canon.ignoreHead {c reason : Nat} (h : s.Canon) : (s.ignoreHead c reason).Canon :=
  h.countIgnored.modCtx

theorem State.Canon.ignoreDoorbell {c reason : Nat} {t : W32} (h : s.Canon) : (s.ignoreDoorbell c reason t).Canon :=
  h.countIgnored.modPage

theorem State.Canon.pump {c : Nat} {l : List (Nat × Nat)} (h : s.Canon) : (s.pump c l).Canon := by
  induction l generalizing s with
  | nil => exact h
  | cons p l ih =>
    unfold State.pump
    split
    · exact h
    · split
      · exact h
      · exact .ite h (ih (.ite h.modCtx.request h.modCtx.request))

theorem State.Canon.pumpFabric {c : Nat} (h : s.Canon) : (s.pumpFabric c).Canon := by
  unfold State.pumpFabric
  split
  · exact h
  · split
    · exact h
    · exact .ite h h.modCtx.pump

theorem State.Canon.fetchPages {c : Nat} {d : Desc} (h : s.Canon) : (s.fetchPages c d).Canon := by
  unfold State.fetchPages
  split
  · exact h
  · exact h.foldl (fun _ _ h => h.demandFetch) _

theorem State.Canon.beginWait {c : Nat} (h : s.Canon) : (s.beginWait c).Canon := by
  unfold State.beginWait
  split
  · exact h
  · split
    · exact h.fetchPages
    · exact .ite h.pumpFabric h
    · exact h

theorem State.Canon.shadowSelect {op : Op} {d : Desc} (h : s.Canon) : (s.shadowSelect op d).2.Canon := by
  dsimp only [State.shadowSelect]
  split
  · exact h
  · split
    · exact { h with faults := { h.faults with } }
    · exact { h with faults := { h.faults with } }

theorem State.Canon.acceptCmd {c : Nat} {op : Op} {d : Desc} (h : s.Canon) : (s.acceptCmd c op d).Canon := by
  unfold State.acceptCmd
  split
  next e => exact (h.shadowSelect.of_snd e).modCtx

theorem State.Canon.checkLoop {c k : Nat} (h : s.Canon) : (s.checkLoop c k).Canon := by
  induction k generalizing s with
  | zero => exact h
  | succ k ih =>
    dsimp only [State.checkLoop]
    refine .ite h (.ite h.ctxFault ?_)
    split
    · exact ih h.takeMap.ignoreHead
    · exact .ite (ih h.takeMap.acceptCmd.ignoreHead) h.takeMap.acceptCmd.beginWait
    · exact h.takeMap

theorem State.Canon.checkNext {c : Nat} (h : s.Canon) : (s.checkNext c).Canon :=
  h.checkLoop

theorem State.Canon.ignoreWaiting {c reason : Nat} (h : s.Canon) : (s.ignoreWaiting c reason).Canon :=
  h.ignoreHead.tryBoundary.checkNext

theorem State.Canon.wakeFabric (h : s.Canon) : s.wakeFabric.Canon :=
  h.foldl (fun _ _ h => .ite h.ignoreWaiting h.beginWait) _

theorem State.Canon.checkAll (h : s.Canon) : s.checkAll.Canon :=
  h.foldl (fun _ _ h => h.checkNext) _

/-! ### Machine/Snapshot.lean -/

theorem State.Canon.modOut {f : Sent → Sent} (h : s.Canon) : (s.modOut f).Canon :=
  { h with fab := { h.fab with } }

theorem State.Canon.sendBulk {i : Nat} {header : Bool} {bs : Bytes} (h : s.Canon) : (s.sendBulk i header bs).Canon :=
  h.foldl (fun _ _ h => h.request) _

theorem State.Canon.sendSnapshot {i id : Nat} (h : s.Canon) : (s.sendSnapshot i id).Canon :=
  ((h.foldl (fun _ _ h => h.writeImage) _).sendBulk).sendBulk

theorem State.Canon.endSnapshot {i : Nat} {ok : Bool} (h : s.Canon) : (s.endSnapshot i ok).Canon := by
  unfold State.endSnapshot
  split
  · exact h
  · exact h.modJob.modOut.setReg.setReg.foldl (fun _ _ h => h.modCtx.beginWait.checkNext) _

theorem State.Canon.settleSnapshot {i : Nat} (h : s.Canon) : (s.settleSnapshot i).Canon := by
  unfold State.settleSnapshot
  split
  · exact h
  · exact .ite (.ite h h.endSnapshot) (.ite h h.modJob.sendSnapshot)

theorem State.Canon.settleSnapshots (h : s.Canon) : s.settleSnapshots.Canon :=
  h.foldl (fun _ _ h => h.settleSnapshot) _

/-! ### Machine/Run.lean -/

theorem State.Canon.setRound {e : Nat} {lc : Bool} {r : Round} (h : s.Canon) : (s.setRound e lc r).Canon :=
  h.modEngine

theorem State.Canon.passTurns {e : Nat} {ended cs : List Nat} (h : s.Canon) : (s.passTurns e ended cs).2.Canon := by
  induction cs generalizing s with
  | nil => exact h
  | cons c cs ih =>
    dsimp only [State.passTurns]
    split
    · exact ih h.modCtx
    · split
      · exact h
      · exact ih h

theorem State.Canon.advanceRound {e : Nat} {lc : Bool} {k : Nat} (h : s.Canon) : (s.advanceRound e lc k).Canon := by
  induction k generalizing s with
  | zero => exact h
  | succ k ih =>
    dsimp only [State.advanceRound]
    refine .ite h ?_
    split
    · exact .ite (ih h.setRound) (.ite h (ih h.modCtx.setRound))
    · split
      next e2 => exact (h.passTurns.of_snd e2).setRound
      next e2 => exact ih (((h.passTurns.of_snd e2).foldl (fun _ _ ht => ht.modCtx) _).foldl (fun _ _ ht => ht.modCtx) _).setRound

theorem State.Canon.yieldTurn {e : Nat} {lc : Bool} (h : s.Canon) : (s.yieldTurn e lc).Canon := by
  dsimp only [State.yieldTurn]
  split
  · exact .ite h h.modCtx.setRound
  · exact h

theorem State.Canon.yieldTurns (h : s.Canon) : s.yieldTurns.Canon :=
  h.foldl (fun _ _ h => h.yieldTurn.yieldTurn) _

theorem State.Canon.charge {c e n : Nat} (h : s.Canon) : (s.charge c e n).Canon :=
  .ite h.modCtx.setRound h.modCtx

theorem State.Canon.shadowCopy {c : Nat} {x : Cmd} {op : Op} {e : Nat} (h : s.Canon) : (s.shadowCopy c x op e).Canon :=
  .ite h { h with faults := { h.faults with } }

theorem State.Canon.startCmd {c : Nat} {x : Cmd} {op : Op} {unit : Nat} (h : s.Canon) : (s.startCmd c x op unit).Canon :=
  .ite h.bumpIf.modCtx h.bumpIf.modCtx.touchPages

theorem State.Canon.loadParams {e : Nat} {rd : TierRead} {op : Op} {d : Desc} (h : s.Canon) : (s.loadParams e rd op d).Canon :=
  h.modEngine

theorem State.Canon.beginPass {e : Nat} {rd : TierRead} {op : Op} {d : Desc} {p : Nat} (h : s.Canon) :
    (s.beginPass e rd op d p).Canon :=
  .ite h.modEngine h.modEngine

theorem State.Canon.grantEngine {c ak : Nat} (h : s.Canon) : (s.grantEngine c ak).Canon := by
  unfold State.grantEngine
  split
  · refine .ite h (.ite h (.ite (.ite h.advanceRound h.advanceRound.bump.modCtx)
      (.ite h.advanceRound (.ite h.advanceRound.bump ?_))))
    split
    · exact h.advanceRound.ignoreWaiting
    · exact h.advanceRound.shadowCopy.startCmd.loadParams.modEngine.beginPass.engineBusy
  · exact h

theorem State.Canon.grantDma {c : Nat} (h : s.Canon) : (s.grantDma c).Canon := by
  unfold State.grantDma
  split
  · refine .ite h ?_
    split
    · exact h.ignoreWaiting
    · exact h.startCmd
  · exact h

theorem State.Canon.modCmd {c : Nat} {f : Cmd → Cmd} (h : s.Canon) : (s.modCmd c f).Canon :=
  h.modCtx

theorem State.Canon.clearBanks {e : Nat} (h : s.Canon) : (s.clearBanks e).Canon :=
  h.modEngine

theorem State.Canon.runEngine {c : Nat} {op : Op} (h : s.Canon) : (s.runEngine c op).Canon := by
  unfold State.runEngine
  split
  · exact (h.clearBanks.foldl (fun _ _ h => h.ctxPut) _).modCmd
  · exact h

theorem State.Canon.reportStream {c : Nat} {x : Cmd} (h : s.Canon) : (s.reportStream c x).Canon :=
  .ite h.bump.fault.modCmd h

theorem State.Canon.runDma {c : Nat} {op : Op} (h : s.Canon) : (s.runDma c op).Canon := by
  unfold State.runDma
  split
  · exact .ite h (.ite h.reportStream (h.foldl (fun _ _ ht => ht.ctxPutRun) _).modCmd)
  · exact h

theorem State.Canon.runAcquire {c : Nat} (h : s.Canon) : (s.runAcquire c).Canon := by
  unfold State.runAcquire
  split
  · exact .ite h.modCmd h.fetchPages
  · exact h

theorem State.Canon.runFabric {c : Nat} {op : Op} (h : s.Canon) : (s.runFabric c op).Canon := by
  unfold State.runFabric
  split
  · refine .ite h (.modCmd ?_)
    split
    · exact h.ctxPutRun
    · exact h.modCmd
    · exact h.modCmd
    · exact .ite h.ctxPutRun h
  · exact h

theorem State.Canon.runHub {c : Nat} {op : Op} (h : s.Canon) : (s.runHub c op).Canon := by
  unfold State.runHub
  split
  · exact .ite h.modCmd h
  · exact h

theorem State.Canon.sendStores {c : Nat} {x : Cmd} (h : s.Canon) : (s.sendStores c x).Canon :=
  h.foldl (fun _ _ h => h.modCtx.request) _

theorem State.Canon.fenceAtomics {c : Nat} {x : Cmd} (h : s.Canon) : (s.fenceAtomics c x).Canon :=
  h.foldl (fun _ _ h => h.modCtx) _

theorem State.Canon.commitOwn {c : Nat} {x : Cmd} {op : Op} (h : s.Canon) : (s.commitOwn c x op).Canon := by
  unfold State.commitOwn
  split
  · exact h.modCtx
  · exact h.ctxPutRun
  · exact h.acquirePages.queuePrefetch
  · exact h.releasePages
  · exact h.sendStores
  · exact h.sendStores
  · exact .ite h.fenceAtomics h

theorem State.Canon.releaseEngine {c : Nat} {x : Cmd} {op : Op} (h : s.Canon) : (s.releaseEngine c x op).Canon :=
  .ite h h.modEngine.engineIdle.bump.bump.bump.charge

theorem State.Canon.countCommit {x : Cmd} {op : Op} (h : s.Canon) : (s.countCommit x op).Canon :=
  h.bump.bumpIf.bumpIf.bump.bump

theorem State.Canon.shadowWritten {c : Nat} {x : Cmd} (h : s.Canon) : (s.shadowWritten c x).Canon :=
  .ite h (.setFaults h.modCtx fun k => { k with })

theorem State.Canon.switchPasid (h : s.Canon) : s.switchPasid.Canon := by
  unfold State.switchPasid
  split
  · exact .setHif h.bump.setReg fun k => { k with pasidShadow := Tab.rising_setRun _ _ _ _ k.pasidShadow }
  · exact h

theorem State.Canon.dropUnbound (h : s.Canon) : s.dropUnbound.Canon := by
  unfold State.dropUnbound
  refine h.foldl (fun s x h => ?_) _
  split
  · split
    · exact .ite h.endCommand.ignoreHead.tryBoundary h
    · exact h
  · exact h

theorem State.Canon.pasidBoundary (h : s.Canon) : s.pasidBoundary.Canon := by
  unfold State.pasidBoundary
  split
  · exact h.switchPasid.dropUnbound.checkAll
  · exact h

theorem State.Canon.badLoam {c : Nat} {x : Cmd} {op : Op} (h : s.Canon) : (s.badLoam c x op).Canon := by
  dsimp only [State.badLoam]
  refine h.foldl (fun s x h => ?_) _
  split
  · exact .ite h.badRecord.dropPage.demandFetch h
  · exact h

theorem State.Canon.freezeQueues {cs : List Nat} (h : s.Canon) : (s.freezeQueues cs).Canon :=
  h.foldl (fun _ _ h => h.modPage) _

theorem State.Canon.freezeImages {cs : List Nat} (h : s.Canon) : (s.freezeImages cs).Canon :=
  h.foldl (fun _ _ h => h.writeImage) _

theorem State.Canon.settleFreeze {n : Nat} (h : s.Canon) : (s.settleFreeze n).Canon :=
  .ite h h.freezeQueues.freezeImages.setSliceState

theorem State.Canon.settleAll (h : s.Canon) : s.settleAll.Canon :=
  h.foldl (fun _ _ h => h.settleFreeze) _

theorem State.Canon.commitCtx {c : Nat} {x : Cmd} {op : Op} (h : s.Canon) : (s.commitCtx c x op).Canon :=
  .checkNext (.pasidBoundary (.settleFreeze (.settleRegions (.atBoundary (.ite (.shadowWritten
    (.releaseEngine (.countCommit (.ite (.raiseQueue (.writeRecord (.ite h.commitOwn.modCtx.setSync h.commitOwn.modCtx)))
    (.writeRecord (.ite h.commitOwn.modCtx.setSync h.commitOwn.modCtx)))))) (.sweepLoam
    (.touchPages (.shadowWritten (.releaseEngine (.countCommit (.ite (.raiseQueue
    (.writeRecord (.ite h.commitOwn.modCtx.setSync h.commitOwn.modCtx))) (.writeRecord
    (.ite h.commitOwn.modCtx.setSync h.commitOwn.modCtx)))))))))))))

theorem State.Canon.commitOf {c : Nat} (h : s.Canon) : (s.commitOf c).Canon := by
  unfold State.commitOf
  split
  · split
    · refine .ite h (.ite h.ctxFault (.ite h (.ite h.badLoam.fetchPages ?_)))
      split
      · exact h.badLoam.commitCtx
      · split
        · exact .ite h.badLoam h.badLoam.badRecord.modJob
        · exact h.badLoam.badRecord.teardown
    · exact h
  · exact h

theorem State.Canon.killCtx {c cause ak : Nat} (h : s.Canon) : (s.killCtx c cause ak).Canon := by
  unfold State.killCtx
  split
  · split
    · exact .ite h.modCmd (.ite (.ite h h.modCmd.dropRequests) (.ite h h.modCmd.dropRequests))
    · exact h
  · exact h

theorem State.Canon.killDoneCtx {c ak : Nat} (h : s.Canon) : (s.killDoneCtx c ak).Canon := by
  unfold State.killDoneCtx
  split
  · split
    · extract_lets n d t u v w x y
      have ht : t.Canon := .ite h.writeRecord h
      have hu : u.Canon := ht.bump.bumpIf
      have hv : v.Canon := .ite hu.bump.bump.engineIdle hu
      have hw : w.Canon := hv.modCmd.dropWaitingFetches
      have hx : x.Canon := .ite hw hw.touchPages.sweepLoam
      have hy : y.Canon := hx.tryBoundary.settleFreeze.pasidBoundary
      exact .ite h (.ite hy.beginWait hy)
    · exact h
  · exact h

theorem State.Canon.clearShadow {w : Shadow} (h : s.Canon) : (s.clearShadow w).Canon := by
  unfold State.clearShadow
  split
  · exact h
  · exact h.clear.clear.engineIdle.clearStore

theorem State.Canon.stopShadow {e : Nat} (h : s.Canon) : (s.stopShadow e).Canon := by
  unfold State.stopShadow
  split
  · exact h
  · exact .setFaults h.clearShadow.bump.bump fun k => { k with }

theorem State.Canon.preempt {e ak : Nat} (h : s.Canon) : (s.preempt e ak).Canon := by
  unfold State.preempt
  split
  · split
    · exact .ite h.killCtx h
    · exact h
  · exact h
  · split
    · split
      · exact .ite h.bump.stopShadow h
      · exact h
    · exact h

theorem State.Canon.insertIdle {e left : Nat} {add : Nat → State → State} (h : s.Canon) (hadd : ∀ n, (add n s).Canon) :
    (s.insertIdle e left add).Canon := by
  unfold State.insertIdle
  split
  · exact h
  next n _ => exact .ite ((hadd n).modEngine.bump) h.modEngine

theorem State.Canon.addIdle {c n : Nat} (h : s.Canon) : (State.addIdle c n s).Canon :=
  h.modCmd

theorem State.Canon.addShadowIdle {w : Shadow} {n : Nat} (h : s.Canon) : (State.addShadowIdle w n s).Canon :=
  { h with faults := { h.faults with } }

theorem State.Canon.passBoundary {e ak : Nat} (h : s.Canon) : (s.passBoundary e ak).Canon := by
  unfold State.passBoundary
  split
  · split
    · split
      · split
        · exact .ite (h.beginPass.insertIdle (fun _ => h.beginPass.addIdle)) h
        · exact h
      · exact h
    · exact h
  · split
    · split
      · split
        · exact .ite h.beginPass h
        · exact h
      · exact h
    · exact h
  · split
    · split
      · split
        · exact h.beginPass.insertIdle (fun _ => h.beginPass.addShadowIdle)
        · exact h
      · exact h
    · exact h

/-! ### Machine/Radio.lean -/

theorem State.Canon.raiseEvent {core type cell slot : Nat} (h : s.Canon) : (s.raiseEvent core type cell slot).Canon :=
  h.modCore

theorem State.Canon.setRadioCmd {l : Nat} {x : Option Cmd} (h : s.Canon) : (s.setRadioCmd l x).Canon :=
  { h with radio := { h.radio with cmds := Tab.rising_set _ _ _ _ h.radio.cmds } }

theorem State.Canon.modRadioCmd {l : Nat} {f : Cmd → Cmd} (h : s.Canon) : (s.modRadioCmd l f).Canon :=
  h.setRadioCmd

theorem State.Canon.countRadioIgnored {reason : Nat} (h : s.Canon) : (s.countRadioIgnored reason).Canon :=
  h.countIgnored.bump.setReg

theorem State.Canon.radioCheckLoop {l k : Nat} (h : s.Canon) : (s.radioCheckLoop l k).Canon := by
  induction k generalizing s with
  | zero => exact h
  | succ k ih =>
    unfold State.radioCheckLoop
    extract_lets q
    split
    · refine .ite h ?_
      extract_lets
      split
      · exact ih h.countRadioIgnored.qRead
      · extract_lets x t
        have ht : t.Canon := h.setRadioCmd
        exact { ht with radio := { ht.radio with cmdTag := Tab.rising_set _ _ _ _ ht.radio.cmdTag } }
      · exact h
    · exact h

theorem State.Canon.radioCheck {l : Nat} (h : s.Canon) : (s.radioCheck l).Canon :=
  h.radioCheckLoop

theorem State.Canon.radioCheckAll (h : s.Canon) : s.radioCheckAll.Canon :=
  h.foldl (fun _ _ h => h.radioCheck) _

theorem State.Canon.radioStart {l ak : Nat} (h : s.Canon) : (s.radioStart l ak).Canon := by
  unfold State.radioStart
  split
  · split
    · exact .ite h (.ite h.bump (.ite h.countRadioIgnored.qRead.setRadioCmd.radioCheck
        (.engineBusy (.beginPass (.modEngine (.loadParams (.setRadioCmd (.ite h.qRead h))))))))
    · exact h
  · exact h

theorem State.Canon.runRadio {l : Nat} {op : Op} (h : s.Canon) : (s.runRadio l op).Canon := by
  unfold State.runRadio
  split
  · exact .ite ((h.clearBanks.foldl (fun _ _ h => h.wr) _).modRadioCmd) h
  · exact h

theorem State.Canon.runOwned {who : Owner} {op : Op} (h : s.Canon) : (s.runOwned who op).Canon := by
  unfold State.runOwned
  split
  · exact h.runEngine
  · exact h.runRadio

theorem State.Canon.endRadio {l : Nat} {x : Cmd} {code cause : Nat} (h : s.Canon) : (s.endRadio l x code cause).Canon := by
  dsimp only [State.endRadio]
  exact h.qPush.bumpIf.raiseEvent.freeEngine.setRadioCmd.radioCheck

theorem State.Canon.commitRadio {l : Nat} (h : s.Canon) : (s.commitRadio l).Canon := by
  unfold State.commitRadio
  split
  · split
    · refine .ite h ?_
      split
      · exact h.badRecord.endRadio
      · exact .pasidBoundary (.endRadio (.bump (.bump (.bump (.bumpIf (.bumpIf (.bump
          { h with radio := { h.radio with steps := Tab.rising_set _ _ _ _ h.radio.steps } })))))))
    · exact h
  · exact h

theorem State.Canon.killRadio {l cause ak : Nat} (h : s.Canon) : (s.killRadio l cause ak).Canon := by
  unfold State.killRadio
  split
  · exact .ite h h.modRadioCmd
  · exact h

theorem State.Canon.killDoneRadio {l : Nat} (h : s.Canon) : (s.killDoneRadio l).Canon := by
  unfold State.killDoneRadio
  split
  · exact .ite h h.bump.bump.freeEngine.modRadioCmd
  · exact h

theorem State.Canon.radioLateAt {l cell : Nat} (h : s.Canon) : (s.radioLateAt l cell).Canon := by
  unfold State.radioLateAt
  split
  · exact .ite (.fault (.bump { h with radio := { h.radio with } })) h
  · exact h

theorem State.Canon.commitOwned {who : Owner} (h : s.Canon) : (s.commitOwned who).Canon := by
  unfold State.commitOwned
  split
  · exact h.commitOf.settleSnapshots
  · exact h.commitRadio

theorem State.Canon.killOwned {who : Owner} {cause ak : Nat} (h : s.Canon) : (s.killOwned who cause ak).Canon := by
  unfold State.killOwned
  split
  · exact h.killCtx
  · exact h.killRadio

theorem State.Canon.killDoneOwned {who : Owner} {ak : Nat} (h : s.Canon) : (s.killDoneOwned who ak).Canon := by
  unfold State.killDoneOwned
  split
  · exact h.killDoneCtx.settleSnapshots
  · exact h.killDoneRadio

/-! ### Machine/Schedule.lean -/

theorem State.Canon.doorbell {c : Nat} {t : W32} (h : s.Canon) : (s.doorbell c t).Canon :=
  .ite h.ignoreDoorbell (.ite h.ignoreDoorbell (.ite h.ignoreDoorbell (.ite h.ignoreDoorbell h.modCtx.checkNext)))

theorem execDoorbell_canon {slice queue : Nat} {tail : W32} {writes : List HostWrite} (h : s.Canon) :
    CanonNext (execDoorbell slice queue tail writes s) := by
  dsimp only [execDoorbell]
  split
  · exact .next (.ite h.hostPut.doorbell h.hostPut)
  · exact .next h.hostPut

theorem State.Canon.createCtx {n c : Nat} {p : Page} (h : s.Canon) : (s.createCtx n c p).Canon :=
  h.setCtx

theorem State.Canon.ringCfg {n c v cmdBase cplBase : Nat} (h : s.Canon) : (s.ringCfg n c v cmdBase cplBase).Canon :=
  .ite (.ite h.modPage h.countRemoved.removeCtx.modPage) (.ite (.ite h.createCtx h.modPage) h.modPage)

theorem execRingCfg_canon {slice queue : Nat} {value : W32} {cmdBase cplBase : W64} (h : s.Canon) :
    CanonNext (execRingCfg slice queue value cmdBase cplBase s) := by
  unfold execRingCfg
  split
  · exact .next (.ite h.ringCfg.settleAll h)
  · exact .next h

theorem execCplHead_canon {slice queue : Nat} {value : W32} (h : s.Canon) : CanonNext (execCplHead slice queue value s) := by
  unfold execCplHead
  split
  · exact .next (.ite h.modPage h)
  · exact .next h

theorem State.Canon.place {c : Nat} (h : s.Canon) : (s.place c).Canon := by
  unfold State.place
  refine .ite h ?_
  split
  · exact h.placeSpot.modWanted.growRegions.checkNext
  · exact h.placeOn.modWanted.checkNext
  · exact h

theorem execContextPlaced_canon {ctx : Nat} (h : s.Canon) : CanonNext (execContextPlaced ctx s) :=
  .next h.place

theorem execEngineGrant_canon {ctx akToStart : Nat} (h : s.Canon) : CanonNext (execEngineGrant ctx akToStart s) :=
  .next h.grantEngine.yieldTurns

theorem execDmaSlotGrant_canon {ctx : Nat} (h : s.Canon) : CanonNext (execDmaSlotGrant ctx s) :=
  .next h.grantDma.yieldTurns

theorem execCommit_canon {who : Owner} (h : s.Canon) : CanonNext (execCommit who s) :=
  .next h.commitOwned.wakeFabric.yieldTurns

theorem execPassBoundary_canon {engine ak : Nat} (h : s.Canon) : CanonNext (execPassBoundary engine ak s) :=
  .next h.passBoundary

theorem execLcPreemptKill_canon {engine ak : Nat} (h : s.Canon) : CanonNext (execLcPreemptKill engine ak s) :=
  .next h.preempt

theorem execKillRequest_canon {who : Owner} {cause ak : Nat} (h : s.Canon) : CanonNext (execKillRequest who cause ak s) :=
  .next (.ite h.killOwned h)

theorem execKillDone_canon {who : Owner} {ak : Nat} (h : s.Canon) : CanonNext (execKillDone who ak s) :=
  .next h.killDoneOwned.yieldTurns

theorem State.Canon.checkFault {e : Nat} (h : s.Canon) : (s.checkFault e).Canon := by
  unfold State.checkFault
  split
  · exact h.bump.fault.killOwned
  · split
    · exact h.bump.fault.stopShadow
    · exact h

theorem execEngineCheckFault_canon {engine : Nat} (h : s.Canon) : CanonNext (execEngineCheckFault engine s) :=
  .next h.checkFault

/-! ### Machine/LoamCmd.lean -/

theorem State.Canon.spillFor {e c o : Nat} (h : s.Canon) : (s.spillFor e c o).Canon := by
  dsimp only [State.spillFor]
  split
  · exact h
  · exact h
  · exact (((h.foldl (fun _ _ h => h.copyRange) _).modAlloc).bump).bump

theorem State.Canon.exchange {c : Nat} (h : s.Canon) : (s.exchange c).Canon := by
  dsimp only [State.exchange]
  split
  · exact ((h.foldl (fun _ _ h => h.spillFor) _).foldl (fun _ _ h => h.copyRange) _).modAlloc
  · exact h

theorem execSpillDone_canon {ctx : Nat} (h : s.Canon) : CanonNext (execSpillDone ctx s) :=
  .next (.ite h.exchange.yieldTurns h)

theorem execBeReclaim_canon {ctx : Nat} (h : s.Canon) : CanonNext (execBeReclaim ctx s) :=
  .next (.ite h.exchange.yieldTurns h)

theorem State.Canon.clearAlloc {c : Nat} (h : s.Canon) : (s.clearAlloc c).Canon := by
  dsimp only [State.clearAlloc]
  split
  · exact ((((h.foldl (fun _ _ h => h.clear.healRange) _).clear).healRange).clearStore).modAlloc
  · exact h

theorem execClearDone_canon {ctx : Nat} (h : s.Canon) : CanonNext (execClearDone ctx s) :=
  .next (.ite h.clearAlloc h)

theorem State.Canon.fillHost {frame e : Nat} (h : s.Canon) : (s.fillHost frame e).Canon :=
  { h with mem := Tab.wf_foldl_set _ _ _ _ _ h.mem }

theorem State.Canon.fillOwn {n frame e : Nat} (h : s.Canon) : (s.fillOwn n frame e).Canon :=
  List.foldlRecOn (motive := fun q : State × Nat => q.1.Canon) _ _ h fun _ hq _ _ => hq.copyRange

theorem State.Canon.fillFrame {n frame e : Nat} (h : s.Canon) : (s.fillFrame n frame e).Canon := by
  unfold State.fillFrame
  split
  · exact h.clear.healRange.fillHost
  · exact .ite h.clear.healRange.fillOwn h.clear.healRange.wrRun
  · exact h.clear.healRange.fillOwn

theorem State.Canon.installPage {f : Fetch} {frame : Nat} (h : s.Canon) : (s.installPage f frame).Canon :=
  .sweepLoam (.bump (.setTier h.fillFrame fun k => { k with pages := Tab.rising_put k.pages }))

theorem State.Canon.dropFetch {f : Fetch} (h : s.Canon) : (s.dropFetch f).Canon :=
  .refillFetches { h with tier := { h.tier with } }

theorem State.Canon.endAcquirers {cs : List Nat} {cause : Nat} (h : s.Canon) : (s.endAcquirers cs cause).Canon :=
  (h.foldl (fun _ _ h => h.teardown) _).settleAll

theorem State.Canon.fetchFailed {f : Fetch} (h : s.Canon) : (s.fetchFailed f).Canon := by
  unfold State.fetchFailed
  split
  · exact .ite h.bump.dropFetch h.bump.fault
  · exact h.bump.bumpIf.dropFetch.endAcquirers
  · exact .ite h.bump.dropFetch h.badRecord.dropFetch.endAcquirers

theorem execFetchCompletion_canon {slice page : Nat} {peer : Bytes} {result : FetchResult} (h : s.Canon) :
    CanonNext (execFetchCompletion slice page peer result s) := by
  unfold execFetchCompletion
  split
  · split
    · exact .ite (.next h) (.ite (.next h) (.ite (.next h.fetchFailed) (.next h.installPage)))
    · exact .next h.fetchFailed
  · exact .next h

theorem State.Canon.setPrefetch {n : Nat} {ps : List Nat} (h : s.Canon) : (s.setPrefetch n ps).Canon :=
  { h with tier := { h.tier with prefetch := Tab.rising_set _ _ _ _ h.tier.prefetch } }

theorem State.Canon.prefetchStart {n : Nat} (h : s.Canon) : (s.prefetchStart n).Canon := by
  unfold State.prefetchStart
  split
  · exact h.setPrefetch
  · refine .ite h.setPrefetch ?_
    split
    next s1 e2 => exact .setPrefetch (.setTier (h.freePoolFrame.of_snd e2) fun k => { k with })

theorem execPrefetchStart_canon {slice : Nat} (h : s.Canon) : CanonNext (execPrefetchStart slice s) :=
  .next h.prefetchStart

theorem execAgeTick_canon (h : s.Canon) : CanonNext (execAgeTick s) :=
  .next { h with tier := { h.tier with pages := Tab.rising_map (fun _ => by dsimp only; split <;> rfl) h.tier.pages } }

theorem State.Canon.pendMap {n : Nat} {new : Tab Nat} (h : s.Canon) : (s.pendMap n new).Canon := by
  unfold State.pendMap
  refine { h with tier := { h.tier with maps := ?_ } }
  dsimp only
  exact Tab.rising_modify h.tier.maps

theorem State.Canon.mapReadFailed {n : Nat} (h : s.Canon) : (s.mapReadFailed n).Canon :=
  h.bump.fault

theorem State.Canon.loamCommit {n v : Nat} (h : s.Canon) : CanonOk (State.loamCommit n v s) :=
  .ite (.ite .error .error) (.ite .error (.ite .error (.ite .error (.ite .error (.ok h.pendMap)))))

theorem State.Canon.loamMapWrite {sess n v : Nat} (h : s.Canon) : (s.loamMapWrite sess n v).Canon :=
  .ite (h.write h.loamCommit).mapReadFailed (h.write h.loamCommit)

theorem execLoamMapCommit_canon {sess slice value : Nat} (h : s.Canon) : CanonNext (execLoamMapCommit sess slice value s) :=
  .next h.loamMapWrite

theorem State.Canon.loamQuota {n v : Nat} (h : s.Canon) : CanonOk (State.loamQuota n v s) :=
  .ite .error (.ok h.setReg.sweepLoam)

theorem execLoamQuotaPages_canon {sess slice value : Nat} (h : s.Canon) : CanonNext (execLoamQuotaPages sess slice value s) :=
  .next (h.write h.loamQuota)

theorem State.Canon.privQuota {n v : Nat} (h : s.Canon) : CanonOk (State.privQuota n v s) :=
  .ok h.setReg.settleRegions

theorem execPrivQuotaFrames_canon {sess slice value : Nat} (h : s.Canon) : CanonNext (execPrivQuotaFrames sess slice value s) :=
  .next (h.write h.privQuota)

theorem State.Canon.spQuota {n v : Nat} (h : s.Canon) : CanonOk (State.spQuota n v s) :=
  .ite (.ok (h.setReg.cutAllocations.foldl (fun _ _ ht => ht.tryBoundary) _)) (.ok h.setReg)

theorem execSpQuotaBytes_canon {sess slice value : Nat} (h : s.Canon) : CanonNext (execSpQuotaBytes sess slice value s) :=
  .next (h.write h.spQuota)

theorem State.Canon.lcFloor {v : Nat} (h : s.Canon) : CanonOk (State.lcFloor v s) :=
  .ok (.setReg { h with tier := { h.tier with floors := Tab.rising_foldl (fun _ _ ht => Tab.rising_set _ _ _ _ ht) _ .nil } })

theorem execLcFloorBytes_canon {sess value : Nat} (h : s.Canon) : CanonNext (execLcFloorBytes sess value s) :=
  .next (h.write h.lcFloor)

/-! ### Machine/TilthCmd.lean -/

theorem State.Canon.tilthOffset {v : Nat} (h : s.Canon) : CanonOk (State.tilthOffset v s) :=
  .ite .error (.ite .error (.ok h.setReg))

theorem State.Canon.tilthLoad {data : Bytes} (h : s.Canon) : CanonOk (State.tilthLoad data s) :=
  .ite .error (.ite .error (.ok (.setReg { h with })))

theorem execTilthLoadData_canon {sess : Nat} {data : Bytes} (h : s.Canon) : CanonNext (execTilthLoadData sess data s) :=
  .next (h.writeOctets h.tilthLoad)

theorem State.Canon.askMoves {cs : List Nat} {plan : Option (List Move)} (h : s.Canon) : (s.askMoves cs plan).Canon :=
  (h.foldl (fun _ _ h => h.modWanted) _).foldl (fun _ _ h => h.tryBoundary.checkNext) _

theorem State.Canon.openRegions {was : Nat → Bool} (h : s.Canon) : (s.openRegions was).Canon := by
  unfold State.openRegions
  extract_lets p k t
  have ht : t.Canon := by
    refine h.foldl (fun u e hu => .ite ?_ hu) _
    exact { hu with tier := { hu.tier with radioSp := Tab.rising_set 0 _ e p hu.tier.radioSp } }
  refine ht.foldl (fun u d hu => .ite ?_ hu) _
  exact { hu with tier := { hu.tier with radioShared := Tab.rising_set 0 _ d k hu.tier.radioShared } }

theorem State.Canon.closeRegions (h : s.Canon) : s.closeRegions.Canon := by
  unfold State.closeRegions
  extract_lets t
  have ht : t.Canon := by
    refine h.foldl (fun u e hu => ?_) _
    extract_lets p v
    have hv : v.Canon := hu.clear.clearStore
    exact .ite { hv with tier := { hv.tier with radioSp := Tab.rising_set 0 _ e 0 hv.tier.radioSp } } hu
  refine ht.foldl (fun u d hu => ?_) _
  extract_lets k v
  have hv : v.Canon := hu.clear
  exact .ite { hv with tier := { hv.tier with radioShared := Tab.rising_set 0 _ d 0 hv.tier.radioShared } } hu

theorem State.Canon.resizeRegion {e : Nat} (h : s.Canon) : (s.resizeRegion e).Canon :=
  State.Canon.setTier (.ite (.clear (.ite h.clear.clearStore h)) (.ite h.clear.clearStore h)) fun k =>
    { k with radioSp := Tab.rising_set _ _ _ _ k.radioSp, radioShared := Tab.rising_set _ _ _ _ k.radioShared }

theorem State.Canon.resizeRegions {mine : Nat → Bool} (h : s.Canon) : (s.resizeRegions mine).Canon :=
  .ite h (h.foldl (fun _ _ h => h.resizeRegion) _)

theorem State.Canon.resizeUnbound (h : s.Canon) : s.resizeUnbound.Canon :=
  h.resizeRegions

theorem State.Canon.withCopy {c : TilthCopy} (h : s.Canon) : (s.withCopy c).Canon :=
  { h with }

theorem State.Canon.tilthCommit {v : Bytes} (h : s.Canon) : CanonOk (State.tilthCommit v s) := by
  unfold State.tilthCommit
  split
  · exact .error
  · exact .ok h.withCopy.openRegions.askMoves

theorem execTilthPrepared_canon (h : s.Canon) : CanonNext (execTilthPrepared s) :=
  .next (.ite (.resizeUnbound { h with }) h)

theorem State.Canon.rebindTilth {es : List Nat} (h : s.Canon) : (s.rebindTilth es).Canon := by
  unfold State.rebindTilth
  split
  · exact .askMoves (.openRegions { h with })

theorem State.Canon.retireCopies {k : Nat} (h : s.Canon) : (s.retireCopies k).Canon := by
  induction k generalizing s with
  | zero => exact h
  | succ k ih =>
    unfold State.retireCopies
    split
    · exact .ite (ih (.bump { h with })) h
    · exact h

theorem State.Canon.rebindCore {k : Nat} (h : s.Canon) : (s.rebindCore k).Canon := by
  unfold State.rebindCore
  split
  · exact h
  · exact h.modCore

theorem State.Canon.tilthSwitch {t : Nat} (h : s.Canon) : (s.tilthSwitch t).Canon := by
  unfold State.tilthSwitch
  exact .setReg (.foldl (fun _ _ ht => ht.rebindCore) _ (.resizeUnbound (.resizeRegions
    (.closeRegions (.retireCopies { h with })))))

theorem State.Canon.setInWindow {e : Nat} {b : Bool} (h : s.Canon) : (s.setInWindow e b).Canon :=
  h.setReg

theorem State.Canon.coreWindow {core cell t stop : Nat} (h : s.Canon) : (s.coreWindow core cell t stop).Canon :=
  .ite h.modCore.bump (.ite h.modCore h.modCore.raiseEvent.modCore)

theorem State.Canon.windowEnds {w : Window} (h : s.Canon) : (s.windowEnds w).Canon := by
  dsimp only [State.windowEnds]
  split
  · refine .radioLateAt ?_
    split
    · exact .ite { h with } (.setInWindow { h with })
    · exact { h with }
  · exact .modCore { h with }
  · exact { h with }

theorem State.Canon.windowStarts {e i k : Nat} (h : s.Canon) : (s.windowStarts e i k).Canon := by
  dsimp only [State.windowStarts]
  split
  · exact .setInWindow { h with }
  · exact .coreWindow { h with }
  · exact { h with }

theorem execWindowStart_canon {entry occurrence : Nat} (h : s.Canon) : CanonNext (execWindowStart entry occurrence s) := by
  refine .next (CanonSome.getD (fun t ht => ?_) h)
  obtain ⟨e, -, he⟩ := List.exists_of_findSome?_eq_some ht
  split at he
  · cases he
    exact h.windowStarts
  · split at he
    · cases he
      exact h.windowEnds.windowStarts
    · cases he

theorem execWindowEnd_canon {entry occurrence : Nat} (h : s.Canon) : CanonNext (execWindowEnd entry occurrence s) := by
  unfold execWindowEnd
  refine .next ?_
  split
  · exact .ite h.windowEnds h
  · exact h

theorem execRadioStart_canon {logical akToStart : Nat} (h : s.Canon) : CanonNext (execRadioStart logical akToStart s) :=
  .next h.radioStart

theorem State.Canon.classWrite {c v : Nat} (h : s.Canon) : CanonOk (State.classWrite c v s) :=
  .ite .error (.ite (.ok h.modWanted.tryBoundary) (.ok h.setReg))

theorem execSetClass_canon {sess value : Nat} (h : s.Canon) : CanonNext (execSetClass sess value s) :=
  .next (h.write h.classWrite)

theorem State.Canon.moveWrite {c e : Nat} (h : s.Canon) : CanonOk (State.moveWrite c e s) :=
  .ite .error (.ite .error (.ite .error (.ok h.modWanted.tryBoundary.checkNext)))

theorem execMove_canon {sess value : Nat} (h : s.Canon) : CanonNext (execMove sess value s) :=
  .next (h.write h.moveWrite)

/-! ### Machine/Dsp.lean -/

theorem State.Canon.endSync {core : Nat} (h : s.Canon) : (s.endSync core).Canon :=
  .ite h.modCore h

theorem State.Canon.leaveHandler {core : Nat} (h : s.Canon) : (s.leaveHandler core).Canon :=
  h.endSync.bump.modCore

theorem State.Canon.abandon {core : Nat} (h : s.Canon) : (s.abandon core).Canon :=
  .rewindQueues (.ite h.leaveHandler h)

theorem State.Canon.codeFault {core : Nat} (h : s.Canon) : (s.codeFault core).Canon :=
  h.bump.fault.abandon.modCore

theorem State.Canon.dataFault {core a : Nat} (h : s.Canon) : (s.dataFault core a).Canon :=
  h.bump.fault.dropBad.abandon.modCore

theorem State.Canon.issue {core : Nat} {f : State → State} (h : s.Canon) (hf : ∀ t, t.Canon → (f t).Canon) :
    (s.issue core f).Canon :=
  .ite h (.ite h.codeFault (hf _ h.modCore))

theorem execBundle_canon {core : Nat} {b : Bundle} (h : s.Canon) : CanonNext (execBundle core b s) := by
  dsimp only [execBundle]
  refine .next (h.issue (fun t ht => ?_))
  split
  · exact ht.dataFault
  · exact ht.bump.modCore

theorem State.Canon.issueWith {site : Issue} {reads : List (Nat × Nat)} {now later : State → State} (h : s.Canon)
    (hnow : ∀ t, t.Canon → (now t).Canon) (hlater : ∀ t, t.Canon → (later t).Canon) :
    (s.issueWith site reads now later).Canon := by
  unfold State.issueWith
  refine h.issue fun t ht => ?_
  extract_lets c0 on
  cases t.badRun site.core (c0.loadRuns site.x.a site.x.b ++ if on then reads else []) with
  | some a => exact ht.dataFault
  | none =>
    have hu : (if on then now t else t).Canon := .ite (hnow t ht) ht
    exact .ite (hlater _ hu.bump.modCore) hu.bump.modCore

theorem execLoopm_canon {site : Issue} {n s_ ii : Nat} (h : s.Canon) : CanonNext (execLoopm site n s_ ii s) :=
  .next (.ite h (h.issueWith (fun _ ht => ht) (fun _ ht => ht.modCore)))

theorem execLoop_canon {site : Issue} {n len : Nat} (h : s.Canon) : CanonNext (execLoop site n len s) :=
  .next (.ite h (h.issueWith (fun _ ht => ht) (fun _ ht => ht.modCore)))

theorem execAcsSetup_canon {site : Issue} {mode : AcsMode} {polys : List Nat} {softReg decReg : Nat} (h : s.Canon) :
    CanonNext (execAcsSetup site mode polys softReg decReg s) :=
  .next (h.issueWith (fun _ ht => ht.modCore) (fun _ ht => ht))

theorem execAcsStep_canon {site : Issue} (h : s.Canon) : CanonNext (execAcsStep site s) :=
  .next (h.issueWith (fun _ ht => ht.modCore) (fun _ ht => ht))

theorem execAcsLoadpm_canon {site : Issue} {v : Nat} (h : s.Canon) : CanonNext (execAcsLoadpm site v s) :=
  .next (h.issueWith (fun _ ht => ht.modCore) (fun _ ht => ht))

theorem execAcsStorepm_canon {site : Issue} {v : Nat} (h : s.Canon) : CanonNext (execAcsStorepm site v s) :=
  .next (h.issueWith (fun _ ht => ht.modCore) (fun _ ht => ht))

theorem execAcsBest_canon {site : Issue} {g : Nat} (h : s.Canon) : CanonNext (execAcsBest site g s) :=
  .next (h.issueWith (fun _ ht => ht.modCore) (fun _ ht => ht))

theorem execAcsTb_canon {site : Issue} {addr g : Nat} (h : s.Canon) : CanonNext (execAcsTb site addr g s) :=
  .next (h.issueWith (fun _ ht => ht.modCore) (fun _ ht => ht))

theorem State.Canon.swapProg {core : Nat} (h : s.Canon) : (s.swapProg core).Canon := by
  unfold State.swapProg
  split
  · exact h.setOct.modCore
  · exact h

theorem execProgSwap_canon {core : Nat} (h : s.Canon) : CanonNext (execProgSwap core s) :=
  .next (.ite h.swapProg h)

theorem State.Canon.entryFaults {core t count : Nat} (h : s.Canon) : (s.entryFaults core t count).Canon := by
  unfold State.entryFaults
  refine .ite h.modCell.bump.fault (.ite ?_ h)
  split
  · exact .ite h.bump.fault h
  · exact h

theorem State.Canon.enterHandler {core : Nat} (h : s.Canon) : (s.enterHandler core).Canon := by
  dsimp only [State.enterHandler]
  split
  · exact h
  · exact .ite h (.modCore (.entryFaults (.ite h.swapProg h)))

theorem execHandlerEntry_canon {core : Nat} (h : s.Canon) : CanonNext (execHandlerEntry core s) :=
  .next h.enterHandler

theorem execHalt_canon {site : Issue} (h : s.Canon) : CanonNext (execHalt site s) :=
  .next (h.issueWith (fun _ ht => ht) (fun _ ht => ht.leaveHandler))

theorem State.Canon.progOffset {core v : Nat} (h : s.Canon) : CanonOk (State.progOffset core v s) :=
  .ite .error (.ite .error (.ok h.setReg))

theorem State.Canon.progLoad {core : Nat} {data : Bytes} (h : s.Canon) : CanonOk (State.progLoad core data s) :=
  .ite .error (.ite .error (.ok h.modCore.setReg))

theorem execProgLoadData_canon {sess core : Nat} {data : Bytes} (h : s.Canon) : CanonNext (execProgLoadData sess core data s) :=
  .next (.ite (h.writeOctets h.progLoad) h)

theorem State.Canon.progCommit {core : Nat} {digest : Bytes} (h : s.Canon) : CanonOk (State.progCommit core digest s) :=
  .ite .error (.ite .error (.ok h.setOct.modCore))

theorem execProgCommit_canon {sess core : Nat} {digest : Bytes} (h : s.Canon) : CanonNext (execProgCommit sess core digest s) :=
  .next (.ite (h.writeOctets h.progCommit) h)

theorem execProgramRewriteDone_canon {core : Nat} (h : s.Canon) : CanonNext (execProgramRewriteDone core s) :=
  .ite (.next h) (.next (.modCore { h with tier := { h.tier with } }))

/-! ### Machine/Coder.lean -/

theorem State.Canon.radioStackWrite {o : Nat} {bs : Bytes} (h : s.Canon) : (s.radioStackWrite o bs).Canon := by
  unfold State.radioStackWrite
  refine h.foldl (fun s x h => ?_) _
  split
  · exact h.wr
  · exact h

theorem State.Canon.postUe {core idx addr : Nat} {write : Bool} (h : s.Canon) : (s.postUe core idx addr write).Canon :=
  .modCore { h with radio := { h.radio with } }

theorem execUeRd_canon {site : Issue} {idx addr : Nat} (h : s.Canon) : CanonNext (execUeRd site idx addr s) :=
  .next (h.issueWith (fun _ ht => ht.postUe) (fun _ ht => ht))

theorem execUeWr_canon {site : Issue} {idx addr : Nat} (h : s.Canon) : CanonNext (execUeWr site idx addr s) :=
  .next (h.issueWith (fun _ ht => ht.postUe) (fun _ ht => ht))

theorem execUeSync_canon {site : Issue} (h : s.Canon) : CanonNext (execUeSync site s) :=
  .next (h.issueWith (fun _ ht => ht) (fun _ ht => ht.modCore))

theorem State.Canon.setUe {i v : Nat} (h : s.Canon) : (s.setUe i v).Canon :=
  { h with radio := { h.radio with ue := Tab.rising_set _ _ _ _ h.radio.ue } }

theorem State.Canon.ueOver {a : UeAccess} (h : s.Canon) : (s.ueOver a).Canon :=
  .modCore (.ite (.endSync { h with radio := { h.radio with } }) { h with radio := { h.radio with } })

theorem State.Canon.applyUe {a : UeAccess} (h : s.Canon) : (s.applyUe a).Canon := by
  unfold State.applyUe
  refine .ite h.bump.ueOver ?_
  split
  · exact h.setUe.dropBad.ueOver
  · exact .ueOver (.modCore (.ite h.bump.fault.dropBad.setUe h))

theorem execUeAccessArrival_canon {core : Nat} (h : s.Canon) : CanonNext (execUeAccessArrival core s) := by
  unfold execUeAccessArrival
  split
  · exact .next h.applyUe
  · exact .next h

theorem State.Canon.engq {core logical cell : Nat} {bs : Bytes} (h : s.Canon) : (s.engq core logical cell bs).Canon := by
  dsimp only [State.engq]
  exact .ite h.countRadioIgnored (.ite h.qPush.countRadioIgnored h.qPush.radioCheck)

theorem execEngq_canon {site : Issue} {logical cell addr : Nat} (h : s.Canon) : CanonNext (execEngq site logical cell addr s) :=
  .next (h.issueWith (fun _ ht => ht.engq) (fun _ ht => ht))

theorem State.Canon.ignoreJob {reason : Nat} (h : s.Canon) : (s.ignoreJob reason).Canon :=
  h.bump.setReg

theorem State.Canon.submitJob {core : Nat} {bs : Bytes} (h : s.Canon) : (s.submitJob core bs).Canon := by
  dsimp only [State.submitJob]
  split
  · exact h.ignoreJob
  · exact .ite h.qPush.ignoreJob h.qPush

theorem execCode_canon {site : Issue} {addr : Nat} (h : s.Canon) : CanonNext (execCode site addr s) :=
  .next (h.issueWith (fun _ ht => ht.submitJob) (fun _ ht => ht))

theorem State.Canon.stageLoop {die k : Nat} (h : s.Canon) : (s.stageLoop die k).Canon := by
  induction k generalizing s with
  | zero => exact h
  | succ k ih =>
    unfold State.stageLoop
    refine .ite h (ih ?_)
    have hr : (s.qRead (0x1000 + die) 1).Canon := h.qRead
    exact { hr with radio := { hr.radio with } }

theorem State.Canon.stageJobs {die : Nat} (h : s.Canon) : (s.stageJobs die).Canon :=
  h.stageLoop

theorem State.Canon.endJob {j : Job} {status iter exp : Nat} (h : s.Canon) : (s.endJob j status iter exp).Canon := by
  dsimp only [State.endJob]
  exact .ite h.qPush.raiseEvent.bump.bumpIf.modCell h.qPush.raiseEvent.bump.bumpIf

theorem State.Canon.unstage {j : Job} (h : s.Canon) : (s.unstage j).Canon :=
  { h with radio := { h.radio with } }

theorem State.Canon.ldpcSwitch (h : s.Canon) : s.ldpcSwitch.Canon :=
  .ite (.bump { h with radio := { h.radio with } }) h

theorem State.Canon.takeJob {die op : Nat} (h : s.Canon) : (s.takeJob die op).Canon := by
  unfold State.takeJob
  extract_lets t
  have ht : t.Canon := h.stageJobs
  cases t.nextJob die op with
  | none => exact ht
  | some j =>
    refine .ite ht ?_
    split
    · exact ht
    next u _ k _ =>
      refine .ite ht.unstage.endJob ?_
      cases t.badRun j.core [(jobIn j.word, jobInBytes j.word)] with
      | some a => exact ht.dataFault
      | none =>
        dsimp -zeta only
        extract_lets combine o v soft r x
        have hu : u.Canon := .ite ht.ldpcSwitch ht
        have hv : v.Canon := by
          dsimp only [v]
          split
          · exact hu.badRecord
          · exact hu
        have hx : x.Canon := hv.unstage
        exact { hx with radio := { hx.radio with running := Tab.rising_set none _ k (some r) hx.radio.running } }

theorem execLdpcDecode_canon {die : Nat} (h : s.Canon) : CanonNext (execLdpcDecode die s) :=
  .next (.ite h.takeJob h)

theorem execLdpcEncode_canon {die : Nat} (h : s.Canon) : CanonNext (execLdpcEncode die s) :=
  .next (.ite h.takeJob h)

theorem execPolarDecode_canon {die : Nat} (h : s.Canon) : CanonNext (execPolarDecode die s) :=
  .next (.ite h.takeJob h)

theorem execPolarEncode_canon {die : Nat} (h : s.Canon) : CanonNext (execPolarEncode die s) :=
  .next (.ite h.takeJob h)

theorem execFft_canon {die : Nat} (h : s.Canon) : CanonNext (execFft die s) :=
  .next (.ite h.takeJob h)

theorem execInverseFft_canon {die : Nat} (h : s.Canon) : CanonNext (execInverseFft die s) :=
  .next (.ite h.takeJob h)

theorem execJobDeadlinePassed_canon {die slot : Nat} (h : s.Canon) : CanonNext (execJobDeadlinePassed die slot s) := by
  dsimp only [execJobDeadlinePassed]
  split
  · exact .next (.ite (.endJob (.unstage (.ite h.stageJobs h))) (.ite h.stageJobs h))
  · exact .next (.ite h.stageJobs h)

theorem State.Canon.sendPart {cell peer part off : Nat} {bs : Bytes} (h : s.Canon) : (s.sendPart cell peer part off bs).Canon :=
  h.foldl (fun _ _ h => h.request) _

theorem State.Canon.sendSoft {cell peer u : Nat} (h : s.Canon) : (s.sendSoft cell peer u).Canon :=
  h.sendPart

theorem State.Canon.sendCellState {cell peer : Nat} (h : s.Canon) : (s.sendCellState cell peer).Canon :=
  h.sendPart.sendPart.sendPart.foldl (fun _ _ h => h.sendSoft) _

theorem State.Canon.finishJob {k : Nat} {r : Running} (h : s.Canon) : (s.finishJob k r).Canon := by
  unfold State.finishJob
  extract_lets w c t radio u v us x y
  have ht : t.Canon := h.modCore
  have hu : u.Canon := { ht with radio := { ht.radio with running := Tab.rising_set none _ k none ht.radio.running } }
  have hx : x.Canon := hu.radioStackWrite.modCell
  refine .endJob (.ite ?_ hu)
  split
  · exact hx.foldl (fun _ _ h => h.sendSoft) _
  · exact hx

theorem execCoderJobEnd_canon {die slot : Nat} (h : s.Canon) : CanonNext (execCoderJobEnd die slot s) := by
  unfold execCoderJobEnd
  split
  · exact .next (.ite h.finishJob h)
  · exact .next h

theorem State.Canon.clearCell {cell : Nat} (h : s.Canon) : (s.clearCell cell).Canon := by
  unfold State.clearCell
  refine .modCell (.foldl (fun _ _ ht => ht.radioStackWrite) _ (.radioStackWrite { h with radio := { h.radio with ue := ?_ } }))
  dsimp only
  exact Tab.rising_keep h.radio.ue

theorem State.Canon.refreshCu (h : s.Canon) : s.refreshCu.Canon :=
  h.setReg.setReg

theorem State.Canon.enableCell {cell : Nat} (h : s.Canon) : (s.enableCell cell).Canon :=
  h.modCell.refreshCu

theorem State.Canon.disableCell {cell : Nat} (h : s.Canon) : (s.disableCell cell).Canon :=
  h.modCell.refreshCu

theorem execMoveTailEnd_canon {cell : Nat} (h : s.Canon) : CanonNext (execMoveTailEnd cell s) :=
  .ite (.next h) (.ite (.next h.setReg.clearCell.modCell.disableCell) (.next h.modCell))

/-! ### Machine/Image.lean -/

theorem State.Canon.restoreCtx {n c : Nat} {img : Bytes} {job : Nat} {pasid : Option Nat} (h : s.Canon) :
    CanonSome (s.restoreCtx n c img job pasid) := by
  unfold State.restoreCtx
  extract_lets x alloc t u v k e die ps
  have hv : v.Canon := by
    dsimp only [v]
    split
    · exact h.setCtx.setReg.setReg.setReg
    · exact h.setCtx.setReg.setReg
  cases die with
  | none => exact .none
  | some d =>
    dsimp -zeta only
    cases hw : v.settleHood c d k with
    | none => exact .none
    | some w =>
      dsimp -zeta only
      extract_lets w1 w2 w3 w4
      have hw1 : w1.Canon := (hv.settleHood w hw).modAlloc
      have hw2 : w2.Canon := by
        dsimp only [w2]
        split
        · exact hw1.wrRun
        · exact hw1
      have hw3 : w3.Canon := by
        dsimp only [w3]
        cases e with
        | none => exact hw2
        | some e => exact .ite hw2.placeOn hw2
      exact .some (hw3.acquirePages.foldl (fun _ _ h => h.demandFetch) _)

/-! ### Machine/Channel.lean -/

theorem State.Canon.modChannel {n : Nat} {f : Channel → Channel} (h : s.Canon) : (s.modChannel n f).Canon :=
  { h with hif := { h.hif with channels := Tab.rising_modify h.hif.channels } }

theorem State.Canon.ringWrite {pasid base log2 at_ : Nat} {bs : Bytes} (h : s.Canon) :
    (s.ringWrite pasid base log2 at_ bs).Canon :=
  h.foldl (fun _ _ h => h.hostWr) _

theorem State.Canon.upRecord {n type source cell inline : Nat} {payload : Bytes} (h : s.Canon) :
    (s.upRecord n type source cell inline payload).Canon :=
  .ite h.bump h.ringWrite.hostWr.modChannel.raiseVector

theorem State.Canon.ignoreRhc {n reason : Nat} (h : s.Canon) : (s.ignoreRhc n reason).Canon :=
  h.modChannel

theorem State.Canon.downDoorbell {n : Nat} {t : W32} (h : s.Canon) : (s.downDoorbell n t).Canon :=
  .ite h.ignoreRhc (.ite h.ignoreRhc (.ite h.ignoreRhc h.modChannel))

theorem execDownDoorbell_canon {channel : Nat} {tail : W32} {consumed : Option (W32 × W32)} {writes : List HostWrite}
    (h : s.Canon) :
    CanonNext (execDownDoorbell channel tail consumed writes s) := by
  unfold execDownDoorbell
  refine .ite (.next h.hostPut) (.next (.downDoorbell ?_))
  split
  · exact h.hostPut.modChannel
  · exact h.hostPut

theorem State.Canon.downDescriptor {n : Nat} (h : s.Canon) : (s.downDescriptor n).Canon := by
  dsimp only [State.downDescriptor]
  refine .ite h ?_
  split
  · exact h.modChannel.ignoreRhc
  · exact h.modChannel.radioStackWrite.qPush.raiseEvent

theorem execDownDescriptor_canon {channel : Nat} (h : s.Canon) : CanonNext (execDownDescriptor channel s) :=
  .next (.ite h.downDescriptor h)

theorem State.Canon.rhcCfg {n v : Nat} (h : s.Canon) : CanonOk (State.rhcCfg n v s) :=
  .ite .error (.ite .error (.ite .error (.ite .error (.ok (.ite h.setReg.modChannel h.setReg)))))

theorem execRhcCfg_canon {sess channel : Nat} {value : W32} (h : s.Canon) : CanonNext (execRhcCfg sess channel value s) :=
  .next (.ite (h.write h.rhcCfg) h)

theorem State.Canon.ingest {cell ant : Nat} {l : List Int} {x : Section} (h : s.Canon) : (s.ingest cell ant l x).Canon :=
  h.modCell.modCore

theorem State.Canon.ingestItem {cell ant : Nat} {f : Frame} (h : s.Canon) : (s.ingestItem cell ant f).Canon := by
  unfold State.ingestItem
  split
  next x _ _ _ _ _ _ _ =>
    refine h.foldl (fun s x h => ?_) _
    split
    · exact h.ingest
    · exact h
  · exact h

theorem State.Canon.consume {q : Nat} {by_ : QueueUser} {x : HeldItem} (h : s.Canon) : (s.consume q by_ x).Canon := by
  unfold State.consume
  split
  · refine .ite (.ite ?_ (.ite h.qPush h)) h
    split
    · exact h.ingestItem
    · exact h
  · exact .ite h.upRecord h
  · exact h

theorem State.Canon.takeItems {q n : Nat} {by_ : QueueUser} (h : s.Canon) : (s.takeItems q n by_).Canon :=
  .ite h.qSync.qRead (.ite h.qSync.stageLoop (h.qSync.qRead.foldl (fun _ _ ht => ht.consume) _))

theorem State.Canon.tagHead {q : Nat} (h : s.Canon) : (s.tagHead q).Canon :=
  .ite h h.setQueue

theorem State.Canon.pushFrame {q tag : Nat} {item : Bytes} {f : Frame} {bad : Bool} (h : s.Canon) :
    (s.pushFrame q tag item f bad).Canon := by
  unfold State.pushFrame
  split
  next e => exact .ite (h.qProduce.of_snd e) ((((h.qProduce.of_snd e).modQueue).level).tagHead)

theorem State.Canon.putItem {q port tag : Nat} {item : Bytes} {f : Frame} {bad : Bool} (h : s.Canon) :
    (s.putItem q port tag item f bad).Canon :=
  .ite h.qIgnore (.ite (.ite h.bump h.pushFrame.bumpIf) (.ite h.bump (.ite h.bump h.pushFrame)))

theorem State.Canon.xferWaits {core : Nat} {o : XferOp} (h : s.Canon) : (s.xferWaits core o).Canon :=
  { h with radio := { h.radio with } }

theorem State.Canon.xfer {core : Nat} {o : XferOp} (h : s.Canon) : (s.xfer core o).Canon := by
  unfold State.xfer
  split
  · exact .ite h.radioStackWrite h
  · exact .ite h.modCore h
  · split
    · exact .ite h.wrRun h.xferWaits
    · exact h
  · split
    · exact .ite h.modCore h.xferWaits
    · exact h
  · split
    · exact .ite h (.ite h.wrRun h.xferWaits)
    · exact h
  · split
    · exact .ite h (.ite h.radioStackWrite h.xferWaits)
    · exact h
  · exact .ite h (.ite h.qRead (h.usedBy.takeItems.foldl (fun _ _ h => h.modCore) _))
  · exact .ite h.putItem h
  · exact .ite h.putItem h
  · split
    · exact h.upRecord
    · exact h

theorem State.Canon.xferNow {core : Nat} {o : XferOp} (h : s.Canon) : (s.xferNow core o).Canon := by
  unfold State.xferNow
  split
  · exact h.dataFault
  · exact h.xfer

theorem State.Canon.wakeXfer (h : s.Canon) : s.wakeXfer.Canon :=
  .foldl (fun _ _ h => h.xferNow) _ { h with radio := { h.radio with } }

theorem execXfer_canon {site : Issue} {op : XferOp} (h : s.Canon) : CanonNext (execXfer site op s) :=
  .next (h.issueWith (fun _ ht => ht) (fun _ ht => ht.xferNow))

/-! ### Machine/Servo.lean -/

theorem State.Canon.setLock {t v : Nat} (h : s.Canon) : (s.setLock t v).Canon :=
  .ite h h.setReg.fault

theorem State.Canon.relock {t : Nat} {theta : Int} (h : s.Canon) : (s.relock t theta).Canon :=
  .ite (.setLock (.ite h.modTb.setLock h.modTb)) (.ite (.setLock (.ite h.modTb.setLock h.modTb)) (.ite h.modTb.setLock h.modTb))

theorem State.Canon.servo {t : Nat} {theta : Int} (h : s.Canon) : (s.servo t theta).Canon :=
  h.setRegI.modTb.relock

theorem State.Canon.measureFrom {k t : Nat} {theta : Int} (h : s.Canon) : (s.measureFrom k t theta).Canon := by
  induction k generalizing s t theta with
  | zero => exact h
  | succ k ih => exact h.servo.foldl (fun _ _ hu => .ite (ih hu) hu) _

theorem State.Canon.measure {t : Nat} {theta : Int} (h : s.Canon) : (s.measure t theta).Canon :=
  h.measureFrom

theorem State.Canon.ptpAnnounce {t port : Nat} {m : PtpMsg} (h : s.Canon) : (s.ptpAnnounce t port m).Canon :=
  h.modTb

theorem State.Canon.ptpOffset {t : Nat} {x : Int} (h : s.Canon) : (s.ptpOffset t x).Canon := by
  dsimp only [State.ptpOffset]
  split
  · exact h.modTb.measure
  · exact h.modTb

theorem State.Canon.ptpSlave {t port : Nat} {kind : PtpKind} {c : Int} {m : PtpMsg} (h : s.Canon) :
    (s.ptpSlave t port kind c m).Canon := by
  dsimp only [State.ptpSlave]
  split
  · exact h.ptpOffset
  · exact h.modTb
  · split
    · exact .ite h.ptpOffset h
    · exact h
  · split
    · exact .ite h.modTb h
    · exact h
  · exact h

theorem State.Canon.ptpTake {port : Nat} {kind : PtpKind} {domain : Nat} {correction : W64} {m : PtpMsg} (h : s.Canon) :
    (s.ptpTake port kind domain correction m).Canon :=
  h.foldl (fun _ _ h => .ite h (.ite h.ptpAnnounce (.ite h.ptpSlave h))) _

theorem State.Canon.endSlot {cell : Nat} (h : s.Canon) : (s.endSlot cell).Canon := by
  unfold State.endSlot
  refine .ite h ?_
  dsimp only [State.draw]
  refine State.Canon.modCell (State.Canon.upRecord (State.Canon.setReg (State.Canon.setReg ?_)))
  split
  · exact { h with }
  · exact h

/-! ### Machine/Fronthaul.lean -/

/-- A die's weights no longer wait. -/
theorem State.Canon.dropWeightNext {die : Nat} (h : s.Canon) :
    { s with fh := { s.fh with weightNext := s.fh.weightNext.filter (· ≠ die) } : State }.Canon :=
  { h with fh := { h.fh with } }

theorem State.Canon.switchWfq {die : Nat} (h : s.Canon) : (s.switchWfq die).Canon := by
  refine .ite h (.bump (.dropWeightNext (.foldl (fun u q hu => .ite hu ?_) _ h)))
  exact { hu.setReg with fh := { hu.fh with weights := Tab.rising_set 1024 _ q _ hu.fh.weights } }

theorem State.Canon.swapPol {die slice : Nat} {r : Reg} {k : Nat} (h : s.Canon) : (s.swapPol die slice r k).Canon :=
  State.Canon.setFh (.ite h.setReg { h with fh := { h.fh with profileShadow := Tab.rising_set _ _ _ _ h.fh.profileShadow } }) fun
    k => { k with profiles := Tab.rising_set _ _ _ _ k.profiles }

theorem State.Canon.switchPol {die : Nat} (h : s.Canon) : (s.switchPol die).Canon := by
  unfold State.switchPol
  extract_lets t fh u clamp
  have ht : t.Canon := State.Canon.foldl (fun _ _ hu => State.Canon.foldl (fun _ _ hv => hv.swapPol) _ hu) _ h
  have hu : u.Canon := ht.setFh fun k => { k with }
  exact .ite h (.bump (hu.setFh fun k => { k with buckets := Tab.rising_mapAll k.buckets }))

theorem State.Canon.packetBoundary {die : Nat} (h : s.Canon) : (s.packetBoundary die).Canon :=
  h.switchWfq.switchPol

theorem State.Canon.colour {die slice : Nat} {f : Frame} (h : s.Canon) : (s.colour die slice f).2.Canon := by
  dsimp only [State.colour]
  refine { h with fh := { h.fh with buckets := ?_ } }
  dsimp only
  exact Tab.rising_put h.fh.buckets

theorem State.Canon.serviceFrame {die port q slice : Nat} {f : Frame} {bad : Bool} (h : s.Canon) :
    (s.serviceFrame die port q slice f bad).Canon := by
  unfold State.serviceFrame
  refine .ite h.putItem ?_
  split
  next e =>
    split
    next e => exact ((h.colour.of_snd e).bump).putItem
    next e => exact .ite (((h.colour.of_snd e).bump).bump) (((h.colour.of_snd e).bump).putItem)
    next e => exact ((h.colour.of_snd e).bump).bump

theorem State.Canon.sectionCheck {die cell : Nat} {x : Section} (h : s.Canon) : (s.sectionCheck die cell x).2.Canon := by
  dsimp only [State.sectionCheck]
  split
  · dsimp only
    exact h.bump
  · split
    · dsimp only
      exact h.bump
    · split
      · split
        · exact h
        · dsimp only
          exact h.bump
      · dsimp only
        exact h.bump

theorem State.Canon.sectionsCheck {die cell : Nat} {l : List Section} (h : s.Canon) : (s.sectionsCheck die cell l).2.Canon := by
  induction l generalizing s with
  | nil => exact h
  | cons x l ih => exact ih h.sectionCheck

theorem State.Canon.radioFrame {die port q cell ant : Nat} {f : Frame} {bad : Bool} (h : s.Canon) :
    (s.radioFrame die port q cell ant f bad).Canon := by
  unfold State.radioFrame
  split
  · refine .ite h.putItem ?_
    split
    next e2 => exact .ite (h.sectionsCheck.of_snd e2) (h.sectionsCheck.of_snd e2).putItem
  · exact h.putItem

theorem State.Canon.ptpForward {port : Nat} {f : Frame} (h : s.Canon) : (s.ptpForward port f).Canon :=
  h.foldl (fun _ _ h => .ite h.putItem h) _

theorem State.Canon.route {port : Nat} {f : Frame} {bad : Bool} (h : s.Canon) : (s.route port f bad).Canon := by
  dsimp only [State.route]
  split
  · exact h.bump
  · refine .ite h ?_
    split
    · exact h.radioFrame
    · exact h.putItem
    · exact h.serviceFrame
    · exact h

/-- The FEC counts of a port take a value. -/
theorem State.Canon.putFec {port : Nat} {c : FecCount} (h : s.Canon) :
    ({ s with fh := { s.fh with fec := s.fh.fec.put port c } } : State).Canon :=
  { h with fh := { h.fh with fec := Tab.rising_put h.fh.fec } }

theorem State.Canon.fhFec {port : Nat} {bad : Bool} (h : s.Canon) : (s.fhFec port bad).Canon := by
  cases bad
  · exact State.Canon.putFec (s := (s.draw Config.fecCorrected).2) h.draw
  · exact State.Canon.putFec (s := ((s.draw Config.fecCorrected).2.draw Config.fecUncorrected).2) h.draw.draw

theorem State.Canon.frameIn {port : Nat} {f : Frame} (h : s.Canon) : (s.frameIn port f).Canon := by
  unfold State.frameIn
  refine .ite h (.ite h.fhFec.packetBoundary.bump.bumpIf.bumpIf.bump ?_)
  split
  · exact .ite h.fhFec.packetBoundary.bump.bumpIf.bumpIf h.fhFec.packetBoundary.bump.bumpIf.bumpIf.ptpForward.ptpTake
  · exact h.fhFec.packetBoundary.bump.bumpIf.bumpIf.route

theorem execFrameReceived_canon {port : Nat} {f : Frame} (h : s.Canon) : CanonNext (execFrameReceived port f s) :=
  .next h.frameIn

theorem State.Canon.frameOut {port : Nat} (h : s.Canon) : (s.frameOut port).Canon := by
  unfold State.frameOut
  refine .ite h ?_
  extract_lets t u
  have hu : u.Canon := State.Canon.foldl (fun _ _ hv => .ite hv.tagHead hv) _ h.packetBoundary
  clear_value u
  cases u.nextEgress port with
  | none => exact hu
  | some p =>
    dsimp -zeta only
    extract_lets n i frame v
    have hv : v.Canon := { hu with fh := { hu.fh with
      vtime := Tab.rising_set 0 _ port p.2 hu.fh.vtime, sent := Tab.rising_put hu.fh.sent } }
    exact hv.modQueue.qRead.tagHead.bump

theorem execFrameTransmitted_canon {port : Nat} (h : s.Canon) : CanonNext (execFrameTransmitted port s) :=
  .next (.ite h.frameOut h)

theorem State.Canon.afterRadioOp {q : Nat} (h : s.Canon) : (s.afterRadioOp q).Canon :=
  .ite h (.radioCheck (.ite h.setRadioCmd h))

theorem State.Canon.qOperate {q : Nat} {o : QOp} {by_ : QueueUser} (h : s.Canon) : (s.qOperate q o by_).Canon := by
  unfold State.qOperate
  refine .afterRadioOp (.tagHead ?_)
  split
  · exact h.qSync.qFlush
  · exact h.qSync.qMarkNow
  · exact h.qSync.qRewind
  · exact h.qSync.qReleaseTo
  · exact .ite h.qSync h.qSync.takeItems

theorem State.Canon.qOpWrite {q : Nat} {o : QOp} {n : Nat} (h : s.Canon) : (State.qOpWrite q o n s).Canon := by
  unfold State.qOpWrite
  split
  · exact h.qOperate.ignoreWrite
  · exact h.qOperate

theorem State.Canon.qBy {q : Nat} {o : QOp} {by_ : QueueUser} (h : s.Canon) : (s.qBy q o by_).Canon := by
  unfold State.qBy
  refine .ite h ?_
  split
  · refine .ite h ?_
    split
    · exact h.ignoreWrite.answerWrite
    · exact h.qOpWrite.answerWrite
  · exact .ite h.usedBy.qOperate h
  · exact .ite h.qOperate h
  · exact .ite h.qOperate h

theorem execQueueRead_canon {q n : Nat} {by_ : QueueUser} (h : s.Canon) : CanonNext (execQueueRead q n by_ s) :=
  .next h.qBy

theorem execQueueRelease_canon {q : Nat} {i : W32} {by_ : QueueUser} (h : s.Canon) : CanonNext (execQueueRelease q i by_ s) :=
  .next h.qBy

theorem execMark_canon {q : Nat} {by_ : QueueUser} (h : s.Canon) : CanonNext (execMark q by_ s) :=
  .next h.qBy

theorem execRewind_canon {q : Nat} {by_ : QueueUser} (h : s.Canon) : CanonNext (execRewind q by_ s) :=
  .next h.qBy

theorem execFlush_canon {q : Nat} {by_ : QueueUser} (h : s.Canon) : CanonNext (execFlush q by_ s) :=
  .next h.qBy

theorem State.Canon.staleCheck {q : Nat} (h : s.Canon) : (s.staleCheck q).Canon :=
  .ite h.qSync h.qSync.modQueue.notice

theorem execStaleCheck_canon {q : Nat} (h : s.Canon) : CanonNext (execStaleCheck q s) :=
  .next (.ite h.staleCheck h)

theorem State.Canon.sample {q : Nat} (h : s.Canon) : (s.sample q).Canon :=
  .ite h.qSync h.qSync.setReg.setReg.setReg.setReg.bump.bump

theorem execQueueSample_canon {q : Nat} (h : s.Canon) : CanonNext (execQueueSample q s) :=
  .next (.ite h.sample h)

theorem State.Canon.refreshPool {die : Nat} (h : s.Canon) : (s.refreshPool die).Canon :=
  h.setReg

theorem State.Canon.qCfgWrite {q v role : Nat} (h : s.Canon) : CanonOk (State.qCfgWrite q v role s) :=
  .ite .error (.ite .error (.ite .error (.ite .error (.ite .error (.ite .error (.ite .error
    (.ok (.ite (.refreshPool (.setReg (.setReg (.qSetRecovery (.ite h.qEnable h)))))
    (.setReg (.setReg (.qSetRecovery (.ite h.qEnable h))))))))))))

theorem execQCfg_canon {sess : Nat} {value : W32} (h : s.Canon) : CanonNext (execQCfg sess value s) :=
  .next (h.write h.qCfgWrite)

theorem State.Canon.queueSelectWrite {sess v : Nat} (h : s.Canon) : CanonOk (State.queueSelectWrite sess v s) :=
  .ite (.ok h.setSreg) .error

theorem execQueueSelect_canon {sess value : Nat} (h : s.Canon) : CanonNext (execQueueSelect sess value s) :=
  .next (h.write h.queueSelectWrite)

theorem State.Canon.wfqCommit {die v : Nat} (h : s.Canon) : CanonOk (State.wfqCommit die v s) :=
  .ite .error (.ok { h with fh := { h.fh with } })

theorem execWfqCommit_canon {sess die value : Nat} (h : s.Canon) : CanonNext (execWfqCommit sess die value s) :=
  .next (.ite (h.write h.wfqCommit) h)

theorem State.Canon.polCommit {die v : Nat} (h : s.Canon) : CanonOk (State.polCommit die v s) :=
  .ite .error (.ok { h with fh := { h.fh with } })

theorem execPolCommit_canon {sess die value : Nat} (h : s.Canon) : CanonNext (execPolCommit sess die value s) :=
  .next (.ite (h.write h.polCommit) h)

theorem State.Canon.portModeWrite {die v : Nat} (h : s.Canon) : CanonOk (State.portModeWrite die v s) :=
  .ite .error (.ite .error (.ok h.setReg))

theorem execPortMode_canon {sess die value : Nat} (h : s.Canon) : CanonNext (execPortMode sess die value s) :=
  .next (.ite (h.write h.portModeWrite) h)

theorem execFronthaulLinkChange_canon {port : Nat} {up fecLock : Bool} (h : s.Canon) :
    CanonNext (execFronthaulLinkChange port up fecLock s) :=
  .ite (.next h) (.next { h with fh := { h.fh with } })

/-! ### Machine/Time.lean -/

/-- The trace ring takes a content. -/
theorem State.Canon.putTrace {l : List (BitVec 256)} (h : s.Canon) :
    ({ s with faults := { s.faults with trace := l } } : State).Canon :=
  { h with faults := { h.faults with } }

theorem State.Canon.hostTick (h : s.Canon) : s.hostTick.Canon := by
  unfold State.hostTick
  extract_lets new t faults u
  have hu : u.Canon := State.Canon.settleSnapshots (State.Canon.putTrace (l := t.drop (t.length - 262144)) h)
  clear_value u
  split
  · exact .ite hu (.checkAll { hu with hif := { hu.hif with } })
  · exact hu

theorem execCkTick_canon (h : s.Canon) : CanonNext (execCkTick s) := by
  unfold execCkTick
  extract_lets t u v w x power y
  refine .ite (.next h) (.next ?_)
  have hu : u.Canon := h.wakeFabric.wakeXfer.syncServices.linkTick.settleLoam.meshSettle.yieldTurns.hostTick
  clear_value u
  have hv : v.Canon := { hu with }
  have hw : w.Canon := .foldl (fun _ _ hs => hs.modTb) _ hv
  have hx : x.Canon := hw.bump
  clear_value x
  exact .ite { hx with power := { hx.power with } } hx

theorem State.Canon.applyTb {t : Nat} (h : s.Canon) : (s.applyTb t).Canon := by
  unfold State.applyTb
  extract_lets b u
  have hu : u.Canon := by
    dsimp only [u]
    split
    · exact h.setRegI.setReg.modTb
    · exact h
  split
  · extract_lets v
    have hv : v.Canon := hu.modTb
    exact .ite { hv with pins := { hv.pins with } } hv
  · exact hu

theorem execApplyTick_canon (h : s.Canon) : CanonNext (execApplyTick s) := by
  unfold execApplyTick
  refine .ite (.next h) ?_
  extract_lets t comps
  have ht : t.Canon := State.Canon.foldl (fun _ _ hu => hu.applyTb) _ h
  clear_value t
  have hc : comps.rising := Tab.rising_foldl (l := compRegs) (fun v x hv => Tab.rising_set 0 v x.1 _ hv) ht.pins.comps
  exact .next { ht with pins := { ht.pins with comps := hc } }

theorem State.Canon.stepWrite {t v : Nat} (h : s.Canon) : CanonOk (State.stepWrite t v s) :=
  .ite .error (.ok h.modTb)

theorem execStepNs_canon {sess tb : Nat} {value : Int} (h : s.Canon) : CanonNext (execStepNs sess tb value s) :=
  .next (.ite (h.write h.stepWrite) h)

theorem State.Canon.frameOffsetWrite {t v : Nat} (h : s.Canon) : CanonOk (State.frameOffsetWrite t v s) :=
  .ite .error (.ok h.setReg)

theorem execFrameOffsetNs_canon {sess tb value : Nat} (h : s.Canon) : CanonNext (execFrameOffsetNs sess tb value s) :=
  .next (.ite (h.write h.frameOffsetWrite) h)

theorem State.Canon.servoSrcWrite {t v : Nat} (h : s.Canon) : CanonOk (State.servoSrcWrite t v s) :=
  .ite .error (.ite (.ok h.setReg.setLock.modTb) (.ok (.ite (.measure (.ite h.setReg.setLock h.setReg))
    (.ite h.setReg.setLock h.setReg))))

theorem execServoSrc_canon {sess tb value : Nat} (h : s.Canon) : CanonNext (execServoSrc sess tb value s) :=
  .next (.ite (h.write h.servoSrcWrite) h)

theorem State.Canon.sendDelayReq {t : Nat} (h : s.Canon) : (s.sendDelayReq t).Canon := by
  dsimp only [State.sendDelayReq]
  split
  · refine .ite h (.modTb (.bump { h with fh := { h.fh with sent := ?_ } }))
    dsimp only
    exact Tab.rising_put h.fh.sent
  · exact h

theorem execDelayReq_canon {tb : Nat} (h : s.Canon) : CanonNext (execDelayReq tb s) :=
  .next (.ite h.sendDelayReq h)

theorem execHoldoverEntry_canon {tb : Nat} (h : s.Canon) : CanonNext (execHoldoverEntry tb s) :=
  .ite (.next h) (.next h.setLock.modTb)

theorem State.Canon.cellEvent {cell type at_ : Nat} (h : s.Canon) : (s.cellEvent cell type at_).Canon :=
  h.foldl (fun _ _ h => .ite h.raiseEvent h) _

theorem State.Canon.slotBoundary {cell : Nat} (h : s.Canon) : (s.slotBoundary cell).Canon :=
  .ite h (.ite h.endSlot.modCell h.endSlot.modCell.cellEvent)

theorem execSlotBoundary_canon {cell : Nat} (h : s.Canon) : CanonNext (execSlotBoundary cell s) :=
  .next h.slotBoundary

theorem State.Canon.symbolBoundary {cell : Nat} (h : s.Canon) : (s.symbolBoundary cell).Canon := by
  unfold State.symbolBoundary
  refine .ite h ?_
  split
  · exact .ite h.modCell.cellEvent h.modCell
  · exact h

theorem execSymbolBoundary_canon {cell : Nat} (h : s.Canon) : CanonNext (execSymbolBoundary cell s) :=
  .next h.symbolBoundary

theorem State.Canon.switchRadioStack (h : s.Canon) : s.switchRadioStack.Canon := by
  dsimp only [State.switchRadioStack]
  refine .ite h (.ite h (.foldl (fun _ _ h => h.clear) _ (.foldl (fun s x h => ?_) _ { h with tier := { h.tier with } })))
  split
  · exact h.newHood.getD h
  · exact h.newHood.getD h

theorem State.Canon.radioStackBoundary {t : Nat} (h : s.Canon) : (s.radioStackBoundary t).Canon :=
  .ite h.switchRadioStack h

theorem State.Canon.cellBoundary {t cell : Nat} (h : s.Canon) : (s.cellBoundary t cell).Canon := by
  unfold State.cellBoundary
  extract_lets x u v y boot w
  refine .ite h ?_
  have hu : u.Canon := .ite h.endSlot.setReg.clearCell.disableCell.modCell h
  have hv : v.Canon := by
    dsimp only [v]
    split
    · exact .ite hu hu.enableCell
    · exact hu.endSlot.disableCell
    · exact hu
  have hy : y.Canon := hv.enableCell
  have hw : w.Canon := .ite { hy with } hv
  split
  · exact .ite hw.endSlot.modCell.sendCellState hw
  · exact .ite hw.modCell hw
  · exact hw

theorem State.Canon.frameBoundary {t : Nat} (h : s.Canon) : (s.frameBoundary t).Canon :=
  .ite h ((h.tilthSwitch.radioStackBoundary.foldl (fun _ _ h => h.cellBoundary) _).radioCheckAll)

theorem execRadioFrameBoundary_canon {tb : Nat} (h : s.Canon) : CanonNext (execRadioFrameBoundary tb s) :=
  .next (.ite h.frameBoundary h)

/-- The place of an output's edge takes a value. -/
theorem State.Canon.putEdge {k v : Nat} (h : s.Canon) :
    ({ s with pins := { s.pins with edgeAt := s.pins.edgeAt.put k v } } : State).Canon :=
  { h with pins := { h.pins with edgeAt := Tab.rising_put h.pins.edgeAt } }

theorem State.Canon.placeEdge {k t due : Nat} (h : s.Canon) : (s.placeEdge k t due).Canon :=
  State.Canon.putEdge (s := (s.draw Config.edgeLater).2) h.draw

theorem State.Canon.trigEdge {n : Nat} (h : s.Canon) : (s.trigEdge n).Canon := by
  unfold State.trigEdge
  split
  · exact h
  · extract_lets w late pins t u
    have ht : t.Canon := { h with pins := { h.pins with trigNext := Tab.rising_set 0 _ n _ h.pins.trigNext } }
    have hu : u.Canon := ht.placeEdge
    clear_value u
    exact .ite h (.ite ht (.ite ht.bump { hu with pins := { hu.pins with trigEnd := Tab.rising_put hu.pins.trigEnd } }))

theorem execTrigEdge_canon {n : Nat} (h : s.Canon) : CanonNext (execTrigEdge n s) :=
  .next (.ite h.trigEdge h)

theorem execTrigPulseEnd_canon {n : Nat} (h : s.Canon) : CanonNext (execTrigPulseEnd n s) := by
  unfold execTrigPulseEnd
  split
  · exact .next (.ite { h with pins := { h.pins with trigEnd := Tab.rising_erase _ _ h.pins.trigEnd } } h)

theorem State.Canon.trigCfgWrite {n v : Nat} (h : s.Canon) : CanonOk (State.trigCfgWrite n v s) :=
  .ite (.ok h.setReg) (.ite (.ok h.setReg) (.ite .error (.ok (.bumpIf (.setPins h.setReg fun k =>
    { k with trigNext := Tab.rising_set _ _ _ _ k.trigNext })))))

theorem execTrigCfg_canon {sess n : Nat} {value : W32} (h : s.Canon) : CanonNext (execTrigCfg sess n value s) :=
  .next (.ite (h.write h.trigCfgWrite) h)

theorem State.Canon.capMeasure {n k : Nat} (h : s.Canon) : (s.capMeasure n k).Canon :=
  h.foldl (fun _ _ h => .ite (.ite h.measure h) (.ite h.measure h)) _

theorem State.Canon.capEdge {n : Nat} {falling : Bool} (h : s.Canon) : (s.capEdge n falling).Canon := by
  unfold State.capEdge
  refine .ite h ?_
  cases e : s.draw Config.edgePhase with
  | mk k t =>
    have ht : t.Canon := h.draw.of_snd e
    dsimp -zeta only
    extract_lets k at_ px u q pu v
    have hu : u.Canon := ht.setPins fun p => { p with capLast := Tab.rising_set 0 _ n at_ p.capLast }
    have hv : v.Canon := .ite hu.bump (hu.setPins fun p => { p with
      caps := Tab.rising_set [] _ n _ p.caps
      capSeq := Tab.rising_set 0 _ n _ p.capSeq })
    exact .ite ht.bump hv.capMeasure

theorem execCapEdge_canon {n : Nat} {falling : Bool} (h : s.Canon) : CanonNext (execCapEdge n falling s) :=
  .next (.ite h.capEdge h)

theorem execPpsInEdge_canon {falling : Bool} (h : s.Canon) : CanonNext (execPpsInEdge falling s) :=
  .next h.capEdge

theorem State.Canon.capTake {n : Nat} (h : s.Canon) : (s.capTake n).2.Canon := by
  unfold State.capTake
  split
  · exact { h with pins := { h.pins with caps := Tab.rising_set _ _ _ _ h.pins.caps } }
  · exact h

theorem State.Canon.capReadBy {sess n : Nat} (h : s.Canon) : (s.capReadBy sess n).Canon := by
  unfold State.capReadBy
  refine .ite h ?_
  split
  next e => exact (h.capTake.of_snd e).answer

theorem execCapRead_canon {sess n : Nat} (h : s.Canon) : CanonNext (execCapRead sess n s) :=
  .next (.ite h.capReadBy h)

theorem execPpsInRead_canon {sess : Nat} (h : s.Canon) : CanonNext (execPpsInRead sess s) :=
  .next h.capReadBy

theorem execPpsOutEdge_canon (h : s.Canon) : CanonNext (execPpsOutEdge s) := by
  unfold execPpsOutEdge
  extract_lets w t e due late pins u held v
  have hu : u.Canon := { h with pins := { h.pins with } }
  have hv : v.Canon := hu.placeEdge
  clear_value v
  exact .ite (.next h) (.next (.ite hu { hv with pins := { hv.pins with } }))

theorem execPpsOutPulseEnd_canon (h : s.Canon) : CanonNext (execPpsOutPulseEnd s) :=
  .next (.ite { h with pins := { h.pins with } } h)

theorem State.Canon.ppsOutWrite {v : Nat} (h : s.Canon) : CanonOk (State.ppsOutWrite v s) :=
  .ok (.setPins h.setReg fun k => { k with })

theorem execCalibration_canon {unit : CalUnit} (h : s.Canon) : CanonNext (execCalibration unit s) :=
  .next h.bumpIf

/-! ### Machine/Home.lean -/

theorem State.Canon.modPort {p : Nat} {f : Port → Port} (h : s.Canon) : (s.modPort p f).Canon :=
  h.setPort

theorem State.Canon.retrainPort {p : Nat} (h : s.Canon) : (s.retrainPort p).Canon :=
  .ite h h.modPort.bump

theorem State.Canon.linkFields {p h : Nat} (hs : s.Canon) : (s.linkFields p h).Canon :=
  .ite (.ite (.retrainPort (.bump (.modPort (.modPort (.ite hs.modPort hs))))) (.modPort
    (.bump (.modPort (.modPort (.ite hs.modPort hs)))))) (.modPort (.ite hs.modPort hs))

theorem State.Canon.fecCount {p : Nat} {bad : Bool} (h : s.Canon) : (s.fecCount p bad).Canon := by
  dsimp only [State.fecCount]
  refine .modPort ?_
  split
  · exact h.draw.draw
  · dsimp only
    exact h.draw

theorem State.Canon.dropPacket {port case_ : Nat} {r : Reg} {p : Packet} (h : s.Canon) : (s.dropPacket port case_ r p).Canon :=
  h.bump.raise

theorem State.Canon.takePacket {port : Nat} {bs : Bytes} (h : s.Canon) : (s.takePacket port bs).Canon := by
  dsimp only [State.takePacket]
  refine .ite h.bump.modPort.dropPacket (.ite h.bump.modPort.dropPacket (.ite h.bump.modPort.dropPacket ?_))
  split
  · exact h.bump.modPort.dropPacket
  · split
    · exact h.bump.modPort.dropPacket
    · exact .ite h.bump.modPort.dropPacket (.setFab h.bump.modPort fun k => { k with })

theorem State.Canon.parsePackets {port n : Nat} {bs : Bytes} (h : s.Canon) : (s.parsePackets port n bs).Canon := by
  induction n generalizing s bs with
  | zero => exact h.modPort
  | succ n ih => exact .ite h.modPort (.ite h.modPort (.ite h.modPort (ih h.takePacket)))

theorem State.Canon.flitData {port h : Nat} {bs : Bytes} (hs : s.Canon) : (s.flitData port h bs).Canon :=
  hs.parsePackets

theorem State.Canon.flitIn {port : Nat} {f : Flit} (h : s.Canon) : (s.flitIn port f).Canon :=
  .ite h (.ite h.fecCount.bump.modPort (.ite h.fecCount.modPort (.flushFabric (.ite h.fecCount.modPort.linkFields.flitData
    h.fecCount.modPort.linkFields))))

theorem execFlitReceived_canon {port : Nat} {f : Flit} (h : s.Canon) : CanonNext (execFlitReceived port f s) :=
  .next (.ite h.flitIn h)

theorem execRetrain_canon {port : Nat} (h : s.Canon) : CanonNext (execRetrain port s) :=
  .next (.ite h.retrainPort h)

theorem State.Canon.portDown {port : Nat} (h : s.Canon) : (s.portDown port).Canon :=
  .ite h h.setPort.fault

theorem execFabricPortDown_canon {port : Nat} (h : s.Canon) : CanonNext (execFabricPortDown port s) :=
  .next (.ite h.portDown h)

theorem execFabricLinkUp_canon {port peer : Nat} (h : s.Canon) : CanonNext (execFabricLinkUp port peer s) :=
  .ite (.next h) (.next (.flushFabric (.ite h.setReg.modPort h.setReg.setPort)))

theorem State.Canon.takeArrived {p : Packet} (h : s.Canon) : (s.takeArrived p).Canon :=
  { h with fab := { h.fab with } }

theorem State.Canon.serve {kind : Nat} {right : Nat → Bool} {f : State → Nat → Packet → State} (h : s.Canon)
    (hf : ∀ t i p, t.Canon → (f t i p).Canon) : (s.serve kind right f).Canon := by
  unfold State.serve
  split
  · exact h
  split
  · exact h.takeArrived.refusePacket
  split
  · exact h.takeArrived.refusePacket
  · exact .ite h.takeArrived.badRecord (hf _ _ _ h.takeArrived)

theorem execFabricRead_canon (h : s.Canon) : CanonNext (execFabricRead s) :=
  .next (h.serve fun _ _ _ ht => ht.respond)

theorem State.Canon.homeWrite {i a : Nat} {bs : Bytes} (h : s.Canon) : (s.homeWrite i a bs).Canon :=
  h.foldl (fun _ _ h => h.wr) _

theorem execFabricWrite_canon (h : s.Canon) : CanonNext (execFabricWrite s) :=
  .next (h.serve fun _ _ _ ht => ht.homeWrite.respond)

theorem State.Canon.atomicLoop {i member : Nat} {p : Packet} : ∀ {n k : Nat} {bs : Bytes} {s : State}, s.Canon →
    (s.atomicLoop i member p n k bs).2.Canon
  | 0, _, _, _, h => h
  | n + 1, k, bs, s, h => by
    unfold State.atomicLoop
    dsimp only
    refine State.Canon.atomicLoop (n := n) ?_
    split
    · exact h.homeWrite.modJob
    · exact h

theorem State.Canon.atomicAt {i : Nat} {p : Packet} (h : s.Canon) : (s.atomicAt i p).Canon :=
  .ite h.refusePacket (State.Canon.respond (State.Canon.atomicLoop (.ite h.modJob h)))

theorem execAtomic_canon (h : s.Canon) : CanonNext (execAtomic s) :=
  .next (h.serve fun _ _ _ ht => ht.atomicAt)

theorem State.Canon.afterResponse {c : Nat} (h : s.Canon) : (s.afterResponse c).Canon :=
  h.pumpFabric.settleAll.settleSnapshots

theorem State.Canon.landFor {c : Nat} {o : Sent} {off : Nat} {bs : Bytes} (h : s.Canon) : (s.landFor c o off bs).Canon :=
  h.modCtx.afterResponse

/-- What taking a response leaves. -/
theorem State.Canon.takeResponse {kind : Nat} {p : Packet} {o : Option Sent} {t : State} (h : s.Canon)
    (e : s.takeResponse kind = some (p, o, t)) : t.Canon := by
  unfold State.takeResponse at e
  split at e
  · cases e
  · dsimp only at e
    split at e
    · cases e
      exact h.takeArrived.mark
    · cases e
      exact h.takeArrived

theorem execReadData_canon (h : s.Canon) : CanonNext (execReadData s) := by
  unfold execReadData
  split
  next e =>
    split
    · exact .next (h.takeResponse e).landFor
    · exact .next (h.takeResponse e).settleAll.settleSnapshots
  next e => exact .next (h.takeResponse e).settleAll.settleSnapshots
  · exact .next h

theorem execWriteAck_canon (h : s.Canon) : CanonNext (execWriteAck s) := by
  unfold execWriteAck
  split
  next e => exact .next (h.takeResponse e)
  · exact .next h

theorem execAtomicAck_canon (h : s.Canon) : CanonNext (execAtomicAck s) := by
  unfold execAtomicAck
  split
  next e =>
    split
    · exact .next (h.takeResponse e).landFor
    · exact .next (h.takeResponse e).settleAll.settleSnapshots
  next e => exact .next (h.takeResponse e).settleAll.settleSnapshots
  · exact .next h

theorem execDrain_canon (h : s.Canon) : CanonNext (execDrain s) := by
  unfold execDrain
  split
  · exact .next h.takeArrived.respond
  · exact .next h

theorem State.Canon.finishRoute (h : s.Canon) : s.finishRoute.Canon := by
  unfold State.finishRoute
  split
  · exact .ite h (.setReg (.bump { h with fab := { h.fab with } }))
  · exact h

theorem State.Canon.switchRoute {d : Nat} (h : s.Canon) : (s.switchRoute d).Canon :=
  .finishRoute (.flushFabric (.setOct { h with fab := { h.fab with route := Tab.rising_set _ _ _ _ h.fab.route } }))

theorem State.Canon.settleUnreachable (h : s.Canon) : s.settleUnreachable.Canon :=
  h.foldl (fun _ _ h => .ite h h.switchRoute) _

theorem execDrainAck_canon (h : s.Canon) : CanonNext (execDrainAck s) := by
  unfold execDrainAck
  split
  next e =>
    extract_lets drop drains u
    have ht := h.takeResponse e
    have hu : u.Canon := { ht with fab := { ht.fab with } }
    clear_value u
    split
    · exact .next (.ite hu.switchRoute hu)
    · exact .next hu
  · exact .next h

theorem State.Canon.modBuddies {f : List BuddyCopy → List BuddyCopy} (h : s.Canon) : (s.modBuddies f).Canon :=
  { h with fab := { h.fab with } }

theorem State.Canon.buddyFrame (h : s.Canon) : (s.buddyFrame).2.Canon :=
  h.pickStart

theorem State.Canon.freeCopy {b : BuddyCopy} (h : s.Canon) : (s.freeCopy b).Canon :=
  (h.foldl (fun _ _ h => h.freeFrame) _).modBuddies

theorem State.Canon.openCopy {job src : Nat} {header : Bool} {k : Nat} (h : s.Canon) : (s.openCopy job src header k).Canon := by
  unfold State.openCopy
  refine .ite h (.modBuddies ?_)
  split
  · exact h.freeCopy
  · exact h

theorem State.Canon.copyWrite {b : BuddyCopy} {off : Nat} {bs : Bytes} (h : s.Canon) : (s.copyWrite b off bs).Canon := by
  unfold State.copyWrite
  refine h.foldl (fun s x h => ?_) _
  split
  · exact h.wr
  · exact h

theorem State.Canon.closeCopy {b : BuddyCopy} (h : s.Canon) : (s.closeCopy b).Canon :=
  .ite h (.ite h.modBuddies h)

theorem State.Canon.copyFrames {c : BuddyCopy} {t : State} {n : Nat} {b : BuddyCopy} (h : s.Canon)
    (e : s.copyFrames b n = some (c, t)) : t.Canon := by
  induction n generalizing s b with
  | zero =>
    cases e
    exact h
  | succ n ih =>
    dsimp only [State.copyFrames] at e
    split at e
    next hf => exact ih (h.buddyFrame.of_snd hf).setFrame.clear e
    · cases e

theorem State.Canon.bulkWrite {p : Packet} (h : s.Canon) : (s.bulkWrite p).Canon := by
  unfold State.bulkWrite
  extract_lets header off t at_
  have ht : t.Canon := h.openCopy
  have hr : ∀ {u : State} {b c n}, t.copyFrames b n = some (c, u) → u.Canon := ht.copyFrames
  -- The copier becomes a variable and the rest a lemma about it, so that the kernel never evaluates it to compare matches.
  clear_value t
  generalize State.copyFrames = R at hr ⊢
  as_aux_lemma =>
    split
    · exact ht.refusePacket
    · dsimp only
      split
      · exact ht.refusePacket
      next e => exact (hr e).modBuddies.copyWrite.closeCopy.respond

theorem execBulkWrite_canon (h : s.Canon) : CanonNext (execBulkWrite s) := by
  unfold execBulkWrite
  split
  · exact .next h.takeArrived.bulkWrite
  · exact .next h

theorem State.Canon.bulkRead {p : Packet} (h : s.Canon) : (s.bulkRead p).Canon := by
  dsimp only [State.bulkRead]
  split
  · exact h.refusePacket
  · split
    · exact h.badRecord.modBuddies
    · exact h.respond

theorem execBulkRead_canon (h : s.Canon) : CanonNext (execBulkRead s) := by
  unfold execBulkRead
  split
  · exact .next h.takeArrived.bulkRead
  · exact .next h

theorem execBulkAck_canon (h : s.Canon) : CanonNext (execBulkAck s) := by
  unfold execBulkAck
  split
  next e => exact .next (h.takeResponse e).settleSnapshots
  · exact .next h

theorem State.Canon.endRestore {i : Nat} {ok : Bool} (h : s.Canon) : (s.endRestore i ok).Canon := by
  unfold State.endRestore
  exact h.modOut.modJob.setReg

theorem State.Canon.restoreImages {n job : Nat} {l : List Bytes} (h : s.Canon) : CanonSome (s.restoreImages n job l) := by
  have hr : ∀ {s : State} {n c img job pasid}, s.Canon → CanonSome (s.restoreCtx n c img job pasid) := State.Canon.restoreCtx
  -- The restore of one image becomes a variable and the induction a lemma about it, so that the kernel never evaluates it.
  delta State.restoreImages State.restoreImages._f
  generalize State.restoreCtx = R at hr ⊢
  as_aux_lemma =>
    induction l generalizing s with
    | nil => exact .some h
    | cons img rest ih =>
      refine .ite .none ?_
      split
      next e => exact ih (hr h _ e)
      · exact .none

theorem State.Canon.fillRegions {i : Nat} {l : List Nat} {bs : Bytes} (h : s.Canon) : (s.fillRegions i l bs).Canon := by
  induction l generalizing s bs with
  | nil => exact h
  | cons r rs ih => exact ih h.homeWrite

theorem State.Canon.finishRestore {i total : Nat} {r : Restoring} (h : s.Canon) : (s.finishRestore i r total).Canon := by
  dsimp only [State.finishRestore]
  refine .ite h.endRestore ?_
  split
  next e => exact State.Canon.endRestore (State.Canon.setSliceState (h.restoreImages _ e).fillRegions)
  · exact h.endRestore

theorem State.Canon.askCopy {i : Nat} {r : Restoring} {total : Nat} {header : Bool} (h : s.Canon) :
    (s.askCopy i r total header).Canon :=
  h.foldl (fun _ _ h => h.request) _

theorem State.Canon.bulkData {i off : Nat} {bs : Bytes} (h : s.Canon) : (s.bulkData i off bs).Canon := by
  unfold State.bulkData
  split
  · exact h
  · refine .ite h.modJob ?_
    split
    · exact .ite h.modJob.modJob.finishRestore h.modJob.modJob.askCopy
    · exact h.modJob.finishRestore

theorem execBulkData_canon (h : s.Canon) : CanonNext (execBulkData s) := by
  unfold execBulkData
  split
  next e =>
    split
    · exact .next (h.takeResponse e).bulkData
    · exact .next (h.takeResponse e)
  next e => exact .next (h.takeResponse e)
  · exact .next h

theorem execRefuse_canon (h : s.Canon) : CanonNext (execRefuse s) := by
  have hr {t : State} {l : List RefusalReport} (ht : t.Canon) : ({ t with fab := { t.fab with refusals := l } } : State).Canon :=
    { ht with fab := { ht.fab with } }
  unfold execRefuse
  split
  next e =>
    have ht := h.takeResponse e
    split
    · exact .next ht.endSnapshot
    · exact .next ht.endRestore
    · exact .next ht.modCell
    · exact .next (hr ht)
    · exact .next (hr ht)
    · exact .next (hr ht)
    · exact .next ht
  next e => exact .next (h.takeResponse e).settleAll.settleSnapshots
  · exact .next h

theorem State.Canon.installUe {cell off n : Nat} (h : s.Canon) : (s.installUe cell off n).Canon := by
  have hu {u : State} {i w : Nat} (hu : u.Canon) : ({ u with radio := { u.radio with ue := u.radio.ue.set 0 i w } } : State).Canon
    :=
    { hu with radio := { hu.radio with ue := Tab.rising_set 0 _ i w hu.radio.ue } }
  exact h.foldl (fun _ _ h => .ite (hu h) h) _

theorem State.Canon.installGain {cell off : Nat} {bs : Bytes} (h : s.Canon) : (s.installGain cell off bs).Canon :=
  h.modCell

theorem State.Canon.landCell {cell part off : Nat} {bs : Bytes} (h : s.Canon) : (s.landCell cell part off bs).Canon := by
  unfold State.landCell
  extract_lets count
  split
  · exact h.radioStackWrite.installUe.modCell
  · exact h.radioStackWrite.modCell
  · exact h.radioStackWrite.installGain.modCell
  · exact .ite h.radioStackWrite.modCell h.radioStackWrite

theorem State.Canon.firstSlot {cell : Nat} (h : s.Canon) : (s.firstSlot cell).Canon :=
  .ite (.cellEvent (.ite h h.bump.fault)) (.ite h h.bump.fault)

theorem State.Canon.cellData {p : Packet} (h : s.Canon) : (s.cellData p).Canon :=
  .ite h.refusePacket (.respond (.ite h.landCell.firstSlot h.landCell))

theorem execCellData_canon (h : s.Canon) : CanonNext (execCellData s) := by
  unfold execCellData
  split
  · exact .next h.takeArrived.cellData
  · exact .next h

theorem execCellAck_canon (h : s.Canon) : CanonNext (execCellAck s) := by
  unfold execCellAck
  split
  next e => exact .next (h.takeResponse e)
  · exact .next h

/-! ### Machine/Relevo.lean -/

theorem State.Canon.routeTableWrite {data : Bytes} (h : s.Canon) : CanonOk (State.routeTableWrite data s) :=
  .ite .error (.ok h.setOct)

theorem execRouteTable_canon {sess : Nat} {data : Bytes} (h : s.Canon) : CanonNext (execRouteTable sess data s) :=
  .next (h.writeOctets h.routeTableWrite)

theorem State.Canon.sendDrains {d : Nat} (h : s.Canon) : (s.sendDrains d).Canon := by
  refine .ite h (h.foldl (fun u k hu => State.Canon.request ?_) _)
  exact { hu with fab := { hu.fab with } }

theorem State.Canon.routeCommit {v : Nat} (h : s.Canon) : CanonOk (State.routeCommit v s) :=
  .ite .error (.ok (.finishRoute (.foldl (fun _ _ h => h.switchRoute) _ (.foldl (fun _ _ h => h.sendDrains) _
    (.setFab h.setReg fun k => { k with })))))

theorem execRouteCommit_canon {sess value : Nat} (h : s.Canon) : CanonNext (execRouteCommit sess value s) :=
  .next (h.write h.routeCommit)

theorem execRouteDrainTimeout_canon {dest : Nat} (h : s.Canon) : CanonNext (execRouteDrainTimeout dest s) := by
  unfold execRouteDrainTimeout
  split
  · exact .ite (.next h) (.next (.settleUnreachable (.raise { h with fab := { h.fab with } })))
  · exact .next h

theorem State.Canon.fabWfq {v : Nat} (h : s.Canon) : CanonOk (State.fabWfq v s) := by
  refine .ite .error (.ok (State.Canon.bump (h.foldl (fun u p hu => hu.foldl (fun w x hw => ?_) _) _)))
  exact { hw.setReg with fab := { hw.fab with weights := Tab.rising_set _ _ _ _ hw.fab.weights } }

theorem execRelevoWfqCommit_canon {sess value : Nat} (h : s.Canon) : CanonNext (execRelevoWfqCommit sess value s) :=
  .next (h.write h.fabWfq)

theorem execReqTimeout_canon {dest job : Nat} {seq : W64} (h : s.Canon) : CanonNext (execReqTimeout dest job seq s) := by
  unfold execReqTimeout
  split
  · refine .ite (.next h) ?_
    split
    · exact .next h.modOut.bump.raise.endSnapshot
    · exact .next h.modOut.bump.raise.endRestore
    · exact .next h.modOut.bump.raise
  · exact .next h

theorem State.Canon.eraseJob {i : Nat} (h : s.Canon) : (s.eraseJob i).Canon :=
  (h.foldl (fun _ _ h => h.freeFrame) _).modJob

theorem State.Canon.takeLedger {i job k : Nat} (h : s.Canon) : CanonSome (s.takeLedger i job k) := by
  induction k generalizing s with
  | zero => exact .some h
  | succ k ih =>
    dsimp only [State.takeLedger]
    split
    next e => exact ih (h.pickStart.of_snd e).clear.setFrame.modJob
    · exact .none

theorem State.Canon.dropStreams {job : Nat} (h : s.Canon) : (s.dropStreams job).Canon :=
  { h with fab := { h.fab with streams := Tab.rising_keep (p := fun k _ => decide (k % 65536 ≠ job)) h.fab.streams } }

theorem State.Canon.dropTraffic {job : Nat} (h : s.Canon) : (s.dropTraffic job).Canon :=
  { h with fab := { h.fab with } }

theorem State.Canon.jobCfgWrite {i : Nat} {data : Bytes} (h : s.Canon) : CanonOk (State.jobCfgWrite i data s) := by
  have hl : ∀ {i job k}, CanonSome (s.takeLedger i job k) := h.takeLedger
  unfold State.jobCfgWrite
  -- As in `bulkWrite`, the kernel must not evaluate the taking of frames.
  generalize State.takeLedger = R at hl ⊢
  as_aux_lemma =>
    extract_lets w old
    refine .ite (.ite .error (.ite .error (.ite (.ok h) (.ok ?_)))) (.ite (.ite .error (.ok h.setOct)) ?_)
    · exact h.eraseJob.dropTraffic.setOct.setReg.settleRegions.settleUnreachable
    · split
      · exact .error
      · split
        · exact .error
        next e => exact .ok (hl _ e).modJob.setOct.setReg.dropStreams

theorem execJobCfg_canon {sess : Nat} {value : BitVec 256} (h : s.Canon) : CanonNext (execJobCfg sess value s) :=
  .next (h.writeOctets h.jobCfgWrite)

theorem State.Canon.endJobEntry {i cause : Nat} (h : s.Canon) : (s.endJobEntry i cause).Canon :=
  (((((((((h.setReg.foldl (fun _ _ h => h.countRemoved.teardown)
    _).dropTraffic).setReg).setReg).eraseJob).dropStreams).setReg).settleRegions).settleUnreachable).settleAll

theorem State.Canon.jobTeardownWrite {i cause : Nat} (h : s.Canon) : CanonOk (State.jobTeardownWrite i cause s) :=
  .ite (.ok h.endJobEntry) .error

theorem execJobTeardown_canon {sess cause : Nat} (h : s.Canon) : CanonNext (execJobTeardown sess cause s) :=
  .next (h.write h.jobTeardownWrite)

theorem State.Canon.ctxJobWrite {c v : Nat} (h : s.Canon) : CanonOk (State.ctxJobWrite c v s) :=
  .ite .error (.ite .error (.ite .error (.ok h.setReg.checkNext)))

theorem execCtxJobId_canon {sess : Nat} {value : W64} (h : s.Canon) : CanonNext (execCtxJobId sess value s) :=
  .next (h.write h.ctxJobWrite)

theorem State.Canon.winLoad {i : Nat} {data : Bytes} (h : s.Canon) : CanonOk (State.winLoad i data s) :=
  .ite .error (.ok h.modJob.setReg)

theorem execWinLoadData_canon {sess : Nat} {data : Bytes} (h : s.Canon) : CanonNext (execWinLoadData sess data s) :=
  .next (h.writeOctets h.winLoad)

theorem State.Canon.winCommit {i v : Nat} (h : s.Canon) : CanonOk (State.winCommit i v s) := by
  dsimp only [State.winCommit]
  split
  · exact .error
  · exact .ok h.modJob.setReg.bump.checkAll

theorem execWinCommit_canon {sess value : Nat} (h : s.Canon) : CanonNext (execWinCommit sess value s) :=
  .next (h.write h.winCommit)

theorem State.Canon.fabricEnable (h : s.Canon) : CanonOk (s.fabricEnable) := by
  unfold State.fabricEnable
  refine .ite (.ok h) (.ite .error ?_)
  split
  next f s1 e => exact .ok (.flushFabric (.setReg (.dropStreams (.setFab (h.random.of_snd e) fun k => { k with }))))

theorem State.Canon.revoke (h : s.Canon) : s.revoke.Canon :=
  .ite h (.foldl (fun _ _ h => h.switchRoute) _ (.setFab ((h.fault.foldl (fun _ _ h => h.endJobEntry) _).setReg) fun k
    => { k with }))

theorem State.Canon.fabricCtrl {v : Nat} (h : s.Canon) : CanonOk (State.fabricCtrl v s) :=
  .ite h.fabricEnable (.ok h.revoke)

theorem execFabricEnable_canon {sess : Nat} (h : s.Canon) : CanonNext (execFabricEnable sess s) :=
  .next (h.write h.fabricCtrl)

theorem execFabricRevoke_canon {sess : Nat} (h : s.Canon) : CanonNext (execFabricRevoke sess s) :=
  .next (h.write h.fabricCtrl)

theorem State.Canon.snapshotWrite {i id : Nat} (h : s.Canon) : CanonOk (State.snapshotWrite i id s) := by
  dsimp only [State.snapshotWrite]
  refine .ite .error (.ok ((((h.foldl (fun s x h => ?_) _).modJob).setReg).settleSnapshot))
  split
  · exact .ite h.modCtx.killCtx h.modCtx
  · exact h.modCtx

theorem execJobSnapshot_canon {sess snapId : Nat} (h : s.Canon) : CanonNext (execJobSnapshot sess snapId s) :=
  .next (h.write h.snapshotWrite)

theorem State.Canon.adoptWrite {i old : Nat} (h : s.Canon) : CanonOk (State.adoptWrite i old s) :=
  .ite .error (.ite (.ok h) (.ok ((h.foldl (fun _ _ h => h.freeCopy) _).modBuddies)))

theorem execBuddyAdopt_canon {sess oldJob : Nat} (h : s.Canon) : CanonNext (execBuddyAdopt sess oldJob s) :=
  .next (h.write h.adoptWrite)

theorem State.Canon.restoreWrite {i v : Nat} (h : s.Canon) : CanonOk (State.restoreWrite i v s) :=
  .ite .error (.ite .error (.ok h.modJob.setReg.askCopy))

theorem execRestoreFromBuddy_canon {sess value : Nat} (h : s.Canon) : CanonNext (execRestoreFromBuddy sess value s) :=
  .next (h.write h.restoreWrite)

theorem State.Canon.releaseWrite {job : Nat} (h : s.Canon) : CanonOk (State.releaseWrite job s) :=
  .ok (h.foldl (fun _ _ h => h.freeCopy) _)

theorem execBuddyRelease_canon {sess job : Nat} (h : s.Canon) : CanonNext (execBuddyRelease sess job s) :=
  .next (h.write h.releaseWrite)

/-! ### Machine/Restart.lean -/

theorem State.Canon.cleared (h : s.Canon) : s.cleared.Canon := by
  have hr := State.Canon.reset
  have hf : (Tier.forBuild s.build).Canon := { hr.tier with }
  have hm : (s.mem.keep fun a _ => decide (a < padBase)).wf 0 = true := Tab.wf_keep 0 _ _ h.mem
  exact { hr with
    mem := hm
    host := h.host
    tier := { hf with }
    hif := { hr.hif with }
    mgmt := { hr.mgmt with }
    power := ⟨.nil, .nil, .nil⟩ }

theorem State.Canon.packageReset {cause : Nat} (h : s.Canon) : (s.packageReset cause).Canon :=
  h.cleared.setReg.setReg

/-! ### Machine/Faults.lean -/

theorem State.Canon.heartbeat (h : s.Canon) : s.heartbeat.Canon :=
  .ite h (.foldl (fun _ _ h => h.report) _ (.setReg { h with faults := { h.faults with log := Tab.rising_put h.faults.log } }))

theorem execHeartbeat_canon (h : s.Canon) : CanonNext (execHeartbeat s) :=
  .next h.heartbeat

theorem State.Canon.hbEchoWrite {m v : Nat} (h : s.Canon) : CanonOk (State.hbEchoWrite m v s) := by
  unfold State.hbEchoWrite
  refine .ite (.ok { h with faults := { h.faults with renewed := ?_ } }) .error
  dsimp only
  exact Tab.rising_set _ _ _ _ h.faults.renewed

theorem State.Canon.hbEchoBy {sess v : Nat} (h : s.Canon) : CanonOk (State.hbEchoBy sess v s) := by
  unfold State.hbEchoBy
  split
  · exact .error
  · exact h.hbEchoWrite

theorem execHbEcho_canon {sess value : Nat} (h : s.Canon) : CanonNext (execHbEcho sess value s) :=
  .next (h.write h.hbEchoBy)

theorem execSelfFence_canon (h : s.Canon) : CanonNext (execSelfFence s) :=
  .next (.ite h.bump.revoke h)

theorem State.Canon.hbEnableWrite {v : Nat} (h : s.Canon) : CanonOk (State.hbEnableWrite v s) := by
  unfold State.hbEnableWrite
  refine .ok (.setReg (.ite { h with faults := { h.faults with renewed := ?_ } } h))
  dsimp only
  exact Tab.rising_set _ _ _ _ .nil

theorem State.Canon.hbTimes {r : Reg} {v loss period : Nat} (h : s.Canon) : CanonOk (State.hbTimes r v loss period s) :=
  .ite .error (.ok h.setReg)

theorem State.Canon.epochEnd (h : s.Canon) : s.epochEnd.Canon :=
  .foldl (fun _ _ h => h.report.report.foldl (fun _ _ h => h.event) _) _ { h with faults := { h.faults with } }

theorem execReportEpochEnd_canon (h : s.Canon) : CanonNext (execReportEpochEnd s) :=
  .next h.epochEnd

theorem State.Canon.scrub {l : Loc} {r : ScrubResult} (h : s.Canon) : (s.scrub l r).Canon := by
  dsimp only [State.scrub]
  split
  · exact h
  · refine .setFaults h.bump fun k => { k with corrected := ?_ }
    dsimp only
    exact Tab.rising_set 0 _ _ _ h.faults.corrected
  · have hb {w : List Nat} : ({ s with tier := { s.tier with badWords := w } } : State).Canon := h.setTier fun k => { k with }
    exact .ite (.packageReset (.ite hb.bump hb.bump.raise)) (.ite hb.bump hb.bump.raise)

theorem execScrub_canon {loc : Loc} {result : ScrubResult} (h : s.Canon) : CanonNext (execScrub loc result s) :=
  .next h.scrub

theorem State.Canon.ceSecond {u : UnitId} {corrected : Nat} (h : s.Canon) : (s.ceSecond u corrected).Canon := by
  unfold State.ceSecond
  extract_lets key n b faults t
  have ht : t.Canon := State.Canon.setFaults h.bump fun k => { k with corrected := Tab.rising_set 0 _ key 0 h.faults.corrected }
  exact .ite ht.fault ht

theorem execCeSecond_canon {unit : UnitId} {corrected : Nat} (h : s.Canon) : CanonNext (execCeSecond unit corrected s) :=
  .next h.ceSecond

theorem State.Canon.killOn {es : List Nat} (h : s.Canon) : (s.killOn es).Canon := by
  unfold State.killOn
  refine h.foldl (fun s x h => ?_) _
  split
  · split
    · exact .ite h h.killCtx
    · exact h
  · exact h

theorem State.Canon.radioOn {es : List Nat} (h : s.Canon) : (s.radioOn es).Canon := by
  dsimp only [State.radioOn]
  refine h.foldl (fun s x h => ?_) _
  split
  · exact .killRadio (.ite h.fault h)
  · exact .ite h.fault h

theorem State.Canon.enginesLeave {es : List Nat} (h : s.Canon) : (s.enginesLeave es).Canon :=
  (((h.killOn.radioOn.foldl (fun _ _ h => h.stopShadow) _).askMoves).rebindTilth).settleAll

theorem State.Canon.radioStackLost {n : Nat} (h : s.Canon) : (s.radioStackLost n).Canon :=
  .ite h (h.foldl (fun _ _ h => .ite h.modCell.fault h) _)

theorem State.Canon.stackLeaves {n : Nat} (h : s.Canon) : (s.stackLeaves n).Canon :=
  .ite h (.radioStackLost (.fault { h with faults := { h.faults with } }))

theorem State.Canon.coresLeave {l : List Nat} (h : s.Canon) : (s.coresLeave l).Canon := by
  refine h.foldl (fun u n hu => ?_) _
  have ht : ({ u with faults := { u.faults with dspOut := setBit u.faults.dspOut n true } } : State).Canon :=
    { hu with faults := { hu.faults with } }
  exact .ite ht.leaveHandler ht

theorem State.Canon.xpLeaves {p : Nat} (h : s.Canon) : (s.xpLeaves p).Canon :=
  .ite h (.portDown { h with faults := { h.faults with } })

theorem State.Canon.fhLeaves {p : Nat} (h : s.Canon) : (s.fhLeaves p).Canon :=
  { h with fh := { h.fh with } }

theorem State.Canon.dieLeaves {n : Nat} (h : s.Canon) : (s.dieLeaves n).Canon :=
  .ite h (.fault (.enginesLeave { h with faults := { h.faults with } }))

theorem State.Canon.routerLost {n : Nat} (h : s.Canon) : (s.routerLost n).Canon := by
  dsimp only [State.routerLost]
  refine .ite h ?_
  split
  · exact .stackLeaves (.fault (.dieLeaves { h with faults := { h.faults with } }))
  · exact .fault (.dieLeaves { h with faults := { h.faults with } })

theorem State.Canon.unitLeaves {u : UnitId} (h : s.Canon) : (s.unitLeaves u).Canon := by
  unfold State.unitLeaves
  split
  · exact .ite h (.fault (.enginesLeave { h with faults := { h.faults with } }))
  · exact .ite h.dieLeaves h
  · exact h.stackLeaves
  · exact .ite h h.coresLeave.fault
  · exact .ite h h.coresLeave.fault
  · exact .ite h ((h.foldl (fun _ _ h => h.xpLeaves) _).fault)
  · exact .ite h h.xpLeaves.fault
  · exact .ite h (.fault (.foldl (fun _ _ h => h.fhLeaves) _ { h with faults := { h.faults with } }))
  · exact .ite h.fhLeaves.fault h
  · exact .ite (.fault { h with faults := { h.faults with } }) h
  · exact h.fault
  · exact h.fault
  · exact h.fault

/-- The list of the units that are cut off takes a value. -/
theorem State.Canon.setCutOff {l : List UnitId} (h : s.Canon) :
    ({ s with faults := { s.faults with cutOff := l } } : State).Canon :=
  { h with faults := { h.faults with } }

theorem State.Canon.cutUnits {k : Nat} (h : s.Canon) : (s.cutUnits k).Canon := by
  induction k generalizing s with
  | zero => exact h
  | succ k ih =>
    dsimp -zeta only [State.cutUnits]
    split
    · exact h
    · refine ih (h.foldl (fun u x hu => ?_) _)
      extract_lets t
      have ht : t.Canon := by
        dsimp only [t]
        split
        · exact hu.routerLost
        · exact hu.unitLeaves.fault
      exact .ite ht ht.setCutOff

theorem State.Canon.meshLoss (h : s.Canon) : s.meshLoss.Canon := h.cutUnits.meshSwitch

theorem State.Canon.routerFault {n : Nat} (h : s.Canon) : (s.routerFault n).Canon :=
  .ite h h.routerLost.meshLoss

theorem State.Canon.leave {u : UnitId} (h : s.Canon) : (s.leave u).Canon := by
  unfold State.leave
  split
  · exact .ite h.unitLeaves.meshLoss h
  · exact h.unitLeaves

theorem execUnitOut_canon {unit : UnitId} {router : Bool} (h : s.Canon) : CanonNext (execUnitOut unit router s) := by
  unfold execUnitOut
  refine .next ?_
  split
  · exact h.routerFault
  · exact h.leave

theorem execLinkRetrain_canon {link : Nat} (h : s.Canon) : CanonNext (execLinkRetrain link s) := by
  unfold execLinkRetrain
  refine .next (.ite h { h with faults := { h.faults with linksRetrained := ?_ } })
  dsimp only
  exact Tab.rising_set _ _ _ _ h.faults.linksRetrained

theorem execLinkDown_canon {link : Nat} (h : s.Canon) : CanonNext (execLinkDown link s) :=
  .next (.ite h (.meshLoss (.fault { h with faults := { h.faults with } })))

theorem State.Canon.quarantine {es : List Nat} (h : s.Canon) : (s.quarantine es).Canon :=
  h.enginesLeave.foldl (fun _ _ h => h.fault.fault) _

theorem State.Canon.quarantineWrite {v : Nat} (h : s.Canon) : CanonOk (State.quarantineWrite v s) := by
  have hf {t : State} {e : Nat} (ht : t.Canon) : ({ t.setReg .meMismatches 0 e with
      faults := { t.faults with meOut := setBit t.faults.meOut e false } } : State).Canon := by
    have hr : (t.setReg .meMismatches 0 e).Canon := ht.setReg
    exact { hr with faults := { ht.faults with } }
  unfold State.quarantineWrite
  extract_lets old added back t u
  have hu : u.Canon := State.Canon.foldl (fun _ _ ht => hf ht) _ h.setOct
  exact .ite .error (.ok (.ite hu hu.quarantine))

theorem execMeQuarantine_canon {sess : Nat} {value : BitVec 128} (h : s.Canon) : CanonNext (execMeQuarantine sess value s) :=
  .next (h.writeOctets h.quarantineWrite)

theorem State.Canon.dieReturns {d : Nat} (h : s.Canon) : (s.dieReturns d).Canon :=
  { h with faults := { h.faults with } }

theorem State.Canon.cdOutWrite {v : Nat} (h : s.Canon) : CanonOk (State.cdOutWrite v s) :=
  .ite .error (.ok (.foldl (fun _ _ h => h.enginesLeave.fault) _ (.ite ((h.setReg.foldl (fun _ _ h => h.dieReturns) _).meshSwitch)
    (h.setReg.foldl (fun _ _ h => h.dieReturns) _))))

theorem execCdOutMask_canon {sess : Nat} {value : W16} (h : s.Canon) : CanonNext (execCdOutMask sess value s) :=
  .next (h.write h.cdOutWrite)

theorem State.Canon.dropShadow {w : Shadow} (h : s.Canon) : (s.dropShadow w).Canon :=
  { h with faults := { h.faults with } }

theorem State.Canon.skipShadow {w : Shadow} (h : s.Canon) : (s.skipShadow w).Canon :=
  .ite h.dropShadow.bump h.dropShadow.bump.modCtx

theorem State.Canon.startShadow {w : Shadow} {e : Nat} (h : s.Canon) : (s.startShadow w e).Canon := by
  unfold State.startShadow
  split
  next e2 _ =>
    exact .engineBusy (.beginPass (.modEngine (.loadParams (.setFaults
      ((((h.pickStart.of_snd e2).clear).clear).foldl (fun _ _ h => h.wr) _) fun k => { k with }))))
  · exact h

theorem execShadowStart_canon (h : s.Canon) : CanonNext (execShadowStart s) := by
  unfold execShadowStart
  refine .next ?_
  split
  · exact h
  · refine .ite h.skipShadow ?_
    split
    next e1 => exact (h.choose.of_snd e1).startShadow
    · exact h

theorem execShadowMaxAge_canon (h : s.Canon) : CanonNext (execShadowMaxAge s) := by
  unfold execShadowMaxAge
  refine .next ?_
  split
  · exact h.skipShadow
  · exact h

theorem State.Canon.shadowCopied {c : Nat} (h : s.Canon) : (s.shadowCopied c).Canon :=
  .ite h (.checkNext (.modCtx { h with faults := { h.faults with } }))

theorem execShadowCopyDone_canon {ctx : Nat} (h : s.Canon) : CanonNext (execShadowCopyDone ctx s) :=
  .next h.shadowCopied

theorem State.Canon.chargeMismatch {e : Nat} (h : s.Canon) : (s.chargeMismatch e).Canon :=
  .ite h.bump.setOct.quarantine h.bump

theorem State.Canon.mismatch {w : Shadow} {r : ShadowResult} {third : Option ShadowResult} (h : s.Canon) :
    (s.mismatch w r third).Canon := by
  dsimp only [State.mismatch]
  have hm {t : State} {l : List Bytes} {n : Nat} (ht : t.Canon) :
      ({ t with free := n, faults := { t.faults with mismatches := l } } : State).Canon :=
        { ht with faults := { ht.faults with } }
  exact .foldl (fun _ _ h => h.chargeMismatch) _ (.raise (hm h.bump))

theorem execShadowCompare_canon {shadow : ShadowResult} {third : Option ShadowResult} (h : s.Canon) :
    CanonNext (execShadowCompare shadow third s) := by
  unfold execShadowCompare
  refine .next ?_
  split
  · exact h
  · exact .ite h.clearShadow.dropShadow.bump h.clearShadow.dropShadow.bump.mismatch

/-! ### Machine/Slices.lean -/

theorem State.Canon.pasidOffset {v : Nat} (h : s.Canon) : CanonOk (State.pasidOffset v s) :=
  .ite .error (.ok h.setReg)

theorem State.Canon.pasidLoad {data : Bytes} (h : s.Canon) : CanonOk (State.pasidLoad data s) :=
  .ite .error (.ite .error (.ok (.setReg { h with hif := { h.hif with pasidShadow := Tab.rising_setRun _ _ _ _ h.hif.pasidShadow }
    })))

theorem execPasidLoadData_canon {sess : Nat} {data : Bytes} (h : s.Canon) : CanonNext (execPasidLoadData sess data s) :=
  .next (h.writeOctets h.pasidLoad)

theorem State.Canon.pasidCommit {v : Nat} (h : s.Canon) : CanonOk (State.pasidCommit v s) :=
  .ite .error (.ite .error (.ite .error (.ok (.ite (.pasidBoundary { h with hif := { h.hif with } })
    { h with hif := { h.hif with } }))))

theorem State.Canon.ctxPasidWrite {c v : Nat} (h : s.Canon) : CanonOk (State.ctxPasidWrite c v s) :=
  .ite .error (.ite (.ok h.modWanted.tryBoundary.checkNext) (.ok h.setReg))

theorem execCtxPasid_canon {sess value : Nat} (h : s.Canon) : CanonNext (execCtxPasid sess value s) :=
  .next (h.write h.ctxPasidWrite)

theorem State.Canon.privReq {sess c v : Nat} (h : s.Canon) : CanonOk (State.privReq sess c v s) :=
  .ite (.ok h.setReg) (.ite .error (.ok h.modWanted.tryBoundary))

theorem execCtxPrivReq_canon {sess value : Nat} (h : s.Canon) : CanonNext (execCtxPrivReq sess value s) :=
  .next (h.write h.privReq)

theorem State.Canon.sharedReq {sess c v : Nat} (h : s.Canon) : CanonOk (State.sharedReq sess c v s) :=
  .ite (.ok h.setReg) (.ite .error (.ok h.modWanted.tryBoundary))

theorem execCtxSharedReq_canon {sess value : Nat} (h : s.Canon) : CanonNext (execCtxSharedReq sess value s) :=
  .next (h.write h.sharedReq)

theorem State.Canon.freezeSlice {n : Nat} (h : s.Canon) : (s.freezeSlice n).Canon := by
  unfold State.freezeSlice
  refine ((h.setSliceState.foldl (fun s x h => ?_) _).settleFreeze).yieldTurns
  split
  · split
    · exact .ite h.killCtx h
    · exact h
  · exact h

theorem State.Canon.thawSlice {n : Nat} (h : s.Canon) : (s.thawSlice n).Canon :=
  (h.setSliceState.foldl (fun _ _ h => h.modPage) _).foldl (fun _ _ h => .ite h.beginWait.checkNext h) _

theorem State.Canon.sliceCtrl {n v : Nat} (h : s.Canon) : CanonOk (State.sliceCtrl n v s) :=
  .ite (.ite .error (.ok h.freezeSlice)) (.ite (.ite .error (.ok h.thawSlice)) .error)

theorem execFreeze_canon {sess slice : Nat} (h : s.Canon) : CanonNext (execFreeze sess slice s) :=
  .next (h.write h.sliceCtrl)

theorem execThaw_canon {sess slice : Nat} (h : s.Canon) : CanonNext (execThaw sess slice s) :=
  .next (h.write h.sliceCtrl)

theorem State.Canon.sliceSave {n : Nat} {v : Bytes} (h : s.Canon) : CanonOk (State.sliceSave n v s) :=
  .ite .error (.ok (.setReg { h with hif := { h.hif with saves := Tab.rising_put h.hif.saves } }))

theorem execSliceSave_canon {sess slice iova pasid : Nat} (h : s.Canon) : CanonNext (execSliceSave sess slice iova pasid s) :=
  .next (h.writeOctets h.sliceSave)

theorem State.Canon.endSave {n status : Nat} (h : s.Canon) : (s.endSave n status).Canon :=
  .setReg { h with hif := { h.hif with saves := Tab.rising_erase _ _ h.hif.saves } }

theorem execSliceSaveDone_canon {slice : Nat} (h : s.Canon) : CanonNext (execSliceSaveDone slice s) :=
  .ite (.next h) (.ite (.next h.endSave) (.next h.hostWr.setReg.endSave))

theorem State.Canon.sliceRestore {n : Nat} {v : Bytes} (h : s.Canon) : CanonOk (State.sliceRestore n v s) :=
  .ite .error (.ite .error (.ok (.setReg { h with hif := { h.hif with restores := Tab.rising_put h.hif.restores } })))

theorem execSliceRestore_canon {sess slice iova pasid : Nat} {strict : Bool} (h : s.Canon) :
    CanonNext (execSliceRestore sess slice iova pasid strict s) :=
  .next (h.writeOctets h.sliceRestore)

theorem State.Canon.imageRegs {n : Nat} {img : Bytes} (h : s.Canon) : (s.imageRegs n img).Canon :=
  (h.setReg.setReg.setReg.setReg.setReg.setReg.setReg.setReg.foldl (fun _ _ h => h.setSync) _).settleRegions

theorem State.Canon.putRegion {frames : List Nat} {bs : Bytes} (h : s.Canon) : (s.putRegion frames bs).Canon :=
  h.foldl (fun _ _ h => h.wrRun) _

theorem State.Canon.restoreAll {n pasid : Nat} {img : Bytes} {l : List Bytes} (h : s.Canon) :
    CanonSome (State.restoreAll n pasid img s l) := by
  induction l generalizing s with
  | nil => exact .some h
  | cons i is ih =>
    dsimp only [State.restoreAll]
    split
    next e => exact ih (h.restoreCtx _ e)
    · exact .none

theorem State.Canon.restored {n : Nat} {t : Transfer} {img : Bytes} (h : s.Canon) : CanonSome (s.restored n t img) := by
  dsimp only [State.restored]
  refine .ite .none (.ite .none ?_)
  split
  · exact .none
  next e =>
    split
    · exact .none
    next e' =>
      have hu := (h.imageRegs.putRegion.loamCommit _ e).switchMap.restoreAll _ e'
      exact .some (State.Canon.setReg (.ite hu.freezeSlice hu))

theorem State.Canon.endSliceRestore {n status : Nat} (h : s.Canon) : (s.endSliceRestore n status).Canon :=
  .setReg { h with hif := { h.hif with restores := Tab.rising_erase _ _ h.hif.restores } }

theorem execSliceRestoreDone_canon {slice : Nat} (h : s.Canon) : CanonNext (execSliceRestoreDone slice s) := by
  dsimp only [execSliceRestoreDone]
  refine .ite (.next h) (.ite (.next h.endSliceRestore) ?_)
  split
  next e => exact .next (h.restored _ e).endSliceRestore
  · exact .next h.endSliceRestore

theorem State.Canon.dropContexts {cs : List Nat} (h : s.Canon) : (s.dropContexts cs).Canon :=
  h.foldl (fun _ _ h => h.teardown.removeCtx.modPage) _

theorem State.Canon.emptySlice {n : Nat} (h : s.Canon) : (s.emptySlice n).Canon := by
  unfold State.emptySlice
  extract_lets t u tier v
  have ht : t.Canon := h.foldl (fun _ _ h => h.dropPage) _
  have hu : u.Canon := ht.foldl (fun _ _ h => h.freeFrame) _
  have hv : v.Canon := hu.setTier fun k => { k with
    regions := Tab.rising_set [] _ n [] k.regions
    prefetch := Tab.rising_set [] _ n [] k.prefetch
    window := Tab.rising_set 0 _ n 0 k.window }
  exact hv.setReg.refillFetches

theorem State.Canon.clearSync {n : Nat} (h : s.Canon) : (s.clearSync n).Canon :=
  { h with hif := { h.hif with sync := h.hif.sync.filter _ } }

theorem State.Canon.sliceMapWrite {n v : Nat} (h : s.Canon) : CanonOk (State.sliceMapWrite n v s) :=
  .ite .error (.ite .error (.ite .error (.ite .error (.ok (.settleFreeze (.settleRegions
    (.ite (.clearSync (.ite h.dropContexts.setReg.emptySlice h.dropContexts.setReg))
    (.ite h.dropContexts.setReg.emptySlice h.dropContexts.setReg))))))))

theorem State.Canon.moveHome {n : Nat} (h : s.Canon) : (s.moveHome n).Canon :=
  h.foldl (fun _ _ h => h.modWanted.tryBoundary.checkNext) _

theorem State.Canon.sealWrite {n : Nat} {v : Bytes} (h : s.Canon) : CanonOk (State.sealWrite n v s) :=
  .ite .error (.ite .error (.ite .error (.ite .error (.ite .error (.ok (.ite h.setOct.moveHome h.setOct))))))

theorem State.Canon.silentKills (h : s.Canon) : s.silentKills.Canon := by
  unfold State.silentKills
  refine h.foldl (fun s x h => ?_) _
  split
  · exact .ite h.killCtx.modCmd h
  · exact h

theorem execFunctionLevelReset_canon {kind : FunctionReset} (h : s.Canon) : CanonNext (execFunctionLevelReset kind s) := by
  unfold execFunctionLevelReset
  extract_lets t u v w hif x
  have hu : u.Canon := .foldl (fun _ _ h => h.freezeSlice) _ h.bump.silentKills
  have hv : v.Canon := .foldl (fun _ _ h => h.endSave) _ hu
  have hw : w.Canon := .foldl (fun _ _ h => h.endSliceRestore) _ hv
  have hx : x.Canon := hw.setHif fun k => { k with msix := .nil }
  exact .next (.ite hx.setReg hx)

theorem execPcieLinkUp_canon {lanes rate : Nat} (h : s.Canon) : CanonNext (execPcieLinkUp lanes rate s) :=
  .ite (.next h) (.next (.checkAll (.setReg { h with hif := { h.hif with } })))

theorem State.Canon.requestFailed {c : Nat} (h : s.Canon) : (s.requestFailed c).Canon :=
  .ite h.bump.teardown.settleAll h

theorem State.Canon.dropUp {n : Nat} (h : s.Canon) : (s.dropUp n).Canon :=
  .ite h h.hostWr.modChannel

theorem execHostRequestFailed_canon {what : HostRequest} (h : s.Canon) : CanonNext (execHostRequestFailed what s) := by
  unfold execHostRequestFailed
  split
  · exact .next h.requestFailed
  · exact .next h.requestFailed
  · split
    · exact .next h.fetchFailed
    · exact .next h
  · split
    · exact .next h.fetchFailed
    · exact .next h
  · exact .next (.ite (h.write .error).mapReadFailed (h.write .error))
  · exact .next (.ite h.bump.endSave h)
  · exact .next (.ite h.bump.endSliceRestore h)
  · exact .next (.ite h.bump.bump.fault.dropUp (.ite h.bump.bump.fault h.bump.bump.fault.modChannel))

/-! ### Machine/Reset.lean -/

theorem execResetN_canon (h : s.Canon) : CanonNext (execResetN s) :=
  .next h.packageReset

theorem execHubWatchdog_canon (h : s.Canon) : CanonNext (execHubWatchdog s) :=
  .next h.packageReset

theorem execSeqFault_canon {rail : Nat} (h : s.Canon) : CanonNext (execSeqFault rail s) :=
  .next (.setBoot h.packageReset)

theorem execThermtrip_canon (h : s.Canon) : CanonNext (execThermtrip s) :=
  .next (.setBoot h.packageReset)

/-- What a lost stacked memory leaves: no bytes and the tiers of a package that starts. -/
theorem State.Canon.loseMemory (h : s.Canon) {boot : Boot} :
    ({ s with mem := [], tier := Tier.forBuild s.build, boot } : State).Canon :=
  have hf : (Tier.forBuild s.build).Canon := { State.Canon.reset.tier with }
  { h with mem := rfl, tier := hf }

theorem State.Canon.powerOff (h : s.Canon) : s.powerOff.Canon := h.cleared.loseMemory

theorem execPowerOff_canon (h : s.Canon) : CanonNext (execPowerOff s) :=
  .next h.powerOff

theorem execPowerOn_canon (h : s.Canon) : CanonNext (execPowerOn s) :=
  .next h.powerOff

theorem execSuppliesRestored_canon (h : s.Canon) : CanonNext (execSuppliesRestored s) :=
  .ite (.next h) (.next h.loseMemory)

theorem execResetRelease_canon (h : s.Canon) : CanonNext (execResetRelease s) :=
  .ite (.next h) (.next { h with })

theorem State.Canon.resetWrite {v : Nat} (h : s.Canon) : CanonOk (State.resetWrite v s) :=
  .ite .error (.ok { h with mgmt := { h.mgmt with } })

theorem State.Canon.resetIfAsked (h : s.Canon) : s.resetIfAsked.Canon :=
  .ite h.packageReset h

theorem execResetRequest_canon {sess value : Nat} (h : s.Canon) : CanonNext (execResetRequest sess value s) :=
  .next (h.write h.resetWrite).resetIfAsked

/-! ### Machine/Power.lean -/

theorem State.Canon.requestIdle {t : Throttle} (h : s.Canon) : (s.requestIdle t).Canon := by
  unfold State.requestIdle
  refine { h with engines := ?_ }
  dsimp only
  exact Tab.rising_mapAll h.engines

theorem State.Canon.setStep {k : Nat} (h : s.Canon) : (s.setStep k).Canon :=
  h.setReg.setReg.setReg.setReg.requestIdle

theorem State.Canon.burstPasses (h : s.Canon) : (s.burstPasses).2.Canon := by
  unfold State.burstPasses
  split
  · exact h
  · exact { h with }

theorem State.Canon.sensed {hottest : Int} (h : s.Canon) : (s.sensed hottest).Canon := by
  unfold State.sensed
  extract_lets t power u die data pu v pv
  have ht : t.Canon := h.setRegI
  have hu : u.Canon := ht.setPower fun k => { k with }
  have hv : v.Canon := .ite (.fault (hu.setPower fun k => { k with })) hu
  exact .ite (.ite hv (.fault (hv.setPower fun k => { k with }))) (.ite (hv.setPower fun k => { k with }) hv)

theorem State.Canon.burstStep {est : Nat} (h : s.Canon) : (s.burstStep est).Canon := by
  unfold State.burstStep
  split
  · split
    next s1 e1 => exact .setPower (h.burstPasses.of_snd e1) fun k => { k with }
  · refine .ite h ?_
    split
    next s1 e1 => exact .ite (.setPower (h.burstPasses.of_snd e1) fun k => { k with }) (h.burstPasses.of_snd e1)

theorem State.Canon.sumPower {est : Nat} (h : s.Canon) : (s.sumPower est).Canon :=
  .ite { h with power := { h.power with } } (.setReg { h with power := { h.power with } })

theorem State.Canon.controlPeriod {m : PowerSample} (h : s.Canon) : (s.controlPeriod m).Canon := by
  unfold State.controlPeriod
  extract_lets est t power u v k w
  have ht : t.Canon := h.sumPower.sensed
  have hu : u.Canon := ht.setPower fun k => { k with }
  exact hu.burstStep.setStep.bumpIf

theorem execControlPeriod_canon {m : PowerSample} (h : s.Canon) : CanonNext (execControlPeriod m s) :=
  .next h.controlPeriod

theorem State.Canon.powerCap {v : Nat} (h : s.Canon) : CanonOk (State.powerCap v s) :=
  .ite .error (.ite .error (.ok (.setPower h.setReg fun k => { k with })))

theorem execPowerCapW_canon {sess value : Nat} (h : s.Canon) : CanonNext (execPowerCapW sess value s) :=
  .next (h.write h.powerCap)

theorem State.Canon.burstWrite {v : Nat} (h : s.Canon) : CanonOk (State.burstWrite v s) :=
  .ite .error (.ok (.setPower h.setReg fun k => { k with }))

theorem State.Canon.thermalUpdate {m : ThermalSample} (h : s.Canon) : (s.thermalUpdate m).Canon := by
  unfold State.thermalUpdate
  extract_lets t hot u w next pu v x flowing ms px y cap die py z
  have ht : t.Canon := h.setRegI.setRegI.setReg
  have hu : u.Canon := .ite ht.fault ht
  have hv : v.Canon := by
    clear_value next
    cases next with
    | some t => exact hu.setPower fun k => { k with }
    | none => exact .setPower (s := { u with free := u.free + 1 }) { hu with } fun k => { k with }
  have hy : y.Canon := hv.setRegI.setPower fun k => { k with }
  have hz : z.Canon := by
    dsimp only [z]
    split
    · exact hy.setPower fun k => { k with }
    · exact hy
  exact hz.sensed

theorem execThermalUpdate_canon {m : ThermalSample} (h : s.Canon) : CanonNext (execThermalUpdate m s) :=
  .next h.thermalUpdate

theorem State.Canon.flowDemand (h : s.Canon) : s.flowDemand.Canon := by
  unfold State.flowDemand
  exact .setReg { h with power := { h.power with } }

theorem execFlowDemandUpdate_canon (h : s.Canon) : CanonNext (execFlowDemandUpdate s) :=
  .next h.flowDemand

theorem execFlowLow_canon (h : s.Canon) : CanonNext (execFlowLow s) :=
  .ite (.next h) (.next (.setStep (.fault { h with power := { h.power with } })))

theorem State.Canon.railOut {r : Nat} (h : s.Canon) : (s.railOut r).Canon :=
  .ite h.routerFault (.ite (.foldl (fun _ _ h => h.leaveHandler) _ (.foldl (fun _ _ h => h.modCell) _
    { h with power := { h.power with } })) (.ite h h.packageReset))

theorem State.Canon.railCondition {r : Nat} {c : RailCondition} (h : s.Canon) : (s.railCondition r c).Canon := by
  dsimp only [State.railCondition]
  split
  · exact h.fault.railOut
  · exact h.fault.railOut
  · exact .ite h.railOut h
  · exact .setStep (.setPower h.fault fun k => { k with })
  · exact h.setPower fun k => { k with }
  · exact .ite (h.setPower fun k => { k with }) h

theorem execRailOutOfRange_canon {rail : Nat} {condition : RailCondition} (h : s.Canon) :
    CanonNext (execRailOutOfRange rail condition s) :=
  .next (.ite h.railCondition h)

theorem State.Canon.readRail {x : RailSample} (h : s.Canon) : (s.readRail x).Canon := by
  have hf {n : Nat} : ({ s with power := { s.power with fails := s.power.fails.set 0 x.rail n } } : State).Canon :=
    h.setPower fun k => { k with fails := Tab.rising_set 0 _ x.rail n k.fails }
  exact .ite h (.ite hf.setReg.setReg.setReg (.ite hf hf.bump.fault.railOut))

theorem State.Canon.telemetry {rails : List RailSample} {mw : Nat} (h : s.Canon) : (s.telemetry rails mw).Canon :=
  .foldl (fun _ _ h => h.readRail) _ (.setReg { h with power := { h.power with } })

theorem execTelemetryUpdate_canon {rails : List RailSample} {measuredMw : Nat} (h : s.Canon) :
    CanonNext (execTelemetryUpdate rails measuredMw s) :=
  .next h.telemetry

theorem execPmbAlert_canon {r : RailSample} (h : s.Canon) : CanonNext (execPmbAlert r s) :=
  .next (.ite h.railCondition.readRail h.readRail)

theorem State.Canon.vcoreStep {die : Nat} {up : Bool} (h : s.Canon) : (s.vcoreStep die up).Canon := by
  unfold State.vcoreStep
  refine { h with power := { h.power with setPoint := ?_, stepped := ?_ } }
  · dsimp only
    exact Tab.rising_set _ _ _ _ h.power.setPoint
  · dsimp only
    exact Tab.rising_set _ _ _ _ h.power.stepped

theorem execAvsStep_canon {die : Nat} {up : Bool} (h : s.Canon) : CanonNext (execAvsStep die up s) :=
  .next (.ite h h.vcoreStep)

theorem execTimingMarginLow_canon {die : Nat} (h : s.Canon) : CanonNext (execTimingMarginLow die s) :=
  .next (.ite h h.vcoreStep)

theorem execSensorCalibration_canon {die sensor : Nat} {differs : Bool} (h : s.Canon) :
    CanonNext (execSensorCalibration die sensor differs s) :=
  .ite (.next h) (.next h.setOct.fault)

theorem execRefLost_canon (h : s.Canon) : CanonNext (execRefLost s) :=
  .next (.ite h h.setReg.bump.fault)

theorem execRefRestored_canon {locked : Bool} (h : s.Canon) : CanonNext (execRefRestored locked s) := by
  unfold execRefRestored
  refine .next ?_
  split
  · exact h.setReg.fault
  · exact h.setReg
  · exact h

theorem execRootPllUnlock_canon (h : s.Canon) : CanonNext (execRootPllUnlock s) :=
  .next (.ite h h.fault.packageReset)

theorem State.Canon.dieLost {d : Nat} (h : s.Canon) : (s.dieLost d).Canon :=
  .ite h.leave (.ite h (.routerFault { h with faults := { h.faults with } }))

theorem State.Canon.dieUnlock {d : Nat} (h : s.Canon) : (s.dieUnlock d).Canon := by
  unfold State.dieUnlock
  refine .ite h ?_
  split
  · exact h.setReg.fault.dieLost

theorem execDiePllUnlock_canon {die : Nat} (h : s.Canon) : CanonNext (execDiePllUnlock die s) :=
  .next h.dieUnlock

theorem execDiePllRelock_canon {die : Nat} (h : s.Canon) : CanonNext (execDiePllRelock die s) :=
  .next (.ite h h.setReg)

theorem execCrossingStall_canon {unit : UnitId} (h : s.Canon) : CanonNext (execCrossingStall unit s) :=
  .next (.ite h.bump.fault.leave h)

theorem State.Canon.rclkWrite {v : Nat} (h : s.Canon) : CanonOk (State.rclkWrite v s) :=
  .ite .error (.ok h.setReg)

theorem execRclkCfg_canon {sess : Nat} {value : W16} (h : s.Canon) : CanonNext (execRclkCfg sess value s) :=
  .next (h.write h.rclkWrite)

/-! ### Machine/Firmware.lean -/

theorem State.Canon.runImage {d : Nat} {img : Bytes} (h : s.Canon) : (s.runImage d img).Canon := by
  unfold State.runImage
  exact .setOct (.setReg (.setReg { h with }))

theorem State.Canon.slotResult {d : Nat} {ok : Bool} (h : s.Canon) : (s.slotResult d ok).Canon :=
  .ite h.setReg h.setReg.setReg

theorem State.Canon.fwOffset {v : Nat} (h : s.Canon) : CanonOk (State.fwOffset v s) :=
  .ite .error (.ite .error (.ok h.setReg))

theorem State.Canon.fwLoad {data : Bytes} (h : s.Canon) : CanonOk (State.fwLoad data s) :=
  .ite .error (.ite .error (.ok (.slotResult (.setReg (.flashWr (.ite h.flashErase h))))))

theorem execFwLoadData_canon {sess : Nat} {data : Bytes} (h : s.Canon) : CanonNext (execFwLoadData sess data s) :=
  .next (h.writeOctets h.fwLoad)

theorem State.Canon.fwCommit {digest : Bytes} (h : s.Canon) : CanonOk (State.fwCommit digest s) :=
  .ite .error (.ite .error (.ok h.setOct.bumpIf.slotResult))

theorem execFwCommit_canon {sess : Nat} {digest : Bytes} (h : s.Canon) : CanonNext (execFwCommit sess digest s) :=
  .next (h.writeOctets h.fwCommit)

theorem State.Canon.handoverWrite {v : Nat} (h : s.Canon) : CanonOk (State.handoverWrite v s) :=
  .ite .error (.ite .error (.ok (.setBoot h.setReg)))

theorem execHandover_canon {sess value : Nat} (h : s.Canon) : CanonNext (execHandover sess value s) :=
  .next (h.write h.handoverWrite)

theorem State.Canon.carryNumerics (h : s.Canon) : s.carryNumerics.Canon :=
  h.setReg

theorem State.Canon.handoverDone {ok : Bool} (h : s.Canon) : (s.handoverDone ok).Canon := by
  refine .ite h (.ite (.resetIfAsked (.slotResult (.setBoot h.runImage.setReg.carryNumerics))) (.ite ?_ ?_))
  · exact h.bump.setReg.slotResult.resetIfAsked
  · exact .resetIfAsked (.slotResult (.carryNumerics (.setReg (.runImage h.setBoot))))

theorem execHandoverComplete_canon {ok : Bool} (h : s.Canon) : CanonNext (execHandoverComplete ok s) :=
  .next h.handoverDone

theorem execHandoverConfirmTimeout_canon (h : s.Canon) : CanonNext (execHandoverConfirmTimeout s) :=
  .ite (.next h) (.next (.setBoot h.setReg))

theorem execRecoveryHoldEnd_canon {q : Nat} (h : s.Canon) : CanonNext (execRecoveryHoldEnd q s) :=
  .ite (.next h) (.next h.qSetRecovery)

/-! ### Machine/Copies.lean -/

theorem State.Canon.startSave (h : s.Canon) : s.startSave.Canon := by
  unfold State.startSave
  extract_lets seq
  refine .ite h.setReg ?_
  have hv {t : State} {d : Nat} (ht : t.Canon) : ((t.flashErase d copyOff copyMax).setReg (copySeqReg d) 0).Canon :=
    ht.flashErase.setReg
  have hm {t : State} {l : Option Bytes} {d : Nat} (ht : t.Canon) :
      ({ t.setReg .configStatus 1 with mgmt := { t.mgmt with saving := l, saveTarget := d } } : State).Canon := by
    have hr : (t.setReg .configStatus 1).Canon := ht.setReg
    exact { hr with mgmt := { ht.mgmt with } }
  refine hm (hv ?_)
  split
  · exact State.Canon.random (n := 8) h
  · exact State.Canon.random (n := 8) h
  · exact (State.Canon.random (n := 8) h).choose

theorem State.Canon.autoSave (h : s.Canon) : s.autoSave.Canon :=
  .ite { h with mgmt := { h.mgmt with } } h.startSave

theorem State.Canon.configSave {v : Nat} (h : s.Canon) : CanonOk (State.configSave v s) :=
  .ite .error (.ite .error (.ok h.startSave))

theorem execConfigSave_canon {sess value : Nat} (h : s.Canon) : CanonNext (execConfigSave sess value s) :=
  .next (h.write h.configSave)

theorem State.Canon.releaseHeld (h : s.Canon) : s.releaseHeld.Canon :=
  .ite (.startSave { h with mgmt := { h.mgmt with } }) h

theorem State.Canon.saveDone {ok : Bool} (h : s.Canon) : (s.saveDone ok).Canon := by
  unfold State.saveDone
  split
  · exact h
  · exact .resetIfAsked (.releaseHeld (.event (.ite (.bump (.setReg (.setReg (.setReg
      (.setReg (.setReg (.flashWr { h with mgmt := { h.mgmt with } }))))))) (.fault
      (.setReg { h with mgmt := { h.mgmt with } })))))

theorem execConfigSaveDone_canon {readBackOk : Bool} (h : s.Canon) : CanonNext (execConfigSaveDone readBackOk s) :=
  .next h.saveDone

/-! ### Machine/Entries.lean -/

theorem CanonOk.refuseIf {b : Bool} {e : Nat} {x : Except Nat State} (hx : CanonOk x) : CanonOk (Machine.refuseIf b e x) :=
  .ite .error hx

theorem State.Canon.keep {sess : Nat} {r : Reg} {i v : Nat} (h : s.Canon) : CanonOk (s.keep sess r i v) :=
  .ok (.ite h.setSreg h.setReg)

theorem State.Canon.radioStackEntry {r : Reg} {v : Nat} (h : s.Canon) : (s.radioStackEntry r v).Canon :=
  .ite (.switchRadioStack (.setTier h.setReg fun k => { k with })) (.setTier h.setReg fun k => { k with })

theorem State.Canon.radioPadEntry {r : Reg} {v : Nat} (h : s.Canon) : (s.radioPadEntry r v).Canon :=
  h.setReg.askMoves.resizeUnbound

theorem State.Canon.tierRule {sess : Nat} {r : Reg} {i v : Nat} (h : s.Canon) : CanonOk (State.tierRule sess r i v s) :=
  .ite h.lcFloor (.ite (.refuseIf (.ok h.radioStackEntry)) (.ite (.refuseIf (.ok h.radioStackEntry))
    (.ite (.ok h.radioPadEntry) (.ite h.privQuota (.ite h.spQuota (.ite h.loamQuota
    (.ite (.refuseIf (.ok h.setReg)) (.ite h.loamCommit h.keep))))))))

theorem State.Canon.schedRule {sess : Nat} {r : Reg} {i v : Nat} (h : s.Canon) : CanonOk (State.schedRule sess r i v s) :=
  .ite h.tilthOffset (.ite h.classWrite (.ite (.refuseIf h.keep) (.ite h.moveWrite
    (.ite (.refuseIf h.keep) h.keep))))

theorem State.Canon.ldpcLoad {data : Bytes} (h : s.Canon) : CanonOk (State.ldpcLoad data s) :=
  .refuseIf (.ok { h with radio := { h.radio with } })

theorem State.Canon.ldpcCommit {v : Nat} (h : s.Canon) : CanonOk (State.ldpcCommit v s) :=
  .ite .error (.ite .error (.ok (.setRadio h.setReg fun k => { k with })))

theorem State.Canon.cellCfgWrite {c v : Nat} (h : s.Canon) : CanonOk (State.cellCfgWrite c v s) :=
  .ite .error (.ite .error (.ite .error (.ite .error (.ite .error (.ok h.setReg.modCell)))))

theorem State.Canon.ueRange {r : Reg} {c v base count : Nat} (h : s.Canon) : CanonOk (State.ueRange r c v base count s) :=
  .ite .error (.ite .error (.ok h.setReg))

theorem State.Canon.cellMoveWrite {c : Nat} {data : Bytes} (h : s.Canon) : CanonOk (State.cellMoveWrite c data s) :=
  .ite .error (.ite .error (.ite .error (.ok h.setOct.modCell)))

theorem State.Canon.radioRule {sess : Nat} {r : Reg} {i v : Nat} (h : s.Canon) : CanonOk (State.radioRule sess r i v s) :=
  .ite h.ldpcCommit (.ite h.progOffset (.ite h.cellCfgWrite (.ite h.ueRange (.ite h.ueRange h.keep))))

theorem State.Canon.classEntryWrite {i : Nat} {data : Bytes} (h : s.Canon) : CanonOk (State.classEntryWrite i data s) :=
  .ite .error (.ite .error (.ok h.setOct))

theorem State.Canon.qLevelWrite {q v : Nat} (h : s.Canon) : (s.qLevelWrite q v).Canon := by
  unfold State.qLevelWrite
  exact h.setReg.qSync.modQueue

theorem State.Canon.queueRule {sess role : Nat} {r : Reg} {i v : Nat} (h : s.Canon) :
    CanonOk (State.queueRule sess role r i v s) :=
  .ite h.queueSelectWrite (.ite h.qCfgWrite (.ite (.ok h.qLevelWrite) (.ite (.refuseIf h.keep)
    (.ite (.refuseIf h.keep) (.ite (.ok h.setReg) (.ite (.refuseIf (.refuseIf h.keep))
    (.ite (.refuseIf (.refuseIf h.keep)) h.keep)))))))

theorem State.Canon.fronthaulRule {sess : Nat} {r : Reg} {i v : Nat} (h : s.Canon) :
    CanonOk (State.fronthaulRule sess r i v s) := by
  refine .ite h.portModeWrite (.ite h.wfqCommit (.ite h.polCommit (.ite (.refuseIf h.keep) (.ite ?_ ?_))))
  · refine .refuseIf (.refuseIf (State.Canon.keep (h.setFh fun k => { k with profileShadow := ?_ })))
    exact Tab.rising_set _ _ _ _ k.profileShadow
  · exact .ite (.refuseIf h.keep) (.ite (.refuseIf h.keep)
      (.ite (.refuseIf (.refuseIf h.keep)) h.keep))

theorem State.Canon.timeRule {sess : Nat} {r : Reg} {i v : Nat} (h : s.Canon) : CanonOk (State.timeRule sess r i v s) :=
  .ite h.stepWrite (.ite h.frameOffsetWrite (.ite h.servoSrcWrite (.ite (.refuseIf (.refuseIf h.keep))
    (.ite (.refuseIf h.keep) (.ite h.trigCfgWrite (.ite (.refuseIf h.keep)
    (.ite (.refuseIf h.keep) (.ite (.refuseIf h.keep) (.ite h.ppsOutWrite h.keep)))))))))

theorem State.Canon.relevoRule {sess : Nat} {r : Reg} {i v : Nat} (h : s.Canon) : CanonOk (State.relevoRule sess r i v s) :=
  .ite (.refuseIf (.refuseIf h.keep)) (.ite h.fabricCtrl (.ite h.routeCommit
    (.ite h.fabWfq (.ite (.refuseIf (.ok h.setReg.flushFabric)) (.ite
    (.refuseIf (.refuseIf h.keep)) (.ite h.jobTeardownWrite
    (.ite (.refuseIf h.keep) (.ite h.winCommit (.ite h.snapshotWrite
    (.ite h.adoptWrite (.ite h.restoreWrite (.ite h.releaseWrite (.ite h.ctxJobWrite h.keep)))))))))))))

theorem State.Canon.sliceMapRule {i v : Nat} (h : s.Canon) : CanonOk (State.sliceMapRule i v s) := by
  unfold State.sliceMapRule
  split
  · exact .error
  next e => exact .refuseIf (.ok (h.sliceMapWrite _ e))

theorem State.Canon.hostRule {sess : Nat} {r : Reg} {i v : Nat} (h : s.Canon) : CanonOk (State.hostRule sess r i v s) :=
  .ite h.pasidOffset (.ite h.pasidCommit (.ite (.refuseIf h.keep) (.ite (.refuseIf h.keep)
    (.ite h.sliceMapRule (.ite h.sliceCtrl (.ite h.ctxPasidWrite (.ite h.privReq
    (.ite h.sharedReq (.ite h.rhcCfg (.ite (.refuseIf h.keep) h.keep))))))))))

theorem State.Canon.setSecret {r : Reg} {i : Nat} {k : Bytes} (h : s.Canon) : (s.setSecret r i k).Canon :=
  .ite { h with prot := { h.prot with roleKeys := Tab.rising_set _ _ _ _ h.prot.roleKeys } }
    (.ite { h with prot := { h.prot with tenantKeys := Tab.rising_set _ _ _ _ h.prot.tenantKeys } }
    { h with prot := { h.prot with } })

theorem State.Canon.secretWrite {r : Reg} {i : Nat} {v : Bytes} (h : s.Canon) : CanonOk (State.secretWrite r i v s) := by
  unfold State.secretWrite
  split
  · exact .ok h.setSecret
  · exact .error

theorem State.Canon.releasePart (h : s.Canon) : CanonOk (s.releasePart) :=
  .ite .error (.ok (.setProt h.setOct.setOct fun k => { k with roleKeys := .nil, tenantKeys := .nil }))

theorem State.Canon.anchorWrite {r : Reg} {v : Bytes} (h : s.Canon) : CanonOk (State.anchorWrite r v s) :=
  .ite .error (.ok h.setOct)

theorem State.Canon.securityRule {sess : Nat} {r : Reg} {i v : Nat} (h : s.Canon) : CanonOk (State.securityRule sess r i v s) :=
  .ite h.releasePart (.ite (.refuseIf h.keep) (.ite h.configSave h.keep))

theorem State.Canon.fwConfirm {v : Nat} (h : s.Canon) : CanonOk (State.fwConfirm v s) :=
  .ite .error (.ite .error (.ok (.autoSave (.setBoot h.setReg.setReg))))

theorem execFwConfirm_canon {sess value : Nat} (h : s.Canon) : CanonNext (execFwConfirm sess value s) :=
  .next (h.write h.fwConfirm)

theorem State.Canon.serviceRule {sess : Nat} {r : Reg} {i v : Nat} (h : s.Canon) : CanonOk (State.serviceRule sess r i v s) :=
  .ite h.cdOutWrite (.ite h.hbEnableWrite (.ite h.hbTimes (.ite h.hbTimes (.ite h.hbEchoBy
    (.ite h.rclkWrite (.ite h.powerCap (.ite h.burstWrite (.ite (.refuseIf h.keep)
    (.ite (.refuseIf h.keep) (.ite h.resetWrite (.ite h.fwOffset (.ite h.handoverWrite
    (.ite h.fwConfirm h.keep)))))))))))))

theorem State.Canon.octetRule {r : Reg} {i : Nat} {v : Bytes} (h : s.Canon) : CanonOk (State.octetRule r i v s) :=
  .ite h.tilthLoad (.ite h.tilthCommit (.ite (.refuseIf (.ok h.setOct))
    (.ite h.ldpcLoad (.ite h.progLoad (.ite h.progCommit (.ite h.cellMoveWrite (.ite h.classEntryWrite
    (.ite (.refuseIf (.ok h.setOct)) (.ite h.secretWrite (.ite h.routeTableWrite
    (.ite h.jobCfgWrite (.ite h.winLoad (.ite h.pasidLoad (.ite h.sealWrite (.ite h.sliceSave
    (.ite h.sliceRestore (.ite .error (.ite h.anchorWrite (.ite h.quarantineWrite
    (.ite h.fwLoad (.ite h.fwCommit (.ok h.setOct))))))))))))))))))))))

theorem State.Canon.numberRule {sess role : Nat} {r : Reg} {i v : Nat} (h : s.Canon) :
    CanonOk (State.numberRule sess role r i v s) := by
  unfold State.numberRule
  split
  · exact h.tierRule
  · exact h.schedRule
  · exact h.radioRule
  · exact .ite h.queueRule h.fronthaulRule
  · exact h.timeRule
  · exact h.relevoRule
  · exact h.hostRule
  · exact h.securityRule
  · exact .ite h.serviceRule h.securityRule
  · exact h.serviceRule
  · exact h.serviceRule
  · exact h.serviceRule
  · exact h.serviceRule
  · exact h.keep

theorem State.Canon.entryRule {sess role : Nat} {r : Reg} {i : Nat} {v : Bytes} (h : s.Canon) :
    CanonOk (State.entryRule sess role r i v s) :=
  .ite h.octetRule (State.Canon.byRules h.numberRule)

theorem State.Canon.issueNonce (h : s.Canon) : (s.issueNonce).2.Canon := by
  unfold State.issueNonce
  split
  next s1 e => exact .setMgmt (h.random.of_snd e) fun k => { k with }

theorem State.Canon.readEntry {sess : Nat} {r : Reg} {i : Nat} (h : s.Canon) : (s.readEntry sess r i).2.Canon := by
  unfold State.readEntry
  split
  · exact h.issueNonce
  · split
    · exact h.capTake
    · split
      · exact h.capTake
      · split
        · exact h.setReg
        · split
          · exact h
          · exact h

/-! ### Machine/Sessions.lean -/

theorem State.Canon.makeReport {n : Nat} {nonce : Bytes} (h : s.Canon) : (s.makeReport n nonce).Canon := by
  unfold State.makeReport
  exact .modSess { h with mgmt := { h.mgmt with } }

theorem State.Canon.claimRule {data : Bytes} (h : s.Canon) : CanonOk (State.claimRule data s) := by
  have hc {t : State} (ht : t.Canon) : ({ t with prot := { t.prot with claimed := true } } : State).Canon :=
    { ht with prot := { ht.prot with } }
  unfold State.claimRule
  extract_lets keys t u
  have hu : u.Canon := State.Canon.foldl (fun _ _ ht => ht.setSecret) _ h.setOct.setOct
  exact .ite .error (.ite .error (.ite .error (.ok (hc hu).autoSave)))

theorem State.Canon.noteApplied {r : Reg} {i : Nat} {c : Change} (h : s.Canon) : (s.noteApplied r i c).Canon := by
  unfold State.noteApplied
  refine .ite { h with prot := { h.prot with lastNonce := ?_ } } (.ite h.setOct (.ite h.setReg h))
  dsimp only
  exact Tab.rising_set _ _ _ _ h.prot.lastNonce

theorem State.Canon.dropChange {nonce : BitVec 128} (h : s.Canon) : (s.dropChange nonce).Canon :=
  { h with mgmt := { h.mgmt with } }

theorem State.Canon.applyChange {n : Nat} {c : Change} {r : Reg} {i : Nat} (h : s.Canon) : (s.applyChange n c r i).Canon := by
  dsimp only [State.applyChange]
  split
  next e => exact ((((h.dropChange.entryRule _ e).noteApplied).bump).event).autoSave
  · exact h.dropChange.bump.ignoreWrite.event

theorem State.Canon.openChange {c : Change} (h : s.Canon) : (s.openChange c).Canon :=
  .event { h with mgmt := { h.mgmt with } }

theorem State.Canon.endorse {n : Nat} {r : Reg} {i : Nat} {v : Bytes} {e : Endorsement} (h : s.Canon) :
    (s.endorse n r i v e).Canon := by
  unfold State.endorse
  split
  · refine .ite h.bump.ignoreWrite ?_
    split
    · exact .ite h.bump.ignoreWrite (.ite h.ignoreWrite h.applyChange)
    · exact .ite h.ignoreWrite h.openChange

theorem execNonceLapse_canon {nonce : BitVec 128} (h : s.Canon) : CanonNext (execNonceLapse nonce s) :=
  .next { h with mgmt := { h.mgmt with } }

theorem execChangeExpired_canon {nonce : BitVec 128} (h : s.Canon) : CanonNext (execChangeExpired nonce s) := by
  unfold execChangeExpired
  split
  · exact .next h
  · exact .next h.dropChange.bump.event

theorem State.Canon.putEntry {n fam : Nat} {r : Reg} {v : Bytes} (h : s.Canon) : (s.putEntry n r fam v).Canon := by
  unfold State.putEntry
  extract_lets i ix x failed t
  have ht : t.Canon := h.take h.entryRule
  refine .ite ?_ (.ite h.makeReport (.ite (h.take h.claimRule) (.ite ht.mapReadFailed ht)))
  split
  · exact h.ignoreWrite
  · exact .ite h.ignoreWrite h.qOpWrite

theorem State.Canon.opRead {n ix sub : Nat} (h : s.Canon) : (s.opRead n ix sub).2.Canon := by
  unfold State.opRead
  split
  · exact h
  · split
    · exact h
    · split
      next e1 => exact h.readEntry.of_snd e1

theorem State.Canon.opWrite {n ix sub : Nat} {v : Bytes} (h : s.Canon) : (s.opWrite n ix sub v).2.Canon := by
  unfold State.opWrite
  split
  · exact h
  · split
    · exact h
    · split
      · exact h.ignoreWrite
      · exact h.putEntry

theorem State.Canon.opEndorsed {n ix sub : Nat} {v : Bytes} {e : Endorsement} (h : s.Canon) :
    (s.opEndorsed n ix sub v e).2.Canon := by
  unfold State.opEndorsed
  split
  · exact h
  · split
    · exact h
    · split
      · split
        · exact h.endorse
        · exact h.bumpIf.ignoreWrite
      · exact h.bumpIf.ignoreWrite
      · exact h.bumpIf.ignoreWrite
      · exact h.bumpIf.ignoreWrite
      · exact h.bumpIf.ignoreWrite
      · exact h.bumpIf.ignoreWrite

theorem State.Canon.opEvents {n words : Nat} (h : s.Canon) : (s.opEvents n words).2.Canon := by
  unfold State.opEvents
  split
  · exact h
  · exact .ite h h.qRead

theorem State.Canon.doOp {n : Nat} {o : ReqOp} (h : s.Canon) : (s.doOp n o).2.Canon := by
  unfold State.doOp
  split
  · exact h.opRead
  · exact h.opWrite
  · exact h.opEndorsed
  · exact h.opEvents
  · exact h
  · exact h
  · exact h

theorem State.Canon.doSessionless {o : ReqOp} (h : s.Canon) : (s.doSessionless o).2.Canon := by
  unfold State.doSessionless
  split
  · split
    · exact h.opRead
    · exact h
  · split
    · split
      · exact h
      · exact h.take h.claimRule
    · exact h
  all_goals exact h

/-- Operations run in turn keep the stores canonical when each does. -/
theorem State.Canon.runOps {run : State → ReqOp → OpAnswer × State} {n : Nat} {stopped : Bool} {ops : List ReqOp}
    (hrun : ∀ {t o}, t.Canon → (run t o).2.Canon) (h : s.Canon) : (Machine.runOps run n stopped ops s).2.Canon := by
  induction ops generalizing s stopped with
  | nil => exact h
  | cons o os ih =>
    refine ih (s := (if stopped then ((5, []), s) else run s o).2) ?_
    split
    · exact h
    · exact hrun h

theorem State.Canon.closeSession {n : Nat} (h : s.Canon) : (s.closeSession n).Canon :=
  .ite (.setReg (.setSess (.setReg (.ite h.qFlush h)))) (.setSess (.setReg (.ite h.qFlush h)))

theorem State.Canon.afterRequest {before : State} (_ : before.Canon) (hs : s.Canon) : (before.afterRequest s).Canon :=
  (hs.foldl (fun _ _ h => .ite h.closeSession h) _).resetIfAsked

theorem State.Canon.serveRequest {n : Nat} {ops : List ReqOp} (h : s.Canon) : (s.serveRequest n ops).Canon := by
  refine .ite h (h.afterRequest ?_)
  have hr : (Machine.runOps (fun s o => s.doOp n o) n false ops s).2.Canon := h.runOps State.Canon.doOp
  exact .ite hr.answer.closeSession hr.answer

theorem State.Canon.replyVia {via : Transport} {dest f : Bytes} (h : s.Canon) : (s.replyVia via dest f).Canon := by
  unfold State.replyVia
  split
  · exact .raiseMailbox { h with hif := { h.hif with } }
  · exact h.sendOn.bump

theorem State.Canon.identityFail (h : s.Canon) : s.identityFail.Canon :=
  .ite h.replyVia h

theorem State.Canon.serveSessionless {ops : List ReqOp} (h : s.Canon) : (s.serveSessionless ops).Canon := by
  have hr : (Machine.runOps State.doSessionless sessionless false ops s).2.Canon := h.runOps State.Canon.doSessionless
  dsimp only [State.serveSessionless]
  exact hr.replyVia

theorem execRead_canon {sess index subindex : Nat} (h : s.Canon) : CanonNext (execRead sess index subindex s) :=
  .next h.serveRequest

theorem execWrite_canon {sess index subindex : Nat} {value : Bytes} (h : s.Canon) :
    CanonNext (execWrite sess index subindex value s) :=
  .next h.serveRequest

theorem execWriteEndorsed_canon {sess index subindex : Nat} {value : Bytes} {e : Endorsement} (h : s.Canon) :
    CanonNext (execWriteEndorsed sess index subindex value e s) :=
  .next h.serveRequest

theorem execEventRead_canon {sess words : Nat} (h : s.Canon) : CanonNext (execEventRead sess words s) :=
  .next h.serveRequest

theorem execRecall_canon {sess : Nat} (h : s.Canon) : CanonNext (execRecall sess s) :=
  .next h.serveRequest

theorem execClose_canon {sess : Nat} (h : s.Canon) : CanonNext (execClose sess s) :=
  .next h.serveRequest

theorem execEndorseNonce_canon {sess : Nat} (h : s.Canon) : CanonNext (execEndorseNonce sess s) :=
  .next h.serveRequest

theorem execAttestNonce_canon {sess : Nat} {nonce : Bytes} (h : s.Canon) : CanonNext (execAttestNonce sess nonce s) :=
  .next h.serveRequest

theorem execClaim_canon {data : Bytes} (h : s.Canon) : CanonNext (execClaim data s) :=
  .next (.ite h.serveSessionless h.identityFail)

theorem State.Canon.dropFrame {via : Transport} (h : s.Canon) : (s.dropFrame via).Canon := by
  unfold State.dropFrame
  split
  · exact h
  · exact h.bump

theorem State.Canon.openVia {via : Transport} {source role : Nat} {nc : Bytes} (h : s.Canon) :
    (s.openVia via source role nc).Canon := by
  unfold State.openVia
  refine .ite h.dropFrame ?_
  split
  · exact h.replyVia
  · split
    next e1 => exact ((h.random.of_snd e1).setSess).replyVia

theorem State.Canon.elseFail {via : Transport} (h : s.Canon) : (s.elseFail via).Canon :=
  .ite h.identityFail h

theorem execOpenSession_canon {via : Transport} {source role : Nat} {nc : Bytes} (h : s.Canon) :
    CanonNext (execOpenSession via source role nc s) :=
  .next (.ite h.openVia h.elseFail)

theorem State.Canon.proofFailed {role : Nat} (h : s.Canon) : (s.proofFailed role).Canon :=
  .ite h.bump (.setMgmt h.bump fun k => { k with failed := Tab.rising_set _ _ _ _ k.failed })

theorem State.Canon.acceptSession {n : Nat} (h : s.Canon) : (s.acceptSession n).Canon :=
  h.setSess.setReg.qEnable.replyVia

theorem State.Canon.proofVia {via : Transport} {n : Nat} {tag : Bytes} (h : s.Canon) : (s.proofVia via n tag).Canon :=
  .ite h.bump (.ite h.acceptSession h.setSess.proofFailed)

theorem execProof_canon {via : Transport} {sess : Nat} {tag : Bytes} (h : s.Canon) : CanonNext (execProof via sess tag s) :=
  .next (.ite h.proofVia h.elseFail)

theorem execSessionIdle_canon {sess : Nat} (h : s.Canon) : CanonNext (execSessionIdle sess s) :=
  .next (.ite h.closeSession h)

theorem execLockoutEnd_canon {role : Nat} (h : s.Canon) : CanonNext (execLockoutEnd role s) := by
  unfold execLockoutEnd
  refine .ite (.next h) (.next { h with mgmt := { h.mgmt with failed := ?_ } })
  dsimp only
  exact Tab.rising_set _ _ _ _ h.mgmt.failed

theorem State.Canon.authFailed {n : Nat} (h : s.Canon) : (s.authFailed n).Canon :=
  .ite h.bump (.ite h.bump.modSess.closeSession h.bump.modSess)

theorem State.Canon.mailboxRequest {f : Bytes} (h : s.Canon) : (s.mailboxRequest f).Canon :=
  .ite h.serveRequest h.authFailed

theorem State.Canon.mailboxFrame {f : Bytes} (h : s.Canon) : (s.mailboxFrame f).Canon := by
  unfold State.mailboxFrame
  split
  · exact h.serveSessionless
  · exact .ite h.openVia h
  · exact .ite h.proofVia h
  · exact .ite h.mailboxRequest h
  · exact h

theorem State.Canon.mailboxRun {f : Bytes} (h : s.Canon) : (s.mailboxRun f).Canon :=
  .ite (.identityFail { h with hif := { h.hif with } }) (.ite { h with hif := { h.hif with } }
    (.mailboxFrame { h with hif := { h.hif with } }))

theorem State.Canon.mailboxEnd (h : s.Canon) : s.mailboxEnd.Canon :=
  .ite { h with hif := { h.hif with } } h

theorem State.Canon.mailboxWrite {len : Nat} {frame : Bytes} (h : s.Canon) : (s.mailboxWrite len frame).Canon :=
  .ite h (.ite h.bump (.ite (.bump { h with hif := { h.hif with } }) (.mailboxEnd
    (.mailboxRun { h with hif := { h.hif with } }))))

theorem execMbReqLen_canon {len : Nat} {frame : Bytes} (h : s.Canon) : CanonNext (execMbReqLen len frame s) :=
  .next h.mailboxWrite

/-! ### Machine/Boot.lean -/

theorem State.Canon.bootIdentity {i : BootInput} (h : s.Canon) : (s.bootIdentity i).Canon := by
  unfold State.bootIdentity
  extract_lets up r hif t valid start boot
  have ht : t.Canon := State.Canon.setHif h.setReg fun k => { k with }
  exact .ite ht.setBoot.setReg.setReg (.ite ht.setBoot.setReg.setReg ht.setBoot)

theorem State.Canon.bootCopy (h : s.Canon) : s.bootCopy.Canon := by
  unfold State.bootCopy
  extract_lets seq t
  have ht : t.Canon := h.setReg.setReg.setReg
  split
  · exact .setBoot ht.setReg.setReg.setReg
  · exact ht

theorem State.Canon.bootNumerics {ok : Bool} (h : s.Canon) : (s.bootNumerics ok).Canon := by
  unfold State.bootNumerics
  extract_lets body v fw r boot t u
  have ht : t.Canon := State.Canon.setBoot h.setReg
  have hu : u.Canon := by
    clear_value fw
    cases fw with
    | some x => exact ht.setReg.setOct.setReg
    | none => exact ht
  exact .ite hu hu.bump.fault

theorem State.Canon.showSlots {d minVersion : Nat} (h : s.Canon) : (s.showSlots d minVersion).Canon := by
  unfold State.showSlots
  exact h.runImage.slotResult.slotResult

theorem State.Canon.bootImage {numerics : Bool} (h : s.Canon) : (s.bootImage numerics).Canon := by
  have halt {t : State} {b : Boot} (ht : t.Canon) : ({ t with boot := b, hif := { t.hif with mbStatus := 3 } } : State).Canon :=
    { ht with hif := { ht.hif with } }
  exact .ite h.showSlots.bootNumerics.setReg (.ite h.bump.showSlots.bootNumerics.setReg (halt h.bump.bump))

theorem State.Canon.bootDies {locked : Nat} (h : s.Canon) : (s.bootDies locked).Canon :=
  h.setReg.foldl (fun _ _ h => h.dieLost) _

theorem State.Canon.bootStacks {trained : Nat} (h : s.Canon) : (s.bootStacks trained).Canon :=
  h.foldl (fun _ _ h => h.leave) _

theorem State.Canon.syncTier (h : s.Canon) : s.syncTier.Canon :=
  { h with tier := { h.tier with } }

theorem State.Canon.secretRecord {x : CopyRec} (h : s.Canon) : CanonSome (s.secretRecord x) :=
  .ite (.some h.setSecret) (.ite (.some h.setSecret) (.ite (.some h.setSecret) (.ite (.some { h with prot := { h.prot with } })
    .none)))

theorem State.Canon.entryRecord {isSealed enable : Bool} {x : CopyRec} (h : s.Canon) :
    CanonSome (s.entryRecord isSealed enable x) := by
  have hs : CanonSome (if isSealed then s.secretRecord x else none) := .ite h.secretRecord .none
  unfold State.entryRecord
  split
  next e => exact .some (hs _ e)
  · split
    · exact .none
    · refine .ite .none ?_
      split
      next e => exact .some (h.entryRule _ e).syncTier
      · exact .none

theorem State.Canon.tilthRecord {v : Bytes} (h : s.Canon) : CanonSome (s.tilthRecord v) := by
  unfold State.tilthRecord
  extract_lets tilth t commit
  have ht : t.Canon := { h with }
  split
  next e => exact .some (ht.tilthCommit _ e).setOct
  · exact .none

theorem State.Canon.pasidRecord {v : Bytes} (h : s.Canon) : CanonSome (s.pasidRecord v) := by
  unfold State.pasidRecord
  extract_lets entries hif t epoch
  have ht : t.Canon := { h with hif := { h.hif with pasidShadow := Tab.rising_setRun 0 v [] 0 .nil } }
  refine .ite .none ?_
  split
  next e => exact .some (ht.setReg.pasidCommit _ e).setReg.setReg
  · exact .none

theorem State.Canon.wfqRecord {die : Nat} {v : Bytes} (h : s.Canon) : CanonSome (s.wfqRecord die v) := by
  refine .ite .none (.some (.bump (h.setFh fun k => { k with weights := ?_ })))
  exact Tab.rising_foldl (fun _ _ ht => Tab.rising_set _ _ _ _ ht) _ k.weights

theorem State.Canon.polRecord {die : Nat} {v : Bytes} (h : s.Canon) : CanonSome (s.polRecord die v) := by
  refine .ite .none (.some (.bump (h.setFh fun k => { k with profiles := ?_ })))
  exact Tab.rising_foldl (fun _ _ ht => Tab.rising_set _ _ _ _ ht) _ k.profiles

theorem State.Canon.fabWfqRecord {v : Bytes} (h : s.Canon) : CanonSome (s.fabWfqRecord v) := by
  refine .ite .none (.some (.bump (h.setFab fun k => { k with weights := ?_ })))
  exact Tab.rising_foldl (fun _ _ ht => Tab.rising_set _ _ _ _ ht) _ k.weights

theorem State.Canon.ldpcRecord {v : Bytes} (h : s.Canon) : CanonSome (s.ldpcRecord v) :=
  .ite (.some { h with radio := { h.radio with } }) .none

theorem State.Canon.tableRecord {isSealed : Bool} {x : CopyRec} (h : s.Canon) : CanonSome (s.tableRecord isSealed x) := by
  unfold State.tableRecord
  split
  · exact .none
  · exact .ite h.tilthRecord (.ite h.pasidRecord (.ite h.ldpcRecord (.ite h.wfqRecord
      (.ite h.polRecord (.ite h.fabWfqRecord .none)))))

/-- A pass over records keeps the stores canonical when each record taken does. -/
theorem State.Canon.bootPass {run : State → Bool → CopyRec → Option State} {l : List (Bool × CopyRec)}
    (hrun : ∀ {t b x}, t.Canon → CanonSome (run t b x)) (h : s.Canon) : (Machine.bootPass run l s).2.Canon := by
  induction l generalizing s with
  | nil => exact h
  | cons x xs ih =>
    unfold Machine.bootPass
    split
    next e => exact ih (hrun h _ e)
    · exact ih h.bump

theorem State.Canon.applyCopy {c : Copy} (h : s.Canon) : (s.applyCopy c).Canon :=
  State.Canon.bootPass State.Canon.entryRecord
    (State.Canon.bootPass State.Canon.tableRecord (State.Canon.bootPass State.Canon.entryRecord h))

theorem State.Canon.bootRecords (h : s.Canon) : s.bootRecords.Canon := by
  unfold State.bootRecords
  extract_lets t u boot
  have ht : t.Canon := by
    dsimp only [t]
    split
    · exact h.applyCopy
    · exact h
  exact ht.syncTier.setBoot

theorem State.Canon.bootPrograms (h : s.Canon) : s.bootPrograms.Canon :=
  h.foldl (fun _ _ h => h.setOct.modCore) _

theorem State.Canon.recoverQueue {q : Nat} (h : s.Canon) : (s.recoverQueue q).Canon := by
  unfold State.recoverQueue
  split
  next e => exact h.qCfgWrite _ e
  · exact h

theorem State.Canon.bootPorts (h : s.Canon) : s.bootPorts.Canon :=
  h.setReg.setReg.bootPrograms.foldl (fun _ _ h => h.recoverQueue) _

theorem State.Canon.reportLatches (h : s.Canon) : s.reportLatches.Canon := by
  unfold State.reportLatches
  extract_lets t u boot
  have ht : t.Canon := by
    dsimp only [t]
    split
    · exact h.fault
    · exact h
  exact .setBoot (.ite ht.fault ht)

theorem State.Canon.bootStageEnds {i : BootInput} (h : s.Canon) : (s.bootStageEnds i).Canon := by
  unfold State.bootStageEnds
  split
  · exact h.bootIdentity
  · exact h.bootCopy
  · exact h.bootImage
  · exact h.startRoutes.bootDies.setReg
  · exact h.bootStacks.setReg
  · exact h.bootRecords.setReg
  · exact h.bootPorts.setReg.setBoot.reportLatches
  · exact h

theorem execBootStage_canon {i : BootInput} (h : s.Canon) : CanonNext (execBootStage i s) :=
  .next (.ite h h.bootStageEnds)

/-! ### Machine/DmaCmd.lean -/

theorem execCopy_canon {ctx : Nat} (h : s.Canon) : CanonNext (execCopy ctx s) :=
  .next h.runDma

theorem execCopy2d_canon {ctx : Nat} (h : s.Canon) : CanonNext (execCopy2d ctx s) :=
  .next h.runDma

theorem execFill_canon {ctx : Nat} (h : s.Canon) : CanonNext (execFill ctx s) :=
  .next h.runDma

theorem execTranspose_canon {ctx : Nat} (h : s.Canon) : CanonNext (execTranspose ctx s) :=
  .next h.runDma

theorem execToPanels_canon {ctx : Nat} (h : s.Canon) : CanonNext (execToPanels ctx s) :=
  .next h.runDma

theorem execGather_canon {ctx : Nat} (h : s.Canon) : CanonNext (execGather ctx s) :=
  .next h.runDma

theorem execFillRandom_canon {ctx : Nat} (h : s.Canon) : CanonNext (execFillRandom ctx s) :=
  .next h.runDma

theorem execHostRead_canon {ctx : Nat} (h : s.Canon) : CanonNext (execHostRead ctx s) :=
  .next h.runDma

theorem execHostWrite_canon {ctx : Nat} (h : s.Canon) : CanonNext (execHostWrite ctx s) :=
  .next h.runDma

theorem execLoamAcquire_canon {ctx : Nat} (h : s.Canon) : CanonNext (execLoamAcquire ctx s) :=
  .next h.runAcquire

theorem execLoamRelease_canon {ctx : Nat} (h : s.Canon) : CanonNext (execLoamRelease ctx s) :=
  .next h.runDma

/-! ### Machine/EngineCmd.lean -/

theorem execMatmul_canon {who : Owner} (h : s.Canon) : CanonNext (execMatmul who s) :=
  .next h.runOwned

theorem execCmatmul_canon {who : Owner} (h : s.Canon) : CanonNext (execCmatmul who s) :=
  .next h.runOwned

theorem execFullSum_canon {who : Owner} (h : s.Canon) : CanonNext (execFullSum who s) :=
  .next h.runOwned

theorem execMap_canon {who : Owner} (h : s.Canon) : CanonNext (execMap who s) :=
  .next h.runOwned

theorem execBinary_canon {who : Owner} (h : s.Canon) : CanonNext (execBinary who s) :=
  .next h.runOwned

theorem execConvert_canon {who : Owner} (h : s.Canon) : CanonNext (execConvert who s) :=
  .next h.runOwned

theorem execLineMax_canon {who : Owner} (h : s.Canon) : CanonNext (execLineMax who s) :=
  .next h.runOwned

theorem execSoftmaxStep_canon {who : Owner} (h : s.Canon) : CanonNext (execSoftmaxStep who s) :=
  .next h.runOwned

theorem execSoftmaxExact_canon {who : Owner} (h : s.Canon) : CanonNext (execSoftmaxExact who s) :=
  .next h.runOwned

theorem execNormalise_canon {who : Owner} (h : s.Canon) : CanonNext (execNormalise who s) :=
  .next h.runOwned

theorem execNormStats_canon {who : Owner} (h : s.Canon) : CanonNext (execNormStats who s) :=
  .next h.runOwned

theorem execNormApply_canon {who : Owner} (h : s.Canon) : CanonNext (execNormApply who s) :=
  .next h.runOwned

/-! ### Machine/HubCmd.lean -/

theorem execFload_canon {ctx : Nat} (h : s.Canon) : CanonNext (execFload ctx s) :=
  .next h.runFabric

theorem execFstore_canon {ctx : Nat} (h : s.Canon) : CanonNext (execFstore ctx s) :=
  .next h.runFabric

theorem execFstoreShared_canon {ctx : Nat} (h : s.Canon) : CanonNext (execFstoreShared ctx s) :=
  .next h.runFabric

theorem execFaddI64_canon {ctx : Nat} (h : s.Canon) : CanonNext (execFaddI64 ctx s) :=
  .next h.runFabric

theorem execFfetchAddI64_canon {ctx : Nat} (h : s.Canon) : CanonNext (execFfetchAddI64 ctx s) :=
  .next h.runFabric

theorem execFswapI64_canon {ctx : Nat} (h : s.Canon) : CanonNext (execFswapI64 ctx s) :=
  .next h.runFabric

theorem execFcasI64_canon {ctx : Nat} (h : s.Canon) : CanonNext (execFcasI64 ctx s) :=
  .next h.runFabric

theorem execFaddF32Fast_canon {ctx : Nat} (h : s.Canon) : CanonNext (execFaddF32Fast ctx s) :=
  .next h.runFabric

theorem execFaddKrec_canon {ctx : Nat} (h : s.Canon) : CanonNext (execFaddKrec ctx s) :=
  .next h.runFabric

theorem execNop_canon {ctx : Nat} (h : s.Canon) : CanonNext (execNop ctx s) :=
  .next h.runHub

theorem execWait_canon {ctx : Nat} (h : s.Canon) : CanonNext (execWait ctx s) :=
  .next h.runHub

theorem execWaitMem_canon {ctx : Nat} (h : s.Canon) : CanonNext (execWaitMem ctx s) :=
  .next h.runHub

theorem execFenceFabric_canon {ctx : Nat} (h : s.Canon) : CanonNext (execFenceFabric ctx s) :=
  .next h.runHub

theorem execSetSeed_canon {ctx : Nat} (h : s.Canon) : CanonNext (execSetSeed ctx s) :=
  .next h.runHub

theorem execReadTime_canon {ctx : Nat} (h : s.Canon) : CanonNext (execReadTime ctx s) :=
  .next h.runHub

/-! ### Machine/Network.lean -/

theorem State.Canon.sendBack {m : Nat} {got : Bytes} {type : Nat} {body : Bytes} (h : s.Canon) :
    (s.sendBack m got type body).Canon :=
  h.sendOn

theorem State.Canon.arpReply {m : Nat} {f : Bytes} (h : s.Canon) : (s.arpReply m f).Canon :=
  h.sendBack

theorem State.Canon.echoV4 {m : Nat} {f x : Bytes} (h : s.Canon) : (s.echoV4 m f x).Canon :=
  h.sendBack

theorem State.Canon.sendV6 {m : Nat} {f y : Bytes} (h : s.Canon) : (s.sendV6 m f y).Canon :=
  h.sendBack

theorem State.Canon.neighbour {m : Nat} {f : Bytes} (h : s.Canon) : (s.neighbour m f).Canon :=
  h.sendV6

theorem State.Canon.netRequest {via : Transport} {source : Nat} {f : Bytes} (h : s.Canon) : (s.netRequest via source f).Canon :=
  .ite h.serveRequest h.authFailed

theorem State.Canon.netFrame {via : Transport} {source : Nat} {f : Bytes} (h : s.Canon) : (s.netFrame via source f).Canon := by
  unfold State.netFrame
  refine .ite h.dropFrame ?_
  split
  · exact .ite h.openVia h.dropFrame
  · exact .ite h.dropFrame (.ite h.proofVia h.authFailed)
  · exact .ite h.netRequest h.dropFrame
  · exact h.dropFrame

theorem State.Canon.datagram {via : Transport} {srcAddr dstAddr u : Bytes} (h : s.Canon) :
    (s.datagram via srcAddr dstAddr u).Canon :=
  .ite h.dropFrame h.netFrame

theorem State.Canon.netPacket {via : Transport} {f : Bytes} (h : s.Canon) : (s.netPacket via f).Canon := by
  unfold State.netPacket
  split
  · exact .ite h.arpReply h.dropFrame
  · refine .ite h.dropFrame ?_
    split
    · exact .ite h.echoV4 h.dropFrame
    · exact h.datagram
    · exact h.dropFrame
  · split
    · exact .ite h.neighbour (.ite h.sendV6 h.dropFrame)
    · exact h.datagram
    · exact h.dropFrame
  · exact h.dropFrame

theorem execMgmtFrameDiscarded_canon {via : Transport} {why : DiscardReason} (h : s.Canon) :
    CanonNext (execMgmtFrameDiscarded via why s) := by
  unfold execMgmtFrameDiscarded
  split
  · exact .next (.ite h.authFailed h)
  · exact .next (.ite h.dropFrame h)
  · exact .next (.ite h.dropFrame h)
  · exact .next (.ite h.dropFrame h)
  · exact .next (.ite h.netPacket h)

/-! ### Machine/Dispatch.lean -/

theorem exec_canon (h : s.Canon) : ∀ i, CanonNext (exec i s)
  | .doorbell .. => execDoorbell_canon h
  | .ringCfg .. => execRingCfg_canon h
  | .cplHead .. => execCplHead_canon h
  | .contextPlaced .. => execContextPlaced_canon h
  | .engineGrant .. => execEngineGrant_canon h
  | .dmaSlotGrant .. => execDmaSlotGrant_canon h
  | .commit .. => execCommit_canon h
  | .passBoundary .. => execPassBoundary_canon h
  | .lcPreemptKill .. => execLcPreemptKill_canon h
  | .killRequest .. => execKillRequest_canon h
  | .killDone .. => execKillDone_canon h
  | .engineCheckFault .. => execEngineCheckFault_canon h
  | .matmul .. => execMatmul_canon h
  | .cmatmul .. => execCmatmul_canon h
  | .fullSum .. => execFullSum_canon h
  | .map .. => execMap_canon h
  | .binary .. => execBinary_canon h
  | .convert .. => execConvert_canon h
  | .lineMax .. => execLineMax_canon h
  | .softmaxStep .. => execSoftmaxStep_canon h
  | .softmaxExact .. => execSoftmaxExact_canon h
  | .normalise .. => execNormalise_canon h
  | .normStats .. => execNormStats_canon h
  | .normApply .. => execNormApply_canon h
  | .copy .. => execCopy_canon h
  | .copy2d .. => execCopy2d_canon h
  | .fill .. => execFill_canon h
  | .transpose .. => execTranspose_canon h
  | .toPanels .. => execToPanels_canon h
  | .gather .. => execGather_canon h
  | .fillRandom .. => execFillRandom_canon h
  | .hostRead .. => execHostRead_canon h
  | .hostWrite .. => execHostWrite_canon h
  | .loamAcquire .. => execLoamAcquire_canon h
  | .loamRelease .. => execLoamRelease_canon h
  | .fload .. => execFload_canon h
  | .fstore .. => execFstore_canon h
  | .fstoreShared .. => execFstoreShared_canon h
  | .faddI64 .. => execFaddI64_canon h
  | .ffetchAddI64 .. => execFfetchAddI64_canon h
  | .fswapI64 .. => execFswapI64_canon h
  | .fcasI64 .. => execFcasI64_canon h
  | .faddF32Fast .. => execFaddF32Fast_canon h
  | .faddKrec .. => execFaddKrec_canon h
  | .nop .. => execNop_canon h
  | .wait .. => execWait_canon h
  | .waitMem .. => execWaitMem_canon h
  | .fenceFabric .. => execFenceFabric_canon h
  | .setSeed .. => execSetSeed_canon h
  | .readTime .. => execReadTime_canon h
  | .spillDone .. => execSpillDone_canon h
  | .beReclaim .. => execBeReclaim_canon h
  | .clearDone .. => execClearDone_canon h
  | .fetchCompletion _ _ peer _ => execFetchCompletion_canon (peer := peer) h
  | .prefetchStart .. => execPrefetchStart_canon h
  | .ageTick .. => execAgeTick_canon h
  | .loamMapCommit .. => execLoamMapCommit_canon h
  | .loamQuotaPages .. => execLoamQuotaPages_canon h
  | .privQuotaFrames .. => execPrivQuotaFrames_canon h
  | .spQuotaBytes .. => execSpQuotaBytes_canon h
  | .lcFloorBytes .. => execLcFloorBytes_canon h
  | .tilthLoadData .. => execTilthLoadData_canon h
  | .tilthPrepared .. => execTilthPrepared_canon h
  | .windowStart .. => execWindowStart_canon h
  | .windowEnd .. => execWindowEnd_canon h
  | .radioStart .. => execRadioStart_canon h
  | .setClass .. => execSetClass_canon h
  | .move .. => execMove_canon h
  | .handlerEntry .. => execHandlerEntry_canon h
  | .bundle .. => execBundle_canon h
  | .loopm .. => execLoopm_canon h
  | .loop .. => execLoop_canon h
  | .acsSetup .. => execAcsSetup_canon h
  | .acsStep .. => execAcsStep_canon h
  | .acsLoadpm .. => execAcsLoadpm_canon h
  | .acsStorepm .. => execAcsStorepm_canon h
  | .acsBest .. => execAcsBest_canon h
  | .acsTb .. => execAcsTb_canon h
  | .engq .. => execEngq_canon h
  | .code .. => execCode_canon h
  | .xfer .. => execXfer_canon h
  | .ueRd .. => execUeRd_canon h
  | .ueWr .. => execUeWr_canon h
  | .ueSync .. => execUeSync_canon h
  | .ueAccessArrival .. => execUeAccessArrival_canon h
  | .halt .. => execHalt_canon h
  | .ldpcDecode .. => execLdpcDecode_canon h
  | .ldpcEncode .. => execLdpcEncode_canon h
  | .polarDecode .. => execPolarDecode_canon h
  | .polarEncode .. => execPolarEncode_canon h
  | .fft .. => execFft_canon h
  | .inverseFft .. => execInverseFft_canon h
  | .coderJobEnd .. => execCoderJobEnd_canon h
  | .progLoadData .. => execProgLoadData_canon h
  | .progCommit .. => execProgCommit_canon h
  | .progSwap .. => execProgSwap_canon h
  | .moveTailEnd .. => execMoveTailEnd_canon h
  | .frameReceived .. => execFrameReceived_canon h
  | .frameTransmitted .. => execFrameTransmitted_canon h
  | .queueRead .. => execQueueRead_canon h
  | .queueRelease .. => execQueueRelease_canon h
  | .mark .. => execMark_canon h
  | .rewind .. => execRewind_canon h
  | .flush .. => execFlush_canon h
  | .staleCheck .. => execStaleCheck_canon h
  | .queueSample .. => execQueueSample_canon h
  | .qCfg .. => execQCfg_canon h
  | .queueSelect .. => execQueueSelect_canon h
  | .wfqCommit .. => execWfqCommit_canon h
  | .polCommit .. => execPolCommit_canon h
  | .portMode .. => execPortMode_canon h
  | .ckTick .. => execCkTick_canon h
  | .applyTick .. => execApplyTick_canon h
  | .stepNs .. => execStepNs_canon h
  | .frameOffsetNs .. => execFrameOffsetNs_canon h
  | .servoSrc .. => execServoSrc_canon h
  | .delayReq .. => execDelayReq_canon h
  | .holdoverEntry .. => execHoldoverEntry_canon h
  | .radioFrameBoundary .. => execRadioFrameBoundary_canon h
  | .slotBoundary .. => execSlotBoundary_canon h
  | .symbolBoundary .. => execSymbolBoundary_canon h
  | .trigCfg .. => execTrigCfg_canon h
  | .trigEdge .. => execTrigEdge_canon h
  | .trigPulseEnd .. => execTrigPulseEnd_canon h
  | .capEdge .. => execCapEdge_canon h
  | .ppsInEdge .. => execPpsInEdge_canon h
  | .ppsOutEdge .. => execPpsOutEdge_canon h
  | .capRead .. => execCapRead_canon h
  | .ppsInRead .. => execPpsInRead_canon h
  | .calibration .. => execCalibration_canon h
  | .flitReceived .. => execFlitReceived_canon h
  | .retrain .. => execRetrain_canon h
  | .fabricPortDown .. => execFabricPortDown_canon h
  | .fabricRead .. => execFabricRead_canon h
  | .readData .. => execReadData_canon h
  | .fabricWrite .. => execFabricWrite_canon h
  | .writeAck .. => execWriteAck_canon h
  | .atomic .. => execAtomic_canon h
  | .atomicAck .. => execAtomicAck_canon h
  | .drain .. => execDrain_canon h
  | .drainAck .. => execDrainAck_canon h
  | .refuse .. => execRefuse_canon h
  | .bulkWrite .. => execBulkWrite_canon h
  | .bulkRead .. => execBulkRead_canon h
  | .bulkData .. => execBulkData_canon h
  | .bulkAck .. => execBulkAck_canon h
  | .cellData .. => execCellData_canon h
  | .cellAck .. => execCellAck_canon h
  | .routeTable .. => execRouteTable_canon h
  | .routeCommit .. => execRouteCommit_canon h
  | .routeDrainTimeout .. => execRouteDrainTimeout_canon h
  | .relevoWfqCommit .. => execRelevoWfqCommit_canon h
  | .reqTimeout .. => execReqTimeout_canon h
  | .jobCfg .. => execJobCfg_canon h
  | .jobTeardown .. => execJobTeardown_canon h
  | .ctxJobId .. => execCtxJobId_canon h
  | .winLoadData .. => execWinLoadData_canon h
  | .winCommit .. => execWinCommit_canon h
  | .fabricEnable .. => execFabricEnable_canon h
  | .fabricRevoke .. => execFabricRevoke_canon h
  | .jobSnapshot .. => execJobSnapshot_canon h
  | .buddyAdopt .. => execBuddyAdopt_canon h
  | .restoreFromBuddy .. => execRestoreFromBuddy_canon h
  | .buddyRelease .. => execBuddyRelease_canon h
  | .heartbeat .. => execHeartbeat_canon h
  | .hbEcho .. => execHbEcho_canon h
  | .selfFence .. => execSelfFence_canon h
  | .reportEpochEnd .. => execReportEpochEnd_canon h
  | .scrub .. => execScrub_canon h
  | .ceSecond .. => execCeSecond_canon h
  | .linkRetrain .. => execLinkRetrain_canon h
  | .linkDown .. => execLinkDown_canon h
  | .unitOut .. => execUnitOut_canon h
  | .shadowStart .. => execShadowStart_canon h
  | .shadowMaxAge .. => execShadowMaxAge_canon h
  | .shadowCompare .. => execShadowCompare_canon h
  | .meQuarantine .. => execMeQuarantine_canon h
  | .cdOutMask .. => execCdOutMask_canon h
  | .pasidLoadData .. => execPasidLoadData_canon h
  | .ctxPasid .. => execCtxPasid_canon h
  | .ctxPrivReq .. => execCtxPrivReq_canon h
  | .ctxSharedReq .. => execCtxSharedReq_canon h
  | .freeze .. => execFreeze_canon h
  | .thaw .. => execThaw_canon h
  | .sliceSave .. => execSliceSave_canon h
  | .sliceSaveDone .. => execSliceSaveDone_canon h
  | .sliceRestore .. => execSliceRestore_canon h
  | .sliceRestoreDone .. => execSliceRestoreDone_canon h
  | .functionLevelReset .. => execFunctionLevelReset_canon h
  | .hostRequestFailed .. => execHostRequestFailed_canon h
  | .mbReqLen .. => execMbReqLen_canon h
  | .downDoorbell .. => execDownDoorbell_canon h
  | .downDescriptor .. => execDownDescriptor_canon h
  | .rhcCfg .. => execRhcCfg_canon h
  | .openSession .. => execOpenSession_canon h
  | .proof .. => execProof_canon h
  | .read .. => execRead_canon h
  | .write .. => execWrite_canon h
  | .writeEndorsed .. => execWriteEndorsed_canon h
  | .eventRead .. => execEventRead_canon h
  | .recall .. => execRecall_canon h
  | .close .. => execClose_canon h
  | .sessionIdle .. => execSessionIdle_canon h
  | .lockoutEnd .. => execLockoutEnd_canon h
  | .endorseNonce .. => execEndorseNonce_canon h
  | .nonceLapse .. => execNonceLapse_canon h
  | .changeExpired .. => execChangeExpired_canon h
  | .claim .. => execClaim_canon h
  | .attestNonce .. => execAttestNonce_canon h
  | .configSave .. => execConfigSave_canon h
  | .configSaveDone .. => execConfigSaveDone_canon h
  | .controlPeriod .. => execControlPeriod_canon h
  | .telemetryUpdate .. => execTelemetryUpdate_canon h
  | .thermalUpdate .. => execThermalUpdate_canon h
  | .flowDemandUpdate .. => execFlowDemandUpdate_canon h
  | .flowLow .. => execFlowLow_canon h
  | .avsStep .. => execAvsStep_canon h
  | .timingMarginLow .. => execTimingMarginLow_canon h
  | .pmbAlert .. => execPmbAlert_canon h
  | .railOutOfRange .. => execRailOutOfRange_canon h
  | .sensorCalibration .. => execSensorCalibration_canon h
  | .thermtrip .. => execThermtrip_canon h
  | .seqFault .. => execSeqFault_canon h
  | .powerCapW .. => execPowerCapW_canon h
  | .refLost .. => execRefLost_canon h
  | .refRestored .. => execRefRestored_canon h
  | .rootPllUnlock .. => execRootPllUnlock_canon h
  | .diePllUnlock .. => execDiePllUnlock_canon h
  | .crossingStall .. => execCrossingStall_canon h
  | .rclkCfg .. => execRclkCfg_canon h
  | .powerOn .. => execPowerOn_canon h
  | .resetN .. => execResetN_canon h
  | .hubWatchdog .. => execHubWatchdog_canon h
  | .resetRequest .. => execResetRequest_canon h
  | .bootStage .. => execBootStage_canon h
  | .recoveryHoldEnd .. => execRecoveryHoldEnd_canon h
  | .fwLoadData .. => execFwLoadData_canon h
  | .fwCommit .. => execFwCommit_canon h
  | .handover .. => execHandover_canon h
  | .fwConfirm .. => execFwConfirm_canon h
  | .handoverConfirmTimeout .. => execHandoverConfirmTimeout_canon h
  | .powerOff .. => execPowerOff_canon h
  | .suppliesRestored .. => execSuppliesRestored_canon h
  | .resetRelease .. => execResetRelease_canon h
  | .fabricLinkUp .. => execFabricLinkUp_canon h
  | .fronthaulLinkChange .. => execFronthaulLinkChange_canon h
  | .pcieLinkUp .. => execPcieLinkUp_canon h
  | .diePllRelock .. => execDiePllRelock_canon h
  | .programRewriteDone .. => execProgramRewriteDone_canon h
  | .shadowCopyDone .. => execShadowCopyDone_canon h
  | .jobDeadlinePassed .. => execJobDeadlinePassed_canon h
  | .mgmtFrameDiscarded .. => execMgmtFrameDiscarded_canon h
  | .ppsOutPulseEnd .. => execPpsOutPulseEnd_canon h
  | .handoverComplete .. => execHandoverComplete_canon h

end

/-- Settles O54: in canonical form is what `State.Canon` says, which every command keeps; the popping of the queue touches no store. -/
theorem stepsKeepTheStoresTidy : Obligations.StepsKeepTheStoresTidy := by
  intro s t hs e
  have h := State.tidy_iff_canon.mp hs
  refine State.tidy_iff_canon.mpr ?_
  cases hp : s.pending with
  | nil =>
    rw [step_of_pending_nil hp] at e
    cases e
    exact h
  | cons i rest =>
    rw [step_of_pending_cons hp] at e
    exact exec_canon (s := { s with pending := rest }) { h with } i t e

end Sys2Proof.Machine
end

section
/-! O16: LOAM_QUOTA_PAGES, PRIV_QUOTA_FRAMES, SP_QUOTA_BYTES and LC_FLOOR_BYTES (R199, R204 to R206, R211). -/

open Sys2Proof.Claims

namespace Sys2Proof.Machine

variable {s : State} {m n v : Nat}

/-- An entry of 32 bits with neither a range nor reserved bits leaves its value to the entry's operation. -/
theorem byRules_of_plain {r : Reg} {op : State → Except Nat State} (hw : r.width = 32) (hr : r.range = none) (hz : r.reserved = 0)
    (hv : v < 2 ^ 32) : s.byRules r (v % 2 ^ r.width) op = op s := by
  rw [hw, Nat.mod_eq_of_lt hv]
  exact byRules_of_allowed (by simp [Reg.outOfRange, hr]) (by simp [Reg.reservedSet, hz])

/-! ### LOAM_QUOTA_PAGES (R199, R206) -/

theorem exec_loamQuotaPages (hv : v < 2 ^ 32) (s : State) :
    exec (.loamQuotaPages m n v) s = .next (s.write m .loamQuotaPages n v (State.loamQuota n v)) := by
  simp only [exec, execLoamQuotaPages, Nat.mod_eq_of_lt hv]

/-- The pages that the other sealed slices reserve. -/
def State.othersReserve (s : State) (n : Nat) : Nat :=
  (((List.range 64).filter fun k => k ≠ n && s.sealed k).map fun k => s.reg .loamQuotaPages k).sum

theorem loamQuota_of_fits (h : s.sealed n = false ∨ s.othersReserve n + v ≤ s.tier.loamFrames) :
    State.loamQuota n v s = .ok ((s.setReg .loamQuotaPages v n).sweepLoam n) := by
  unfold State.othersReserve at h
  refine if_neg ?_
  rcases h with h | h
  · simp [h]
  · rw [decide_eq_false (not_lt.2 h), Bool.and_false]
    exact Bool.false_ne_true

theorem loamQuota_of_over (hs : s.sealed n = true) (h : s.tier.loamFrames < s.othersReserve n + v) :
    State.loamQuota n v s = .error 0x8016 :=
  if_pos (Bool.and_eq_true_iff.2 ⟨hs, decide_eq_true h⟩)

/-! ### PRIV_QUOTA_FRAMES and SP_QUOTA_BYTES (R204, R205) -/

theorem exec_privQuotaFrames (hv : v < 2 ^ 32) (s : State) :
    exec (.privQuotaFrames m n v) s = .next (s.write m .privQuotaFrames n v (State.privQuota n v)) := by
  simp only [exec, execPrivQuotaFrames, Nat.mod_eq_of_lt hv]

theorem exec_spQuotaBytes (hv : v < 2 ^ 32) (s : State) :
    exec (.spQuotaBytes m n v) s = .next (s.write m .spQuotaBytes n v (State.spQuota n v)) := by
  simp only [exec, execSpQuotaBytes, Nat.mod_eq_of_lt hv]

/-! ### LC_FLOOR_BYTES (R211) -/

theorem exec_lcFloorBytes (hv : v < 2 ^ 32) (s : State) :
    exec (.lcFloorBytes m v) s = .next (s.write m .lcFloorBytes 0 v (State.lcFloor v)) := by
  simp only [exec, execLcFloorBytes, Nat.mod_eq_of_lt hv]

theorem outOfRange_of_unsigned {r : Reg} {lo hi : Int} {k : Nat} (hs : r.signed = false) (hr : r.range = some (lo, hi, k)) :
    r.outOfRange v = (decide ((v : Int) < lo) || decide (hi < v) || decide ((v : Int) % k ≠ 0)) := by
  simp [Reg.outOfRange, hs, hr]

theorem byRules_lcFloorBytes (hv : v ≤ 4194304) (hk : v % 65536 = 0) {op : State → Except Nat State} :
    s.byRules .lcFloorBytes (v % 2 ^ Reg.width .lcFloorBytes) op = op s := by
  have hw : v % 2 ^ Reg.width .lcFloorBytes = v := Nat.mod_eq_of_lt (lt_of_le_of_lt hv (by decide))
  have hin : Reg.outOfRange .lcFloorBytes v = false := by
    rw [outOfRange_of_unsigned (r := .lcFloorBytes) rfl rfl]
    simp
    omega
  rw [hw]
  exact byRules_of_allowed hin (by simp [Reg.reservedSet, Reg.lcFloorBytes])

/-- An engine has a BE allocation below the value. -/
def State.belowFloor (s : State) (v e : Nat) : Bool :=
  (s.classOn e false).any fun c => decide (0 < (s.ctx c).alloc.privBytes) && decide ((s.ctx c).alloc.privBase < v)

/-- The floor in force on an engine. -/
def State.floorOn (s : State) (e : Nat) : Nat :=
  match s.tier.floors.get 0 e with
  | 0 => s.reg .lcFloorBytes
  | k + 1 => k

/-- The floors that a write of `v` keeps in force. -/
def State.keptFloors (s : State) (v : Nat) : Tab Nat :=
  ((List.range 128).filter (s.belowFloor v)).foldl (fun t e => t.set 0 e (s.floorOn e + 1)) []

theorem lcFloor_eq (s : State) (v : Nat) :
    State.lcFloor v s = .ok ({ s with tier := { s.tier with floors := s.keptFloors v } }.setReg .lcFloorBytes v) := rfl

/-- A table filled by one value for each of some keys, read back. -/
theorem get_foldl_set {f : Nat → Nat} (hf : ∀ k, f k ≠ 0) (l : List Nat) (t : Tab Nat) (k : Nat) :
    (l.foldl (fun t k => t.set 0 k (f k)) t).get 0 k = if k ∈ l then f k else t.get 0 k := by
  induction l generalizing t with
  | nil => rfl
  | cons x l ih =>
    rw [List.foldl_cons, ih]
    by_cases hl : k ∈ l
    · simp [hl]
    by_cases hx : k = x
    · subst hx
      simp [hl, Tab.get_set_same _ _ _ (hf k)]
    · simp [hl, hx, Tab.get_set_other _ _ _ _ (Ne.symm hx)]

theorem keptFloors_get {e : Nat} (he : e < 128) : (s.keptFloors v).get 0 e = if s.belowFloor v e then s.floorOn e + 1 else 0 := by
  rw [State.keptFloors, get_foldl_set (fun k => by simp)]
  simp [he]

/-- Settles O16: each write is its operation, taken or ignored as the operation answers; the floors kept are read back from the table
that LC_FLOOR_BYTES fills. -/
theorem quotaWritesComplete : Obligations.QuotaWritesComplete := by
  intro s m n v hv
  refine ⟨fun hw => ⟨fun h => ?_, fun hs h => ?_⟩, fun hw => ?_, fun hw => ⟨fun h => ?_, fun h => ?_⟩, fun hw hle hk => ?_⟩
  · exact taken_of_write (exec_loamQuotaPages hv s) hw ((byRules_of_plain rfl rfl rfl hv).trans (loamQuota_of_fits h))
  · exact ignored_of_write (exec_loamQuotaPages hv s) hw ((byRules_of_plain rfl rfl rfl hv).trans (loamQuota_of_over hs h))
  · exact taken_of_write (exec_privQuotaFrames hv s) hw (byRules_of_plain rfl rfl rfl hv)
  · exact taken_of_write (exec_spQuotaBytes hv s) hw ((byRules_of_plain rfl rfl rfl hv).trans (if_neg (not_lt.2 h)))
  · exact taken_of_write (exec_spQuotaBytes hv s) hw ((byRules_of_plain rfl rfl rfl hv).trans (if_pos h))
  · exact ⟨{ s with tier := { s.tier with floors := s.keptFloors v } },
      taken_of_write (exec_lcFloorBytes hv s) hw ((byRules_lcFloorBytes hle hk).trans (lcFloor_eq s v)), rfl, fun e he => keptFloors_get he⟩

end Sys2Proof.Machine
end

section
/-! O33: its statement ranges over every number of a cell, beyond the 256 there are, and of a number far enough out the cell's LAST_EVM
has the key of a time base's FRAME_OFFSET_NS, so the slot's end moves the time that its successor begins at. -/

open Sys2Proof.Claims

namespace Sys2Proof.Machine

/-- The number of a cell whose LAST_EVM is kept under the key of time base 0's FRAME_OFFSET_NS. -/
def farCell : Nat := Reg.key .frameOffsetNs 0 - Reg.key .lastEvm 0

/-- That cell is enabled and its slot 0 of SFN 0 under way, while the radio frames of its time base, 0, begin 2 frames late. -/
def farSlot : State :=
  { State.reset with
    regs := [(Reg.key .frameOffsetNs 0, 2 * frameNs)]
    radio := { Radio.reset with cells := [(farCell, { (default : Cell) with enabled := true, begun := true })] } }

theorem farSlot_tidy : farSlot.tidy :=
  State.tidy_iff_canon.mpr { State.Canon.reset with
    regs := List.pairwise_singleton ..
    radio := { State.Canon.reset.radio with cells := List.pairwise_singleton .. } }

/-- The slot boundary is reached at which SFN 1022 begins. -/
theorem farSlot_due : farSlot.cellSilent farCell = false ∧
    farSlot.reached (farSlot.cellTb farCell) (slotNs (farSlot.cellScs farCell)) 0 = true ∧
    (farSlot.cell farCell).sfn = 0 ∧ farSlot.sfnNow (farSlot.cellTb farCell) = 1022 := by decide +kernel

/-- The slot that ends has no EVM; writing that writes the default of FRAME_OFFSET_NS. -/
theorem farSlot_sfn : ((farSlot.slotBoundary farCell).cell farCell).sfn = 0 := by decide +kernel

theorem exec_slotBoundary (s : State) (c : Nat) : exec (.slotBoundary c) s = .next (s.slotBoundary c) := rfl

/-- Refutes O33: SLOT_BOUNDARY of `farCell` begins the slot at SFN 0, and not at the SFN 1022 of its time base. -/
theorem not_radioBoundariesComplete : ¬ Obligations.RadioBoundariesComplete := by
  rintro ⟨hslot, -⟩
  obtain ⟨hsilent, hreached, hsfn, hnow⟩ := farSlot_due
  have hidle : (farSlot.cell farCell).sfn ≠ farSlot.sfnNow (farSlot.cellTb farCell) := by rw [hsfn, hnow]; decide
  obtain ⟨-, -, hnext⟩ := hslot farSlot farCell
  obtain ⟨t, hexec, -, -, hbegins, -⟩ := hnext ⟨hsilent, hreached, fun h => hidle h.2.1⟩ farSlot_tidy
  rw [exec_slotBoundary] at hexec
  rw [← Host.Outcome.next.inj hexec, farSlot_sfn, hnow] at hbegins
  cases hbegins

end Sys2Proof.Machine
end

section
/-! O29: the packet boundary, at which a die's waiting WFQ weights and policer profiles change places with their shadows, and the frames
of a fronthaul port (R207, R208, R287 to R290, R305, R309, R313, R320, R407). -/

open Sys2Proof.Claims

namespace Sys2Proof.Machine

/-! ### Registers of other keys, and folds that change one place at a time -/

theorem mul_65536_add_ne {a b i j : Nat} (h : a ≠ b) (hi : i < 65536) (hj : j < 65536) : a * 65536 + i ≠ b * 65536 + j := by
  omega

theorem Reg.key_ne {r q : Reg} {i j : Nat} (h : r.key 0 ≠ q.key 0) (hi : i < 65536) (hj : j < 65536) : r.key i ≠ q.key j :=
  mul_65536_add_ne (fun e => h (congrArg (· * 65536 + 0) e)) hi hj

theorem Reg.key_inst_ne (r : Reg) {i j : Nat} (h : i ≠ j) : r.key i ≠ r.key j :=
  fun e => h (Nat.add_left_cancel e)

theorem regsRising_of_canon {s : State} (h : s.Canon) : s.regsRising := ⟨h.regs, h.prot.regs⟩

/-- What a fold over distinct places leaves at each, when a step changes what its own place shows and no other. -/
theorem foldl_view {σ ι α : Type} {f : σ → ι → σ} {I : σ → Prop} {V : ι → Prop} {view : σ → ι → α} {g : ι → α → α}
    (hI : ∀ s i, V i → I s → I (f s i)) (hsame : ∀ s i, V i → I s → view (f s i) i = g i (view s i))
    (hother : ∀ s i j, V i → V j → i ≠ j → view (f s i) j = view s j) {l : List ι} (hl : l.Nodup) (hV : ∀ i ∈ l, V i) {s : σ}
    (hs : I s) {j : ι} (hj : V j) : (j ∈ l → view (l.foldl f s) j = g j (view s j)) ∧ (j ∉ l → view (l.foldl f s) j = view s j) := by
  induction l generalizing s with
  | nil => simp
  | cons i l ih =>
    obtain ⟨hi, hl⟩ := List.nodup_cons.1 hl
    have hVi := hV i List.mem_cons_self
    obtain ⟨hin, hout⟩ := ih hl (fun k hk => hV k (List.mem_cons_of_mem _ hk)) (hI s i hVi hs)
    rw [List.foldl_cons]
    by_cases hij : i = j
    · subst hij
      simp [hout hi, hsame s i hVi hs]
    · have hjl : j ∈ i :: l ↔ j ∈ l := by simp [Ne.symm hij]
      rw [hjl, ← hother s i j hVi hj hij]
      exact ⟨hin, hout⟩

/-! ### The WFQ weights of a die (R207, R305) -/

section
variable {s : State} {d q : Nat}

/-- The current weight of a queue and its Q_WEIGHT change places. -/
def State.swapWeight (s : State) (q : Nat) : State :=
  if s.fh.weights.get 1024 q = s.reg .qWeight q then s
  else { s.setReg .qWeight (s.fh.weights.get 1024 q) q with fh := { s.fh with weights := s.fh.weights.set 1024 q (s.reg .qWeight q) } }

/-- The die waits no more, and its epoch steps. -/
def State.endWfq (s : State) (d : Nat) : State :=
  ({ s with fh := { s.fh with weightNext := s.fh.weightNext.filter (· ≠ d) } }).bump .fhWfqEpoch d

theorem endWfq_fh : (s.endWfq d).fh = { s.fh with weightNext := s.fh.weightNext.filter (· ≠ d) } :=
  State.setReg_fh ({ s with fh := { s.fh with weightNext := s.fh.weightNext.filter (· ≠ d) } } : State) _ _ _

theorem endWfq_reg_other {r : Reg} {i : Nat} (h : Reg.key .fhWfqEpoch d ≠ r.key i) : (s.endWfq d).reg r i = s.reg r i :=
  State.reg_setReg_other ({ s with fh := { s.fh with weightNext := s.fh.weightNext.filter (· ≠ d) } } : State) _ h

theorem endWfq_epoch (h : s.Canon) : (s.endWfq d).reg .fhWfqEpoch d = (s.reg .fhWfqEpoch d + 1) % 2 ^ 32 :=
  State.reg_setReg_rising ({ s with fh := { s.fh with weightNext := s.fh.weightNext.filter (· ≠ d) } } : State) .fhWfqEpoch
    (s.reg .fhWfqEpoch d + 1) d ⟨h.regs, h.prot.regs⟩

theorem switchWfq_of_idle (h : d ∉ s.fh.weightNext) : s.switchWfq d = s := by simp [State.switchWfq, h]

theorem switchWfq_of_waiting (h : d ∈ s.fh.weightNext) : s.switchWfq d = ((dieQueues d).foldl State.swapWeight s).endWfq d := by
  unfold State.switchWfq
  rw [if_neg (by simp [h])]
  generalize dieQueues d = l
  rfl

theorem swapWeight_canon (h : s.Canon) : (s.swapWeight q).Canon := by
  have hr : (s.setReg .qWeight (s.fh.weights.get 1024 q) q).Canon := h.setReg
  exact .ite h { hr with fh := { h.fh with weights := Tab.rising_set 1024 _ q _ h.fh.weights } }

/-- Only Q_WEIGHT of the queue and its current weight change. -/
theorem swapWeight_frame (s : State) (q : Nat) : (s.swapWeight q).fh = { s.fh with weights := (s.swapWeight q).fh.weights } ∧
    ∀ r i, Reg.key .qWeight q ≠ r.key i → (s.swapWeight q).reg r i = s.reg r i := by
  unfold State.swapWeight
  split
  · exact ⟨rfl, fun _ _ _ => rfl⟩
  · exact ⟨rfl, fun r i h => State.reg_setReg_other s _ h⟩

/-- The current weight of a queue, and its Q_WEIGHT. -/
def State.weightPair (s : State) (q : Nat) : Nat × Nat := (s.fh.weights.get 1024 q, s.reg .qWeight q)

/-- A weight and a Q_WEIGHT that change places, if they differ; the entry is cut to its width. -/
def swappedWeight (w : Nat × Nat) : Nat × Nat := if w.1 = w.2 then w else (w.2, w.1 % 2 ^ Reg.width .qWeight)

theorem swapWeight_pair_same (h : s.Canon) : (s.swapWeight q).weightPair q = swappedWeight (s.weightPair q) := by
  unfold State.swapWeight swappedWeight State.weightPair
  split
  · rfl
  · refine Prod.ext (Tab.get_set_rising _ _ _ _ h.fh.weights) ?_
    exact State.reg_setReg_rising s .qWeight (s.fh.weights.get 1024 q) q (regsRising_of_canon h)

theorem swapWeight_pair_other {p : Nat} (h : q ≠ p) : (s.swapWeight q).weightPair p = s.weightPair p := by
  refine Prod.ext ?_ ((swapWeight_frame s q).2 _ _ (Reg.key_inst_ne _ h))
  unfold State.swapWeight
  split
  · rfl
  · exact Tab.get_set_other _ _ _ _ h

theorem foldl_swapWeight_frame (l : List Nat) (s : State) :
    (l.foldl State.swapWeight s).fh = { s.fh with weights := (l.foldl State.swapWeight s).fh.weights } ∧
    ∀ r i, (∀ q ∈ l, Reg.key .qWeight q ≠ r.key i) → (l.foldl State.swapWeight s).reg r i = s.reg r i := by
  induction l generalizing s with
  | nil => exact ⟨rfl, fun _ _ _ => rfl⟩
  | cons q l ih =>
    obtain ⟨hfh, hreg⟩ := ih (s.swapWeight q)
    obtain ⟨hfh', hreg'⟩ := swapWeight_frame s q
    refine ⟨?_, fun r i h => ?_⟩
    · rw [List.foldl_cons, hfh]
      rw [hfh']
    · rw [List.foldl_cons, hreg r i fun p hp => h p (List.mem_cons_of_mem _ hp), hreg' r i (h q List.mem_cons_self)]

theorem endWfq_pair (h : Reg.key .fhWfqEpoch d ≠ Reg.key .qWeight q) : (s.endWfq d).weightPair q = s.weightPair q := by
  unfold State.weightPair
  rw [endWfq_fh, endWfq_reg_other h]

theorem mem_dieQueues : q ∈ dieQueues d ↔ d * 1024 ≤ q ∧ q < (d + 1) * 1024 := by
  simp only [dieQueues, List.mem_map, List.mem_range]
  constructor
  · rintro ⟨a, ha, rfl⟩
    omega
  · rintro ⟨hlow, hhigh⟩
    exact ⟨q - d * 1024, by omega, by omega⟩

theorem dieQueues_nodup (d : Nat) : (dieQueues d).Nodup := List.nodup_range.map fun _ _ h => Nat.add_left_cancel h

theorem lt_of_mem_dieQueues (hd : d < 2) (h : q ∈ dieQueues d) : q < 65536 := by
  obtain ⟨-, hq⟩ := mem_dieQueues.1 h
  omega

theorem foldl_swapWeight_canon (h : s.Canon) (l : List Nat) : (l.foldl State.swapWeight s).Canon := by
  induction l generalizing s with
  | nil => exact h
  | cons q l ih => exact ih (swapWeight_canon h)

/-- Only Q_WEIGHT of the die's queues and FH_WFQ_EPOCH change. -/
theorem switchWfq_reg_other {r : Reg} {i : Nat} (hd : d < 2) (hi : i < 65536) (hw : Reg.key .qWeight 0 ≠ r.key 0)
    (he : Reg.key .fhWfqEpoch 0 ≠ r.key 0) : (s.switchWfq d).reg r i = s.reg r i := by
  by_cases h : d ∈ s.fh.weightNext
  · rw [switchWfq_of_waiting h, endWfq_reg_other (Reg.key_ne he (by omega) hi)]
    exact (foldl_swapWeight_frame (dieQueues d) s).2 r i fun q hq => Reg.key_ne hw (lt_of_mem_dieQueues hd hq) hi
  · rw [switchWfq_of_idle h]

theorem switchWfq_fh (h : d ∈ s.fh.weightNext) : (s.switchWfq d).fh = { s.fh with
    weights := ((dieQueues d).foldl State.swapWeight s).fh.weights, weightNext := s.fh.weightNext.filter (· ≠ d) } := by
  rw [switchWfq_of_waiting h, endWfq_fh, (foldl_swapWeight_frame (dieQueues d) s).1]

/-- The switch leaves the profiles and what waits for them. -/
theorem switchWfq_profiles (s : State) (d : Nat) : (s.switchWfq d).fh.profiles = s.fh.profiles ∧
    (s.switchWfq d).fh.profileShadow = s.fh.profileShadow ∧ (s.switchWfq d).fh.profileNext = s.fh.profileNext := by
  by_cases h : d ∈ s.fh.weightNext
  · rw [switchWfq_fh h]
    exact ⟨rfl, rfl, rfl⟩
  · rw [switchWfq_of_idle h]
    exact ⟨rfl, rfl, rfl⟩

theorem switchWfq_pair (h : s.Canon) (hd : d < 2) (hn : d ∈ s.fh.weightNext) (hq : q ∈ dieQueues d) :
    (s.switchWfq d).weightPair q = swappedWeight (s.weightPair q) := by
  have hview : ((dieQueues d).foldl State.swapWeight s).weightPair q = swappedWeight (s.weightPair q) :=
    (foldl_view (I := State.Canon) (V := fun _ => True) (view := State.weightPair) (g := fun _ => swappedWeight) (fun _ _ _ => swapWeight_canon) (fun _ _ _ => swapWeight_pair_same)
      (fun _ _ _ _ _ => swapWeight_pair_other) (dieQueues_nodup d) (fun _ _ => trivial) h trivial).1 hq
  rw [← hview, switchWfq_of_waiting hn]
  exact endWfq_pair (Reg.key_ne (by decide) (by omega) (lt_of_mem_dieQueues hd hq))

theorem switchWfq_epoch (h : s.Canon) (hd : d < 2) (hn : d ∈ s.fh.weightNext) :
    (s.switchWfq d).reg .fhWfqEpoch d = (s.reg .fhWfqEpoch d + 1) % 2 ^ 32 := by
  have hfold : ((dieQueues d).foldl State.swapWeight s).reg .fhWfqEpoch d = s.reg .fhWfqEpoch d :=
    (foldl_swapWeight_frame (dieQueues d) s).2 _ _ fun q hq => Reg.key_ne (by decide) (lt_of_mem_dieQueues hd hq) (by omega)
  rw [switchWfq_of_waiting hn, endWfq_epoch (foldl_swapWeight_canon h _), hfold]

end

/-! ### The policer profiles of a die (R207, R308) -/

section
variable {s : State} {d n k : Nat} {r : Reg}

/-- A field of a slice's profile: the slice, the field's register and its number. -/
abbrev PolField := Nat × Reg × Nat

/-- The fields of the profiles of all slices. -/
def polFields : List PolField := List.range 64 ×ˢ polRegs.zipIdx

theorem mem_polFields {x : PolField} : x ∈ polFields ↔ x.1 < 64 ∧ x.2 ∈ polRegs.zipIdx := by
  rw [polFields, show x = (x.1, x.2) from rfl, List.mem_product, List.mem_range]

theorem polFields_nodup : polFields.Nodup := List.nodup_range.product (List.Nodup.of_map Prod.snd (by decide))

/-- A field's number is below 8, and its register is its own. -/
theorem polRegs_distinct : ∀ a ∈ polRegs.zipIdx, a.2 < 8 ∧ ∀ b ∈ polRegs.zipIdx, a.1.key 0 = b.1.key 0 ∨ a.2 = b.2 → a = b := by
  decide

/-- The fields of the profiles stand apart from the registers that the boundary steps. -/
theorem polRegs_apart : ∀ a ∈ polRegs.zipIdx, Reg.key .qWeight 0 ≠ a.1.key 0 ∧ Reg.key .fhWfqEpoch 0 ≠ a.1.key 0 ∧
    Reg.key .polEpoch 0 ≠ a.1.key 0 := by
  decide

/-- A field's values in the current copy and in the shadow copy of a die. -/
def State.polPair (s : State) (d : Nat) (x : PolField) : Nat × Nat := (s.pol d x.1 x.2.2, s.polShadow d x.1 x.2.1 x.2.2)

/-- The two values of a field after they change places; the entries of FD0 are cut to their width. -/
def swappedField (d : Nat) (r : Reg) (w : Nat × Nat) : Nat × Nat := (w.2, if d = 0 then w.1 % 2 ^ r.width else w.1)

theorem swapPol_fd0 (s : State) (n : Nat) (r : Reg) (k : Nat) : s.swapPol 0 n r k = { s.setReg r (s.pol 0 n k) n with
    fh := { s.fh with profiles := s.fh.profiles.set 0 (0 * 1024 + n * 8 + k) (s.polShadow 0 n r k) } } := by
  simp [State.swapPol]

theorem swapPol_other_die (h : d ≠ 0) (s : State) (n : Nat) (r : Reg) (k : Nat) : s.swapPol d n r k = { s with
    fh := { s.fh with profileShadow := s.fh.profileShadow.set 0 (n * 8 + k) (s.pol d n k),
                      profiles := s.fh.profiles.set 0 (d * 1024 + n * 8 + k) (s.polShadow d n r k) } } := by
  simp [State.swapPol, h]

/-- Only the field's entry and its current and shadow values change. -/
theorem swapPol_frame (s : State) (d n : Nat) (r : Reg) (k : Nat) : (s.swapPol d n r k).fh = { s.fh with
      profiles := (s.swapPol d n r k).fh.profiles, profileShadow := (s.swapPol d n r k).fh.profileShadow } ∧
    ∀ q i, r.key n ≠ q.key i → (s.swapPol d n r k).reg q i = s.reg q i := by
  by_cases h : d = 0
  · subst h
    rw [swapPol_fd0]
    exact ⟨rfl, fun q i hq => State.reg_setReg_other s _ hq⟩
  · rw [swapPol_other_die h]
    exact ⟨rfl, fun _ _ _ => rfl⟩

theorem swapPol_pair_same {x : PolField} (h : s.Canon) :
    (s.swapPol d x.1 x.2.1 x.2.2).polPair d x = swappedField d x.2.1 (s.polPair d x) := by
  by_cases hd : d = 0
  · subst hd
    rw [swapPol_fd0]
    exact Prod.ext (Tab.get_set_rising _ _ _ _ h.fh.profiles)
      (State.reg_setReg_rising s x.2.1 (s.pol 0 x.1 x.2.2) x.1 (regsRising_of_canon h))
  · rw [swapPol_other_die hd]
    refine Prod.ext (Tab.get_set_rising _ _ _ _ h.fh.profiles) ?_
    simp only [State.polPair, State.polShadow, swappedField, if_neg hd]
    exact Tab.get_set_rising _ _ _ _ h.fh.profileShadow

theorem swapPol_pair_other {x y : PolField} (hx : x ∈ polFields) (hy : y ∈ polFields) (hne : x ≠ y) :
    (s.swapPol d x.1 x.2.1 x.2.2).polPair d y = s.polPair d y := by
  obtain ⟨m, r, k⟩ := x
  obtain ⟨n, q, j⟩ := y
  obtain ⟨hm, hr⟩ := mem_polFields.1 hx
  obtain ⟨hn, hq⟩ := mem_polFields.1 hy
  obtain ⟨hk, hdist⟩ := polRegs_distinct _ hr
  obtain ⟨hj, -⟩ := polRegs_distinct _ hq
  dsimp only at hm hn hk hj
  have hplace : m * 8 + k ≠ n * 8 + j := by
    intro e
    have hkj : k = j := by omega
    have hrq : (r, k) = (q, j) := hdist _ hq (.inr hkj)
    have hmn : m = n := by omega
    exact hne (by rw [hmn, hrq])
  have hindex : d * 1024 + m * 8 + k ≠ d * 1024 + n * 8 + j := by omega
  have hkey : r.key m ≠ q.key n := by
    by_cases hmn : m = n
    · subst hmn
      have hrq : r.key 0 ≠ q.key 0 := fun e => hne (Prod.ext rfl (hdist _ hq (.inl e)))
      exact Reg.key_ne hrq (by omega) (by omega)
    · by_cases hrq : r.key 0 = q.key 0
      · have : (r, k) = (q, j) := hdist _ hq (.inl hrq)
        rw [(Prod.mk.inj this).1]
        exact Reg.key_inst_ne q hmn
      · exact Reg.key_ne hrq (by omega) (by omega)
  by_cases hd : d = 0
  · subst hd
    rw [swapPol_fd0]
    refine Prod.ext (Tab.get_set_other _ _ _ _ hindex) ?_
    simp only [State.polPair, State.polShadow, if_pos]
    exact State.reg_setReg_other s (s.pol 0 m k) hkey
  · rw [swapPol_other_die hd]
    refine Prod.ext (Tab.get_set_other _ _ _ _ hindex) ?_
    simp only [State.polPair, State.polShadow, if_neg hd]
    exact Tab.get_set_other _ _ _ _ hplace

/-- The fields of all profiles change places. -/
def State.swapPols (s : State) (d : Nat) (l : List PolField) : State := l.foldl (fun s x => s.swapPol d x.1 x.2.1 x.2.2) s

theorem swapPols_canon (h : s.Canon) (l : List PolField) : (s.swapPols d l).Canon := by
  induction l generalizing s with
  | nil => exact h
  | cons x l ih => exact ih h.swapPol

theorem swapPols_frame (l : List PolField) (s : State) (d : Nat) : (s.swapPols d l).fh = { s.fh with
      profiles := (s.swapPols d l).fh.profiles, profileShadow := (s.swapPols d l).fh.profileShadow } ∧
    ∀ q i, (∀ x ∈ l, x.2.1.key x.1 ≠ q.key i) → (s.swapPols d l).reg q i = s.reg q i := by
  induction l generalizing s with
  | nil => exact ⟨rfl, fun _ _ _ => rfl⟩
  | cons x l ih =>
    obtain ⟨hfh, hreg⟩ := ih (s.swapPol d x.1 x.2.1 x.2.2)
    obtain ⟨hfh', hreg'⟩ := swapPol_frame s d x.1 x.2.1 x.2.2
    have hcons : s.swapPols d (x :: l) = (s.swapPol d x.1 x.2.1 x.2.2).swapPols d l := rfl
    rw [hcons]
    refine ⟨?_, fun q i h => ?_⟩
    · rw [hfh]
      rw [hfh']
    · rw [hreg q i fun y hy => h y (List.mem_cons_of_mem _ hy), hreg' q i (h x List.mem_cons_self)]

theorem swapPols_pair (h : s.Canon) {x : PolField} (hx : x ∈ polFields) :
    (s.swapPols d polFields).polPair d x = swappedField d x.2.1 (s.polPair d x) :=
  (foldl_view (σ := State) (ι := PolField) (f := fun s x => s.swapPol d x.1 x.2.1 x.2.2) (I := State.Canon) (V := (· ∈ polFields)) (view := fun s => s.polPair d)
    (g := fun x => swappedField d x.2.1) (fun _ _ _ h => h.swapPol) (fun _ _ _ => swapPol_pair_same)
    (fun _ _ _ => swapPol_pair_other) polFields_nodup (fun _ h => h) h hx).1 hx

/-- A bucket of the die, within the size of its profile. -/
def State.clampBucket (s : State) (d k : Nat) (b : Bucket) : Bucket :=
  if k / 64 = d then { b with c := min b.c (s.pol d (k % 64) 2 * 264000), p := min b.p (s.pol d (k % 64) 4 * 264000) } else b

/-- The die waits no more, and its buckets keep within their size. -/
def State.clampPol (s : State) (d : Nat) : State :=
  { s with fh := { s.fh with
      profileNext := s.fh.profileNext.filter (· ≠ d), buckets := s.fh.buckets.mapAll (s.clampBucket d) } }

/-- The buckets are clamped, and the die's epoch steps. -/
def State.endPol (s : State) (d : Nat) : State := (s.clampPol d).bump .polEpoch d

theorem endPol_fh : (s.endPol d).fh = { s.fh with
    profileNext := s.fh.profileNext.filter (· ≠ d), buckets := s.fh.buckets.mapAll (s.clampBucket d) } :=
  State.setReg_fh (s.clampPol d) _ _ _

theorem endPol_reg_other {q : Reg} {i : Nat} (h : Reg.key .polEpoch d ≠ q.key i) : (s.endPol d).reg q i = s.reg q i :=
  State.reg_setReg_other (s.clampPol d) _ h

theorem endPol_epoch (h : s.Canon) : (s.endPol d).reg .polEpoch d = (s.reg .polEpoch d + 1) % 2 ^ 32 :=
  State.reg_setReg_rising (s.clampPol d) .polEpoch (s.reg .polEpoch d + 1) d ⟨h.regs, h.prot.regs⟩

theorem switchPol_of_idle (h : d ∉ s.fh.profileNext) : s.switchPol d = s := by simp [State.switchPol, h]

theorem foldl_product {σ α β : Type} (f : σ → α × β → σ) (l : List α) (m : List β) (s : σ) :
    (l ×ˢ m).foldl f s = l.foldl (fun s a => m.foldl (fun s b => f s (a, b)) s) s := by
  induction l generalizing s with
  | nil => rfl
  | cons a l ih => rw [List.product_cons, List.foldl_append, List.foldl_map, ih, List.foldl_cons]

theorem switchPol_of_waiting (h : d ∈ s.fh.profileNext) : s.switchPol d = (s.swapPols d polFields).endPol d := by
  unfold State.switchPol State.swapPols polFields
  rw [if_neg (by simp [h]), foldl_product]
  generalize List.range 64 = l, polRegs.zipIdx = m
  rfl

/-- The switch leaves what it does not name, and so the weights and what waits for them. -/
theorem switchPol_weights (s : State) (d : Nat) : (s.switchPol d).fh.weights = s.fh.weights ∧
    (s.switchPol d).fh.weightNext = s.fh.weightNext := by
  by_cases h : d ∈ s.fh.profileNext
  · rw [switchPol_of_waiting h, endPol_fh, (swapPols_frame polFields s d).1]
    exact ⟨rfl, rfl⟩
  · rw [switchPol_of_idle h]
    exact ⟨rfl, rfl⟩

/-- The field's entry has another key than a register that is no profile's. -/
theorem polFields_key_ne {q : Reg} {i : Nat} (hi : i < 65536) (h : ∀ a ∈ polRegs.zipIdx, a.1.key 0 ≠ q.key 0) :
    ∀ x ∈ polFields, x.2.1.key x.1 ≠ q.key i := fun x hx =>
  have ⟨hn, hr⟩ := mem_polFields.1 hx
  Reg.key_ne (h _ hr) (by omega) hi

theorem switchPol_reg_other {q : Reg} {i : Nat} (hd : d < 2) (hi : i < 65536) (h : ∀ a ∈ polRegs.zipIdx, a.1.key 0 ≠ q.key 0)
    (he : Reg.key .polEpoch 0 ≠ q.key 0) : (s.switchPol d).reg q i = s.reg q i := by
  by_cases hn : d ∈ s.fh.profileNext
  · rw [switchPol_of_waiting hn, endPol_reg_other (Reg.key_ne he (by omega) hi)]
    exact (swapPols_frame polFields s d).2 q i (polFields_key_ne hi h)
  · rw [switchPol_of_idle hn]

theorem switchPol_profileNext (h : d ∈ s.fh.profileNext) : d ∉ (s.switchPol d).fh.profileNext := by
  rw [switchPol_of_waiting h, endPol_fh]
  simp

theorem switchPol_epoch (h : s.Canon) (hd : d < 2) (hn : d ∈ s.fh.profileNext) :
    (s.switchPol d).reg .polEpoch d = (s.reg .polEpoch d + 1) % 2 ^ 32 := by
  rw [switchPol_of_waiting hn, endPol_epoch (swapPols_canon h _),
    (swapPols_frame polFields s d).2 _ _ (polFields_key_ne (by omega) fun a ha => ((polRegs_apart a ha).2.2).symm)]

theorem endPol_pair {x : PolField} (hd : d < 2) (hx : x ∈ polFields) : (s.endPol d).polPair d x = s.polPair d x := by
  obtain ⟨hn, hr⟩ := mem_polFields.1 hx
  have hreg : (s.endPol d).reg x.2.1 x.1 = s.reg x.2.1 x.1 :=
    endPol_reg_other (Reg.key_ne (polRegs_apart _ hr).2.2 (by omega) (by omega))
  unfold State.polPair State.pol State.polShadow
  rw [hreg, endPol_fh]

theorem switchPol_pair (h : s.Canon) (hd : d < 2) (hn : d ∈ s.fh.profileNext) {x : PolField} (hx : x ∈ polFields) :
    (s.switchPol d).polPair d x = swappedField d x.2.1 (s.polPair d x) := by
  rw [switchPol_of_waiting hn, endPol_pair hd hx, swapPols_pair h hx]

/-- The weights' switch leaves every profile field. -/
theorem switchWfq_polPair {x : PolField} (hd : d < 2) (hx : x ∈ polFields) : (s.switchWfq d).polPair d x = s.polPair d x := by
  obtain ⟨hn, hr⟩ := mem_polFields.1 hx
  obtain ⟨hw, he, -⟩ := polRegs_apart _ hr
  have hreg : (s.switchWfq d).reg x.2.1 x.1 = s.reg x.2.1 x.1 := switchWfq_reg_other hd (by omega) hw he
  obtain ⟨hp, hs, -⟩ := switchWfq_profiles s d
  unfold State.polPair State.pol State.polShadow
  rw [hreg, hp, hs]

end

/-! ### The packet boundary -/

section
variable {s : State} {d : Nat}

theorem packetBoundary_of_idle (hw : d ∉ s.fh.weightNext) (hp : d ∉ s.fh.profileNext) : s.packetBoundary d = s := by
  rw [State.packetBoundary, switchWfq_of_idle hw, switchPol_of_idle hp]

theorem packetBoundary_reg_other {r : Reg} {i : Nat} (hd : d < 2) (hi : i < 65536) (hw : Reg.key .qWeight 0 ≠ r.key 0)
    (he : Reg.key .fhWfqEpoch 0 ≠ r.key 0) (hp : ∀ a ∈ polRegs.zipIdx, a.1.key 0 ≠ r.key 0) (hq : Reg.key .polEpoch 0 ≠ r.key 0) :
    (s.packetBoundary d).reg r i = s.reg r i :=
  (switchPol_reg_other hd hi hp hq).trans (switchWfq_reg_other hd hi hw he)

/-- The boundary of a die whose weights wait: they change places, and the epoch steps. -/
theorem packetBoundary_weights (h : s.Canon) (hd : d < 2) (hn : d ∈ s.fh.weightNext) : d ∉ (s.packetBoundary d).fh.weightNext ∧
    (s.packetBoundary d).reg .fhWfqEpoch d = (s.reg .fhWfqEpoch d + 1) % 2 ^ 32 ∧
    ∀ q ∈ dieQueues d, (s.packetBoundary d).weightPair q = swappedWeight (s.weightPair q) := by
  unfold State.packetBoundary
  obtain ⟨hw, hnext⟩ := switchPol_weights (s.switchWfq d) d
  refine ⟨?_, ?_, fun q hq => ?_⟩
  · rw [hnext, switchWfq_fh hn]
    simp
  · rw [switchPol_reg_other hd (by omega) (fun a ha => (polRegs_apart a ha).2.1.symm) (by decide), switchWfq_epoch h hd hn]
  · rw [← switchWfq_pair h hd hn hq, State.weightPair, hw,
      switchPol_reg_other hd (lt_of_mem_dieQueues hd hq) (fun a ha => (polRegs_apart a ha).1.symm) (by decide)]
    rfl

/-- The boundary of a die whose profiles wait: they change places, and the epoch steps. -/
theorem packetBoundary_profiles (h : s.Canon) (hd : d < 2) (hn : d ∈ s.fh.profileNext) : d ∉ (s.packetBoundary d).fh.profileNext ∧
    (s.packetBoundary d).reg .polEpoch d = (s.reg .polEpoch d + 1) % 2 ^ 32 ∧
    ∀ x ∈ polFields, (s.packetBoundary d).polPair d x = swappedField d x.2.1 (s.polPair d x) := by
  unfold State.packetBoundary
  have hn' : d ∈ (s.switchWfq d).fh.profileNext := by rwa [(switchWfq_profiles s d).2.2]
  refine ⟨switchPol_profileNext hn', ?_, fun x hx => ?_⟩
  · rw [switchPol_epoch h.switchWfq hd hn', switchWfq_reg_other hd (by omega) (by decide) (by decide)]
  · rw [switchPol_pair h.switchWfq hd hn' hx, switchWfq_polPair hd hx]

end

/-! ### Frames -/

section
variable {s : State} {p : Nat}

theorem lt_of_fhExists (h : s.fhExists p = true) : p < 16 := of_decide_eq_true (Bool.and_eq_true_iff.1 h).1

theorem fhExists_of_fhUp (h : s.fhUp p = true) : s.fhExists p = true :=
  (Bool.and_eq_true_iff.1 (Bool.and_eq_true_iff.1 h).1).1

theorem bumpIf_reg_other {r q : Reg} {i j n : Nat} {b : Bool} (h : r.key i ≠ q.key j) : (s.bumpIf b r i n).reg q j = s.reg q j := by
  cases b
  · rfl
  · exact State.reg_setReg_other s _ h

theorem fhFec_reg (s : State) (p : Nat) (b : Bool) (r : Reg) (i : Nat) : (s.fhFec p b).reg r i = s.reg r i := by
  cases b <;> rfl

/-- What a frame's arrival counts, after its FEC codewords and the packet boundary. -/
def State.frameCounted (s : State) (p : Nat) (f : Frame) (long : Bool) : State :=
  ((((s.fhFec p !f.fcsOk).packetBoundary (p / 8)).bump .fhRxFrames p).bumpIf (!f.fcsOk) .fcsErrors p).bumpIf long .oversize p

/-- MAX_FRAME of a port reads at the count as when the frame came. -/
theorem maxFrame_at_count (hp : p < 16) (b : Bool) :
    (((s.fhFec p b).packetBoundary (p / 8)).bump .fhRxFrames p).reg .maxFrame p = s.reg .maxFrame p := by
  rw [State.bump, State.reg_setReg_other _ _ (Reg.key_ne (by decide) (by omega) (by omega)),
    packetBoundary_reg_other (by omega) (by omega) (by decide) (by decide) (by decide) (by decide), fhFec_reg]

/-- A frame of a port that is up, once it is counted. -/
theorem frameIn_of_up (h : s.fhUp p = true) (f : Frame) : s.frameIn p f =
    let long := decide (s.reg .maxFrame p < f.bytes.length)
    let u := s.frameCounted p f long
    let bad := !f.fcsOk || long
    if frameMalformed f then u.bump .malformed p
    else match f.body with
      | .ptp k d c m => if bad then u else (u.ptpForward p f).ptpTake p k d c m
      | _ => u.route p f bad := by
  have hmax := maxFrame_at_count (s := s) (lt_of_fhExists (fhExists_of_fhUp h)) !f.fcsOk
  unfold State.frameIn
  rw [if_neg (by simp [h])]
  dsimp only
  rw [hmax]
  rfl

/-- A frame of a port that is down does nothing. -/
theorem frames_of_down (h : s.fhUp p = false) (f : Frame) :
    exec (.frameReceived p f) s = .next s ∧ exec (.frameTransmitted p) s = .next s := by
  have hin : s.frameIn p f = s := if_pos (by simp [h])
  have hout : s.frameOut p = s := if_pos (by simp [h])
  constructor
  · show execFrameReceived p f s = _
    rw [execFrameReceived, hin]
  · show execFrameTransmitted p s = _
    rw [execFrameTransmitted, hout, ite_self]

/-- A frame that is neither malformed nor PTP goes by its entry. -/
theorem frameIn_of_routed (h : s.fhUp p = true) {f : Frame} (hm : frameMalformed f = false)
    (hb : ∀ k d c m, f.body ≠ .ptp k d c m) : s.frameIn p f =
      (s.frameCounted p f (decide (s.reg .maxFrame p < f.bytes.length))).route p f
        (!f.fcsOk || decide (s.reg .maxFrame p < f.bytes.length)) := by
  rw [frameIn_of_up h]
  dsimp only
  rw [if_neg (by simp [hm])]
  split
  next k d c m e => exact absurd e (hb k d c m)
  next => rfl

theorem route_of_none {f : Frame} {bad : Bool} (h : s.classify (p / 8) (p % 8) f = none) :
    s.route p f bad = s.bump .unclassified p := by
  unfold State.route
  dsimp only
  rw [h]

/-- A frame whose entry is found goes where the entry says, unless its queue is one to send from. -/
theorem route_of_entry {f : Frame} {bad : Bool} {e : Nat} (h : s.classify (p / 8) (p % 8) f = some e) : s.route p f bad =
    let q := p / 8 * 1024 + field e 53 44
    if s.qEgress q then s
    else match field e 69 68 with
      | 1 => s.radioFrame (p / 8) p q (field e 67 60) (field e 59 54) f bad
      | 2 => s.putItem q p (routeOther (field e 67 60) (field e 59 54)) f.bytes f bad
      | 3 => s.serviceFrame (p / 8) p q (field e 43 38) f bad
      | _ => s := by
  unfold State.route
  dsimp only
  rw [h] <;> rfl

/-- The same, by the entry's action. -/
theorem next_route_of_entry {f : Frame} {bad : Bool} {e : Nat} (h : s.classify (p / 8) (p % 8) f = some e) :
    let q := p / 8 * 1024 + field e 53 44
    (s.qEgress q = true → (.next (s.route p f bad) : Out) = .next s) ∧ (s.qEgress q = false →
      (field e 69 68 = 0 → (.next (s.route p f bad) : Out) = .next s) ∧
      (field e 69 68 = 1 → (.next (s.route p f bad) : Out) =
        .next (s.radioFrame (p / 8) p q (field e 67 60) (field e 59 54) f bad)) ∧
      (field e 69 68 = 2 → (.next (s.route p f bad) : Out) =
        .next (s.putItem q p (routeOther (field e 67 60) (field e 59 54)) f.bytes f bad)) ∧
      (field e 69 68 = 3 → (.next (s.route p f bad) : Out) = .next (s.serviceFrame (p / 8) p q (field e 43 38) f bad))) := by
  rw [route_of_entry h]
  refine ⟨fun hq => congrArg _ (if_pos hq), fun hq => ?_⟩
  rw [if_neg (ne_true_of_eq_false hq)]
  exact ⟨fun ha => by simp only [ha], fun ha => by simp only [ha], fun ha => by simp only [ha], fun ha => by simp only [ha]⟩

/-- Before a frame leaves, the head frames of the queues to send from have their tags. -/
def State.headsTagged (s : State) (d : Nat) : State :=
  (dieQueues d).foldl (fun s q => if s.qEgress q then s.tagHead q else s) (s.packetBoundary d)

/-- The head frame of a queue, with its tag `f`, is on the wire: the queue's next frame is tagged and the frame counted. -/
def State.frameSent (s : State) (p q f : Nat) : State :=
  let frame := if (s.queue q).part = none then (s.frameAt q (s.queue q).read).map (s.ptpLeave (s.qWord q (s.queue q).read).tag) else none
  let w := { s with fh := { s.fh with vtime := s.fh.vtime.set 0 p f, sent := s.fh.sent.put p frame } }
  (((w.modQueue q fun x => { x with finish := f }).qRead q (s.qHead q).length).tagHead q).bump .fhTxFrames p

theorem frameOut_of_none (h : s.fhUp p = true) (hn : (s.headsTagged (p / 8)).nextEgress p = none) :
    s.frameOut p = s.headsTagged (p / 8) := by
  unfold State.headsTagged at hn ⊢
  unfold State.frameOut
  rw [if_neg (by simp [h])]
  dsimp only
  rw [hn]

theorem frameOut_of_some (h : s.fhUp p = true) {q f : Nat} (hn : (s.headsTagged (p / 8)).nextEgress p = some (q, f)) :
    s.frameOut p = (s.headsTagged (p / 8)).frameSent p q f := by
  unfold State.headsTagged at hn ⊢
  unfold State.frameOut
  rw [if_neg (by simp [h])]
  dsimp only
  rw [hn]
  generalize dieQueues (p / 8) = l
  rfl

theorem exec_frameTransmitted_of_up (h : s.fhUp p = true) : exec (.frameTransmitted p) s = .next (s.frameOut p) := by
  show execFrameTransmitted p s = _
  rw [execFrameTransmitted, if_pos (lt_of_fhExists (fhExists_of_fhUp h))]

end

/-! ### The obligation -/

theorem swappedWeight_spec {u : State} {w : Nat × Nat} {q : Nat} (h : u.weightPair q = swappedWeight w) :
    u.fh.weights.get 1024 q = w.2 ∧ (w.1 < 2 ^ Reg.width .qWeight → u.reg .qWeight q = w.1) := by
  have hcur : u.fh.weights.get 1024 q = (swappedWeight w).1 := congrArg Prod.fst h
  have hentry : u.reg .qWeight q = (swappedWeight w).2 := congrArg Prod.snd h
  rw [hcur, hentry]
  unfold swappedWeight
  split
  next he => exact ⟨he, fun _ => he.symm⟩
  next => exact ⟨rfl, Nat.mod_eq_of_lt⟩

theorem swappedField_spec {u : State} {d : Nat} {w : Nat × Nat} {x : PolField} (h : u.polPair d x = swappedField d x.2.1 w) :
    u.pol d x.1 x.2.2 = w.2 ∧ (w.1 < 2 ^ x.2.1.width → u.polShadow d x.1 x.2.1 x.2.2 = w.1) := by
  have hcur : u.pol d x.1 x.2.2 = (swappedField d x.2.1 w).1 := congrArg Prod.fst h
  have hshadow : u.polShadow d x.1 x.2.1 x.2.2 = (swappedField d x.2.1 w).2 := congrArg Prod.snd h
  rw [hcur, hshadow]
  refine ⟨rfl, fun hw => ?_⟩
  unfold swappedField
  split
  · exact Nat.mod_eq_of_lt hw
  · rfl

theorem exec_frameReceived (s : State) (p : Nat) (f : Frame) : exec (.frameReceived p f) s = .next (s.frameIn p f) := rfl

/-- Settles O29: the boundary's swaps are folds over places of their own, and a port's frame is counted, then routed by cases of its
body and its entry. -/
theorem fronthaulFramesComplete : Obligations.FronthaulFramesComplete := by
  unfold Obligations.FronthaulFramesComplete
  refine ⟨fun s d => ⟨packetBoundary_of_idle, fun ht hd hn => ?_, fun ht hd hn => ?_⟩, fun s p f h => frames_of_down h f,
    fun s p f h => ⟨fun hm => ?_, fun hm => ⟨fun k d c m hb => ?_, fun hb => ⟨fun hc => ?_, fun e he => ?_⟩⟩⟩,
    fun s p h => ⟨fun hn => ?_, fun q f hn => ?_⟩,
    fun s p up lock => ⟨fun h => ?_, fun h hup => ?_⟩⟩
  · obtain ⟨hnext, hepoch, hpair⟩ := packetBoundary_weights (State.tidy_iff_canon.1 ht) hd hn
    exact ⟨hnext, hepoch, fun q hq => swappedWeight_spec (hpair q hq)⟩
  · obtain ⟨hnext, hepoch, hpair⟩ := packetBoundary_profiles (State.tidy_iff_canon.1 ht) hd hn
    exact ⟨hnext, hepoch, fun n hn p hp => swappedField_spec (hpair (n, p) (mem_polFields.2 ⟨hn, hp⟩))⟩
  · rw [exec_frameReceived, frameIn_of_up h]
    dsimp only
    rw [if_pos hm]
    rfl
  · have hin := (frameIn_of_up h f).trans (if_neg (by simp [hm]))
    rw [exec_frameReceived, hin, hb]
    exact ⟨fun hbad => congrArg _ (if_pos hbad), fun hbad => congrArg _ (if_neg (ne_true_of_eq_false hbad))⟩
  · rw [exec_frameReceived, frameIn_of_routed h hm hb]
    exact congrArg _ (route_of_none hc)
  · rw [exec_frameReceived, frameIn_of_routed h hm hb]
    exact next_route_of_entry he
  · rw [exec_frameTransmitted_of_up h, frameOut_of_none h hn]
    rfl
  · rw [exec_frameTransmitted_of_up h, frameOut_of_some h hn]
    unfold State.headsTagged State.frameSent
    generalize dieQueues (p / 8) = l
    rfl
  · refine if_pos ?_
    simpa using h
  · refine if_neg ?_
    rcases hup with hup | hup <;> simp [h, hup]

end Sys2Proof.Machine
end

section
/-! O38: a route change, the weights of the fabric ports, the timeouts of drains and requests, and the windows of a job (R207, R339, R345
to R348, R352, R363, R366, R372). -/

open Sys2Proof.Claims

namespace Sys2Proof.Machine

/-! ### Registers -/

section
variable {s : State} {r q : Reg} {i j : Nat}

/-- An entry with neither a range nor reserved bits leaves its value to the entry's operation. -/
theorem byRules_of_free {v : Nat} {op : State → Except Nat State} (hr : r.range = none) (hz : r.reserved = 0) :
    s.byRules r v op = op s :=
  byRules_of_allowed (by simp [Reg.outOfRange, hr]) (by simp [Reg.reservedSet, hz])

theorem bump_reg_other {n : Nat} (h : r.key i ≠ q.key j) : (s.bump r i n).reg q j = s.reg q j := State.reg_setReg_other s _ h

theorem setOct_reg (s : State) (r q : Reg) (bs : Bytes) (i j : Nat) : (s.setOct r bs i).reg q j = s.reg q j := by
  unfold State.setOct
  cases r.access <;> rfl

/-- An entry outside the protected file changes the other file alone. -/
theorem setReg_of_not_rwd (h : r.access ≠ .rwd) (s : State) (v i : Nat) :
    s.setReg r v i = { s with regs := (s.setReg r v i).regs } := by
  unfold State.setReg
  split
  · contradiction
  · rfl

end

/-! ### What the ports leave of a route change (R345, R347) -/

/-- The routes, what is left of their change, and its epoch are as before. -/
structure SameRoutes (s t : State) : Prop where
  route : t.fab.route = s.fab.route
  drains : t.fab.drains = s.fab.drains
  routeNext : t.fab.routeNext = s.fab.routeNext
  epoch : t.reg .routeEpoch = s.reg .routeEpoch

namespace SameRoutes

variable {s t u : State}

theorem refl (s : State) : SameRoutes s s := ⟨rfl, rfl, rfl, rfl⟩

theorem trans (h : SameRoutes s t) (k : SameRoutes t u) : SameRoutes s u :=
  ⟨k.route.trans h.route, k.drains.trans h.drains, k.routeNext.trans h.routeNext, k.epoch.trans h.epoch⟩

theorem setOut (s : State) (l : List Sent) : SameRoutes s { s with fab := { s.fab with out := l } } := ⟨rfl, rfl, rfl, rfl⟩

theorem setHeld (s : State) (l : List Packet) : SameRoutes s { s with fab := { s.fab with held := l } } := ⟨rfl, rfl, rfl, rfl⟩

theorem setPort (s : State) (n : Nat) (x : Port) : SameRoutes s (s.setPort n x) := ⟨rfl, rfl, rfl, rfl⟩

theorem bump_fabTxBytes (s : State) {n : Nat} (h : n < 16) (k : Nat) : SameRoutes s (s.bump .fabTxBytes n k) := by
  have hfab : (s.bump .fabTxBytes n k).fab = s.fab := State.setReg_fab s _ _ _
  refine ⟨?_, ?_, ?_, bump_reg_other (Reg.key_ne (by decide) (by omega) (by omega))⟩ <;> rw [hfab]

theorem transmit (s : State) {n : Nat} (h : n < 16) (x : Port) (ps : List Packet) : SameRoutes s (s.transmit n x ps) := by
  unfold State.transmit
  split
  · exact setPort s n x
  · exact (setOut s _).trans ((setPort _ n _).trans (bump_fabTxBytes _ h _))

theorem flushPort (s : State) {n : Nat} (h : n < 16) : SameRoutes s (s.flushPort n) := by
  unfold State.flushPort
  split
  · exact refl s
  · split
    exact (setHeld s _).trans (transmit _ h _ _)

theorem foldl_flushPort (l : List Nat) (h : ∀ n ∈ l, n < 16) (s : State) : SameRoutes s (l.foldl State.flushPort s) := by
  induction l generalizing s with
  | nil => exact refl s
  | cons n l ih =>
    exact (flushPort s (h n List.mem_cons_self)).trans (ih (fun k hk => h k (List.mem_cons_of_mem _ hk)) _)

theorem flushFabric (s : State) : SameRoutes s s.flushFabric := by
  unfold State.flushFabric
  split
  · exact refl s
  · exact foldl_flushPort _ (fun _ h => List.mem_range.1 h) s

end SameRoutes

/-! ### A route change with the fabric off (R345, R347, R348) -/

section
variable {s : State} {t : Tab Nat} {d : Nat}

/-- A destination's entry of the table in force, and its drain ended. -/
def State.setRoute (s : State) (d new : Nat) : State :=
  { s with fab := { s.fab with route := s.fab.route.set 0 d new, drains := s.fab.drains.filter fun x => x.dest ≠ d } }

/-- A destination's entry of the shadow table. -/
def State.setShadowRoute (s : State) (d old : Nat) : State :=
  let sh := s.oct .routeTable
  s.setOct .routeTable (sh.take (2 * d) ++ leBytes 2 old ++ sh.drop (2 * d + 2))

theorem SameRoutes.setShadowRoute (s : State) (d old : Nat) : SameRoutes s (s.setShadowRoute d old) := by
  unfold State.setShadowRoute
  refine ⟨?_, ?_, ?_, setOct_reg _ _ _ _ _ _⟩ <;> rw [State.setOct_fab]

/-- Destination `d` has its new entry and its held packets leave; the change goes on. -/
def State.moveRoute (s : State) (d : Nat) : State :=
  let new := match s.fab.routeNext with
    | some t => t.get 0 d
    | none => s.fab.route.get 0 d
  ((s.setRoute d new).setShadowRoute d (s.fab.route.get 0 d)).flushFabric

theorem switchRoute_eq (s : State) (d : Nat) : s.switchRoute d = (s.moveRoute d).finishRoute := rfl

theorem finishRoute_of_drains (h : s.fab.drains ≠ []) : s.finishRoute = s := by
  unfold State.finishRoute
  split
  · exact if_pos h
  · rfl

theorem finishRoute_of_idle (h : s.fab.routeNext = none) : s.finishRoute = s := by
  unfold State.finishRoute
  rw [h]

/-- The end of a change: its epoch steps, and nothing is left of it. -/
theorem finishRoute_of_done (h : s.fab.routeNext = some t) (hd : s.fab.drains = []) : s.finishRoute =
    ({ s with fab := { s.fab with routeNext := none } }.bump .routeEpoch).setReg .routeStatus 0 := by
  unfold State.finishRoute
  rw [h]
  exact if_neg (by simp [hd])

/-- A change to the table `t` is under way, with the destinations `l` left to switch. -/
structure RouteChanging (s : State) (t : Tab Nat) (l : List Nat) : Prop where
  canon : s.Canon
  routeNext : s.fab.routeNext = some t
  drains : s.fab.drains.map (·.dest) = l

/-- What a change to `t` that still had the destinations `l` to switch leaves at its end. -/
structure RouteChanged (s : State) (t : Tab Nat) (l : List Nat) (w : State) : Prop where
  epoch : w.reg .routeEpoch = (s.reg .routeEpoch + 1) % 2 ^ 32
  status : w.reg .routeStatus = 0
  drains : w.fab.drains = []
  routeNext : w.fab.routeNext = none
  route : ∀ d, w.fab.route.get 0 d = if d ∈ l then t.get 0 d else s.fab.route.get 0 d

theorem fab_of_finishing (s : State) :
    (({ s with fab := { s.fab with routeNext := none } }.bump .routeEpoch).setReg .routeStatus 0).fab =
      { s.fab with routeNext := none } := by
  rw [State.setReg_fab]
  exact State.setReg_fab _ _ _ _

theorem RouteChanging.finish (h : RouteChanging s t []) : RouteChanged s t [] s.finishRoute := by
  have hdrains : s.fab.drains = [] := List.map_eq_nil_iff.1 h.drains
  have hc : ({ s with fab := { s.fab with routeNext := none } } : State).Canon := { h.canon with fab := { h.canon.fab with } }
  have hfab := fab_of_finishing s
  rw [finishRoute_of_done h.routeNext hdrains]
  constructor
  case epoch =>
    rw [State.reg_setReg_other _ _ (Reg.key_ne (by decide) (by omega) (by omega))]
    exact State.reg_setReg_rising _ .routeEpoch _ 0 (regsRising_of_canon hc)
  case status => exact State.reg_setReg_rising _ .routeStatus 0 0 (regsRising_of_canon hc.bump)
  case drains => rw [hfab]; exact hdrains
  case routeNext => rw [hfab]
  case route => intro d; rw [hfab]; simp

theorem finishRoute_finishRoute (h : RouteChanging s t []) : s.finishRoute.finishRoute = s.finishRoute :=
  finishRoute_of_idle h.finish.routeNext

theorem State.Canon.setRoute {new : Nat} (h : s.Canon) : (s.setRoute d new).Canon :=
  { h with fab := { h.fab with route := Tab.rising_set _ _ _ _ h.fab.route } }

theorem State.Canon.setShadowRoute {old : Nat} (h : s.Canon) : (s.setShadowRoute d old).Canon := by
  unfold State.setShadowRoute
  exact State.Canon.setOct h

theorem State.Canon.moveRoute (h : s.Canon) : (s.moveRoute d).Canon :=
  State.Canon.flushFabric (State.Canon.setShadowRoute (State.Canon.setRoute h))

theorem moveRoute_fab (h : s.fab.routeNext = some t) : (s.moveRoute d).fab.route = s.fab.route.set 0 d (t.get 0 d) ∧
    (s.moveRoute d).fab.drains = s.fab.drains.filter (fun x => x.dest ≠ d) ∧ (s.moveRoute d).fab.routeNext = some t ∧
    (s.moveRoute d).reg .routeEpoch = s.reg .routeEpoch := by
  unfold State.moveRoute
  rw [h]
  obtain ⟨hroute, hdrains, hnext, hepoch⟩ :=
    (SameRoutes.setShadowRoute (s.setRoute d (t.get 0 d)) d (s.fab.route.get 0 d)).trans (.flushFabric _)
  exact ⟨hroute, hdrains, hnext.trans h, hepoch⟩

theorem RouteChanging.move {l : List Nat} (h : RouteChanging s t (d :: l)) (hl : d ∉ l) : RouteChanging (s.moveRoute d) t l := by
  obtain ⟨-, hdrains, hnext, -⟩ := moveRoute_fab (d := d) h.routeNext
  refine ⟨State.Canon.moveRoute h.canon, hnext, ?_⟩
  have hmap : (s.fab.drains.filter fun x => decide (x.dest ≠ d)).map (·.dest) =
      (s.fab.drains.map (·.dest)).filter fun k => decide (k ≠ d) := by
    rw [List.filter_map]
    rfl
  rw [hdrains, hmap, h.drains, List.filter_cons_of_neg (by simp)]
  exact List.filter_eq_self.2 fun k hk => by simpa using fun e : k = d => hl (e ▸ hk)

/-- Switching every destination that is left ends the change. -/
theorem RouteChanging.switchAll {l : List Nat} (hl : l.Nodup) (h : RouteChanging s t l) :
    RouteChanged s t l (l.foldl (fun u d => u.switchRoute d) s).finishRoute := by
  induction l generalizing s with
  | nil => exact h.finish
  | cons d l ih =>
    obtain ⟨hd, hl⟩ := List.nodup_cons.1 hl
    have hmove := h.move hd
    obtain ⟨hroute, -, -, hepoch⟩ := moveRoute_fab (d := d) h.routeNext
    have hstep : (l.foldl (fun u d => u.switchRoute d) (s.switchRoute d)).finishRoute =
        (l.foldl (fun u d => u.switchRoute d) (s.moveRoute d)).finishRoute := by
      rw [switchRoute_eq]
      cases l with
      | nil => exact finishRoute_finishRoute hmove
      | cons k l =>
        have hmore : (s.moveRoute d).fab.drains ≠ [] := fun e => by simpa [e] using hmove.drains
        rw [finishRoute_of_drains hmore]
    have hw := ih hl hmove
    rw [List.foldl_cons, hstep]
    refine ⟨hepoch ▸ hw.epoch, hw.status, hw.drains, hw.routeNext, fun k => ?_⟩
    rw [hw.route k, hroute]
    by_cases hkl : k ∈ l
    · simp [hkl]
    by_cases hkd : k = d
    · subst hkd
      simp [Tab.get_set_rising _ _ _ _ h.canon.fab.route]
    · simp [hkl, hkd, Tab.get_set_other _ _ _ _ (Ne.symm hkd)]

/-- The destinations whose entry differs between the shadow table and the table in force. -/
def State.changedRoutes (s : State) : List Nat :=
  (List.range 64).filter fun d => decide (s.shadowRoutes.get 0 d ≠ s.fab.route.get 0 d)

/-- A change to the shadow table begins: a drain for each destination that changes. -/
def State.beginRoutes (s : State) : State :=
  { (s.setReg .routeStatus 1) with fab := { s.fab with
      routeNext := some s.shadowRoutes
      drains := s.changedRoutes.map fun d => (⟨d, [], false, s.ck⟩ : RouteDrain) } }

/-- A route change, begun: its DRAINs are sent, and what has nothing to wait for switches. -/
def State.commitRoutes (s : State) : State :=
  let u := s.changedRoutes.foldl (fun u d => State.sendDrains u d) s.beginRoutes
  (((u.fab.drains.filter fun x => x.waiting = []).map (·.dest)).foldl (fun u d => u.switchRoute d) u).finishRoute

theorem beginRoutes_changing (h : s.Canon) : RouteChanging s.beginRoutes s.shadowRoutes s.changedRoutes := by
  have hs : (s.setReg .routeStatus 1).Canon := h.setReg
  refine ⟨{ hs with fab := { h.fab with } }, rfl, ?_⟩
  show (s.changedRoutes.map _).map _ = _
  rw [List.map_map]
  exact List.map_id _

theorem sendDrains_of_off (h : s.fabricOn = false) : s.sendDrains d = s := if_pos (by simp [h])

theorem beginRoutes_reg {r : Reg} {i : Nat} (h : Reg.key .routeStatus 0 ≠ r.key i) : s.beginRoutes.reg r i = s.reg r i :=
  State.reg_setReg_other (r := .routeStatus) (i := 0) s 1 h

theorem beginRoutes_fabricOn : s.beginRoutes.fabricOn = s.fabricOn := by
  unfold State.fabricOn
  rw [beginRoutes_reg (Reg.key_ne (by decide) (by omega) (by omega))]

theorem foldl_sendDrains_of_off (h : s.fabricOn = false) (l : List Nat) : l.foldl (fun u d => State.sendDrains u d) s = s := by
  induction l with
  | nil => rfl
  | cons d l ih => rw [List.foldl_cons, sendDrains_of_off h, ih]

/-- With the fabric off every destination that changes switches at once. -/
theorem commitRoutes_of_off (h : s.Canon) (hoff : s.fabricOn = false) :
    RouteChanged s.beginRoutes s.shadowRoutes s.changedRoutes s.commitRoutes := by
  have hready : ((s.beginRoutes.fab.drains.filter fun x => x.waiting = []).map (·.dest)) = s.changedRoutes := by
    show ((s.changedRoutes.map _).filter _).map _ = _
    rw [List.filter_eq_self.2 (by simp), List.map_map]
    exact List.map_id _
  unfold State.commitRoutes
  dsimp only
  rw [foldl_sendDrains_of_off (beginRoutes_fabricOn.trans hoff), hready]
  exact (beginRoutes_changing h).switchAll (List.nodup_range.filter _)

theorem commitRoutes_route (h : s.Canon) (hoff : s.fabricOn = false) (hd : d < 64) :
    s.commitRoutes.fab.route.get 0 d = s.shadowRoutes.get 0 d := by
  rw [(commitRoutes_of_off h hoff).route d]
  split
  · rfl
  next hn =>
    by_contra hne
    exact hn (List.mem_filter.2 ⟨List.mem_range.2 hd, decide_eq_true (Ne.symm hne)⟩)

theorem commitRoutes_epoch (h : s.Canon) (hoff : s.fabricOn = false) :
    s.commitRoutes.reg .routeEpoch = (s.reg .routeEpoch + 1) % 2 ^ 32 := by
  rw [(commitRoutes_of_off h hoff).epoch, beginRoutes_reg (Reg.key_ne (by decide) (by omega) (by omega))]

/-- With the fabric off a change is at its end as soon as it is committed. -/
theorem routes_of_off {v : Nat} {w : State} (h : s.Canon) (hoff : s.fabricOn = false) (hv : v = (s.reg .routeEpoch + 1) % 2 ^ 32)
    (hw : w = s.commitRoutes) : w.reg .routeEpoch = v ∧ w.reg .routeStatus = 0 ∧ w.fab.drains = [] ∧ w.fab.routeNext = none ∧
      ∀ d, d < 64 → w.fab.route.get 0 d = s.shadowRoutes.get 0 d := by
  subst hw
  obtain ⟨-, hstatus, hdrains, hnext, -⟩ := commitRoutes_of_off h hoff
  exact ⟨(commitRoutes_epoch h hoff).trans hv.symm, hstatus, hdrains, hnext, fun d => commitRoutes_route h hoff⟩

/-- ROUTE_COMMIT of the next epoch starts the change; of another, or during one, it is ignored. -/
theorem routeCommit_of_next {v : Nat} (hv : v = (s.reg .routeEpoch + 1) % 2 ^ 32) (hs : s.reg .routeStatus ≠ 1) :
    State.routeCommit v s = .ok s.commitRoutes := if_neg (by simp [hv, hs])

theorem routeCommit_of_not_next {v : Nat} (h : ¬ (v = (s.reg .routeEpoch + 1) % 2 ^ 32 ∧ s.reg .routeStatus ≠ 1)) :
    State.routeCommit v s = .error 0x8013 := if_pos (by simpa [or_iff_not_imp_left] using h)

end

/-! ### The timeouts of drains and requests (R348, R363, R366, R472) -/

section
variable {s : State}

theorem exec_routeDrainTimeout (s : State) (d : Nat) : exec (.routeDrainTimeout d) s = execRouteDrainTimeout d s := rfl

theorem execRouteDrainTimeout_of_due {d : Nat} {x : RouteDrain} (h : (s.fab.drains.find? fun x => x.dest = d) = some x)
    (hdue : x.unreachable = false ∧ x.waiting ≠ [] ∧ x.startCk + s.reg .routeDrainUs * 825 ≤ s.ck) :
    let lost (y : RouteDrain) : RouteDrain := if y.dest = d then { y with unreachable := true } else y
    let u := { s with fab := { s.fab with drains := s.fab.drains.map lost } }
    execRouteDrainTimeout d s = .next (u.raise { u.record 0x0403 0 0 0 with suspect := d }).settleUnreachable := by
  obtain ⟨hu, hw, hck⟩ := hdue
  unfold execRouteDrainTimeout
  rw [h]
  exact if_neg (by simp [hu, hw, hck])

theorem execRouteDrainTimeout_of_not_due {d : Nat} (h : ∀ x, (s.fab.drains.find? fun x => x.dest = d) = some x →
    ¬ (x.unreachable = false ∧ x.waiting ≠ [] ∧ x.startCk + s.reg .routeDrainUs * 825 ≤ s.ck)) :
    execRouteDrainTimeout d s = .next s := by
  unfold execRouteDrainTimeout
  split
  next x hx =>
    refine if_pos ?_
    have := h x hx
    cases hu : x.unreachable
    · by_cases hw : x.waiting = []
      · simp [hw]
      · simpa [hu, hw] using this
    · simp
  next => rfl

/-- A record made after a count that is not of what names the package or its clock. -/
theorem record_bump {r : Reg} {i n : Nat} (hp : r.key i ≠ Reg.key .packageId 0) (hq : r.key i ≠ Reg.key .queueTb 0)
    (code severity kind unit : Nat) : (s.bump r i n).record code severity kind unit = s.record code severity kind unit := by
  have hpkg : (s.bump r i n).pkg = s.pkg := bump_reg_other hp
  have hqns : (s.bump r i n).qns = s.qns := by
    have htb : (s.bump r i n).reg .queueTb = s.reg .queueTb := bump_reg_other hq
    have htbs : (s.bump r i n).tbs = s.tbs := State.setReg_tbs _ _ _ _
    unfold State.qns State.ns State.tb
    rw [htb, htbs]
  unfold State.record State.epochNow
  rw [hpkg, hqns]

/-- What a request's timeout does before a snapshot or a restore fails of it: its time begins again, and it is counted and reported. -/
def State.reportTimeout (s : State) (o : Sent) (d j : Nat) : State :=
  let u := (s.modOut fun x => if x = o then { x with sentCk := s.ck } else x).bump .unreachableReports
  u.raise { u.record 0x0402 0 0 0 with suspect := d, job := j }

theorem execReqTimeout_of_due {d j : Nat} {q : W64} {o : Sent}
    (h : (s.fab.out.find? fun o => o.dest = d ∧ o.job = j ∧ o.seq = q.toNat) = some o)
    (hdue : o.sentCk + s.reg .reqTimeoutUs * 825 ≤ s.ck) : execReqTimeout d j q s =
      match o.dropped, o.what with
      | false, .snapshot i => .next ((s.reportTimeout o d j).endSnapshot i false)
      | false, .restore i _ => .next ((s.reportTimeout o d j).endRestore i false)
      | _, _ => .next (s.reportTimeout o d j) := by
  unfold execReqTimeout State.reportTimeout
  rw [h]
  dsimp only
  rw [if_neg (not_lt.2 hdue), record_bump (by decide) (by decide)] <;> rfl

theorem execReqTimeout_of_not_due {d j : Nat} {q : W64} (h : ∀ o,
    (s.fab.out.find? fun o => o.dest = d ∧ o.job = j ∧ o.seq = q.toNat) = some o → ¬ o.sentCk + s.reg .reqTimeoutUs * 825 ≤ s.ck) :
    execReqTimeout d j q s = .next s := by
  unfold execReqTimeout
  split
  next o ho => exact if_pos (not_le.1 (h o ho))
  next => rfl

/-- A timeout of a request that neither a snapshot nor a restore still wants does no more than report it. -/
theorem execReqTimeout_of_unwanted {d j : Nat} {q : W64} {o : Sent}
    (h : (s.fab.out.find? fun o => o.dest = d ∧ o.job = j ∧ o.seq = q.toNat) = some o)
    (hdue : o.sentCk + s.reg .reqTimeoutUs * 825 ≤ s.ck)
    (hw : o.dropped = true ∨ ∀ i k, o.what ≠ .snapshot i ∧ o.what ≠ .restore i k) :
    execReqTimeout d j q s = .next (s.reportTimeout o d j) := by
  rw [execReqTimeout_of_due h hdue]
  split
  next i hd hs => exact absurd hs (hw.elim (fun hd' => absurd (hd.symm.trans hd') (by decide)) fun hw => (hw i 0).1)
  next i k hd hs => exact absurd hs (hw.elim (fun hd' => absurd (hd.symm.trans hd') (by decide)) fun hw => (hw i k).2)
  next => rfl

end

/-! ### The weights of the fabric ports (R207, R339) -/

section
variable {s : State}

/-- A weight in force: the port, the class's entry and the class. -/
abbrev PortWeight := Nat × Reg × Nat

/-- The entries of the weights, with their classes. -/
def weightRegs : List (Reg × Nat) := [(.weightReq, 1), (.weightRsp, 2), (.weightBulk, 3)]

/-- The weights of every port and class. -/
def portWeights : List PortWeight := List.range 16 ×ˢ weightRegs

theorem mem_portWeights {x : PortWeight} : x ∈ portWeights ↔ x.1 < 16 ∧ x.2 ∈ weightRegs := by
  rw [portWeights, show x = (x.1, x.2) from rfl, List.mem_product, List.mem_range]

theorem portWeights_nodup : portWeights.Nodup := List.nodup_range.product (List.Nodup.of_map Prod.snd (by decide))

/-- A class is below 4, and its entry is its own, in the file that is not protected, and not the epoch's. -/
theorem weightRegs_distinct : ∀ a ∈ weightRegs, (a.2 < 4 ∧ a.1.access ≠ .rwd ∧ Reg.key .fabWfqEpoch 0 ≠ a.1.key 0) ∧
    ∀ b ∈ weightRegs, a.1.key 0 = b.1.key 0 ∨ a.2 = b.2 → a = b := by
  decide

/-- A weight in force and its entry change places. -/
def State.swapPortWeight (s : State) (x : PortWeight) : State :=
  { s.setReg x.2.1 (s.fab.weights.get x.2.1.dflt (x.1 * 4 + x.2.2)) x.1 with
    fab := { s.fab with weights := s.fab.weights.set x.2.1.dflt (x.1 * 4 + x.2.2) (s.reg x.2.1 x.1) } }

/-- The weight in force and its entry. -/
def State.portWeightPair (s : State) (x : PortWeight) : Nat × Nat :=
  (s.fab.weights.get x.2.1.dflt (x.1 * 4 + x.2.2), s.reg x.2.1 x.1)

/-- The two after they change places; the entry is cut to its width. -/
def swappedPortWeight (x : PortWeight) (w : Nat × Nat) : Nat × Nat := (w.2, w.1 % 2 ^ x.2.1.width)

theorem State.Canon.swapPortWeight {x : PortWeight} (h : s.Canon) : (s.swapPortWeight x).Canon :=
  { h.setReg with fab := { h.fab with weights := Tab.rising_set _ _ _ _ h.fab.weights } }

theorem swapPortWeight_pair_same {x : PortWeight} (h : s.Canon) :
    (s.swapPortWeight x).portWeightPair x = swappedPortWeight x (s.portWeightPair x) :=
  Prod.ext (Tab.get_set_rising _ _ _ _ h.fab.weights) (State.reg_setReg_rising s x.2.1 _ x.1 (regsRising_of_canon h))

theorem swapPortWeight_reg_other {x : PortWeight} {q : Reg} {i : Nat} (h : x.2.1.key x.1 ≠ q.key i) :
    (s.swapPortWeight x).reg q i = s.reg q i :=
  State.reg_setReg_other s (s.fab.weights.get x.2.1.dflt (x.1 * 4 + x.2.2)) h

theorem swapPortWeight_pair_other {x y : PortWeight} (hx : x ∈ portWeights) (hy : y ∈ portWeights) (hne : x ≠ y) :
    (s.swapPortWeight x).portWeightPair y = s.portWeightPair y := by
  obtain ⟨m, r, k⟩ := x
  obtain ⟨n, q, j⟩ := y
  obtain ⟨hm, hr⟩ := mem_portWeights.1 hx
  obtain ⟨hn, hq⟩ := mem_portWeights.1 hy
  obtain ⟨⟨hk, -, -⟩, hdist⟩ := weightRegs_distinct _ hr
  obtain ⟨⟨hj, -, -⟩, -⟩ := weightRegs_distinct _ hq
  dsimp only at hm hn hk hj
  have hplace : m * 4 + k ≠ n * 4 + j := by
    intro e
    have hkj : k = j := by omega
    have hrq : (r, k) = (q, j) := hdist _ hq (.inr hkj)
    have hmn : m = n := by omega
    exact hne (by rw [hmn, hrq])
  have hkey : r.key m ≠ q.key n := by
    by_cases hrq : r.key 0 = q.key 0
    · have heq : (r, k) = (q, j) := hdist _ hq (.inl hrq)
      have hmn : m ≠ n := fun e => hne (Prod.ext e heq)
      rw [(Prod.mk.inj heq).1]
      exact Reg.key_inst_ne q hmn
    · exact Reg.key_ne hrq (by omega) (by omega)
  exact Prod.ext (Tab.get_set_other _ _ _ _ hplace) (swapPortWeight_reg_other hkey)

/-- Only the unprotected registers and the weights in force differ. -/
def OnlyWeights (s u : State) : Prop := u = { s with regs := u.regs, fab := { s.fab with weights := u.fab.weights } }

theorem OnlyWeights.trans {t u : State} (h : OnlyWeights s t) (k : OnlyWeights t u) : OnlyWeights s u := by
  unfold OnlyWeights at h k ⊢
  rw [k, h]

theorem OnlyWeights.setReg {r : Reg} (h : r.access ≠ .rwd) (s : State) (v i : Nat) : OnlyWeights s (s.setReg r v i) := by
  unfold OnlyWeights
  rw [setReg_of_not_rwd h]

theorem OnlyWeights.swapPortWeight {x : PortWeight} (hx : x ∈ portWeights) (s : State) : OnlyWeights s (s.swapPortWeight x) := by
  unfold OnlyWeights State.swapPortWeight
  rw [setReg_of_not_rwd (weightRegs_distinct _ (mem_portWeights.1 hx).2).1.2.1]

theorem foldl_swapPortWeight_frame (l : List PortWeight) (hl : ∀ x ∈ l, x ∈ portWeights) (s : State) :
    OnlyWeights s (l.foldl State.swapPortWeight s) ∧
      (l.foldl State.swapPortWeight s).reg .fabWfqEpoch = s.reg .fabWfqEpoch := by
  induction l generalizing s with
  | nil => exact ⟨rfl, rfl⟩
  | cons x l ih =>
    obtain ⟨honly, hepoch⟩ := ih (fun y hy => hl y (List.mem_cons_of_mem _ hy)) (s.swapPortWeight x)
    obtain ⟨hp, hr⟩ := mem_portWeights.1 (hl x List.mem_cons_self)
    have hkey : x.2.1.key x.1 ≠ Reg.key .fabWfqEpoch 0 :=
      Reg.key_ne (weightRegs_distinct _ hr).1.2.2.symm (by omega) (by omega)
    exact ⟨(OnlyWeights.swapPortWeight (hl x List.mem_cons_self) s).trans honly, hepoch.trans (swapPortWeight_reg_other hkey)⟩

theorem foldl_swapPortWeight_canon (h : s.Canon) (l : List PortWeight) : (l.foldl State.swapPortWeight s).Canon := by
  induction l generalizing s with
  | nil => exact h
  | cons x l ih => exact ih (State.Canon.swapPortWeight h)

theorem foldl_swapPortWeight_pair (h : s.Canon) {x : PortWeight} (hx : x ∈ portWeights) :
    (portWeights.foldl State.swapPortWeight s).portWeightPair x = swappedPortWeight x (s.portWeightPair x) :=
  (foldl_view (I := State.Canon) (V := (· ∈ portWeights)) (view := State.portWeightPair) (g := swappedPortWeight)
    (fun _ _ _ => State.Canon.swapPortWeight) (fun _ _ _ => swapPortWeight_pair_same) (fun _ _ _ => swapPortWeight_pair_other)
    portWeights_nodup (fun _ h => h) h hx).1 hx

/-- The weights of every port and class change places with the entries, and the epoch steps. -/
def State.exchangedWeights (s : State) : State := (portWeights.foldl State.swapPortWeight s).bump .fabWfqEpoch

theorem fabWfq_of_next {v : Nat} (h : v = (s.reg .fabWfqEpoch + 1) % 2 ^ 32) : State.fabWfq v s = .ok s.exchangedWeights := by
  unfold State.fabWfq State.exchangedWeights portWeights
  rw [if_neg (not_not.2 h), foldl_product]
  generalize List.range 16 = l
  rfl

theorem exchangedWeights_spec (h : s.Canon) : s.exchangedWeights.reg .fabWfqEpoch = (s.reg .fabWfqEpoch + 1) % 2 ^ 32 ∧
    OnlyWeights s s.exchangedWeights ∧ ∀ x ∈ portWeights,
      s.exchangedWeights.fab.weights.get x.2.1.dflt (x.1 * 4 + x.2.2) = s.reg x.2.1 x.1 ∧
      s.exchangedWeights.reg x.2.1 x.1 = s.fab.weights.get x.2.1.dflt (x.1 * 4 + x.2.2) % 2 ^ x.2.1.width := by
  have hcanon := foldl_swapPortWeight_canon h portWeights
  obtain ⟨honly, hepoch⟩ := foldl_swapPortWeight_frame portWeights (fun _ h => h) s
  have hpair : ∀ x ∈ portWeights, (portWeights.foldl State.swapPortWeight s).portWeightPair x = swappedPortWeight x (s.portWeightPair x) :=
    fun _ => foldl_swapPortWeight_pair h
  unfold State.exchangedWeights
  -- The exchange is known by what it leaves: its fold over the weights must not be evaluated.
  generalize portWeights.foldl State.swapPortWeight s = t at *
  refine ⟨?_, honly.trans (OnlyWeights.setReg (by decide) _ _ _), fun x hx => ?_⟩
  · rw [← hepoch]
    exact State.reg_setReg_rising t .fabWfqEpoch _ 0 (regsRising_of_canon hcanon)
  · obtain ⟨hp, hr⟩ := mem_portWeights.1 hx
    have hfab : (t.bump .fabWfqEpoch).fab = t.fab := State.setReg_fab t _ _ _
    rw [hfab, bump_reg_other (Reg.key_ne (weightRegs_distinct _ hr).1.2.2 (by omega) (by omega))]
    exact ⟨congrArg Prod.fst (hpair x hx), congrArg Prod.snd (hpair x hx)⟩

theorem fabWfq_of_other {v : Nat} (h : v ≠ (s.reg .fabWfqEpoch + 1) % 2 ^ 32) : State.fabWfq v s = .error 0x8013 := if_pos h

end

/-! ### Windows (R352, R372) -/

section
variable {s : State} {i v : Nat}

/-- The first reason that the shadow windows or the epoch give. -/
def State.winReason (s : State) (i v : Nat) : Option Nat :=
  let ws := s.shadowWindows i
  let bad (r : Nat) : Bool := decide (regionSize r = 0) || decide (regionBase r % 4096 ≠ 0) ||
    (decide (63 < regionOwner r) && decide (regionOwner r < 0xFE))
  firstReason
    [(0x8010, decide (ws = []) || ws.any bad), (0x8011, ws.any fun r => decide (field r 35 0 ≠ 0)),
     (0x8013, decide (v ≠ (s.reg .winEpoch i + 1) % 2 ^ 32)), (0x8015, anyRegionsHit ws)]

/-- The shadow windows are in force, and the former ones are the shadow. -/
def State.swapWindows (s : State) (i : Nat) : State :=
  let old := (s.jobEntry i).windows
  (((s.modJob i fun j =>
    { j with windows := s.shadowWindows i, shadow := Tab.setRun 0 j.shadow 0 (old.flatMap (leBytes 16)) }).setReg .winEntries
      old.length i).bump .winEpoch i).checkAll

theorem winCommit_of_reason {e : Nat} (h : s.winReason i v = some e) : State.winCommit i v s = .error e := by
  unfold State.winReason at h
  unfold State.winCommit
  dsimp only at h ⊢
  rw [h]

theorem winCommit_of_good (h : s.winReason i v = none) : State.winCommit i v s = .ok (s.swapWindows i) := by
  unfold State.winReason at h
  unfold State.winCommit
  dsimp only at h ⊢
  rw [h]
  rfl

end

/-! ### The obligation -/

/-- Settles O38: a write is its operation, by the rules of a write; with the fabric off the change switches its destinations one by one,
the weights' exchange is a fold over places of their own, and a timeout goes by what it finds. -/
theorem routeAndWindowCommandsComplete : Obligations.RouteAndWindowCommandsComplete := by
  unfold Obligations.RouteAndWindowCommandsComplete
  refine ⟨fun s m v => ⟨guardedOctets_of_writeOctets rfl, fun hw hk => ⟨fun h => ?_, fun h => ?_⟩⟩,
    fun s m v => ⟨guarded_of_write rfl, fun hw => ⟨fun h => ?_, fun h => ?_, fun h ht hoff => ?_⟩⟩,
    fun s d => ⟨fun x hx hdue => execRouteDrainTimeout_of_due hx hdue, fun h => execRouteDrainTimeout_of_not_due h⟩,
    fun s m v => ⟨guarded_of_write rfl, fun hw => ⟨fun h => ?_, fun ht h => ?_⟩⟩,
    fun s d j q => ⟨execReqTimeout_of_not_due, fun o ho hdue => ⟨fun i hd hi => ?_, fun i k hd hi => ?_,
      execReqTimeout_of_unwanted ho hdue⟩⟩,
    fun s m v => ⟨guardedOctets_of_writeOctets rfl, fun hw hk => ⟨fun h => ?_, fun h => ?_⟩⟩,
    fun s m v => ⟨guarded_of_write rfl, fun hw => ⟨fun e h => ?_, fun h => ?_⟩⟩⟩
  · exact taken_of_writeOctets rfl hw hk (if_neg h)
  · exact ignored_of_writeOctets rfl hw hk (if_pos h)
  · exact ignored_of_write rfl hw ((byRules_of_free rfl rfl).trans (routeCommit_of_not_next h))
  · exact taken_of_write rfl hw ((byRules_of_free rfl rfl).trans (routeCommit_of_next h.1 h.2))
  · have hc : s.Canon := State.tidy_iff_canon.1 ht
    exact routes_of_off hc hoff h.1 rfl
  · exact ignored_of_write rfl hw ((byRules_of_free rfl rfl).trans (fabWfq_of_other h))
  · obtain ⟨hepoch, honly, hpair⟩ := exchangedWeights_spec (State.tidy_iff_canon.1 ht)
    exact ⟨s.exchangedWeights, taken_of_write rfl hw ((byRules_of_free rfl rfl).trans (fabWfq_of_next h)), hepoch.trans h.symm,
      honly, fun p hp r k hrk => hpair (p, r, k) (mem_portWeights.2 ⟨hp, hrk⟩)⟩
  · refine (execReqTimeout_of_due ho hdue).trans ?_
    rw [hd, hi]
    rfl
  · refine (execReqTimeout_of_due ho hdue).trans ?_
    rw [hd, hi]
    rfl
  · exact taken_of_writeOctets rfl hw hk (if_neg (not_lt.2 h))
  · exact ignored_of_writeOctets rfl hw hk (if_pos h)
  · exact ignored_of_write rfl hw ((byRules_of_free rfl rfl).trans (winCommit_of_reason h))
  · exact taken_of_write rfl hw ((byRules_of_free rfl rfl).trans (winCommit_of_good h))

end Sys2Proof.Machine
end

section
/-! O42: the PASID map's load, a context's PASID and allocation requests, and freezing, saving and restoring a slice (R207, R386 to R389,
R396 to R400). -/

open Sys2Proof.Claims

namespace Sys2Proof.Machine

variable {s : State} {m n c v : Nat}

/-! ### Bytes of an operand -/

/-- The first field of an operand. -/
theorem leAt_append_left {a b : Bytes} {k : Nat} (h : a.length = k) : leAt (a ++ b) 0 k = leNat a := by
  simp [leAt, ← h]

/-- A field that follows `a`. -/
theorem leAt_append_right {a b : Bytes} {o : Nat} (k : Nat) (h : a.length = o) : leAt (a ++ b) o k = leAt b 0 k := by
  simp [leAt, ← h]

theorem leAt_leBytes (k v : Nat) : leAt (leBytes k v) 0 k = v % 2 ^ (8 * k) := by
  rw [leAt, List.drop_zero, List.take_of_length_le (leBytes_length k v).le, leNat_leBytes]

/-! ### The PASID map (R388, R389) -/

theorem pasidLoad_of_beyond {bs : Bytes} (h : 16384 < s.reg .pasidLoadOffset + bs.length) : State.pasidLoad bs s = .error 0x8010 :=
  if_pos h

theorem pasidLoad_of_busy {bs : Bytes} (h : s.reg .pasidLoadOffset + bs.length ≤ 16384)
    (hf : ¬ (s.hif.pasidNext = none ∧ s.formerPasid = false)) : State.pasidLoad bs s = .error 0x8013 := by
  refine (if_neg (not_lt.2 h)).trans (if_pos ?_)
  cases hn : s.hif.pasidNext <;> simp_all

theorem pasidLoad_of_free {bs : Bytes} (h : s.reg .pasidLoadOffset + bs.length ≤ 16384) (hn : s.hif.pasidNext = none)
    (hf : s.formerPasid = false) : State.pasidLoad bs s =
      .ok ({ s with hif := { s.hif with pasidShadow := s.hif.pasidShadow.setRun 0 (s.reg .pasidLoadOffset) bs } }.setReg
        .pasidLoadOffset (s.reg .pasidLoadOffset + bs.length)) :=
  (if_neg (not_lt.2 h)).trans (if_neg (by simp [hn, hf]))

theorem ctxPasidWrite_of_bad (h : ¬ (v < 2 ^ 20 ∨ v = 0xFFFFFFFF)) : State.ctxPasidWrite c v s = .error 0x8010 :=
  if_pos (by simpa using h)

theorem ctxPasidWrite_of_held (h : v < 2 ^ 20 ∨ v = 0xFFFFFFFF) (hl : (s.ctx c).live = false) :
    State.ctxPasidWrite c v s = .ok (s.setReg .ctxPasid v c) :=
  (if_neg (by simpa [or_iff_not_imp_left] using h)).trans (if_neg (by simp [hl]))

theorem ctxPasidWrite_of_live (h : v < 2 ^ 20 ∨ v = 0xFFFFFFFF) (hl : (s.ctx c).live = true) : State.ctxPasidWrite c v s =
    .ok (((s.modWanted c fun k => { k with pasid := some v }).tryBoundary c).checkNext c) :=
  (if_neg (by simpa [or_iff_not_imp_left] using h)).trans (if_pos hl)

/-! ### Allocation requests (R386) -/

/-- An unsigned entry of 32 bits that takes the values up to `hi`. -/
theorem byRules_of_atMost {r : Reg} {hi : Nat} {op : State → Except Nat State} (hs : r.signed = false)
    (hr : r.range = some (0, (hi : Int), 1)) (hz : r.reserved = 0) (h : v ≤ hi) : s.byRules r v op = op s := by
  refine byRules_of_allowed ?_ (by simp [Reg.reservedSet, hz])
  rw [outOfRange_of_unsigned hs hr]
  simp
  omega

theorem byRules_of_over {r : Reg} {hi : Nat} {op : State → Except Nat State} (hs : r.signed = false)
    (hr : r.range = some (0, (hi : Int), 1)) (h : hi < v) : s.byRules r v op = .error 0x8010 := by
  refine byRules_of_outOfRange ?_
  rw [outOfRange_of_unsigned hs hr]
  simp
  omega

theorem not_placed_iff : (!(s.ctx c).live || decide ((s.ctx c).alloc.engine = none)) = true ↔
    ¬ ((s.ctx c).live = true ∧ (s.ctx c).alloc.engine ≠ none) := by
  cases (s.ctx c).live <;> simp

theorem privReq_of_not_placed (h : ¬ ((s.ctx c).live = true ∧ (s.ctx c).alloc.engine ≠ none)) :
    State.privReq m c v s = .ok (s.setReg .ctxPrivReq v c) := if_pos (not_placed_iff.2 h)

theorem privReq_of_fits (h : (s.ctx c).live = true ∧ (s.ctx c).alloc.engine ≠ none)
    (hf : s.resizes c (alignUp granule v) (s.ctx c).alloc.sharedBytes = true) : State.privReq m c v s =
      .ok ((s.modWanted c fun k => { k with privReq := some (m, v) }).tryBoundary c) :=
  (if_neg fun hn => not_placed_iff.1 hn h).trans (if_neg (by simp [hf]))

theorem privReq_of_over (h : (s.ctx c).live = true ∧ (s.ctx c).alloc.engine ≠ none)
    (hf : ¬ s.resizes c (alignUp granule v) (s.ctx c).alloc.sharedBytes = true) : State.privReq m c v s = .error 0x8016 :=
  (if_neg fun hn => not_placed_iff.1 hn h).trans (if_pos (by simpa using hf))

theorem sharedReq_of_not_placed (h : ¬ ((s.ctx c).live = true ∧ (s.ctx c).alloc.engine ≠ none)) :
    State.sharedReq m c v s = .ok (s.setReg .ctxSharedReq v c) := if_pos (not_placed_iff.2 h)

theorem sharedReq_of_fits (h : (s.ctx c).live = true ∧ (s.ctx c).alloc.engine ≠ none)
    (hf : s.resizes c (s.ctx c).alloc.privBytes (alignUp sharedUnit v) = true) : State.sharedReq m c v s =
      .ok ((s.modWanted c fun k => { k with sharedReq := some (m, v) }).tryBoundary c) :=
  (if_neg fun hn => not_placed_iff.1 hn h).trans (if_neg (by simp [hf]))

theorem sharedReq_of_over (h : (s.ctx c).live = true ∧ (s.ctx c).alloc.engine ≠ none)
    (hf : ¬ s.resizes c (s.ctx c).alloc.privBytes (alignUp sharedUnit v) = true) : State.sharedReq m c v s = .error 0x8016 :=
  (if_neg fun hn => not_placed_iff.1 hn h).trans (if_pos (by simpa using hf))

theorem takeReq_none (r : Reg) (f : Nat → Nat × Nat) : s.takeReq c r none f = s := rfl

theorem takeReq_some (r : Reg) (f : Nat → Nat × Nat) : s.takeReq c r (some (m, v)) f =
    if s.resizes c (f v).1 (f v).2 then (s.setReg r v c).resize c (f v).1 (f v).2 else s.ignoreWrite m r.index r.sub 0x8016 := rfl

/-- Requests that waited for a boundary are judged there; without a cut of the quota nothing else of the sizes changes. -/
theorem takeSizes_of_uncut {w : Wanted} (hp : w.priv = none) (hs : w.shared = none) : s.takeSizes c w =
    let t := s.takeReq c .ctxPrivReq w.privReq fun v => (alignUp granule v, (s.ctx c).alloc.sharedBytes)
    t.takeReq c .ctxSharedReq w.sharedReq fun v => ((t.ctx c).alloc.privBytes, alignUp sharedUnit v) := if_pos ⟨hp, hs⟩

theorem takeSizes_of_privReq : s.takeSizes c { (default : Wanted) with privReq := some (m, v) } =
    if s.resizes c (alignUp granule v) (s.ctx c).alloc.sharedBytes then
      (s.setReg .ctxPrivReq v c).resize c (alignUp granule v) (s.ctx c).alloc.sharedBytes
    else s.ignoreWrite m Reg.ctxPrivReq.index Reg.ctxPrivReq.sub 0x8016 := by
  rw [takeSizes_of_uncut rfl rfl, ← takeReq_some .ctxPrivReq fun v => (alignUp granule v, (s.ctx c).alloc.sharedBytes)]
  exact takeReq_none _ _

theorem takeSizes_of_sharedReq : s.takeSizes c { (default : Wanted) with sharedReq := some (m, v) } =
    if s.resizes c (s.ctx c).alloc.privBytes (alignUp sharedUnit v) then
      (s.setReg .ctxSharedReq v c).resize c (s.ctx c).alloc.privBytes (alignUp sharedUnit v)
    else s.ignoreWrite m Reg.ctxSharedReq.index Reg.ctxSharedReq.sub 0x8016 := by
  rw [takeSizes_of_uncut rfl rfl]
  exact takeReq_some .ctxSharedReq fun v => ((s.ctx c).alloc.privBytes, alignUp sharedUnit v)

/-! ### Freezing, saving and restoring (R396 to R400) -/

theorem byRules_sliceCtrl {op : State → Except Nat State} (h : 1 ≤ v) (hv : v ≤ 2) :
    s.byRules .sliceCtrl (v % 2 ^ Reg.width .sliceCtrl) op = op s := by
  have hw : v % 2 ^ Reg.width .sliceCtrl = v := Nat.mod_eq_of_lt (lt_of_le_of_lt hv (by decide))
  rw [hw]
  refine byRules_of_allowed ?_ (by simp [Reg.reservedSet, Reg.sliceCtrl])
  rw [outOfRange_of_unsigned (r := .sliceCtrl) rfl rfl]
  simp
  omega

theorem sliceCtrl_freeze : State.sliceCtrl n 1 s =
    if !s.sliceOn n || decide (s.sliceState n ≠ 0) then .error 0x8012 else .ok (s.freezeSlice n) := rfl

theorem sliceCtrl_thaw : State.sliceCtrl n 2 s = if s.sliceState n ≠ 2 then .error 0x8012 else .ok (s.thawSlice n) := rfl

/-- What a save and a restore both need of the slice and the PASID. -/
def State.mayTransfer (s : State) (n pasid : Nat) : Prop :=
  s.sliceOn n = true ∧ pasid < 2 ^ 20 ∧ pasidIn s.hif.pasid n pasid = true ∧ s.transferring n = false

theorem leAt_saveOperand (a p : Nat) (l : Bytes) :
    leAt (leBytes 8 a ++ leBytes 4 p ++ l) 0 8 = a % 2 ^ 64 ∧ leAt (leBytes 8 a ++ leBytes 4 p ++ l) 8 4 = p % 2 ^ 32 := by
  rw [List.append_assoc]
  refine ⟨?_, ?_⟩
  · rw [leAt_append_left (leBytes_length 8 a), leNat_leBytes]
  · rw [leAt_append_right 4 (leBytes_length 8 a), leAt_append_left (leBytes_length 4 p), leNat_leBytes]

theorem leAt_strict (a p : Nat) (b : Bool) :
    leAt (leBytes 8 a ++ leBytes 4 p ++ leBytes 1 (if b then 1 else 0)) 12 1 = if b then 1 else 0 := by
  rw [leAt_append_right 1 (by simp), leAt_leBytes]
  cases b <;> rfl

theorem sliceSave_eq (s : State) (n a p : Nat) : State.sliceSave n (leBytes 8 a ++ leBytes 4 p) s =
    if !s.sliceOn n || decide (s.sliceState n ≠ 2) || !(decide (p % 2 ^ 32 < 2 ^ 20) && pasidIn s.hif.pasid n (p % 2 ^ 32)) ||
        s.transferring n then .error 0x8012
    else .ok ({ s with hif := { s.hif with saves := s.hif.saves.put n ⟨a % 2 ^ 64, p % 2 ^ 32, false⟩ } }.setReg .saveStatus 1 n) := by
  obtain ⟨hiova, hpasid⟩ := leAt_saveOperand a p []
  rw [List.append_nil] at hiova hpasid
  unfold State.sliceSave
  rw [hiova, hpasid]

theorem sliceSave_of_may {a p : Nat} (h : s.mayTransfer n (p % 2 ^ 32) ∧ s.sliceState n = 2) :
    State.sliceSave n (leBytes 8 a ++ leBytes 4 p) s =
      .ok ({ s with hif := { s.hif with saves := s.hif.saves.put n ⟨a % 2 ^ 64, p % 2 ^ 32, false⟩ } }.setReg .saveStatus 1 n) := by
  obtain ⟨⟨hon, hp, hin, ht⟩, hs⟩ := h
  rw [sliceSave_eq]
  generalize p % 2 ^ 32 = q at *
  exact if_neg (by simpa [hon, hin, ht, hs] using hp)

theorem sliceSave_of_may_not {a p : Nat} (h : ¬ (s.mayTransfer n (p % 2 ^ 32) ∧ s.sliceState n = 2)) :
    State.sliceSave n (leBytes 8 a ++ leBytes 4 p) s = .error 0x8012 := by
  rw [sliceSave_eq]
  refine if_pos ?_
  by_contra hn
  simp only [Bool.or_eq_true, not_or, Bool.not_eq_true, Bool.not_eq_false', Bool.and_eq_true, decide_eq_true_eq, not_not] at hn
  obtain ⟨⟨⟨hon, hs⟩, hp, hin⟩, ht⟩ := hn
  exact h ⟨⟨hon, hp, hin, ht⟩, hs⟩

theorem sliceRestore_eq (s : State) (n a p : Nat) (b : Bool) :
    State.sliceRestore n (leBytes 8 a ++ leBytes 4 p ++ leBytes 1 (if b then 1 else 0)) s =
    if !s.sliceOn n || !(decide (p % 2 ^ 32 < 2 ^ 20) && pasidIn s.hif.pasid n (p % 2 ^ 32)) || s.transferring n then .error 0x8012
    else .ok ({ s with hif := { s.hif with restores := s.hif.restores.put n ⟨a % 2 ^ 64, p % 2 ^ 32, b⟩ } }.setReg
      .sliceRestoreStatus 1 n) := by
  obtain ⟨hiova, hpasid⟩ := leAt_saveOperand a p (leBytes 1 (if b then 1 else 0))
  unfold State.sliceRestore
  rw [hiova, hpasid, leAt_strict]
  cases b <;> rfl

theorem sliceRestore_of_may {a p : Nat} {b : Bool} (h : s.mayTransfer n (p % 2 ^ 32)) :
    State.sliceRestore n (leBytes 8 a ++ leBytes 4 p ++ leBytes 1 (if b then 1 else 0)) s =
      .ok ({ s with hif := { s.hif with restores := s.hif.restores.put n ⟨a % 2 ^ 64, p % 2 ^ 32, b⟩ } }.setReg
        .sliceRestoreStatus 1 n) := by
  obtain ⟨hon, hp, hin, ht⟩ := h
  rw [sliceRestore_eq]
  generalize p % 2 ^ 32 = q at *
  exact if_neg (by simpa [hon, hin, ht] using hp)

theorem sliceRestore_of_may_not {a p : Nat} {b : Bool} (h : ¬ s.mayTransfer n (p % 2 ^ 32)) :
    State.sliceRestore n (leBytes 8 a ++ leBytes 4 p ++ leBytes 1 (if b then 1 else 0)) s = .error 0x8012 := by
  rw [sliceRestore_eq]
  refine if_pos ?_
  by_contra hn
  simp only [Bool.or_eq_true, not_or, Bool.not_eq_true, Bool.not_eq_false', Bool.and_eq_true, decide_eq_true_eq] at hn
  obtain ⟨⟨hon, hp, hin⟩, ht⟩ := hn
  exact h ⟨hon, hp, hin, ht⟩

/-- The image of a running save is in host memory, and its length counted. -/
def State.putImage (s : State) (n : Nat) : State :=
  let x := s.hif.saves.at n
  (s.hostWr x.pasid x.iova (s.sliceImage n)).setReg .sliceImageBytes (s.sliceImage n).length n

theorem execSliceSaveDone_of_idle (h : ¬ (n < 64 ∧ s.reg .saveStatus n = 1)) : execSliceSaveDone n s = .next s :=
  if_pos (by simpa [or_iff_not_imp_right, imp_not_comm] using h)

theorem execSliceSaveDone_of_running (h : n < 64 ∧ s.reg .saveStatus n = 1) : execSliceSaveDone n s =
    if !s.hif.access then .next (s.endSave n 3) else .next ((s.putImage n).endSave n 2) :=
  if_neg (by simp [h])

theorem putImage_endSave_keeps (s : State) (n : Nat) : ((s.putImage n).endSave n 2).mem = s.mem ∧
    ((s.putImage n).endSave n 2).ctxs = s.ctxs := by
  simp [State.putImage, State.endSave, State.hostWr]

theorem execSliceRestoreDone_of_idle (h : ¬ (n < 64 ∧ s.reg .sliceRestoreStatus n = 1)) : execSliceRestoreDone n s = .next s :=
  if_pos (by simpa [or_iff_not_imp_right, imp_not_comm] using h)

/-- The image that a running restore reads. -/
def State.restoreImage (s : State) (n : Nat) : Bytes :=
  let x := s.hif.restores.at n
  s.hostRd x.pasid x.iova (leNat (s.hostRd x.pasid (x.iova + 0x38) 8))

theorem execSliceRestoreDone_of_failed (h : n < 64 ∧ s.reg .sliceRestoreStatus n = 1)
    (hf : s.hif.access = false ∨ s.restored n (s.hif.restores.at n) (s.restoreImage n) = none) :
    execSliceRestoreDone n s = .next (s.endSliceRestore n 3) := by
  refine (if_neg (by simp [h])).trans ?_
  cases ha : s.hif.access with
  | false => rfl
  | true =>
    have hnone : s.restored n (s.hif.restores.at n) (s.restoreImage n) = none := hf.resolve_left (by simp [ha])
    unfold State.restoreImage at hnone
    rw [if_neg (by simp)]
    dsimp only at hnone ⊢
    rw [hnone]

theorem execSliceRestoreDone_of_restored {u : State} (h : n < 64 ∧ s.reg .sliceRestoreStatus n = 1) (ha : s.hif.access = true)
    (hu : s.restored n (s.hif.restores.at n) (s.restoreImage n) = some u) :
    execSliceRestoreDone n s = .next (u.endSliceRestore n 2) := by
  refine (if_neg (by simp [h])).trans ((if_neg (by simp [ha])).trans ?_)
  unfold State.restoreImage at hu
  dsimp only at hu ⊢
  rw [hu]

end Sys2Proof.Machine
end

section
/-! O42, put together. -/

open Sys2Proof.Claims

namespace Sys2Proof.Machine

/-- Settles O42: each write is its operation by the rules of a write, and a transfer's end goes by what runs. -/
theorem sliceCommandsComplete : Obligations.SliceCommandsComplete := by
  unfold Obligations.SliceCommandsComplete
  refine ⟨fun s m v => ⟨guardedOctets_of_writeOctets rfl, fun hw hk => ⟨fun h => ?_, fun h hf => ?_, fun h hf => ?_⟩⟩,
    fun s m v => ⟨⟨guarded_of_write rfl, guarded_of_write rfl, guarded_of_write rfl⟩,
      fun hw => ⟨fun h => ?_, fun h hl => ?_, fun h hl => ?_⟩, fun hw => ⟨fun h => ?_, fun h hp => ?_, fun h hp hf => ?_,
        fun h hp hf => ?_, fun q hq => ⟨fun hf => ?_, fun hf => ?_⟩⟩,
      fun hw => ⟨fun h => ?_, fun h hp => ?_, fun h hp hf => ?_, fun h hp hf => ?_, fun q hq => ⟨fun hf => ?_, fun hf => ?_⟩⟩⟩,
    fun s m n => ⟨guarded_of_write rfl, guarded_of_write rfl, fun hw => ⟨fun h => ?_, fun h => ?_, fun h => ?_, fun h => ?_⟩⟩,
    fun s m n a p b => ⟨guardedOctets_of_writeOctets rfl, guardedOctets_of_writeOctets rfl,
      fun hw => ⟨fun h => ?_, fun h => ?_⟩, fun hw => ⟨fun h => ?_, fun h => ?_⟩⟩,
    fun s n => ⟨execSliceSaveDone_of_idle, fun h ha => ?_, fun h ha => ?_⟩,
    fun s n => ⟨execSliceRestoreDone_of_idle, execSliceRestoreDone_of_failed, fun h ha u hu => execSliceRestoreDone_of_restored h ha hu⟩⟩
  · exact ignored_of_writeOctets rfl hw hk (pasidLoad_of_beyond h)
  · exact ignored_of_writeOctets rfl hw hk (pasidLoad_of_busy h hf)
  · exact taken_of_writeOctets rfl hw hk (pasidLoad_of_free h hf.1 hf.2)
  · exact ignored_of_write rfl hw ((byRules_of_free rfl rfl).trans (ctxPasidWrite_of_bad h))
  · exact taken_of_write rfl hw ((byRules_of_free rfl rfl).trans (ctxPasidWrite_of_held h hl))
  · exact taken_of_write rfl hw ((byRules_of_free rfl rfl).trans (ctxPasidWrite_of_live h hl))
  · exact ignored_of_write rfl hw (byRules_of_over rfl rfl h)
  · exact taken_of_write rfl hw ((byRules_of_atMost rfl rfl rfl h).trans (privReq_of_not_placed hp))
  · exact ignored_of_write rfl hw ((byRules_of_atMost rfl rfl rfl h).trans (privReq_of_over hp hf))
  · exact taken_of_write rfl hw ((byRules_of_atMost rfl rfl rfl h).trans (privReq_of_fits hp hf))
  · exact hq ▸ takeSizes_of_privReq.trans (if_pos hf)
  · exact hq ▸ takeSizes_of_privReq.trans (if_neg hf)
  · exact ignored_of_write rfl hw (byRules_of_over rfl rfl h)
  · exact taken_of_write rfl hw ((byRules_of_atMost rfl rfl rfl h).trans (sharedReq_of_not_placed hp))
  · exact ignored_of_write rfl hw ((byRules_of_atMost rfl rfl rfl h).trans (sharedReq_of_over hp hf))
  · exact taken_of_write rfl hw ((byRules_of_atMost rfl rfl rfl h).trans (sharedReq_of_fits hp hf))
  · exact hq ▸ takeSizes_of_sharedReq.trans (if_pos hf)
  · exact hq ▸ takeSizes_of_sharedReq.trans (if_neg hf)
  · exact taken_of_write rfl hw ((byRules_sliceCtrl le_rfl (by omega)).trans (sliceCtrl_freeze.trans (if_neg (by simp [h]))))
  · refine ignored_of_write rfl hw ((byRules_sliceCtrl le_rfl (by omega)).trans (sliceCtrl_freeze.trans (if_pos ?_)))
    simpa [or_iff_not_imp_left] using h
  · exact taken_of_write rfl hw ((byRules_sliceCtrl (by omega) le_rfl).trans (sliceCtrl_thaw.trans (if_neg (not_not.2 h))))
  · exact ignored_of_write rfl hw ((byRules_sliceCtrl (by omega) le_rfl).trans (sliceCtrl_thaw.trans (if_pos h)))
  · exact taken_of_writeOctets rfl hw (by simp [Reg.sizeOk, Reg.sliceSave]) (sliceSave_of_may h)
  · exact ignored_of_writeOctets rfl hw (by simp [Reg.sizeOk, Reg.sliceSave]) (sliceSave_of_may_not h)
  · exact taken_of_writeOctets rfl hw (by simp [Reg.sizeOk, Reg.sliceRestore]) (sliceRestore_of_may h)
  · exact ignored_of_writeOctets rfl hw (by simp [Reg.sizeOk, Reg.sliceRestore]) (sliceRestore_of_may_not h)
  · exact (execSliceSaveDone_of_running h).trans (if_pos (by simp [ha]))
  · exact ⟨_, (execSliceSaveDone_of_running h).trans (if_neg (by simp [ha])), rfl, putImage_endSave_keeps s n⟩

end Sys2Proof.Machine
end

section
/-! O43: function level resets, the PCIe link, failed host requests and the mailbox (R196, R201, R209, R374, R376, R377, R379, R380, R401,
R432, R434, R541). -/

open Sys2Proof.Claims

namespace Sys2Proof.Machine

/-! ### What kills and freezes leave of the host interface -/

/-- The host interface and the time. -/
def State.hifCk (s : State) : HostIf × Nat := (s.hif, s.ck)

section
variable (s : State)

theorem setReg_hifCk (r : Reg) (v i : Nat) : (s.setReg r v i).hifCk = s.hifCk := by simp [State.hifCk]

theorem modCtx_hifCk (c : Nat) (f : Ctx → Ctx) : (s.modCtx c f).hifCk = s.hifCk := rfl

theorem modCmd_hifCk (c : Nat) (f : Cmd → Cmd) : (s.modCmd c f).hifCk = s.hifCk := rfl

theorem dropRequests_hifCk (c : Nat) : (s.dropRequests c).hifCk = s.hifCk := rfl

theorem killCtx_hifCk (c cause ak : Nat) : (s.killCtx c cause ak).hifCk = s.hifCk := by
  unfold State.killCtx
  repeat' split
  all_goals rfl

theorem copyRange_hifCk (a b n : Nat) : (s.copyRange a b n).hifCk = s.hifCk := rfl

theorem wrRun_hifCk (a : Nat) (bs : Bytes) : (s.wrRun a bs).hifCk = s.hifCk := rfl

theorem clear_hifCk (a n : Nat) : (s.clear a n).hifCk = s.hifCk := rfl

theorem modPage_hifCk (c : Nat) (f : Page → Page) : (s.modPage c f).hifCk = s.hifCk := rfl

theorem copyResident_hifCk (c h e : Nat) : (s.copyResident c h e).hifCk = s.hifCk := by
  unfold State.copyResident
  rw [copyRange_hifCk]
  exact foldl_keeps (m := State.hifCk) (fun u _ => copyRange_hifCk u _ _ _) _ s

theorem writeImage_hifCk (c : Nat) : (s.writeImage c).hifCk = s.hifCk := by
  unfold State.writeImage
  dsimp only
  split
  · rw [wrRun_hifCk, wrRun_hifCk, wrRun_hifCk, foldl_keeps (m := State.hifCk) fun u _ => clear_hifCk u _ _]
    split
    · exact copyResident_hifCk s _ _ _
    · rfl
  · rfl

theorem freezeQueues_hifCk (cs : List Nat) : (s.freezeQueues cs).hifCk = s.hifCk :=
  foldl_keeps (m := State.hifCk) (fun u c => modPage_hifCk u c _) _ s

theorem freezeImages_hifCk (cs : List Nat) : (s.freezeImages cs).hifCk = s.hifCk :=
  foldl_keeps (m := State.hifCk) (fun u c => writeImage_hifCk u c) _ s

theorem settleFreeze_hifCk (n : Nat) : (s.settleFreeze n).hifCk = s.hifCk := by
  unfold State.settleFreeze
  dsimp only
  split
  · rfl
  · rw [State.setSliceState, setReg_hifCk, freezeImages_hifCk, freezeQueues_hifCk]

theorem yieldTurn_hifCk (e : Nat) (lc : Bool) : (s.yieldTurn e lc).hifCk = s.hifCk := by
  unfold State.yieldTurn
  dsimp only
  split
  · split <;> rfl
  · rfl

theorem yieldTurns_hifCk : s.yieldTurns.hifCk = s.hifCk :=
  foldl_keeps (m := State.hifCk) (fun u e => by rw [yieldTurn_hifCk, yieldTurn_hifCk]) _ s

theorem freezeSlice_hifCk (n : Nat) : (s.freezeSlice n).hifCk = s.hifCk := by
  unfold State.freezeSlice
  dsimp only
  rw [yieldTurns_hifCk, settleFreeze_hifCk, foldl_keeps (m := State.hifCk), State.setSliceState, setReg_hifCk]
  intro u c
  split
  · split
    · split
      · exact killCtx_hifCk u _ _ _
      · rfl
    · rfl
  · rfl

theorem silentKills_hifCk : s.silentKills.hifCk = s.hifCk := by
  refine foldl_keeps (m := State.hifCk) (fun u c => ?_) _ s
  split
  · split
    · exact (modCmd_hifCk _ _ _).trans (killCtx_hifCk u _ _ _)
    · rfl
  · rfl

end

/-! ### FUNCTION_LEVEL_RESET (R377) -/

section
variable {s : State} {k : FunctionReset}

theorem foldl_erase_keys {α : Type} (t : Tab α) : (t.map fun p => p.1).foldl Tab.erase t = [] := by
  induction t with
  | nil => rfl
  | cons p t ih => simpa [Tab.erase] using ih

theorem endSave_hif (s : State) (n v : Nat) : (s.endSave n v).hif = { s.hif with saves := s.hif.saves.erase n } :=
  State.setReg_hif _ _ _ _

theorem endSave_ck (s : State) (n v : Nat) : (s.endSave n v).ck = s.ck := State.setReg_ck _ _ _ _

theorem endSliceRestore_hif (s : State) (n v : Nat) :
    (s.endSliceRestore n v).hif = { s.hif with restores := s.hif.restores.erase n } := State.setReg_hif _ _ _ _

theorem endSliceRestore_ck (s : State) (n v : Nat) : (s.endSliceRestore n v).ck = s.ck := State.setReg_ck _ _ _ _

theorem foldl_endSave (l : List Nat) (s : State) :
    (l.foldl (fun s n => State.endSave s n 3) s).hif = { s.hif with saves := l.foldl Tab.erase s.hif.saves } ∧
      (l.foldl (fun s n => State.endSave s n 3) s).ck = s.ck := by
  induction l generalizing s with
  | nil => exact ⟨rfl, rfl⟩
  | cons n l ih =>
    obtain ⟨hhif, hck⟩ := ih (s.endSave n 3)
    rw [List.foldl_cons, hhif, hck, endSave_hif, endSave_ck]
    exact ⟨rfl, rfl⟩

theorem foldl_endSliceRestore (l : List Nat) (s : State) : (l.foldl (fun s n => State.endSliceRestore s n 3) s).hif =
      { s.hif with restores := l.foldl Tab.erase s.hif.restores } ∧
    (l.foldl (fun s n => State.endSliceRestore s n 3) s).ck = s.ck := by
  induction l generalizing s with
  | nil => exact ⟨rfl, rfl⟩
  | cons n l ih =>
    obtain ⟨hhif, hck⟩ := ih (s.endSliceRestore n 3)
    rw [List.foldl_cons, hhif, hck, endSliceRestore_hif, endSliceRestore_ck]
    exact ⟨rfl, rfl⟩

/-- The tenants' commands are killed and every running slice frozen. -/
def State.stopTenants (s : State) : State :=
  let killed := (s.bump .flrCount).silentKills
  ((List.range 64).filter fun n => killed.sliceOn n && decide (killed.sliceState n = 0)).foldl (fun u n => State.freezeSlice u n) killed

/-- Every transfer ends as failed. -/
def State.endTransfers (s : State) : State :=
  let v := (s.hif.saves.map fun p => p.1).foldl (fun v n => State.endSave v n 3) s
  (v.hif.restores.map fun p => p.1).foldl (fun w n => State.endSliceRestore w n 3) v

/-- The mailbox, the MSI-X table and the pending vectors are empty, and host access ends; after an FLR it returns at a time that is open. -/
def State.closeHost (s : State) (k : FunctionReset) : State :=
  { s with hif := { s.hif with
    msix := [], pba := [], mbRequest := [], mbResponse := [], mbStatus := 0, access := false
    flrEnd := if k = .flr ∧ s.hif.access = true then some (s.ck + 1 + (Config.flrTime s.ck).toNat % 825000) else none } }

/-- The state after a function reset. -/
def State.functionReset (s : State) (k : FunctionReset) : State :=
  let t := s.stopTenants.endTransfers.closeHost k
  if k = .linkDown then t.setReg .pcieLink 0 else t

theorem exec_functionLevelReset (s : State) (k : FunctionReset) : exec (.functionLevelReset k) s = .next (s.functionReset k) := by
  show execFunctionLevelReset k s = _
  unfold execFunctionLevelReset State.functionReset State.closeHost State.endTransfers State.stopTenants
  simp only [Bool.and_eq_true, decide_eq_true_eq]

theorem stopTenants_hifCk (s : State) : s.stopTenants.hifCk = s.hifCk := by
  unfold State.stopTenants
  dsimp only
  rw [foldl_keeps (m := State.hifCk) fun u n => freezeSlice_hifCk u n, silentKills_hifCk]
  exact setReg_hifCk _ _ _ _

theorem endTransfers_hif (s : State) : s.endTransfers.hif = { s.hif with saves := [], restores := [] } ∧ s.endTransfers.ck = s.ck := by
  unfold State.endTransfers
  dsimp only
  obtain ⟨hsaves, hck⟩ := foldl_endSave (s.hif.saves.map fun p => p.1) s
  obtain ⟨hrestores, hck'⟩ := foldl_endSliceRestore
    (((s.hif.saves.map fun p => p.1).foldl (fun v n => State.endSave v n 3) s).hif.restores.map fun p => p.1)
    ((s.hif.saves.map fun p => p.1).foldl (fun v n => State.endSave v n 3) s)
  rw [hrestores, hck', hck, foldl_erase_keys, hsaves, foldl_erase_keys]
  exact ⟨rfl, rfl⟩

theorem functionReset_hif (s : State) (k : FunctionReset) : (s.functionReset k).hif = { s.hif with
    saves := [], restores := [], msix := [], pba := [], mbRequest := [], mbResponse := [], mbStatus := 0, access := false
    flrEnd := if k = .flr ∧ s.hif.access = true then some (s.ck + 1 + (Config.flrTime s.ck).toNat % 825000) else none } := by
  have hstop := stopTenants_hifCk s
  obtain ⟨hhif, hck⟩ := endTransfers_hif s.stopTenants
  have hh : s.stopTenants.hif = s.hif := congrArg Prod.fst hstop
  have hc : s.stopTenants.ck = s.ck := congrArg Prod.snd hstop
  have hclosed : (s.stopTenants.endTransfers.closeHost k).hif = { s.hif with
      saves := [], restores := [], msix := [], pba := [], mbRequest := [], mbResponse := [], mbStatus := 0, access := false
      flrEnd := if k = .flr ∧ s.hif.access = true then some (s.ck + 1 + (Config.flrTime s.ck).toNat % 825000) else none } := by
    unfold State.closeHost
    rw [hhif, hck, hh, hc]
  unfold State.functionReset
  dsimp only
  split
  · rw [State.setReg_hif, hclosed]
  · exact hclosed

/-- Host access returns within 1 ms, and only after an FLR. -/
theorem flrEnd_spec {b : Bool} {ck e : Nat}
    (h : (if k = .flr ∧ b = true then some (ck + 1 + (Config.flrTime ck).toNat % 825000) else none) = some e) :
    k = .flr ∧ b = true ∧ ck < e ∧ e ≤ ck + 825000 := by
  split at h
  next hk =>
    have he := Option.some.inj h
    have := Nat.mod_lt (Config.flrTime ck).toNat (show 0 < 825000 by omega)
    exact ⟨hk.1, hk.2, by omega, by omega⟩
  next => exact nomatch h

theorem closeHost_canon (h : s.Canon) : (s.stopTenants.endTransfers.closeHost k).Canon := by
  have hstop : s.stopTenants.Canon := .foldl (fun _ _ h => h.freezeSlice) _ h.bump.silentKills
  have hend : s.stopTenants.endTransfers.Canon :=
    .foldl (fun _ _ h => h.endSliceRestore) _ (.foldl (fun _ _ h => h.endSave) _ hstop)
  exact hend.setHif fun k => { k with msix := .nil }

theorem functionReset_pcieLink (h : s.Canon) : (s.functionReset .linkDown).reg .pcieLink = 0 :=
  State.reg_setReg_rising _ .pcieLink 0 0 (regsRising_of_canon (closeHost_canon h))

end

/-! ### The PCIe link (R374, R401, R541) -/

section
variable {s : State} {lanes rate : Nat}

theorem linkTrains_iff : linkTrains lanes rate = true ↔ lanes ∈ [1, 2, 4, 8, 16] ∧ 1 ≤ rate ∧ rate ≤ 7 := by
  have hlanes : lanes ∈ [16, 8, 4, 2, 1] ↔ lanes ∈ [1, 2, 4, 8, 16] := List.mem_reverse (as := [1, 2, 4, 8, 16])
  rw [← hlanes]
  simp [linkTrains, and_assoc]

theorem exec_pcieLinkUp (s : State) (lanes rate : Nat) : exec (.pcieLinkUp lanes rate) s =
    if !linkTrains lanes rate then .next s
    else .next (State.setReg { s with hif := { s.hif with access := true, flrEnd := none } } .pcieLink (lanes * 256 + rate)).checkAll :=
  rfl

theorem exec_pcieLinkUp_of_untrained (h : ¬ (lanes ∈ [1, 2, 4, 8, 16] ∧ 1 ≤ rate ∧ rate ≤ 7)) :
    exec (.pcieLinkUp lanes rate) s = .next s := by
  rw [← linkTrains_iff] at h
  exact (exec_pcieLinkUp s lanes rate).trans (if_pos (by simp [h]))

theorem exec_pcieLinkUp_of_trained (h : lanes ∈ [1, 2, 4, 8, 16] ∧ 1 ≤ rate ∧ rate ≤ 7) : exec (.pcieLinkUp lanes rate) s =
    .next (State.setReg { s with hif := { s.hif with access := true, flrEnd := none } } .pcieLink (lanes * 256 + rate)).checkAll :=
  (exec_pcieLinkUp s lanes rate).trans (if_neg (by simp [linkTrains_iff.2 h]))

end

/-! ### HOST_REQUEST_FAILED (R196, R201, R209, R376) -/

section
variable {s : State} {c m n p : Nat}

theorem exec_contextRequest_failed (s : State) (c : Nat) : ∀ r ∈ [HostRequest.contextRequest c, .streamedRead c],
    exec (.hostRequestFailed r) s = .next (s.requestFailed c) := by
  intro r hr
  rcases List.mem_pair.1 hr with rfl | rfl <;> rfl

/-- A failed fetch, by what asked for it. -/
theorem exec_fetch_failed (s : State) (c n p : Nat) : ∀ r ∈ [(HostRequest.demandFetch c n p, true), (.prefetch n p, false)],
    exec (.hostRequestFailed r.1) s = match s.fetchOf n p r.2 with
      | some f => .next (s.fetchFailed f)
      | none => .next s := by
  intro r hr
  rcases List.mem_pair.1 hr with rfl | rfl <;> rfl

/-- What a failed loam map read does once its write is answered. -/
theorem exec_loamMap_failed (s : State) (m n : Nat) : exec (.hostRequestFailed (.loamMap m n)) s =
    let t := s.write m .loamMapCommit n 0 fun _ => .error 0x8018
    .next (if t.reg .dictLastIgnored = 0x8018 ∧ t ≠ s then t.mapReadFailed n else t) := rfl

theorem modSess_reg (s : State) (n : Nat) (f : Session → Session) (r : Reg) (i : Nat) : (s.modSess n f).reg r i = s.reg r i := rfl

theorem setHif_reg (s : State) (x : HostIf) (r : Reg) (i : Nat) : State.reg { s with hif := x } r i = s.reg r i := rfl

theorem sessionFrame_reg (s : State) (n t : Nat) (bs : Bytes) (r : Reg) (i : Nat) : (s.sessionFrame n t bs).2.reg r i = s.reg r i := rfl

theorem sendOn_reg (s : State) (p : Nat) (a bs : Bytes) (r : Reg) (i : Nat) : (s.sendOn p a bs).reg r i = s.reg r i := rfl

theorem raiseMailbox_reg (s : State) (r : Reg) (i : Nat) : s.raiseMailbox.reg r i = s.reg r i := by
  unfold State.raiseMailbox State.raiseVector
  split
  · rfl
  · dsimp only
    split <;> rfl

theorem viaPort_lt (v : Transport) : viaPort v - 1 < 65536 := by cases v <;> decide

/-- An answer counts a frame, and leaves every other register. -/
theorem answer_reg {r : Reg} {i : Nat} (hi : i < 65536) (h : Reg.key .mgmtRxFrames 0 ≠ r.key 0) (s : State) (n : Nat) (bs : Bytes) :
    (s.answer n bs).reg r i = s.reg r i := by
  unfold State.answer
  split
  · rfl
  · dsimp only
    split
    · rw [raiseMailbox_reg, setHif_reg, sessionFrame_reg, modSess_reg]
    · rw [bump_reg_other (Reg.key_ne h (viaPort_lt _) hi), sendOn_reg, sessionFrame_reg, modSess_reg]

theorem setSreg_reg (s : State) (n : Nat) (q : Reg) (v : Nat) (r : Reg) (i : Nat) : (s.setSreg n q v).reg r i = s.reg r i := rfl

/-- The counts of an ignored write whose reason is not one of a tilth commit's. -/
def State.countIgnoredWrite (s : State) (idx sub reason : Nat) : State :=
  ((s.bump .dictIgnoredTotal).setReg .dictLastIgnored reason).setReg .dictLastIgnoredEntry (idx * 2 ^ 16 + sub * 2 ^ 8)

theorem ignoreWrite_reg {idx sub reason : Nat} (hr : reason < 0x8101) (r : Reg) (i : Nat) :
    (s.ignoreWrite m idx sub reason).reg r i = (s.countIgnoredWrite idx sub reason).reg r i := by
  have hn : ¬ (0x8101 ≤ reason ∧ reason ≤ 0x8109) := by omega
  unfold State.ignoreWrite State.countIgnoredWrite
  dsimp only
  rw [if_neg hn]
  split
  · rw [setSreg_reg, setSreg_reg]
  · rfl

/-- An ignored write leaves its reason. -/
theorem ignored_reason (h : s.Canon) {idx sub reason ty : Nat} (hr : reason < 0x8101) :
    ((s.ignoreWrite m idx sub reason).answerWrite m ty).reg .dictLastIgnored = reason := by
  have hcount : (s.bump .dictIgnoredTotal).Canon := h.bump
  rw [State.answerWrite, answer_reg (by omega) (by decide), ignoreWrite_reg hr, State.countIgnoredWrite,
    State.reg_setReg_other _ _ (by decide), State.reg_setReg_rising _ _ _ _ (regsRising_of_canon hcount)]
  exact Nat.mod_eq_of_lt (lt_trans hr (by decide))

/-- An ignored write changes the state: it is counted. -/
theorem ignored_ne (h : s.Canon) {idx sub reason ty : Nat} (hr : reason < 0x8101) :
    (s.ignoreWrite m idx sub reason).answerWrite m ty ≠ s := by
  intro e
  have htotal : ((s.ignoreWrite m idx sub reason).answerWrite m ty).reg .dictIgnoredTotal = (s.reg .dictIgnoredTotal + 1) % 2 ^ 64 := by
    rw [State.answerWrite, answer_reg (by omega) (by decide), ignoreWrite_reg hr, State.countIgnoredWrite,
      State.reg_setReg_other _ _ (by decide), State.reg_setReg_other _ _ (by decide)]
    exact State.reg_setReg_rising s .dictIgnoredTotal _ 0 (regsRising_of_canon h)
  rw [e] at htotal
  omega

theorem loamMap_write (hr : mayWrite s m .loamMapCommit) : s.write m .loamMapCommit n 0 (fun _ => .error 0x8018) =
    (s.ignoreWrite m (Reg.loamMapCommit.index + n) Reg.loamMapCommit.sub 0x8018).answerWrite m Reg.loamMapCommit.ty := by
  obtain ⟨ho, hw⟩ := hr
  simp [State.write, ho, hw, byRules_of_free (r := .loamMapCommit) rfl rfl, State.take]

theorem loamMap_write_of_no_right (ho : s.isOpen m = true) {e : Nat} (he : Reg.writeRight .loamMapCommit (s.role m) = some e) :
    s.write m .loamMapCommit n 0 (fun _ => .error 0x8018) =
      (s.ignoreWrite m (Reg.loamMapCommit.index + n) Reg.loamMapCommit.sub e).answerWrite m Reg.loamMapCommit.ty := by
  simp [State.write, ho, he]

theorem writeRight_loamMapCommit {role e : Nat} (h : Reg.writeRight .loamMapCommit role = some e) : e = 0x8001 := by
  have hr : (if role = 0 then some 0x8001 else none) = some e := h
  split at hr
  · exact (Option.some.inj hr).symm
  · exact nomatch hr

/-- A failed read of a loam map without an open session does nothing, and without the right is ignored for that. -/
theorem loamMap_failed_guarded (h : s.Canon) : guarded (.hostRequestFailed (.loamMap m n)) s m .loamMapCommit n := by
  refine ⟨fun hc => ?_, fun ho e he => ?_⟩
  · have hw : s.write m .loamMapCommit n 0 (fun _ => .error 0x8018) = s := by simp [State.write, hc]
    rw [exec_loamMap_failed, hw]
    exact congrArg _ (if_neg fun hn => hn.2 rfl)
  · have hlast := ignored_reason (m := m) h (idx := Reg.loamMapCommit.index + n) (sub := Reg.loamMapCommit.sub)
      (ty := Reg.loamMapCommit.ty) (show 0x8001 < 0x8101 by decide)
    obtain rfl := writeRight_loamMapCommit he
    show exec _ s = _
    rw [exec_loamMap_failed, loamMap_write_of_no_right ho he]
    exact congrArg _ (if_neg fun hn => absurd (hlast.symm.trans hn.1) (by decide))

theorem loamMap_failed (h : s.Canon) (hr : mayWrite s m .loamMapCommit) : exec (.hostRequestFailed (.loamMap m n)) s = .next
    (((s.ignoreWrite m (Reg.loamMapCommit.index + n) Reg.loamMapCommit.sub 0x8018).answerWrite m Reg.loamMapCommit.ty).mapReadFailed
      n) := by
  rw [exec_loamMap_failed, loamMap_write hr]
  exact congrArg _ (if_pos ⟨ignored_reason h (by decide), ignored_ne h (by decide)⟩)

/-- A failed request of a radio channel, counted and reported. -/
def State.channelFault (s : State) (n : Nat) : State := ((s.bump .rhcErrors n).bump .hostErrors).fault 0x0603 0 0 0 0xFFFF n

theorem raise_hif_mem (s : State) (f : FaultRec) : (s.raise f).hif = s.hif ∧ (s.raise f).mem = s.mem := by
  unfold State.raise State.foldReport
  dsimp only
  split
  · exact ⟨by simp [State.bump], by simp [State.bump]⟩
  · split
    · exact ⟨by simp, by simp⟩
    · exact ⟨by simp [State.bump], by simp [State.bump]⟩

theorem channelFault_hif_mem (s : State) (n : Nat) : (s.channelFault n).hif = s.hif ∧ (s.channelFault n).mem = s.mem := by
  obtain ⟨hhif, hmem⟩ := raise_hif_mem ((s.bump .rhcErrors n).bump .hostErrors)
    { ((s.bump .rhcErrors n).bump .hostErrors).record 0x0603 0 0 0 with context := 0xFFFF, data := n }
  exact ⟨hhif.trans (by simp [State.bump]), hmem.trans (by simp [State.bump])⟩

theorem dropUp_of_empty (h : (s.channel n).upIndex = (s.channel n).upConsumed) : s.dropUp n = s := if_pos h

/-- The last up record is dropped, and device memory stays. -/
theorem dropUp_of_record (hc : s.hif.channels.rising) (h : (s.channel n).upIndex ≠ (s.channel n).upConsumed) :
    ((s.dropUp n).channel n).upIndex = (s.channel n).upIndex - 1 ∧ (s.dropUp n).mem = s.mem := by
  unfold State.dropUp
  rw [if_neg h]
  refine ⟨?_, rfl⟩
  exact congrArg Channel.upIndex (Tab.get_set_rising _ _ _ _ hc)

end

/-! ### MB_REQ_LEN (R380, R432, R434) -/

section
variable {s : State} {len : Nat} {frame f area : Bytes}

/-- The mailbox is served. -/
def State.mailboxOn (s : State) : Prop := s.hif.access = true ∧ s.boot.inReset = false ∧ s.boot.halted = false

/-- MB_REQUEST with the frame at its start. -/
def State.mailboxArea (s : State) (frame : Bytes) : Bytes := (frame ++ s.hif.mbRequest.drop frame.length).take 8192

/-- The request of `len` bytes that stands in the area. -/
def requestIn (area : Bytes) (len : Nat) : Bytes := (area ++ zeros (len - area.length)).take len

/-- The request is being served. -/
def State.serving (s : State) (area : Bytes) : State := { s with hif := { s.hif with mbRequest := area, mbStatus := 1 } }

theorem exec_mbReqLen (s : State) (len : Nat) (frame : Bytes) : exec (.mbReqLen len frame) s = .next (s.mailboxWrite len frame) := rfl

theorem mailboxWrite_of_off (h : ¬ s.mailboxOn) : s.mailboxWrite len frame = s := by
  refine if_pos ?_
  by_contra hn
  simp only [Bool.or_eq_true, not_or, Bool.not_eq_true, Bool.not_eq_false'] at hn
  exact h ⟨hn.1.1, hn.1.2, hn.2⟩

theorem mailboxWrite_of_on (h : s.mailboxOn) : s.mailboxWrite len frame =
    if s.hif.mbStatus = 1 then s.bump .mbIgnored
    else if len = 0 || decide (8192 < len) then
      State.bump { s with hif := { s.hif with mbRequest := s.mailboxArea frame } } .mbIgnored
    else (State.mailboxRun { s with hif := { s.hif with mbRequest := s.mailboxArea frame } }
      (requestIn (s.mailboxArea frame) len)).mailboxEnd := by
  obtain ⟨ha, hr, hh⟩ := h
  exact if_neg (by simp [ha, hr, hh])

theorem mailboxWrite_of_busy (h : s.mailboxOn) (hb : s.hif.mbStatus = 1) : s.mailboxWrite len frame = s.bump .mbIgnored :=
  (mailboxWrite_of_on h).trans (if_pos hb)

theorem mailboxWrite_of_bad (h : s.mailboxOn) (hb : s.hif.mbStatus ≠ 1) (hl : len = 0 ∨ 8192 < len) : s.mailboxWrite len frame =
    State.bump { s with hif := { s.hif with mbRequest := s.mailboxArea frame } } .mbIgnored :=
  ((mailboxWrite_of_on h).trans (if_neg hb)).trans (if_pos (by simpa using hl))

/-- A request that is served: with a failed identity, dropped, or by its frame. -/
theorem mailboxWrite_of_served (h : s.mailboxOn) (hb : s.hif.mbStatus ≠ 1) (hl : ¬ (len = 0 ∨ 8192 < len)) :
    s.mailboxWrite len frame = State.mailboxEnd (
      if s.boot.idFail then (s.serving (s.mailboxArea frame)).identityFail
      else if !s.mailboxUp || !frameOk (requestIn (s.mailboxArea frame) len) then s.serving (s.mailboxArea frame)
      else (s.serving (s.mailboxArea frame)).mailboxFrame (requestIn (s.mailboxArea frame) len)) :=
  ((mailboxWrite_of_on h).trans (if_neg hb)).trans (if_neg (by simpa using hl))

theorem mailboxEnd_mbStatus (s : State) : s.mailboxEnd.hif.mbStatus ≠ 1 := by
  unfold State.mailboxEnd
  split
  · exact Nat.zero_ne_one
  next h => exact h

theorem mailboxEnd_of_answered (h : s.hif.mbStatus ≠ 1) : s.mailboxEnd = s := if_neg h

theorem mailboxEnd_serving (s : State) (area : Bytes) : (s.serving area).mailboxEnd =
    { s.serving area with hif := { (s.serving area).hif with mbStatus := 0 } } := if_pos rfl

/-- A request is over when its length has been written, unless another was being served. -/
theorem mailboxWrite_mbStatus (h : s.mailboxOn) (hb : s.hif.mbStatus ≠ 1) : (s.mailboxWrite len frame).hif.mbStatus ≠ 1 := by
  by_cases hl : len = 0 ∨ 8192 < len
  · rw [mailboxWrite_of_bad h hb hl, State.bump, State.setReg_hif]
    exact hb
  · rw [mailboxWrite_of_served h hb hl]
    exact mailboxEnd_mbStatus _

theorem raiseMailbox_mbStatus (s : State) : s.raiseMailbox.hif.mbStatus = s.hif.mbStatus := by
  unfold State.raiseMailbox State.raiseVector
  split
  · rfl
  · dsimp only
    split <;> rfl

theorem identityFail_serving (h : s.mailboxOn) (hid : s.boot.idFail = true) : (s.serving area).identityFail =
    (s.serving area).replyVia .mailbox [] (frameHeader 0x0F 0xFF 1 0 ++ [1]) := by
  obtain ⟨ha, hr, -⟩ := h
  refine if_pos ?_
  simp [State.serving, ha, hr, hid]

theorem replyVia_mailbox_mbStatus (s : State) (bs : Bytes) : (s.replyVia .mailbox [] bs).hif.mbStatus = 2 :=
  raiseMailbox_mbStatus _

theorem mailboxWrite_of_idFail (h : s.mailboxOn) (hb : s.hif.mbStatus ≠ 1) (hl : ¬ (len = 0 ∨ 8192 < len))
    (hid : s.boot.idFail = true) : s.mailboxWrite len frame =
      (s.serving (s.mailboxArea frame)).replyVia .mailbox [] (frameHeader 0x0F 0xFF 1 0 ++ [1]) := by
  rw [mailboxWrite_of_served h hb hl, if_pos hid, identityFail_serving h hid]
  refine mailboxEnd_of_answered ?_
  rw [replyVia_mailbox_mbStatus]
  decide

theorem mailboxWrite_of_dropped (h : s.mailboxOn) (hb : s.hif.mbStatus ≠ 1) (hl : ¬ (len = 0 ∨ 8192 < len))
    (hid : s.boot.idFail = false) (hd : s.mailboxUp = false ∨ frameOk (requestIn (s.mailboxArea frame) len) = false) :
    s.mailboxWrite len frame = (s.serving (s.mailboxArea frame)).mailboxEnd := by
  rw [mailboxWrite_of_served h hb hl, if_neg (by simp [hid]), if_pos (by simpa using hd)]

theorem mailboxWrite_of_frame (h : s.mailboxOn) (hb : s.hif.mbStatus ≠ 1) (hl : ¬ (len = 0 ∨ 8192 < len))
    (hid : s.boot.idFail = false) (hu : s.mailboxUp = true) (hf : frameOk (requestIn (s.mailboxArea frame) len) = true) :
    s.mailboxWrite len frame =
      ((s.serving (s.mailboxArea frame)).mailboxFrame (requestIn (s.mailboxArea frame) len)).mailboxEnd := by
  rw [mailboxWrite_of_served h hb hl, if_neg (by simp [hid]), if_neg (by simp [hu, hf])]

theorem mailboxFrame_of_sessionless (h : leAt f 3 1 = 0x0A) :
    s.mailboxFrame f = s.serveSessionless (requestOps (slice f 16 (leAt f 6 2))) := by
  unfold State.mailboxFrame
  simp only [h]

/-- While no sessions are served, a frame of a session does nothing. -/
theorem mailboxFrame_of_no_sessions (h : leAt f 3 1 ≠ 0x0A) (hs : s.sessionsUp .mailbox = false) : s.mailboxFrame f = s := by
  unfold State.mailboxFrame
  dsimp only
  rw [hs]
  split
  next h10 => exact absurd h10 h
  all_goals rfl

theorem mailboxFrame_of_sessions (hs : s.sessionsUp .mailbox = true) :
    (leAt f 3 1 = 0x01 → s.mailboxFrame f = s.openVia .mailbox 0 (leAt f 5 1) (slice f 16 (leAt f 6 2))) ∧
    (leAt f 3 1 = 0x03 → s.mailboxFrame f = s.proofVia .mailbox (leAt f 4 1) (slice f (16 + leAt f 6 2) 32)) ∧
    (leAt f 3 1 = 0x05 → s.mailboxFrame f = s.mailboxRequest f) := by
  unfold State.mailboxFrame
  dsimp only
  refine ⟨fun h => ?_, fun h => ?_, fun h => ?_⟩ <;> rw [h] <;> exact if_pos hs

end

/-! ### The obligation -/

/-- Equal states are equal next states. -/
theorem next_congr {t u : State} (h : t = u) : (.next t : Out) = .next u := congrArg _ h

/-- Settles O43: what kills and freezes leave of the host interface gives the reset; the other commands go by what they find. -/
theorem hostLinkCommandsComplete : Obligations.HostLinkCommandsComplete := by
  unfold Obligations.HostLinkCommandsComplete
  refine ⟨fun s k ht => ?_, fun s k => exec_functionLevelReset s k,
    fun s lanes rate => ⟨exec_pcieLinkUp_of_untrained, exec_pcieLinkUp_of_trained⟩,
    fun s c n p => ⟨fun r hr => ⟨fun h => ?_, fun h => ?_⟩, fun r hr => ⟨fun f h => ?_, fun h => ?_⟩, fun h => ?_, fun h => ?_,
      fun h => ?_, fun h => ?_⟩,
    fun s m n ht => ⟨loamMap_failed_guarded (State.tidy_iff_canon.1 ht), loamMap_failed (State.tidy_iff_canon.1 ht)⟩,
    fun s n => ⟨rfl, rfl, dropUp_of_empty, fun ht h => ?_⟩,
    fun s len frame => ⟨fun h => ?_, fun h hb => ?_, fun h hb hl => ?_, fun h hb => ?_, fun h hb hl hid => ?_,
      fun h hb hl hid hd => ?_, fun h hb hl hid hu hf => ?_⟩⟩
  · refine ⟨_, exec_functionLevelReset s k, ?_⟩
    have hhif := functionReset_hif s k
    refine ⟨?_, ?_, ?_, ?_, ?_, ?_, ?_, ?_, fun e he => ?_, fun hk ha => ?_, fun hk => ?_⟩
    case refine_9 =>
      rw [hhif] at he
      exact flrEnd_spec he
    case refine_10 =>
      rw [hhif]
      simp [hk, ha]
    case refine_11 => exact hk ▸ functionReset_pcieLink (State.tidy_iff_canon.1 ht)
    all_goals rw [hhif]
  · exact (exec_contextRequest_failed s c r hr).trans (congrArg _ (if_pos h))
  · exact (exec_contextRequest_failed s c r hr).trans (congrArg _ (if_neg (by simp [h])))
  · rw [exec_fetch_failed s c n p r hr, h]
  · rw [exec_fetch_failed s c n p r hr, h]
  · exact congrArg _ (if_pos h)
  · exact congrArg _ (if_neg h)
  · exact congrArg _ (if_pos h)
  · exact congrArg _ (if_neg h)
  · obtain ⟨hhif, hmem⟩ := channelFault_hif_mem s n
    have hc : (s.channelFault n).hif.channels.rising := by
      rw [hhif]
      exact (State.tidy_iff_canon.1 ht).hif.channels
    obtain ⟨hup, hm⟩ := dropUp_of_record hc h
    exact ⟨hup, hm.trans hmem⟩
  · exact next_congr (mailboxWrite_of_off h)
  · exact next_congr (mailboxWrite_of_busy h hb)
  · exact next_congr (mailboxWrite_of_bad h hb hl)
  · exact ⟨_, exec_mbReqLen s len frame, mailboxWrite_mbStatus h hb⟩
  · exact next_congr (mailboxWrite_of_idFail h hb hl hid)
  · exact next_congr ((mailboxWrite_of_dropped h hb hl hid hd).trans (mailboxEnd_serving _ _))
  · have hrun := mailboxWrite_of_frame h hb hl hid hu hf
    refine ⟨fun h10 => ?_, fun h10 hs => ?_, fun hs => ?_⟩
    · exact next_congr (hrun.trans (congrArg _ (mailboxFrame_of_sessionless h10)))
    · exact next_congr ((hrun.trans (congrArg _ (mailboxFrame_of_no_sessions h10 hs))).trans (mailboxEnd_serving _ _))
    · obtain ⟨hopen, hproof, hrequest⟩ := mailboxFrame_of_sessions (s := s.serving (s.mailboxArea frame))
        (f := requestIn (s.mailboxArea frame) len) hs
      exact ⟨fun ht => next_congr (hrun.trans (congrArg _ (hopen ht))), fun ht => next_congr (hrun.trans (congrArg _ (hproof ht))),
        fun ht => next_congr (hrun.trans (congrArg _ (hrequest ht)))⟩

end Sys2Proof.Machine
end

section
/-! O18: CLASS and MOVE (R233, R241, R246). `classWrite` and `moveWrite` are said once for each of their answers. -/

open Sys2Proof.Claims

namespace Sys2Proof.Machine

variable {s : State} {m c v e : Nat}

/-- The slice of context `c` may have LC contexts (LC_ALLOWED, R233). -/
def State.lcSlice (s : State) (c : Nat) : Prop := ∃ n, s.sliceOf c = some n ∧ s.reg .lcAllowed n = 1

theorem classWrite_of_forbidden (h : ¬ s.lcSlice c) : State.classWrite c 0 s = .error 0x8012 := by
  unfold State.classWrite
  cases hs : s.sliceOf c with
  | none => rfl
  | some n =>
    have hn : s.reg .lcAllowed n ≠ 1 := fun hn => h ⟨n, hs, hn⟩
    simp [hn]

/-- A class that the context may have is taken as whether the context lives says. -/
theorem classWrite_of_allowed (h : v = 0 → s.lcSlice c) : State.classWrite c v s =
    if (s.ctx c).live then .ok ((s.modWanted c fun w => { w with cls := some v }).tryBoundary c)
    else .ok (s.setReg .ctxClass v c) := by
  unfold State.classWrite
  refine if_neg ?_
  by_cases hv : v = 0
  · obtain ⟨n, hs, hn⟩ := h hv
    simp [hs, hn]
  · simp [hv]

theorem moveWrite_of_absent (he : e ≤ 127) (h : (s.ctx c).live = false) : State.moveWrite c e s = .error 0x8012 := by
  rw [State.moveWrite, if_neg (Nat.not_lt.2 he), if_pos (by simp [h])]

theorem moveWrite_of_unfit (he : e ≤ 127) (hl : (s.ctx c).live = true) (h : s.criterion1 c e = false) :
    State.moveWrite c e s = .error 0x8016 := by
  rw [State.moveWrite, if_neg (Nat.not_lt.2 he), if_neg (by simp [hl]), if_pos (by simp [h])]

theorem moveWrite_of_fit (he : e ≤ 127) (hl : (s.ctx c).live = true) (h : s.criterion1 c e = true) :
    State.moveWrite c e s =
      .ok (((s.modWanted c fun w => { w with engine := some e, spot := none }).tryBoundary c).checkNext c) := by
  rw [State.moveWrite, if_neg (Nat.not_lt.2 he), if_neg (by simp [hl]), if_neg (by simp [h])]

/-- A number that its entry's type holds is written as it is. -/
theorem byte_mod_width {r : Reg} (hr : r.width = 8) (hv : v < 256) : v % 2 ^ r.width = v := by
  rw [hr]
  exact Nat.mod_eq_of_lt hv

theorem exec_setClass (hv : v < 256) : exec (.setClass m v) s =
    .next (s.write m .ctxClass 0 v (State.classWrite (s.selected m .ctx) v)) := by
  have h : exec (.setClass m v) s = .next (s.write m .ctxClass 0 v (State.classWrite (s.selected m .ctx) (v % 256))) := rfl
  rwa [Nat.mod_eq_of_lt hv] at h

theorem exec_move (he : e < 256) : exec (.move m e) s =
    .next (s.write m .ctxMove 0 e (State.moveWrite (s.selected m .ctx) e)) := by
  have h : exec (.move m e) s = .next (s.write m .ctxMove 0 e (State.moveWrite (s.selected m .ctx) (e % 256))) := rfl
  rwa [Nat.mod_eq_of_lt he] at h

/-- CLASS as its rules and `classWrite` answer it. -/
theorem setClass_complete (hw : mayWrite s m .ctxClass) (hc : s.selected m .ctx = c) (hv : v < 256) :
    (1 < v → ignored (.setClass m v) s m .ctxClass 0 0x8010) ∧
    (v = 0 → ¬ s.lcSlice c → ignored (.setClass m v) s m .ctxClass 0 0x8012) ∧
    (v ≤ 1 → (v = 0 → s.lcSlice c) →
      ((s.ctx c).live = false → taken (.setClass m v) s m .ctxClass (s.setReg .ctxClass v c)) ∧
      ((s.ctx c).live = true →
        taken (.setClass m v) s m .ctxClass ((s.modWanted c fun w => { w with cls := some v }).tryBoundary c))) := by
  have hi := hc ▸ exec_setClass (s := s) (m := m) hv
  refine ⟨fun h => ignored_of_write hi hw ?_, fun h0 hno => ignored_of_write hi hw ?_, fun h1 hlc =>
    ⟨fun hl => taken_of_write hi hw ?_, fun hl => taken_of_write hi hw ?_⟩⟩ <;> rw [byte_mod_width rfl hv]
  · exact byRules_of_over (hi := 1) rfl rfl h
  · subst h0
    exact (byRules_of_atMost (hi := 1) rfl rfl rfl (by decide)).trans (classWrite_of_forbidden hno)
  all_goals
    rw [byRules_of_atMost (hi := 1) rfl rfl rfl h1, classWrite_of_allowed hlc, hl]
    rfl

/-- MOVE as its rules and `moveWrite` answer it. -/
theorem move_complete (hw : mayWrite s m .ctxMove) (hc : s.selected m .ctx = c) (he : e < 256) :
    (127 < e → ignored (.move m e) s m .ctxMove 0 0x8010) ∧
    (e ≤ 127 → (s.ctx c).live = false → ignored (.move m e) s m .ctxMove 0 0x8012) ∧
    (e ≤ 127 → (s.ctx c).live = true → s.criterion1 c e = false → ignored (.move m e) s m .ctxMove 0 0x8016) ∧
    (e ≤ 127 → (s.ctx c).live = true → s.criterion1 c e = true →
      taken (.move m e) s m .ctxMove
        (((s.modWanted c fun w => { w with engine := some e, spot := none }).tryBoundary c).checkNext c)) := by
  have hi := hc ▸ exec_move (s := s) (m := m) he
  have hrules (h : e ≤ 127) : s.byRules .ctxMove e (State.moveWrite c e) = State.moveWrite c e s :=
    byRules_of_atMost (hi := 127) rfl rfl rfl h
  refine ⟨fun h => ignored_of_write hi hw ?_, fun h hl => ignored_of_write hi hw ?_,
    fun h hl hfit => ignored_of_write hi hw ?_, fun h hl hfit => taken_of_write hi hw ?_⟩ <;> rw [byte_mod_width rfl he]
  · exact byRules_of_over (hi := 127) rfl rfl h
  · exact (hrules h).trans (moveWrite_of_absent h hl)
  · exact (hrules h).trans (moveWrite_of_unfit h hl hfit)
  · exact (hrules h).trans (moveWrite_of_fit h hl hfit)

/-- Settles O18, by what `classWrite` and `moveWrite` answer. What of a CLASS or a MOVE takes effect at once, and what at the next
boundary, is the model's reading (log entry 34). -/
theorem classAndMoveComplete : Obligations.ClassAndMoveComplete :=
  ⟨fun _ _ _ _ hw hc hv => setClass_complete hw hc hv, fun _ _ _ _ hw hc he => move_complete hw hc he⟩

end Sys2Proof.Machine
end

section
/-! O19: TILTH_COMMIT (R221 to R223, R245). The nine checks stand in a list in rising order, of which `firstReason` finds the first
that fails; what the claim says of the least number that fails is then said of that list. -/

namespace Sys2Proof.Machine

/-! ### The first of a list of reasons -/

/-- The search finds a reason that holds, in a list with rising numbers no later than any other that does. -/
theorem firstReason_of_least {l : List (Nat × Bool)} {r : Nat} (hl : l.Pairwise fun a b => a.1 < b.1) (hr : (r, true) ∈ l)
    (hleast : ∀ q, q < r → (q, true) ∉ l) : firstReason l = some r := by
  induction l with
  | nil => exact absurd hr List.not_mem_nil
  | cons p l ih =>
    obtain ⟨q, b⟩ := p
    obtain ⟨hhead, htail⟩ := List.pairwise_cons.1 hl
    rcases List.mem_cons.1 hr with heq | hmem
    · obtain ⟨rfl, rfl⟩ := Prod.mk.inj heq
      rfl
    · have hb : b = false := by
        cases b with
        | false => rfl
        | true => exact absurd List.mem_cons_self (hleast q (hhead (r, true) hmem))
      rw [hb]
      exact ih htail hmem fun k hk h => hleast k hk (List.mem_cons_of_mem _ h)

theorem firstReason_of_none {l : List (Nat × Bool)} (h : ∀ r, (r, true) ∉ l) : firstReason l = none := by
  induction l with
  | nil => rfl
  | cons p l ih =>
    obtain ⟨q, b⟩ := p
    cases b with
    | true => exact absurd List.mem_cons_self (h q)
    | false => exact ih fun r hr => h r (List.mem_cons_of_mem _ hr)

/-! ### The nine checks (R223) -/

/-- The checks of a commit of value `v`, each with its number and whether it fails. -/
def State.tilthChecks (s : State) (v : Bytes) : List (Nat × Bool) :=
  let es := s.shadowEntries
  [(1, s.tilthFormatBad),
    (2, decide (leAt v 0 4 ≠ (s.reg .tilthEpoch + 1) % 2 ^ 32) || decide (slice v 4 64 ≠ s.shadowDigest)),
    (3, decide (1 < s.tilth.copies.length)), (4, tilthOverlap es), (5, tilthBindingBad es),
    (6, decide ((s.bindTable es).length < (tilthLogicals es).length)),
    (7, decide (((s.withCopy s.newCopy).openRegions s.namedEngine).plan = none)),
    (8, !bandwidthOk s.build.stackMask es s.sealedStackShare s.sealedMeshShare),
    (9, decide (256 * 1000 * s.reg .powerCapW < s.padm256 es))]

theorem tilthReason_eq (s : State) (v : Bytes) : s.tilthReason v = firstReason (s.tilthChecks v) := rfl

theorem tilthChecks_rising (s : State) (v : Bytes) : (s.tilthChecks v).Pairwise fun a b => a.1 < b.1 := by
  simp [State.tilthChecks]

variable {s : State} {v : Bytes}

theorem tilthCommit_of_reason {r : Nat} (h : s.tilthReason v = some r) : State.tilthCommit v s = .error (0x8100 + r) := by
  rw [State.tilthCommit, h]

/-- With no reason, the state whose regions stand open asks for the moves of its plan. -/
theorem tilthCommit_of_none {u : State} (hu : u = (s.withCopy s.newCopy).openRegions s.namedEngine) (h : s.tilthReason v = none) :
    State.tilthCommit v s = .ok (u.askMoves u.displaced u.plan) := by
  rw [State.tilthCommit, h, hu]

/-! ### The further copy (R222) -/

/-- Opening radio regions leaves the tilth tables. -/
theorem openRegions_tilth (s : State) (was : Nat → Bool) : (s.openRegions was).tilth = s.tilth := by
  unfold State.openRegions
  refine (foldl_keeps (m := State.tilth) (fun q d => ?_) _ _).trans (foldl_keeps (m := State.tilth) (fun q e => ?_) _ _)
  all_goals
    dsimp only
    split <;> rfl

theorem withCopy_copies (s : State) (c : TilthCopy) : ∃ old, (s.withCopy c).tilth.copies = old ++ [c] := ⟨_, rfl⟩

theorem newCopy_entries (s : State) : s.newCopy.entries = s.shadowEntries := by simp only [State.newCopy]

/-- Settles O19: the least check that fails is the first of the list that does, and where none fails the shadow's copy is the last. -/
theorem tilthCommitNamesTheFirstFault : Obligations.TilthCommitNamesTheFirstFault := by
  unfold Obligations.TilthCommitNamesTheFirstFault
  intro s v es u fails
  have hfails (r : Nat) : fails r ↔ (r, true) ∈ s.tilthChecks v := by
    simp only [fails, State.tilthChecks, List.mem_cons, Prod.mk.injEq, List.not_mem_nil, or_false, eq_comm (a := true),
      Bool.or_eq_true, decide_eq_true_eq, Bool.not_eq_true', es, u]
  have hu : u = (s.withCopy s.newCopy).openRegions s.namedEngine := rfl
  clear_value u
  refine ⟨fun r hr hleast => tilthCommit_of_reason ?_, fun hnone => ⟨tilthCommit_of_none hu ?_, ?_, rfl, newCopy_entries s⟩⟩
  · rw [tilthReason_eq]
    exact firstReason_of_least (tilthChecks_rising s v) ((hfails r).1 hr) fun q hq h => hleast q hq ((hfails q).2 h)
  · rw [tilthReason_eq]
    exact firstReason_of_none fun r h => hnone r ((hfails r).2 h)
  · obtain ⟨old, hold⟩ := withCopy_copies s s.newCopy
    exact ⟨old, hu ▸ (congrArg Tilth.copies (openRegions_tilth _ _)).trans hold⟩

end Sys2Proof.Machine
end

section
/-! What a change leaves as it was that writes single registers, the fault log and the power controller's own state alone
(R466 to R468, R509 to R518): `Keeps ws` says it of the registers `ws`, and each operation of the power controller is said
once in these words. -/

namespace Sys2Proof.Machine

/-- From `s` to `t` the memories, the contexts and the octet entries stay, and no register changes but entry 0 of
the families in `ws`. -/
structure Keeps (ws : List Reg) (s t : State) : Prop where
  reg : ∀ r i, (∀ w ∈ ws, w.key 0 ≠ r.key i) → t.reg r i = s.reg r i
  oct : ∀ r i, t.oct r i = s.oct r i
  mem : t.mem = s.mem
  ctxs : t.ctxs = s.ctxs

/-- The registers that a fault record counts in (R467, R468). -/
def faultRegs : List Reg := [.faultLogIndex, .reportDuplicates, .reportsSuppressed]

namespace Keeps

variable {ws : List Reg} {s t u : State} {r : Reg}

theorem refl (ws : List Reg) (s : State) : Keeps ws s s := ⟨fun _ _ _ => rfl, fun _ _ => rfl, rfl, rfl⟩

theorem trans (h : Keeps ws s t) (k : Keeps ws t u) : Keeps ws s u :=
  ⟨fun r i hw => (k.reg r i hw).trans (h.reg r i hw), fun r i => (k.oct r i).trans (h.oct r i), k.mem.trans h.mem,
    k.ctxs.trans h.ctxs⟩

theorem ite {c : Prop} [Decidable c] (ht : Keeps ws s t) (hu : Keeps ws s u) : Keeps ws s (if c then t else u) := by
  split
  · exact ht
  · exact hu

theorem setReg (h : r ∈ ws) (s : State) (v : Nat) : Keeps ws s (s.setReg r v) := by
  refine ⟨fun q i hw => State.reg_setReg_other _ _ (hw r h), fun q i => ?_, State.setReg_mem .., State.setReg_ctxs ..⟩
  unfold State.setReg State.oct
  cases r.access <;> rfl

theorem setRegI (h : r ∈ ws) (s : State) (v : Int) : Keeps ws s (s.setRegI r v) := setReg h s _

theorem bump (h : r ∈ ws) (s : State) : Keeps ws s (s.bump r) := setReg h s _

/-- The power controller's state, the fault log, the engines and the count of free values hold none of it. -/
theorem withRest (ws : List Reg) (s : State) (p : Power) (f : Faults) (e : Tab Engine) (n : Nat) :
    Keeps ws s { s with power := p, faults := f, engines := e, free := n } := ⟨fun _ _ _ => rfl, fun _ _ => rfl, rfl, rfl⟩

theorem foldReport (h : faultRegs ⊆ ws) (s : State) (f : FaultRec) : Keeps ws s (s.foldReport f) := by
  unfold State.foldReport
  dsimp only
  split
  · exact (withRest ws s _ _ _ _).trans (bump (h (by decide)) _)
  · exact ite (withRest ws s _ _ _ _) (bump (h (by decide)) _)

theorem fault (h : faultRegs ⊆ ws) (s : State) (code severity kind unit context data : Nat) :
    Keeps ws s (s.fault code severity kind unit context data) := by
  unfold State.fault State.raise
  exact ((withRest ws s _ _ _ _).trans (setReg (h (by decide)) _ _)).trans (foldReport h _ _)

theorem regI (h : Keeps ws s t) (hr : ∀ w ∈ ws, w.key 0 ≠ r.key 0) : t.regI r = s.regI r :=
  congrArg (toSigned r.width) (h.reg r 0 hr)

end Keeps

/-- A fault record leaves the power controller. -/
@[simp] theorem fault_power (s : State) (code severity kind unit context data : Nat) :
    (s.fault code severity kind unit context data).power = s.power := by
  unfold State.fault State.raise State.foldReport
  dsimp only
  split
  · simp
  · split <;> simp

end Sys2Proof.Machine
end

section
/-! O49: the power controller, its sensors and rails (R226, R507 to R518, R533). A command that works in stages is written as its
stages, each said once: what it makes of the controller's state, and which registers it writes. -/

open Sys2Proof.Claims

namespace Sys2Proof.Machine

variable {s : State}

/-! ### Temperature limits (R515, R517) -/

/-- The reading of the hottest sensor is taken. -/
def State.reading (s : State) (hottest : Int) : State :=
  let s := s.setRegI .tjHottest hottest
  { s with power := { s.power with hottest := hottest } }

/-- The thermal target starts where the hottest die is at TJ_THROTTLE. -/
def State.thermalStart (s : State) (die : Int) : State :=
  if s.power.thermal = none ∧ s.regI .tjThrottle ≤ die then
    ({ s with power := { s.power with thermal := some (s.power.est - s.power.est / 50) } }).fault 0x0710 0 0 0 0xFFFF
      (ofSigned 16 die)
  else s

/-- Stage 4 is held from TJ_CRIT on, until 5 °C below. -/
def State.critHold (s : State) (die : Int) : State :=
  if s.regI .tjCrit ≤ die then
    if s.power.crit then s
    else ({ s with power := { s.power with crit := true } }).fault 0x0711 0 0 0 0xFFFF (ofSigned 16 die)
  else if die < s.regI .tjCrit - 80 then { s with power := { s.power with crit := false } }
  else s

theorem sensed_eq (s : State) (h : Int) :
    s.sensed h = ((s.reading h).thermalStart ((s.reading h).hottestDie h)).critHold ((s.reading h).hottestDie h) := rfl

/-- The registers that a reading writes. -/
def sensorRegs : List Reg := .tjHottest :: faultRegs

section
variable {ws : List Reg} {t : State} {x : Int}

theorem Keeps.reading (hw : .tjHottest ∈ ws) (s : State) (h : Int) : Keeps ws s (s.reading h) :=
  (Keeps.setRegI hw s h).trans (.withRest ws _ _ _ _ _)

theorem Keeps.thermalStart (hw : faultRegs ⊆ ws) (s : State) (die : Int) : Keeps ws s (s.thermalStart die) :=
  .ite ((Keeps.withRest ws s _ _ _ _).trans (.fault hw _ _ _ _ _ _ _)) (.refl ws s)

theorem Keeps.critHold (hw : faultRegs ⊆ ws) (s : State) (die : Int) : Keeps ws s (s.critHold die) :=
  .ite (.ite (.refl ws s) ((Keeps.withRest ws s _ _ _ _).trans (.fault hw _ _ _ _ _ _ _)))
    (.ite (.withRest ws s _ _ _ _) (.refl ws s))

theorem Keeps.sensed (hw : sensorRegs ⊆ ws) (s : State) (h : Int) : Keeps ws s (s.sensed h) := by
  have hf : faultRegs ⊆ ws := fun r hr => hw (List.mem_cons_of_mem _ hr)
  rw [sensed_eq]
  exact ((Keeps.reading (hw List.mem_cons_self) s h).trans (.thermalStart hf _ _)).trans (.critHold hf _ _)

/-- The hottest die depends on SENSOR_INVALID_MASK and TJ_CRIT alone. -/
theorem Keeps.hottestDie (h : Keeps ws s t) (hr : ∀ w ∈ ws, w.key 0 ≠ Reg.key .tjCrit 0) : t.hottestDie x = s.hottestDie x := by
  have hblind : t.blindDie = s.blindDie := by simp only [State.blindDie, h.oct]
  rw [State.hottestDie, State.hottestDie, hblind, h.regI hr]

end

theorem thermalStart_power (s : State) (die : Int) : (s.thermalStart die).power = { s.power with
    thermal := if s.power.thermal = none ∧ s.regI .tjThrottle ≤ die then some (s.power.est - s.power.est / 50)
      else s.power.thermal } := by
  unfold State.thermalStart
  split_ifs <;> simp

theorem critHold_power (s : State) (die : Int) : (s.critHold die).power = { s.power with
    crit := if s.regI .tjCrit ≤ die then true else if die < s.regI .tjCrit - 80 then false else s.power.crit } := by
  unfold State.critHold
  split_ifs with hcrit hheld
  · rw [← hheld]
  · simp
  · rfl
  · rfl

/-- What a reading makes of the controller: the hottest sensor, the thermal target and the hold at TJ_CRIT. -/
theorem sensed_power (s : State) (h : Int) : (s.sensed h).power = { s.power with
    hottest := h
    thermal := if s.power.thermal = none ∧ s.regI .tjThrottle ≤ s.hottestDie h then some (s.power.est - s.power.est / 50)
      else s.power.thermal
    crit := if s.regI .tjCrit ≤ s.hottestDie h then true
      else if s.hottestDie h < s.regI .tjCrit - 80 then false else s.power.crit } := by
  have hread : Keeps sensorRegs s (s.reading h) := .reading (by decide) s h
  have hstart (die : Int) : Keeps sensorRegs s ((s.reading h).thermalStart die) := hread.trans (.thermalStart (by decide) _ die)
  have hdie : (s.reading h).hottestDie h = s.hottestDie h := hread.hottestDie (by decide)
  have hpower : (s.reading h).power = { s.power with hottest := h } := by
    simp [State.reading, State.setRegI]
  rw [sensed_eq, critHold_power, thermalStart_power, hdie, hread.regI (by decide), (hstart _).regI (by decide), hpower]

/-- The limits of temperature, as the claim says them. -/
theorem sensed_limits (s : State) (h : Int) : let die := s.hottestDie h
    (s.blindDie = true → die = max h (s.regI .tjCrit)) ∧ (s.blindDie = false → die = h) ∧
    (s.power.thermal = none → s.regI .tjThrottle ≤ die → (s.sensed h).power.thermal = some (s.power.est - s.power.est / 50)) ∧
    (¬ (s.power.thermal = none ∧ s.regI .tjThrottle ≤ die) → (s.sensed h).power.thermal = s.power.thermal) ∧
    (s.regI .tjCrit ≤ die → (s.sensed h).power.crit = true) ∧
    (die < s.regI .tjCrit - 80 → (s.sensed h).power.crit = false) ∧
    (die < s.regI .tjCrit → s.regI .tjCrit - 80 ≤ die → (s.sensed h).power.crit = s.power.crit) := by
  intro die
  rw [sensed_power]
  refine ⟨fun hb => if_pos hb, fun hb => if_neg (by simp [hb]), fun hn ht => if_pos ⟨hn, ht⟩, fun hn => if_neg hn,
    fun hc => if_pos hc, fun hc => ?_, fun hc hc' => ?_⟩
  · exact (if_neg (by omega)).trans (if_pos hc)
  · exact (if_neg (by omega)).trans (if_neg (by omega))

/-! ### The burst bank and the excursion (R510, R512, R514) -/

/-- The check takes a free value where the model gives none, and changes nothing else. -/
theorem burstPasses_snd (s : State) : ∃ n, s.burstPasses.2 = { s with free := n } := by
  unfold State.burstPasses
  split
  · exact ⟨s.free, rfl⟩
  · exact ⟨_, rfl⟩

/-- An excursion under way goes on, or ends with its bank, its time, its check or its need. -/
theorem burstStep_of_bursting {n : Nat} (h : s.power.bursting = some n) (est : Nat) : ∃ k, s.burstStep est =
    { s with
      free := k
      power := { s.power with
        bursting := if s.power.bank ≠ 0 ∧ n + 1 < 1000 * s.reg .burstMaxMs ∧ s.burstPasses.1 = true ∧
          1000 * s.reg .powerCapW < est then some (n + 1) else none } } := by
  obtain ⟨k, hk⟩ := burstPasses_snd s
  refine ⟨k, ?_⟩
  unfold State.burstStep
  rw [h]
  generalize s.burstPasses = p at hk ⊢
  obtain ⟨ok, t⟩ := p
  subst hk
  dsimp only
  have hreg (r : Reg) : ({ s with free := k } : State).reg r = s.reg r := rfl
  rw [hreg]
  congr 2
  cases ok <;> grind

/-- At rest an excursion begins with a bank, an estimate over the cap and a check that passes. -/
theorem burstStep_of_rest (h : s.power.bursting = none) (est : Nat) : ∃ k, s.burstStep est =
    { s with
      free := k
      power := { s.power with
        bursting := if s.power.bank ≠ 0 ∧ 1000 * s.reg .powerCapW < est ∧ s.burstPasses.1 = true then some 0 else none } } := by
  obtain ⟨k, hk⟩ := burstPasses_snd s
  have hsame : s = { s with power := { s.power with bursting := none } } := by rw [← h]
  unfold State.burstStep
  rw [h]
  dsimp only
  split
  next hno =>
    refine ⟨s.free, ?_⟩
    rw [if_neg (by omega)]
    exact hsame
  next hgo =>
    refine ⟨k, ?_⟩
    generalize s.burstPasses = p at hk ⊢
    obtain ⟨ok, t⟩ := p
    subst hk
    have hbank : s.power.bank ≠ 0 ∧ 1000 * s.reg .powerCapW < est := by omega
    cases ok with
    | true => simp [hbank]
    | false =>
      simp only [Bool.false_eq_true, and_false, if_false]
      exact congrArg (fun u : State => { u with free := k }) hsame

/-- An excursion's step changes the excursion, and takes free values. -/
theorem burstStep_eq (s : State) (est : Nat) :
    ∃ k b, s.burstStep est = { s with free := k, power := { s.power with bursting := b } } := by
  cases h : s.power.bursting with
  | none =>
    obtain ⟨k, hk⟩ := burstStep_of_rest h est
    exact ⟨k, _, hk⟩
  | some n =>
    obtain ⟨k, hk⟩ := burstStep_of_bursting h est
    exact ⟨k, _, hk⟩

theorem burstStep_begins (h : s.power.bursting = none) (est : Nat) : (s.burstStep est).power.bursting = some 0 ↔
    s.power.bank ≠ 0 ∧ 1000 * s.reg .powerCapW < est ∧ s.burstPasses.1 = true := by
  obtain ⟨k, hk⟩ := burstStep_of_rest h est
  rw [hk]
  simp

theorem burstStep_goes_on {n : Nat} (h : s.power.bursting = some n) (est : Nat) :
    (s.burstStep est).power.bursting = some (n + 1) ↔ s.power.bank ≠ 0 ∧ n + 1 < 1000 * s.reg .burstMaxMs ∧
      s.burstPasses.1 = true ∧ 1000 * s.reg .powerCapW < est := by
  obtain ⟨k, hk⟩ := burstStep_of_bursting h est
  rw [hk]
  simp

section
variable {ws : List Reg} {t : State}

theorem Keeps.burstStep (ws : List Reg) (s : State) (est : Nat) : Keeps ws s (s.burstStep est) := by
  obtain ⟨k, b, h⟩ := burstStep_eq s est
  rw [h]
  exact .withRest ws s _ _ _ _

/-- The size of the bank depends on BURST_W, POWER_CAP_W and BURST_MAX_MS alone. -/
theorem Keeps.bankMax (h : Keeps ws s t)
    (hr : ∀ r ∈ [Reg.burstW, .powerCapW, .burstMaxMs], ∀ w ∈ ws, w.key 0 ≠ r.key 0) : t.bankMax = s.bankMax := by
  unfold State.bankMax
  rw [h.reg _ 0 (hr .burstW (by decide)), h.reg _ 0 (hr .powerCapW (by decide)), h.reg _ 0 (hr .burstMaxMs (by decide))]

/-! ### The control period (R509 to R511, R533) -/

/-- The registers that a step of the throttle shows. -/
def throttleRegs : List Reg := [.throttleStage, .beIdleAk, .lcIdleAk, .schedGates]

theorem Keeps.setStep (hw : throttleRegs ⊆ ws) (s : State) (k : Nat) : Keeps ws s (s.setStep k) := by
  have h1 := Keeps.setReg (hw (show .throttleStage ∈ throttleRegs by decide)) s (throttleOf k).stage
  have h2 := h1.trans (.setReg (hw (show .beIdleAk ∈ throttleRegs by decide)) _ (throttleOf k).beIdle)
  have h3 := h2.trans (.setReg (hw (show .lcIdleAk ∈ throttleRegs by decide)) _ (throttleOf k).lcIdle)
  have h4 := h3.trans (.setReg (hw (show .schedGates ∈ throttleRegs by decide)) _ (throttleOf k).gates)
  exact h4.trans (.withRest ws _ _ _ _ _)

theorem Keeps.sumPower (hw : .powerEstW ∈ ws) (s : State) (est : Nat) : Keeps ws s (s.sumPower est) :=
  .ite (.withRest ws s _ _ _ _) ((Keeps.withRest ws s _ _ _ _).trans (.setReg hw _ _))

end

theorem setStep_power (s : State) (k : Nat) : (s.setStep k).power = s.power := by
  have h : (s.setStep k).power = (s.showThrottle (throttleOf k)).power := rfl
  rw [h]
  simp [State.showThrottle]

theorem sumPower_est (s : State) (est : Nat) : (s.sumPower est).power.est = est := by
  unfold State.sumPower
  dsimp only
  split
  · rfl
  · rw [State.setReg_power]

/-- A control period up to its bank: the estimate, the hottest reading, and the bank's step. -/
def State.periodBank (s : State) (x : PowerSample) : State :=
  let est := s.estimate x.otherMw s.enginesNow
  let u := (s.sumPower est).sensed x.hottest
  { u with power := { u.power with bank := u.bankStep est } }

/-- A control period up to its step: the excursion, and the step for the target. -/
def State.periodStep (s : State) (x : PowerSample) : State :=
  let w := (s.periodBank x).burstStep (s.estimate x.otherMw s.enginesNow)
  let k := if w.heldAt4 then 66 else w.chooseStep x.otherMw w.powerTarget
  w.setStep (if w.reg .handoverStatus = 1 then max k w.throttleNow else k)

theorem controlPeriod_eq (s : State) (x : PowerSample) : s.controlPeriod x =
    if (s.periodStep x).reg .throttleStage = 0 then s.periodStep x else (s.periodStep x).bump .throttledUs := by
  have h : s.controlPeriod x = (s.periodStep x).bumpIf ((s.periodStep x).reg .throttleStage ≠ 0) .throttledUs := rfl
  rw [h, State.bumpIf]
  split_ifs <;> simp_all

/-- The registers that a control period writes. -/
def periodRegs : List Reg := .throttledUs :: .powerEstW :: throttleRegs ++ sensorRegs

theorem periodBank_keeps (s : State) (x : PowerSample) : Keeps periodRegs s (s.periodBank x) :=
  ((Keeps.sumPower (by decide) s _).trans (.sensed (by decide) _ x.hottest)).trans (.withRest _ _ _ _ _ _)

theorem periodBank_power (s : State) (x : PowerSample) :
    let est := s.estimate x.otherMw s.enginesNow
    (s.periodBank x).power = { ((s.sumPower est).sensed x.hottest).power with
      bank := ((s.sumPower est).sensed x.hottest).bankStep est } := rfl

theorem controlPeriod_keeps (s : State) (x : PowerSample) : Keeps periodRegs s (s.controlPeriod x) := by
  have hstep : Keeps periodRegs s (s.periodStep x) :=
    ((periodBank_keeps s x).trans (.burstStep _ _ _)).trans (.setStep (by decide) _ _)
  rw [controlPeriod_eq]
  exact .ite hstep (hstep.trans (.bump (by decide) _))

theorem controlPeriod_power (s : State) (x : PowerSample) :
    ∃ b, (s.controlPeriod x).power = { (s.periodBank x).power with bursting := b } := by
  obtain ⟨k, b, h⟩ := burstStep_eq (s.periodBank x) (s.estimate x.otherMw s.enginesNow)
  have hstep : (s.periodStep x).power = { (s.periodBank x).power with bursting := b } := by
    unfold State.periodStep
    rw [setStep_power, h]
  refine ⟨b, ?_⟩
  rw [controlPeriod_eq]
  split
  · exact hstep
  · exact (State.bump_power ..).trans hstep

theorem controlPeriod_effect (s : State) (x : PowerSample) :
    (s.controlPeriod x).power.est = s.estimate x.otherMw s.enginesNow ∧ (s.controlPeriod x).power.hottest = x.hottest ∧
    (s.controlPeriod x).mem = s.mem ∧ (s.controlPeriod x).ctxs = s.ctxs ∧ (s.controlPeriod x).power.bank ≤ s.bankMax := by
  have hkeeps := controlPeriod_keeps s x
  obtain ⟨b, hb⟩ := controlPeriod_power s x
  have hsum : Keeps periodRegs s ((s.sumPower (s.estimate x.otherMw s.enginesNow)).sensed x.hottest) :=
    (Keeps.sumPower (by decide) s _).trans (.sensed (by decide) _ _)
  rw [hb, periodBank_power, sensed_power]
  exact ⟨sumPower_est _ _, rfl, hkeeps.mem, hkeeps.ctxs, (Nat.min_le_left _ _).trans_eq (hsum.bankMax (by decide))⟩

/-! ### Rails read by PMBus (R507, R533) -/

section
variable {x : RailSample}

theorem exec_pmbAlert_of_handover (hh : s.reg .handoverStatus = 1) (hx : x.rail < 26) :
    exec (.pmbAlert x) s = .next ((s.railCondition x.rail (.overcurrent x.ma)).readRail x) :=
  congrArg Host.Outcome.next (if_pos ⟨hh, hx⟩)

theorem exec_pmbAlert (h : s.reg .handoverStatus ≠ 1 ∨ 26 ≤ x.rail) : exec (.pmbAlert x) s = .next (s.readRail x) :=
  congrArg Host.Outcome.next (if_neg fun hn => h.elim (· hn.1) (Nat.not_le.2 hn.2))

theorem readRail_of_unmapped (h : s.railMapped x.rail = false ∨ 26 ≤ x.rail) : s.readRail x = s :=
  if_pos (by rcases h with h | h <;> simp [h]; omega)

/-- The count of readings of a rail without an answer, in a row. -/
def State.withFails (s : State) (r k : Nat) : State := { s with power := { s.power with fails := s.power.fails.set 0 r k } }

theorem readRail_of_mapped (hm : s.railMapped x.rail = true) (hx : x.rail < 26) : s.readRail x =
    if x.answered then
      (((s.withFails x.rail 0).setReg .railMv x.mv x.rail).setReg .railMa x.ma x.rail).setReg .railStatus x.status x.rail
    else if s.power.fails.get 0 x.rail + 1 < 3 then s.withFails x.rail ((s.power.fails.get 0 x.rail + 1) % 3)
    else (((s.withFails x.rail ((s.power.fails.get 0 x.rail + 1) % 3)).bump .pmbusErrors).fault 0x0705 0 (railUnit x.rail).1
      (railUnit x.rail).2 0xFFFF x.rail).railOut x.rail :=
  if_neg (by simp [hm]; omega)

theorem readRail_of_answer (hm : s.railMapped x.rail = true) (hx : x.rail < 26) (ha : x.answered = true) : s.readRail x =
    (((s.withFails x.rail 0).setReg .railMv x.mv x.rail).setReg .railMa x.ma x.rail).setReg .railStatus x.status x.rail :=
  (readRail_of_mapped hm hx).trans (if_pos ha)

theorem readRail_of_silence (hm : s.railMapped x.rail = true) (hx : x.rail < 26) (ha : x.answered = false)
    (hf : s.power.fails.get 0 x.rail + 1 < 3) : s.readRail x = s.withFails x.rail (s.power.fails.get 0 x.rail + 1) := by
  rw [readRail_of_mapped hm hx, if_neg (by simp [ha]), if_pos hf, Nat.mod_eq_of_lt hf]

theorem readRail_of_third (hm : s.railMapped x.rail = true) (hx : x.rail < 26) (ha : x.answered = false)
    (hf : s.power.fails.get 0 x.rail = 2) : s.readRail x = (((s.withFails x.rail 0).bump .pmbusErrors).fault 0x0705 0
      (railUnit x.rail).1 (railUnit x.rail).2 0xFFFF x.rail).railOut x.rail := by
  rw [readRail_of_mapped hm hx, if_neg (by simp [ha]), hf]
  rfl

end

end Sys2Proof.Machine
end

section
/-! O49, continued: the coolant and the core rails (R508, R513 to R516), rails out of range (R518), the sensors (R517), and
POWER_CAP_W (R226, R510). -/

open Sys2Proof.Claims

namespace Sys2Proof.Machine

variable {s : State}

/-! ### THERMAL_UPDATE (R513 to R516) -/

section
variable {x : ThermalSample} {ws : List Reg} {t u : State}

/-- The coolant's temperatures and flow are taken. -/
def State.inlet (s : State) (x : ThermalSample) : State :=
  ((s.setRegI .coolantIn x.coolantIn).setRegI .coolantOut x.coolantOut).setReg .flowMlpm x.flowMlpm

/-- An inlet that has become too hot is reported. -/
def State.inletReport (s : State) (x : ThermalSample) (hot : Bool) : State :=
  if hot && !s.power.inletHot then s.fault 0x0714 0 0 0 0xFFFF (ofSigned 16 x.coolantIn) else s

/-- The plate temperature of the model's step, corrected toward the measured one; none where the model gives none. -/
def State.plateNext (s : State) (x : ThermalSample) : Option Rat :=
  let w := (s.power.est : Rat) / 1000
  match s.plateStep w s.power.plate, s.rJpRat with
  | some t, some r => some (t + (degrees x.hottest - w * r - t) / 16)
  | _, _ => none

/-- The plate temperature moves, and is shown. -/
def State.plateMoved (s : State) (x : ThermalSample) : State :=
  let s := match s.plateNext x with
    | some t => { s with power := { s.power with plate := t } }
    | none => { s with power := { s.power with plate := degrees (toSigned 16 (Config.measured s.free)) }, free := s.free + 1 }
  s.setRegI .plateEst (s.power.plate * 16).floor

/-- Milliseconds in a row with enough flow, while stage 4 is held for it. -/
def State.flowMs (s : State) (x : ThermalSample) : Nat :=
  if s.power.flowOut && decide (s.reg .flowMinMlpm < x.flowMlpm) then s.power.flowOkMs + 1 else 0

/-- The hold for the flow, and the count of milliseconds without enough. -/
def State.flowHeld (s : State) (x : ThermalSample) (hot : Bool) : State :=
  { s with power := { s.power with
    inletHot := hot
    flowLowMs := if x.flowMlpm < s.reg .flowMinMlpm then s.power.flowLowMs + 1 else 0
    flowOkMs := if 1000 ≤ s.flowMs x then 0 else s.flowMs x
    flowOut := s.power.flowOut && decide (s.flowMs x < 1000) } }

/-- Where a thermal target `a` moves to: down by 2 % of P_est, up by 1 % of the cap, or nowhere. -/
def State.movedTarget (s : State) (hottest : Int) (a : Nat) : Nat :=
  if s.regI .tjThrottle ≤ s.hottestDie hottest then a - s.power.est / 50
  else if s.hottestDie hottest < s.regI .tjThrottle - 32 then a + 1000 * s.reg .powerCapW / 100 else a

/-- The thermal target moves, and ends above the cap. -/
def State.targetMoved (s : State) (x : ThermalSample) : State :=
  match s.power.thermal with
  | some a => { s with power := { s.power with
      thermal := if 1000 * s.reg .powerCapW < s.movedTarget x.hottest a then none else some (s.movedTarget x.hottest a) } }
  | none => s

/-- THERMAL_UPDATE up to the flow's hold. -/
def State.coolantTaken (s : State) (x : ThermalSample) : State :=
  let u := s.inlet x
  let hot := decide (u.regI .coolantInMax < x.coolantIn)
  ((u.inletReport x hot).plateMoved x).flowHeld x hot

/-- The stages put together are THERMAL_UPDATE. The thermal model's two values are made variables first: the stages only pass them
on, and no step of the comparison may start to compute them. -/
theorem thermalUpdate_eq (s : State) (x : ThermalSample) :
    s.thermalUpdate x = ((s.coolantTaken x).targetMoved x).sensed x.hottest := by
  unfold State.thermalUpdate State.targetMoved State.coolantTaken State.plateMoved State.plateNext
  generalize State.plateStep = plateStep
  generalize State.rJpRat = rJp
  rfl

/-- The registers that show the coolant, and all that THERMAL_UPDATE writes. -/
def coolantRegs : List Reg := [.coolantIn, .coolantOut, .flowMlpm]
def plateRegs : List Reg := .plateEst :: sensorRegs

theorem Keeps.inlet (hw : coolantRegs ⊆ ws) (s : State) (x : ThermalSample) : Keeps ws s (s.inlet x) :=
  ((Keeps.setRegI (hw (by decide)) s _).trans (.setRegI (hw (by decide)) _ _)).trans (.setReg (hw (by decide)) _ _)

theorem Keeps.inletReport (hw : faultRegs ⊆ ws) (s : State) (x : ThermalSample) (hot : Bool) :
    Keeps ws s (s.inletReport x hot) := .ite (.fault hw ..) (.refl ws s)

theorem Keeps.plateMoved (hw : .plateEst ∈ ws) (s : State) (x : ThermalSample) : Keeps ws s (s.plateMoved x) := by
  unfold State.plateMoved
  split
  · exact (Keeps.withRest ws s _ _ _ _).trans (.setRegI hw _ _)
  · exact (Keeps.withRest ws s _ _ _ _).trans (.setRegI hw _ _)

theorem Keeps.targetMoved (ws : List Reg) (s : State) (x : ThermalSample) : Keeps ws s (s.targetMoved x) := by
  unfold State.targetMoved
  split
  · exact .withRest ws s _ _ _ _
  · exact .refl ws s

theorem Keeps.coolantTaken (hw : plateRegs ⊆ ws) (s : State) (x : ThermalSample) : Keeps ws (s.inlet x) (s.coolantTaken x) := by
  have hf : faultRegs ⊆ ws := fun r hr => hw (List.mem_cons_of_mem _ (List.mem_cons_of_mem _ hr))
  exact ((Keeps.inletReport hf _ x _).trans (.plateMoved (hw List.mem_cons_self) _ x)).trans (.withRest ws _ _ _ _ _)

/-- What the coolant's part of THERMAL_UPDATE leaves of the state before. -/
theorem coolantTaken_keeps (s : State) (x : ThermalSample) : Keeps (coolantRegs ++ plateRegs) s (s.coolantTaken x) :=
  (Keeps.inlet (by decide) s x).trans (.coolantTaken (by decide) s x)

theorem Keeps.thermalUpdate (hw : plateRegs ⊆ ws) (s : State) (x : ThermalSample) : Keeps ws (s.inlet x) (s.thermalUpdate x) :=
  ((Keeps.coolantTaken hw s x).trans (.targetMoved ws _ x)).trans (.sensed (fun _ hr => hw (List.mem_cons_of_mem _ hr)) _ _)

/-- The registers that the thermal model reads. -/
def modelRegs : List Reg := [.flowMlpm, .coolantHeatCapJkl, .rPcRef, .flowRefMlpm, .plateCJk, .coolantIn, .rJp]

/-- The model's step depends on its registers and the controller's state alone. -/
theorem Keeps.plateNext (h : Keeps ws s t) (hp : t.power = s.power) (hr : ∀ r ∈ modelRegs, ∀ w ∈ ws, w.key 0 ≠ r.key 0) :
    t.plateNext x = s.plateNext x := by
  have hreg (r : Reg) (hm : r ∈ modelRegs) : t.reg r = s.reg r := h.reg r 0 (hr r hm)
  simp only [State.plateNext, State.plateStep, State.rPcRat, State.rJpRat, hp, hreg .flowMlpm (by decide),
    hreg .coolantHeatCapJkl (by decide), hreg .rPcRef (by decide), hreg .flowRefMlpm (by decide),
    hreg .plateCJk (by decide), hreg .rJp (by decide), h.regI (hr .coolantIn (by decide))]

theorem inlet_power (s : State) (x : ThermalSample) : (s.inlet x).power = s.power := by
  simp [State.inlet, State.setRegI]

theorem inletReport_power (s : State) (x : ThermalSample) (hot : Bool) : (s.inletReport x hot).power = s.power := by
  unfold State.inletReport
  split
  · exact fault_power ..
  · rfl

/-- The plate's temperature is the model's, where the model gives one. -/
theorem plateMoved_power (s : State) (x : ThermalSample) :
    ∃ plate, (s.plateMoved x).power = { s.power with plate := plate } ∧ ∀ p, s.plateNext x = some p → plate = p := by
  unfold State.plateMoved State.setRegI
  rw [State.setReg_power]
  cases s.plateNext x with
  | some t => exact ⟨t, rfl, fun p hp => Option.some.inj hp⟩
  | none => exact ⟨_, rfl, fun p hp => nomatch hp⟩

theorem targetMoved_power (s : State) (x : ThermalSample) : (s.targetMoved x).power = { s.power with
    thermal := s.power.thermal.bind fun a =>
      if 1000 * s.reg .powerCapW < s.movedTarget x.hottest a then none else some (s.movedTarget x.hottest a) } := by
  unfold State.targetMoved
  cases h : s.power.thermal with
  | none => exact congrArg (fun y => { s.power with thermal := y }) h
  | some a => rfl

/-- What THERMAL_UPDATE makes of the controller before its target moves. -/
theorem coolantTaken_power (s : State) (x : ThermalSample) : ∃ plate hot, (s.coolantTaken x).power = { s.power with
      plate := plate
      inletHot := hot
      flowLowMs := if x.flowMlpm < s.reg .flowMinMlpm then s.power.flowLowMs + 1 else 0
      flowOkMs := if 1000 ≤ s.flowMs x then 0 else s.flowMs x
      flowOut := s.power.flowOut && decide (s.flowMs x < 1000) } ∧
    ∀ p, (s.inlet x).plateNext x = some p → plate = p := by
  have hmin : ∀ w ∈ coolantRegs ++ plateRegs, w.key 0 ≠ Reg.key .flowMinMlpm 0 := by decide
  generalize hhot : decide ((s.inlet x).regI .coolantInMax < x.coolantIn) = hot
  have hin : Keeps (coolantRegs ++ plateRegs) s (s.inlet x) := .inlet (by decide) s x
  have hreport : Keeps faultRegs (s.inlet x) ((s.inlet x).inletReport x hot) := .inletReport (List.Subset.refl _) _ x hot
  have hpower : ((s.inlet x).inletReport x hot).power = s.power := (inletReport_power _ x hot).trans (inlet_power s x)
  have hnext := hreport.plateNext (x := x) (inletReport_power _ x hot) (by decide)
  obtain ⟨plate, hmoved, hplate⟩ := plateMoved_power ((s.inlet x).inletReport x hot) x
  rw [hpower] at hmoved
  rw [hnext] at hplate
  have hflow := ((hin.trans (.inletReport (by decide) _ x hot)).trans (.plateMoved (by decide) _ x)).reg .flowMinMlpm 0 hmin
  have htaken : s.coolantTaken x = (((s.inlet x).inletReport x hot).plateMoved x).flowHeld x hot := by rw [← hhot]; rfl
  refine ⟨plate, hot, ?_, hplate⟩
  rw [htaken]
  unfold State.flowHeld State.flowMs
  rw [hmoved, hflow]

/-- The flow hold ends with its thousandth millisecond of flow in a row. -/
theorem flowMs_ends (h : s.power.flowOut = true) : (s.power.flowOut && decide (s.flowMs x < 1000)) = false ↔
    s.reg .flowMinMlpm < x.flowMlpm ∧ 1000 ≤ s.power.flowOkMs + 1 := by
  unfold State.flowMs
  rw [h]
  by_cases hf : s.reg .flowMinMlpm < x.flowMlpm <;> simp [hf]

/-- A signed number of 16 bits reads back as itself. -/
theorem toSigned_ofSigned {v : Int} (hlo : -(2 ^ 15) ≤ v) (hhi : v < 2 ^ 15) : toSigned 16 (ofSigned 16 v % 2 ^ 16) = v := by
  unfold toSigned ofSigned
  dsimp only
  split_ifs <;> omega

/-- What the entries of the coolant show after THERMAL_UPDATE. -/
theorem thermalUpdate_shows (ht : s.tidy) (hlo : -(2 ^ 15) ≤ x.coolantIn) (hhi : x.coolantIn < 2 ^ 15) :
    (s.thermalUpdate x).regI .coolantIn = x.coolantIn ∧
    (s.thermalUpdate x).reg .flowMlpm = x.flowMlpm % 2 ^ Reg.width .flowMlpm := by
  have h0 := regsRising_of_tidy ht
  have h2 := State.regsRising_setReg _ .coolantOut (ofSigned 16 x.coolantOut) 0
    (State.regsRising_setReg s .coolantIn (ofSigned 16 x.coolantIn) 0 h0)
  have hkeeps : Keeps plateRegs (s.inlet x) (s.thermalUpdate x) := .thermalUpdate (List.Subset.refl _) s x
  have hin : (s.inlet x).reg .coolantIn = ofSigned 16 x.coolantIn % 2 ^ 16 := by
    unfold State.inlet State.setRegI
    rw [State.reg_setReg_other _ _ (by decide), State.reg_setReg_other _ _ (by decide)]
    exact State.reg_setReg_rising s .coolantIn _ 0 h0
  refine ⟨?_, (hkeeps.reg _ 0 (by decide)).trans (State.reg_setReg_rising _ .flowMlpm _ 0 h2)⟩
  rw [hkeeps.regI (by decide)]
  exact (congrArg (toSigned 16) hin).trans (toSigned_ofSigned hlo hhi)

/-- Where a thermal target moves to, told from the state before. -/
theorem movedTarget_coolantTaken (s : State) (x : ThermalSample) (a : Nat) :
    (s.coolantTaken x).movedTarget x.hottest a = s.movedTarget x.hottest a := by
  obtain ⟨plate, hot, hpower, -⟩ := coolantTaken_power s x
  have hkeeps := coolantTaken_keeps s x
  have hest : (s.coolantTaken x).power.est = s.power.est := by rw [hpower]
  unfold State.movedTarget
  rw [hkeeps.hottestDie (by decide), hkeeps.regI (by decide), hkeeps.reg .powerCapW 0 (by decide), hest]

/-- The thermal target after THERMAL_UPDATE: a target at or below the cap stays, and one above ends unless a die is at TJ_THROTTLE. -/
theorem thermalUpdate_thermal {a : Nat} (h : s.power.thermal = some a) :
    (s.movedTarget x.hottest a ≤ 1000 * s.reg .powerCapW → (s.thermalUpdate x).power.thermal = some (s.movedTarget x.hottest a)) ∧
    (1000 * s.reg .powerCapW < s.movedTarget x.hottest a → s.hottestDie x.hottest < s.regI .tjThrottle →
      (s.thermalUpdate x).power.thermal = none) := by
  have hkeeps := (coolantTaken_keeps s x).trans (.targetMoved _ _ x)
  have hcap : (s.coolantTaken x).reg .powerCapW = s.reg .powerCapW := (coolantTaken_keeps s x).reg _ 0 (by decide)
  have htarget : ((s.coolantTaken x).targetMoved x).power.thermal =
      if 1000 * s.reg .powerCapW < s.movedTarget x.hottest a then none else some (s.movedTarget x.hottest a) := by
    obtain ⟨plate, hot, hpower, -⟩ := coolantTaken_power s x
    rw [targetMoved_power, hcap]
    simp only [movedTarget_coolantTaken, hpower, h, Option.bind_some]
  have hsensed := congrArg Power.thermal (sensed_power ((s.coolantTaken x).targetMoved x) x.hottest)
  rw [htarget, hkeeps.hottestDie (by decide), hkeeps.regI (by decide)] at hsensed
  rw [thermalUpdate_eq]
  refine ⟨fun hle => hsensed.trans ?_, fun hlt hdie => hsensed.trans ?_⟩
  · simp [Nat.not_lt.2 hle]
  · simp [hlt, Int.not_le.2 hdie]

/-- The rest of the controller after THERMAL_UPDATE. -/
theorem thermalUpdate_power (s : State) (x : ThermalSample) :
    (s.thermalUpdate x).power.hottest = x.hottest ∧
    (s.thermalUpdate x).power.flowLowMs = (if x.flowMlpm < s.reg .flowMinMlpm then s.power.flowLowMs + 1 else 0) ∧
    (s.thermalUpdate x).power.flowOut = (s.power.flowOut && decide (s.flowMs x < 1000)) ∧
    ∀ p, (s.inlet x).plateNext x = some p → (s.thermalUpdate x).power.plate = p := by
  obtain ⟨plate, hot, hpower, hplate⟩ := coolantTaken_power s x
  rw [thermalUpdate_eq, sensed_power, targetMoved_power, hpower]
  exact ⟨rfl, rfl, rfl, hplate⟩

theorem plateNext_of_some {w p r : Rat} (hw : (s.power.est : Rat) / 1000 = w) (hp : s.plateStep w s.power.plate = some p)
    (hr : s.rJpRat = some r) : s.plateNext x = some (p + (degrees x.hottest - w * r - p) / 16) := by
  subst hw
  simp only [State.plateNext, hp, hr]

end

/-! ### The flow (R516) -/

/-- A register reads as what was written, where its width holds that. -/
theorem reg_setReg_fits {r : Reg} {v i : Nat} (h : s.regsRising) (hv : v < 2 ^ r.width) : (s.setReg r v i).reg r i = v :=
  (State.reg_setReg_rising s r v i h).trans (Nat.mod_eq_of_lt hv)

/-- The duty lies within 10 and 100 %. -/
theorem flowPct_bounds (s : State) (mw : Nat) : 10 ≤ s.flowPct mw ∧ s.flowPct mw ≤ 100 := by
  unfold State.flowPct
  dsimp only
  split <;> omega

/-- The means of P_est of the latest flow intervals, with the interval that ends. -/
def State.flowMeans (s : State) : List Nat :=
  ((if s.power.n100 = 0 then s.power.est else s.power.sum100 / s.power.n100) :: s.power.means).take 10

/-- FLOW_DEMAND_UPDATE but for the entry that shows the duty. -/
def State.flowSummed (s : State) : State := { s with free := s.free + 1, power := { s.power with means := s.flowMeans, sum100 := 0, n100 := 0 } }

/-- P_dem: the larger of ADMIT_POWER and the mean of the last second. -/
def State.flowNeed (s : State) : Nat := max (s.reg .admitPower) (s.flowMeans.sum / s.flowMeans.length)

theorem flowDemand_eq (s : State) : s.flowDemand = s.flowSummed.setReg .flowDemandPct (s.flowPct s.flowNeed) := rfl

theorem flowDemand_pct (ht : s.tidy) : s.flowDemand.reg .flowDemandPct = s.flowPct s.flowNeed := by
  rw [flowDemand_eq]
  exact reg_setReg_fits (s := s.flowSummed) (regsRising_of_tidy ht) (lt_of_le_of_lt (flowPct_bounds s _).2 (by decide))

theorem exec_flowLow (h : 1000 ≤ s.power.flowLowMs) : exec .flowLow s =
    .next ((({ s with power := { s.power with flowOut := true, flowOkMs := 0 } } : State).fault 0x0713 0 0 0 0xFFFF
      (s.reg .flowMlpm)).setStep 66) := if_neg (Nat.not_lt.2 h)

theorem exec_flowLow_of_short (h : s.power.flowLowMs < 1000) : exec .flowLow s = .next s := if_pos h

/-- Stage 4 in force: its stage and its gates are shown. -/
theorem setStep_66 (h : s.Canon) : (s.setStep 66).reg .throttleStage = 4 ∧ (s.setStep 66).reg .schedGates = 3 := by
  obtain ⟨hstage, -, -, hgates⟩ := setStep_reg (k := 66) (Nat.le_refl _) (State.tidy_iff_canon.2 h)
  exact ⟨hstage, hgates⟩

/-! ### The core rails (R508) -/

section
variable {d : Nat} {up : Bool}

theorem exec_avsStep_of_absent (h : 16 ≤ d) : exec (.avsStep d up) s = .next s := congrArg Host.Outcome.next (if_pos (.inl h))

theorem exec_timingMarginLow_of_absent (h : 16 ≤ d) : exec (.timingMarginLow d) s = .next s :=
  congrArg Host.Outcome.next (if_pos h)

theorem exec_avsStep_of_recent (h0 : s.power.stepped.get 0 d ≠ 0) (h : s.ck < s.power.stepped.get 0 d - 1 + 825000) :
    exec (.avsStep d up) s = .next s := congrArg Host.Outcome.next (if_pos (.inr ⟨h0, h⟩))

theorem exec_avsStep (hd : d < 16) (h : s.power.stepped.get 0 d = 0 ∨ s.power.stepped.get 0 d - 1 + 825000 ≤ s.ck) :
    exec (.avsStep d up) s = .next (s.vcoreStep d up) := congrArg Host.Outcome.next (if_neg (by omega))

theorem exec_timingMarginLow (hd : d < 16) : exec (.timingMarginLow d) s = .next (s.vcoreStep d true) :=
  congrArg Host.Outcome.next (if_neg (by omega))

/-- A core rail has moved by one step of 1 to 10 mV, within its limits. -/
def RailMoved (s t : State) (d : Nat) (u : Bool) : Prop :=
  let v := s.power.setPoint.get 0 d;
  -100 ≤ t.power.setPoint.get 0 d ∧ t.power.setPoint.get 0 d ≤ 80 ∧
  (u = true → t.power.setPoint.get 0 d ≤ max (v + 10) (-100) ∧ min v 80 ≤ t.power.setPoint.get 0 d) ∧
  (u = false → min (v - 10) 80 ≤ t.power.setPoint.get 0 d ∧ t.power.setPoint.get 0 d ≤ max v (-100)) ∧
  (∀ k, k ≠ d → t.power.setPoint.get 0 k = s.power.setPoint.get 0 k) ∧
  t = { s with free := s.free + 1, power := { s.power with setPoint := t.power.setPoint, stepped := t.power.stepped } }

theorem vcoreStep_setPoint (h : s.power.setPoint.rising) : ∃ n : Int, 1 ≤ n ∧ n ≤ 10 ∧
    (s.vcoreStep d up).power.setPoint.get 0 d = max (-100) (min 80 (s.power.setPoint.get 0 d + if up then n else -n)) :=
  ⟨(Config.pick s.free % 10 + 1 : Nat), by omega, by omega, Tab.get_set_rising _ _ _ _ h⟩

theorem vcoreStep_moves (d : Nat) (up : Bool) (h : s.power.setPoint.rising) : RailMoved s (s.vcoreStep d up) d up := by
  obtain ⟨n, hlo, hhi, hv⟩ := vcoreStep_setPoint (d := d) (up := up) h
  unfold RailMoved
  rw [hv]
  refine ⟨?_, ?_, fun hu => ?_, fun hu => ?_, fun k hk => Tab.get_set_other _ _ _ _ hk.symm, rfl⟩
  · omega
  · omega
  · rw [hu, if_pos rfl]
    omega
  · rw [hu, if_neg (by decide)]
    omega

end

/-! ### Rails out of range (R518) -/

section
variable {r : Nat} {c : RailCondition}

theorem exec_railOutOfRange (h : r < 26) : exec (.railOutOfRange r c) s = .next (s.railCondition r c) :=
  congrArg Host.Outcome.next (if_pos h)

theorem exec_railOutOfRange_of_absent (h : 26 ≤ r) : exec (.railOutOfRange r c) s = .next s :=
  congrArg Host.Outcome.next (if_neg (Nat.not_lt.2 h))

theorem railOut_of_core (h : r < 16) : s.railOut r = s.routerFault r := if_pos h

theorem railOut_22 (s : State) : s.railOut 22 = s := rfl

theorem railOut_of_package (hlo : 16 ≤ r) (hhi : r < 26) (h18 : r ≠ 18) (h22 : r ≠ 22) : s.railOut r = s.packageReset 4 := by
  unfold State.railOut
  rw [if_neg (Nat.not_lt.2 hlo), if_neg h18, if_neg (by omega)]

theorem leaveHandler_power (s : State) (n : Nat) : (s.leaveHandler n).power = s.power := by
  unfold State.leaveHandler State.endSync
  simp only [State.modCore_power, State.bump_power]
  split <;> rfl

/-- VBB stays marked while its cells are lost and its cores are held. -/
theorem railOut_18_vbbOut (s : State) : (s.railOut 18).power.vbbOut = true := by
  have h : (s.railOut 18).power = { s.power with vbbOut := true } := by
    unfold State.railOut
    rw [if_neg (by decide), if_pos rfl]
    refine (foldl_keeps (m := State.power) (fun q n => leaveHandler_power q n) _ _).trans ?_
    exact foldl_keeps (m := State.power) (fun q n => State.modCell_power q n _) _ _
  rw [h]

end

/-! ### The sensors (R517) -/

section
variable {d k : Nat} {b : Bool}

theorem exec_sensorCalibration_of_kept
    (h : b = false ∨ 24 < d ∨ 3 < k ∨ bit (leNat (s.oct .sensorInvalidMask)) (4 * d + k) = true) :
    exec (.sensorCalibration d k b) s = .next s := by
  refine if_pos ?_
  rcases h with h | h | h | h <;> simp [h]

/-- The mask once a sensor is marked. -/
def State.sensorMarked (s : State) (d k : Nat) : State :=
  s.setOct .sensorInvalidMask (leBytes 13 (setBit (leNat (s.oct .sensorInvalidMask)) (4 * d + k) true))

theorem exec_sensorCalibration (hd : d ≤ 24) (hk : k ≤ 3) (h : bit (leNat (s.oct .sensorInvalidMask)) (4 * d + k) = false) :
    exec (.sensorCalibration d k true) s = .next ((s.sensorMarked d k).fault 0x0715 0 0 0 0xFFFF (d + 256 * k)) :=
  if_neg (by simp [h]; omega)

theorem sensorMarked_bit (hd : d ≤ 24) (hk : k ≤ 3) (ht : s.tidy) :
    bit (leNat ((s.sensorMarked d k).oct .sensorInvalidMask)) (4 * d + k) = true := by
  rw [State.sensorMarked, oct_setOct_of_tidy _ _ _ ht, leNat_leBytes, bit_mod_two_pow, bit_setBit, if_pos rfl]
  simp
  omega

end

/-! ### POWER_CAP_W (R226, R510) -/

section
variable {m v w : Nat}

theorem exec_powerCapW (s : State) (m v : Nat) :
    exec (.powerCapW m v) s = .next (s.write m .powerCapW 0 v (State.powerCap (v % 65536))) := rfl

/-- An admitted table needs more than `w` watts (R226). -/
def State.capTooLow (s : State) (w : Nat) : Bool := s.tilth.copies.any fun c => decide (1000 * w < c.admitMw)

theorem powerCap_of_over (h : s.reg .maxPackageW < w) : State.powerCap w s = .error 0x8010 := if_pos h

theorem powerCap_of_low (h : w ≤ s.reg .maxPackageW) (hl : s.capTooLow w = true) : State.powerCap w s = .error 0x8016 :=
  (if_neg (Nat.not_lt.2 h)).trans (if_pos hl)

theorem powerCap_of_fit (h : w ≤ s.reg .maxPackageW) (hl : s.capTooLow w = false) : State.powerCap w s =
    .ok { s.setReg .powerCapW w with
      power := { (s.setReg .powerCapW w).power with bank := min (s.setReg .powerCapW w).bankMax (s.setReg .powerCapW w).power.bank } } :=
  (if_neg (Nat.not_lt.2 h)).trans (if_neg (Bool.not_eq_true _ ▸ hl))

theorem byRules_powerCapW (s : State) (v : Nat) (op : State → Except Nat State) :
    s.byRules .powerCapW (v % 2 ^ Reg.width .powerCapW) op = op s := byRules_of_free rfl rfl

end

/-! ### The claim -/

/-- THERMAL_UPDATE, as the claim says it. -/
theorem thermalUpdate_complete (x : ThermalSample) (ht : s.tidy) (hlo : -(2 ^ 15) ≤ x.coolantIn) (hhi : x.coolantIn < 2 ^ 15) :
    completes (.thermalUpdate x) s fun t =>
      t.regI .coolantIn = x.coolantIn ∧ t.reg .flowMlpm = x.flowMlpm % 2 ^ Reg.width .flowMlpm ∧ t.power.hottest = x.hottest ∧
      t.mem = s.mem ∧ t.ctxs = s.ctxs ∧
      t.power.flowLowMs = (if x.flowMlpm < s.reg .flowMinMlpm then s.power.flowLowMs + 1 else 0) ∧
      (∀ p r, (s.inlet x).plateStep ((s.power.est : Rat) / 1000) s.power.plate = some p → (s.inlet x).rJpRat = some r →
        t.power.plate = p + (degrees x.hottest - (s.power.est : Rat) / 1000 * r - p) / 16) ∧
      (∀ a, s.power.thermal = some a →
        (s.movedTarget x.hottest a ≤ 1000 * s.reg .powerCapW → t.power.thermal = some (s.movedTarget x.hottest a)) ∧
        (1000 * s.reg .powerCapW < s.movedTarget x.hottest a → s.hottestDie x.hottest < s.regI .tjThrottle →
          t.power.thermal = none)) ∧
      (s.power.flowOut = true → (t.power.flowOut = false ↔
        s.reg .flowMinMlpm < x.flowMlpm ∧ 1000 ≤ s.power.flowOkMs + 1)) := by
  have hkeeps : Keeps (coolantRegs ++ plateRegs) s (s.thermalUpdate x) :=
    (Keeps.inlet (by decide) s x).trans (.thermalUpdate (by decide) s x)
  obtain ⟨hin, hflow⟩ := thermalUpdate_shows ht hlo hhi
  obtain ⟨hhot, hlow, hout, hplate⟩ := thermalUpdate_power s x
  refine ⟨_, rfl, hin, hflow, hhot, hkeeps.mem, hkeeps.ctxs, hlow, fun p r hp hr => hplate _ ?_,
    fun a ha => thermalUpdate_thermal ha, fun hf => ?_⟩
  · rw [← inlet_power s x] at hp ⊢
    exact plateNext_of_some rfl hp hr
  · rw [hout]
    exact flowMs_ends hf

/-- FLOW_DEMAND_UPDATE, as the claim says it. -/
theorem flowDemand_complete (ht : s.tidy) :
    completes .flowDemandUpdate s fun t => 10 ≤ t.reg .flowDemandPct ∧ t.reg .flowDemandPct ≤ 100 ∧
      (10 * s.reg .coolantHeatCapJkl * s.reg .dtCoolantMax * s.reg .flowFullMlpm ≠ 0 →
        t.reg .flowDemandPct = max 10 (min 100 (ceilDiv (60000 * s.flowNeed)
          (10 * s.reg .coolantHeatCapJkl * s.reg .dtCoolantMax * s.reg .flowFullMlpm)))) ∧
      t.power.means = s.flowMeans ∧ t.mem = s.mem ∧ t.ctxs = s.ctxs := by
  obtain ⟨hlo, hhi⟩ := flowPct_bounds s s.flowNeed
  refine ⟨_, rfl, (flowDemand_pct ht).symm ▸ hlo, (flowDemand_pct ht).symm ▸ hhi, fun hd => ?_, ?_, ?_, ?_⟩
  · exact (flowDemand_pct ht).trans (if_neg hd)
  · exact congrArg Power.means (State.setReg_power s.flowSummed ..)
  · exact State.setReg_mem s.flowSummed ..
  · exact State.setReg_ctxs s.flowSummed ..

/-- FLOW_LOW, as the claim says it. -/
theorem flowLow_complete (ht : s.tidy) (h : 1000 ≤ s.power.flowLowMs) : completes .flowLow s fun t =>
    t.power.flowOut = true ∧ t.reg .throttleStage = 4 ∧ t.reg .schedGates = 3 ∧ t.mem = s.mem ∧ t.ctxs = s.ctxs := by
  have hc := State.tidy_iff_canon.1 ht
  have hu : ({ s with power := { s.power with flowOut := true, flowOkMs := 0 } } : State).Canon :=
    { hc with power := { hc.power with } }
  obtain ⟨hstage, hgates⟩ := setStep_66 hu.fault
  have hkeeps := (Keeps.withRest (faultRegs ++ throttleRegs) s { s.power with flowOut := true, flowOkMs := 0 } s.faults s.engines
    s.free).trans ((Keeps.fault (by decide) _ 0x0713 0 0 0 0xFFFF (s.reg .flowMlpm)).trans (.setStep (by decide) _ 66))
  exact ⟨_, exec_flowLow h, by rw [setStep_power, fault_power], hstage, hgates, hkeeps.mem, hkeeps.ctxs⟩

/-- Settles O49, command by command. The readings of R507 to R518 that the model takes (the start of an excursion, no code for a
regulator's fault, cells marked lost by VBB, the run of readings without an answer) are its own (log entry 61), and the plate's
power 0.8 is a free function (log entry 24). -/
theorem powerCommandsComplete : Obligations.PowerCommandsComplete := by
  unfold Obligations.PowerCommandsComplete
  refine ⟨fun s x => ⟨congrArg Host.Outcome.next (controlPeriod_eq s x), _, rfl, controlPeriod_effect s x⟩,
    fun s h _ => sensed_limits s h,
    fun s est n => ⟨fun h => burstStep_begins h est, fun h => burstStep_goes_on h est, rfl⟩, fun s rs w => rfl,
    fun s x => ⟨exec_pmbAlert_of_handover, exec_pmbAlert, readRail_of_unmapped,
      fun hm hx => ⟨readRail_of_answer hm hx, readRail_of_silence hm hx, readRail_of_third hm hx⟩⟩,
    fun s x => thermalUpdate_complete x, fun s => flowDemand_complete,
    fun s => ⟨exec_flowLow_of_short, exec_flowLow, flowLow_complete⟩,
    fun s d up => ⟨fun h => ⟨exec_avsStep_of_absent h, exec_timingMarginLow_of_absent h⟩, fun hd ht => ?avs⟩,
    fun s r mv c => ⟨exec_railOutOfRange_of_absent, fun hr => ?rails, railOut_of_core, railOut_22 s, railOut_of_package,
      railOut_18_vbbOut s⟩,
    fun s d k => ⟨exec_sensorCalibration_of_kept (.inl rfl), fun h => exec_sensorCalibration_of_kept (.inr (by tauto)),
      fun hd hk => ?sensors⟩,
    fun s m v => ⟨guarded_of_write (exec_powerCapW s m v), fun hw => ?cap⟩⟩
  case avs =>
    have hrising := (State.tidy_iff_canon.1 ht).power.setPoint
    exact ⟨fun h => ⟨_, exec_avsStep hd h, vcoreStep_moves d up hrising⟩, exec_avsStep_of_recent,
      _, exec_timingMarginLow hd, vcoreStep_moves d true hrising⟩
  case rails =>
    exact ⟨exec_railOutOfRange hr, exec_railOutOfRange hr, exec_railOutOfRange hr, exec_railOutOfRange hr, exec_railOutOfRange hr,
      exec_railOutOfRange hr⟩
  case sensors =>
    refine ⟨fun h => exec_sensorCalibration_of_kept (.inr (.inr (.inr h))), exec_sensorCalibration hd hk, fun ht => ?_⟩
    cases h : bit (leNat (s.oct .sensorInvalidMask)) (4 * d + k) with
    | true => exact ⟨_, exec_sensorCalibration_of_kept (.inr (.inr (.inr h))), h⟩
    | false =>
      refine ⟨_, exec_sensorCalibration hd hk h, ?_⟩
      have hoct := (Keeps.fault (List.Subset.refl _) (s.sensorMarked d k) 0x0715 0 0 0 0xFFFF (d + 256 * k)).oct .sensorInvalidMask 0
      exact (congrArg (fun m => bit (leNat m) (4 * d + k)) hoct).trans (sensorMarked_bit hd hk ht)
  case cap =>
    have hi := exec_powerCapW s m v
    have hrules (op : State → Except Nat State) := byRules_powerCapW s v op
    refine ⟨fun h => ignored_of_write hi hw ((hrules _).trans (powerCap_of_over (h.resolve_right ?_))),
      fun h _ => ⟨fun hl => ignored_of_write hi hw ((hrules _).trans (powerCap_of_low h hl)),
        fun hl => taken_of_write hi hw ((hrules _).trans (powerCap_of_fit h hl))⟩⟩
    simp [Reg.outOfRange, Reg.powerCapW]

end Sys2Proof.Machine
end

section
/-! O20: the commands that issue on a core of the DSP (R249 to R258, R462). What a bundle writes leaves its core running, a core that runs
is listed, and so a bundle is said by what it makes of its core. -/

open Sys2Proof.Claims

namespace Sys2Proof.Machine

/-! ### What a core's operations leave: whether it runs, and its loops -/

section
variable (c c0 : DspCore)

@[simp] theorem DspCore.advance_runs : c.advance.runs = c.runs := rfl
@[simp] theorem DspCore.jump_runs (t : Nat) : (c.jump t).runs = c.runs := rfl

theorem DspCore.setG_keeps (k : Nat) (v : BitVec 32) : (c.setG k v).runs = c.runs ∧ (c.setG k v).loops = c.loops := by
  delta DspCore.setG
  split <;> exact ⟨rfl, rfl⟩

/-- A write that lands changes registers alone. -/
theorem DspCore.land_keeps (l : Late) : (c.land l).runs = c.runs ∧ (c.land l).loops = c.loops := by
  delta DspCore.land
  split
  · exact c.setG_keeps _ _
  all_goals exact ⟨rfl, rfl⟩

@[simp] theorem DspCore.settle_runs : c.settle.runs = c.runs :=
  foldl_keeps (m := DspCore.runs) (fun c l => (c.land_keeps l).1) _ c

@[simp] theorem DspCore.settle_loops : c.settle.loops = c.loops :=
  foldl_keeps (m := DspCore.loops) (fun c l => (c.land_keeps l).2) _ c

@[simp] theorem DspCore.memOp_runs (y : Bool) (m : MemOp) : (c0.memOp c y m).runs = c.runs := by
  delta DspCore.memOp
  cases m <;> dsimp only <;> split <;> rfl

@[simp] theorem DspCore.vecOp_runs (o : VecOp) : (c0.vecOp c o).1.runs = c.runs := by
  cases o <;> rfl

@[simp] theorem DspCore.scalarOp_runs (o : ScalarOp) : (c0.scalarOp c o).1.runs = c.runs := by
  cases o <;> rfl

@[simp] theorem DspCore.beside_runs (a b : Option (Nat × MemOp)) (v : Option (Nat × VecOp)) :
    (c0.beside c a b v).1.runs = c.runs := by
  delta DspCore.beside
  dsimp only
  cases c0.live a <;> cases c0.live b <;> cases c0.live v <;> simp

@[simp] theorem DspCore.run_runs (b : Bundle) : (c.run b).1.runs = c.runs := by
  delta DspCore.run
  dsimp only
  split <;> cases c.live b.d <;> simp

end

/-! ### A change of one core -/

variable {s t u : State} {core : Nat} {c d : DspCore} {f g : DspCore → DspCore}

/-- A core that runs differs from one of which nothing is listed, so it reads as it was written. -/
theorem core_modCore_of_runs (h : (f (s.core core)).runs = true) : (s.modCore core f).core core = f (s.core core) :=
  Tab.get_set_same _ _ _ fun (he : f (s.core core) = default) => Bool.false_ne_true ((congrArg DspCore.runs he).symm.trans h)

/-- From `s` to `t` core `core` becomes `c`, and nothing else changes. -/
structure State.OnlyCore (s : State) (core : Nat) (c : DspCore) (t : State) : Prop where
  core_eq : t.core core = c
  others : ∀ m, m ≠ core → t.core m = s.core m
  rest : t = { s with radio := { s.radio with cores := t.radio.cores } }

theorem State.OnlyCore.refl (s : State) (core : Nat) : s.OnlyCore core (s.core core) s := ⟨rfl, fun _ _ => rfl, rfl⟩

theorem State.OnlyCore.trans (h : s.OnlyCore core c t) (h' : t.OnlyCore core d u) : s.OnlyCore core d u :=
  ⟨h'.core_eq, fun m hm => (h'.others m hm).trans (h.others m hm), h'.rest.trans (by rw [h.rest])⟩

theorem State.OnlyCore.modCore (h : (f (s.core core)).runs = true) : s.OnlyCore core (f (s.core core)) (s.modCore core f) :=
  ⟨core_modCore_of_runs h, fun _ hm => State.core_modCore_other s f hm.symm, rfl⟩

/-- DSP_SAT counts beside it. -/
theorem State.OnlyCore.bumpSat (h : s.OnlyCore core c t) (n : Nat) :
    (s.bump .dspSat core n).OnlyCore core c (t.bump .dspSat core n) := by
  obtain ⟨hcore, hothers, hrest⟩ := h
  refine ⟨hcore, hothers, ?_⟩
  rw [hrest]
  rfl

/-- `F` changes core `core` alone, by `f`, and leaves it running. -/
def ActsOnCore (core : Nat) (F : State → State) (f : DspCore → DspCore) : Prop :=
  ∀ t : State, (t.core core).runs = true → t.OnlyCore core (f (t.core core)) (F t) ∧ (f (t.core core)).runs = true

theorem actsOnCore_id : ActsOnCore core id id := fun t h => ⟨.refl t core, h⟩

theorem actsOnCore_modCore (hf : ∀ c, (f c).runs = c.runs) : ActsOnCore core (fun t => t.modCore core f) f := fun t h =>
  have hr := (hf (t.core core)).trans h
  ⟨.modCore hr, hr⟩

theorem ActsOnCore.ite {F : State → State} (h : ActsOnCore core F f) (on : Bool) (ht : (t.core core).runs = true) :
    t.OnlyCore core (if on then f (t.core core) else t.core core) (if on then F t else t) ∧
      (if on then f (t.core core) else t.core core).runs = true := by
  cases on with
  | true => exact h t ht
  | false => exact actsOnCore_id t ht

/-! ### Issuing (R250, R251, R462) -/

variable {i : Instr} {x : Slots} {F : State → State} {reads : List (Nat × Nat)} {now later : State → State}

theorem issue_of_idle (h : (s.core core).runs = false) : s.issue core F = s :=
  if_pos (by simp [h])

theorem issue_of_badBundle (h : (s.core core).runs = true) (hb : s.badBundle core = true) : s.issue core F = s.codeFault core :=
  (if_neg (by simp [h])).trans (if_pos hb)

theorem issue_of_goodBundle (h : (s.core core).runs = true) (hb : s.badBundle core = false) :
    s.issue core F = F (s.modCore core DspCore.settle) :=
  (if_neg (by simp [h])).trans (if_neg (by simp [hb]))

/-- Where issuing on its core comes to `t` whatever is issued, so does an operation of slot D. -/
theorem issueWith_of_issue {site : Issue} (h : ∀ F, s.issue site.core F = t) : s.issueWith site reads now later = t := by
  delta State.issueWith
  exact h _

/-- Where no word of the core's data is uncorrectable, none is found in any run of it. -/
theorem badRun_of_noneBad (h : ∀ a, s.isBad (badData core a) = false) (runs : List (Nat × Nat)) : s.badRun core runs = none := by
  simp [State.badRun, h]

/-- On a core that issues no word is found uncorrectable, and the operations go as the claims say. -/
theorem issued_of_issueWith (h : coreIssues s core) (hi : exec i s = .next (s.issueWith ⟨core, x⟩ reads now later)) :
    issued i s core x now later := by
  obtain ⟨hruns, hbundle, hdata⟩ := h
  delta issued
  rw [hi]
  delta State.issueWith
  rw [issue_of_goodBundle hruns hbundle]
  dsimp only
  rw [badRun_of_noneBad (s := s.modCore core DspCore.settle) hdata]

/-- Where the operations change their core alone, so does the command. -/
theorem issuedOnCore_of_issued (h : issued i s core x now later) (hr : (s.core core).runs = true) (hnow : ActsOnCore core now f)
    (hlater : ActsOnCore core later g) : issuedOnCore i s core x f g := by
  have hs : (s.core core).settle.runs = true := (DspCore.settle_runs _).trans hr
  have hc := core_modCore_of_runs (f := DspCore.settle) hs
  delta issued at h
  delta issuedOnCore
  dsimp only at h ⊢
  rw [hc] at h
  obtain ⟨hv, hvruns⟩ := hnow.ite ((s.core core).settle.stageOn x.stage) (hc ▸ hs)
  rw [hc] at hv hvruns
  rw [hv.core_eq] at h
  have hrun := ((DspCore.advance_runs _).trans (DspCore.beside_runs _ (s.core core).settle x.a x.b x.c)).trans hvruns
  generalize (s.core core).settle.beside _ x.a x.b x.c = r at h hrun ⊢
  have hw := (((State.OnlyCore.modCore hs).trans hv).bumpSat r.2).trans (.modCore (f := fun _ => r.1.advance) hrun)
  obtain ⟨ht, -⟩ := hlater.ite ((s.core core).settle.stageOn x.stage) (hw.core_eq ▸ hrun)
  rw [hw.core_eq] at ht
  obtain ⟨hcore, hothers, hrest⟩ := hw.trans ht
  exact ⟨_, h, hcore, hothers, hrest⟩

/-- An operation that changes its core with the values from before the cycle's writes. -/
theorem issuedOnCore_now (h : coreIssues s core) (hf : ∀ c, (f c).runs = c.runs)
    (hi : exec i s = .next (s.issueWith ⟨core, x⟩ reads (fun t => t.modCore core f) id)) : issuedOnCore i s core x f id :=
  issuedOnCore_of_issued (issued_of_issueWith h hi) h.1 (actsOnCore_modCore hf) actsOnCore_id

/-- An operation that changes its core once the bundle has issued. -/
theorem issuedOnCore_later (h : coreIssues s core) (hf : ∀ c, (f c).runs = c.runs)
    (hi : exec i s = .next (s.issueWith ⟨core, x⟩ reads id (fun t => t.modCore core f))) : issuedOnCore i s core x id f :=
  issuedOnCore_of_issued (issued_of_issueWith h hi) h.1 actsOnCore_id (actsOnCore_modCore hf)

/-- An uncorrectable word that the other slots load ends a command that reads no data itself. -/
theorem issueWith_of_badRun {p : Nat} (h : (s.core core).runs = true) (hb : s.badBundle core = false)
    (hp : (s.modCore core DspCore.settle).badRun core (((s.modCore core DspCore.settle).core core).loadRuns x.a x.b) = some p) :
    s.issueWith ⟨core, x⟩ [] now later = (s.modCore core DspCore.settle).dataFault core p := by
  delta State.issueWith
  rw [issue_of_goodBundle h hb]
  dsimp only
  rw [ite_self, List.append_nil, hp]

/-! ### BUNDLE -/

section
variable {b : Bundle}

theorem exec_bundle_of_badRun {p : Nat} (h : (s.core core).runs = true) (hb : s.badBundle core = false)
    (hp : (s.modCore core DspCore.settle).badRun core (((s.modCore core DspCore.settle).core core).loadRuns b.a b.b) = some p) :
    exec (.bundle core b) s = .next ((s.modCore core DspCore.settle).dataFault core p) := by
  change execBundle core b s = _
  delta execBundle
  rw [issue_of_goodBundle h hb]
  dsimp only
  rw [hp]

theorem exec_bundle_of_issues (h : coreIssues s core) : exec (.bundle core b) s =
    .next (((s.modCore core DspCore.settle).bump .dspSat core ((s.core core).settle.run b).2).modCore core
      fun _ => ((s.core core).settle.run b).1) := by
  obtain ⟨hruns, hbundle, hdata⟩ := h
  change execBundle core b s = _
  delta execBundle
  rw [issue_of_goodBundle hruns hbundle]
  dsimp only
  rw [badRun_of_noneBad (s := s.modCore core DspCore.settle) hdata,
    core_modCore_of_runs (f := DspCore.settle) ((DspCore.settle_runs _).trans hruns)]

/-- BUNDLE makes of its core what `run` makes of it, and DSP_SAT counts. -/
theorem bundle_onlyCore (h : coreIssues s core) : completes (.bundle core b) s
    ((s.bump .dspSat core ((s.core core).settle.run b).2).OnlyCore core ((s.core core).settle.run b).1) := by
  have hs : (s.core core).settle.runs = true := (DspCore.settle_runs _).trans h.1
  exact ⟨_, exec_bundle_of_issues h, ((State.OnlyCore.modCore hs).bumpSat _).trans
    (.modCore (f := fun _ => ((s.core core).settle.run b).1) ((DspCore.run_runs _ b).trans hs))⟩

end

/-! ### LOOPM and LOOP (R254, R255) -/

section
variable {n st ii len : Nat}

/-- A core with fewer than four loops and no LOOPM has room for one more. -/
theorem loopsFull_of_room (hlen : c.loops.length < 4) (hno : ∀ l ∈ c.loops, l.s = 0) : c.loopsFull true = false := by
  delta DspCore.loopsFull
  simpa [hlen] using hno

theorem loopsFull_of_short (hlen : c.loops.length < 4) : c.loopsFull false = false := by
  delta DspCore.loopsFull
  simp [hlen]

/-- Room for a LOOPM is room for a LOOP. -/
theorem loopsFull_false_of_true (h : c.loopsFull true = false) : c.loopsFull false = false := by
  obtain ⟨hlen, -⟩ := Bool.or_eq_false_iff.1 h
  delta DspCore.loopsFull
  simpa using hlen

theorem exec_loopm (hn : 1 ≤ n ∧ n ≤ 65535) (hst : 1 ≤ st ∧ st ≤ 16) (hii : 1 ≤ ii ∧ ii ≤ 64)
    (hroom : (s.core core).loopsFull true = false) : exec (.loopm ⟨core, x⟩ n st ii) s =
      .next (s.issueWith ⟨core, x⟩ [] id fun t => t.modCore core fun c =>
        { c with loops := ⟨c.pc, ii, n + st - 1, 0, n, st⟩ :: c.loops, rrb := 0 }) := by
  have hopen (c : DspCore) : c.open_ ii (n + st - 1) n st =
      { c with loops := ⟨c.pc, ii, n + st - 1, 0, n, st⟩ :: c.loops, rrb := 0 } := by
    delta DspCore.open_
    rw [if_neg (by omega)]
  refine (congrArg Host.Outcome.next (if_neg ?_)).trans ?_
  · simp only [hroom, Bool.false_eq_true, or_false]
    omega
  · simp only [hopen]

theorem exec_loop (hn : 1 ≤ n) (hlen : 1 ≤ len) (hroom : (s.core core).loopsFull false = false) :
    exec (.loop ⟨core, x⟩ n len) s = .next (s.issueWith ⟨core, x⟩ [] id fun t => t.modCore core fun c =>
      { c with loops := ⟨c.pc, len, n, 0, n, 0⟩ :: c.loops }) := by
  refine congrArg Host.Outcome.next (if_neg ?_)
  simp only [hroom, Bool.false_eq_true, or_false]
  omega

/-- On a core that does not run no loop is opened, whether its operands are in range or not. -/
theorem exec_loopm_of_idle (h : (s.core core).runs = false) : exec (.loopm ⟨core, x⟩ n st ii) s = .next s := by
  change execLoopm _ _ _ _ s = _
  delta execLoopm
  rw [issueWith_of_issue fun _ => issue_of_idle h, ite_self]

theorem exec_loop_of_idle (h : (s.core core).runs = false) : exec (.loop ⟨core, x⟩ n len) s = .next s := by
  change execLoop _ _ _ s = _
  delta execLoop
  rw [issueWith_of_issue fun _ => issue_of_idle h, ite_self]

end

/-! ### A core that stalls, and uncorrectable words (R462) -/

/-- The rows of BUNDLE and the ACS group on core `core`. -/
def issueRows (core k v a : Nat) (b : Bundle) (x : Slots) (mode : AcsMode) (polys : List Nat) : List Instr :=
  [.bundle core b, .acsSetup ⟨core, x⟩ mode polys k v, .acsStep ⟨core, x⟩, .acsLoadpm ⟨core, x⟩ v, .acsStorepm ⟨core, x⟩ v,
    .acsBest ⟨core, x⟩ k, .acsTb ⟨core, x⟩ a k]

/-- Where issuing on the core comes to `t` whatever is issued, so does each of the rows. -/
theorem exec_issueRows {k v a : Nat} {b : Bundle} {mode : AcsMode} {polys : List Nat} (h : ∀ F, s.issue core F = t)
    (hi : i ∈ issueRows core k v a b x mode polys) : exec i s = .next t := by
  have hslot {y : Slots} {reads : List (Nat × Nat)} {now later : State → State} :
      s.issueWith ⟨core, y⟩ reads now later = t := issueWith_of_issue h
  delta issueRows at hi
  simp only [List.mem_cons, List.not_mem_nil, or_false] at hi
  obtain rfl | rfl | rfl | rfl | rfl | rfl | rfl := hi
  case inl => exact congrArg _ (h _)
  all_goals exact congrArg _ hslot

/-- Settles O20: on a core that issues, each operation is the change of its core that the claim names; that ACS.BEST starts the trace-back
(log entries 9 and 35), and that the soft pointer starts again at a register's end, are the model's reading. -/
theorem coreOperationsComplete : Obligations.CoreOperationsComplete := by
  refine ⟨fun s core h => ⟨fun b => ?bundle, fun x => ⟨?loopm, ?loop, ?setup, ?step, ?loadpm, ?storepm, ?best, ?tb⟩⟩,
    fun s core k ii v a b x mode polys => ⟨fun hr => ?idle, fun hr hb => ?code, fun hr hb => ?data⟩⟩
  case bundle =>
    obtain ⟨t, ht, hcore, hothers, hrest⟩ := bundle_onlyCore (b := b) h
    exact ⟨t, ht, hcore, hothers, hrest⟩
  case loopm =>
    intro n st ii hn hn' hst hst' hii hii' hlen hno
    rw [DspCore.settle_loops] at hlen hno
    exact issuedOnCore_later h (fun _ => rfl) (exec_loopm ⟨hn, hn'⟩ ⟨hst, hst'⟩ ⟨hii, hii'⟩ (loopsFull_of_room hlen hno))
  case loop =>
    intro n len hn hl hlen
    rw [DspCore.settle_loops] at hlen
    exact issuedOnCore_later h (fun _ => rfl) (exec_loop hn hl (loopsFull_of_short hlen))
  case setup => exact fun mode polys soft dec => issuedOnCore_now h (fun _ => rfl) rfl
  case step => exact issuedOnCore_now h (fun _ => rfl) rfl
  case loadpm => exact fun v => issuedOnCore_now h (fun _ => rfl) rfl
  case storepm => exact fun v => issuedOnCore_now h (fun _ => rfl) rfl
  case best => exact fun g => issuedOnCore_now h (fun _ => rfl) rfl
  case tb => exact fun a g => issuedOnCore_now h (fun _ => rfl) rfl
  case idle =>
    exact ⟨fun i hi => exec_issueRows (fun _ => issue_of_idle hr) hi, exec_loopm_of_idle hr, exec_loop_of_idle hr⟩
  case code =>
    have hfault (F : State → State) : s.issue core F = s.codeFault core := issue_of_badBundle hr hb
    refine ⟨fun i hi => exec_issueRows hfault hi, fun ⟨hk, hk', hii, hii', hroom⟩ => ⟨?_, ?_⟩⟩
    · rw [exec_loopm ⟨hk, hk'⟩ ⟨le_rfl, by decide⟩ ⟨hii, hii'⟩ hroom, issueWith_of_issue (site := ⟨core, x⟩) hfault]
    · rw [exec_loop hk hii (loopsFull_false_of_true hroom), issueWith_of_issue (site := ⟨core, x⟩) hfault]
  case data =>
    exact ⟨fun p hp => exec_bundle_of_badRun hr hb hp, fun p hp =>
      ⟨congrArg _ (issueWith_of_badRun hr hb hp), congrArg _ (issueWith_of_badRun hr hb hp)⟩⟩

end Sys2Proof.Machine
end

section
/-! O21: ACS.BEST (R257, R258). Metrics within half of the 16-bit circle of one another stand at heights above a common origin; signed
differences are the differences of the heights, and the search keeps the lowest of the highest states. -/

namespace Sys2Proof.Machine

variable {m : Nat → Nat} {height : Nat → Int} {origin : Int}

/-- Metrics of states 0 to 63 that stand at `height` above `origin` on the 16-bit circle, within half of it. -/
def MetricsAt (m : Nat → Nat) (height : Nat → Int) (origin : Int) : Prop :=
  ∀ k, k ≤ 63 → m k < 2 ^ 16 ∧ (0 ≤ height k ∧ height k < 2 ^ 15) ∧ (m k : Int) = (origin + height k) % 2 ^ 16

/-- The signed difference of two metrics is the difference of their heights. -/
theorem signedDifference_eq {j k : Nat} (h : MetricsAt m height origin) (hj : j ≤ 63) (hk : k ≤ 63) :
    toSigned 16 (m k + 2 ^ 16 - m j) = height k - height j := by
  obtain ⟨hmj, hbj, hej⟩ := h j hj
  obtain ⟨hmk, hbk, hek⟩ := h k hk
  unfold toSigned
  dsimp only
  split <;> omega

/-- Of the states up to `n`, the search gives the lowest of those that stand highest. -/
theorem bestState_highest (h : MetricsAt m height origin) {n : Nat} (hn : n ≤ 63) :
    bestState m n ≤ n ∧ (∀ k, k ≤ n → height k ≤ height (bestState m n)) ∧
      ∀ k, k < bestState m n → height k < height (bestState m n) := by
  induction n with
  | zero => exact ⟨le_rfl, fun k hk => by rw [Nat.le_zero.1 hk]; rfl, fun k hk => absurd hk (Nat.not_lt_zero k)⟩
  | succ n ih =>
    obtain ⟨hle, hmax, hlow⟩ := ih (by omega)
    rw [bestState, signedDifference_eq h (hle.trans (by omega)) hn]
    by_cases hup : 0 < height (n + 1) - height (bestState m n)
    · rw [if_pos hup]
      have hbelow (k : Nat) (hk : k ≤ n) : height k < height (n + 1) := (hmax k hk).trans_lt (by omega)
      refine ⟨le_rfl, fun k hk => ?_, fun k hk => hbelow k (by omega)⟩
      rcases Nat.lt_or_eq_of_le hk with hk | rfl
      · exact (hbelow k (by omega)).le
      · exact le_rfl
    · rw [if_neg hup]
      refine ⟨by omega, fun k hk => ?_, hlow⟩
      rcases Nat.lt_or_eq_of_le hk with hk | rfl
      · exact hmax k (by omega)
      · omega

/-- Settles O21, by the heights of the metrics above their common origin. -/
theorem bestStateIsTheLargestMetric : Obligations.BestStateIsTheLargestMetric := by
  rintro m hm ⟨height, hheight, origin, horigin⟩
  have h : MetricsAt m height origin := fun k hk => ⟨hm k hk, hheight k hk, horigin k hk⟩
  obtain ⟨hle, hmax, hlow⟩ := bestState_highest h le_rfl
  refine ⟨hle, fun k hk => ?_, fun k hk => ?_⟩
  · rw [signedDifference_eq h hle hk]
    exact sub_nonpos.2 (hmax k hk)
  · rw [signedDifference_eq h hle (hk.le.trans hle)]
    exact sub_neg.2 (hlow k hk)

end Sys2Proof.Machine
end

section
/-! O22: what a core's commands ask of the hub (R259 to R264, R276 to R280, R292, R297, R394): UE accesses, ENGQ, CODE, XFER, HALT and the
entry of a handler, each said once for each of its answers. -/

open Sys2Proof.Claims

namespace Sys2Proof.Machine

variable {s u : State} {core : Nat} {i : Instr} {x : Slots} {reads : List (Nat × Nat)} {later after : State → State}

/-! ### What a command does once its bundle has issued -/

/-- What follows the bundle may be said as it stands on a core that runs, with the uncorrectable words and at the CK cycle of before. -/
theorem issued_later (h : coreIssues s core) (hi : exec i s = .next (s.issueWith ⟨core, x⟩ reads id later))
    (heq : ∀ w : State, (w.core core).runs = true → w.tier = s.tier → w.ck = s.ck → later w = after w) :
    issued i s core x id after := by
  have hissued : issued i s core x id later := issued_of_issueWith h hi
  delta issued
  delta issued at hissued
  dsimp only [id] at hissued ⊢
  rw [ite_self] at hissued ⊢
  have hruns : ((s.modCore core DspCore.settle).core core).runs = true := by
    rw [core_modCore_of_runs] <;> exact (DspCore.settle_runs _).trans h.1
  generalize hr : ((s.modCore core DspCore.settle).core core).beside _ x.a x.b x.c = r at hissued ⊢
  have hr1 : r.1.advance.runs = true := by
    rw [DspCore.advance_runs, ← hr, DspCore.beside_runs]
    exact hruns
  rwa [← heq]
  · rwa [core_modCore_of_runs]
    exact hr1
  all_goals rfl

/-- No stall is under way on a core that runs, so its handler's cycles are those it has issued. -/
theorem leaveHandler_of_runs (h : (s.core core).runs = true) : s.leaveHandler core =
    (s.bump .busyBk core ((s.core core).bk - (s.core core).entryBk)).modCore core fun c => { c with handler := none, loops := [] } := by
  have hsync : (s.core core).syncing = false := by
    simp only [DspCore.runs, Bool.and_eq_true, Bool.not_eq_true'] at h
    obtain ⟨⟨-, hsync⟩, -⟩ := h
    exact hsync
  simp [State.leaveHandler, State.endSync, hsync]

theorem xferNow_of_noneBad {o : XferOp} (h : ∀ a, s.isBad (badData core a) = false) : s.xferNow core o = s.xfer core o := by
  delta State.xferNow
  rw [badRun_of_noneBad h]

/-! ### ENGQ and CODE (R264, R279) -/

section
variable {l cell r : Nat} {bs : Bytes}

theorem engq_of_foreign (h : ¬ (u.cellServes cell core = true ∧ u.logicalServes l core = true)) :
    u.engq core l cell bs = u.countRadioIgnored 0x0106 := by
  delta State.engq
  rw [if_pos (by simpa [Bool.or_eq_true, or_iff_not_imp_left] using h)]

/-- A descriptor of a cell and an engine that serve the core reaches the engine's queue, if there is room. -/
theorem engq_of_served (h : u.cellServes cell core = true ∧ u.logicalServes l core = true) : u.engq core l cell bs =
    if u.qFree (radioQueue l) = 0 ∧ u.qOn (radioQueue l) = true
    then (u.qPush (radioQueue l) (cell + 256 * core) bs).2.countRadioIgnored 0x0105
    else (u.qPush (radioQueue l) (cell + 256 * core) bs).2.radioCheck l := by
  delta State.engq
  simp [h.1, h.2]

theorem submitJob_of_fault (h : jobReason (leNat bs) = some r) : u.submitJob core bs = u.ignoreJob r := by
  delta State.submitJob
  rw [h]

/-- A job without a fault reaches its die's queue, if there is room. -/
theorem submitJob_of_faultless (h : jobReason (leNat bs) = none) : u.submitJob core bs =
    if u.qFree (0x1000 + core / 48) = 0 ∧ u.qOn (0x1000 + core / 48) = true
    then (u.qPush (0x1000 + core / 48) core bs).2.ignoreJob 0x0105 else (u.qPush (0x1000 + core / 48) core bs).2 := by
  delta State.submitJob
  simp [h]

end

/-! ### XFER (R280) -/

section
variable {a l off len so q tag cell : Nat} {f : Frame} {r : Nat × Nat}

theorem xfer_coreToStack : u.xfer core (.coreToStack a off len) =
    if off + len ≤ u.radioStackSize then u.radioStackWrite off ((u.core core).read a len) else u := rfl

theorem xfer_stackToCore : u.xfer core (.stackToCore a off len) =
    if off + len ≤ u.radioStackSize then u.modCore core fun c => c.write a (u.radioStackRead off len) else u := rfl

/-- Beyond the bounds of an engine's scratchpad nothing moves. -/
theorem xfer_pad_of_beyond (h : u.radioPadRun core l off len = none) :
    u.xfer core (.coreToPad a l off len) = u ∧ u.xfer core (.padToCore a l off len) = u ∧
      u.xfer core (.stackToPad so l off len) = u ∧ u.xfer core (.padToStack l off so len) = u := by
  delta State.xfer
  simp [h]

theorem xfer_coreToPad (h : u.radioPadRun core l off len = some r) : u.xfer core (.coreToPad a l off len) =
    if u.notHeld r then u.wrRun r.1 ((u.core core).read a len) else u.xferWaits core (.coreToPad a l off len) := by
  delta State.xfer
  simp [h]

theorem xfer_padToCore (h : u.radioPadRun core l off len = some r) : u.xfer core (.padToCore a l off len) =
    if u.notHeld r then u.modCore core fun c => c.write a (u.rdRun r.1 len) else u.xferWaits core (.padToCore a l off len) := by
  delta State.xfer
  simp [h]

theorem xfer_stackToPad (h : u.radioPadRun core l off len = some r) (hso : so + len ≤ u.radioStackSize) :
    u.xfer core (.stackToPad so l off len) =
      if u.notHeld r then u.wrRun r.1 (u.radioStackRead so len) else u.xferWaits core (.stackToPad so l off len) := by
  delta State.xfer
  simp [h, hso]

theorem xfer_padToStack (h : u.radioPadRun core l off len = some r) (hso : so + len ≤ u.radioStackSize) :
    u.xfer core (.padToStack l off so len) =
      if u.notHeld r then u.radioStackWrite so (u.rdRun r.1 len) else u.xferWaits core (.padToStack l off so len) := by
  delta State.xfer
  simp [h, hso]

/-- Beyond the radio's stacked memory nothing moves, whatever the scratchpad allows. -/
theorem xfer_stackPad_of_beyond (h : u.radioStackSize < so + len) :
    u.xfer core (.stackToPad so l off len) = u ∧ u.xfer core (.padToStack l off so len) = u := by
  cases hr : u.radioPadRun core l off len <;> delta State.xfer <;> simp [hr, h]

theorem xfer_queueToCore_of_foreign (h : u.coreReads core q = false) : u.xfer core (.queueToCore q a) = u := by
  delta State.xfer
  simp [h]

theorem xfer_queueToCore_of_empty (h : u.coreReads core q = true) (hq : u.qHead q = [] ∨ u.qOn q = false) :
    u.xfer core (.queueToCore q a) = u.qRead q 1 := by
  delta State.xfer
  simp [h, hq]

theorem xfer_queueToCore_of_item (h : u.coreReads core q = true) (hne : u.qHead q ≠ []) (hon : u.qOn q = true) :
    u.xfer core (.queueToCore q a) =
      (u.takes q (u.qHead q).length).1.foldl (fun v (x : HeldItem) => v.modCore core fun c => c.write a x.bytes)
        ((u.usedBy q core).takeItems q (u.qHead q).length (.core core)) := by
  delta State.xfer
  simp [h, hne, hon]

theorem xfer_coreToQueue : u.xfer core (.coreToQueue a q len) =
    if u.qEgress q then u.putItem q 0 0 ((u.core core).read a len) (plainFrame ((u.core core).read a len)) false else u := rfl

theorem xfer_frameToQueue : u.xfer core (.frameToQueue q cell f) =
    if u.qEgress q then u.putItem q 0 (routeRadio cell 0) (u.compressFrame cell f).bytes (u.compressFrame cell f) false else u := rfl

theorem xfer_coreToHost_of_unbound (h : u.coreTb core = none) : u.xfer core (.coreToHost a len tag) = u := by
  delta State.xfer
  simp [h]

theorem xfer_coreToHost_of_bound {t : Nat} (h : u.coreTb core = some t) : u.xfer core (.coreToHost a len tag) =
    u.upRecord t 2 tag ((u.core core).evCell.get 0 ((u.core core).handler.getD 0)) 0 ((u.core core).read a len) := by
  delta State.xfer
  simp [h]

end

/-! ### UE_ACCESS_ARRIVAL (R276, R462) -/

section
variable {a : UeAccess} {bs : Bytes}

theorem exec_ueAccessArrival {y : Nat} (h : (s.radio.ueQueue.find? fun x => x.core = y) = some a) :
    exec (.ueAccessArrival y) s = .next (s.applyUe a) := by
  change execUeAccessArrival y s = _
  delta execUeAccessArrival
  rw [h]

theorem applyUe_of_refused (h : s.ueAllowed a.core a.index a.bytes.isSome = false) :
    s.applyUe a = (s.bump .ueRefused).ueOver a := by
  delta State.applyUe
  simp [h]

theorem applyUe_of_write (h : s.ueAllowed a.core a.index a.bytes.isSome = true) (hb : a.bytes = some bs) :
    s.applyUe a = ((s.setUe a.index (leNat bs)).dropBad (badUe a.index)).ueOver a := by
  delta State.applyUe
  rw [h, hb]
  rfl

/-- The descriptor as a read finds it: zeros, and a report, in the place of an uncorrectable word. -/
def State.ueRepaired (s : State) (idx : Nat) : State :=
  if s.isBad (badUe idx) then (((s.bump .ueTotal).fault 0x0106 4 10 0 0xFFFF idx).dropBad (badUe idx)).setUe idx 0 else s

theorem applyUe_of_read (h : s.ueAllowed a.core a.index a.bytes.isSome = true) (hb : a.bytes = none) (hu : s.ueRepaired a.index = u) :
    s.applyUe a = (u.modCore a.core fun c => c.write a.addr (leBytes 64 (u.radio.ue.get 0 a.index))).ueOver a := by
  delta State.applyUe
  rw [h, hb, ← hu]
  rfl

end

/-! ### HANDLER_ENTRY (R260, R261) -/

/-- The core is idle, in service and whole. -/
abbrev State.mayEnter (s : State) (core : Nat) : Prop :=
  (s.core core).handler = none ∧ (s.core core).rewriting = false ∧ bit s.dspService core = true ∧ s.power.vbbOut = false

theorem enterHandler_of_none (h : (s.core core).due = none) : s.enterHandler core = s := by
  delta State.enterHandler
  dsimp only
  rw [h]

theorem barred_iff : ((s.core core).handler.isSome || (s.core core).rewriting || !bit s.dspService core || s.power.vbbOut) = true ↔
    ¬ s.mayEnter core := by
  cases hidle : (s.core core).handler <;> simp [hidle, not_and_or, or_assoc, -not_and]

/-- The core as a handler of type `ty` for `n` events begins on it. -/
def DspCore.entered (c : DspCore) (ty n : Nat) : DspCore :=
  let d := { c with bk := c.bk + 4 }.settle
  let d := (((d.setG 1 (BitVec.ofNat 32 (d.evCell.get 0 ty))).setG 2 (BitVec.ofNat 32 (d.evSfn.get 0 ty))).setG 3
    (BitVec.ofNat 32 (d.evSlot.get 0 ty))).setG 4 (BitVec.ofNat 32 n)
  { d with
    handler := some ty
    pc := ty - 1
    loops := []
    entryBk := d.bk
    events := d.events.set 0 ty 0
    waitCk := if ty = 1 then none else d.waitCk }

/-- A handler begins where the core may enter one; a program swap that waits for the SLOT entry comes first. -/
theorem enterHandler_of_due {ty : Nat} (h : (s.core core).due = some ty) : s.enterHandler core =
    if s.mayEnter core then
      ((if ty = 2 ∧ s.swapDue core = true then s.swapProg core else s).entryFaults core ty ((s.core core).events.get 0 ty)).modCore
        core fun c => c.entered ty ((s.core core).events.get 0 ty)
    else s := by
  delta State.enterHandler
  dsimp only
  rw [h]
  dsimp only
  by_cases hmay : s.mayEnter core
  · rw [if_neg fun hb => barred_iff.1 hb hmay, if_pos hmay]
    simp only [Bool.and_eq_true, decide_eq_true_eq]
    rfl
  · rw [if_pos (barred_iff.2 hmay), if_neg hmay]

/-- Settles O22: what a core posts, queues or moves is said of the state in which its bundle issues, and then for each answer of the hub.
How events enter a handler, how a stall ends, what a queue's item and an up record hold, and that an XFER waits for a held byte are the
model's reading (log entries 8, 35, 41, 51, 78). -/
theorem coreHubCommandsComplete : Obligations.CoreHubCommandsComplete := by
  refine ⟨fun s core x h => ⟨?rd, ?wr, ?sync, ?halt, ?engq, ?code, ?xfer⟩,
    fun u core l cell bs => ⟨engq_of_foreign, fun hs hf => ?engqFull, fun hs hf => ?engqRoom⟩,
    fun u core bs => ⟨fun r => submitJob_of_fault, fun hn hf => ?codeFull, fun hn hf => ?codeRoom⟩,
    fun u core a off len => ⟨fun ho => ?stack, fun l r hr => ?pad⟩,
    fun u core a off len so l => ⟨fun ho => ?stackBeyond, xfer_pad_of_beyond, xfer_stackPad_of_beyond⟩,
    fun u core a q len tag cell f => ⟨xfer_queueToCore_of_foreign, xfer_queueToCore_of_empty, xfer_queueToCore_of_item,
      fun he => ?egress, fun he => ?noEgress, xfer_coreToHost_of_unbound, fun t => xfer_coreToHost_of_bound⟩,
    fun s a ha => ?arrival, fun s core => ?entry⟩
  case rd => exact fun i a => issued_of_issueWith h rfl
  case wr => exact fun i a => issued_of_issueWith h rfl
  case sync => exact issued_later h rfl fun w _ _ hck => by rw [hck]
  case halt => exact issued_later h rfl fun w hw _ _ => leaveHandler_of_runs hw
  case engq => exact fun l cell a => issued_of_issueWith h rfl
  case code => exact fun a => issued_of_issueWith h rfl
  case xfer =>
    obtain ⟨-, -, hdata⟩ := id h
    refine fun o => issued_later h rfl fun w _ htier _ => xferNow_of_noneBad fun a => ?_
    rw [State.isBad, htier]
    exact hdata a
  case engqFull => exact (engq_of_served hs).trans (if_pos hf)
  case engqRoom => exact (engq_of_served hs).trans (if_neg hf)
  case codeFull => exact (submitJob_of_faultless hn).trans (if_pos hf)
  case codeRoom => exact (submitJob_of_faultless hn).trans (if_neg hf)
  case stack => exact ⟨xfer_coreToStack.trans (if_pos ho), xfer_stackToCore.trans (if_pos ho)⟩
  case stackBeyond =>
    exact ⟨xfer_coreToStack.trans (if_neg (not_le.2 ho)), xfer_stackToCore.trans (if_neg (not_le.2 ho))⟩
  case pad =>
    refine ⟨fun hheld => ?_, fun hheld => ?_, fun so hso => ⟨fun hheld => ?_, fun hheld => ?_⟩⟩
    · have hn := Bool.eq_false_iff.1 hheld
      exact ⟨(xfer_coreToPad hr).trans (if_neg hn), (xfer_padToCore hr).trans (if_neg hn)⟩
    · have hn := Bool.eq_true_of_not_eq_false hheld
      exact ⟨(xfer_coreToPad hr).trans (if_pos hn), (xfer_padToCore hr).trans (if_pos hn)⟩
    · have hn := Bool.eq_false_iff.1 hheld
      exact ⟨(xfer_stackToPad hr hso).trans (if_neg hn), (xfer_padToStack hr hso).trans (if_neg hn)⟩
    · have hn := Bool.eq_true_of_not_eq_false hheld
      exact ⟨(xfer_stackToPad hr hso).trans (if_pos hn), (xfer_padToStack hr hso).trans (if_pos hn)⟩
  case egress => exact ⟨xfer_coreToQueue.trans (if_pos he), xfer_frameToQueue.trans (if_pos he)⟩
  case noEgress =>
    have hn := Bool.eq_false_iff.1 he
    exact ⟨xfer_coreToQueue.trans (if_neg hn), xfer_frameToQueue.trans (if_neg hn)⟩
  case arrival =>
    rw [exec_ueAccessArrival ha]
    exact ⟨fun hno => congrArg _ (applyUe_of_refused hno), fun hmay => ⟨fun bs hb => congrArg _ (applyUe_of_write hmay hb),
      fun hb hgood => congrArg _ (applyUe_of_read hmay hb (if_neg (Bool.eq_false_iff.1 hgood))),
      fun hb hbad => congrArg _ (applyUe_of_read hmay hb (if_pos hbad))⟩⟩
  case entry =>
    refine ⟨fun hno => congrArg Host.Outcome.next ?_, fun ty hdue hmay => congrArg Host.Outcome.next
      ((enterHandler_of_due hdue).trans (if_pos hmay))⟩
    cases hdue : (s.core core).due with
    | none => exact enterHandler_of_none hdue
    | some ty => exact (enterHandler_of_due hdue).trans (if_neg (hno.resolve_left (by simp [hdue])))

end Sys2Proof.Machine
end

section
/-! O23: a core's program pages: the load, the commit, the swap and the rewriting of a page (R262, R263, R285, R462). -/

open Sys2Proof.Claims

namespace Sys2Proof.Machine

variable {s : State} {core m : Nat} {v d : Bytes}

/-! ### PROG_LOAD_DATA and PROG_COMMIT -/

theorem exec_progLoadData (hc : core < 96) :
    exec (.progLoadData m core v) s = .next (s.writeOctets m .progLoadData core v (State.progLoad core v)) :=
  congrArg _ (if_pos hc)

theorem exec_progCommit (hc : core < 96) :
    exec (.progCommit m core d) s = .next (s.writeOctets m .progCommit core d (State.progCommit core d)) :=
  congrArg _ (if_pos hc)

theorem progLoadData_sizeOk (hlo : 16 ≤ v.length) (hhi : v.length ≤ 1024) (hmod : v.length % 16 = 0) :
    Reg.sizeOk .progLoadData v.length = true := by
  simp [Reg.sizeOk, Reg.progLoadData, hlo, hhi, hmod]

theorem progLoad_of_beyond (h : 65536 < s.reg .progLoadOffset core + v.length) : State.progLoad core v s = .error 0x8010 :=
  if_pos h

theorem progLoad_of_pending (h : s.reg .progLoadOffset core + v.length ≤ 65536) (hp : (s.core core).pendingDigest ≠ none) :
    State.progLoad core v s = .error 0x8012 :=
  (if_neg (not_lt.2 h)).trans (if_pos (Option.isSome_iff_ne_none.2 hp))

theorem progLoad_of_free (h : s.reg .progLoadOffset core + v.length ≤ 65536) (hp : (s.core core).pendingDigest = none) :
    State.progLoad core v s = .ok ((s.modCore core fun c => { c with
      code := c.code.setRun 0 ((1 - c.active) * 65536 + s.reg .progLoadOffset core) v
      loaded := if s.reg .progLoadOffset core = 0 then v.length else max c.loaded (s.reg .progLoadOffset core + v.length) }).setReg
        .progLoadOffset (s.reg .progLoadOffset core + v.length) core) :=
  (if_neg (not_lt.2 h)).trans (if_neg (by simp [hp]))

/-- The digest is that of the loaded image, and the allow list holds it. -/
abbrev State.programAllowed (s : State) (core : Nat) (d : Bytes) : Prop :=
  d = sha512 ((s.core core).code.run 0 ((1 - (s.core core).active) * 65536) (s.core core).loaded) ∧
    (pieces 64 16 (s.oct .programAllow)).contains d = true

theorem progCommit_of_pending (hp : (s.core core).pendingDigest ≠ none) : State.progCommit core d s = .error 0x8012 :=
  if_pos (Option.isSome_iff_ne_none.2 hp)

/-- Without a commit pending, the digest decides. -/
theorem progCommit_of_free (hp : (s.core core).pendingDigest = none) : State.progCommit core d s =
    if s.programAllowed core d then .ok ((s.setOct .progCommit d core).modCore core fun c => { c with pendingDigest := some d })
    else .error 0x8014 := by
  refine (if_neg (by simp [hp])).trans ?_
  by_cases hgood : s.programAllowed core d
  · rw [if_pos hgood, if_neg]
    simpa [State.programAllowed] using hgood
  · rw [if_neg hgood, if_pos]
    simpa [State.programAllowed, or_iff_not_imp_left] using hgood

/-! ### PROG_SWAP (R263) -/

/-- The time of the swap has come, and the core stands where its page may change. -/
abbrev State.maySwap (s : State) (core : Nat) : Prop :=
  s.swapDue core = true ∧ (s.swapFree core = true ∨ ((s.core core).due = some 2 ∧ (s.core core).handler = none))

theorem exec_progSwap : exec (.progSwap core) s = .next (if s.maySwap core then s.swapProg core else s) := by
  change execProgSwap core s = _
  delta execProgSwap
  simp only [Bool.and_eq_true, Bool.or_eq_true, decide_eq_true_eq]

theorem swapProg_of_pending (h : (s.core core).pendingDigest = some d) : s.swapProg core =
    (s.setOct .progDigest d core).modCore core fun c => { c with active := 1 - c.active, pendingDigest := none, loaded := 0 } := by
  delta State.swapProg
  rw [h]

/-! ### PROGRAM_REWRITE_DONE (R462) -/

/-- No uncorrectable word is left in the active page of the core. -/
def State.pageHealed (s : State) (core : Nat) : State :=
  let lo := badCode core ((s.core core).active * 65536)
  { s with tier := { s.tier with badWords := s.tier.badWords.filter fun w => !(decide (lo ≤ w) && decide (w < lo + 16384)) } }

theorem exec_programRewriteDone_of_idle (h : (s.core core).rewriting = false) : exec (.programRewriteDone core) s = .next s := by
  change execProgramRewriteDone core s = _
  delta execProgramRewriteDone
  simp [h]

theorem exec_programRewriteDone_of_rewriting (h : (s.core core).rewriting = true) : exec (.programRewriteDone core) s =
    .next ((s.pageHealed core).modCore core fun c => { c with rewriting := false }) := by
  change execProgramRewriteDone core s = _
  delta execProgramRewriteDone
  dsimp only
  rw [h]
  rfl

/-- The words of a page lie in one run of keys. -/
theorem pageHealed_isBad {a : Nat} (h : a < 65536) :
    (s.pageHealed core).isBad (badCode core ((s.core core).active * 65536 + a / 8 * 8)) = false := by
  have hlo : badCode core ((s.core core).active * 65536) ≤ badCode core ((s.core core).active * 65536 + a / 8 * 8) := by
    unfold badCode
    omega
  have hhi : badCode core ((s.core core).active * 65536 + a / 8 * 8) < badCode core ((s.core core).active * 65536) + 16384 := by
    unfold badCode
    omega
  simp [State.isBad, State.pageHealed, hlo, hhi]

/-- Settles O23, by what each command answers. That a core may swap at once where it had no window (`swapFree`), and that a load at offset 0
begins the image again, are the model's reading (log entry 78 for the former). -/
theorem coreProgramCommandsComplete : Obligations.CoreProgramCommandsComplete := by
  refine ⟨fun s m core v hc hw hlo hhi hmod => ?load, fun s m core d hc hw hlen => ?commit, fun s core => ?swap, fun s core =>
    ⟨exec_programRewriteDone_of_idle, fun h => ⟨_, exec_programRewriteDone_of_rewriting h, fun a ha => pageHealed_isBad ha, rfl⟩⟩⟩
  case load =>
    have hi := exec_progLoadData (s := s) (m := m) (v := v) hc
    have hk := progLoadData_sizeOk hlo hhi hmod
    exact ⟨fun h => ignored_of_writeOctets hi hw hk (progLoad_of_beyond h),
      fun h hp => ignored_of_writeOctets hi hw hk (progLoad_of_pending h hp),
      fun h hp => taken_of_writeOctets hi hw hk (progLoad_of_free h hp)⟩
  case commit =>
    have hi := exec_progCommit (s := s) (m := m) (d := d) hc
    have hk : Reg.sizeOk .progCommit d.length = true := by rw [hlen]; decide
    exact ⟨fun hp => ignored_of_writeOctets hi hw hk (progCommit_of_pending hp),
      fun hp hbad => ignored_of_writeOctets hi hw hk ((progCommit_of_free hp).trans (if_neg hbad)),
      fun hp hgood => taken_of_writeOctets hi hw hk ((progCommit_of_free hp).trans (if_pos hgood))⟩
  case swap =>
    refine ⟨fun d hd hdue => ?_, fun hno => ?_⟩
    · rw [exec_progSwap, if_pos hdue, swapProg_of_pending hd]
    · rw [exec_progSwap, if_neg hno]

end Sys2Proof.Machine
end

section
/-! O24: coding and FFT jobs on their engines, and the end of a cell's move (R264 to R270, R281, R369, R425, R462). -/

open Sys2Proof.Claims

namespace Sys2Proof.Machine

variable {s : State} {die op slot k cell : Nat} {j : Job} {i : Instr}

/-! ### An engine takes a job (R266, R267) -/

/-- The coding and FFT commands of a die, with the OP of the jobs each takes. -/
def coderRows (die : Nat) : List (Instr × Nat) :=
  [(.ldpcDecode die, 1), (.ldpcEncode die, 2), (.polarDecode die, 3), (.polarEncode die, 4), (.fft die, 0x10), (.inverseFft die, 0x11)]

theorem exec_coderRow (hdie : die < 2) (hi : (i, op) ∈ coderRows die) : exec i s = .next (s.takeJob die op) := by
  delta coderRows at hi
  simp only [List.mem_cons, Prod.mk.injEq, List.not_mem_nil, or_false] at hi
  obtain ⟨rfl, rfl⟩ | ⟨rfl, rfl⟩ | ⟨rfl, rfl⟩ | ⟨rfl, rfl⟩ | ⟨rfl, rfl⟩ | ⟨rfl, rfl⟩ := hi
  all_goals exact congrArg _ (if_pos hdie)

/-- The first free engine of a die that serves an OP. -/
def State.freeSlot (s : State) (die op : Nat) : Option Nat :=
  ((List.range (coderSlots op).2).map fun i => die * 32 + (coderSlots op).1 + i).find? fun k => s.radio.running.get none k = none

/-- A job combines with what its soft buffer holds. -/
def jobCombines (op w : Nat) : Bool := decide (op = 1) && jobCombine w

/-- The uncorrectable words of the soft buffer that a job combines with. -/
def State.jobSoftBads (s : State) (op w : Nat) : List Nat :=
  if jobCombines op w then s.radioStackBads (jobSoft w * 4096) (softBytes w) else []

/-- What a job finds as its engine takes it: a base-graph set that waits for an LDPC decode is current, and an uncorrectable word of its
soft buffer is reported. -/
def State.jobBegins (s : State) (op w : Nat) : State :=
  let v := if op = 1 then s.ldpcSwitch else s
  match v.jobSoftBads op w with
  | a :: _ => v.badRecord 0x0105 4 a
  | [] => v

/-- A job on engine `k`, with what its operation gives on its input and soft buffer. -/
def State.jobStarted (s : State) (op : Nat) (j : Job) (k : Nat) : State :=
  let w := j.word
  let v := s.jobBegins op w
  let r := runJob j v.radio.ldpcSet ((v.core j.core).read (jobIn w) (jobInBytes w))
    (if jobCombines op w then v.radioStackRead (jobSoft w * 4096) (softBytes w) else []) v.ck
  let x := v.unstage j
  { x with radio := { x.radio with running := x.radio.running.set none k (some r) } }

/-- Engine `k` takes a job: too late, with an uncorrectable word in its input, or to run it. -/
def State.jobTaken (s : State) (op : Nat) (j : Job) (k : Nat) : State :=
  let w := j.word
  if s.slack w * 11 < (worstBk w : Int) * 10 then (s.unstage j).endJob j 2 0 0
  else match s.badRun j.core [(jobIn w, jobInBytes w)] with
    | some a => s.dataFault j.core a
    | none => s.jobStarted op j k

theorem takeJob_of_none (h : (s.stageJobs die).nextJob die op = none) : s.takeJob die op = s.stageJobs die := by
  delta State.takeJob
  dsimp only
  rw [h]

theorem takeJob_of_other (hj : (s.stageJobs die).nextJob die op = some j) (hop : jobOp j.word ≠ op) :
    s.takeJob die op = s.stageJobs die := by
  delta State.takeJob
  dsimp only
  rw [hj]
  exact if_pos hop

theorem takeJob_of_busy (hj : (s.stageJobs die).nextJob die op = some j) (hfree : (s.stageJobs die).freeSlot die op = none) :
    s.takeJob die op = s.stageJobs die := by
  by_cases hop : jobOp j.word = op
  · delta State.takeJob
    dsimp only
    rw [hj]
    refine (if_neg (not_not.2 hop)).trans ?_
    delta State.freeSlot at hfree
    rw [hfree]
  · exact takeJob_of_other hj hop

theorem takeJob_of_free (hj : (s.stageJobs die).nextJob die op = some j) (hop : jobOp j.word = op)
    (hfree : (s.stageJobs die).freeSlot die op = some k) : s.takeJob die op = (s.stageJobs die).jobTaken op j k := by
  delta State.takeJob
  dsimp only
  rw [hj]
  refine (if_neg (not_not.2 hop)).trans ?_
  delta State.freeSlot at hfree
  rw [hfree]
  rfl

theorem jobTaken_of_late (h : s.slack j.word * 11 < (worstBk j.word : Int) * 10) :
    s.jobTaken op j k = (s.unstage j).endJob j 2 0 0 := if_pos h

theorem jobTaken_of_badInput {a : Nat} (h : (worstBk j.word : Int) * 10 ≤ s.slack j.word * 11)
    (hbad : s.badRun j.core [(jobIn j.word, jobInBytes j.word)] = some a) : s.jobTaken op j k = s.dataFault j.core a := by
  refine (if_neg (not_lt.2 h)).trans ?_
  rw [hbad]

theorem jobTaken_of_goodInput (h : (worstBk j.word : Int) * 10 ≤ s.slack j.word * 11)
    (hgood : s.badRun j.core [(jobIn j.word, jobInBytes j.word)] = none) : s.jobTaken op j k = s.jobStarted op j k := by
  refine (if_neg (not_lt.2 h)).trans ?_
  rw [hgood]

/-! ### CODER_JOB_END and JOB_DEADLINE_PASSED (R265, R266, R281) -/

theorem exec_coderJobEnd_of_idle (h : s.radio.running.get none (die * 32 + slot) = none) :
    exec (.coderJobEnd die slot) s = .next s := by
  change execCoderJobEnd die slot s = _
  delta execCoderJobEnd
  rw [h]

theorem exec_coderJobEnd_of_running {r : Running} (hslot : slot < 32)
    (h : s.radio.running.get none (die * 32 + slot) = some r) :
    exec (.coderJobEnd die slot) s = .next (s.finishJob (die * 32 + slot) r) := by
  change execCoderJobEnd die slot s = _
  delta execCoderJobEnd
  rw [h]
  exact congrArg _ (if_pos hslot)

/-- The job at a place in a die's staging. -/
def State.stagedAt (s : State) (die slot : Nat) : Option Job := (s.radio.staged.filter fun j => j.die = die)[slot]?

theorem exec_jobDeadlinePassed_of_none (hdie : die < 2) (h : (s.stageJobs die).stagedAt die slot = none) :
    exec (.jobDeadlinePassed die slot) s = .next (s.stageJobs die) := by
  change execJobDeadlinePassed die slot s = _
  delta State.stagedAt at h
  delta execJobDeadlinePassed
  rw [if_pos hdie]
  dsimp only
  rw [h]

/-- A staged job is ended where it still waits for its soft buffer past its deadline. -/
theorem exec_jobDeadlinePassed_of_staged (hdie : die < 2) (h : (s.stageJobs die).stagedAt die slot = some j) :
    exec (.jobDeadlinePassed die slot) s = .next
      (if (s.stageJobs die).eligible j = false ∧ (s.stageJobs die).slack j.word < 0
        then ((s.stageJobs die).unstage j).endJob j 2 0 0 else s.stageJobs die) := by
  change execJobDeadlinePassed die slot s = _
  delta State.stagedAt at h
  delta execJobDeadlinePassed
  rw [if_pos hdie]
  dsimp only
  rw [h]
  simp only [Bool.and_eq_true, Bool.not_eq_true', decide_eq_true_eq]

/-! ### MOVE_TAIL_END (R281, R425) -/

/-- The cell moves, and MOVE_TAIL_US is over. -/
abbrev State.tailDue (s : State) (cell : Nat) : Prop :=
  (s.cell cell).moving = true ∧ (s.cell cell).moveCk + s.reg .moveTailUs * 825 ≤ s.ck

theorem exec_moveTailEnd_of_early (h : ¬ s.tailDue cell) : exec (.moveTailEnd cell) s = .next s := by
  refine if_pos ?_
  simpa [State.tailDue, or_iff_not_imp_left] using h

theorem exec_moveTailEnd_of_due (h : s.tailDue cell) : exec (.moveTailEnd cell) s =
    if s.leaving cell then .next ((((s.setReg .cellCfg (setBit (s.cellCfg cell) 31 false) cell).clearCell cell).modCell cell
      fun x => { x with move := none, moving := false, landed := 0 }).disableCell cell)
    else .next (s.modCell cell fun x => { x with move := none, moving := false, landed := 0 }) := by
  refine if_neg ?_
  simp [h.1, h.2]

/-- Settles O24: a die's engine takes the job that is due as `jobTaken` says; what a job's operation gives is `jobOut`, over the free tables
of the coders (log entry 19); the order of staging and the layout of soft buffers are the model's reading (log entry 36). -/
theorem coderCommandsComplete : Obligations.CoderCommandsComplete := by
  refine ⟨fun s die op i hi hdie => ⟨fun h => ?idle, fun j hj => ⟨fun hop => ?other, fun k hop hfree => ⟨fun hlate => ?late,
      fun htime => ⟨fun a hbad => ?bad, fun hgood => ?starts⟩⟩⟩⟩,
    fun s die slot hslot => ⟨exec_coderJobEnd_of_idle, fun r => exec_coderJobEnd_of_running hslot⟩,
    fun s die slot hdie => ⟨exec_jobDeadlinePassed_of_none hdie, fun j hj => ⟨fun hel hs => ?passed, fun hno => ?kept⟩⟩,
    fun s cell => ⟨fun hdue hl => ?arrives, fun hdue hl => ?leaves, exec_moveTailEnd_of_early⟩⟩
  case idle =>
    rw [exec_coderRow hdie hi]
    cases hj : (s.stageJobs die).nextJob die op with
    | none => rw [takeJob_of_none hj]
    | some j => rw [takeJob_of_busy hj (h.resolve_left (by simp [hj]))]
  case other => rw [exec_coderRow hdie hi, takeJob_of_other hj hop]
  case late => rw [exec_coderRow hdie hi, takeJob_of_free hj hop hfree, jobTaken_of_late hlate]
  case bad => rw [exec_coderRow hdie hi, takeJob_of_free hj hop hfree, jobTaken_of_badInput htime hbad]
  case starts =>
    rw [exec_coderRow hdie hi, takeJob_of_free hj hop hfree, jobTaken_of_goodInput htime hgood]
    rfl
  case passed => rw [exec_jobDeadlinePassed_of_staged hdie hj, if_pos ⟨hel, hs⟩]
  case kept =>
    rw [exec_jobDeadlinePassed_of_staged hdie hj, if_neg]
    rintro ⟨hel, hs⟩
    exact hno.elim (fun h => by simp [hel] at h) (not_le.2 hs)
  case arrives => rw [exec_moveTailEnd_of_due hdue, hl, if_neg Bool.false_ne_true]
  case leaves => rw [exec_moveTailEnd_of_due hdue, hl, if_pos rfl]

end Sys2Proof.Machine
end
